-- ==== Sys2Proof/Word.lean ====
section
/-! DEFINITION. The word types of the machine: bytes, 32-bit instruction words, 64-bit values and
80-bit register values (spec/00_scope.md, Table 0-3). -/

namespace Sys2Proof

/-- One byte of memory. -/
abbrev Byte := BitVec 8

/-- One 32-bit instruction word (R37). -/
abbrev Word32 := BitVec 32

/-- A 64-bit value (R13, `Val`). -/
abbrev Val64 := BitVec 64

/-- An 80-bit register value: tag [79:64], value [63:0] (R29). -/
abbrev Reg80 := BitVec 80

end Sys2Proof
end

