-- ==== Sys2Proof/Syntax.lean ====
section
/-! DEFINITION. The syntax of the machine: operand forms, the payloads of the events, and `Instr`, one
constructor for each row of spec/opcode_table.json: 347 words and 113 events. -/

namespace Sys2Proof

/-- The lone bit L and the guard G that every word carries (R37, R40). -/
structure Hdr where
  lone : Bool
  guard : BitVec 4
  deriving DecidableEq, Repr

/-- A source of the short source space of an A-word (R48, Table 2-7). -/
inductive ASrc where
  | g (n : Fin 24)
  | iaR | ibR | faR
  | ls (lane : Fin 4)
  | vxS
  | q (j : Fin 8)
  | v (n : Fin 8)
  | imm (c : BitVec 6)
  deriving DecidableEq, Repr

/-- A source of a C-word: a port of Table 2-5 or a signed 11-bit immediate (R41, R43). -/
inductive CSrc where
  | g (n : Fin 24)
  | pw | vt | pc | zero
  | iaR | ibR | faR
  | vxS | mxSt
  | ls (lane : Fin 4)
  | atR
  | ceC | ceSt
  | sqR | sqSt
  | syR
  | q (j : Fin 8)
  | sr (r : Fin 21)
  | imm (s : BitVec 11)
  deriving DecidableEq, Repr

/-- The prefix fields of `vpfx` (R49, Table 2-8a): `mask` 0 none, 1-4 k0-k3; `rm` 0-6. -/
structure Prefix where
  mask : Fin 5
  mz : Bool
  rm : Fin 7
  x : Bool
  v4 : Fin 8
  sat : Bool
  deriving DecidableEq, Repr

/-- The atomic operations of Table 9-4 (R222); `red.*` forms carry a flag beside these. -/
inductive AtOp where
  | add32 | add64 | fadd32 | fadd16b
  | min32 | max32 | minu32 | maxu32
  | and64 | or64 | xor64 | swp64 | cas64 | finc
  deriving DecidableEq, Repr

/-- Who sends a remote effect message (R218, R248, R341): a strand, a core's engine or a host queue. -/
inductive Origin where
  | strand (sid : Nat)
  | engine (ck : Nat)
  | host (q : Nat)
  deriving DecidableEq, Repr

/-- Where a remote effect message is executed (R225, R228): a group, a rim channel, or another module
of the load-store domain (R178). -/
inductive Owner where
  | group (gk : Nat)
  | channel (c : Nat)
  | module (m : Nat)
  deriving DecidableEq, Repr

/-- A record of the token pool: a token, its next serial and its floor (R221). -/
structure TokRec where
  token : BitVec 40
  sn : BitVec 32
  floor : BitVec 32
  deriving DecidableEq, Repr

/-- A request for an atomic set (R296, R297): the asking strand, its task's record and age stamp, the
set number, the flat lines it covers and its home. -/
structure SetReq where
  sid : Nat
  core : Nat
  record : Nat
  age : Nat
  token : Nat
  set : Fin 8
  lines : List Nat
  home : Owner
  deriving DecidableEq, Repr

/-- A store to the replicated window on its way to the Cascade sequencer (R181): `data` in order over some pieces of the
replicas, each the number of its first byte and its length. -/
structure ReplStore where
  sid : Nat
  seq : Nat
  places : List (Nat × Nat)
  data : List (BitVec 8)
  poison : Bool
  deriving DecidableEq, Repr

/-- An access that another module of the domain makes to this module (R172, R178): `size` bytes at
each of some offsets, tile-direct ones where `tile` says so, rim offsets otherwise; `peer` is the partition of this module that is
paired with the one it comes from (R324, R343). A write has a mark for each 8-byte word of its bytes, or one for all, and adds
FP32 elements where `add` says so (R212, R242). `count` names a barrier of the core that is written: it counts the bytes, or goes to POISON
(R244). -/
structure ModAccess where
  fromModule : Nat
  peer : Nat
  tok : Nat
  sn : Nat
  floor : Nat
  tile : Bool
  offs : List Nat
  size : Nat
  write : Option (List (BitVec 8))
  atomic : Option (AtOp × BitVec 64 × BitVec 64)
  add : Bool
  marks : List Bool
  count : Option (Nat × Bool) := none
  deriving DecidableEq, Repr

/-- One line of an engine command at its destination (R239-R244): `addr` is a flat address, `data` the
bytes, `marks` the poison marks of its 8-byte words, `add` that the bytes are FP32 addends, `count` the
barrier that counts the bytes. -/
structure Delivery where
  core : Nat
  cmd : Nat
  line : Nat
  addr : Nat
  data : List (BitVec 8)
  marks : List Bool
  add : Bool
  count : Option (Nat × Nat)
  deriving DecidableEq, Repr

/-- The operation a remote effect message carries (R218). `expand` and `release` are what a distributor and a task do at a core
or lock table without a message: they stand in logs only (R372). -/
inductive RemoteOp where
  | atomic (op : AtOp) (red : Bool) (addr : Nat) (o x : BitVec 64) (mark : Bool) (log : Bool)
  | push (ck qual idx : Nat) (v : BitVec 64) (mark : Bool)
  | pop (ck qual idx : Nat) (take user : Bool) (claim : Option (Nat × Nat))
  | dec (ck idx : Nat)
  | arrive (ck bar : Nat) (bytes : Option Nat)
  | spawn (hdr : List (BitVec 8)) (ck : Nat)
  | acquire (q : SetReq)
  | deliver (d : Delivery)
  | inbox (ck : Nat) (data : List (BitVec 32)) (marks : List Bool)
  | down (ck : Nat) (data : List (BitVec 32)) (marks : List Bool) (bar off : Nat)
  | poisonNotice (ck bar : Nat)
  | commit (sid : Nat) (writes : List (Nat × List (BitVec 8) × Bool))
  | commitAt (sid : Nat)
  | repl (pid : Nat) (st : ReplStore)
  | module (acc : ModAccess)
  | expand (ck rec : Nat) (data : List (BitVec 8))
  | release (home : Owner) (ck rec : Nat) (stamp : Nat × Nat) (set : Fin 8)
  | wound (ck rec : Nat)
  | kill (sid : Nat)
  deriving DecidableEq, Repr

/-- A remote effect message (R218, R220): its origin and the origin's own request number, the requester
token, serial and floor, the owner and the operation. -/
structure Msg where
  origin : Origin
  seq : Nat
  tok : BitVec 40
  sn : BitVec 32
  floor : BitVec 32
  owner : Owner
  op : RemoteOp
  deriving DecidableEq, Repr

/-- What a reply carries back (R228, R287, R288, R299): a value with its poison mark, the outcome code
of a queue operation, the queue's indices, the old line of a logged atomic or the bytes of a read, and the marks of a read's
8-byte words. -/
structure Reply where
  value : BitVec 64
  mark : Bool
  code : Nat
  head : Nat
  tail : Nat
  old : List (BitVec 8)
  marks : List Bool
  deriving DecidableEq, Repr

/-- A firmware image as the boot ROM reads it (R344): its kind, bytes and signature. -/
structure FirmwareImage where
  kind : BitVec 32
  bytes : List (BitVec 8)
  signature : List (BitVec 8)
  deriving DecidableEq, Repr

/-- What a self-test finds in a region (R16, R316): the groups whose matrix array passes, those whose router passes, the positions
that pass (five of each group), and the ageing count of each group. -/
structure RegionTest where
  region : Nat
  arrays : BitVec 36
  routers : BitVec 36
  positions : BitVec 180
  counts : List Nat
  deriving DecidableEq, Repr

/-- What a self-test finds. -/
structure SelfTestReport where
  regions : List RegionTest
  deriving DecidableEq, Repr

/-- What the controller of another module says of its partition in a load-store domain (R343): the module's number, the masks and
partition number of its descriptor, and its world. -/
structure DomainPeer where
  dmod : Nat
  dmask : BitVec 8
  dpeer : Nat
  secure : Bool
  deriving DecidableEq, Repr

/-- The controllers of the modules of a domain agree (R343): a partition of this module, and what the others say of theirs. -/
structure DomainJoin where
  pid : Nat
  peers : List DomainPeer
  deriving DecidableEq, Repr

/-- What the host gives a command queue in BAR0 (R340, R341): the base and size of the ring, the secure partition for which the mailbox
has authorised the queue, and the head. -/
structure HostBell where
  base : Nat
  size : Nat
  world : Option Nat
  head : Nat
  deriving DecidableEq, Repr

/-- A committed store to the system window (R326): qualifier, offset, bytes, and the store's own place. -/
structure SysStore where
  qq : Nat
  off : Nat
  data : List (BitVec 8)
  fpc : Nat
  second : Bool
  deriving DecidableEq, Repr

/-- A unit with coded arrays of its own (R348, R364): a physical core, numbered (region × 36 + group) × 8 + position, or a
physical group, numbered region × 36 + group. -/
inductive ErrUnit where
  | core (place : Nat)
  | group (place : Nat)
  deriving DecidableEq, Repr

/-- A disturbed cell of a coded array (R348-R350): the unit, the array and the bank; whether it lies in the bank's parity store; its
physical row there and its place in that row. -/
structure Disturbance where
  unit_ : ErrUnit
  array : Nat
  bank : Nat
  par : Bool
  row : Nat
  cell : Nat
  deriving DecidableEq, Repr

/-- A check of Table 14-4 that failed: the physical core, the unit, the detail and the lane (R359). -/
structure CheckFail where
  place : Nat
  unit_ : Nat
  detail : Nat
  lane : Nat
  deriving DecidableEq, Repr

/-- Why Basin recovers a group (R374, Table 15-9). -/
inductive FailReason where
  | coreFatal (ck : Nat)
  | array
  | unreachable
  | failCommand (ck : Nat)
  deriving DecidableEq, Repr

/-- The operand fields of a Basin command word with the region it was written in (Table 15-6). -/
structure BasinCmd where
  region : Nat
  core : Nat
  group : Nat
  pos : Nat
  deriving DecidableEq, Repr

/-- A record of a core's log (R372, Table 15-3). -/
inductive LogRec where
  | chunk (strand : Nat) (len : Nat)
  | arrayOrder (seat : Nat) (cmd : Nat)
  | time (strand : Nat) (v : BitVec 64)
  | reply (strand : Nat) (sn : BitVec 32) (r : Reply)
  | remoteLine (line : Nat) (data : List (BitVec 8))
  | incoming (m : Msg) (r : Reply)
  deriving DecidableEq, Repr

/-- The instructions and events of the machine, one constructor per row of the opcode table. -/
inductive Instr where
  /-- ILLEGAL_WORD (R52): Issue of an illegal pair or word freezes the strand with cause illegal word before any effect. -/
  | illegalWord
  /-- FIXED_RESULT_VISIBLE (R31): A fixed-latency result lands in its unit's result latch after Lat of the strand's bundles, in trigger order. -/
  | fixedResultVisible (sid : Nat)
  /-- VARIABLE_RESULT_LAND (R34): A variable-latency result or acknowledgment lands, ending a stalled-LA wait at the window's end. -/
  | variableResultLand (sid seq : Nat)
  /-- LEASE_GRANT (R147): The free lease is granted to the next requesting seat in cyclic order. -/
  | leaseGrant (gk : Nat)
  /-- LEASE_IDLE_LIMIT (R147): After 4,096 cycles without a holder command while requests wait, the lease ends and IDLEX is set. -/
  | leaseIdleLimit (gk : Nat)
  /-- MX_COMMAND_ACCEPT (R150): A command reaches the array's queue when its chunk commits and a queue place is free. -/
  | mxCommandAccept (gk : Nat)
  /-- MX_COMMAND_EXECUTE (R151): The array starts the next accepted command once the previous one has finished. -/
  | mxCommandExecute (gk : Nat)
  /-- CE_PUSH_ACCEPT (R238): A waiting push is accepted once earlier chunks commit and FIFO and scoreboard room exist. -/
  | cePushAccept (sid : Nat)
  /-- CE_COMMAND_START (R210): The engine begins the next command of its FIFO in push order. -/
  | ceCommandStart (ck : Nat)
  /-- CE_LINE_DELIVERY (R239): A line written by an engine reaches its destination owner and takes its place in the order. -/
  | ceLineDelivery (ck cmd line : Nat)
  /-- CE_REDUCE_LINE (R242): A line of adds from redf or redb executes at the destination owner. -/
  | ceReduceLine (ck cmd line : Nat)
  /-- CE_POISON_NOTICE (R244): A receiving barrier goes to POISON on an engine's poison notice. -/
  | cePoisonNotice (ck bar : Nat)
  /-- COPYQ_MESSAGE_PUSH (R243): After the last line is acknowledged, the copyq message is pushed to its queue. -/
  | copyqMessagePush (ck cmd : Nat)
  /-- CE_COMMAND_COMPLETE (R245): A command completes or ends in error and posts its ce.c element where required. -/
  | ceCommandComplete (ck cmd : Nat)
  /-- STRAND_CONTROL_ACT (R270): A committed sstop, sgo, ssave, sload or resume acts on its target, checking target state then. -/
  | strandControlAct (sid : Nat)
  /-- STREAM_ELEMENT_ARRIVAL (R189): A read-ahead stream element arrives in the engine buffer, waking a stalled-stream strand. -/
  | streamElementArrival (sid : Nat) (j : Fin 8)
  /-- CHUNK_LENGTH_REACHED (R194): The chunk reaches chl.LEN bundles and ends. -/
  | chunkLengthReached (sid : Nat)
  /-- WEIR_COMMIT_REQUEST (R201): A slice decides a chunk's commit request and makes its stores visible. -/
  | weirCommitRequest (sid : Nat)
  /-- WEIR_PREPARE (R202): A slice accepts a multi-owner chunk's prepare in key order. -/
  | weirPrepare (sid : Nat)
  /-- EFFECT_ISSUE (R207): An effect issues once every earlier chunk of its strand has committed. -/
  | effectIssue (sid : Nat)
  /-- FENCE_CHECK (R214): When its waits end, a fence faults poison if the pending error is set. -/
  | fenceCheck (sid : Nat)
  /-- TRANSLATION_WALK (R176): A page walk completes, delivering a translation or a late translation fault. -/
  | translationWalk (sid seq : Nat)
  /-- TLB_INVALIDATION_ARRIVAL (R334): An invalidation reaches a region, dropping entries and restarting walks. `src` is the strand that issued it
  and the number of its word. -/
  | tlbInvalidationArrival (rk pid : Nat) (off : Option Nat) (src : Nat × Nat)
  /-- CASCADE_NUMBERING (R181): The Cascade sequencer numbers a replicated store and multicasts it. -/
  | cascadeNumbering (pid : Nat) (st : ReplStore)
  /-- CASCADE_APPLY (R181): A region's replica applies a numbered replicated store in number order. -/
  | cascadeApply (pid rk : Nat)
  /-- REMOTE_MODULE_ACCESS (R178): A remote-module access arrives and is translated with the paired partition's tables. -/
  | remoteModuleAccess (acc : ModAccess)
  /-- REMOTE_EFFECT_MESSAGE (R228): A remote effect message arrives at an owner and is answered from the cache or executed once. -/
  | remoteEffectMessage (m : Msg)
  /-- REPLY_RESULT (R232): A result or acknowledgment completes a request at the requester. -/
  | replyResult (o : Origin) (seq : Nat) (r : Reply)
  /-- REPLY_BUSY (R229): A busy reply schedules a resend and requests an early boundary. -/
  | replyBusy (o : Origin) (seq : Nat)
  /-- REPLY_MOVED (R232): A moved reply causes an immediate resend along updated tables. -/
  | replyMoved (o : Origin) (seq : Nat)
  /-- REPLY_REFUSE (R233): A refusal faults the requesting strand late or ends an engine command in error. -/
  | replyRefuse (o : Origin) (seq : Nat) (cause : Nat)
  /-- RETRANSMIT_TIMEOUT (R232): After 64 µs without reply a request is resent, or refused no reply after the eighth send. -/
  | retransmitTimeout (o : Origin) (seq : Nat)
  /-- BUSY_RETRY_TIMER (R229): 2 µs after a busy reply the request is sent again. -/
  | busyRetryTimer (o : Origin) (seq : Nat)
  /-- OWNER_BUSY_LIMIT (R229): After 512 µs of busy replies the request is refused owner busy. -/
  | ownerBusyLimit (o : Origin) (seq : Nat)
  /-- FLOOR_NOTICE (R230): A floor notice retires a token's cache entries below its floor. -/
  | floorNotice (w : Owner) (tok floor : Nat)
  /-- STASH_REFILL_REQUEST (R221): A core's request for a token record reaches its region slice and is answered in order. -/
  | stashRefillRequest (ck : Nat)
  /-- STASH_REFILL_ANSWER (R221): A token record arrives at a core's stash, waking a stalled at.tok or sgo. -/
  | stashRefillAnswer (ck : Nat) (rec : TokRec)
  /-- REDUCTION_TAKE (R252): The reduction server takes the next contribution and adds it into the round's buffer. -/
  | reductionTake (ck : Nat)
  /-- REDUCTION_DOWNWARD_RECEIVE (R252): A node receives the downward sum, counts it and forwards it to its children. -/
  | reductionDownwardReceive (ck : Nat) (data : List (BitVec 32)) (marks : List Bool) (bar off : Nat)
  /-- REDUCTION_ROUND_END (R252): The round ends when the server's last send is acknowledged. -/
  | reductionRoundEnd (ck : Nat)
  /-- LAUNCH_EXPANSION (R261): The distributor expands a task of an accepted launch into its record, holding it until the record is FREE. -/
  | launchExpansion (pid rk : Nat)
  /-- LAUNCH_STALLED (R261): After 1 ms holding a task the distributor reports launch stalled. -/
  | launchStalled (pid rk : Nat)
  /-- WAIT_EXPIRED (R257): A bounded wait reaches its bound and faults wait expired, or wakes sy.mwait on its sy.l bound. -/
  | waitExpired (sid : Nat)
  /-- QUEUE_RETRY (R288): 2 µs after an EMPTY or FULL try, popw or pushw tries a remote queue again. -/
  | queueRetry (sid : Nat)
  /-- SLUICE_GOVERNOR_TICK (R293): Every 1 µs the governor reads stage occupancies and may move one core. -/
  | sluiceGovernorTick (rk : Nat)
  /-- SET_ACQUIRE_REQUEST (R297): A lock table decides a set acquire by age, granting, queueing or wounding. -/
  | setAcquireRequest (q : SetReq)
  /-- SET_GRANT (R296): A granted set reaches the task, which performs its access in a new chunk. -/
  | setGrant (sid : Nat) (set : Fin 8)
  /-- WOUND_ROLLBACK (R298): A wounded task, `run` being its record and its age stamp, is stopped, its undo log written back, its sets released and it restarts. -/
  | woundRollback (ck : Nat) (run : Nat × Nat × Nat)
  /-- SET_RELEASE (R297): A released set of the task `run`, its record and its age stamp, frees its entry and waiting requests are decided again. -/
  | setRelease (w : Owner) (ck : Nat) (run : Nat × Nat × Nat) (set : Fin 8)
  /-- DROOP_STRETCH (R304): A supply droop lengthens the region oscillator's period from the next cycle. -/
  | droopStretch (rk : Nat)
  /-- SUPPLY_RECOVERY (R304): The supply recovers and the period returns to 1/FMAX within 64 cycles. -/
  | supplyRecovery (rk : Nat)
  /-- TIME_REFERENCE_PULSE (R308): A 1 µs reference pulse corrects the region's shared time by slewing. -/
  | timeReferencePulse (rk t : Nat)
  /-- TIME_REFERENCE_LOST (R308): After 64 µs without a pulse the region reports time reference lost. -/
  | timeReferenceLost (rk : Nat)
  /-- ALARM_FIRE (R309): Shared time reaches DEADLINE and FIRED is set, waking sy.mwait. -/
  | alarmFire (sid : Nat)
  /-- BOUNDARY_FLIT_CROSSING (R310): A flit crosses a region boundary through the asynchronous FIFO in order. -/
  | boundaryFlitCrossing (link : Nat)
  /-- LINK_FLIT_CRC_ERROR (R358): A flit failing its CRC on a mesh link is sent again. -/
  | linkFlitCrcError (link : Nat)
  /-- SLIP (R313): A strand's next pair misses in the instruction cache and the strand enters slip. -/
  | slip (sid : Nat)
  /-- FETCH_FILL_ARRIVAL (R313): An instruction fill arrives and slipping strands become ready. -/
  | fetchFillArrival (ck line : Nat)
  /-- FETCH_RETRY_TIMEOUT (R313): An unanswered fill is resent after 64 µs, freezing with fetch no reply after 8 sends. -/
  | fetchRetryTimeout (sid : Nat)
  /-- MODULE_START (R344): Start-up: boot ROM verifies and measures firmware. -/
  | moduleStart (images : List FirmwareImage)
  /-- SELF_TEST (R16): The Igfel controller self-tests positions and groups and measures ageing oscillators. -/
  | selfTest (rep : SelfTestReport)
  /-- PARTITION_CREATE (R325): A partition descriptor in the mailbox is checked and the partition created or refused. -/
  | partitionCreate (desc sig : List (BitVec 8))
  /-- DOMAIN_AGREEMENT (R343): Controllers agree a load-store domain when its last partition is created. -/
  | domainAgreement (d : DomainJoin)
  /-- FAULT_RING_DELIVER (R327): When a HEAD store frees room, buffered packets are delivered in fault order. -/
  | faultRingDeliver (pid rk : Nat)
  /-- WRITE_FAULT_RING_BASE (R327): Writing a valid ring base word delivers packets waiting in the region buffer. -/
  | writeFaultRingBase (sid rk : Nat) (w : BitVec 64)
  /-- SYSTEM_WINDOW_STORE (R326): A system-window store to a word without its own row merges at chunk commit, faulting late on a field breach. -/
  | systemWindowStore (sid : Nat) (st : SysStore)
  /-- DEBUG_RESUME (R330): Debug control command resume returns a frozen strand, optionally ending its chunk. -/
  | debugResume (sid : Nat) (endChunk : Bool)
  /-- DEBUG_STEP (R278): Debug control command step issues exactly one bundle as its own chunk. -/
  | debugStep (sid : Nat)
  /-- DEBUG_KILL (R330): Debug control command kill ends the strand's task and frees its record. -/
  | debugKill (sid : Nat)
  /-- PREEMPT_REQUEST (R337): The controller asks a partition to yield and distributors stop expanding. -/
  | preemptRequest (pid area : Nat)
  /-- PREEMPT_SAVE (R338): Once every strand is blocked and queues drained, strands stop and the state is saved. -/
  | preemptSave (pid : Nat)
  /-- PREEMPT_GRACE_EXPIRY (R337): After 200 µs incomplete, the pre-emption request is withdrawn and refused to the host. -/
  | preemptGraceExpiry (pid : Nat)
  /-- PARTITION_RESTORE (R339): A saved partition is rebound onto a rectangle and resumed, or refused. -/
  | partitionRestore (area rx ry : Nat)
  /-- HOST_DOORBELL (R341): The host rings a command queue's head doorbell. The base and the size of its ring as they stand in BAR0, and
  the secure partition for which the mailbox has authorised it, come with the bell (log 21). -/
  | hostDoorbell (q : Fin 8) (bell : HostBell)
  /-- HOST_CMD_LAUNCH (R341): Command processor launch of a header to the distributors. -/
  | hostCmdLaunch (q : Fin 8)
  /-- HOST_CMD_COPY (R341): Command processor copy within the partition's windows. -/
  | hostCmdCopy (q : Fin 8)
  /-- HOST_CMD_SIGNAL (R341): Command processor writes 8 bytes to partition or host memory. -/
  | hostCmdSignal (q : Fin 8)
  /-- HOST_CMD_WAIT (R341): Command processor waits on a word comparison. -/
  | hostCmdWait (q : Fin 8)
  /-- HOST_WAIT_POLL (R341): Every 1 µs a wait command reads its word and completes when the comparison holds. -/
  | hostWaitPoll (q : Fin 8)
  /-- HOST_WAIT_LIMIT (R341): A wait reaching its limit halts the queue with code 5. -/
  | hostWaitLimit (q : Fin 8)
  /-- HOST_QUEUE_RESUME (R341): The host writes zero to a halted queue's status word and it resumes. -/
  | hostQueueResume (q : Fin 8)
  /-- ATTESTATION_REQUEST (R346): A nonce request makes the controller write a signed attestation report. -/
  | attestationRequest (nonce : List (BitVec 8)) (pid : Option Nat)
  /-- SCRUB_TICK (R354): Every 2^SCRUB cycles Basin checks one column group of each bank. -/
  | scrubTick (u : ErrUnit)
  /-- ERROR_FCLR (R364): Control bit FCLR clears the error Bloom filter. -/
  | errorFclr (u : ErrUnit)
  /-- ERROR_CCLR (R364): Control bit CCLR clears the error status counts. -/
  | errorCclr (u : ErrUnit)
  /-- WATCHDOG_FIRE (R360): The core watchdog expires after 2^WD cycles and raises core fatal. -/
  | watchdogFire (ck : Nat)
  /-- RIM_SCRUB (R362): A rim channel scrubs its next line, rewriting corrected lines and reporting repeats. -/
  | rimScrub (c : Fin 24)
  /-- BOUNDARY_START (R368): The interval timer or an early request starts a group boundary's quiesce. -/
  | boundaryStart (gk : Nat)
  /-- BOUNDARY_RECORD (R368): After quiesce, Basin writes the boundary record, resumes strands and starts transfer. -/
  | boundaryRecord (gk : Nat)
  /-- BOUNDARY_APPLY (R368): A buddy journals and writes a transferred line and acknowledges once all are applied. -/
  | boundaryApply (gk : Nat) (seat : Fin 4)
  /-- BOUNDARY_DURABLE (R371): The last acknowledgment makes the boundary durable and advances floors. -/
  | boundaryDurable (gk : Nat)
  /-- BOUNDARY_ABANDON (R368): Quiesce not done in 2 ms abandons the boundary and reports it. -/
  | boundaryAbandon (gk : Nat)
  /-- BOUNDARY_RETRY (R368): 0.25 ms after abandonment the boundary attempt repeats. -/
  | boundaryRetry (gk : Nat)
  /-- LOG_RECORD (R372): A buddy's network interface receives and writes a log record. -/
  | logRecord (ck : Nat) (r : LogRec)
  /-- RECOVERY_START (R376): Basin fences failed hardware, chooses a place and restores the group from its durable boundary. -/
  | recoveryStart (gk : Nat) (why : FailReason)
  /-- RECOVERY_REPLAY (R377): After the remap the group replays its logs then continues live. -/
  | recoveryReplay (gk : Nat)
  /-- ROUTER_ENTRY_PENDING (R380): A router stores a new entry version in its pending file and acknowledges. -/
  | routerEntryPending (pid router gk : Nat)
  /-- ROUTER_ENTRY_COMMIT (R380): A router makes the pending entry current on the commit for its version. -/
  | routerEntryCommit (pid router gk : Nat)
  /-- ROUTER_ACK_TIMEOUT (R380): A router silent for 50 µs is treated as unreachable. -/
  | routerAckTimeout (pid router gk : Nat)
  /-- ROUTER_ENTRY_DOUBLE_ERROR (R379): A double error in an entry holds messages and fetches the entry from Basin. -/
  | routerEntryDoubleError (pid router gk : Nat)
  /-- FORWARD_WINDOW_EXPIRY (R378): 2 µs after a remap commit the old place stops forwarding and answers moved. -/
  | forwardWindowExpiry (gk : Nat)
  /-- STRAND_SWAP (R382): Basin swaps a parked strand of a double-seated core in for a resident one. -/
  | strandSwap (ck inn out : Nat)
  /-- GROUP_UNREACHABLE (R383): Link failures leave a group without a path and Basin recovers it elsewhere. -/
  | groupUnreachable (gk : Nat)
  /-- BASIN_DRAIN (R386): Basin command drain holds expansions homed at the core. -/
  | basinDrain (c : BasinCmd)
  /-- BASIN_STOP (R386): Basin command stop quiesces every strand of the core. -/
  | basinStop (c : BasinCmd)
  /-- BASIN_MIGRATE (R386): Basin command migrate copies the core's live span and state to the spare position. -/
  | basinMigrate (c : BasinCmd)
  /-- BASIN_REMAP_PREPARE (R386): Basin command remap prepare sends the new entry to every router. -/
  | basinRemapPrepare (c : BasinCmd)
  /-- BASIN_REMAP_COMMIT (R386): Basin command remap commit makes the new place current and retires the old position. -/
  | basinRemapCommit (c : BasinCmd)
  /-- BASIN_RETURN (R386): Basin command return makes a tested retired position or group a spare. -/
  | basinReturn (c : BasinCmd)
  /-- BASIN_BOUNDARY_NOW (R386): Basin command boundary now starts an early boundary of the core's group. -/
  | basinBoundaryNow (c : BasinCmd)
  /-- BASIN_FAIL (R386): Basin command fail treats the core's position as core-fatal and starts recovery. -/
  | basinFail (c : BasinCmd)
  /-- PARTITION_DESTROY (R343): System software destroys a partition, releasing its regions; every domain access aimed at it is refused not present from then on. -/
  | partitionDestroy (pid : Nat)
  /-- RIM_CHANNEL_WORLD_SET (R319): The Igfel controller sets a rim channel's world under the owner's policy, zeroing all 64 GiB first when the channel goes from secure to open. -/
  | rimChannelWorldSet (c : Fin 24) (secure : Bool)
  /-- MOV (R44): Plain move of an 80-bit source into a g register; pops a stream or reads sq.r as an effect where the source says so. -/
  | mov (h : Hdr) (d : Fin 24) (s : CSrc)
  /-- MOV_PW (R44): Move bits [31:0] of the source into pw, p0 ignored. -/
  | movPw (h : Hdr) (s : CSrc)
  /-- MOV_VT (R114): Move bits [63:0] of the source into vt, refusing reserved or invalid codes with a reserved-field write fault. -/
  | movVt (h : Hdr) (s : CSrc)
  /-- CE_C_POP (R246): Acquiring pop of the oldest element of the strand's copy-engine completion queue, waiting while a command may still post. -/
  | ceCPop (h : Hdr) (d : Fin 24)
  /-- LDI (R45): Load a sign-extended 16-bit immediate into a g register with tag 0. -/
  | ldi (h : Hdr) (r : Fin 24) (imm : BitVec 16)
  /-- LDIH (R45): Shift a g register left by 16 bits modulo 2^80 and insert a 16-bit immediate. -/
  | ldih (h : Hdr) (r : Fin 24) (imm : BitVec 16)
  /-- MOV_IA_O (R109): Write the ia operand latch. -/
  | movIaO (h : Hdr) (s : CSrc)
  /-- MOV_IB_O (R109): Write the ib operand latch. -/
  | movIbO (h : Hdr) (s : CSrc)
  /-- MOV_FA_O (R109): Write the fa operand latch. -/
  | movFaO (h : Hdr) (s : CSrc)
  /-- IA_ADD (R93): Integer add modulo 2^64, tag of O. -/
  | iaAdd (h : Hdr) (o : ASrc) (t : ASrc)
  /-- IA_ADD_C (R51): C-word trigger of ia.add with O from the latch. -/
  | iaAddC (h : Hdr) (s : CSrc)
  /-- IA_SUB (R93): Integer subtract modulo 2^64. -/
  | iaSub (h : Hdr) (o : ASrc) (t : ASrc)
  /-- IA_SUB_C (R51): C-word trigger of ia.sub. -/
  | iaSubC (h : Hdr) (s : CSrc)
  /-- IA_AND (R93): Bitwise AND. -/
  | iaAnd (h : Hdr) (o : ASrc) (t : ASrc)
  /-- IA_AND_C (R51): C-word trigger of ia.and. -/
  | iaAndC (h : Hdr) (s : CSrc)
  /-- IA_OR (R93): Bitwise OR. -/
  | iaOr (h : Hdr) (o : ASrc) (t : ASrc)
  /-- IA_OR_C (R51): C-word trigger of ia.or. -/
  | iaOrC (h : Hdr) (s : CSrc)
  /-- IA_XOR (R93): Bitwise XOR. -/
  | iaXor (h : Hdr) (o : ASrc) (t : ASrc)
  /-- IA_XOR_C (R51): C-word trigger of ia.xor. -/
  | iaXorC (h : Hdr) (s : CSrc)
  /-- IA_ANDN (R93): Bitwise a AND NOT b. -/
  | iaAndn (h : Hdr) (o : ASrc) (t : ASrc)
  /-- IA_ANDN_C (R51): C-word trigger of ia.andn. -/
  | iaAndnC (h : Hdr) (s : CSrc)
  /-- IA_SHL (R93): Shift left, zero for counts of 64 or more. -/
  | iaShl (h : Hdr) (o : ASrc) (t : ASrc)
  /-- IA_SHL_C (R51): C-word trigger of ia.shl. -/
  | iaShlC (h : Hdr) (s : CSrc)
  /-- IA_SHR (R93): Logical shift right. -/
  | iaShr (h : Hdr) (o : ASrc) (t : ASrc)
  /-- IA_SHR_C (R51): C-word trigger of ia.shr. -/
  | iaShrC (h : Hdr) (s : CSrc)
  /-- IA_SAR (R93): Arithmetic shift right. -/
  | iaSar (h : Hdr) (o : ASrc) (t : ASrc)
  /-- IA_SAR_C (R51): C-word trigger of ia.sar. -/
  | iaSarC (h : Hdr) (s : CSrc)
  /-- IA_ROTL (R93): Rotate left by b mod 64. -/
  | iaRotl (h : Hdr) (o : ASrc) (t : ASrc)
  /-- IA_ROTL_C (R51): C-word trigger of ia.rotl. -/
  | iaRotlC (h : Hdr) (s : CSrc)
  /-- IA_MIN (R93): Signed minimum. -/
  | iaMin (h : Hdr) (o : ASrc) (t : ASrc)
  /-- IA_MIN_C (R51): C-word trigger of ia.min. -/
  | iaMinC (h : Hdr) (s : CSrc)
  /-- IA_MAX (R93): Signed maximum. -/
  | iaMax (h : Hdr) (o : ASrc) (t : ASrc)
  /-- IA_MAX_C (R51): C-word trigger of ia.max. -/
  | iaMaxC (h : Hdr) (s : CSrc)
  /-- IA_MINU (R93): Unsigned minimum. -/
  | iaMinu (h : Hdr) (o : ASrc) (t : ASrc)
  /-- IA_MINU_C (R51): C-word trigger of ia.minu. -/
  | iaMinuC (h : Hdr) (s : CSrc)
  /-- IA_MAXU (R93): Unsigned maximum. -/
  | iaMaxu (h : Hdr) (o : ASrc) (t : ASrc)
  /-- IA_MAXU_C (R51): C-word trigger of ia.maxu. -/
  | iaMaxuC (h : Hdr) (s : CSrc)
  /-- IA_LEA1 (R93): Address add a + b. -/
  | iaLea1 (h : Hdr) (o : ASrc) (t : ASrc)
  /-- IA_LEA1_C (R51): C-word trigger of ia.lea1. -/
  | iaLea1C (h : Hdr) (s : CSrc)
  /-- IA_LEA2 (R93): Address add a + 2b. -/
  | iaLea2 (h : Hdr) (o : ASrc) (t : ASrc)
  /-- IA_LEA2_C (R51): C-word trigger of ia.lea2. -/
  | iaLea2C (h : Hdr) (s : CSrc)
  /-- IA_LEA4 (R93): Address add a + 4b. -/
  | iaLea4 (h : Hdr) (o : ASrc) (t : ASrc)
  /-- IA_LEA4_C (R51): C-word trigger of ia.lea4. -/
  | iaLea4C (h : Hdr) (s : CSrc)
  /-- IA_LEA8 (R93): Address add a + 8b. -/
  | iaLea8 (h : Hdr) (o : ASrc) (t : ASrc)
  /-- IA_LEA8_C (R51): C-word trigger of ia.lea8. -/
  | iaLea8C (h : Hdr) (s : CSrc)
  /-- IA_SEXT8 (R94): Sign-extend the low 8 bits. -/
  | iaSext8 (h : Hdr) (o : ASrc)
  /-- IA_SEXT8_C (R51): C-word trigger of ia.sext8. -/
  | iaSext8C (h : Hdr)
  /-- IA_SEXT16 (R94): Sign-extend the low 16 bits. -/
  | iaSext16 (h : Hdr) (o : ASrc)
  /-- IA_SEXT16_C (R51): C-word trigger of ia.sext16. -/
  | iaSext16C (h : Hdr)
  /-- IA_SEXT32 (R94): Sign-extend the low 32 bits. -/
  | iaSext32 (h : Hdr) (o : ASrc)
  /-- IA_SEXT32_C (R51): C-word trigger of ia.sext32. -/
  | iaSext32C (h : Hdr)
  /-- IA_ZEXT8 (R94): Zero-extend the low 8 bits. -/
  | iaZext8 (h : Hdr) (o : ASrc)
  /-- IA_ZEXT8_C (R51): C-word trigger of ia.zext8. -/
  | iaZext8C (h : Hdr)
  /-- IA_ZEXT16 (R94): Zero-extend the low 16 bits. -/
  | iaZext16 (h : Hdr) (o : ASrc)
  /-- IA_ZEXT16_C (R51): C-word trigger of ia.zext16. -/
  | iaZext16C (h : Hdr)
  /-- IA_ZEXT32 (R94): Zero-extend the low 32 bits. -/
  | iaZext32 (h : Hdr) (o : ASrc)
  /-- IA_ZEXT32_C (R51): C-word trigger of ia.zext32. -/
  | iaZext32C (h : Hdr)
  /-- IA_CLZ (R94): Count leading zero bits. -/
  | iaClz (h : Hdr) (o : ASrc)
  /-- IA_CLZ_C (R51): C-word trigger of ia.clz. -/
  | iaClzC (h : Hdr)
  /-- IA_CTZ (R94): Count trailing zero bits. -/
  | iaCtz (h : Hdr) (o : ASrc)
  /-- IA_CTZ_C (R51): C-word trigger of ia.ctz. -/
  | iaCtzC (h : Hdr)
  /-- IA_POPC (R94): Count one bits. -/
  | iaPopc (h : Hdr) (o : ASrc)
  /-- IA_POPC_C (R51): C-word trigger of ia.popc. -/
  | iaPopcC (h : Hdr)
  /-- IA_BSWAP (R94): Reverse the byte order. -/
  | iaBswap (h : Hdr) (o : ASrc)
  /-- IA_BSWAP_C (R51): C-word trigger of ia.bswap. -/
  | iaBswapC (h : Hdr)
  /-- IA_CMPEQ (R95): Compare equal into ia.r and optionally p_D. -/
  | iaCmpeq (h : Hdr) (d : Fin 8) (o : ASrc) (t : ASrc)
  /-- IA_CMPEQ_C (R51): C-word trigger of ia.cmpeq writing only ia.r. -/
  | iaCmpeqC (h : Hdr) (s : CSrc)
  /-- IA_CMPNE (R95): Compare not equal. -/
  | iaCmpne (h : Hdr) (d : Fin 8) (o : ASrc) (t : ASrc)
  /-- IA_CMPNE_C (R51): C-word trigger of ia.cmpne. -/
  | iaCmpneC (h : Hdr) (s : CSrc)
  /-- IA_CMPLT (R95): Signed compare less than. -/
  | iaCmplt (h : Hdr) (d : Fin 8) (o : ASrc) (t : ASrc)
  /-- IA_CMPLT_C (R51): C-word trigger of ia.cmplt. -/
  | iaCmpltC (h : Hdr) (s : CSrc)
  /-- IA_CMPLTU (R95): Unsigned compare less than. -/
  | iaCmpltu (h : Hdr) (d : Fin 8) (o : ASrc) (t : ASrc)
  /-- IA_CMPLTU_C (R51): C-word trigger of ia.cmpltu. -/
  | iaCmpltuC (h : Hdr) (s : CSrc)
  /-- IA_CMPLE (R95): Signed compare less or equal. -/
  | iaCmple (h : Hdr) (d : Fin 8) (o : ASrc) (t : ASrc)
  /-- IA_CMPLE_C (R51): C-word trigger of ia.cmple. -/
  | iaCmpleC (h : Hdr) (s : CSrc)
  /-- IA_CMPLEU (R95): Unsigned compare less or equal. -/
  | iaCmpleu (h : Hdr) (d : Fin 8) (o : ASrc) (t : ASrc)
  /-- IA_CMPLEU_C (R51): C-word trigger of ia.cmpleu. -/
  | iaCmpleuC (h : Hdr) (s : CSrc)
  /-- IA_SEL (R96): Select T when p1 is set, else O, with tag. -/
  | iaSel (h : Hdr) (o : ASrc) (t : ASrc)
  /-- IA_SEL_C (R51): C-word trigger of ia.sel. -/
  | iaSelC (h : Hdr) (s : CSrc)
  /-- IA_SETTAG (R96): Replace the tag of O with the low 16 bits of T. -/
  | iaSettag (h : Hdr) (o : ASrc) (t : ASrc)
  /-- IA_SETTAG_C (R51): C-word trigger of ia.settag. -/
  | iaSettagC (h : Hdr) (s : CSrc)
  /-- IA_GETTAG (R96): Deliver the tag of O as a value. -/
  | iaGettag (h : Hdr) (o : ASrc)
  /-- IA_GETTAG_C (R51): C-word trigger of ia.gettag. -/
  | iaGettagC (h : Hdr)
  /-- IA_TILE (R97): Build a tile-direct pointer from a byte offset and a packed place. -/
  | iaTile (h : Hdr) (o : ASrc) (t : ASrc)
  /-- IA_TILE_C (R51): C-word trigger of ia.tile. -/
  | iaTileC (h : Hdr) (s : CSrc)
  /-- IA_GOWN (R98): Compute the owner of a global-window line. -/
  | iaGown (h : Hdr) (o : ASrc) (t : ASrc)
  /-- IA_GOWN_C (R51): C-word trigger of ia.gown. -/
  | iaGownC (h : Hdr) (s : CSrc)
  /-- IA_PAND (R99): Predicate AND into p_D. -/
  | iaPand (h : Hdr) (d : Fin 8) (o : Fin 32) (t : Fin 32)
  /-- IA_POR (R99): Predicate OR into p_D. -/
  | iaPor (h : Hdr) (d : Fin 8) (o : Fin 32) (t : Fin 32)
  /-- IA_PXOR (R99): Predicate XOR into p_D. -/
  | iaPxor (h : Hdr) (d : Fin 8) (o : Fin 32) (t : Fin 32)
  /-- IA_PNOT (R99): Predicate NOT into p_D. -/
  | iaPnot (h : Hdr) (d : Fin 8) (o : Fin 32)
  /-- IA_PSET (R99): Set predicate p_D. -/
  | iaPset (h : Hdr) (d : Fin 8)
  /-- IA_PCLR (R99): Clear predicate p_D. -/
  | iaPclr (h : Hdr) (d : Fin 8)
  /-- IB_MUL (R100): Low 64 bits of the product. -/
  | ibMul (h : Hdr) (o : ASrc) (t : ASrc)
  /-- IB_MUL_C (R51): C-word trigger of ib.mul. -/
  | ibMulC (h : Hdr) (s : CSrc)
  /-- IB_MULH (R100): High 64 bits of the signed product. -/
  | ibMulh (h : Hdr) (o : ASrc) (t : ASrc)
  /-- IB_MULH_C (R51): C-word trigger of ib.mulh. -/
  | ibMulhC (h : Hdr) (s : CSrc)
  /-- IB_MULHU (R100): High 64 bits of the unsigned product. -/
  | ibMulhu (h : Hdr) (o : ASrc) (t : ASrc)
  /-- IB_MULHU_C (R51): C-word trigger of ib.mulhu. -/
  | ibMulhuC (h : Hdr) (s : CSrc)
  /-- IB_DIV (R101): Signed division truncating toward zero. -/
  | ibDiv (h : Hdr) (o : ASrc) (t : ASrc)
  /-- IB_DIV_C (R51): C-word trigger of ib.div. -/
  | ibDivC (h : Hdr) (s : CSrc)
  /-- IB_DIVU (R101): Unsigned division. -/
  | ibDivu (h : Hdr) (o : ASrc) (t : ASrc)
  /-- IB_DIVU_C (R51): C-word trigger of ib.divu. -/
  | ibDivuC (h : Hdr) (s : CSrc)
  /-- IB_REM (R101): Signed remainder. -/
  | ibRem (h : Hdr) (o : ASrc) (t : ASrc)
  /-- IB_REM_C (R51): C-word trigger of ib.rem. -/
  | ibRemC (h : Hdr) (s : CSrc)
  /-- IB_REMU (R101): Unsigned remainder. -/
  | ibRemu (h : Hdr) (o : ASrc) (t : ASrc)
  /-- IB_REMU_C (R51): C-word trigger of ib.remu. -/
  | ibRemuC (h : Hdr) (s : CSrc)
  /-- IB_MULACC (R100): Multiply and add onto Prev(ib). -/
  | ibMulacc (h : Hdr) (o : ASrc) (t : ASrc)
  /-- IB_MULACC_C (R51): C-word trigger of ib.mulacc. -/
  | ibMulaccC (h : Hdr) (s : CSrc)
  /-- IB_CRC32C (R102): Update a CRC-32C value with up to eight bytes of T. -/
  | ibCrc32c (h : Hdr) (o : ASrc) (t : ASrc)
  /-- IB_CRC32C_C (R51): C-word trigger of ib.crc32c. -/
  | ibCrc32cC (h : Hdr) (s : CSrc)
  /-- FA_FADD (R103): FP32 add rounded under FRM. -/
  | faFadd (h : Hdr) (o : ASrc) (t : ASrc)
  /-- FA_FADD_C (R51): C-word trigger of fa.fadd. -/
  | faFaddC (h : Hdr) (s : CSrc)
  /-- FA_FSUB (R103): FP32 subtract. -/
  | faFsub (h : Hdr) (o : ASrc) (t : ASrc)
  /-- FA_FSUB_C (R51): C-word trigger of fa.fsub. -/
  | faFsubC (h : Hdr) (s : CSrc)
  /-- FA_FMUL (R103): FP32 multiply. -/
  | faFmul (h : Hdr) (o : ASrc) (t : ASrc)
  /-- FA_FMUL_C (R51): C-word trigger of fa.fmul. -/
  | faFmulC (h : Hdr) (s : CSrc)
  /-- FA_FMA (R103): Fused multiply-add onto Prev(fa) with one rounding. -/
  | faFma (h : Hdr) (o : ASrc) (t : ASrc)
  /-- FA_FMA_C (R51): C-word trigger of fa.fma. -/
  | faFmaC (h : Hdr) (s : CSrc)
  /-- FA_FMIN (R104): FP32 minimum, unrounded. -/
  | faFmin (h : Hdr) (o : ASrc) (t : ASrc)
  /-- FA_FMIN_C (R51): C-word trigger of fa.fmin. -/
  | faFminC (h : Hdr) (s : CSrc)
  /-- FA_FMAX (R104): FP32 maximum, unrounded. -/
  | faFmax (h : Hdr) (o : ASrc) (t : ASrc)
  /-- FA_FMAX_C (R51): C-word trigger of fa.fmax. -/
  | faFmaxC (h : Hdr) (s : CSrc)
  /-- FA_FABS (R104): Clear the sign bit. -/
  | faFabs (h : Hdr) (o : ASrc)
  /-- FA_FABS_C (R51): C-word trigger of fa.fabs. -/
  | faFabsC (h : Hdr)
  /-- FA_FNEG (R104): Invert the sign bit. -/
  | faFneg (h : Hdr) (o : ASrc)
  /-- FA_FNEG_C (R51): C-word trigger of fa.fneg. -/
  | faFnegC (h : Hdr)
  /-- FA_FCMPEQ (R105): FP compare equal into fa.r and optionally p_D. -/
  | faFcmpeq (h : Hdr) (d : Fin 8) (o : ASrc) (t : ASrc)
  /-- FA_FCMPEQ_C (R51): C-word trigger of fa.fcmpeq. -/
  | faFcmpeqC (h : Hdr) (s : CSrc)
  /-- FA_FCMPLT (R105): FP compare less than. -/
  | faFcmplt (h : Hdr) (d : Fin 8) (o : ASrc) (t : ASrc)
  /-- FA_FCMPLT_C (R51): C-word trigger of fa.fcmplt. -/
  | faFcmpltC (h : Hdr) (s : CSrc)
  /-- FA_FCMPLE (R105): FP compare less or equal. -/
  | faFcmple (h : Hdr) (d : Fin 8) (o : ASrc) (t : ASrc)
  /-- FA_FCMPLE_C (R51): C-word trigger of fa.fcmple. -/
  | faFcmpleC (h : Hdr) (s : CSrc)
  /-- FA_FCMPUN (R105): FP compare unordered. -/
  | faFcmpun (h : Hdr) (d : Fin 8) (o : ASrc) (t : ASrc)
  /-- FA_FCMPUN_C (R51): C-word trigger of fa.fcmpun. -/
  | faFcmpunC (h : Hdr) (s : CSrc)
  /-- FA_FDIV (R103): FP32 divide. -/
  | faFdiv (h : Hdr) (o : ASrc) (t : ASrc)
  /-- FA_FDIV_C (R51): C-word trigger of fa.fdiv. -/
  | faFdivC (h : Hdr) (s : CSrc)
  /-- FA_FSQRT (R103): FP32 square root. -/
  | faFsqrt (h : Hdr) (o : ASrc)
  /-- FA_FSQRT_C (R51): C-word trigger of fa.fsqrt. -/
  | faFsqrtC (h : Hdr)
  /-- FA_FRCP (R103): Correctly rounded reciprocal. -/
  | faFrcp (h : Hdr) (o : ASrc)
  /-- FA_FRCP_C (R51): C-word trigger of fa.frcp. -/
  | faFrcpC (h : Hdr)
  /-- FA_FRSQ (R103): Correctly rounded reciprocal square root. -/
  | faFrsq (h : Hdr) (o : ASrc)
  /-- FA_FRSQ_C (R51): C-word trigger of fa.frsq. -/
  | faFrsqC (h : Hdr)
  /-- FA_CVTIF (R106): Integer to FP32 under a control word in O. -/
  | faCvtif (h : Hdr) (o : ASrc) (t : ASrc)
  /-- FA_CVTIF_C (R51): C-word trigger of fa.cvtif. -/
  | faCvtifC (h : Hdr) (s : CSrc)
  /-- FA_CVTFI (R106): FP32 to integer under a control word in O. -/
  | faCvtfi (h : Hdr) (o : ASrc) (t : ASrc)
  /-- FA_CVTFI_C (R51): C-word trigger of fa.cvtfi. -/
  | faCvtfiC (h : Hdr) (s : CSrc)
  /-- FA_TOBF16 (R107): Round FP32 to BF16. -/
  | faTobf16 (h : Hdr) (o : ASrc)
  /-- FA_TOBF16_C (R51): C-word trigger of fa.tobf16. -/
  | faTobf16C (h : Hdr)
  /-- FA_FROMBF16 (R107): Widen BF16 to FP32 exactly. -/
  | faFrombf16 (h : Hdr) (o : ASrc)
  /-- FA_FROMBF16_C (R51): C-word trigger of fa.frombf16. -/
  | faFrombf16C (h : Hdr)
  /-- FA_TOE4M3 (R107): Round FP32 to E4M3, saturating. -/
  | faToe4m3 (h : Hdr) (o : ASrc)
  /-- FA_TOE4M3_C (R51): C-word trigger of fa.toe4m3. -/
  | faToe4m3C (h : Hdr)
  /-- FA_FROMQN4 (R107): Decode a QN4 code to its FP32 level. -/
  | faFromqn4 (h : Hdr) (o : ASrc)
  /-- FA_FROMQN4_C (R51): C-word trigger of fa.fromqn4. -/
  | faFromqn4C (h : Hdr)
  /-- FA_SCL (R108): Decode a QN4 block scale, faulting on a bad superscale. -/
  | faScl (h : Hdr) (o : ASrc) (t : ASrc)
  /-- FA_SCL_C (R51): C-word trigger of fa.scl. -/
  | faSclC (h : Hdr) (s : CSrc)
  /-- VPFX (R49): Vector prefix word supplying mask, rounding, fourth operand and saturation to the vector A-word it pairs with. -/
  | vpfx (p : Prefix)
  /-- VX_ADD (R123): Element-wise add. -/
  | vxAdd (h : Hdr) (d : Fin 8) (o : ASrc) (t : ASrc)
  /-- VX_SUB (R123): Element-wise subtract. -/
  | vxSub (h : Hdr) (d : Fin 8) (o : ASrc) (t : ASrc)
  /-- VX_MUL (R123): Element-wise multiply. -/
  | vxMul (h : Hdr) (d : Fin 8) (o : ASrc) (t : ASrc)
  /-- VX_MULH (R123): Element-wise high half of an integer product. -/
  | vxMulh (h : Hdr) (d : Fin 8) (o : ASrc) (t : ASrc)
  /-- VX_FMA (R124): Element-wise fused multiply-add. -/
  | vxFma (h : Hdr) (d : Fin 8) (o : ASrc) (t : ASrc)
  /-- VX_FMS (R124): Element-wise fused multiply-subtract. -/
  | vxFms (h : Hdr) (d : Fin 8) (o : ASrc) (t : ASrc)
  /-- VX_NFMA (R124): Element-wise negated fused multiply-add. -/
  | vxNfma (h : Hdr) (d : Fin 8) (o : ASrc) (t : ASrc)
  /-- VX_MIN (R123): Element-wise minimum. -/
  | vxMin (h : Hdr) (d : Fin 8) (o : ASrc) (t : ASrc)
  /-- VX_MAX (R123): Element-wise maximum. -/
  | vxMax (h : Hdr) (d : Fin 8) (o : ASrc) (t : ASrc)
  /-- VX_ABS (R123): Element-wise absolute value. -/
  | vxAbs (h : Hdr) (d : Fin 8) (o : ASrc)
  /-- VX_NEG (R123): Element-wise negation. -/
  | vxNeg (h : Hdr) (d : Fin 8) (o : ASrc)
  /-- VX_AND (R125): Element-wise AND of raw bits. -/
  | vxAnd (h : Hdr) (d : Fin 8) (o : ASrc) (t : ASrc)
  /-- VX_OR (R125): Element-wise OR. -/
  | vxOr (h : Hdr) (d : Fin 8) (o : ASrc) (t : ASrc)
  /-- VX_XOR (R125): Element-wise XOR. -/
  | vxXor (h : Hdr) (d : Fin 8) (o : ASrc) (t : ASrc)
  /-- VX_SHL (R125): Element-wise shift left. -/
  | vxShl (h : Hdr) (d : Fin 8) (o : ASrc) (t : ASrc)
  /-- VX_SHR (R125): Element-wise logical shift right. -/
  | vxShr (h : Hdr) (d : Fin 8) (o : ASrc) (t : ASrc)
  /-- VX_SAR (R125): Element-wise arithmetic shift right. -/
  | vxSar (h : Hdr) (d : Fin 8) (o : ASrc) (t : ASrc)
  /-- VX_CMPEQ (R126): Element-wise compare equal into a mask. -/
  | vxCmpeq (h : Hdr) (d : Fin 4) (o : ASrc) (t : ASrc)
  /-- VX_CMPNE (R126): Element-wise compare not equal into a mask. -/
  | vxCmpne (h : Hdr) (d : Fin 4) (o : ASrc) (t : ASrc)
  /-- VX_CMPLT (R126): Element-wise compare less than into a mask. -/
  | vxCmplt (h : Hdr) (d : Fin 4) (o : ASrc) (t : ASrc)
  /-- VX_CMPLE (R126): Element-wise compare less or equal into a mask. -/
  | vxCmple (h : Hdr) (d : Fin 4) (o : ASrc) (t : ASrc)
  /-- VX_SEL (R126): Select B where the prefix mask is set, A elsewhere. -/
  | vxSel (h : Hdr) (d : Fin 8) (o : ASrc) (t : ASrc)
  /-- VX_CVT (R129): Convert elements from ET to WT. -/
  | vxCvt (h : Hdr) (d : Fin 8) (o : ASrc)
  /-- VX_WADD (R130): Widening add into a register group. -/
  | vxWadd (h : Hdr) (d : Fin 8) (o : ASrc) (t : ASrc)
  /-- VX_WMUL (R130): Widening multiply into a register group. -/
  | vxWmul (h : Hdr) (d : Fin 8) (o : ASrc) (t : ASrc)
  /-- VX_NARROW (R131): Narrow a register group to one register of WT. -/
  | vxNarrow (h : Hdr) (d : Fin 8) (o : Fin 8)
  /-- VX_SUM (R132): Reduce active elements to a sum in vx.s. -/
  | vxSum (h : Hdr) (o : ASrc)
  /-- VX_MAXR (R132): Reduce active elements to their maximum in vx.s. -/
  | vxMaxr (h : Hdr) (o : ASrc)
  /-- VX_MINR (R132): Reduce active elements to their minimum in vx.s. -/
  | vxMinr (h : Hdr) (o : ASrc)
  /-- VX_PERM (R134): Permute elements by indices in B. -/
  | vxPerm (h : Hdr) (d : Fin 8) (o : ASrc) (t : ASrc)
  /-- VX_SHUF (R134): Shuffle elements by XOR with a scalar. -/
  | vxShuf (h : Hdr) (d : Fin 8) (o : ASrc) (t : ASrc)
  /-- VX_BCAST (R134): Broadcast one element to all. -/
  | vxBcast (h : Hdr) (d : Fin 8) (o : ASrc) (t : ASrc)
  /-- VX_SLIDE (R134): Slide elements by a signed scalar amount. -/
  | vxSlide (h : Hdr) (d : Fin 8) (o : ASrc) (t : ASrc)
  /-- VX_XCHG (R135): Exchange 128-byte slices among the four seats' strands after a rendezvous. -/
  | vxXchg (h : Hdr) (d : Fin 8) (o : Fin 8)
  /-- VX_SEXP (R136): Expand block scale codes into FP32 scales, faulting on a bad superscale. -/
  | vxSexp (h : Hdr) (d : Fin 8) (o : Fin 8) (t : ASrc)
  /-- VX_SACC (R137): Scale accumulate of a row pair. -/
  | vxSacc (h : Hdr) (d : Fin 8) (o : ASrc) (t : ASrc)
  /-- VX_DECQ (R138): Decode a quarter of QN4 codes to BF16. -/
  | vxDecq (h : Hdr) (d : Fin 8) (o : Fin 8) (q : Fin 4)
  /-- VX_ENCQ (R139): Encode BF16 elements into a quarter of QN4 codes. -/
  | vxEncq (h : Hdr) (d : Fin 8) (o : Fin 8) (q : Fin 4)
  /-- VX_EXP2 (R127): Element-wise 2^x, correctly rounded. -/
  | vxExp2 (h : Hdr) (d : Fin 8) (o : ASrc)
  /-- VX_LOG2 (R127): Element-wise log2. -/
  | vxLog2 (h : Hdr) (d : Fin 8) (o : ASrc)
  /-- VX_RCP (R127): Element-wise reciprocal. -/
  | vxRcp (h : Hdr) (d : Fin 8) (o : ASrc)
  /-- VX_RSQ (R127): Element-wise reciprocal square root. -/
  | vxRsq (h : Hdr) (d : Fin 8) (o : ASrc)
  /-- VX_TANH (R127): Element-wise hyperbolic tangent. -/
  | vxTanh (h : Hdr) (d : Fin 8) (o : ASrc)
  /-- VX_POPCM (R133): Count set mask bits among active elements into vx.s. -/
  | vxPopcm (h : Hdr) (o : Fin 4)
  /-- VX_IOTA (R133): Write element i as O + i × T. -/
  | vxIota (h : Hdr) (d : Fin 8) (o : ASrc) (t : ASrc)
  /-- VX_MMOV (R133): Expand a mask into all-ones or all-zeros elements. -/
  | vxMmov (h : Hdr) (d : Fin 8) (o : Fin 4)
  /-- VLD (R140): Load 512 bytes into a vector register. -/
  | vld (h : Hdr) (la : BitVec 4) (n : Fin 8) (s : CSrc)
  /-- VST (R140): Store a vector register to 512 bytes. -/
  | vst (h : Hdr) (la : BitVec 4) (n : Fin 8) (s : CSrc)
  /-- VLDS (R141): Strided vector load with stride in g23. -/
  | vlds (h : Hdr) (la : BitVec 4) (n : Fin 8) (s : CSrc)
  /-- VSTS (R141): Strided vector store. -/
  | vsts (h : Hdr) (la : BitVec 4) (n : Fin 8) (s : CSrc)
  /-- VGTH (R141): Indexed gather with indices in v7. -/
  | vgth (h : Hdr) (la : BitVec 4) (n : Fin 8) (s : CSrc)
  /-- VSCT (R141): Indexed scatter with indices in v7. -/
  | vsct (h : Hdr) (la : BitVec 4) (n : Fin 8) (s : CSrc)
  /-- VSET (R114): Write vt from the source, refusing invalid codes. -/
  | vset (h : Hdr) (s : CSrc)
  /-- KLD (R140): Load 128 bytes into a mask register. -/
  | kld (h : Hdr) (la : BitVec 4) (n : Fin 4) (s : CSrc)
  /-- KST (R140): Store a mask register to 128 bytes. -/
  | kst (h : Hdr) (la : BitVec 4) (n : Fin 4) (s : CSrc)
  /-- MX_LEASE (R147): Request the group's matrix lease for up to n counted commands. -/
  | mxLease (h : Hdr) (la : BitVec 4) (s : CSrc)
  /-- MX_FREE (R147): Release the held lease. -/
  | mxFree (h : Hdr)
  /-- MX_LDA_BF16 (R154): Load the A buffer with 64 BF16 rows. -/
  | mxLdaBf16 (h : Hdr) (la : BitVec 4) (s : CSrc)
  /-- MX_LDA_E4M3 (R154): Load the A buffer in E4M3. -/
  | mxLdaE4m3 (h : Hdr) (la : BitVec 4) (s : CSrc)
  /-- MX_LDA_E5M2 (R154): Load the A buffer in E5M2. -/
  | mxLdaE5m2 (h : Hdr) (la : BitVec 4) (s : CSrc)
  /-- MX_LDA_I8 (R154): Load the A buffer in INT8. -/
  | mxLdaI8 (h : Hdr) (la : BitVec 4) (s : CSrc)
  /-- MX_LDA_F32 (R154): Load the A buffer in FP32. -/
  | mxLdaF32 (h : Hdr) (la : BitVec 4) (s : CSrc)
  /-- MX_LDB_BF16 (R154): Load the B buffer in BF16. -/
  | mxLdbBf16 (h : Hdr) (la : BitVec 4) (s : CSrc)
  /-- MX_LDB_E4M3 (R154): Load the B buffer in E4M3. -/
  | mxLdbE4m3 (h : Hdr) (la : BitVec 4) (s : CSrc)
  /-- MX_LDB_E5M2 (R154): Load the B buffer in E5M2. -/
  | mxLdbE5m2 (h : Hdr) (la : BitVec 4) (s : CSrc)
  /-- MX_LDB_I8 (R154): Load the B buffer in INT8. -/
  | mxLdbI8 (h : Hdr) (la : BitVec 4) (s : CSrc)
  /-- MX_LDB_F32 (R154): Load the B buffer in FP32. -/
  | mxLdbF32 (h : Hdr) (la : BitVec 4) (s : CSrc)
  /-- MX_LDB_QN4 (R154): Load the B buffer with QN4 codes. -/
  | mxLdbQn4 (h : Hdr) (la : BitVec 4) (s : CSrc)
  /-- MX_MMA_M64N64K32_BF16 (R156): 64×64×32 BF16 product into a slot. -/
  | mxMmaM64n64k32Bf16 (h : Hdr) (la : BitVec 4) (s : CSrc)
  /-- MX_MMA_M32N64K32_BF16 (R156): 32×64×32 BF16 product. -/
  | mxMmaM32n64k32Bf16 (h : Hdr) (la : BitVec 4) (s : CSrc)
  /-- MX_MMA_M16N64K32_BF16 (R156): 16×64×32 BF16 product. -/
  | mxMmaM16n64k32Bf16 (h : Hdr) (la : BitVec 4) (s : CSrc)
  /-- MX_MMA_M64N64K64_E4M3 (R156): 64×64×64 E4M3 product. -/
  | mxMmaM64n64k64E4m3 (h : Hdr) (la : BitVec 4) (s : CSrc)
  /-- MX_MMA_M64N64K64_E5M2 (R156): 64×64×64 E5M2 product. -/
  | mxMmaM64n64k64E5m2 (h : Hdr) (la : BitVec 4) (s : CSrc)
  /-- MX_MMA_M64N64K64_MIX8 (R156): 64×64×64 E4M3 by E5M2 product. -/
  | mxMmaM64n64k64Mix8 (h : Hdr) (la : BitVec 4) (s : CSrc)
  /-- MX_MMA_M64N64K64_I8 (R156): 64×64×64 INT8 product accumulating exactly in INT32. -/
  | mxMmaM64n64k64I8 (h : Hdr) (la : BitVec 4) (s : CSrc)
  /-- MX_MMA_M64N64K64_QN4 (R157): 64×64×64 BF16 by QN4 product of unscaled sums. -/
  | mxMmaM64n64k64Qn4 (h : Hdr) (la : BitVec 4) (s : CSrc)
  /-- MX_MMA_M16N64K64_QN4 (R157): 16×64×64 BF16 by QN4 product. -/
  | mxMmaM16n64k64Qn4 (h : Hdr) (la : BitVec 4) (s : CSrc)
  /-- MX_MMA_M64N64K8_F32 (R156): 64×64×8 FP32 product. -/
  | mxMmaM64n64k8F32 (h : Hdr) (la : BitVec 4) (s : CSrc)
  /-- MX_CHAIN_BF16 (R158): Product taking A from a source slot narrowed to BF16. -/
  | mxChainBf16 (h : Hdr) (la : BitVec 4) (s : CSrc)
  /-- MX_CHAIN_E4M3 (R158): Product taking A from a source slot narrowed to E4M3. -/
  | mxChainE4m3 (h : Hdr) (la : BitVec 4) (s : CSrc)
  /-- MX_DRAIN (R160): Check a slot and write it to local memory as an effect, optionally clearing it. -/
  | mxDrain (h : Hdr) (la : BitVec 4) (s : CSrc)
  /-- MX_DRAINV (R162): Read a row pair of a slot into a vector register without a check. -/
  | mxDrainv (h : Hdr) (la : BitVec 4) (s : CSrc)
  /-- MX_ZERO (R163): Zero a slot and set its kind to N. -/
  | mxZero (h : Hdr) (la : BitVec 4) (s : CSrc)
  /-- MX_CHK (R161): Check and correct a slot in place, writing mx.st. -/
  | mxChk (h : Hdr) (la : BitVec 4) (s : CSrc)
  /-- MX_INJECT (R163): Invert one bit of one slot cell (test hook, privileged). -/
  | mxInject (h : Hdr) (la : BitVec 4) (s : CSrc)
  /-- MOV_MX_A (R152): Write the mx.a operand latch. -/
  | movMxA (h : Hdr) (s : CSrc)
  /-- MOV_MX_B (R152): Write the mx.b operand latch. -/
  | movMxB (h : Hdr) (s : CSrc)
  /-- LS_LD8S (R183): Load a sign-extended byte into a lane. -/
  | lsLd8s (h : Hdr) (la : BitVec 4) (lane : Fin 4) (s : CSrc)
  /-- LS_LD8U (R183): Load a zero-extended byte. -/
  | lsLd8u (h : Hdr) (la : BitVec 4) (lane : Fin 4) (s : CSrc)
  /-- LS_LD16S (R183): Load a sign-extended halfword. -/
  | lsLd16s (h : Hdr) (la : BitVec 4) (lane : Fin 4) (s : CSrc)
  /-- LS_LD16U (R183): Load a zero-extended halfword. -/
  | lsLd16u (h : Hdr) (la : BitVec 4) (lane : Fin 4) (s : CSrc)
  /-- LS_LD32S (R183): Load a sign-extended word. -/
  | lsLd32s (h : Hdr) (la : BitVec 4) (lane : Fin 4) (s : CSrc)
  /-- LS_LD32U (R183): Load a zero-extended word. -/
  | lsLd32u (h : Hdr) (la : BitVec 4) (lane : Fin 4) (s : CSrc)
  /-- LS_LD64 (R183): Load 8 bytes. -/
  | lsLd64 (h : Hdr) (la : BitVec 4) (lane : Fin 4) (s : CSrc)
  /-- LS_LDP (R183): Load a 16-byte tagged pointer. -/
  | lsLdp (h : Hdr) (la : BitVec 4) (lane : Fin 4) (s : CSrc)
  /-- LS_ST8 (R184): Store the low byte of ls.d. -/
  | lsSt8 (h : Hdr) (la : BitVec 4) (s : CSrc)
  /-- LS_ST16 (R184): Store the low halfword of ls.d. -/
  | lsSt16 (h : Hdr) (la : BitVec 4) (s : CSrc)
  /-- LS_ST32 (R184): Store the low word of ls.d. -/
  | lsSt32 (h : Hdr) (la : BitVec 4) (s : CSrc)
  /-- LS_ST64 (R184): Store 8 bytes of ls.d. -/
  | lsSt64 (h : Hdr) (la : BitVec 4) (s : CSrc)
  /-- LS_STP (R184): Store ls.d as a 16-byte tagged pointer. -/
  | lsStp (h : Hdr) (la : BitVec 4) (s : CSrc)
  /-- LS_PF (R187): Prefetch hint that fills TLBs and opens a rim row. -/
  | lsPf (h : Hdr) (s : CSrc)
  /-- MOV_LS_D (R184): Write the store-data latch ls.d. -/
  | movLsD (h : Hdr) (s : CSrc)
  /-- AT_ADD32 (R222): Atomic 32-bit add returning the old value. -/
  | atAdd32 (h : Hdr) (la : BitVec 4) (s : CSrc)
  /-- AT_ADD64 (R222): Atomic 64-bit add. -/
  | atAdd64 (h : Hdr) (la : BitVec 4) (s : CSrc)
  /-- AT_FADD32 (R223): Atomic FP32 add at the owner. -/
  | atFadd32 (h : Hdr) (la : BitVec 4) (s : CSrc)
  /-- AT_FADD16B (R223): Atomic add of a BF16 operand into FP32. -/
  | atFadd16b (h : Hdr) (la : BitVec 4) (s : CSrc)
  /-- AT_MIN32 (R222): Atomic signed 32-bit minimum. -/
  | atMin32 (h : Hdr) (la : BitVec 4) (s : CSrc)
  /-- AT_MAX32 (R222): Atomic signed 32-bit maximum. -/
  | atMax32 (h : Hdr) (la : BitVec 4) (s : CSrc)
  /-- AT_MINU32 (R222): Atomic unsigned 32-bit minimum. -/
  | atMinu32 (h : Hdr) (la : BitVec 4) (s : CSrc)
  /-- AT_MAXU32 (R222): Atomic unsigned 32-bit maximum. -/
  | atMaxu32 (h : Hdr) (la : BitVec 4) (s : CSrc)
  /-- AT_AND64 (R222): Atomic 64-bit AND. -/
  | atAnd64 (h : Hdr) (la : BitVec 4) (s : CSrc)
  /-- AT_OR64 (R222): Atomic 64-bit OR. -/
  | atOr64 (h : Hdr) (la : BitVec 4) (s : CSrc)
  /-- AT_XOR64 (R222): Atomic 64-bit XOR. -/
  | atXor64 (h : Hdr) (la : BitVec 4) (s : CSrc)
  /-- AT_SWP64 (R222): Atomic swap. -/
  | atSwp64 (h : Hdr) (la : BitVec 4) (s : CSrc)
  /-- AT_CAS64 (R222): Atomic compare-and-swap with new value from ls.d. -/
  | atCas64 (h : Hdr) (la : BitVec 4) (s : CSrc)
  /-- AT_FINC (R222): Atomic fetch-and-increment. -/
  | atFinc (h : Hdr) (la : BitVec 4) (s : CSrc)
  /-- AT_RED_ADD32 (R223): Reduction 32-bit add without result. -/
  | atRedAdd32 (h : Hdr) (la : BitVec 4) (s : CSrc)
  /-- AT_RED_ADD64 (R223): Reduction 64-bit add without result. -/
  | atRedAdd64 (h : Hdr) (la : BitVec 4) (s : CSrc)
  /-- AT_RED_FADD32 (R223): Reduction FP32 add without result. -/
  | atRedFadd32 (h : Hdr) (la : BitVec 4) (s : CSrc)
  /-- AT_RED_FADD16B (R223): Reduction BF16-into-FP32 add without result. -/
  | atRedFadd16b (h : Hdr) (la : BitVec 4) (s : CSrc)
  /-- AT_ASET (R295): Declare atomic set s with a base and length. -/
  | atAset (h : Hdr) (n : Fin 8) (s : CSrc)
  /-- AT_TOK (R221): Take a fresh token, serial and floor from the core's stash. -/
  | atTok (h : Hdr) (la : BitVec 4)
  /-- MOV_AT_O (R222): Write the atomic operand latch. -/
  | movAtO (h : Hdr) (s : CSrc)
  /-- CE_COPY (R240): Push a linear copy command. -/
  | ceCopy (h : Hdr) (q : Fin 4)
  /-- CE_COPY2D (R240): Push a strided copy described by a shape block. -/
  | ceCopy2d (h : Hdr) (q : Fin 4)
  /-- CE_MCAST (R241): Push a multicast to up to 64 cores with optional barrier counts. -/
  | ceMcast (h : Hdr) (q : Fin 4)
  /-- CE_REDB (R242): Push a BF16-into-FP32 add reduction. -/
  | ceRedb (h : Hdr) (q : Fin 4)
  /-- CE_REDF (R242): Push an FP32 add reduction. -/
  | ceRedf (h : Hdr) (q : Fin 4)
  /-- CE_COPYQ (R243): Push a copy that posts a message to a queue on completion. -/
  | ceCopyq (h : Hdr) (q : Fin 4)
  /-- CE_COPYB (R244): Push a copy counted into receivers' barriers. -/
  | ceCopyb (h : Hdr) (q : Fin 4)
  /-- MOV_CE_S (R236): Write copy-engine operand ce.s. -/
  | movCeS (h : Hdr) (s : CSrc)
  /-- MOV_CE_D (R236): Write copy-engine operand ce.d. -/
  | movCeD (h : Hdr) (s : CSrc)
  /-- MOV_CE_N (R236): Write copy-engine operand ce.n. -/
  | movCeN (h : Hdr) (s : CSrc)
  /-- MOV_CE_B (R236): Write copy-engine operand ce.b. -/
  | movCeB (h : Hdr) (s : CSrc)
  /-- MOV_CE_M (R236): Write copy-engine operand ce.m. -/
  | movCeM (h : Hdr) (s : CSrc)
  /-- SQ_PUSH (R287): Push Val(sq.d) to a queue, reporting full when no cell can be granted. -/
  | sqPush (h : Hdr) (la : BitVec 4) (s : CSrc)
  /-- SQ_POP (R287): Pop the head element of a queue, adopting a task element for kernels. -/
  | sqPop (h : Hdr) (la : BitVec 4) (s : CSrc)
  /-- SQ_PEEK (R287): Read the head element without taking it. -/
  | sqPeek (h : Hdr) (la : BitVec 4) (s : CSrc)
  /-- SQ_POPW (R288): Pop, retrying until success or the bound. -/
  | sqPopw (h : Hdr) (la : BitVec 4) (n : BitVec 10)
  /-- SQ_PUSHW (R288): Push, retrying until success or the bound. -/
  | sqPushw (h : Hdr) (la : BitVec 4) (n : BitVec 10)
  /-- SQ_RQPUSH (R265): Queue a SAVED or READY record on the ready queue at priority N. -/
  | sqRqpush (h : Hdr) (la : BitVec 4) (n : Fin 4) (s : CSrc)
  /-- SQ_RQPOP (R265): Remove the head of the highest non-empty ready priority. -/
  | sqRqpop (h : Hdr) (la : BitVec 4)
  /-- SQ_RQPRIO (R265): Change a task's priority, moving a queued task to the new tail. -/
  | sqRqprio (h : Hdr) (la : BitVec 4) (s : CSrc)
  /-- SQ_SPAWN (R277): Send a launch header to the region's distributor. -/
  | sqSpawn (h : Hdr) (la : BitVec 4) (s : CSrc)
  /-- SQ_DEC (R264): Decrement a task's dependency count. -/
  | sqDec (h : Hdr) (la : BitVec 4) (s : CSrc)
  /-- SQ_DONE (R269): End the task: fence, wait engines, release deferred effects and sets, return token, free record. -/
  | sqDone (h : Hdr)
  /-- MOV_SQ_D (R286): Write the queue operand sq.d. -/
  | movSqD (h : Hdr) (s : CSrc)
  /-- MOV_SQ_H (R286): Write the queue handle latch sq.h. -/
  | movSqH (h : Hdr) (s : CSrc)
  /-- SY_BINIT (R272): Arm a named barrier with expected arrivals and bytes. -/
  | syBinit (h : Hdr) (la : BitVec 4) (s : CSrc)
  /-- SY_ARRIVE (R272): Count one arrival at a barrier. -/
  | syArrive (h : Hdr) (la : BitVec 4) (s : CSrc)
  /-- SY_ARRIVB (R272): Count one arrival and n bytes at a barrier. -/
  | syArrivb (h : Hdr) (la : BitVec 4) (s : CSrc)
  /-- SY_WAIT (R273): Wait until the barrier's phase differs from P or it is poisoned. -/
  | syWait (h : Hdr) (la : BitVec 4) (s : CSrc)
  /-- SY_TEST (R273): Test a barrier's phase without waiting. -/
  | syTest (h : Hdr) (la : BitVec 4) (s : CSrc)
  /-- SY_INVAL (R272): Return a barrier to UNINIT. -/
  | syInval (h : Hdr) (la : BitVec 4) (s : CSrc)
  /-- SY_MON (R274): Arm a monitor slot on a 128-byte line. -/
  | syMon (h : Hdr) (la : BitVec 4) (n : Fin 4) (s : CSrc)
  /-- SY_UNMON (R274): Disarm monitor slots named by a mask. -/
  | syUnmon (h : Hdr) (la : BitVec 4) (mk : BitVec 4)
  /-- SY_MWAIT (R275): Sleep until a wake cause: fired slot, bound, alarm, sgo or strand event. -/
  | syMwait (h : Hdr) (la : BitVec 4)
  /-- SY_GBAR (R276): Join the group barrier across seats 0-3. -/
  | syGbar (h : Hdr) (la : BitVec 4)
  /-- MOV_SY_A (R277): Write sync operand sy.a. -/
  | movSyA (h : Hdr) (s : CSrc)
  /-- MOV_SY_B (R277): Write sync operand sy.b. -/
  | movSyB (h : Hdr) (s : CSrc)
  /-- MOV_SY_L (R277): Write sync wait limit sy.l. -/
  | movSyL (h : Hdr) (s : CSrc)
  /-- CT_BR (R39): Branch by a pair displacement. -/
  | ctBr (h : Hdr) (disp : BitVec 11)
  /-- CT_BR_ABS (R39): Branch to an absolute pair number from a register. -/
  | ctBrAbs (h : Hdr) (s : CSrc)
  /-- CT_CALL (R270): Call by displacement, writing pc + 1 to g22. -/
  | ctCall (h : Hdr) (disp : BitVec 11)
  /-- CT_CALL_ABS (R270): Call an absolute pair number from a register. -/
  | ctCallAbs (h : Hdr) (s : CSrc)
  /-- CT_RET (R270): Return to the pair in g22. -/
  | ctRet (h : Hdr)
  /-- CT_JMP (R270): Jump by a signed register displacement. -/
  | ctJmp (h : Hdr) (s : CSrc)
  /-- CT_CHUNK (R216): End the open chunk. -/
  | ctChunk (h : Hdr)
  /-- CT_YIELD (R268): End the chunk and stop the strand with a YLD event. -/
  | ctYield (h : Hdr)
  /-- CT_HALT (R268): End the chunk and stop the strand with an HLT event. -/
  | ctHalt (h : Hdr)
  /-- CT_TRAP (R270): After earlier chunks commit, fault with cause trap and a code. -/
  | ctTrap (h : Hdr) (s : CSrc)
  /-- CT_NOP (R270): Do nothing. -/
  | ctNop (h : Hdr)
  /-- CT_IPF (R314): Hint the group instruction cache to fetch n pairs. -/
  | ctIpf (h : Hdr) (la : BitVec 4) (s : CSrc)
  /-- CT_EFENCE (R214): Wait for all earlier work and fault poison if the pending error is set. -/
  | ctEfence (h : Hdr)
  /-- CT_SSTOP (R267): Stop another strand of the core. -/
  | ctSstop (h : Hdr) (s : CSrc)
  /-- CT_SGO (R266): Start a fresh task on an idle strand or resume a stopped one. -/
  | ctSgo (h : Hdr) (s : CSrc)
  /-- CT_SSAVE (R267): Save a stopped strand's context image and leave it idle. -/
  | ctSsave (h : Hdr) (s : CSrc)
  /-- CT_SLOAD (R267): Load a saved context image into an idle strand and leave it stopped. -/
  | ctSload (h : Hdr) (s : CSrc)
  /-- CT_RESUME (R270): Return a frozen strand to its recorded state (supervisor). -/
  | ctResume (h : Hdr) (s : CSrc)
  /-- QS_BIND (R188): Bind a stream name to a free engine with a pattern descriptor. -/
  | qsBind (h : Hdr) (n : Fin 8) (s : CSrc)
  /-- QS_UNBIND (R191): Release a stream engine and its buffered elements. -/
  | qsUnbind (h : Hdr) (j : Fin 8)
  /-- QS_WRITE (R190): Store 8 bytes at the next position of an out-stream. -/
  | qsWrite (h : Hdr) (n : Fin 8) (s : CSrc)
  /-- SR_WRITE (R322): Write a system register that has no row of its own, checking privilege and reserved fields. -/
  | srWrite (h : Hdr) (r : Fin 21) (s : CSrc)
  /-- WRITE_ALARM (R309): Set the alarm deadline and clear FIRED. -/
  | writeAlarm (h : Hdr) (s : CSrc)
  /-- WRITE_REDPIN (R250): Configure the reduction server; EN makes strand 15 serve the reduction inbox. -/
  | writeRedpin (h : Hdr) (s : CSrc)
  /-- WRITE_RNG (R79): Write the xorshift state, storing 1 for zero. -/
  | writeRng (h : Hdr) (s : CSrc)
  /-- SR_TLBINV (R334): Invalidate translations of the partition. -/
  | srTlbinv (h : Hdr) (la : BitVec 4) (s : CSrc)
  /-- SR_PFENCE (R335): Wait until earlier invalidations reached every region. -/
  | srPfence (h : Hdr) (la : BitVec 4)
  /-- SR_ACKFLOOR (R231): Advance the floor of a saved context and send floor notices. -/
  | srAckfloor (h : Hdr) (la : BitVec 4) (s : CSrc)
  deriving DecidableEq, Repr

end Sys2Proof
end

