-- ==== Sys2Proof/WellFormed.lean ====
section
/-! DEFINITION. Well-formed instructions: the limits that make a word of spec/02 legal (R52, check 2).
An ill-formed instruction is one that no legal word encodes. -/

namespace Sys2Proof

/-- G = 1000 is illegal (R40). -/
def Hdr.ok (h : Hdr) : Bool := decide (h.guard ≠ 8#4)

/-- A scalar unit may not name v0-v7 (R48, R122). -/
def ASrc.scalar : ASrc → Bool
  | .v _ => false
  | _ => true

/-- The source is a port, not an immediate (R50, R286). -/
def CSrc.port : CSrc → Bool
  | .imm _ => false
  | _ => true

/-- MZ = 1 with MASK = 0 is illegal for every operation (R117). -/
def Prefix.ok (p : Prefix) : Bool := !(p.mz && decide (p.mask = 0))

/-- An immediate source meets the limits of its word; a port is checked when it is read (R152). -/
def immOk (s : CSrc) (lim : BitVec 11 → Bool) : Bool :=
  match s with
  | .imm v => lim v
  | _ => true

/-- The limits of an immediate product word with `aw` A windows and `bw` B windows (R152, R153). -/
def productImmOk (aw bw : Nat) (v : BitVec 11) : Bool :=
  decide (v.toNat < 512 ∧ (v.toNat / 32) % 4 < aw ∧ (v.toNat / 128) % 4 < bw)

/-- The instruction is one a legal word encodes; an event has no word and no limit (R40, R47, R48,
R99, R117, R122, R152, R270, R277, R286, R334). -/
def Instr.wf : Instr → Bool
  | .mov h _ s => h.ok && decide (s ≠ .ceC)
  | .movPw h _ => h.ok
  | .movVt h _ => h.ok
  | .ceCPop h _ => h.ok
  | .ldi h _ _ => h.ok
  | .ldih h _ _ => h.ok
  | .movIaO h _ => h.ok
  | .movIbO h _ => h.ok
  | .movFaO h _ => h.ok
  | .iaAdd h o t => h.ok && o.scalar && t.scalar
  | .iaAddC h _ => h.ok
  | .iaSub h o t => h.ok && o.scalar && t.scalar
  | .iaSubC h _ => h.ok
  | .iaAnd h o t => h.ok && o.scalar && t.scalar
  | .iaAndC h _ => h.ok
  | .iaOr h o t => h.ok && o.scalar && t.scalar
  | .iaOrC h _ => h.ok
  | .iaXor h o t => h.ok && o.scalar && t.scalar
  | .iaXorC h _ => h.ok
  | .iaAndn h o t => h.ok && o.scalar && t.scalar
  | .iaAndnC h _ => h.ok
  | .iaShl h o t => h.ok && o.scalar && t.scalar
  | .iaShlC h _ => h.ok
  | .iaShr h o t => h.ok && o.scalar && t.scalar
  | .iaShrC h _ => h.ok
  | .iaSar h o t => h.ok && o.scalar && t.scalar
  | .iaSarC h _ => h.ok
  | .iaRotl h o t => h.ok && o.scalar && t.scalar
  | .iaRotlC h _ => h.ok
  | .iaMin h o t => h.ok && o.scalar && t.scalar
  | .iaMinC h _ => h.ok
  | .iaMax h o t => h.ok && o.scalar && t.scalar
  | .iaMaxC h _ => h.ok
  | .iaMinu h o t => h.ok && o.scalar && t.scalar
  | .iaMinuC h _ => h.ok
  | .iaMaxu h o t => h.ok && o.scalar && t.scalar
  | .iaMaxuC h _ => h.ok
  | .iaLea1 h o t => h.ok && o.scalar && t.scalar
  | .iaLea1C h _ => h.ok
  | .iaLea2 h o t => h.ok && o.scalar && t.scalar
  | .iaLea2C h _ => h.ok
  | .iaLea4 h o t => h.ok && o.scalar && t.scalar
  | .iaLea4C h _ => h.ok
  | .iaLea8 h o t => h.ok && o.scalar && t.scalar
  | .iaLea8C h _ => h.ok
  | .iaSext8 h o => h.ok && o.scalar
  | .iaSext8C h => h.ok
  | .iaSext16 h o => h.ok && o.scalar
  | .iaSext16C h => h.ok
  | .iaSext32 h o => h.ok && o.scalar
  | .iaSext32C h => h.ok
  | .iaZext8 h o => h.ok && o.scalar
  | .iaZext8C h => h.ok
  | .iaZext16 h o => h.ok && o.scalar
  | .iaZext16C h => h.ok
  | .iaZext32 h o => h.ok && o.scalar
  | .iaZext32C h => h.ok
  | .iaClz h o => h.ok && o.scalar
  | .iaClzC h => h.ok
  | .iaCtz h o => h.ok && o.scalar
  | .iaCtzC h => h.ok
  | .iaPopc h o => h.ok && o.scalar
  | .iaPopcC h => h.ok
  | .iaBswap h o => h.ok && o.scalar
  | .iaBswapC h => h.ok
  | .iaCmpeq h _ o t => h.ok && o.scalar && t.scalar
  | .iaCmpeqC h _ => h.ok
  | .iaCmpne h _ o t => h.ok && o.scalar && t.scalar
  | .iaCmpneC h _ => h.ok
  | .iaCmplt h _ o t => h.ok && o.scalar && t.scalar
  | .iaCmpltC h _ => h.ok
  | .iaCmpltu h _ o t => h.ok && o.scalar && t.scalar
  | .iaCmpltuC h _ => h.ok
  | .iaCmple h _ o t => h.ok && o.scalar && t.scalar
  | .iaCmpleC h _ => h.ok
  | .iaCmpleu h _ o t => h.ok && o.scalar && t.scalar
  | .iaCmpleuC h _ => h.ok
  | .iaSel h o t => h.ok && o.scalar && t.scalar
  | .iaSelC h _ => h.ok
  | .iaSettag h o t => h.ok && o.scalar && t.scalar
  | .iaSettagC h _ => h.ok
  | .iaGettag h o => h.ok && o.scalar
  | .iaGettagC h => h.ok
  | .iaTile h o t => h.ok && o.scalar && t.scalar
  | .iaTileC h _ => h.ok
  | .iaGown h o t => h.ok && o.scalar && t.scalar
  | .iaGownC h _ => h.ok
  | .iaPand h d _ _ => h.ok && decide (d ≠ 0)
  | .iaPor h d _ _ => h.ok && decide (d ≠ 0)
  | .iaPxor h d _ _ => h.ok && decide (d ≠ 0)
  | .iaPnot h d _ => h.ok && decide (d ≠ 0)
  | .iaPset h d => h.ok && decide (d ≠ 0)
  | .iaPclr h d => h.ok && decide (d ≠ 0)
  | .ibMul h o t => h.ok && o.scalar && t.scalar
  | .ibMulC h _ => h.ok
  | .ibMulh h o t => h.ok && o.scalar && t.scalar
  | .ibMulhC h _ => h.ok
  | .ibMulhu h o t => h.ok && o.scalar && t.scalar
  | .ibMulhuC h _ => h.ok
  | .ibDiv h o t => h.ok && o.scalar && t.scalar
  | .ibDivC h _ => h.ok
  | .ibDivu h o t => h.ok && o.scalar && t.scalar
  | .ibDivuC h _ => h.ok
  | .ibRem h o t => h.ok && o.scalar && t.scalar
  | .ibRemC h _ => h.ok
  | .ibRemu h o t => h.ok && o.scalar && t.scalar
  | .ibRemuC h _ => h.ok
  | .ibMulacc h o t => h.ok && o.scalar && t.scalar
  | .ibMulaccC h _ => h.ok
  | .ibCrc32c h o t => h.ok && o.scalar && t.scalar
  | .ibCrc32cC h _ => h.ok
  | .faFadd h o t => h.ok && o.scalar && t.scalar
  | .faFaddC h _ => h.ok
  | .faFsub h o t => h.ok && o.scalar && t.scalar
  | .faFsubC h _ => h.ok
  | .faFmul h o t => h.ok && o.scalar && t.scalar
  | .faFmulC h _ => h.ok
  | .faFma h o t => h.ok && o.scalar && t.scalar
  | .faFmaC h _ => h.ok
  | .faFmin h o t => h.ok && o.scalar && t.scalar
  | .faFminC h _ => h.ok
  | .faFmax h o t => h.ok && o.scalar && t.scalar
  | .faFmaxC h _ => h.ok
  | .faFabs h o => h.ok && o.scalar
  | .faFabsC h => h.ok
  | .faFneg h o => h.ok && o.scalar
  | .faFnegC h => h.ok
  | .faFcmpeq h _ o t => h.ok && o.scalar && t.scalar
  | .faFcmpeqC h _ => h.ok
  | .faFcmplt h _ o t => h.ok && o.scalar && t.scalar
  | .faFcmpltC h _ => h.ok
  | .faFcmple h _ o t => h.ok && o.scalar && t.scalar
  | .faFcmpleC h _ => h.ok
  | .faFcmpun h _ o t => h.ok && o.scalar && t.scalar
  | .faFcmpunC h _ => h.ok
  | .faFdiv h o t => h.ok && o.scalar && t.scalar
  | .faFdivC h _ => h.ok
  | .faFsqrt h o => h.ok && o.scalar
  | .faFsqrtC h => h.ok
  | .faFrcp h o => h.ok && o.scalar
  | .faFrcpC h => h.ok
  | .faFrsq h o => h.ok && o.scalar
  | .faFrsqC h => h.ok
  | .faCvtif h o t => h.ok && o.scalar && t.scalar
  | .faCvtifC h _ => h.ok
  | .faCvtfi h o t => h.ok && o.scalar && t.scalar
  | .faCvtfiC h _ => h.ok
  | .faTobf16 h o => h.ok && o.scalar
  | .faTobf16C h => h.ok
  | .faFrombf16 h o => h.ok && o.scalar
  | .faFrombf16C h => h.ok
  | .faToe4m3 h o => h.ok && o.scalar
  | .faToe4m3C h => h.ok
  | .faFromqn4 h o => h.ok && o.scalar
  | .faFromqn4C h => h.ok
  | .faScl h o t => h.ok && o.scalar && t.scalar
  | .faSclC h _ => h.ok
  | .vpfx p => p.ok
  | .vxAdd h _ _ _ => h.ok
  | .vxSub h _ _ _ => h.ok
  | .vxMul h _ _ _ => h.ok
  | .vxMulh h _ _ _ => h.ok
  | .vxFma h _ _ _ => h.ok
  | .vxFms h _ _ _ => h.ok
  | .vxNfma h _ _ _ => h.ok
  | .vxMin h _ _ _ => h.ok
  | .vxMax h _ _ _ => h.ok
  | .vxAbs h _ _ => h.ok
  | .vxNeg h _ _ => h.ok
  | .vxAnd h _ _ _ => h.ok
  | .vxOr h _ _ _ => h.ok
  | .vxXor h _ _ _ => h.ok
  | .vxShl h _ _ _ => h.ok
  | .vxShr h _ _ _ => h.ok
  | .vxSar h _ _ _ => h.ok
  | .vxCmpeq h _ _ _ => h.ok
  | .vxCmpne h _ _ _ => h.ok
  | .vxCmplt h _ _ _ => h.ok
  | .vxCmple h _ _ _ => h.ok
  | .vxSel h _ _ _ => h.ok
  | .vxCvt h _ _ => h.ok
  | .vxWadd h _ _ _ => h.ok
  | .vxWmul h _ _ _ => h.ok
  | .vxNarrow h _ _ => h.ok
  | .vxSum h _ => h.ok
  | .vxMaxr h _ => h.ok
  | .vxMinr h _ => h.ok
  | .vxPerm h _ _ _ => h.ok
  | .vxShuf h _ _ t => h.ok && t.scalar
  | .vxBcast h _ _ t => h.ok && t.scalar
  | .vxSlide h _ _ t => h.ok && t.scalar
  | .vxXchg h _ _ => h.ok
  | .vxSexp h _ _ t => h.ok && t.scalar
  | .vxSacc h _ _ _ => h.ok
  | .vxDecq h _ _ _ => h.ok
  | .vxEncq h _ _ _ => h.ok
  | .vxExp2 h _ _ => h.ok
  | .vxLog2 h _ _ => h.ok
  | .vxRcp h _ _ => h.ok
  | .vxRsq h _ _ => h.ok
  | .vxTanh h _ _ => h.ok
  | .vxPopcm h _ => h.ok
  | .vxIota h _ o t => h.ok && o.scalar && t.scalar
  | .vxMmov h _ _ => h.ok
  | .vld h _ _ _ => h.ok
  | .vst h _ _ _ => h.ok
  | .vlds h _ _ _ => h.ok
  | .vsts h _ _ _ => h.ok
  | .vgth h _ _ _ => h.ok
  | .vsct h _ _ _ => h.ok
  | .vset h _ => h.ok
  | .kld h _ _ _ => h.ok
  | .kst h _ _ _ => h.ok
  | .mxLease h _ s => h.ok && immOk s (fun v => 1 ≤ v.toNat && v.toNat ≤ 64)
  | .mxFree h => h.ok
  | .mxLdaBf16 h _ _ => h.ok
  | .mxLdaE4m3 h _ _ => h.ok
  | .mxLdaE5m2 h _ _ => h.ok
  | .mxLdaI8 h _ _ => h.ok
  | .mxLdaF32 h _ _ => h.ok
  | .mxLdbBf16 h _ _ => h.ok
  | .mxLdbE4m3 h _ _ => h.ok
  | .mxLdbE5m2 h _ _ => h.ok
  | .mxLdbI8 h _ _ => h.ok
  | .mxLdbF32 h _ _ => h.ok
  | .mxLdbQn4 h _ _ => h.ok
  | .mxMmaM64n64k32Bf16 h _ s => h.ok && immOk s (productImmOk 2 2)
  | .mxMmaM32n64k32Bf16 h _ s => h.ok && immOk s (productImmOk 2 2)
  | .mxMmaM16n64k32Bf16 h _ s => h.ok && immOk s (productImmOk 2 2)
  | .mxMmaM64n64k64E4m3 h _ s => h.ok && immOk s (productImmOk 2 2)
  | .mxMmaM64n64k64E5m2 h _ s => h.ok && immOk s (productImmOk 2 2)
  | .mxMmaM64n64k64Mix8 h _ s => h.ok && immOk s (productImmOk 2 2)
  | .mxMmaM64n64k64I8 h _ s => h.ok && immOk s (productImmOk 2 2)
  | .mxMmaM64n64k64Qn4 h _ s => h.ok && immOk s (productImmOk 1 4)
  | .mxMmaM16n64k64Qn4 h _ s => h.ok && immOk s (productImmOk 1 4)
  | .mxMmaM64n64k8F32 h _ s => h.ok && immOk s (productImmOk 4 4)
  | .mxChainBf16 h _ s => h.ok && immOk s (productImmOk 2 2)
  | .mxChainE4m3 h _ s => h.ok && immOk s (productImmOk 1 2)
  | .mxDrain h _ s => h.ok && immOk s (fun v => v.toNat < 32)
  | .mxDrainv h _ s => h.ok && immOk s (fun v => v.toNat < 512)
  | .mxZero h _ s => h.ok && immOk s (fun v => v.toNat < 16)
  | .mxChk h _ s => h.ok && immOk s (fun v => v.toNat < 16)
  | .mxInject h _ s => h.ok && immOk s (fun v => v.toNat < 16)
  | .movMxA h _ => h.ok
  | .movMxB h _ => h.ok
  | .lsLd8s h _ _ _ => h.ok
  | .lsLd8u h _ _ _ => h.ok
  | .lsLd16s h _ _ _ => h.ok
  | .lsLd16u h _ _ _ => h.ok
  | .lsLd32s h _ _ _ => h.ok
  | .lsLd32u h _ _ _ => h.ok
  | .lsLd64 h _ _ _ => h.ok
  | .lsLdp h _ _ _ => h.ok
  | .lsSt8 h _ _ => h.ok
  | .lsSt16 h _ _ => h.ok
  | .lsSt32 h _ _ => h.ok
  | .lsSt64 h _ _ => h.ok
  | .lsStp h _ _ => h.ok
  | .lsPf h _ => h.ok
  | .movLsD h _ => h.ok
  | .atAdd32 h _ _ => h.ok
  | .atAdd64 h _ _ => h.ok
  | .atFadd32 h _ _ => h.ok
  | .atFadd16b h _ _ => h.ok
  | .atMin32 h _ _ => h.ok
  | .atMax32 h _ _ => h.ok
  | .atMinu32 h _ _ => h.ok
  | .atMaxu32 h _ _ => h.ok
  | .atAnd64 h _ _ => h.ok
  | .atOr64 h _ _ => h.ok
  | .atXor64 h _ _ => h.ok
  | .atSwp64 h _ _ => h.ok
  | .atCas64 h _ _ => h.ok
  | .atFinc h _ _ => h.ok
  | .atRedAdd32 h _ _ => h.ok
  | .atRedAdd64 h _ _ => h.ok
  | .atRedFadd32 h _ _ => h.ok
  | .atRedFadd16b h _ _ => h.ok
  | .atAset h _ _ => h.ok
  | .atTok h _ => h.ok
  | .movAtO h _ => h.ok
  | .ceCopy h _ => h.ok
  | .ceCopy2d h _ => h.ok
  | .ceMcast h _ => h.ok
  | .ceRedb h _ => h.ok
  | .ceRedf h _ => h.ok
  | .ceCopyq h _ => h.ok
  | .ceCopyb h _ => h.ok
  | .movCeS h _ => h.ok
  | .movCeD h _ => h.ok
  | .movCeN h _ => h.ok
  | .movCeB h _ => h.ok
  | .movCeM h _ => h.ok
  | .sqPush h _ s => h.ok && s.port
  | .sqPop h _ s => h.ok && s.port
  | .sqPeek h _ s => h.ok && s.port
  | .sqPopw h _ _ => h.ok
  | .sqPushw h _ _ => h.ok
  | .sqRqpush h _ _ _ => h.ok
  | .sqRqpop h _ => h.ok
  | .sqRqprio h _ _ => h.ok
  | .sqSpawn h _ _ => h.ok
  | .sqDec h _ _ => h.ok
  | .sqDone h => h.ok
  | .movSqD h _ => h.ok
  | .movSqH h _ => h.ok
  | .syBinit h _ _ => h.ok
  | .syArrive h _ _ => h.ok
  | .syArrivb h _ _ => h.ok
  | .syWait h _ _ => h.ok
  | .syTest h _ _ => h.ok
  | .syInval h _ _ => h.ok
  | .syMon h _ _ _ => h.ok
  | .syUnmon h _ _ => h.ok
  | .syMwait h _ => h.ok
  | .syGbar h _ => h.ok
  | .movSyA h _ => h.ok
  | .movSyB h _ => h.ok
  | .movSyL h _ => h.ok
  | .ctBr h _ => h.ok
  | .ctBrAbs h s => h.ok && s.port
  | .ctCall h _ => h.ok
  | .ctCallAbs h s => h.ok && s.port
  | .ctRet h => h.ok
  | .ctJmp h s => h.ok && s.port
  | .ctChunk h => h.ok
  | .ctYield h => h.ok
  | .ctHalt h => h.ok
  | .ctTrap h s => h.ok && immOk s (fun v => v.toNat < 1024)
  | .ctNop h => h.ok
  | .ctIpf h _ _ => h.ok
  | .ctEfence h => h.ok
  | .ctSstop h _ => h.ok
  | .ctSgo h _ => h.ok
  | .ctSsave h _ => h.ok
  | .ctSload h _ => h.ok
  | .ctResume h _ => h.ok
  | .qsBind h _ _ => h.ok
  | .qsUnbind h _ => h.ok
  | .qsWrite h _ _ => h.ok
  | .srWrite h r _ => h.ok && decide (r ≠ 2 ∧ r ≠ 11 ∧ r ≠ 13)
  | .writeAlarm h _ => h.ok
  | .writeRedpin h _ => h.ok
  | .writeRng h _ => h.ok
  | .srTlbinv h _ s => h.ok && immOk s (fun v => v.toNat = 0)
  | .srPfence h _ => h.ok
  | .srAckfloor h _ _ => h.ok
  | .illegalWord => true
  | .fixedResultVisible _ => true
  | .variableResultLand _ _ => true
  | .leaseGrant _ => true
  | .leaseIdleLimit _ => true
  | .mxCommandAccept _ => true
  | .mxCommandExecute _ => true
  | .cePushAccept _ => true
  | .ceCommandStart _ => true
  | .ceLineDelivery _ _ _ => true
  | .ceReduceLine _ _ _ => true
  | .cePoisonNotice _ _ => true
  | .copyqMessagePush _ _ => true
  | .ceCommandComplete _ _ => true
  | .strandControlAct _ => true
  | .streamElementArrival _ _ => true
  | .chunkLengthReached _ => true
  | .weirCommitRequest _ => true
  | .weirPrepare _ => true
  | .effectIssue _ => true
  | .fenceCheck _ => true
  | .translationWalk _ _ => true
  | .tlbInvalidationArrival _ _ _ _ => true
  | .cascadeNumbering _ _ => true
  | .cascadeApply _ _ => true
  | .remoteModuleAccess _ => true
  | .remoteEffectMessage _ => true
  | .replyResult _ _ _ => true
  | .replyBusy _ _ => true
  | .replyMoved _ _ => true
  | .replyRefuse _ _ _ => true
  | .retransmitTimeout _ _ => true
  | .busyRetryTimer _ _ => true
  | .ownerBusyLimit _ _ => true
  | .floorNotice _ _ _ => true
  | .stashRefillRequest _ => true
  | .stashRefillAnswer _ _ => true
  | .reductionTake _ => true
  | .reductionDownwardReceive _ _ _ _ _ => true
  | .reductionRoundEnd _ => true
  | .launchExpansion _ _ => true
  | .launchStalled _ _ => true
  | .waitExpired _ => true
  | .queueRetry _ => true
  | .sluiceGovernorTick _ => true
  | .setAcquireRequest _ => true
  | .setGrant _ _ => true
  | .woundRollback _ _ => true
  | .setRelease _ _ _ _ => true
  | .droopStretch _ => true
  | .supplyRecovery _ => true
  | .timeReferencePulse _ _ => true
  | .timeReferenceLost _ => true
  | .alarmFire _ => true
  | .boundaryFlitCrossing _ => true
  | .linkFlitCrcError _ => true
  | .slip _ => true
  | .fetchFillArrival _ _ => true
  | .fetchRetryTimeout _ => true
  | .moduleStart _ => true
  | .selfTest _ => true
  | .partitionCreate _ _ => true
  | .domainAgreement _ => true
  | .faultRingDeliver _ _ => true
  | .writeFaultRingBase _ _ _ => true
  | .systemWindowStore _ _ => true
  | .debugResume _ _ => true
  | .debugStep _ => true
  | .debugKill _ => true
  | .preemptRequest _ _ => true
  | .preemptSave _ => true
  | .preemptGraceExpiry _ => true
  | .partitionRestore _ _ _ => true
  | .hostDoorbell _ _ => true
  | .hostCmdLaunch _ => true
  | .hostCmdCopy _ => true
  | .hostCmdSignal _ => true
  | .hostCmdWait _ => true
  | .hostWaitPoll _ => true
  | .hostWaitLimit _ => true
  | .hostQueueResume _ => true
  | .attestationRequest _ _ => true
  | .scrubTick _ => true
  | .errorFclr _ => true
  | .errorCclr _ => true
  | .watchdogFire _ => true
  | .rimScrub _ => true
  | .boundaryStart _ => true
  | .boundaryRecord _ => true
  | .boundaryApply _ _ => true
  | .boundaryDurable _ => true
  | .boundaryAbandon _ => true
  | .boundaryRetry _ => true
  | .logRecord _ _ => true
  | .recoveryStart _ _ => true
  | .recoveryReplay _ => true
  | .routerEntryPending _ _ _ => true
  | .routerEntryCommit _ _ _ => true
  | .routerAckTimeout _ _ _ => true
  | .routerEntryDoubleError _ _ _ => true
  | .forwardWindowExpiry _ => true
  | .strandSwap _ _ _ => true
  | .groupUnreachable _ => true
  | .basinDrain _ => true
  | .basinStop _ => true
  | .basinMigrate _ => true
  | .basinRemapPrepare _ => true
  | .basinRemapCommit _ => true
  | .basinReturn _ => true
  | .basinBoundaryNow _ => true
  | .basinFail _ => true
  | .partitionDestroy _ => true
  | .rimChannelWorldSet _ _ => true

end Sys2Proof
end

