-- ==== Sys2Proof/Decode.lean ====
section
/-! DEFINITION. The decoder, total on every word, and the encoder, both written from the word layouts of
spec/02 (Tables 2-3 to 2-12) and of the unit chapters. A word that no row of the tables names decodes
to nothing: it is illegal (R52). -/

namespace Sys2Proof

/-- The fields of a C-word (R41, Table 2-3); `is` is I followed by S. -/
structure CWord where
  lone : Bool
  guard : BitVec 4
  la : BitVec 4
  du : BitVec 4
  dp : BitVec 6
  is : BitVec 12
  deriving DecidableEq, Repr

/-- The fields of an A-word (R46, Table 2-6). -/
structure AWord where
  lone : Bool
  guard : BitVec 4
  au : BitVec 3
  d : BitVec 3
  op : BitVec 6
  os : BitVec 7
  ts : BitVec 7
  deriving DecidableEq, Repr

/-- The 32 bits of a C-word: K = 0 (R41). -/
def packC (c : CWord) : Word32 :=
  0#1 ++ BitVec.ofBool c.lone ++ c.guard ++ c.la ++ c.du ++ c.dp ++ c.is

/-- The 32 bits of an A-word: K = 1 (R46). -/
def packA (a : AWord) : Word32 :=
  1#1 ++ BitVec.ofBool a.lone ++ a.guard ++ a.au ++ a.d ++ a.op ++ a.os ++ a.ts

/-- The fields of a word read as a C-word (R41). -/
def unpackC (w : Word32) : CWord :=
  ⟨w.getLsbD 30, w.extractLsb' 26 4, w.extractLsb' 22 4, w.extractLsb' 18 4, w.extractLsb' 12 6,
    w.extractLsb' 0 12⟩

/-- The fields of a word read as an A-word (R46). -/
def unpackA (w : Word32) : AWord :=
  ⟨w.getLsbD 30, w.extractLsb' 26 4, w.extractLsb' 23 3, w.extractLsb' 20 3, w.extractLsb' 14 6,
    w.extractLsb' 7 7, w.extractLsb' 0 7⟩

/-- A system-register number as an index of Table 2-14, if it is one. -/
def srOf (n : Nat) : Option (Fin 21) := if h : n < 21 then some ⟨n, h⟩ else none

/-- The source a C-word's I and S fields name (R41, R43, Table 2-5). -/
def csrcOf (is : BitVec 12) : Option CSrc :=
  if is.getLsbD 11 then some (.imm (is.extractLsb' 0 11))
  else
    let sp := (is.extractLsb' 0 7).toNat
    match (is.extractLsb' 7 4).toNat with
    | 0 =>
      if h : sp < 24 then some (.g ⟨sp, h⟩)
      else if sp = 24 then some .pw
      else if sp = 25 then some .vt
      else if sp = 26 then some .pc
      else if sp = 27 then some .zero
      else none
    | 1 => if sp = 0 then some .iaR else none
    | 2 => if sp = 0 then some .ibR else none
    | 3 => if sp = 0 then some .faR else none
    | 4 => if sp = 0 then some .vxS else none
    | 5 => if sp = 0 then some .mxSt else none
    | 6 => if h : sp < 4 then some (.ls ⟨sp, h⟩) else none
    | 7 => if sp = 0 then some .atR else none
    | 8 => if sp = 0 then some .ceC else if sp = 1 then some .ceSt else none
    | 9 => if sp = 0 then some .sqR else if sp = 1 then some .sqSt else none
    | 10 => if sp = 0 then some .syR else none
    | 12 => if h : sp < 8 then some (.q ⟨sp, h⟩) else none
    | 13 => (srOf sp).map .sr
    | _ => none

/-- The I and S fields of a C-word's source (R41, Table 2-5). -/
def csrcBits : CSrc → BitVec 12
  | .imm v => 1#1 ++ v
  | .g n => BitVec.ofNat 12 n.val
  | .pw => 24#12
  | .vt => 25#12
  | .pc => 26#12
  | .zero => 27#12
  | .iaR => 128#12
  | .ibR => 256#12
  | .faR => 384#12
  | .vxS => 512#12
  | .mxSt => 640#12
  | .ls n => BitVec.ofNat 12 (768 + n.val)
  | .atR => 896#12
  | .ceC => 1024#12
  | .ceSt => 1025#12
  | .sqR => 1152#12
  | .sqSt => 1153#12
  | .syR => 1280#12
  | .q n => BitVec.ofNat 12 (1536 + n.val)
  | .sr n => BitVec.ofNat 12 (1664 + n.val)

/-- A source that must be a port, I = 0 (R50, R286). -/
def portOf (is : BitVec 12) : Option CSrc := if is.getLsbD 11 then none else csrcOf is

/-- The source a short code names (R48, Table 2-7). -/
def asrcOf (c : BitVec 7) : Option ASrc :=
  let n := c.toNat
  if h : n < 24 then some (.g ⟨n, h⟩)
  else if n = 24 then some .iaR
  else if n = 25 then some .ibR
  else if n = 26 then some .faR
  else if n < 31 then some (.ls ⟨(n - 27) % 4, Nat.mod_lt _ (by decide)⟩)
  else if n = 31 then some .vxS
  else if n < 40 then some (.q ⟨(n - 32) % 8, Nat.mod_lt _ (by decide)⟩)
  else if n < 48 then some (.v ⟨(n - 40) % 8, Nat.mod_lt _ (by decide)⟩)
  else if n < 64 then none
  else some (.imm (c.extractLsb' 0 6))

/-- The short code of a source (R48, Table 2-7). -/
def asrcBits : ASrc → BitVec 7
  | .g n => BitVec.ofNat 7 n.val
  | .iaR => 24#7
  | .ibR => 25#7
  | .faR => 26#7
  | .ls n => BitVec.ofNat 7 (27 + n.val)
  | .vxS => 31#7
  | .q n => BitVec.ofNat 7 (32 + n.val)
  | .v n => BitVec.ofNat 7 (40 + n.val)
  | .imm c => 1#1 ++ c

/-- A vector-register source code 0x28-0x2F (R122). -/
def vregOf (c : BitVec 7) : Option (Fin 8) :=
  if c.extractLsb' 3 4 = 5#4 then some ⟨(c.extractLsb' 0 3).toNat, (c.extractLsb' 0 3).isLt⟩ else none

/-- The short code of a vector register. -/
def vregCode (n : Fin 8) : BitVec 7 := BitVec.ofNat 7 (40 + n.val)

/-- A predicate operand: an immediate code 0x40-0x5F (R99). -/
def predOf (c : BitVec 7) : Option (Fin 32) :=
  if c.extractLsb' 5 2 = 2#2 then some ⟨(c.extractLsb' 0 5).toNat, (c.extractLsb' 0 5).isLt⟩ else none

/-- The code of a predicate operand. -/
def predCode (n : Fin 32) : BitVec 7 := BitVec.ofNat 7 (64 + n.val)

/-- A code 0x40-0x43: a mask register or a quarter (R122). -/
def low4Of (c : BitVec 7) : Option (Fin 4) :=
  if c.extractLsb' 2 5 = 16#5 then some ⟨(c.extractLsb' 0 2).toNat, (c.extractLsb' 0 2).isLt⟩ else none

/-- Three bits of a register number. -/
def bits3 (n : Fin 8) : BitVec 3 := BitVec.ofNat 3 n.val

/-- The prefix fields of a `vpfx` word (R49, Table 2-8a). -/
def prefixOf (is : BitVec 12) : Option Prefix :=
  let m := (is.extractLsb' 9 3).toNat
  let r := (is.extractLsb' 5 3).toNat
  if hm : m < 5 then
    if hr : r < 7 then
      some ⟨⟨m, hm⟩, is.getLsbD 8, ⟨r, hr⟩, is.getLsbD 4,
        ⟨(is.extractLsb' 1 3).toNat, (is.extractLsb' 1 3).isLt⟩, is.getLsbD 0⟩
    else none
  else none

/-- The bits of the prefix fields (R49). -/
def prefixBits (p : Prefix) : BitVec 12 :=
  BitVec.ofNat 3 p.mask.val ++ BitVec.ofBool p.mz ++ BitVec.ofNat 3 p.rm.val ++ BitVec.ofBool p.x ++
    BitVec.ofNat 3 p.v4.val ++ BitVec.ofBool p.sat

/-- LA must be 0 on a destination that Table 2-8 does not mark V (R35). -/
def noLa (c : CWord) (r : Option Instr) : Option Instr := if c.la = 0#4 then r else none

/-- The S field must be one given value. -/
def fixedS (c : CWord) (is : BitVec 12) (i : Instr) : Option Instr := if c.is = is then some i else none

/-- C-words with DU 0x0: plain moves (R44). -/
noncomputable def parseG (c : CWord) : Option Instr :=
  noLa c <| (csrcOf c.is).bind fun s =>
    if h : c.dp.toNat < 24 then
      if s = .ceC then some (.ceCPop ⟨c.lone, c.guard⟩ ⟨c.dp.toNat, h⟩)
      else some (.mov ⟨c.lone, c.guard⟩ ⟨c.dp.toNat, h⟩ s)
    else if c.dp = 24#6 then some (.movPw ⟨c.lone, c.guard⟩ s)
    else if c.dp = 25#6 then some (.movVt ⟨c.lone, c.guard⟩ s)
    else none

/-- C-words with DU 0xD: system registers (Table 2-14, R231, R334, R335). -/
noncomputable def parseSr (c : CWord) : Option Instr :=
  match c.dp.toNat with
  | 2 => noLa c ((csrcOf c.is).map fun s => .writeAlarm ⟨c.lone, c.guard⟩ s)
  | 11 => noLa c ((csrcOf c.is).map fun s => .writeRedpin ⟨c.lone, c.guard⟩ s)
  | 13 => noLa c ((csrcOf c.is).map fun s => .writeRng ⟨c.lone, c.guard⟩ s)
  | 61 => (csrcOf c.is).map fun s => .srTlbinv ⟨c.lone, c.guard⟩ c.la s
  | 62 => fixedS c 2048#12 (.srPfence ⟨c.lone, c.guard⟩ c.la)
  | 63 => (csrcOf c.is).map fun s => .srAckfloor ⟨c.lone, c.guard⟩ c.la s
  | n => noLa c ((srOf n).bind fun r => (csrcOf c.is).map fun s => .srWrite ⟨c.lone, c.guard⟩ r s)

/-- C-words with DU 0xE: long immediates (R45). -/
noncomputable def parseLi (c : CWord) : Option Instr :=
  if h : (c.dp.extractLsb' 1 5).toNat < 24 then
    if c.dp.getLsbD 0 then some (.ldih ⟨c.lone, c.guard⟩ ⟨(c.dp.extractLsb' 1 5).toNat, h⟩ (c.la ++ c.is))
    else some (.ldi ⟨c.lone, c.guard⟩ ⟨(c.dp.extractLsb' 1 5).toNat, h⟩ (c.la ++ c.is))
  else none

/-- C-words with DU 0x1 (Table 2-8). -/
noncomputable def parseIa (c : CWord) : Option Instr :=
  match c.dp.toNat with
  | 0 => noLa c ((csrcOf c.is).map fun s => .iaAddC ⟨c.lone, c.guard⟩ s)
  | 1 => noLa c ((csrcOf c.is).map fun s => .iaSubC ⟨c.lone, c.guard⟩ s)
  | 2 => noLa c ((csrcOf c.is).map fun s => .iaAndC ⟨c.lone, c.guard⟩ s)
  | 3 => noLa c ((csrcOf c.is).map fun s => .iaOrC ⟨c.lone, c.guard⟩ s)
  | 4 => noLa c ((csrcOf c.is).map fun s => .iaXorC ⟨c.lone, c.guard⟩ s)
  | 5 => noLa c ((csrcOf c.is).map fun s => .iaAndnC ⟨c.lone, c.guard⟩ s)
  | 6 => noLa c ((csrcOf c.is).map fun s => .iaShlC ⟨c.lone, c.guard⟩ s)
  | 7 => noLa c ((csrcOf c.is).map fun s => .iaShrC ⟨c.lone, c.guard⟩ s)
  | 8 => noLa c ((csrcOf c.is).map fun s => .iaSarC ⟨c.lone, c.guard⟩ s)
  | 9 => noLa c ((csrcOf c.is).map fun s => .iaRotlC ⟨c.lone, c.guard⟩ s)
  | 10 => noLa c ((csrcOf c.is).map fun s => .iaMinC ⟨c.lone, c.guard⟩ s)
  | 11 => noLa c ((csrcOf c.is).map fun s => .iaMaxC ⟨c.lone, c.guard⟩ s)
  | 12 => noLa c ((csrcOf c.is).map fun s => .iaMinuC ⟨c.lone, c.guard⟩ s)
  | 13 => noLa c ((csrcOf c.is).map fun s => .iaMaxuC ⟨c.lone, c.guard⟩ s)
  | 14 => noLa c ((csrcOf c.is).map fun s => .iaLea1C ⟨c.lone, c.guard⟩ s)
  | 15 => noLa c ((csrcOf c.is).map fun s => .iaLea2C ⟨c.lone, c.guard⟩ s)
  | 16 => noLa c ((csrcOf c.is).map fun s => .iaLea4C ⟨c.lone, c.guard⟩ s)
  | 17 => noLa c ((csrcOf c.is).map fun s => .iaLea8C ⟨c.lone, c.guard⟩ s)
  | 18 => noLa c (fixedS c 2048#12 (.iaSext8C ⟨c.lone, c.guard⟩))
  | 19 => noLa c (fixedS c 2048#12 (.iaSext16C ⟨c.lone, c.guard⟩))
  | 20 => noLa c (fixedS c 2048#12 (.iaSext32C ⟨c.lone, c.guard⟩))
  | 21 => noLa c (fixedS c 2048#12 (.iaZext8C ⟨c.lone, c.guard⟩))
  | 22 => noLa c (fixedS c 2048#12 (.iaZext16C ⟨c.lone, c.guard⟩))
  | 23 => noLa c (fixedS c 2048#12 (.iaZext32C ⟨c.lone, c.guard⟩))
  | 24 => noLa c (fixedS c 2048#12 (.iaClzC ⟨c.lone, c.guard⟩))
  | 25 => noLa c (fixedS c 2048#12 (.iaCtzC ⟨c.lone, c.guard⟩))
  | 26 => noLa c (fixedS c 2048#12 (.iaPopcC ⟨c.lone, c.guard⟩))
  | 27 => noLa c (fixedS c 2048#12 (.iaBswapC ⟨c.lone, c.guard⟩))
  | 28 => noLa c ((csrcOf c.is).map fun s => .iaCmpeqC ⟨c.lone, c.guard⟩ s)
  | 29 => noLa c ((csrcOf c.is).map fun s => .iaCmpneC ⟨c.lone, c.guard⟩ s)
  | 30 => noLa c ((csrcOf c.is).map fun s => .iaCmpltC ⟨c.lone, c.guard⟩ s)
  | 31 => noLa c ((csrcOf c.is).map fun s => .iaCmpltuC ⟨c.lone, c.guard⟩ s)
  | 32 => noLa c ((csrcOf c.is).map fun s => .iaCmpleC ⟨c.lone, c.guard⟩ s)
  | 33 => noLa c ((csrcOf c.is).map fun s => .iaCmpleuC ⟨c.lone, c.guard⟩ s)
  | 34 => noLa c ((csrcOf c.is).map fun s => .iaSelC ⟨c.lone, c.guard⟩ s)
  | 35 => noLa c ((csrcOf c.is).map fun s => .iaSettagC ⟨c.lone, c.guard⟩ s)
  | 36 => noLa c (fixedS c 2048#12 (.iaGettagC ⟨c.lone, c.guard⟩))
  | 37 => noLa c ((csrcOf c.is).map fun s => .iaTileC ⟨c.lone, c.guard⟩ s)
  | 38 => noLa c ((csrcOf c.is).map fun s => .iaGownC ⟨c.lone, c.guard⟩ s)
  | 63 => noLa c ((csrcOf c.is).map fun s => .movIaO ⟨c.lone, c.guard⟩ s)
  | _ => none

/-- C-words with DU 0x2 (Table 2-8). -/
noncomputable def parseIb (c : CWord) : Option Instr :=
  match c.dp.toNat with
  | 0 => noLa c ((csrcOf c.is).map fun s => .ibMulC ⟨c.lone, c.guard⟩ s)
  | 1 => noLa c ((csrcOf c.is).map fun s => .ibMulhC ⟨c.lone, c.guard⟩ s)
  | 2 => noLa c ((csrcOf c.is).map fun s => .ibMulhuC ⟨c.lone, c.guard⟩ s)
  | 3 => noLa c ((csrcOf c.is).map fun s => .ibDivC ⟨c.lone, c.guard⟩ s)
  | 4 => noLa c ((csrcOf c.is).map fun s => .ibDivuC ⟨c.lone, c.guard⟩ s)
  | 5 => noLa c ((csrcOf c.is).map fun s => .ibRemC ⟨c.lone, c.guard⟩ s)
  | 6 => noLa c ((csrcOf c.is).map fun s => .ibRemuC ⟨c.lone, c.guard⟩ s)
  | 7 => noLa c ((csrcOf c.is).map fun s => .ibMulaccC ⟨c.lone, c.guard⟩ s)
  | 8 => noLa c ((csrcOf c.is).map fun s => .ibCrc32cC ⟨c.lone, c.guard⟩ s)
  | 63 => noLa c ((csrcOf c.is).map fun s => .movIbO ⟨c.lone, c.guard⟩ s)
  | _ => none

/-- C-words with DU 0x3 (Table 2-8). -/
noncomputable def parseFa (c : CWord) : Option Instr :=
  match c.dp.toNat with
  | 0 => noLa c ((csrcOf c.is).map fun s => .faFaddC ⟨c.lone, c.guard⟩ s)
  | 1 => noLa c ((csrcOf c.is).map fun s => .faFsubC ⟨c.lone, c.guard⟩ s)
  | 2 => noLa c ((csrcOf c.is).map fun s => .faFmulC ⟨c.lone, c.guard⟩ s)
  | 3 => noLa c ((csrcOf c.is).map fun s => .faFmaC ⟨c.lone, c.guard⟩ s)
  | 4 => noLa c ((csrcOf c.is).map fun s => .faFminC ⟨c.lone, c.guard⟩ s)
  | 5 => noLa c ((csrcOf c.is).map fun s => .faFmaxC ⟨c.lone, c.guard⟩ s)
  | 6 => noLa c (fixedS c 2048#12 (.faFabsC ⟨c.lone, c.guard⟩))
  | 7 => noLa c (fixedS c 2048#12 (.faFnegC ⟨c.lone, c.guard⟩))
  | 8 => noLa c ((csrcOf c.is).map fun s => .faFcmpeqC ⟨c.lone, c.guard⟩ s)
  | 9 => noLa c ((csrcOf c.is).map fun s => .faFcmpltC ⟨c.lone, c.guard⟩ s)
  | 10 => noLa c ((csrcOf c.is).map fun s => .faFcmpleC ⟨c.lone, c.guard⟩ s)
  | 11 => noLa c ((csrcOf c.is).map fun s => .faFcmpunC ⟨c.lone, c.guard⟩ s)
  | 12 => noLa c ((csrcOf c.is).map fun s => .faFdivC ⟨c.lone, c.guard⟩ s)
  | 13 => noLa c (fixedS c 2048#12 (.faFsqrtC ⟨c.lone, c.guard⟩))
  | 14 => noLa c (fixedS c 2048#12 (.faFrcpC ⟨c.lone, c.guard⟩))
  | 15 => noLa c (fixedS c 2048#12 (.faFrsqC ⟨c.lone, c.guard⟩))
  | 16 => noLa c ((csrcOf c.is).map fun s => .faCvtifC ⟨c.lone, c.guard⟩ s)
  | 17 => noLa c ((csrcOf c.is).map fun s => .faCvtfiC ⟨c.lone, c.guard⟩ s)
  | 18 => noLa c (fixedS c 2048#12 (.faTobf16C ⟨c.lone, c.guard⟩))
  | 19 => noLa c (fixedS c 2048#12 (.faFrombf16C ⟨c.lone, c.guard⟩))
  | 20 => noLa c (fixedS c 2048#12 (.faToe4m3C ⟨c.lone, c.guard⟩))
  | 21 => noLa c (fixedS c 2048#12 (.faFromqn4C ⟨c.lone, c.guard⟩))
  | 22 => noLa c ((csrcOf c.is).map fun s => .faSclC ⟨c.lone, c.guard⟩ s)
  | 63 => noLa c ((csrcOf c.is).map fun s => .movFaO ⟨c.lone, c.guard⟩ s)
  | _ => none

/-- C-words with DU 0x4 (Table 2-8). -/
noncomputable def parseVm (c : CWord) : Option Instr :=
  match c.dp.toNat with
  | 0 => (csrcOf c.is).map fun s => .vld ⟨c.lone, c.guard⟩ c.la 0 s
  | 1 => (csrcOf c.is).map fun s => .vld ⟨c.lone, c.guard⟩ c.la 1 s
  | 2 => (csrcOf c.is).map fun s => .vld ⟨c.lone, c.guard⟩ c.la 2 s
  | 3 => (csrcOf c.is).map fun s => .vld ⟨c.lone, c.guard⟩ c.la 3 s
  | 4 => (csrcOf c.is).map fun s => .vld ⟨c.lone, c.guard⟩ c.la 4 s
  | 5 => (csrcOf c.is).map fun s => .vld ⟨c.lone, c.guard⟩ c.la 5 s
  | 6 => (csrcOf c.is).map fun s => .vld ⟨c.lone, c.guard⟩ c.la 6 s
  | 7 => (csrcOf c.is).map fun s => .vld ⟨c.lone, c.guard⟩ c.la 7 s
  | 8 => (csrcOf c.is).map fun s => .vst ⟨c.lone, c.guard⟩ c.la 0 s
  | 9 => (csrcOf c.is).map fun s => .vst ⟨c.lone, c.guard⟩ c.la 1 s
  | 10 => (csrcOf c.is).map fun s => .vst ⟨c.lone, c.guard⟩ c.la 2 s
  | 11 => (csrcOf c.is).map fun s => .vst ⟨c.lone, c.guard⟩ c.la 3 s
  | 12 => (csrcOf c.is).map fun s => .vst ⟨c.lone, c.guard⟩ c.la 4 s
  | 13 => (csrcOf c.is).map fun s => .vst ⟨c.lone, c.guard⟩ c.la 5 s
  | 14 => (csrcOf c.is).map fun s => .vst ⟨c.lone, c.guard⟩ c.la 6 s
  | 15 => (csrcOf c.is).map fun s => .vst ⟨c.lone, c.guard⟩ c.la 7 s
  | 16 => (csrcOf c.is).map fun s => .vlds ⟨c.lone, c.guard⟩ c.la 0 s
  | 17 => (csrcOf c.is).map fun s => .vlds ⟨c.lone, c.guard⟩ c.la 1 s
  | 18 => (csrcOf c.is).map fun s => .vlds ⟨c.lone, c.guard⟩ c.la 2 s
  | 19 => (csrcOf c.is).map fun s => .vlds ⟨c.lone, c.guard⟩ c.la 3 s
  | 20 => (csrcOf c.is).map fun s => .vlds ⟨c.lone, c.guard⟩ c.la 4 s
  | 21 => (csrcOf c.is).map fun s => .vlds ⟨c.lone, c.guard⟩ c.la 5 s
  | 22 => (csrcOf c.is).map fun s => .vlds ⟨c.lone, c.guard⟩ c.la 6 s
  | 23 => (csrcOf c.is).map fun s => .vlds ⟨c.lone, c.guard⟩ c.la 7 s
  | 24 => (csrcOf c.is).map fun s => .vsts ⟨c.lone, c.guard⟩ c.la 0 s
  | 25 => (csrcOf c.is).map fun s => .vsts ⟨c.lone, c.guard⟩ c.la 1 s
  | 26 => (csrcOf c.is).map fun s => .vsts ⟨c.lone, c.guard⟩ c.la 2 s
  | 27 => (csrcOf c.is).map fun s => .vsts ⟨c.lone, c.guard⟩ c.la 3 s
  | 28 => (csrcOf c.is).map fun s => .vsts ⟨c.lone, c.guard⟩ c.la 4 s
  | 29 => (csrcOf c.is).map fun s => .vsts ⟨c.lone, c.guard⟩ c.la 5 s
  | 30 => (csrcOf c.is).map fun s => .vsts ⟨c.lone, c.guard⟩ c.la 6 s
  | 31 => (csrcOf c.is).map fun s => .vsts ⟨c.lone, c.guard⟩ c.la 7 s
  | 32 => (csrcOf c.is).map fun s => .vgth ⟨c.lone, c.guard⟩ c.la 0 s
  | 33 => (csrcOf c.is).map fun s => .vgth ⟨c.lone, c.guard⟩ c.la 1 s
  | 34 => (csrcOf c.is).map fun s => .vgth ⟨c.lone, c.guard⟩ c.la 2 s
  | 35 => (csrcOf c.is).map fun s => .vgth ⟨c.lone, c.guard⟩ c.la 3 s
  | 36 => (csrcOf c.is).map fun s => .vgth ⟨c.lone, c.guard⟩ c.la 4 s
  | 37 => (csrcOf c.is).map fun s => .vgth ⟨c.lone, c.guard⟩ c.la 5 s
  | 38 => (csrcOf c.is).map fun s => .vgth ⟨c.lone, c.guard⟩ c.la 6 s
  | 39 => (csrcOf c.is).map fun s => .vgth ⟨c.lone, c.guard⟩ c.la 7 s
  | 40 => (csrcOf c.is).map fun s => .vsct ⟨c.lone, c.guard⟩ c.la 0 s
  | 41 => (csrcOf c.is).map fun s => .vsct ⟨c.lone, c.guard⟩ c.la 1 s
  | 42 => (csrcOf c.is).map fun s => .vsct ⟨c.lone, c.guard⟩ c.la 2 s
  | 43 => (csrcOf c.is).map fun s => .vsct ⟨c.lone, c.guard⟩ c.la 3 s
  | 44 => (csrcOf c.is).map fun s => .vsct ⟨c.lone, c.guard⟩ c.la 4 s
  | 45 => (csrcOf c.is).map fun s => .vsct ⟨c.lone, c.guard⟩ c.la 5 s
  | 46 => (csrcOf c.is).map fun s => .vsct ⟨c.lone, c.guard⟩ c.la 6 s
  | 47 => (csrcOf c.is).map fun s => .vsct ⟨c.lone, c.guard⟩ c.la 7 s
  | 48 => noLa c ((csrcOf c.is).map fun s => .vset ⟨c.lone, c.guard⟩ s)
  | 49 => (csrcOf c.is).map fun s => .kld ⟨c.lone, c.guard⟩ c.la 0 s
  | 50 => (csrcOf c.is).map fun s => .kld ⟨c.lone, c.guard⟩ c.la 1 s
  | 51 => (csrcOf c.is).map fun s => .kld ⟨c.lone, c.guard⟩ c.la 2 s
  | 52 => (csrcOf c.is).map fun s => .kld ⟨c.lone, c.guard⟩ c.la 3 s
  | 53 => (csrcOf c.is).map fun s => .kst ⟨c.lone, c.guard⟩ c.la 0 s
  | 54 => (csrcOf c.is).map fun s => .kst ⟨c.lone, c.guard⟩ c.la 1 s
  | 55 => (csrcOf c.is).map fun s => .kst ⟨c.lone, c.guard⟩ c.la 2 s
  | 56 => (csrcOf c.is).map fun s => .kst ⟨c.lone, c.guard⟩ c.la 3 s
  | 63 => if c.lone = false ∧ c.guard = 0#4 then noLa c ((prefixOf c.is).map fun p => .vpfx p) else none
  | _ => none

/-- C-words with DU 0x5 (Table 2-8). -/
noncomputable def parseMx (c : CWord) : Option Instr :=
  match c.dp.toNat with
  | 0 => (csrcOf c.is).map fun s => .mxLease ⟨c.lone, c.guard⟩ c.la s
  | 1 => noLa c (fixedS c 2048#12 (.mxFree ⟨c.lone, c.guard⟩))
  | 2 => (csrcOf c.is).map fun s => .mxLdaBf16 ⟨c.lone, c.guard⟩ c.la s
  | 3 => (csrcOf c.is).map fun s => .mxLdaE4m3 ⟨c.lone, c.guard⟩ c.la s
  | 4 => (csrcOf c.is).map fun s => .mxLdaE5m2 ⟨c.lone, c.guard⟩ c.la s
  | 5 => (csrcOf c.is).map fun s => .mxLdaI8 ⟨c.lone, c.guard⟩ c.la s
  | 6 => (csrcOf c.is).map fun s => .mxLdaF32 ⟨c.lone, c.guard⟩ c.la s
  | 7 => (csrcOf c.is).map fun s => .mxLdbBf16 ⟨c.lone, c.guard⟩ c.la s
  | 8 => (csrcOf c.is).map fun s => .mxLdbE4m3 ⟨c.lone, c.guard⟩ c.la s
  | 9 => (csrcOf c.is).map fun s => .mxLdbE5m2 ⟨c.lone, c.guard⟩ c.la s
  | 10 => (csrcOf c.is).map fun s => .mxLdbI8 ⟨c.lone, c.guard⟩ c.la s
  | 11 => (csrcOf c.is).map fun s => .mxLdbF32 ⟨c.lone, c.guard⟩ c.la s
  | 12 => (csrcOf c.is).map fun s => .mxLdbQn4 ⟨c.lone, c.guard⟩ c.la s
  | 13 => (csrcOf c.is).map fun s => .mxMmaM64n64k32Bf16 ⟨c.lone, c.guard⟩ c.la s
  | 14 => (csrcOf c.is).map fun s => .mxMmaM32n64k32Bf16 ⟨c.lone, c.guard⟩ c.la s
  | 15 => (csrcOf c.is).map fun s => .mxMmaM16n64k32Bf16 ⟨c.lone, c.guard⟩ c.la s
  | 16 => (csrcOf c.is).map fun s => .mxMmaM64n64k64E4m3 ⟨c.lone, c.guard⟩ c.la s
  | 17 => (csrcOf c.is).map fun s => .mxMmaM64n64k64E5m2 ⟨c.lone, c.guard⟩ c.la s
  | 18 => (csrcOf c.is).map fun s => .mxMmaM64n64k64Mix8 ⟨c.lone, c.guard⟩ c.la s
  | 19 => (csrcOf c.is).map fun s => .mxMmaM64n64k64I8 ⟨c.lone, c.guard⟩ c.la s
  | 20 => (csrcOf c.is).map fun s => .mxMmaM64n64k64Qn4 ⟨c.lone, c.guard⟩ c.la s
  | 21 => (csrcOf c.is).map fun s => .mxMmaM16n64k64Qn4 ⟨c.lone, c.guard⟩ c.la s
  | 22 => (csrcOf c.is).map fun s => .mxMmaM64n64k8F32 ⟨c.lone, c.guard⟩ c.la s
  | 23 => (csrcOf c.is).map fun s => .mxChainBf16 ⟨c.lone, c.guard⟩ c.la s
  | 24 => (csrcOf c.is).map fun s => .mxChainE4m3 ⟨c.lone, c.guard⟩ c.la s
  | 25 => (csrcOf c.is).map fun s => .mxDrain ⟨c.lone, c.guard⟩ c.la s
  | 26 => (csrcOf c.is).map fun s => .mxDrainv ⟨c.lone, c.guard⟩ c.la s
  | 27 => (csrcOf c.is).map fun s => .mxZero ⟨c.lone, c.guard⟩ c.la s
  | 28 => (csrcOf c.is).map fun s => .mxChk ⟨c.lone, c.guard⟩ c.la s
  | 29 => (csrcOf c.is).map fun s => .mxInject ⟨c.lone, c.guard⟩ c.la s
  | 30 => noLa c ((csrcOf c.is).map fun s => .movMxA ⟨c.lone, c.guard⟩ s)
  | 31 => noLa c ((csrcOf c.is).map fun s => .movMxB ⟨c.lone, c.guard⟩ s)
  | _ => none

/-- C-words with DU 0x6 (Table 2-8). -/
noncomputable def parseLs (c : CWord) : Option Instr :=
  match c.dp.toNat with
  | 0 => (csrcOf c.is).map fun s => .lsLd8s ⟨c.lone, c.guard⟩ c.la 0 s
  | 1 => (csrcOf c.is).map fun s => .lsLd8s ⟨c.lone, c.guard⟩ c.la 1 s
  | 2 => (csrcOf c.is).map fun s => .lsLd8s ⟨c.lone, c.guard⟩ c.la 2 s
  | 3 => (csrcOf c.is).map fun s => .lsLd8s ⟨c.lone, c.guard⟩ c.la 3 s
  | 4 => (csrcOf c.is).map fun s => .lsLd8u ⟨c.lone, c.guard⟩ c.la 0 s
  | 5 => (csrcOf c.is).map fun s => .lsLd8u ⟨c.lone, c.guard⟩ c.la 1 s
  | 6 => (csrcOf c.is).map fun s => .lsLd8u ⟨c.lone, c.guard⟩ c.la 2 s
  | 7 => (csrcOf c.is).map fun s => .lsLd8u ⟨c.lone, c.guard⟩ c.la 3 s
  | 8 => (csrcOf c.is).map fun s => .lsLd16s ⟨c.lone, c.guard⟩ c.la 0 s
  | 9 => (csrcOf c.is).map fun s => .lsLd16s ⟨c.lone, c.guard⟩ c.la 1 s
  | 10 => (csrcOf c.is).map fun s => .lsLd16s ⟨c.lone, c.guard⟩ c.la 2 s
  | 11 => (csrcOf c.is).map fun s => .lsLd16s ⟨c.lone, c.guard⟩ c.la 3 s
  | 12 => (csrcOf c.is).map fun s => .lsLd16u ⟨c.lone, c.guard⟩ c.la 0 s
  | 13 => (csrcOf c.is).map fun s => .lsLd16u ⟨c.lone, c.guard⟩ c.la 1 s
  | 14 => (csrcOf c.is).map fun s => .lsLd16u ⟨c.lone, c.guard⟩ c.la 2 s
  | 15 => (csrcOf c.is).map fun s => .lsLd16u ⟨c.lone, c.guard⟩ c.la 3 s
  | 16 => (csrcOf c.is).map fun s => .lsLd32s ⟨c.lone, c.guard⟩ c.la 0 s
  | 17 => (csrcOf c.is).map fun s => .lsLd32s ⟨c.lone, c.guard⟩ c.la 1 s
  | 18 => (csrcOf c.is).map fun s => .lsLd32s ⟨c.lone, c.guard⟩ c.la 2 s
  | 19 => (csrcOf c.is).map fun s => .lsLd32s ⟨c.lone, c.guard⟩ c.la 3 s
  | 20 => (csrcOf c.is).map fun s => .lsLd32u ⟨c.lone, c.guard⟩ c.la 0 s
  | 21 => (csrcOf c.is).map fun s => .lsLd32u ⟨c.lone, c.guard⟩ c.la 1 s
  | 22 => (csrcOf c.is).map fun s => .lsLd32u ⟨c.lone, c.guard⟩ c.la 2 s
  | 23 => (csrcOf c.is).map fun s => .lsLd32u ⟨c.lone, c.guard⟩ c.la 3 s
  | 24 => (csrcOf c.is).map fun s => .lsLd64 ⟨c.lone, c.guard⟩ c.la 0 s
  | 25 => (csrcOf c.is).map fun s => .lsLd64 ⟨c.lone, c.guard⟩ c.la 1 s
  | 26 => (csrcOf c.is).map fun s => .lsLd64 ⟨c.lone, c.guard⟩ c.la 2 s
  | 27 => (csrcOf c.is).map fun s => .lsLd64 ⟨c.lone, c.guard⟩ c.la 3 s
  | 28 => (csrcOf c.is).map fun s => .lsLdp ⟨c.lone, c.guard⟩ c.la 0 s
  | 29 => (csrcOf c.is).map fun s => .lsLdp ⟨c.lone, c.guard⟩ c.la 1 s
  | 30 => (csrcOf c.is).map fun s => .lsLdp ⟨c.lone, c.guard⟩ c.la 2 s
  | 31 => (csrcOf c.is).map fun s => .lsLdp ⟨c.lone, c.guard⟩ c.la 3 s
  | 32 => (csrcOf c.is).map fun s => .lsSt8 ⟨c.lone, c.guard⟩ c.la s
  | 33 => (csrcOf c.is).map fun s => .lsSt16 ⟨c.lone, c.guard⟩ c.la s
  | 34 => (csrcOf c.is).map fun s => .lsSt32 ⟨c.lone, c.guard⟩ c.la s
  | 35 => (csrcOf c.is).map fun s => .lsSt64 ⟨c.lone, c.guard⟩ c.la s
  | 36 => (csrcOf c.is).map fun s => .lsStp ⟨c.lone, c.guard⟩ c.la s
  | 37 => noLa c ((csrcOf c.is).map fun s => .lsPf ⟨c.lone, c.guard⟩ s)
  | 40 => noLa c ((csrcOf c.is).map fun s => .movLsD ⟨c.lone, c.guard⟩ s)
  | _ => none

/-- C-words with DU 0x7 (Table 2-8). -/
noncomputable def parseAt (c : CWord) : Option Instr :=
  match c.dp.toNat with
  | 0 => (csrcOf c.is).map fun s => .atAdd32 ⟨c.lone, c.guard⟩ c.la s
  | 1 => (csrcOf c.is).map fun s => .atAdd64 ⟨c.lone, c.guard⟩ c.la s
  | 2 => (csrcOf c.is).map fun s => .atFadd32 ⟨c.lone, c.guard⟩ c.la s
  | 3 => (csrcOf c.is).map fun s => .atFadd16b ⟨c.lone, c.guard⟩ c.la s
  | 4 => (csrcOf c.is).map fun s => .atMin32 ⟨c.lone, c.guard⟩ c.la s
  | 5 => (csrcOf c.is).map fun s => .atMax32 ⟨c.lone, c.guard⟩ c.la s
  | 6 => (csrcOf c.is).map fun s => .atMinu32 ⟨c.lone, c.guard⟩ c.la s
  | 7 => (csrcOf c.is).map fun s => .atMaxu32 ⟨c.lone, c.guard⟩ c.la s
  | 8 => (csrcOf c.is).map fun s => .atAnd64 ⟨c.lone, c.guard⟩ c.la s
  | 9 => (csrcOf c.is).map fun s => .atOr64 ⟨c.lone, c.guard⟩ c.la s
  | 10 => (csrcOf c.is).map fun s => .atXor64 ⟨c.lone, c.guard⟩ c.la s
  | 11 => (csrcOf c.is).map fun s => .atSwp64 ⟨c.lone, c.guard⟩ c.la s
  | 12 => (csrcOf c.is).map fun s => .atCas64 ⟨c.lone, c.guard⟩ c.la s
  | 13 => (csrcOf c.is).map fun s => .atFinc ⟨c.lone, c.guard⟩ c.la s
  | 14 => (csrcOf c.is).map fun s => .atRedAdd32 ⟨c.lone, c.guard⟩ c.la s
  | 15 => (csrcOf c.is).map fun s => .atRedAdd64 ⟨c.lone, c.guard⟩ c.la s
  | 16 => (csrcOf c.is).map fun s => .atRedFadd32 ⟨c.lone, c.guard⟩ c.la s
  | 17 => (csrcOf c.is).map fun s => .atRedFadd16b ⟨c.lone, c.guard⟩ c.la s
  | 18 => noLa c ((csrcOf c.is).map fun s => .atAset ⟨c.lone, c.guard⟩ 0 s)
  | 19 => noLa c ((csrcOf c.is).map fun s => .atAset ⟨c.lone, c.guard⟩ 1 s)
  | 20 => noLa c ((csrcOf c.is).map fun s => .atAset ⟨c.lone, c.guard⟩ 2 s)
  | 21 => noLa c ((csrcOf c.is).map fun s => .atAset ⟨c.lone, c.guard⟩ 3 s)
  | 22 => noLa c ((csrcOf c.is).map fun s => .atAset ⟨c.lone, c.guard⟩ 4 s)
  | 23 => noLa c ((csrcOf c.is).map fun s => .atAset ⟨c.lone, c.guard⟩ 5 s)
  | 24 => noLa c ((csrcOf c.is).map fun s => .atAset ⟨c.lone, c.guard⟩ 6 s)
  | 25 => noLa c ((csrcOf c.is).map fun s => .atAset ⟨c.lone, c.guard⟩ 7 s)
  | 26 => fixedS c 2048#12 (.atTok ⟨c.lone, c.guard⟩ c.la)
  | 27 => noLa c ((csrcOf c.is).map fun s => .movAtO ⟨c.lone, c.guard⟩ s)
  | _ => none

/-- C-words with DU 0x8 (Table 2-8). -/
noncomputable def parseCe (c : CWord) : Option Instr :=
  match c.dp.toNat with
  | 0 => noLa c (fixedS c 2048#12 (.ceCopy ⟨c.lone, c.guard⟩ 0))
  | 1 => noLa c (fixedS c 2048#12 (.ceCopy ⟨c.lone, c.guard⟩ 1))
  | 2 => noLa c (fixedS c 2048#12 (.ceCopy ⟨c.lone, c.guard⟩ 2))
  | 3 => noLa c (fixedS c 2048#12 (.ceCopy ⟨c.lone, c.guard⟩ 3))
  | 4 => noLa c (fixedS c 2048#12 (.ceCopy2d ⟨c.lone, c.guard⟩ 0))
  | 5 => noLa c (fixedS c 2048#12 (.ceCopy2d ⟨c.lone, c.guard⟩ 1))
  | 6 => noLa c (fixedS c 2048#12 (.ceCopy2d ⟨c.lone, c.guard⟩ 2))
  | 7 => noLa c (fixedS c 2048#12 (.ceCopy2d ⟨c.lone, c.guard⟩ 3))
  | 8 => noLa c (fixedS c 2048#12 (.ceMcast ⟨c.lone, c.guard⟩ 0))
  | 9 => noLa c (fixedS c 2048#12 (.ceMcast ⟨c.lone, c.guard⟩ 1))
  | 10 => noLa c (fixedS c 2048#12 (.ceMcast ⟨c.lone, c.guard⟩ 2))
  | 11 => noLa c (fixedS c 2048#12 (.ceMcast ⟨c.lone, c.guard⟩ 3))
  | 12 => noLa c (fixedS c 2048#12 (.ceRedb ⟨c.lone, c.guard⟩ 0))
  | 13 => noLa c (fixedS c 2048#12 (.ceRedb ⟨c.lone, c.guard⟩ 1))
  | 14 => noLa c (fixedS c 2048#12 (.ceRedb ⟨c.lone, c.guard⟩ 2))
  | 15 => noLa c (fixedS c 2048#12 (.ceRedb ⟨c.lone, c.guard⟩ 3))
  | 16 => noLa c (fixedS c 2048#12 (.ceRedf ⟨c.lone, c.guard⟩ 0))
  | 17 => noLa c (fixedS c 2048#12 (.ceRedf ⟨c.lone, c.guard⟩ 1))
  | 18 => noLa c (fixedS c 2048#12 (.ceRedf ⟨c.lone, c.guard⟩ 2))
  | 19 => noLa c (fixedS c 2048#12 (.ceRedf ⟨c.lone, c.guard⟩ 3))
  | 20 => noLa c (fixedS c 2048#12 (.ceCopyq ⟨c.lone, c.guard⟩ 0))
  | 21 => noLa c (fixedS c 2048#12 (.ceCopyq ⟨c.lone, c.guard⟩ 1))
  | 22 => noLa c (fixedS c 2048#12 (.ceCopyq ⟨c.lone, c.guard⟩ 2))
  | 23 => noLa c (fixedS c 2048#12 (.ceCopyq ⟨c.lone, c.guard⟩ 3))
  | 24 => noLa c (fixedS c 2048#12 (.ceCopyb ⟨c.lone, c.guard⟩ 0))
  | 25 => noLa c (fixedS c 2048#12 (.ceCopyb ⟨c.lone, c.guard⟩ 1))
  | 26 => noLa c (fixedS c 2048#12 (.ceCopyb ⟨c.lone, c.guard⟩ 2))
  | 27 => noLa c (fixedS c 2048#12 (.ceCopyb ⟨c.lone, c.guard⟩ 3))
  | 28 => noLa c ((csrcOf c.is).map fun s => .movCeS ⟨c.lone, c.guard⟩ s)
  | 29 => noLa c ((csrcOf c.is).map fun s => .movCeD ⟨c.lone, c.guard⟩ s)
  | 30 => noLa c ((csrcOf c.is).map fun s => .movCeN ⟨c.lone, c.guard⟩ s)
  | 31 => noLa c ((csrcOf c.is).map fun s => .movCeB ⟨c.lone, c.guard⟩ s)
  | 32 => noLa c ((csrcOf c.is).map fun s => .movCeM ⟨c.lone, c.guard⟩ s)
  | _ => none

/-- C-words with DU 0x9 (Table 2-8). -/
noncomputable def parseSq (c : CWord) : Option Instr :=
  match c.dp.toNat with
  | 0 => (portOf c.is).map fun s => .sqPush ⟨c.lone, c.guard⟩ c.la s
  | 1 => (portOf c.is).map fun s => .sqPop ⟨c.lone, c.guard⟩ c.la s
  | 2 => (portOf c.is).map fun s => .sqPeek ⟨c.lone, c.guard⟩ c.la s
  | 3 => if c.is.extractLsb' 10 2 = 2#2 then some (.sqPopw ⟨c.lone, c.guard⟩ c.la (c.is.extractLsb' 0 10)) else none
  | 4 => if c.is.extractLsb' 10 2 = 2#2 then some (.sqPushw ⟨c.lone, c.guard⟩ c.la (c.is.extractLsb' 0 10)) else none
  | 5 => (csrcOf c.is).map fun s => .sqRqpush ⟨c.lone, c.guard⟩ c.la 0 s
  | 6 => (csrcOf c.is).map fun s => .sqRqpush ⟨c.lone, c.guard⟩ c.la 1 s
  | 7 => (csrcOf c.is).map fun s => .sqRqpush ⟨c.lone, c.guard⟩ c.la 2 s
  | 8 => (csrcOf c.is).map fun s => .sqRqpush ⟨c.lone, c.guard⟩ c.la 3 s
  | 9 => fixedS c 2048#12 (.sqRqpop ⟨c.lone, c.guard⟩ c.la)
  | 10 => (csrcOf c.is).map fun s => .sqRqprio ⟨c.lone, c.guard⟩ c.la s
  | 11 => (csrcOf c.is).map fun s => .sqSpawn ⟨c.lone, c.guard⟩ c.la s
  | 12 => (csrcOf c.is).map fun s => .sqDec ⟨c.lone, c.guard⟩ c.la s
  | 13 => noLa c (fixedS c 2048#12 (.sqDone ⟨c.lone, c.guard⟩))
  | 14 => noLa c ((csrcOf c.is).map fun s => .movSqD ⟨c.lone, c.guard⟩ s)
  | 15 => noLa c ((csrcOf c.is).map fun s => .movSqH ⟨c.lone, c.guard⟩ s)
  | _ => none

/-- C-words with DU 0xA (Table 2-8). -/
noncomputable def parseSy (c : CWord) : Option Instr :=
  match c.dp.toNat with
  | 0 => (csrcOf c.is).map fun s => .syBinit ⟨c.lone, c.guard⟩ c.la s
  | 1 => (csrcOf c.is).map fun s => .syArrive ⟨c.lone, c.guard⟩ c.la s
  | 2 => (csrcOf c.is).map fun s => .syArrivb ⟨c.lone, c.guard⟩ c.la s
  | 3 => (csrcOf c.is).map fun s => .syWait ⟨c.lone, c.guard⟩ c.la s
  | 4 => (csrcOf c.is).map fun s => .syTest ⟨c.lone, c.guard⟩ c.la s
  | 5 => (csrcOf c.is).map fun s => .syInval ⟨c.lone, c.guard⟩ c.la s
  | 6 => (csrcOf c.is).map fun s => .syMon ⟨c.lone, c.guard⟩ c.la 0 s
  | 7 => (csrcOf c.is).map fun s => .syMon ⟨c.lone, c.guard⟩ c.la 1 s
  | 8 => (csrcOf c.is).map fun s => .syMon ⟨c.lone, c.guard⟩ c.la 2 s
  | 9 => (csrcOf c.is).map fun s => .syMon ⟨c.lone, c.guard⟩ c.la 3 s
  | 10 => if c.is.extractLsb' 4 8 = 128#8 then some (.syUnmon ⟨c.lone, c.guard⟩ c.la (c.is.extractLsb' 0 4)) else none
  | 11 => fixedS c 2048#12 (.syMwait ⟨c.lone, c.guard⟩ c.la)
  | 12 => fixedS c 2048#12 (.syGbar ⟨c.lone, c.guard⟩ c.la)
  | 13 => noLa c ((csrcOf c.is).map fun s => .movSyA ⟨c.lone, c.guard⟩ s)
  | 14 => noLa c ((csrcOf c.is).map fun s => .movSyB ⟨c.lone, c.guard⟩ s)
  | 15 => noLa c ((csrcOf c.is).map fun s => .movSyL ⟨c.lone, c.guard⟩ s)
  | _ => none

/-- C-words with DU 0xB (Table 2-8). -/
noncomputable def parseCt (c : CWord) : Option Instr :=
  match c.dp.toNat with
  | 0 => noLa c (if c.is.getLsbD 11 then some (.ctBr ⟨c.lone, c.guard⟩ (c.is.extractLsb' 0 11)) else (csrcOf c.is).map fun s => .ctBrAbs ⟨c.lone, c.guard⟩ s)
  | 1 => noLa c (if c.is.getLsbD 11 then some (.ctCall ⟨c.lone, c.guard⟩ (c.is.extractLsb' 0 11)) else (csrcOf c.is).map fun s => .ctCallAbs ⟨c.lone, c.guard⟩ s)
  | 2 => noLa c (fixedS c 27#12 (.ctRet ⟨c.lone, c.guard⟩))
  | 3 => noLa c ((portOf c.is).map fun s => .ctJmp ⟨c.lone, c.guard⟩ s)
  | 4 => noLa c (fixedS c 2048#12 (.ctChunk ⟨c.lone, c.guard⟩))
  | 5 => noLa c (fixedS c 2048#12 (.ctYield ⟨c.lone, c.guard⟩))
  | 6 => noLa c (fixedS c 2048#12 (.ctHalt ⟨c.lone, c.guard⟩))
  | 7 => noLa c ((csrcOf c.is).map fun s => .ctTrap ⟨c.lone, c.guard⟩ s)
  | 8 => noLa c (fixedS c 2048#12 (.ctNop ⟨c.lone, c.guard⟩))
  | 9 => (csrcOf c.is).map fun s => .ctIpf ⟨c.lone, c.guard⟩ c.la s
  | 10 => noLa c (fixedS c 2048#12 (.ctEfence ⟨c.lone, c.guard⟩))
  | 11 => noLa c ((csrcOf c.is).map fun s => .ctSstop ⟨c.lone, c.guard⟩ s)
  | 12 => noLa c ((csrcOf c.is).map fun s => .ctSgo ⟨c.lone, c.guard⟩ s)
  | 13 => noLa c ((csrcOf c.is).map fun s => .ctSsave ⟨c.lone, c.guard⟩ s)
  | 14 => noLa c ((csrcOf c.is).map fun s => .ctSload ⟨c.lone, c.guard⟩ s)
  | 15 => noLa c ((csrcOf c.is).map fun s => .ctResume ⟨c.lone, c.guard⟩ s)
  | _ => none

/-- C-words with DU 0xC (Table 2-8). -/
noncomputable def parseQs (c : CWord) : Option Instr :=
  match c.dp.toNat with
  | 0 => noLa c ((csrcOf c.is).map fun s => .qsBind ⟨c.lone, c.guard⟩ 0 s)
  | 1 => noLa c ((csrcOf c.is).map fun s => .qsBind ⟨c.lone, c.guard⟩ 1 s)
  | 2 => noLa c ((csrcOf c.is).map fun s => .qsBind ⟨c.lone, c.guard⟩ 2 s)
  | 3 => noLa c ((csrcOf c.is).map fun s => .qsBind ⟨c.lone, c.guard⟩ 3 s)
  | 4 => noLa c ((csrcOf c.is).map fun s => .qsBind ⟨c.lone, c.guard⟩ 4 s)
  | 5 => noLa c ((csrcOf c.is).map fun s => .qsBind ⟨c.lone, c.guard⟩ 5 s)
  | 6 => noLa c ((csrcOf c.is).map fun s => .qsBind ⟨c.lone, c.guard⟩ 6 s)
  | 7 => noLa c ((csrcOf c.is).map fun s => .qsBind ⟨c.lone, c.guard⟩ 7 s)
  | 8 => noLa c (if c.is.extractLsb' 3 9 = 256#9 then some (.qsUnbind ⟨c.lone, c.guard⟩ ⟨(c.is.extractLsb' 0 3).toNat, (c.is.extractLsb' 0 3).isLt⟩) else none)
  | 16 => noLa c ((csrcOf c.is).map fun s => .qsWrite ⟨c.lone, c.guard⟩ 0 s)
  | 17 => noLa c ((csrcOf c.is).map fun s => .qsWrite ⟨c.lone, c.guard⟩ 1 s)
  | 18 => noLa c ((csrcOf c.is).map fun s => .qsWrite ⟨c.lone, c.guard⟩ 2 s)
  | 19 => noLa c ((csrcOf c.is).map fun s => .qsWrite ⟨c.lone, c.guard⟩ 3 s)
  | 20 => noLa c ((csrcOf c.is).map fun s => .qsWrite ⟨c.lone, c.guard⟩ 4 s)
  | 21 => noLa c ((csrcOf c.is).map fun s => .qsWrite ⟨c.lone, c.guard⟩ 5 s)
  | 22 => noLa c ((csrcOf c.is).map fun s => .qsWrite ⟨c.lone, c.guard⟩ 6 s)
  | 23 => noLa c ((csrcOf c.is).map fun s => .qsWrite ⟨c.lone, c.guard⟩ 7 s)
  | _ => none

/-- A-words with AU = 0 (Tables 2-9 to 2-12). -/
noncomputable def parseAIa (a : AWord) : Option Instr :=
  match a.op.toNat with
  | 0 => if a.d = 0#3 then (asrcOf a.os).bind fun o => (asrcOf a.ts).map fun t => .iaAdd ⟨a.lone, a.guard⟩ o t else none
  | 1 => if a.d = 0#3 then (asrcOf a.os).bind fun o => (asrcOf a.ts).map fun t => .iaSub ⟨a.lone, a.guard⟩ o t else none
  | 2 => if a.d = 0#3 then (asrcOf a.os).bind fun o => (asrcOf a.ts).map fun t => .iaAnd ⟨a.lone, a.guard⟩ o t else none
  | 3 => if a.d = 0#3 then (asrcOf a.os).bind fun o => (asrcOf a.ts).map fun t => .iaOr ⟨a.lone, a.guard⟩ o t else none
  | 4 => if a.d = 0#3 then (asrcOf a.os).bind fun o => (asrcOf a.ts).map fun t => .iaXor ⟨a.lone, a.guard⟩ o t else none
  | 5 => if a.d = 0#3 then (asrcOf a.os).bind fun o => (asrcOf a.ts).map fun t => .iaAndn ⟨a.lone, a.guard⟩ o t else none
  | 6 => if a.d = 0#3 then (asrcOf a.os).bind fun o => (asrcOf a.ts).map fun t => .iaShl ⟨a.lone, a.guard⟩ o t else none
  | 7 => if a.d = 0#3 then (asrcOf a.os).bind fun o => (asrcOf a.ts).map fun t => .iaShr ⟨a.lone, a.guard⟩ o t else none
  | 8 => if a.d = 0#3 then (asrcOf a.os).bind fun o => (asrcOf a.ts).map fun t => .iaSar ⟨a.lone, a.guard⟩ o t else none
  | 9 => if a.d = 0#3 then (asrcOf a.os).bind fun o => (asrcOf a.ts).map fun t => .iaRotl ⟨a.lone, a.guard⟩ o t else none
  | 10 => if a.d = 0#3 then (asrcOf a.os).bind fun o => (asrcOf a.ts).map fun t => .iaMin ⟨a.lone, a.guard⟩ o t else none
  | 11 => if a.d = 0#3 then (asrcOf a.os).bind fun o => (asrcOf a.ts).map fun t => .iaMax ⟨a.lone, a.guard⟩ o t else none
  | 12 => if a.d = 0#3 then (asrcOf a.os).bind fun o => (asrcOf a.ts).map fun t => .iaMinu ⟨a.lone, a.guard⟩ o t else none
  | 13 => if a.d = 0#3 then (asrcOf a.os).bind fun o => (asrcOf a.ts).map fun t => .iaMaxu ⟨a.lone, a.guard⟩ o t else none
  | 14 => if a.d = 0#3 then (asrcOf a.os).bind fun o => (asrcOf a.ts).map fun t => .iaLea1 ⟨a.lone, a.guard⟩ o t else none
  | 15 => if a.d = 0#3 then (asrcOf a.os).bind fun o => (asrcOf a.ts).map fun t => .iaLea2 ⟨a.lone, a.guard⟩ o t else none
  | 16 => if a.d = 0#3 then (asrcOf a.os).bind fun o => (asrcOf a.ts).map fun t => .iaLea4 ⟨a.lone, a.guard⟩ o t else none
  | 17 => if a.d = 0#3 then (asrcOf a.os).bind fun o => (asrcOf a.ts).map fun t => .iaLea8 ⟨a.lone, a.guard⟩ o t else none
  | 18 => if a.d = 0#3 then if a.ts = 64#7 then (asrcOf a.os).map fun o => .iaSext8 ⟨a.lone, a.guard⟩ o else none else none
  | 19 => if a.d = 0#3 then if a.ts = 64#7 then (asrcOf a.os).map fun o => .iaSext16 ⟨a.lone, a.guard⟩ o else none else none
  | 20 => if a.d = 0#3 then if a.ts = 64#7 then (asrcOf a.os).map fun o => .iaSext32 ⟨a.lone, a.guard⟩ o else none else none
  | 21 => if a.d = 0#3 then if a.ts = 64#7 then (asrcOf a.os).map fun o => .iaZext8 ⟨a.lone, a.guard⟩ o else none else none
  | 22 => if a.d = 0#3 then if a.ts = 64#7 then (asrcOf a.os).map fun o => .iaZext16 ⟨a.lone, a.guard⟩ o else none else none
  | 23 => if a.d = 0#3 then if a.ts = 64#7 then (asrcOf a.os).map fun o => .iaZext32 ⟨a.lone, a.guard⟩ o else none else none
  | 24 => if a.d = 0#3 then if a.ts = 64#7 then (asrcOf a.os).map fun o => .iaClz ⟨a.lone, a.guard⟩ o else none else none
  | 25 => if a.d = 0#3 then if a.ts = 64#7 then (asrcOf a.os).map fun o => .iaCtz ⟨a.lone, a.guard⟩ o else none else none
  | 26 => if a.d = 0#3 then if a.ts = 64#7 then (asrcOf a.os).map fun o => .iaPopc ⟨a.lone, a.guard⟩ o else none else none
  | 27 => if a.d = 0#3 then if a.ts = 64#7 then (asrcOf a.os).map fun o => .iaBswap ⟨a.lone, a.guard⟩ o else none else none
  | 28 => (asrcOf a.os).bind fun o => (asrcOf a.ts).map fun t => .iaCmpeq ⟨a.lone, a.guard⟩ ⟨a.d.toNat, a.d.isLt⟩ o t
  | 29 => (asrcOf a.os).bind fun o => (asrcOf a.ts).map fun t => .iaCmpne ⟨a.lone, a.guard⟩ ⟨a.d.toNat, a.d.isLt⟩ o t
  | 30 => (asrcOf a.os).bind fun o => (asrcOf a.ts).map fun t => .iaCmplt ⟨a.lone, a.guard⟩ ⟨a.d.toNat, a.d.isLt⟩ o t
  | 31 => (asrcOf a.os).bind fun o => (asrcOf a.ts).map fun t => .iaCmpltu ⟨a.lone, a.guard⟩ ⟨a.d.toNat, a.d.isLt⟩ o t
  | 32 => (asrcOf a.os).bind fun o => (asrcOf a.ts).map fun t => .iaCmple ⟨a.lone, a.guard⟩ ⟨a.d.toNat, a.d.isLt⟩ o t
  | 33 => (asrcOf a.os).bind fun o => (asrcOf a.ts).map fun t => .iaCmpleu ⟨a.lone, a.guard⟩ ⟨a.d.toNat, a.d.isLt⟩ o t
  | 34 => if a.d = 0#3 then (asrcOf a.os).bind fun o => (asrcOf a.ts).map fun t => .iaSel ⟨a.lone, a.guard⟩ o t else none
  | 35 => if a.d = 0#3 then (asrcOf a.os).bind fun o => (asrcOf a.ts).map fun t => .iaSettag ⟨a.lone, a.guard⟩ o t else none
  | 36 => if a.d = 0#3 then if a.ts = 64#7 then (asrcOf a.os).map fun o => .iaGettag ⟨a.lone, a.guard⟩ o else none else none
  | 37 => if a.d = 0#3 then (asrcOf a.os).bind fun o => (asrcOf a.ts).map fun t => .iaTile ⟨a.lone, a.guard⟩ o t else none
  | 38 => if a.d = 0#3 then (asrcOf a.os).bind fun o => (asrcOf a.ts).map fun t => .iaGown ⟨a.lone, a.guard⟩ o t else none
  | 39 => (predOf a.os).bind fun o => (predOf a.ts).map fun t => .iaPand ⟨a.lone, a.guard⟩ ⟨a.d.toNat, a.d.isLt⟩ o t
  | 40 => (predOf a.os).bind fun o => (predOf a.ts).map fun t => .iaPor ⟨a.lone, a.guard⟩ ⟨a.d.toNat, a.d.isLt⟩ o t
  | 41 => (predOf a.os).bind fun o => (predOf a.ts).map fun t => .iaPxor ⟨a.lone, a.guard⟩ ⟨a.d.toNat, a.d.isLt⟩ o t
  | 42 => if a.ts = 64#7 then (predOf a.os).map fun o => .iaPnot ⟨a.lone, a.guard⟩ ⟨a.d.toNat, a.d.isLt⟩ o else none
  | 43 => if a.os = 64#7 ∧ a.ts = 64#7 then some (.iaPset ⟨a.lone, a.guard⟩ ⟨a.d.toNat, a.d.isLt⟩) else none
  | 44 => if a.os = 64#7 ∧ a.ts = 64#7 then some (.iaPclr ⟨a.lone, a.guard⟩ ⟨a.d.toNat, a.d.isLt⟩) else none
  | _ => none

/-- A-words with AU = 1 (Tables 2-9 to 2-12). -/
noncomputable def parseAIb (a : AWord) : Option Instr :=
  match a.op.toNat with
  | 0 => if a.d = 0#3 then (asrcOf a.os).bind fun o => (asrcOf a.ts).map fun t => .ibMul ⟨a.lone, a.guard⟩ o t else none
  | 1 => if a.d = 0#3 then (asrcOf a.os).bind fun o => (asrcOf a.ts).map fun t => .ibMulh ⟨a.lone, a.guard⟩ o t else none
  | 2 => if a.d = 0#3 then (asrcOf a.os).bind fun o => (asrcOf a.ts).map fun t => .ibMulhu ⟨a.lone, a.guard⟩ o t else none
  | 3 => if a.d = 0#3 then (asrcOf a.os).bind fun o => (asrcOf a.ts).map fun t => .ibDiv ⟨a.lone, a.guard⟩ o t else none
  | 4 => if a.d = 0#3 then (asrcOf a.os).bind fun o => (asrcOf a.ts).map fun t => .ibDivu ⟨a.lone, a.guard⟩ o t else none
  | 5 => if a.d = 0#3 then (asrcOf a.os).bind fun o => (asrcOf a.ts).map fun t => .ibRem ⟨a.lone, a.guard⟩ o t else none
  | 6 => if a.d = 0#3 then (asrcOf a.os).bind fun o => (asrcOf a.ts).map fun t => .ibRemu ⟨a.lone, a.guard⟩ o t else none
  | 7 => if a.d = 0#3 then (asrcOf a.os).bind fun o => (asrcOf a.ts).map fun t => .ibMulacc ⟨a.lone, a.guard⟩ o t else none
  | 8 => if a.d = 0#3 then (asrcOf a.os).bind fun o => (asrcOf a.ts).map fun t => .ibCrc32c ⟨a.lone, a.guard⟩ o t else none
  | _ => none

/-- A-words with AU = 2 (Tables 2-9 to 2-12). -/
noncomputable def parseAFa (a : AWord) : Option Instr :=
  match a.op.toNat with
  | 0 => if a.d = 0#3 then (asrcOf a.os).bind fun o => (asrcOf a.ts).map fun t => .faFadd ⟨a.lone, a.guard⟩ o t else none
  | 1 => if a.d = 0#3 then (asrcOf a.os).bind fun o => (asrcOf a.ts).map fun t => .faFsub ⟨a.lone, a.guard⟩ o t else none
  | 2 => if a.d = 0#3 then (asrcOf a.os).bind fun o => (asrcOf a.ts).map fun t => .faFmul ⟨a.lone, a.guard⟩ o t else none
  | 3 => if a.d = 0#3 then (asrcOf a.os).bind fun o => (asrcOf a.ts).map fun t => .faFma ⟨a.lone, a.guard⟩ o t else none
  | 4 => if a.d = 0#3 then (asrcOf a.os).bind fun o => (asrcOf a.ts).map fun t => .faFmin ⟨a.lone, a.guard⟩ o t else none
  | 5 => if a.d = 0#3 then (asrcOf a.os).bind fun o => (asrcOf a.ts).map fun t => .faFmax ⟨a.lone, a.guard⟩ o t else none
  | 6 => if a.d = 0#3 then if a.ts = 64#7 then (asrcOf a.os).map fun o => .faFabs ⟨a.lone, a.guard⟩ o else none else none
  | 7 => if a.d = 0#3 then if a.ts = 64#7 then (asrcOf a.os).map fun o => .faFneg ⟨a.lone, a.guard⟩ o else none else none
  | 8 => (asrcOf a.os).bind fun o => (asrcOf a.ts).map fun t => .faFcmpeq ⟨a.lone, a.guard⟩ ⟨a.d.toNat, a.d.isLt⟩ o t
  | 9 => (asrcOf a.os).bind fun o => (asrcOf a.ts).map fun t => .faFcmplt ⟨a.lone, a.guard⟩ ⟨a.d.toNat, a.d.isLt⟩ o t
  | 10 => (asrcOf a.os).bind fun o => (asrcOf a.ts).map fun t => .faFcmple ⟨a.lone, a.guard⟩ ⟨a.d.toNat, a.d.isLt⟩ o t
  | 11 => (asrcOf a.os).bind fun o => (asrcOf a.ts).map fun t => .faFcmpun ⟨a.lone, a.guard⟩ ⟨a.d.toNat, a.d.isLt⟩ o t
  | 12 => if a.d = 0#3 then (asrcOf a.os).bind fun o => (asrcOf a.ts).map fun t => .faFdiv ⟨a.lone, a.guard⟩ o t else none
  | 13 => if a.d = 0#3 then if a.ts = 64#7 then (asrcOf a.os).map fun o => .faFsqrt ⟨a.lone, a.guard⟩ o else none else none
  | 14 => if a.d = 0#3 then if a.ts = 64#7 then (asrcOf a.os).map fun o => .faFrcp ⟨a.lone, a.guard⟩ o else none else none
  | 15 => if a.d = 0#3 then if a.ts = 64#7 then (asrcOf a.os).map fun o => .faFrsq ⟨a.lone, a.guard⟩ o else none else none
  | 16 => if a.d = 0#3 then (asrcOf a.os).bind fun o => (asrcOf a.ts).map fun t => .faCvtif ⟨a.lone, a.guard⟩ o t else none
  | 17 => if a.d = 0#3 then (asrcOf a.os).bind fun o => (asrcOf a.ts).map fun t => .faCvtfi ⟨a.lone, a.guard⟩ o t else none
  | 18 => if a.d = 0#3 then if a.ts = 64#7 then (asrcOf a.os).map fun o => .faTobf16 ⟨a.lone, a.guard⟩ o else none else none
  | 19 => if a.d = 0#3 then if a.ts = 64#7 then (asrcOf a.os).map fun o => .faFrombf16 ⟨a.lone, a.guard⟩ o else none else none
  | 20 => if a.d = 0#3 then if a.ts = 64#7 then (asrcOf a.os).map fun o => .faToe4m3 ⟨a.lone, a.guard⟩ o else none else none
  | 21 => if a.d = 0#3 then if a.ts = 64#7 then (asrcOf a.os).map fun o => .faFromqn4 ⟨a.lone, a.guard⟩ o else none else none
  | 22 => if a.d = 0#3 then (asrcOf a.os).bind fun o => (asrcOf a.ts).map fun t => .faScl ⟨a.lone, a.guard⟩ o t else none
  | _ => none

/-- A-words with AU = 3 (Tables 2-9 to 2-12). -/
noncomputable def parseAVx (a : AWord) : Option Instr :=
  match a.op.toNat with
  | 0 => (asrcOf a.os).bind fun o => (asrcOf a.ts).map fun t => .vxAdd ⟨a.lone, a.guard⟩ ⟨a.d.toNat, a.d.isLt⟩ o t
  | 1 => (asrcOf a.os).bind fun o => (asrcOf a.ts).map fun t => .vxSub ⟨a.lone, a.guard⟩ ⟨a.d.toNat, a.d.isLt⟩ o t
  | 2 => (asrcOf a.os).bind fun o => (asrcOf a.ts).map fun t => .vxMul ⟨a.lone, a.guard⟩ ⟨a.d.toNat, a.d.isLt⟩ o t
  | 3 => (asrcOf a.os).bind fun o => (asrcOf a.ts).map fun t => .vxMulh ⟨a.lone, a.guard⟩ ⟨a.d.toNat, a.d.isLt⟩ o t
  | 4 => (asrcOf a.os).bind fun o => (asrcOf a.ts).map fun t => .vxFma ⟨a.lone, a.guard⟩ ⟨a.d.toNat, a.d.isLt⟩ o t
  | 5 => (asrcOf a.os).bind fun o => (asrcOf a.ts).map fun t => .vxFms ⟨a.lone, a.guard⟩ ⟨a.d.toNat, a.d.isLt⟩ o t
  | 6 => (asrcOf a.os).bind fun o => (asrcOf a.ts).map fun t => .vxNfma ⟨a.lone, a.guard⟩ ⟨a.d.toNat, a.d.isLt⟩ o t
  | 7 => (asrcOf a.os).bind fun o => (asrcOf a.ts).map fun t => .vxMin ⟨a.lone, a.guard⟩ ⟨a.d.toNat, a.d.isLt⟩ o t
  | 8 => (asrcOf a.os).bind fun o => (asrcOf a.ts).map fun t => .vxMax ⟨a.lone, a.guard⟩ ⟨a.d.toNat, a.d.isLt⟩ o t
  | 9 => if a.ts = 64#7 then (asrcOf a.os).map fun o => .vxAbs ⟨a.lone, a.guard⟩ ⟨a.d.toNat, a.d.isLt⟩ o else none
  | 10 => if a.ts = 64#7 then (asrcOf a.os).map fun o => .vxNeg ⟨a.lone, a.guard⟩ ⟨a.d.toNat, a.d.isLt⟩ o else none
  | 11 => (asrcOf a.os).bind fun o => (asrcOf a.ts).map fun t => .vxAnd ⟨a.lone, a.guard⟩ ⟨a.d.toNat, a.d.isLt⟩ o t
  | 12 => (asrcOf a.os).bind fun o => (asrcOf a.ts).map fun t => .vxOr ⟨a.lone, a.guard⟩ ⟨a.d.toNat, a.d.isLt⟩ o t
  | 13 => (asrcOf a.os).bind fun o => (asrcOf a.ts).map fun t => .vxXor ⟨a.lone, a.guard⟩ ⟨a.d.toNat, a.d.isLt⟩ o t
  | 14 => (asrcOf a.os).bind fun o => (asrcOf a.ts).map fun t => .vxShl ⟨a.lone, a.guard⟩ ⟨a.d.toNat, a.d.isLt⟩ o t
  | 15 => (asrcOf a.os).bind fun o => (asrcOf a.ts).map fun t => .vxShr ⟨a.lone, a.guard⟩ ⟨a.d.toNat, a.d.isLt⟩ o t
  | 16 => (asrcOf a.os).bind fun o => (asrcOf a.ts).map fun t => .vxSar ⟨a.lone, a.guard⟩ ⟨a.d.toNat, a.d.isLt⟩ o t
  | 17 => if h : a.d.toNat < 4 then (asrcOf a.os).bind fun o => (asrcOf a.ts).map fun t => .vxCmpeq ⟨a.lone, a.guard⟩ ⟨a.d.toNat, h⟩ o t else none
  | 18 => if h : a.d.toNat < 4 then (asrcOf a.os).bind fun o => (asrcOf a.ts).map fun t => .vxCmpne ⟨a.lone, a.guard⟩ ⟨a.d.toNat, h⟩ o t else none
  | 19 => if h : a.d.toNat < 4 then (asrcOf a.os).bind fun o => (asrcOf a.ts).map fun t => .vxCmplt ⟨a.lone, a.guard⟩ ⟨a.d.toNat, h⟩ o t else none
  | 20 => if h : a.d.toNat < 4 then (asrcOf a.os).bind fun o => (asrcOf a.ts).map fun t => .vxCmple ⟨a.lone, a.guard⟩ ⟨a.d.toNat, h⟩ o t else none
  | 21 => (asrcOf a.os).bind fun o => (asrcOf a.ts).map fun t => .vxSel ⟨a.lone, a.guard⟩ ⟨a.d.toNat, a.d.isLt⟩ o t
  | 22 => if a.ts = 64#7 then (asrcOf a.os).map fun o => .vxCvt ⟨a.lone, a.guard⟩ ⟨a.d.toNat, a.d.isLt⟩ o else none
  | 23 => (asrcOf a.os).bind fun o => (asrcOf a.ts).map fun t => .vxWadd ⟨a.lone, a.guard⟩ ⟨a.d.toNat, a.d.isLt⟩ o t
  | 24 => (asrcOf a.os).bind fun o => (asrcOf a.ts).map fun t => .vxWmul ⟨a.lone, a.guard⟩ ⟨a.d.toNat, a.d.isLt⟩ o t
  | 25 => if a.ts = 64#7 then (vregOf a.os).map fun o => .vxNarrow ⟨a.lone, a.guard⟩ ⟨a.d.toNat, a.d.isLt⟩ o else none
  | 26 => if a.d = 0#3 then if a.ts = 64#7 then (asrcOf a.os).map fun o => .vxSum ⟨a.lone, a.guard⟩ o else none else none
  | 27 => if a.d = 0#3 then if a.ts = 64#7 then (asrcOf a.os).map fun o => .vxMaxr ⟨a.lone, a.guard⟩ o else none else none
  | 28 => if a.d = 0#3 then if a.ts = 64#7 then (asrcOf a.os).map fun o => .vxMinr ⟨a.lone, a.guard⟩ o else none else none
  | 29 => (asrcOf a.os).bind fun o => (asrcOf a.ts).map fun t => .vxPerm ⟨a.lone, a.guard⟩ ⟨a.d.toNat, a.d.isLt⟩ o t
  | 30 => (asrcOf a.os).bind fun o => (asrcOf a.ts).map fun t => .vxShuf ⟨a.lone, a.guard⟩ ⟨a.d.toNat, a.d.isLt⟩ o t
  | 31 => (asrcOf a.os).bind fun o => (asrcOf a.ts).map fun t => .vxBcast ⟨a.lone, a.guard⟩ ⟨a.d.toNat, a.d.isLt⟩ o t
  | 32 => (asrcOf a.os).bind fun o => (asrcOf a.ts).map fun t => .vxSlide ⟨a.lone, a.guard⟩ ⟨a.d.toNat, a.d.isLt⟩ o t
  | 33 => if a.ts = 64#7 then (vregOf a.os).map fun o => .vxXchg ⟨a.lone, a.guard⟩ ⟨a.d.toNat, a.d.isLt⟩ o else none
  | 34 => (vregOf a.os).bind fun o => (asrcOf a.ts).map fun t => .vxSexp ⟨a.lone, a.guard⟩ ⟨a.d.toNat, a.d.isLt⟩ o t
  | 35 => (asrcOf a.os).bind fun o => (asrcOf a.ts).map fun t => .vxSacc ⟨a.lone, a.guard⟩ ⟨a.d.toNat, a.d.isLt⟩ o t
  | 36 => (vregOf a.os).bind fun o => (low4Of a.ts).map fun q => .vxDecq ⟨a.lone, a.guard⟩ ⟨a.d.toNat, a.d.isLt⟩ o q
  | 37 => (vregOf a.os).bind fun o => (low4Of a.ts).map fun q => .vxEncq ⟨a.lone, a.guard⟩ ⟨a.d.toNat, a.d.isLt⟩ o q
  | 38 => if a.ts = 64#7 then (asrcOf a.os).map fun o => .vxExp2 ⟨a.lone, a.guard⟩ ⟨a.d.toNat, a.d.isLt⟩ o else none
  | 39 => if a.ts = 64#7 then (asrcOf a.os).map fun o => .vxLog2 ⟨a.lone, a.guard⟩ ⟨a.d.toNat, a.d.isLt⟩ o else none
  | 40 => if a.ts = 64#7 then (asrcOf a.os).map fun o => .vxRcp ⟨a.lone, a.guard⟩ ⟨a.d.toNat, a.d.isLt⟩ o else none
  | 41 => if a.ts = 64#7 then (asrcOf a.os).map fun o => .vxRsq ⟨a.lone, a.guard⟩ ⟨a.d.toNat, a.d.isLt⟩ o else none
  | 42 => if a.ts = 64#7 then (asrcOf a.os).map fun o => .vxTanh ⟨a.lone, a.guard⟩ ⟨a.d.toNat, a.d.isLt⟩ o else none
  | 43 => if a.d = 0#3 then if a.ts = 64#7 then (low4Of a.os).map fun o => .vxPopcm ⟨a.lone, a.guard⟩ o else none else none
  | 44 => (asrcOf a.os).bind fun o => (asrcOf a.ts).map fun t => .vxIota ⟨a.lone, a.guard⟩ ⟨a.d.toNat, a.d.isLt⟩ o t
  | 45 => if a.ts = 64#7 then (low4Of a.os).map fun o => .vxMmov ⟨a.lone, a.guard⟩ ⟨a.d.toNat, a.d.isLt⟩ o else none
  | _ => none

/-! The definitions below are `noncomputable` for one reason: Lean's runtime gives tags to at most 244
constructors with fields, and `Instr` has 460. The kernel evaluates them as any others. -/

/-- The instruction a C-word's fields name, before the limits of `Instr.wf` (R42). -/
noncomputable def parseC (c : CWord) : Option Instr :=
  match c.du.toNat with
  | 0 => parseG c
  | 1 => parseIa c
  | 2 => parseIb c
  | 3 => parseFa c
  | 4 => parseVm c
  | 5 => parseMx c
  | 6 => parseLs c
  | 7 => parseAt c
  | 8 => parseCe c
  | 9 => parseSq c
  | 10 => parseSy c
  | 11 => parseCt c
  | 12 => parseQs c
  | 13 => parseSr c
  | 14 => parseLi c
  | _ => none

/-- The instruction an A-word's fields name, before the limits of `Instr.wf` (R46). -/
noncomputable def parseA (a : AWord) : Option Instr :=
  match a.au.toNat with
  | 0 => parseAIa a
  | 1 => parseAIb a
  | 2 => parseAFa a
  | 3 => parseAVx a
  | _ => none

/-- The instruction of one word, or nothing where the word is illegal (R52, check 2). -/
noncomputable def decodeWord (w : Word32) : Option Instr :=
  let r := if w.getLsbD 31 then parseA (unpackA w) else parseC (unpackC w)
  r.filter Instr.wf

/-- The bytes of a word as the code image stores them: little-endian (R37). -/
def wordBytes (w : Word32) : List Byte :=
  [w.extractLsb' 0 8, w.extractLsb' 8 8, w.extractLsb' 16 8, w.extractLsb' 24 8]

/-- The word that four bytes of the code image hold (R37). -/
def wordOfBytes : List Byte → Option Word32
  | [a, b, c, d] => some (d ++ c ++ b ++ a)
  | _ => none

/-- Decoding from the four bytes of a word in the code image (R37); any other length is no word. -/
noncomputable def decodeBytes (bs : List Byte) : Option Instr := (wordOfBytes bs).bind decodeWord

/-- The word of a well-formed instruction, from the encoding tables of spec/02 and of the unit chapters;
an event has no word. -/
def encode : Instr → Option Word32
  | .mov h d s => some (packC ⟨h.lone, h.guard, 0#4, 0#4, (BitVec.ofNat 6 d.val), csrcBits s⟩)
  | .movPw h s => some (packC ⟨h.lone, h.guard, 0#4, 0#4, 24#6, csrcBits s⟩)
  | .movVt h s => some (packC ⟨h.lone, h.guard, 0#4, 0#4, 25#6, csrcBits s⟩)
  | .ceCPop h d => some (packC ⟨h.lone, h.guard, 0#4, 0#4, (BitVec.ofNat 6 d.val), csrcBits .ceC⟩)
  | .ldi h r imm => some (packC ⟨h.lone, h.guard, imm.extractLsb' 12 4, 14#4, BitVec.ofNat 6 (2 * r.val + 0), imm.extractLsb' 0 12⟩)
  | .ldih h r imm => some (packC ⟨h.lone, h.guard, imm.extractLsb' 12 4, 14#4, BitVec.ofNat 6 (2 * r.val + 1), imm.extractLsb' 0 12⟩)
  | .movIaO h s => some (packC ⟨h.lone, h.guard, 0#4, 1#4, 63#6, csrcBits s⟩)
  | .movIbO h s => some (packC ⟨h.lone, h.guard, 0#4, 2#4, 63#6, csrcBits s⟩)
  | .movFaO h s => some (packC ⟨h.lone, h.guard, 0#4, 3#4, 63#6, csrcBits s⟩)
  | .iaAdd h o t => some (packA ⟨h.lone, h.guard, 0#3, 0#3, 0#6, (asrcBits o), (asrcBits t)⟩)
  | .iaAddC h s => some (packC ⟨h.lone, h.guard, 0#4, 1#4, 0#6, csrcBits s⟩)
  | .iaSub h o t => some (packA ⟨h.lone, h.guard, 0#3, 0#3, 1#6, (asrcBits o), (asrcBits t)⟩)
  | .iaSubC h s => some (packC ⟨h.lone, h.guard, 0#4, 1#4, 1#6, csrcBits s⟩)
  | .iaAnd h o t => some (packA ⟨h.lone, h.guard, 0#3, 0#3, 2#6, (asrcBits o), (asrcBits t)⟩)
  | .iaAndC h s => some (packC ⟨h.lone, h.guard, 0#4, 1#4, 2#6, csrcBits s⟩)
  | .iaOr h o t => some (packA ⟨h.lone, h.guard, 0#3, 0#3, 3#6, (asrcBits o), (asrcBits t)⟩)
  | .iaOrC h s => some (packC ⟨h.lone, h.guard, 0#4, 1#4, 3#6, csrcBits s⟩)
  | .iaXor h o t => some (packA ⟨h.lone, h.guard, 0#3, 0#3, 4#6, (asrcBits o), (asrcBits t)⟩)
  | .iaXorC h s => some (packC ⟨h.lone, h.guard, 0#4, 1#4, 4#6, csrcBits s⟩)
  | .iaAndn h o t => some (packA ⟨h.lone, h.guard, 0#3, 0#3, 5#6, (asrcBits o), (asrcBits t)⟩)
  | .iaAndnC h s => some (packC ⟨h.lone, h.guard, 0#4, 1#4, 5#6, csrcBits s⟩)
  | .iaShl h o t => some (packA ⟨h.lone, h.guard, 0#3, 0#3, 6#6, (asrcBits o), (asrcBits t)⟩)
  | .iaShlC h s => some (packC ⟨h.lone, h.guard, 0#4, 1#4, 6#6, csrcBits s⟩)
  | .iaShr h o t => some (packA ⟨h.lone, h.guard, 0#3, 0#3, 7#6, (asrcBits o), (asrcBits t)⟩)
  | .iaShrC h s => some (packC ⟨h.lone, h.guard, 0#4, 1#4, 7#6, csrcBits s⟩)
  | .iaSar h o t => some (packA ⟨h.lone, h.guard, 0#3, 0#3, 8#6, (asrcBits o), (asrcBits t)⟩)
  | .iaSarC h s => some (packC ⟨h.lone, h.guard, 0#4, 1#4, 8#6, csrcBits s⟩)
  | .iaRotl h o t => some (packA ⟨h.lone, h.guard, 0#3, 0#3, 9#6, (asrcBits o), (asrcBits t)⟩)
  | .iaRotlC h s => some (packC ⟨h.lone, h.guard, 0#4, 1#4, 9#6, csrcBits s⟩)
  | .iaMin h o t => some (packA ⟨h.lone, h.guard, 0#3, 0#3, 10#6, (asrcBits o), (asrcBits t)⟩)
  | .iaMinC h s => some (packC ⟨h.lone, h.guard, 0#4, 1#4, 10#6, csrcBits s⟩)
  | .iaMax h o t => some (packA ⟨h.lone, h.guard, 0#3, 0#3, 11#6, (asrcBits o), (asrcBits t)⟩)
  | .iaMaxC h s => some (packC ⟨h.lone, h.guard, 0#4, 1#4, 11#6, csrcBits s⟩)
  | .iaMinu h o t => some (packA ⟨h.lone, h.guard, 0#3, 0#3, 12#6, (asrcBits o), (asrcBits t)⟩)
  | .iaMinuC h s => some (packC ⟨h.lone, h.guard, 0#4, 1#4, 12#6, csrcBits s⟩)
  | .iaMaxu h o t => some (packA ⟨h.lone, h.guard, 0#3, 0#3, 13#6, (asrcBits o), (asrcBits t)⟩)
  | .iaMaxuC h s => some (packC ⟨h.lone, h.guard, 0#4, 1#4, 13#6, csrcBits s⟩)
  | .iaLea1 h o t => some (packA ⟨h.lone, h.guard, 0#3, 0#3, 14#6, (asrcBits o), (asrcBits t)⟩)
  | .iaLea1C h s => some (packC ⟨h.lone, h.guard, 0#4, 1#4, 14#6, csrcBits s⟩)
  | .iaLea2 h o t => some (packA ⟨h.lone, h.guard, 0#3, 0#3, 15#6, (asrcBits o), (asrcBits t)⟩)
  | .iaLea2C h s => some (packC ⟨h.lone, h.guard, 0#4, 1#4, 15#6, csrcBits s⟩)
  | .iaLea4 h o t => some (packA ⟨h.lone, h.guard, 0#3, 0#3, 16#6, (asrcBits o), (asrcBits t)⟩)
  | .iaLea4C h s => some (packC ⟨h.lone, h.guard, 0#4, 1#4, 16#6, csrcBits s⟩)
  | .iaLea8 h o t => some (packA ⟨h.lone, h.guard, 0#3, 0#3, 17#6, (asrcBits o), (asrcBits t)⟩)
  | .iaLea8C h s => some (packC ⟨h.lone, h.guard, 0#4, 1#4, 17#6, csrcBits s⟩)
  | .iaSext8 h o => some (packA ⟨h.lone, h.guard, 0#3, 0#3, 18#6, (asrcBits o), 64#7⟩)
  | .iaSext8C h => some (packC ⟨h.lone, h.guard, 0#4, 1#4, 18#6, 2048#12⟩)
  | .iaSext16 h o => some (packA ⟨h.lone, h.guard, 0#3, 0#3, 19#6, (asrcBits o), 64#7⟩)
  | .iaSext16C h => some (packC ⟨h.lone, h.guard, 0#4, 1#4, 19#6, 2048#12⟩)
  | .iaSext32 h o => some (packA ⟨h.lone, h.guard, 0#3, 0#3, 20#6, (asrcBits o), 64#7⟩)
  | .iaSext32C h => some (packC ⟨h.lone, h.guard, 0#4, 1#4, 20#6, 2048#12⟩)
  | .iaZext8 h o => some (packA ⟨h.lone, h.guard, 0#3, 0#3, 21#6, (asrcBits o), 64#7⟩)
  | .iaZext8C h => some (packC ⟨h.lone, h.guard, 0#4, 1#4, 21#6, 2048#12⟩)
  | .iaZext16 h o => some (packA ⟨h.lone, h.guard, 0#3, 0#3, 22#6, (asrcBits o), 64#7⟩)
  | .iaZext16C h => some (packC ⟨h.lone, h.guard, 0#4, 1#4, 22#6, 2048#12⟩)
  | .iaZext32 h o => some (packA ⟨h.lone, h.guard, 0#3, 0#3, 23#6, (asrcBits o), 64#7⟩)
  | .iaZext32C h => some (packC ⟨h.lone, h.guard, 0#4, 1#4, 23#6, 2048#12⟩)
  | .iaClz h o => some (packA ⟨h.lone, h.guard, 0#3, 0#3, 24#6, (asrcBits o), 64#7⟩)
  | .iaClzC h => some (packC ⟨h.lone, h.guard, 0#4, 1#4, 24#6, 2048#12⟩)
  | .iaCtz h o => some (packA ⟨h.lone, h.guard, 0#3, 0#3, 25#6, (asrcBits o), 64#7⟩)
  | .iaCtzC h => some (packC ⟨h.lone, h.guard, 0#4, 1#4, 25#6, 2048#12⟩)
  | .iaPopc h o => some (packA ⟨h.lone, h.guard, 0#3, 0#3, 26#6, (asrcBits o), 64#7⟩)
  | .iaPopcC h => some (packC ⟨h.lone, h.guard, 0#4, 1#4, 26#6, 2048#12⟩)
  | .iaBswap h o => some (packA ⟨h.lone, h.guard, 0#3, 0#3, 27#6, (asrcBits o), 64#7⟩)
  | .iaBswapC h => some (packC ⟨h.lone, h.guard, 0#4, 1#4, 27#6, 2048#12⟩)
  | .iaCmpeq h d o t => some (packA ⟨h.lone, h.guard, 0#3, (bits3 d), 28#6, (asrcBits o), (asrcBits t)⟩)
  | .iaCmpeqC h s => some (packC ⟨h.lone, h.guard, 0#4, 1#4, 28#6, csrcBits s⟩)
  | .iaCmpne h d o t => some (packA ⟨h.lone, h.guard, 0#3, (bits3 d), 29#6, (asrcBits o), (asrcBits t)⟩)
  | .iaCmpneC h s => some (packC ⟨h.lone, h.guard, 0#4, 1#4, 29#6, csrcBits s⟩)
  | .iaCmplt h d o t => some (packA ⟨h.lone, h.guard, 0#3, (bits3 d), 30#6, (asrcBits o), (asrcBits t)⟩)
  | .iaCmpltC h s => some (packC ⟨h.lone, h.guard, 0#4, 1#4, 30#6, csrcBits s⟩)
  | .iaCmpltu h d o t => some (packA ⟨h.lone, h.guard, 0#3, (bits3 d), 31#6, (asrcBits o), (asrcBits t)⟩)
  | .iaCmpltuC h s => some (packC ⟨h.lone, h.guard, 0#4, 1#4, 31#6, csrcBits s⟩)
  | .iaCmple h d o t => some (packA ⟨h.lone, h.guard, 0#3, (bits3 d), 32#6, (asrcBits o), (asrcBits t)⟩)
  | .iaCmpleC h s => some (packC ⟨h.lone, h.guard, 0#4, 1#4, 32#6, csrcBits s⟩)
  | .iaCmpleu h d o t => some (packA ⟨h.lone, h.guard, 0#3, (bits3 d), 33#6, (asrcBits o), (asrcBits t)⟩)
  | .iaCmpleuC h s => some (packC ⟨h.lone, h.guard, 0#4, 1#4, 33#6, csrcBits s⟩)
  | .iaSel h o t => some (packA ⟨h.lone, h.guard, 0#3, 0#3, 34#6, (asrcBits o), (asrcBits t)⟩)
  | .iaSelC h s => some (packC ⟨h.lone, h.guard, 0#4, 1#4, 34#6, csrcBits s⟩)
  | .iaSettag h o t => some (packA ⟨h.lone, h.guard, 0#3, 0#3, 35#6, (asrcBits o), (asrcBits t)⟩)
  | .iaSettagC h s => some (packC ⟨h.lone, h.guard, 0#4, 1#4, 35#6, csrcBits s⟩)
  | .iaGettag h o => some (packA ⟨h.lone, h.guard, 0#3, 0#3, 36#6, (asrcBits o), 64#7⟩)
  | .iaGettagC h => some (packC ⟨h.lone, h.guard, 0#4, 1#4, 36#6, 2048#12⟩)
  | .iaTile h o t => some (packA ⟨h.lone, h.guard, 0#3, 0#3, 37#6, (asrcBits o), (asrcBits t)⟩)
  | .iaTileC h s => some (packC ⟨h.lone, h.guard, 0#4, 1#4, 37#6, csrcBits s⟩)
  | .iaGown h o t => some (packA ⟨h.lone, h.guard, 0#3, 0#3, 38#6, (asrcBits o), (asrcBits t)⟩)
  | .iaGownC h s => some (packC ⟨h.lone, h.guard, 0#4, 1#4, 38#6, csrcBits s⟩)
  | .iaPand h d o t => some (packA ⟨h.lone, h.guard, 0#3, (bits3 d), 39#6, (predCode o), (predCode t)⟩)
  | .iaPor h d o t => some (packA ⟨h.lone, h.guard, 0#3, (bits3 d), 40#6, (predCode o), (predCode t)⟩)
  | .iaPxor h d o t => some (packA ⟨h.lone, h.guard, 0#3, (bits3 d), 41#6, (predCode o), (predCode t)⟩)
  | .iaPnot h d o => some (packA ⟨h.lone, h.guard, 0#3, (bits3 d), 42#6, (predCode o), 64#7⟩)
  | .iaPset h d => some (packA ⟨h.lone, h.guard, 0#3, (bits3 d), 43#6, 64#7, 64#7⟩)
  | .iaPclr h d => some (packA ⟨h.lone, h.guard, 0#3, (bits3 d), 44#6, 64#7, 64#7⟩)
  | .ibMul h o t => some (packA ⟨h.lone, h.guard, 1#3, 0#3, 0#6, (asrcBits o), (asrcBits t)⟩)
  | .ibMulC h s => some (packC ⟨h.lone, h.guard, 0#4, 2#4, 0#6, csrcBits s⟩)
  | .ibMulh h o t => some (packA ⟨h.lone, h.guard, 1#3, 0#3, 1#6, (asrcBits o), (asrcBits t)⟩)
  | .ibMulhC h s => some (packC ⟨h.lone, h.guard, 0#4, 2#4, 1#6, csrcBits s⟩)
  | .ibMulhu h o t => some (packA ⟨h.lone, h.guard, 1#3, 0#3, 2#6, (asrcBits o), (asrcBits t)⟩)
  | .ibMulhuC h s => some (packC ⟨h.lone, h.guard, 0#4, 2#4, 2#6, csrcBits s⟩)
  | .ibDiv h o t => some (packA ⟨h.lone, h.guard, 1#3, 0#3, 3#6, (asrcBits o), (asrcBits t)⟩)
  | .ibDivC h s => some (packC ⟨h.lone, h.guard, 0#4, 2#4, 3#6, csrcBits s⟩)
  | .ibDivu h o t => some (packA ⟨h.lone, h.guard, 1#3, 0#3, 4#6, (asrcBits o), (asrcBits t)⟩)
  | .ibDivuC h s => some (packC ⟨h.lone, h.guard, 0#4, 2#4, 4#6, csrcBits s⟩)
  | .ibRem h o t => some (packA ⟨h.lone, h.guard, 1#3, 0#3, 5#6, (asrcBits o), (asrcBits t)⟩)
  | .ibRemC h s => some (packC ⟨h.lone, h.guard, 0#4, 2#4, 5#6, csrcBits s⟩)
  | .ibRemu h o t => some (packA ⟨h.lone, h.guard, 1#3, 0#3, 6#6, (asrcBits o), (asrcBits t)⟩)
  | .ibRemuC h s => some (packC ⟨h.lone, h.guard, 0#4, 2#4, 6#6, csrcBits s⟩)
  | .ibMulacc h o t => some (packA ⟨h.lone, h.guard, 1#3, 0#3, 7#6, (asrcBits o), (asrcBits t)⟩)
  | .ibMulaccC h s => some (packC ⟨h.lone, h.guard, 0#4, 2#4, 7#6, csrcBits s⟩)
  | .ibCrc32c h o t => some (packA ⟨h.lone, h.guard, 1#3, 0#3, 8#6, (asrcBits o), (asrcBits t)⟩)
  | .ibCrc32cC h s => some (packC ⟨h.lone, h.guard, 0#4, 2#4, 8#6, csrcBits s⟩)
  | .faFadd h o t => some (packA ⟨h.lone, h.guard, 2#3, 0#3, 0#6, (asrcBits o), (asrcBits t)⟩)
  | .faFaddC h s => some (packC ⟨h.lone, h.guard, 0#4, 3#4, 0#6, csrcBits s⟩)
  | .faFsub h o t => some (packA ⟨h.lone, h.guard, 2#3, 0#3, 1#6, (asrcBits o), (asrcBits t)⟩)
  | .faFsubC h s => some (packC ⟨h.lone, h.guard, 0#4, 3#4, 1#6, csrcBits s⟩)
  | .faFmul h o t => some (packA ⟨h.lone, h.guard, 2#3, 0#3, 2#6, (asrcBits o), (asrcBits t)⟩)
  | .faFmulC h s => some (packC ⟨h.lone, h.guard, 0#4, 3#4, 2#6, csrcBits s⟩)
  | .faFma h o t => some (packA ⟨h.lone, h.guard, 2#3, 0#3, 3#6, (asrcBits o), (asrcBits t)⟩)
  | .faFmaC h s => some (packC ⟨h.lone, h.guard, 0#4, 3#4, 3#6, csrcBits s⟩)
  | .faFmin h o t => some (packA ⟨h.lone, h.guard, 2#3, 0#3, 4#6, (asrcBits o), (asrcBits t)⟩)
  | .faFminC h s => some (packC ⟨h.lone, h.guard, 0#4, 3#4, 4#6, csrcBits s⟩)
  | .faFmax h o t => some (packA ⟨h.lone, h.guard, 2#3, 0#3, 5#6, (asrcBits o), (asrcBits t)⟩)
  | .faFmaxC h s => some (packC ⟨h.lone, h.guard, 0#4, 3#4, 5#6, csrcBits s⟩)
  | .faFabs h o => some (packA ⟨h.lone, h.guard, 2#3, 0#3, 6#6, (asrcBits o), 64#7⟩)
  | .faFabsC h => some (packC ⟨h.lone, h.guard, 0#4, 3#4, 6#6, 2048#12⟩)
  | .faFneg h o => some (packA ⟨h.lone, h.guard, 2#3, 0#3, 7#6, (asrcBits o), 64#7⟩)
  | .faFnegC h => some (packC ⟨h.lone, h.guard, 0#4, 3#4, 7#6, 2048#12⟩)
  | .faFcmpeq h d o t => some (packA ⟨h.lone, h.guard, 2#3, (bits3 d), 8#6, (asrcBits o), (asrcBits t)⟩)
  | .faFcmpeqC h s => some (packC ⟨h.lone, h.guard, 0#4, 3#4, 8#6, csrcBits s⟩)
  | .faFcmplt h d o t => some (packA ⟨h.lone, h.guard, 2#3, (bits3 d), 9#6, (asrcBits o), (asrcBits t)⟩)
  | .faFcmpltC h s => some (packC ⟨h.lone, h.guard, 0#4, 3#4, 9#6, csrcBits s⟩)
  | .faFcmple h d o t => some (packA ⟨h.lone, h.guard, 2#3, (bits3 d), 10#6, (asrcBits o), (asrcBits t)⟩)
  | .faFcmpleC h s => some (packC ⟨h.lone, h.guard, 0#4, 3#4, 10#6, csrcBits s⟩)
  | .faFcmpun h d o t => some (packA ⟨h.lone, h.guard, 2#3, (bits3 d), 11#6, (asrcBits o), (asrcBits t)⟩)
  | .faFcmpunC h s => some (packC ⟨h.lone, h.guard, 0#4, 3#4, 11#6, csrcBits s⟩)
  | .faFdiv h o t => some (packA ⟨h.lone, h.guard, 2#3, 0#3, 12#6, (asrcBits o), (asrcBits t)⟩)
  | .faFdivC h s => some (packC ⟨h.lone, h.guard, 0#4, 3#4, 12#6, csrcBits s⟩)
  | .faFsqrt h o => some (packA ⟨h.lone, h.guard, 2#3, 0#3, 13#6, (asrcBits o), 64#7⟩)
  | .faFsqrtC h => some (packC ⟨h.lone, h.guard, 0#4, 3#4, 13#6, 2048#12⟩)
  | .faFrcp h o => some (packA ⟨h.lone, h.guard, 2#3, 0#3, 14#6, (asrcBits o), 64#7⟩)
  | .faFrcpC h => some (packC ⟨h.lone, h.guard, 0#4, 3#4, 14#6, 2048#12⟩)
  | .faFrsq h o => some (packA ⟨h.lone, h.guard, 2#3, 0#3, 15#6, (asrcBits o), 64#7⟩)
  | .faFrsqC h => some (packC ⟨h.lone, h.guard, 0#4, 3#4, 15#6, 2048#12⟩)
  | .faCvtif h o t => some (packA ⟨h.lone, h.guard, 2#3, 0#3, 16#6, (asrcBits o), (asrcBits t)⟩)
  | .faCvtifC h s => some (packC ⟨h.lone, h.guard, 0#4, 3#4, 16#6, csrcBits s⟩)
  | .faCvtfi h o t => some (packA ⟨h.lone, h.guard, 2#3, 0#3, 17#6, (asrcBits o), (asrcBits t)⟩)
  | .faCvtfiC h s => some (packC ⟨h.lone, h.guard, 0#4, 3#4, 17#6, csrcBits s⟩)
  | .faTobf16 h o => some (packA ⟨h.lone, h.guard, 2#3, 0#3, 18#6, (asrcBits o), 64#7⟩)
  | .faTobf16C h => some (packC ⟨h.lone, h.guard, 0#4, 3#4, 18#6, 2048#12⟩)
  | .faFrombf16 h o => some (packA ⟨h.lone, h.guard, 2#3, 0#3, 19#6, (asrcBits o), 64#7⟩)
  | .faFrombf16C h => some (packC ⟨h.lone, h.guard, 0#4, 3#4, 19#6, 2048#12⟩)
  | .faToe4m3 h o => some (packA ⟨h.lone, h.guard, 2#3, 0#3, 20#6, (asrcBits o), 64#7⟩)
  | .faToe4m3C h => some (packC ⟨h.lone, h.guard, 0#4, 3#4, 20#6, 2048#12⟩)
  | .faFromqn4 h o => some (packA ⟨h.lone, h.guard, 2#3, 0#3, 21#6, (asrcBits o), 64#7⟩)
  | .faFromqn4C h => some (packC ⟨h.lone, h.guard, 0#4, 3#4, 21#6, 2048#12⟩)
  | .faScl h o t => some (packA ⟨h.lone, h.guard, 2#3, 0#3, 22#6, (asrcBits o), (asrcBits t)⟩)
  | .faSclC h s => some (packC ⟨h.lone, h.guard, 0#4, 3#4, 22#6, csrcBits s⟩)
  | .vpfx p => some (packC ⟨false, 0#4, 0#4, 4#4, 63#6, prefixBits p⟩)
  | .vxAdd h d o t => some (packA ⟨h.lone, h.guard, 3#3, (bits3 d), 0#6, (asrcBits o), (asrcBits t)⟩)
  | .vxSub h d o t => some (packA ⟨h.lone, h.guard, 3#3, (bits3 d), 1#6, (asrcBits o), (asrcBits t)⟩)
  | .vxMul h d o t => some (packA ⟨h.lone, h.guard, 3#3, (bits3 d), 2#6, (asrcBits o), (asrcBits t)⟩)
  | .vxMulh h d o t => some (packA ⟨h.lone, h.guard, 3#3, (bits3 d), 3#6, (asrcBits o), (asrcBits t)⟩)
  | .vxFma h d o t => some (packA ⟨h.lone, h.guard, 3#3, (bits3 d), 4#6, (asrcBits o), (asrcBits t)⟩)
  | .vxFms h d o t => some (packA ⟨h.lone, h.guard, 3#3, (bits3 d), 5#6, (asrcBits o), (asrcBits t)⟩)
  | .vxNfma h d o t => some (packA ⟨h.lone, h.guard, 3#3, (bits3 d), 6#6, (asrcBits o), (asrcBits t)⟩)
  | .vxMin h d o t => some (packA ⟨h.lone, h.guard, 3#3, (bits3 d), 7#6, (asrcBits o), (asrcBits t)⟩)
  | .vxMax h d o t => some (packA ⟨h.lone, h.guard, 3#3, (bits3 d), 8#6, (asrcBits o), (asrcBits t)⟩)
  | .vxAbs h d o => some (packA ⟨h.lone, h.guard, 3#3, (bits3 d), 9#6, (asrcBits o), 64#7⟩)
  | .vxNeg h d o => some (packA ⟨h.lone, h.guard, 3#3, (bits3 d), 10#6, (asrcBits o), 64#7⟩)
  | .vxAnd h d o t => some (packA ⟨h.lone, h.guard, 3#3, (bits3 d), 11#6, (asrcBits o), (asrcBits t)⟩)
  | .vxOr h d o t => some (packA ⟨h.lone, h.guard, 3#3, (bits3 d), 12#6, (asrcBits o), (asrcBits t)⟩)
  | .vxXor h d o t => some (packA ⟨h.lone, h.guard, 3#3, (bits3 d), 13#6, (asrcBits o), (asrcBits t)⟩)
  | .vxShl h d o t => some (packA ⟨h.lone, h.guard, 3#3, (bits3 d), 14#6, (asrcBits o), (asrcBits t)⟩)
  | .vxShr h d o t => some (packA ⟨h.lone, h.guard, 3#3, (bits3 d), 15#6, (asrcBits o), (asrcBits t)⟩)
  | .vxSar h d o t => some (packA ⟨h.lone, h.guard, 3#3, (bits3 d), 16#6, (asrcBits o), (asrcBits t)⟩)
  | .vxCmpeq h d o t => some (packA ⟨h.lone, h.guard, 3#3, (BitVec.ofNat 3 d.val), 17#6, (asrcBits o), (asrcBits t)⟩)
  | .vxCmpne h d o t => some (packA ⟨h.lone, h.guard, 3#3, (BitVec.ofNat 3 d.val), 18#6, (asrcBits o), (asrcBits t)⟩)
  | .vxCmplt h d o t => some (packA ⟨h.lone, h.guard, 3#3, (BitVec.ofNat 3 d.val), 19#6, (asrcBits o), (asrcBits t)⟩)
  | .vxCmple h d o t => some (packA ⟨h.lone, h.guard, 3#3, (BitVec.ofNat 3 d.val), 20#6, (asrcBits o), (asrcBits t)⟩)
  | .vxSel h d o t => some (packA ⟨h.lone, h.guard, 3#3, (bits3 d), 21#6, (asrcBits o), (asrcBits t)⟩)
  | .vxCvt h d o => some (packA ⟨h.lone, h.guard, 3#3, (bits3 d), 22#6, (asrcBits o), 64#7⟩)
  | .vxWadd h d o t => some (packA ⟨h.lone, h.guard, 3#3, (bits3 d), 23#6, (asrcBits o), (asrcBits t)⟩)
  | .vxWmul h d o t => some (packA ⟨h.lone, h.guard, 3#3, (bits3 d), 24#6, (asrcBits o), (asrcBits t)⟩)
  | .vxNarrow h d o => some (packA ⟨h.lone, h.guard, 3#3, (bits3 d), 25#6, (vregCode o), 64#7⟩)
  | .vxSum h o => some (packA ⟨h.lone, h.guard, 3#3, 0#3, 26#6, (asrcBits o), 64#7⟩)
  | .vxMaxr h o => some (packA ⟨h.lone, h.guard, 3#3, 0#3, 27#6, (asrcBits o), 64#7⟩)
  | .vxMinr h o => some (packA ⟨h.lone, h.guard, 3#3, 0#3, 28#6, (asrcBits o), 64#7⟩)
  | .vxPerm h d o t => some (packA ⟨h.lone, h.guard, 3#3, (bits3 d), 29#6, (asrcBits o), (asrcBits t)⟩)
  | .vxShuf h d o t => some (packA ⟨h.lone, h.guard, 3#3, (bits3 d), 30#6, (asrcBits o), (asrcBits t)⟩)
  | .vxBcast h d o t => some (packA ⟨h.lone, h.guard, 3#3, (bits3 d), 31#6, (asrcBits o), (asrcBits t)⟩)
  | .vxSlide h d o t => some (packA ⟨h.lone, h.guard, 3#3, (bits3 d), 32#6, (asrcBits o), (asrcBits t)⟩)
  | .vxXchg h d o => some (packA ⟨h.lone, h.guard, 3#3, (bits3 d), 33#6, (vregCode o), 64#7⟩)
  | .vxSexp h d o t => some (packA ⟨h.lone, h.guard, 3#3, (bits3 d), 34#6, (vregCode o), (asrcBits t)⟩)
  | .vxSacc h d o t => some (packA ⟨h.lone, h.guard, 3#3, (bits3 d), 35#6, (asrcBits o), (asrcBits t)⟩)
  | .vxDecq h d o q => some (packA ⟨h.lone, h.guard, 3#3, (bits3 d), 36#6, (vregCode o), (BitVec.ofNat 7 (64 + q.val))⟩)
  | .vxEncq h d o q => some (packA ⟨h.lone, h.guard, 3#3, (bits3 d), 37#6, (vregCode o), (BitVec.ofNat 7 (64 + q.val))⟩)
  | .vxExp2 h d o => some (packA ⟨h.lone, h.guard, 3#3, (bits3 d), 38#6, (asrcBits o), 64#7⟩)
  | .vxLog2 h d o => some (packA ⟨h.lone, h.guard, 3#3, (bits3 d), 39#6, (asrcBits o), 64#7⟩)
  | .vxRcp h d o => some (packA ⟨h.lone, h.guard, 3#3, (bits3 d), 40#6, (asrcBits o), 64#7⟩)
  | .vxRsq h d o => some (packA ⟨h.lone, h.guard, 3#3, (bits3 d), 41#6, (asrcBits o), 64#7⟩)
  | .vxTanh h d o => some (packA ⟨h.lone, h.guard, 3#3, (bits3 d), 42#6, (asrcBits o), 64#7⟩)
  | .vxPopcm h o => some (packA ⟨h.lone, h.guard, 3#3, 0#3, 43#6, (BitVec.ofNat 7 (64 + o.val)), 64#7⟩)
  | .vxIota h d o t => some (packA ⟨h.lone, h.guard, 3#3, (bits3 d), 44#6, (asrcBits o), (asrcBits t)⟩)
  | .vxMmov h d o => some (packA ⟨h.lone, h.guard, 3#3, (bits3 d), 45#6, (BitVec.ofNat 7 (64 + o.val)), 64#7⟩)
  | .vld h la n s => some (packC ⟨h.lone, h.guard, la, 4#4, (BitVec.ofNat 6 (0 + n.val)), csrcBits s⟩)
  | .vst h la n s => some (packC ⟨h.lone, h.guard, la, 4#4, (BitVec.ofNat 6 (8 + n.val)), csrcBits s⟩)
  | .vlds h la n s => some (packC ⟨h.lone, h.guard, la, 4#4, (BitVec.ofNat 6 (16 + n.val)), csrcBits s⟩)
  | .vsts h la n s => some (packC ⟨h.lone, h.guard, la, 4#4, (BitVec.ofNat 6 (24 + n.val)), csrcBits s⟩)
  | .vgth h la n s => some (packC ⟨h.lone, h.guard, la, 4#4, (BitVec.ofNat 6 (32 + n.val)), csrcBits s⟩)
  | .vsct h la n s => some (packC ⟨h.lone, h.guard, la, 4#4, (BitVec.ofNat 6 (40 + n.val)), csrcBits s⟩)
  | .vset h s => some (packC ⟨h.lone, h.guard, 0#4, 4#4, 48#6, csrcBits s⟩)
  | .kld h la n s => some (packC ⟨h.lone, h.guard, la, 4#4, (BitVec.ofNat 6 (49 + n.val)), csrcBits s⟩)
  | .kst h la n s => some (packC ⟨h.lone, h.guard, la, 4#4, (BitVec.ofNat 6 (53 + n.val)), csrcBits s⟩)
  | .mxLease h la s => some (packC ⟨h.lone, h.guard, la, 5#4, 0#6, csrcBits s⟩)
  | .mxFree h => some (packC ⟨h.lone, h.guard, 0#4, 5#4, 1#6, 2048#12⟩)
  | .mxLdaBf16 h la s => some (packC ⟨h.lone, h.guard, la, 5#4, 2#6, csrcBits s⟩)
  | .mxLdaE4m3 h la s => some (packC ⟨h.lone, h.guard, la, 5#4, 3#6, csrcBits s⟩)
  | .mxLdaE5m2 h la s => some (packC ⟨h.lone, h.guard, la, 5#4, 4#6, csrcBits s⟩)
  | .mxLdaI8 h la s => some (packC ⟨h.lone, h.guard, la, 5#4, 5#6, csrcBits s⟩)
  | .mxLdaF32 h la s => some (packC ⟨h.lone, h.guard, la, 5#4, 6#6, csrcBits s⟩)
  | .mxLdbBf16 h la s => some (packC ⟨h.lone, h.guard, la, 5#4, 7#6, csrcBits s⟩)
  | .mxLdbE4m3 h la s => some (packC ⟨h.lone, h.guard, la, 5#4, 8#6, csrcBits s⟩)
  | .mxLdbE5m2 h la s => some (packC ⟨h.lone, h.guard, la, 5#4, 9#6, csrcBits s⟩)
  | .mxLdbI8 h la s => some (packC ⟨h.lone, h.guard, la, 5#4, 10#6, csrcBits s⟩)
  | .mxLdbF32 h la s => some (packC ⟨h.lone, h.guard, la, 5#4, 11#6, csrcBits s⟩)
  | .mxLdbQn4 h la s => some (packC ⟨h.lone, h.guard, la, 5#4, 12#6, csrcBits s⟩)
  | .mxMmaM64n64k32Bf16 h la s => some (packC ⟨h.lone, h.guard, la, 5#4, 13#6, csrcBits s⟩)
  | .mxMmaM32n64k32Bf16 h la s => some (packC ⟨h.lone, h.guard, la, 5#4, 14#6, csrcBits s⟩)
  | .mxMmaM16n64k32Bf16 h la s => some (packC ⟨h.lone, h.guard, la, 5#4, 15#6, csrcBits s⟩)
  | .mxMmaM64n64k64E4m3 h la s => some (packC ⟨h.lone, h.guard, la, 5#4, 16#6, csrcBits s⟩)
  | .mxMmaM64n64k64E5m2 h la s => some (packC ⟨h.lone, h.guard, la, 5#4, 17#6, csrcBits s⟩)
  | .mxMmaM64n64k64Mix8 h la s => some (packC ⟨h.lone, h.guard, la, 5#4, 18#6, csrcBits s⟩)
  | .mxMmaM64n64k64I8 h la s => some (packC ⟨h.lone, h.guard, la, 5#4, 19#6, csrcBits s⟩)
  | .mxMmaM64n64k64Qn4 h la s => some (packC ⟨h.lone, h.guard, la, 5#4, 20#6, csrcBits s⟩)
  | .mxMmaM16n64k64Qn4 h la s => some (packC ⟨h.lone, h.guard, la, 5#4, 21#6, csrcBits s⟩)
  | .mxMmaM64n64k8F32 h la s => some (packC ⟨h.lone, h.guard, la, 5#4, 22#6, csrcBits s⟩)
  | .mxChainBf16 h la s => some (packC ⟨h.lone, h.guard, la, 5#4, 23#6, csrcBits s⟩)
  | .mxChainE4m3 h la s => some (packC ⟨h.lone, h.guard, la, 5#4, 24#6, csrcBits s⟩)
  | .mxDrain h la s => some (packC ⟨h.lone, h.guard, la, 5#4, 25#6, csrcBits s⟩)
  | .mxDrainv h la s => some (packC ⟨h.lone, h.guard, la, 5#4, 26#6, csrcBits s⟩)
  | .mxZero h la s => some (packC ⟨h.lone, h.guard, la, 5#4, 27#6, csrcBits s⟩)
  | .mxChk h la s => some (packC ⟨h.lone, h.guard, la, 5#4, 28#6, csrcBits s⟩)
  | .mxInject h la s => some (packC ⟨h.lone, h.guard, la, 5#4, 29#6, csrcBits s⟩)
  | .movMxA h s => some (packC ⟨h.lone, h.guard, 0#4, 5#4, 30#6, csrcBits s⟩)
  | .movMxB h s => some (packC ⟨h.lone, h.guard, 0#4, 5#4, 31#6, csrcBits s⟩)
  | .lsLd8s h la lane s => some (packC ⟨h.lone, h.guard, la, 6#4, (BitVec.ofNat 6 (0 + lane.val)), csrcBits s⟩)
  | .lsLd8u h la lane s => some (packC ⟨h.lone, h.guard, la, 6#4, (BitVec.ofNat 6 (4 + lane.val)), csrcBits s⟩)
  | .lsLd16s h la lane s => some (packC ⟨h.lone, h.guard, la, 6#4, (BitVec.ofNat 6 (8 + lane.val)), csrcBits s⟩)
  | .lsLd16u h la lane s => some (packC ⟨h.lone, h.guard, la, 6#4, (BitVec.ofNat 6 (12 + lane.val)), csrcBits s⟩)
  | .lsLd32s h la lane s => some (packC ⟨h.lone, h.guard, la, 6#4, (BitVec.ofNat 6 (16 + lane.val)), csrcBits s⟩)
  | .lsLd32u h la lane s => some (packC ⟨h.lone, h.guard, la, 6#4, (BitVec.ofNat 6 (20 + lane.val)), csrcBits s⟩)
  | .lsLd64 h la lane s => some (packC ⟨h.lone, h.guard, la, 6#4, (BitVec.ofNat 6 (24 + lane.val)), csrcBits s⟩)
  | .lsLdp h la lane s => some (packC ⟨h.lone, h.guard, la, 6#4, (BitVec.ofNat 6 (28 + lane.val)), csrcBits s⟩)
  | .lsSt8 h la s => some (packC ⟨h.lone, h.guard, la, 6#4, 32#6, csrcBits s⟩)
  | .lsSt16 h la s => some (packC ⟨h.lone, h.guard, la, 6#4, 33#6, csrcBits s⟩)
  | .lsSt32 h la s => some (packC ⟨h.lone, h.guard, la, 6#4, 34#6, csrcBits s⟩)
  | .lsSt64 h la s => some (packC ⟨h.lone, h.guard, la, 6#4, 35#6, csrcBits s⟩)
  | .lsStp h la s => some (packC ⟨h.lone, h.guard, la, 6#4, 36#6, csrcBits s⟩)
  | .lsPf h s => some (packC ⟨h.lone, h.guard, 0#4, 6#4, 37#6, csrcBits s⟩)
  | .movLsD h s => some (packC ⟨h.lone, h.guard, 0#4, 6#4, 40#6, csrcBits s⟩)
  | .atAdd32 h la s => some (packC ⟨h.lone, h.guard, la, 7#4, 0#6, csrcBits s⟩)
  | .atAdd64 h la s => some (packC ⟨h.lone, h.guard, la, 7#4, 1#6, csrcBits s⟩)
  | .atFadd32 h la s => some (packC ⟨h.lone, h.guard, la, 7#4, 2#6, csrcBits s⟩)
  | .atFadd16b h la s => some (packC ⟨h.lone, h.guard, la, 7#4, 3#6, csrcBits s⟩)
  | .atMin32 h la s => some (packC ⟨h.lone, h.guard, la, 7#4, 4#6, csrcBits s⟩)
  | .atMax32 h la s => some (packC ⟨h.lone, h.guard, la, 7#4, 5#6, csrcBits s⟩)
  | .atMinu32 h la s => some (packC ⟨h.lone, h.guard, la, 7#4, 6#6, csrcBits s⟩)
  | .atMaxu32 h la s => some (packC ⟨h.lone, h.guard, la, 7#4, 7#6, csrcBits s⟩)
  | .atAnd64 h la s => some (packC ⟨h.lone, h.guard, la, 7#4, 8#6, csrcBits s⟩)
  | .atOr64 h la s => some (packC ⟨h.lone, h.guard, la, 7#4, 9#6, csrcBits s⟩)
  | .atXor64 h la s => some (packC ⟨h.lone, h.guard, la, 7#4, 10#6, csrcBits s⟩)
  | .atSwp64 h la s => some (packC ⟨h.lone, h.guard, la, 7#4, 11#6, csrcBits s⟩)
  | .atCas64 h la s => some (packC ⟨h.lone, h.guard, la, 7#4, 12#6, csrcBits s⟩)
  | .atFinc h la s => some (packC ⟨h.lone, h.guard, la, 7#4, 13#6, csrcBits s⟩)
  | .atRedAdd32 h la s => some (packC ⟨h.lone, h.guard, la, 7#4, 14#6, csrcBits s⟩)
  | .atRedAdd64 h la s => some (packC ⟨h.lone, h.guard, la, 7#4, 15#6, csrcBits s⟩)
  | .atRedFadd32 h la s => some (packC ⟨h.lone, h.guard, la, 7#4, 16#6, csrcBits s⟩)
  | .atRedFadd16b h la s => some (packC ⟨h.lone, h.guard, la, 7#4, 17#6, csrcBits s⟩)
  | .atAset h n s => some (packC ⟨h.lone, h.guard, 0#4, 7#4, (BitVec.ofNat 6 (18 + n.val)), csrcBits s⟩)
  | .atTok h la => some (packC ⟨h.lone, h.guard, la, 7#4, 26#6, 2048#12⟩)
  | .movAtO h s => some (packC ⟨h.lone, h.guard, 0#4, 7#4, 27#6, csrcBits s⟩)
  | .ceCopy h q => some (packC ⟨h.lone, h.guard, 0#4, 8#4, (BitVec.ofNat 6 (0 + q.val)), 2048#12⟩)
  | .ceCopy2d h q => some (packC ⟨h.lone, h.guard, 0#4, 8#4, (BitVec.ofNat 6 (4 + q.val)), 2048#12⟩)
  | .ceMcast h q => some (packC ⟨h.lone, h.guard, 0#4, 8#4, (BitVec.ofNat 6 (8 + q.val)), 2048#12⟩)
  | .ceRedb h q => some (packC ⟨h.lone, h.guard, 0#4, 8#4, (BitVec.ofNat 6 (12 + q.val)), 2048#12⟩)
  | .ceRedf h q => some (packC ⟨h.lone, h.guard, 0#4, 8#4, (BitVec.ofNat 6 (16 + q.val)), 2048#12⟩)
  | .ceCopyq h q => some (packC ⟨h.lone, h.guard, 0#4, 8#4, (BitVec.ofNat 6 (20 + q.val)), 2048#12⟩)
  | .ceCopyb h q => some (packC ⟨h.lone, h.guard, 0#4, 8#4, (BitVec.ofNat 6 (24 + q.val)), 2048#12⟩)
  | .movCeS h s => some (packC ⟨h.lone, h.guard, 0#4, 8#4, 28#6, csrcBits s⟩)
  | .movCeD h s => some (packC ⟨h.lone, h.guard, 0#4, 8#4, 29#6, csrcBits s⟩)
  | .movCeN h s => some (packC ⟨h.lone, h.guard, 0#4, 8#4, 30#6, csrcBits s⟩)
  | .movCeB h s => some (packC ⟨h.lone, h.guard, 0#4, 8#4, 31#6, csrcBits s⟩)
  | .movCeM h s => some (packC ⟨h.lone, h.guard, 0#4, 8#4, 32#6, csrcBits s⟩)
  | .sqPush h la s => some (packC ⟨h.lone, h.guard, la, 9#4, 0#6, csrcBits s⟩)
  | .sqPop h la s => some (packC ⟨h.lone, h.guard, la, 9#4, 1#6, csrcBits s⟩)
  | .sqPeek h la s => some (packC ⟨h.lone, h.guard, la, 9#4, 2#6, csrcBits s⟩)
  | .sqPopw h la n => some (packC ⟨h.lone, h.guard, la, 9#4, 3#6, 2#2 ++ n⟩)
  | .sqPushw h la n => some (packC ⟨h.lone, h.guard, la, 9#4, 4#6, 2#2 ++ n⟩)
  | .sqRqpush h la n s => some (packC ⟨h.lone, h.guard, la, 9#4, (BitVec.ofNat 6 (5 + n.val)), csrcBits s⟩)
  | .sqRqpop h la => some (packC ⟨h.lone, h.guard, la, 9#4, 9#6, 2048#12⟩)
  | .sqRqprio h la s => some (packC ⟨h.lone, h.guard, la, 9#4, 10#6, csrcBits s⟩)
  | .sqSpawn h la s => some (packC ⟨h.lone, h.guard, la, 9#4, 11#6, csrcBits s⟩)
  | .sqDec h la s => some (packC ⟨h.lone, h.guard, la, 9#4, 12#6, csrcBits s⟩)
  | .sqDone h => some (packC ⟨h.lone, h.guard, 0#4, 9#4, 13#6, 2048#12⟩)
  | .movSqD h s => some (packC ⟨h.lone, h.guard, 0#4, 9#4, 14#6, csrcBits s⟩)
  | .movSqH h s => some (packC ⟨h.lone, h.guard, 0#4, 9#4, 15#6, csrcBits s⟩)
  | .syBinit h la s => some (packC ⟨h.lone, h.guard, la, 10#4, 0#6, csrcBits s⟩)
  | .syArrive h la s => some (packC ⟨h.lone, h.guard, la, 10#4, 1#6, csrcBits s⟩)
  | .syArrivb h la s => some (packC ⟨h.lone, h.guard, la, 10#4, 2#6, csrcBits s⟩)
  | .syWait h la s => some (packC ⟨h.lone, h.guard, la, 10#4, 3#6, csrcBits s⟩)
  | .syTest h la s => some (packC ⟨h.lone, h.guard, la, 10#4, 4#6, csrcBits s⟩)
  | .syInval h la s => some (packC ⟨h.lone, h.guard, la, 10#4, 5#6, csrcBits s⟩)
  | .syMon h la n s => some (packC ⟨h.lone, h.guard, la, 10#4, (BitVec.ofNat 6 (6 + n.val)), csrcBits s⟩)
  | .syUnmon h la mk => some (packC ⟨h.lone, h.guard, la, 10#4, 10#6, 128#8 ++ mk⟩)
  | .syMwait h la => some (packC ⟨h.lone, h.guard, la, 10#4, 11#6, 2048#12⟩)
  | .syGbar h la => some (packC ⟨h.lone, h.guard, la, 10#4, 12#6, 2048#12⟩)
  | .movSyA h s => some (packC ⟨h.lone, h.guard, 0#4, 10#4, 13#6, csrcBits s⟩)
  | .movSyB h s => some (packC ⟨h.lone, h.guard, 0#4, 10#4, 14#6, csrcBits s⟩)
  | .movSyL h s => some (packC ⟨h.lone, h.guard, 0#4, 10#4, 15#6, csrcBits s⟩)
  | .ctBr h disp => some (packC ⟨h.lone, h.guard, 0#4, 11#4, 0#6, 1#1 ++ disp⟩)
  | .ctBrAbs h s => some (packC ⟨h.lone, h.guard, 0#4, 11#4, 0#6, csrcBits s⟩)
  | .ctCall h disp => some (packC ⟨h.lone, h.guard, 0#4, 11#4, 1#6, 1#1 ++ disp⟩)
  | .ctCallAbs h s => some (packC ⟨h.lone, h.guard, 0#4, 11#4, 1#6, csrcBits s⟩)
  | .ctRet h => some (packC ⟨h.lone, h.guard, 0#4, 11#4, 2#6, 27#12⟩)
  | .ctJmp h s => some (packC ⟨h.lone, h.guard, 0#4, 11#4, 3#6, csrcBits s⟩)
  | .ctChunk h => some (packC ⟨h.lone, h.guard, 0#4, 11#4, 4#6, 2048#12⟩)
  | .ctYield h => some (packC ⟨h.lone, h.guard, 0#4, 11#4, 5#6, 2048#12⟩)
  | .ctHalt h => some (packC ⟨h.lone, h.guard, 0#4, 11#4, 6#6, 2048#12⟩)
  | .ctTrap h s => some (packC ⟨h.lone, h.guard, 0#4, 11#4, 7#6, csrcBits s⟩)
  | .ctNop h => some (packC ⟨h.lone, h.guard, 0#4, 11#4, 8#6, 2048#12⟩)
  | .ctIpf h la s => some (packC ⟨h.lone, h.guard, la, 11#4, 9#6, csrcBits s⟩)
  | .ctEfence h => some (packC ⟨h.lone, h.guard, 0#4, 11#4, 10#6, 2048#12⟩)
  | .ctSstop h s => some (packC ⟨h.lone, h.guard, 0#4, 11#4, 11#6, csrcBits s⟩)
  | .ctSgo h s => some (packC ⟨h.lone, h.guard, 0#4, 11#4, 12#6, csrcBits s⟩)
  | .ctSsave h s => some (packC ⟨h.lone, h.guard, 0#4, 11#4, 13#6, csrcBits s⟩)
  | .ctSload h s => some (packC ⟨h.lone, h.guard, 0#4, 11#4, 14#6, csrcBits s⟩)
  | .ctResume h s => some (packC ⟨h.lone, h.guard, 0#4, 11#4, 15#6, csrcBits s⟩)
  | .qsBind h n s => some (packC ⟨h.lone, h.guard, 0#4, 12#4, (BitVec.ofNat 6 (0 + n.val)), csrcBits s⟩)
  | .qsUnbind h j => some (packC ⟨h.lone, h.guard, 0#4, 12#4, 8#6, BitVec.ofNat 12 (2048 + j.val)⟩)
  | .qsWrite h n s => some (packC ⟨h.lone, h.guard, 0#4, 12#4, (BitVec.ofNat 6 (16 + n.val)), csrcBits s⟩)
  | .srWrite h r s => some (packC ⟨h.lone, h.guard, 0#4, 13#4, (BitVec.ofNat 6 r.val), csrcBits s⟩)
  | .writeAlarm h s => some (packC ⟨h.lone, h.guard, 0#4, 13#4, 2#6, csrcBits s⟩)
  | .writeRedpin h s => some (packC ⟨h.lone, h.guard, 0#4, 13#4, 11#6, csrcBits s⟩)
  | .writeRng h s => some (packC ⟨h.lone, h.guard, 0#4, 13#4, 13#6, csrcBits s⟩)
  | .srTlbinv h la s => some (packC ⟨h.lone, h.guard, la, 13#4, 61#6, csrcBits s⟩)
  | .srPfence h la => some (packC ⟨h.lone, h.guard, la, 13#4, 62#6, 2048#12⟩)
  | .srAckfloor h la s => some (packC ⟨h.lone, h.guard, la, 13#4, 63#6, csrcBits s⟩)
  | .illegalWord => none
  | .fixedResultVisible _ => none
  | .variableResultLand _ _ => none
  | .leaseGrant _ => none
  | .leaseIdleLimit _ => none
  | .mxCommandAccept _ => none
  | .mxCommandExecute _ => none
  | .cePushAccept _ => none
  | .ceCommandStart _ => none
  | .ceLineDelivery _ _ _ => none
  | .ceReduceLine _ _ _ => none
  | .cePoisonNotice _ _ => none
  | .copyqMessagePush _ _ => none
  | .ceCommandComplete _ _ => none
  | .strandControlAct _ => none
  | .streamElementArrival _ _ => none
  | .chunkLengthReached _ => none
  | .weirCommitRequest _ => none
  | .weirPrepare _ => none
  | .effectIssue _ => none
  | .fenceCheck _ => none
  | .translationWalk _ _ => none
  | .tlbInvalidationArrival _ _ _ _ => none
  | .cascadeNumbering _ _ => none
  | .cascadeApply _ _ => none
  | .remoteModuleAccess _ => none
  | .remoteEffectMessage _ => none
  | .replyResult _ _ _ => none
  | .replyBusy _ _ => none
  | .replyMoved _ _ => none
  | .replyRefuse _ _ _ => none
  | .retransmitTimeout _ _ => none
  | .busyRetryTimer _ _ => none
  | .ownerBusyLimit _ _ => none
  | .floorNotice _ _ _ => none
  | .stashRefillRequest _ => none
  | .stashRefillAnswer _ _ => none
  | .reductionTake _ => none
  | .reductionDownwardReceive _ _ _ _ _ => none
  | .reductionRoundEnd _ => none
  | .launchExpansion _ _ => none
  | .launchStalled _ _ => none
  | .waitExpired _ => none
  | .queueRetry _ => none
  | .sluiceGovernorTick _ => none
  | .setAcquireRequest _ => none
  | .setGrant _ _ => none
  | .woundRollback _ _ => none
  | .setRelease _ _ _ _ => none
  | .droopStretch _ => none
  | .supplyRecovery _ => none
  | .timeReferencePulse _ _ => none
  | .timeReferenceLost _ => none
  | .alarmFire _ => none
  | .boundaryFlitCrossing _ => none
  | .linkFlitCrcError _ => none
  | .slip _ => none
  | .fetchFillArrival _ _ => none
  | .fetchRetryTimeout _ => none
  | .moduleStart _ => none
  | .selfTest _ => none
  | .partitionCreate _ _ => none
  | .domainAgreement _ => none
  | .faultRingDeliver _ _ => none
  | .writeFaultRingBase _ _ _ => none
  | .systemWindowStore _ _ => none
  | .debugResume _ _ => none
  | .debugStep _ => none
  | .debugKill _ => none
  | .preemptRequest _ _ => none
  | .preemptSave _ => none
  | .preemptGraceExpiry _ => none
  | .partitionRestore _ _ _ => none
  | .hostDoorbell _ _ => none
  | .hostCmdLaunch _ => none
  | .hostCmdCopy _ => none
  | .hostCmdSignal _ => none
  | .hostCmdWait _ => none
  | .hostWaitPoll _ => none
  | .hostWaitLimit _ => none
  | .hostQueueResume _ => none
  | .attestationRequest _ _ => none
  | .scrubTick _ => none
  | .errorFclr _ => none
  | .errorCclr _ => none
  | .watchdogFire _ => none
  | .rimScrub _ => none
  | .boundaryStart _ => none
  | .boundaryRecord _ => none
  | .boundaryApply _ _ => none
  | .boundaryDurable _ => none
  | .boundaryAbandon _ => none
  | .boundaryRetry _ => none
  | .logRecord _ _ => none
  | .recoveryStart _ _ => none
  | .recoveryReplay _ => none
  | .routerEntryPending _ _ _ => none
  | .routerEntryCommit _ _ _ => none
  | .routerAckTimeout _ _ _ => none
  | .routerEntryDoubleError _ _ _ => none
  | .forwardWindowExpiry _ => none
  | .strandSwap _ _ _ => none
  | .groupUnreachable _ => none
  | .basinDrain _ => none
  | .basinStop _ => none
  | .basinMigrate _ => none
  | .basinRemapPrepare _ => none
  | .basinRemapCommit _ => none
  | .basinReturn _ => none
  | .basinBoundaryNow _ => none
  | .basinFail _ => none
  | .partitionDestroy _ => none
  | .rimChannelWorldSet _ _ => none

/-- The instruction the decoder reads from a table row's word: `nbits` bits of `w`, the rest zero, laid
out as the code image stores them. -/
noncomputable def decodeTableWord (nbits w : Nat) : Option Instr :=
  decodeBytes (wordBytes (BitVec.ofNat 32 (w % 2 ^ nbits)))

end Sys2Proof
end

