-- ==== Sys2Proof/Config.lean ====
section
/-! DEFINITION. What one module fixes and the manual leaves open: free values and free choices. Every
constant here is opaque and has no body, so no proof can depend on a particular value. Each is named in
a log entry of notes/assumptions. -/

namespace Sys2Proof

/-- Nanoseconds of shared time that pass in step `n` (R307; log 4). -/
opaque Config.elapsed : Nat → Nat

/-- How far below its target the clock of region `rk` runs in step `n` of a stretch (R304; log 4). -/
opaque Config.droop : Nat → Nat → Nat

/-- Which of the things that can happen next does happen in step `n` (R208; log 3). -/
opaque Config.choice : Nat → Nat

/-- Whether the fabric drops the message taken in step `n` (R232; log 6). -/
opaque Config.lost : Nat → Bool

/-- The content of an operand latch that a trigger consumed, the n-th such content (R9, R33; log 5). -/
opaque Config.freeLatch : Nat → Reg80

/-- A 64-bit value the manual calls undefined, the n-th such value (R9; log 5). -/
opaque Config.freeWord : Nat → Val64

/-- A byte of destination that overlaps the source of one engine command (R239; log 5). -/
opaque Config.freeByte : Nat → Byte

/-- Where, within what R308 allows, the copy of shared time of region `rk` stands after step `n` (log 4). -/
opaque Config.skew : Nat → Nat → Nat

/-- The links that a message from one place to another goes through, by the live groups of every region: the crossings of region
boundaries on its way (R310, R379; log 63). -/
opaque Config.route : List (BitVec 36) → Nat → Nat → List Nat

/-- Whether an access uses a cached translation that is no longer in the tables (R177; log 7). -/
opaque Config.useCached : Nat → Bool

/-- Which line of a full instruction cache, or entry of a full TLB, gives way (R177, R313; log 7). -/
opaque Config.evict : Nat → Nat

/-- Whether a message still reaches the old place of a rebound core (R378; log 6). -/
opaque Config.oldPlace : Nat → Bool

/-- The private key of the module's identity, 57 bytes (R28, R346; log 8). -/
opaque Config.identitySecret : List Byte

/-- The vendor key whose digest is fused (R344; log 8). -/
opaque Config.vendorKey : List Byte

/-- The keys enrolled in the owner's secure policy (R320; log 8). -/
opaque Config.ownerKeys : List (List Byte)

/-- Whether the owner's policy lets a position or group return to service (R386; log 8). -/
opaque Config.returnAllowed : Nat → Nat → Nat → Bool

/-- The uncontended physical latency between two groups, in nominal cycles (R311; log 9). -/
opaque Config.pathLatency : List (BitVec 36) → List Nat → Nat → Nat → Nat

/-- The first value of the token pool of a partition (R221; log 10). -/
opaque Config.tokenBase : Nat → BitVec 40

/-- The cells of coded arrays that soft errors disturb before the event of step `n` (R348, R350; log 11). -/
opaque Config.upsets : Nat → List Disturbance

/-- The bytes of rim codewords that soft errors disturb before the event of step `n`: line, byte of 144, pattern (R361; log 11). -/
opaque Config.rimUpsets : Nat → List (Nat × Nat × BitVec 8)

/-- A check of the core's logic that fails before the event of step `n` (R358; log 11). -/
opaque Config.checkFail : Nat → Option CheckFail

/-- A physical group whose array fails its self-check before the event of step `n` (R374; log 11). -/
opaque Config.arrayFail : Nat → Option Nat

/-- A group and a line of its instruction cache of which a word fails its parity before the event of step `n` (R358; log 11). -/
opaque Config.codeFail : Nat → Option (Nat × Nat)

/-- The translation cache and the place of an entry in it that fails its parity before the event of step `n` (R177, R358; log 11): its level
(0 core, 1 group, 2 region), whose it is, and the place. -/
opaque Config.tlbFail : Nat → Option (Nat × Nat × Nat)

/-- A router and a logical group of which its table's entry has a double error before the event of step `n` (R379; log 11). -/
opaque Config.entryFail : Nat → Option (Nat × Nat)

/-- Whether the n-th read of a queue pool, result cache or lock table reads a disturbed word of it: the spec does not say what stands
where in them (R348; log 64). -/
opaque Config.readsWord : Nat → Bool

/-- Whether the shadow store of a failed position still reads clean (R376; log 11). -/
opaque Config.shadowClean : Nat → Bool

/-- The count of the ageing oscillator of physical group `g` (region × 36 + group) when it is measured in step `n` (R316;
log 11). -/
opaque Config.ageCount : Nat → Nat → Nat

/-- The Valsen port through which a message to another module leaves (R14; log 59). -/
opaque Config.valsenPort : Nat → Fin 32

end Sys2Proof
end

