-- ==== Sys2Proof/Machine/Store.lean ====
section
/-! DEFINITION. Sparse tables: a list of key and value pairs, keys strictly rising. A key that is not
listed reads as the default the reader names. -/

namespace Sys2Proof.Machine

/-- A sparse table from numbers to values, in rising key order. -/
abbrev Store (β : Type) := List (Nat × β)

/-- The value listed at `k`, if any. -/
def Store.find {β : Type} : Store β → Nat → Option β
  | [], _ => none
  | (j, b) :: r, k => if k = j then some b else if k < j then none else Store.find r k

/-- The value at `k`, or `d` where none is listed. -/
def Store.getD {β : Type} (m : Store β) (k : Nat) (d : β) : β := (m.find k).getD d

/-- List `b` at `k`, in place of what stood there. -/
def Store.put {β : Type} : Store β → Nat → β → Store β
  | [], k, b => [(k, b)]
  | (j, c) :: r, k, b =>
    if k = j then (k, b) :: r else if k < j then (k, b) :: (j, c) :: r else (j, c) :: Store.put r k b

/-- List nothing at `k`. -/
def Store.del {β : Type} : Store β → Nat → Store β
  | [], _ => []
  | (j, c) :: r, k => if k = j then r else if k < j then (j, c) :: r else (j, c) :: Store.del r k

/-- Apply `f` to the value listed at `k`; where none is listed, nothing changes. -/
def Store.alter {β : Type} (m : Store β) (k : Nat) (f : β → β) : Store β :=
  match m.find k with
  | some b => m.put k (f b)
  | none => m

/-- Apply `f` to every value. -/
def Store.mapAll {β : Type} (m : Store β) (f : Nat → β → β) : Store β := m.map fun p => (p.1, f p.1 p.2)

/-- The keys listed from `lo` below `hi`. -/
def Store.keysIn {β : Type} (m : Store β) (lo hi : Nat) : List Nat :=
  (m.filter fun p => decide (lo ≤ p.1) && decide (p.1 < hi)).map Prod.fst

/-- Keys rise strictly from `lo`. -/
def Store.risesFrom {β : Type} : Nat → Store β → Bool
  | _, [] => true
  | lo, (k, _) :: r => decide (lo ≤ k) && Store.risesFrom (k + 1) r

/-- The canonical form: keys strictly rising. -/
def Store.wf {β : Type} (m : Store β) : Bool := Store.risesFrom 0 m

/-- Insert a number into a rising list without repeats. -/
def insertNat : List Nat → Nat → List Nat
  | [], n => [n]
  | m :: r, n => if n = m then m :: r else if n < m then n :: m :: r else m :: insertNat r n

/-- Remove a number from a rising list. -/
def eraseNat : List Nat → Nat → List Nat
  | [], _ => []
  | m :: r, n => if n = m then r else if n < m then m :: r else m :: eraseNat r n

/-- Membership in a rising list. -/
def hasNat : List Nat → Nat → Bool
  | [], _ => false
  | m :: r, n => if n = m then true else if n < m then false else hasNat r n

end Sys2Proof.Machine
end

