-- ==== Sys2Proof/Machine/State.lean ====
section
/-! DEFINITION. The state of one module, as plain data: registers, strands, cores, groups, regions,
channels, partitions, host queues, the Igfel controller and memory, with `State.reset`. -/

namespace Sys2Proof.Machine

/-! ## Register values -/

/-- An 80-bit register or latch with its poison mark (R29, R91). -/
structure Reg where
  v : Reg80
  p : Bool
  deriving DecidableEq, Repr

/-- A vector register: 512 bytes and its poison mark (R29, R121). -/
structure VReg where
  d : BitVec 4096
  p : Bool
  deriving DecidableEq, Repr

/-- A mask register: 1,024 bits and its poison mark (R29, R331). -/
structure KReg where
  d : BitVec 1024
  p : Bool
  deriving DecidableEq, Repr

/-- The 28 latches of a strand, in the order of Table 13-7. -/
inductive Latch where
  | iaO | iaR | ibO | ibR | faO | faR | lsW | lsX | lsY | lsZ | lsD | vxS | mxA | mxB | atO | atR
  | ceS | ceD | ceN | ceB | ceM | sqD | sqH | sqR | syA | syB | syL | syR
  deriving DecidableEq, Repr

/-- The units whose results land in trigger order (R32, R34, R42); `mv` stands for plain moves. -/
inductive FUnit where
  | mv | ia | ib | fa | vx | vm | mx | ls | at | ce | sq | sy | sr
  deriving DecidableEq, Repr

/-- The operations of the vector unit (Table 2-12), as a captured request names them. -/
inductive VOp where
  | add | sub | mul | mulh | fma | fms | nfma | min | max | abs | neg
  | and | or | xor | shl | shr | sar | cmpeq | cmpne | cmplt | cmple
  | sel | cvt | wadd | wmul | narrow | sum | maxr | minr | perm | shuf | bcast | slide
  | sexp | sacc | decq | encq | exp2 | log2 | rcp | rsq | tanh | popcm | iota | mmov
  deriving DecidableEq, Repr

/-- An operand of a vector operation: a whole register, a group of registers, a mask, or a scalar for
every element (R48, R115, R128, R133). -/
inductive VArg where
  | vec (r : VReg)
  | group (rs : List VReg)
  | msk (k : KReg)
  | scal (r : Reg)
  deriving DecidableEq, Repr

/-- A vector operation as its trigger captured it (R114, R119): everything but the old content of the
destination and the addend register, which are read where the result lands. -/
structure VReq where
  op : VOp
  d : Fin 8
  o : VArg
  t : VArg
  vt : BitVec 64
  mask : Option KReg
  mz : Bool
  rm : Fin 7
  add : Option VReg
  sat : Bool
  quart : Nat
  rng : BitVec 64
  deriving DecidableEq, Repr

/-- One write that lands when a result becomes visible (R31, R38). -/
inductive Wr where
  | latch (l : Latch) (r : Reg)
  | g (n : Fin 24) (r : Reg)
  | pw (w : BitVec 32)
  | pbit (n : Fin 8) (b : Bool)
  | vt (w : BitVec 64)
  | v (n : Fin 8) (r : VReg)
  | k (n : Fin 4) (r : KReg)
  | vop (q : VReq)
  | mulacc (tag : BitVec 16) (prod : BitVec 64) (mark : Bool)
  | fmaOnto (a b : Nat) (mode draw : Nat) (mark quiet : Bool)
  | mxSt (clear set : BitVec 64)
  | sqSt (w : BitVec 64)
  | fx (or : BitVec 64)
  | pe (pc : BitVec 64) (addr : Reg80)
  | sysw (r : Fin 21) (w : BitVec 64)
  deriving DecidableEq, Repr

/-- What the bytes of a load become (R140, R154, R183): a lane, a vector register, a mask, or the rows of an
operand buffer. -/
inductive LoadKind where
  | lane (op : Fin 8) (l : Fin 4)
  | vec (n : Fin 8)
  | mask (n : Fin 4)
  | rows (b : Bool) (fmt : Fin 6)
  deriving DecidableEq, Repr

/-- What a result in flight waits for (R34, R148, R246, R273, R275, R276, R288). -/
inductive Pend where
  | none
  | walk (cause : Option Nat) (addr : Reg80)
  | remote
  | atomic (a : Reg80) (log : Bool)
  | bytes (k : LoadKind) (a : Reg80)
  | lease (n : Nat)
  | command
  | token
  | barrier (h : Reg80) (idx : Nat) (phase : Bool)
  | monitor
  | gbar
  | xchg (d : Fin 8) (offered : VReg)
  | queue (push : Bool) (h : Reg80) (v : BitVec 64) (mark : Bool) (user : Bool) (claim : Option Nat)
  | pfence
  deriving DecidableEq, Repr

/-- A result that has not landed (R36): its unit, the number of its trigger, the bundles it or its window
still needs, whether the result has arrived, what it waits for, the bound in cycles of a wait for it (0
for none) with the detail of its expiry, the word that triggered it, whether its result goes to a source
port (R332), and its writes. -/
structure Flight where
  unit : FUnit
  seq : Nat
  left : Nat
  arrived : Bool
  pend : Pend
  lim : Nat
  detail : Nat
  word : Word32
  pc : BitVec 64
  second : Bool
  port : Bool
  acts : List Wr
  deriving DecidableEq, Repr

/-- A stream's descriptor (Table 7-5) with the next position (R188). -/
structure Binding where
  base : BitVec 64
  tag : BitVec 16
  out : Bool
  counts : List Nat
  strides : List (BitVec 64)
  pos : Nat
  deriving DecidableEq, Repr

/-- The recorded place of the first poisoned access (R212). -/
structure PendingError where
  set : Bool
  pc : BitVec 64
  addr : Reg80
  deriving DecidableEq, Repr

/-- The items that a squash restores (R204, Table 2-1). `stale` marks the operand latches that a trigger has consumed and nothing
has written since (R33, R87). -/
structure Ctx where
  g : Vector Reg 24
  pw : BitVec 32
  pc : BitVec 64
  second : Bool
  vt : BitVec 64
  v : Vector VReg 8
  k : Vector KReg 4
  lat : Vector Reg 28
  stale : BitVec 28
  mxSt : BitVec 64
  sqSt : BitVec 64
  fx : BitVec 64
  rng : BitVec 64
  binds : Vector (Option Binding) 8
  flights : List Flight
  pe : PendingError
  deriving DecidableEq, Repr

/-! ## Chunks -/

/-- One store of a chunk, held until it commits (R197): its flat address, bytes and poison mark. -/
structure SbWrite where
  addr : Nat
  data : List Byte
  mark : Bool
  deriving DecidableEq, Repr

/-- An array command with the operands captured at its trigger (R150-R162). -/
inductive MxCmd where
  | load (b : Bool) (fmt : Fin 6) (rows : List (BitVec 1024)) (mark : Bool)
  | product (shape : Fin 12) (t : Fin 16) (z : Bool) (aw bw : Fin 4) (src : Option (Fin 16))
  | drain (t : Fin 16) (clear : Bool) (dest pitch : Nat)
  | drainv (t : Fin 16) (p : Fin 32) (n : Fin 8)
  | zero (t : Fin 16)
  | chk (t : Fin 16)
  | inject (t : Fin 16) (row col bit : Nat)
  deriving DecidableEq, Repr

/-- An action that takes effect when its chunk commits (R150, R270, R299, R326, R334). -/
inductive Deferred where
  | mx (seq : Nat) (c : MxCmd)
  | lease (seq n : Nat)
  | free
  | strand (dp : Nat) (w : Reg80) (seq : Nat) (fpc : BitVec 64) (second : Bool)
  | selfStop (halt : Bool)
  | sys (st : SysStore)
  | undo (ptr : Reg80) (line : List Byte) (key : Nat)
  deriving DecidableEq, Repr

/-- An executing or awaiting chunk (R194-R203): length, stores, signatures, the slices it read with the
lowest commit number at each, the values it read of `tm` and `cy`, and what it defers to its commit. -/
structure Chunk where
  len : Nat
  limit : Nat
  drainvs : Nat
  stores : List SbWrite
  lines : List Nat
  rsig : BitVec 512
  wsig : BitVec 512
  prsig : BitVec 512
  pwsig : BitVec 512
  slices : List (Nat × Nat)
  times : List (BitVec 64)
  vsaved : BitVec 8
  deferred : List Deferred
  reads : List Nat
  issued : List Nat
  prepared : List Nat
  serial : Option (BitVec 32)
  deriving DecidableEq, Repr

/-- A remote request that has not been answered (R232, R235): its number, message, the counted sends, the
time of the latest send and of the first busy reply, and what its window stands for. -/
structure Req where
  seq : Nat
  msg : Msg
  sends : Nat
  last : Nat
  busySince : Option Nat
  fpc : BitVec 64
  second : Bool
  deriving DecidableEq, Repr

/-- The strand states, in the code order of R331. -/
inductive SState where
  | idle | ready | stalledLA | stalledStream | waitMonitor | waitBarrier | waitQueue | waitLease
  | waitSet | slip | stopped | frozen
  deriving DecidableEq, Repr

/-- Why a strand is out of the rotation (Table 10-1). -/
inductive Why where
  | none
  | window (seq : Nat)
  | chunkAwait
  | effect
  | fence
  | done
  | scoreboard
  | serial
  | token
  | engine
  | completion
  | stream (j : Fin 8)
  | set (n : Fin 8)
  | context
  | pool
  | reduction
  | fetch
  | ninth (seq : Nat)
  deriving DecidableEq, Repr

/-- A strand's monitor slot (R274). -/
structure Monitor where
  line : Nat
  ptr : Reg80
  armed : Bool
  fired : Bool
  deriving DecidableEq, Repr

/-- A declared atomic set (R295). -/
structure SetDecl where
  base : Reg80
  len : Nat
  deriving DecidableEq, Repr

/-- A `ct` word that acts on another strand once its chunk has committed (R270). -/
structure CtlWord where
  dp : Nat
  w : Reg80
  seq : Nat
  fpc : BitVec 64
  second : Bool
  deriving DecidableEq, Repr

/-- An element that a word has popped from a stream (R189): the stream, its binding before the pop, the element's address, bytes
and mark, the pieces of memory it came from, and whether the binding stays as the other word of the bundle has left it (R38). -/
structure Popped where
  j : Fin 8
  bind : Binding
  addr : Reg80
  data : List Byte
  mark : Bool
  pieces : List (Nat × Nat)
  kept : Bool
  deriving DecidableEq, Repr

/-- One strand: the context, the chunks and everything a squash does not restore. `tlbinvOut` holds the invalidations that have
still to reach a region: the number of the word and the region (R335). `readyFrom` and `dueFrom` are the cycles since which the watchdog has
seen it ready without issuing, and with a result that is due and not visible (R360). `serialRun` holds the lines and the vector
registers that the bundles of a serial run have written, once one has ended (R205); `waitLog` the records of a waiting bundle, logged when its
wait is over; `farBusy` the first and the latest time at which a slice elsewhere had no room for the chunk of the strand's own bundle (R229);
`cspc` where the chunk began that the strand's first packet names (R328). -/
structure Strand where
  ctx : Ctx
  start : Ctx
  chunk : Chunk
  await : Option (Ctx × Chunk)
  effect : Option Nat
  waitFrom : Option Ctx
  st : SState
  recorded : SState
  frozenFrom : SState
  why : Why
  since : Nat
  bound : Nat
  bounded : Bool
  stopping : Bool
  prefixed : Option Prefix
  branch : Option (BitVec 64)
  effIssue : Bool
  closes : Bool
  fetchSends : Nat
  seq : Nat
  squashPc : BitVec 64
  squashes : Nat
  serialLeft : Nat
  serialRun : Option (List Nat × BitVec 8)
  waitLog : List LogRec
  farBusy : Option (Nat × Nat)
  cspc : BitVec 64 × Bool
  alarm : BitVec 64
  wcl : BitVec 64
  chl : BitVec 64
  tok : BitVec 40
  sn : BitVec 32
  floor : BitVec 32
  ag : BitVec 64
  slips : BitVec 32
  lastTm : Nat
  readyFrom : Option Nat
  dueFrom : Option Nat
  task : Option Nat
  mons : Vector Monitor 4
  syl : Nat
  sgoWake : Bool
  sets : Vector (Option SetDecl) 8
  asking : List SetReq
  reqs : List Req
  reached : List Owner
  ceCount : BitVec 32
  ceOut : List Nat
  ceDone : List (BitVec 64 × Bool)
  ceErr : BitVec 8
  ceErrCmd : BitVec 8
  ctl : List CtlWord
  saving : Option (Bool × Nat × Nat)
  endChunk : Bool
  stepping : Bool
  stepAsked : Bool
  stepKind : BitVec 4
  stepVal : BitVec 32
  killing : Bool
  wounded : Bool
  donePhase : Nat
  buffered : Vector Nat 8
  elem : Option (Nat × List Byte × Bool)
  popped : List Popped
  given : List Popped
  carry : Option (SState × Nat)
  tlbinvOut : List (Nat × Nat)
  retryAt : Nat
  tryReply : Option (RemoteOp × Reply)
  queueSeen : Nat × Nat
  committed : Nat
  stepAt : Nat
  deriving DecidableEq, Repr

/-! ## Cores -/

/-- The states of a named barrier (R271). -/
inductive BarState where
  | uninit | armed | complete | poison
  deriving DecidableEq, Repr

/-- A named barrier (R271). -/
structure Barrier where
  phase : Bool
  expA : BitVec 16
  arrA : BitVec 16
  expB : BitVec 32
  arrB : BitVec 32
  auto : Bool
  st : BarState
  cause : BitVec 5
  deriving DecidableEq, Repr

/-- An element of a queue (R286, R292): a message with its mark, or a task element naming a record. -/
structure QElem where
  val : BitVec 64
  mark : Bool
  task : Option (Nat × Nat)
  deriving DecidableEq, Repr

/-- A queue of the pool (R280-R283): limits, counts, the popped places of its first cell, elements, and
the strands that wait on it, oldest first. -/
structure Queue where
  min : Nat
  cap : Nat
  head : BitVec 32
  tail : BitVec 32
  off : Nat
  elems : List QElem
  waiters : List Nat
  deriving DecidableEq, Repr

/-- A contribution in the reduction inbox (R250): its words, the marks of its 8-byte words and the cells it holds. -/
structure Contribution where
  data : List (BitVec 32)
  marks : List Bool
  cells : Nat
  deriving DecidableEq, Repr

/-- The phase of a reduction round (R252). -/
inductive RedPhase where
  | idle | gathering | up | down
  deriving DecidableEq, Repr

/-- The reduction server (R250-R252): phase, contributions counted (the running sum is in its buffer), the commands of its upward and of its
downward send that are outstanding, whether either has failed, and the local offset and the bytes of the sum that goes down. -/
structure RedState where
  phase : RedPhase
  taken : Nat
  up : Option Nat
  down : Option Nat
  upFailed : Bool
  downFailed : Bool
  off : Nat
  len : Nat
  deriving DecidableEq, Repr

/-- A run of bytes that an engine command covers: flat source address, flat destination address, bytes.
`tags` hold the pointers the walk started from. -/
structure CeRun where
  src : Reg80
  dst : Reg80
  len : Nat
  deriving DecidableEq, Repr

/-- An accepted engine command (R236-R245): its core-wide number, pusher, the strand's number for it, the
operation, operands, runs, the lines still to do, the outstanding deliveries and what has happened. `buf` holds the bytes and
marks of the source lines that it has read; `pushSn` is the serial of the message that follows its lines (R243, R248). -/
structure CeCmd where
  id : Nat
  sid : Nat
  num : BitVec 32
  op : Nat
  prio : Nat
  s : Reg80
  d : Reg80
  n : Reg80
  b : Reg80
  m : Reg80
  mMark : Bool
  runs : List CeRun
  targets : List Nat
  started : Bool
  total : Nat
  next : Nat
  acked : List (Nat × Nat)
  outstanding : List Nat
  cause : Nat
  poisoned : Bool
  messaged : Bool
  pushSn : Option (BitVec 32)
  server : Bool
  buf : Store (List Byte × List Bool)
  deriving DecidableEq, Repr

/-- A range of the scoreboard (R192): first line, last line, and who holds it. -/
structure Range where
  lo : Nat
  hi : Nat
  owner : Nat
  deriving DecidableEq, Repr

/-- An entry of a TLB (R177): partition, window offset and size of the page, its frame and permissions. -/
structure TlbEntry where
  pid : Nat
  rep : Bool
  page : Nat
  big : Bool
  frame : Nat
  writable : Bool
  deriving DecidableEq, Repr

/-- Error words of a unit with coded arrays (R356, R364): control, counts and filter, and the cycle in which FCLR last cleared it. -/
structure ErrWords where
  scrub : Nat
  rptscat : Bool
  unc : Nat
  rep : Nat
  scat : Nat
  filter : BitVec 2048
  clearedAt : Option Nat
  deriving DecidableEq, Repr

/-- A cell of a coded array by what it belongs to (R349): array and bank; with `par` the parity store, whose row is a row block;
the row and the column of its word; its bit, 64 for the poison mark and 65 for the horizontal parity. -/
structure Cell where
  array : Nat
  bank : Nat
  par : Bool
  row : Nat
  col : Nat
  bit : Nat
  deriving DecidableEq, Repr

/-- A physical core or group with coded arrays (R348, R364): error words, watchdog exponent, the scrubs since the module
started, the region cycle of the latest, and `flips`, the cells that differ from the coded content: each word with even horizontal parity,
each vertical parity word the XOR of its column group (R349; log 64). `bare` are words of which each alone has set the mark of the register, slot
or buffer that it belongs to, with a flip of its own mark cell. -/
structure SramUnit where
  err : ErrWords
  wd : Nat
  scrubs : Nat
  scrubAt : Nat
  flips : List Cell
  bare : List Cell
  deriving DecidableEq, Repr

/-- A flit (R23): the message to which it belongs, with its bytes of payload, 128 to a flit; whether it is the last of the message;
the links the message has still to cross; and the cycle of the receiving region at which the flit was sent. -/
structure Flit where
  msg : Instr
  bytes : Nat
  last : Bool
  onward : List Nat
  since : Nat
  deriving DecidableEq, Repr

/-- A link over a region boundary, for one plane and direction (R310): the flits that wait at the sending router, those on their
way and those in the receiver's FIFO, each oldest first. -/
structure Link where
  waiting : List Flit
  wire : List Flit
  held : List Flit
  deriving DecidableEq, Repr

/-- One logical core with the physical place it runs on. `log` is its log, `sending` the records on their way to the buddy
(R372), `replay` what a replay has still to use. `copyLost` is 0 while its
buddy holds a copy, 1 when the copy is lost, 2 while a boundary sends a new one (R383). `rotAt` is the cycle in which strand `rot`
issued last. `watchFrom` is the cycle since which
the watchdog has seen a strand ready and no slot offered (R360). `got` and `gave` are the records that its stash received and returned since
the durable boundary, `keep` the returns that a replay has still to leave out (log 29). `tmSeen` is the latest shared time that
a context saved on the core has read (R308). -/
structure Core where
  gx : Nat
  gy : Nat
  sup : Bool
  rx : Nat
  ry : Nat
  group : Nat
  pos : Nat
  dbl : Bool
  shadow : Bool
  rot : Nat
  rotAt : Option Nat
  watchFrom : Option Nat
  ranges : List Range
  tlb : List TlbEntry
  stash : List TokRec
  refilling : Bool
  barriers : Store Barrier
  rq : Vector (List Nat) 4
  rqHead : BitVec 32
  rqTail : BitVec 32
  inbox : Store Queue
  redIn : List Contribution
  redHead : BitVec 32
  redTail : BitVec 32
  redMin : Nat
  redCap : Nat
  claims : List Nat
  rqPushed : Bool
  done : BitVec 16
  yld : BitVec 16
  hlt : BitVec 16
  trp : BitVec 64
  trc : BitVec 64
  redpin : BitVec 64
  red : RedState
  disc : BitVec 32
  fifo : List CeCmd
  running : List CeCmd
  nextCmd : Nat
  eTok : BitVec 40
  eSn : BitVec 32
  eFloor : BitVec 32
  eSeq : Nat
  eReqs : List Req
  eReached : List Owner
  occ : BitVec 1024
  changed : List Nat
  parked : List Nat
  swapBase : List (Nat × Nat)
  drained : Bool
  basinStopped : List Nat
  moving : Bool
  fatal : Bool
  log : List LogRec
  sending : List LogRec
  replay : List LogRec
  early : Bool
  copyLost : Nat
  got : List TokRec
  gave : Nat
  keep : Nat
  tmSeen : Nat
  deriving DecidableEq, Repr

/-! ## Groups -/

/-- The kinds of an accumulator slot (R144). -/
inductive SlotKind where
  | n | f | i
  deriving DecidableEq, Repr

/-- An accumulator slot (R144): its cells that are not zero, at 65 i + j, its kind and mark. -/
structure Slot where
  cells : Store (BitVec 32)
  kind : SlotKind
  mark : Bool
  deriving DecidableEq, Repr

/-- An operand buffer (R146): its rows that are not zero, format tag (Table 6-2) and mark. -/
structure Buf where
  rows : Store (BitVec 1024)
  fmt : Fin 6
  mark : Bool
  deriving DecidableEq, Repr

/-- An accepted array command with the strand that issued it (R151). -/
structure MxJob where
  sid : Nat
  seq : Nat
  cmd : MxCmd
  deriving DecidableEq, Repr

/-- The kind of reply an owner's cache entry stores (R228). -/
inductive ReplyKind where
  | result
  | refuse (cause : Nat)
  deriving DecidableEq, Repr

/-- An entry of an owner's result cache (R228). -/
structure CacheEnt where
  pid : Nat
  tok : BitVec 40
  sn : BitVec 32
  kind : ReplyKind
  reply : Reply
  deriving DecidableEq, Repr

/-- A Weir slice (R201-R203): its commit number, the write signatures of its last commits, newest first,
each with the strand whose chunk it was, and the prepared chunks by strand. -/
structure Slice where
  num : Nat
  hist : List (Option Nat × BitVec 512)
  prep : List (Nat × BitVec 512)
  deriving DecidableEq, Repr

/-- What an owner holds for its sets and effects (R228, R297): result cache, held sets and waiters. `drafts` are the lock-table
entries that are not valid and whose words have been stored (R326). -/
structure OwnerData where
  cache : List CacheEnt
  locks : Store SetReq
  drafts : Store SetReq
  waiters : List SetReq
  slice : Slice
  deriving DecidableEq, Repr

/-- The group state that a checkpoint records (R165, R369): array, lease and owner data. `leaseSeq` is the number of the request
that was granted: only commands after it count against the lease (R147). -/
structure GroupData where
  slots : Store Slot
  bufA : Buf
  bufB : Buf
  holder : Option Nat
  lastSeat : Nat
  idleSince : Nat
  leaseLeft : Nat
  leaseSeq : Nat
  requests : List (Nat × Nat × Nat)
  own : OwnerData
  gbar : Store (List Nat)
  xchg : Store (List Nat)
  deriving DecidableEq, Repr

/-- A router table entry (Table 15-5). -/
structure RouterEntry where
  ver : BitVec 8
  state : BitVec 2
  rx : Nat
  ry : Nat
  group : Nat
  dbl : BitVec 4
  pos : Vector Nat 4
  deriving DecidableEq, Repr

/-- The steps of a boundary that is in progress (Table 15-1). -/
inductive BStage where
  | quiesce | transfer
  deriving DecidableEq, Repr

/-- What a durable boundary holds of a group (R369): its data, its cores and their strands, the stage
queues homed in it, the strands that the boundary stopped, and what had been caused in it. -/
structure GroupSnap where
  e : Nat
  data : GroupData
  cores : List (Nat × Core)
  strands : List (Nat × Strand)
  stages : List (Nat × Queue)
  stopped : List Nat
  agenda : List Instr
  deriving DecidableEq, Repr

/-- A boundary in progress (R368, R371): number, stage, record, start time, the strands it stopped, the length of each
seat's log at the record and what its stash had received and returned, the lines that each seat sends with their bytes and marks, the seats acknowledged, and the
journal of the image lines that were replaced. -/
structure Boundary where
  e : Nat
  stage : BStage
  snap : Option GroupSnap
  since : Nat
  stopped : List Nat
  logs : List Nat
  toks : List (Nat × Nat)
  out : List (Nat × Nat × List Byte × List Bool)
  acks : List Nat
  journal : List (Nat × List Byte × List Bool)
  deriving DecidableEq, Repr

/-- A recovery in progress (Table 15-4): the seat that its reports name, the start of its replay and the records to replay. -/
structure Recovery where
  seat : Nat
  since : Nat
  records : Nat
  deriving DecidableEq, Repr

/-- A change of a group's router entry (R380): the new entry and the old one, the routers that hold it pending, those that have
committed it, those given up as unreachable, the phase, the time each phase began, and the core that a Basin command moves. -/
structure Rebind where
  entry : RouterEntry
  old : RouterEntry
  pending : List Nat
  committed : List Nat
  lost : List Nat
  phase2 : Bool
  since : Nat
  basin : Option Nat
  deriving DecidableEq, Repr

/-- One logical group with the physical group it is bound to. `stale` holds the routers that still have the entry before the last
(R380); the old place forwards until `forwardUntil`, then answers *moved*, while its network interface works (R378). `held` holds the messages that wait at its network interface
(R404), in the order of their arrival. -/
structure Group where
  data : GroupData
  arriving : List MxJob
  queue : List MxJob
  icache : List (Nat × List (BitVec 64))
  tlb : List TlbEntry
  arrayLive : Bool
  entry : RouterEntry
  stale : List (Nat × RouterEntry)
  fetching : List Nat
  rebind : Option Rebind
  forwarding : Bool
  moved : Bool
  oldWorks : Bool
  forwardUntil : Nat
  boundary : Option Boundary
  durable : Option GroupSnap
  nextBoundary : Nat
  nextE : Nat
  recovery : Option Recovery
  held : List Instr
  deriving DecidableEq, Repr

/-! ## Regions, channels, partitions -/

/-- A launch that a region's distributor is expanding (R261): header bytes, home origin, the next work
identifier, AGE. -/
structure Launch where
  hdr : List Byte
  ox : Nat
  oy : Nat
  oseat : Nat
  age : Nat
  next : Nat
  counts : Store Nat
  deriving DecidableEq, Repr

/-- A task the distributor holds because its record is not FREE (R261). -/
structure HeldTask where
  hdr : List Byte
  wid : BitVec 64
  core : Nat
  record : Nat
  age : Nat
  since : Nat
  told : Bool
  deriving DecidableEq, Repr

/-- A stage of a region: its control word (Table 11-6), its queue and the cores counted in it. -/
structure Stage where
  home : Nat
  en : Bool
  maxc : Nat
  minc : Nat
  hi : Nat
  lo : Nat
  q : Queue
  cores : List Nat
  deriving DecidableEq, Repr

/-- Basin's command word in progress and status word (Tables 15-6, 15-7). -/
structure Basin where
  busy : Bool
  err : BitVec 8
  lcore : Nat
  done : Nat
  seqCore : Option Nat
  seqNext : Nat
  target : Nat × Nat
  started : Nat
  deriving DecidableEq, Repr

/-- One region. `stretched` says that its oscillator sees a droop, `calm` is the cycle by which its period is back at 1 / FMAX
after one, `phase` what has passed of its cycle in units of 1/1000 cycle (R304), `copy` its copy of shared time (R308). `walks` holds the walks that its page walker has in flight: strand, result and page; those of one page are one
walk (R177). -/
structure Region where
  pid : Option Nat
  secure : Bool
  fmax : Nat
  drift : Nat
  stretches : BitVec 32
  stretched : Bool
  calm : Nat
  phase : Nat
  cyc : Nat
  copy : Nat
  slack : Nat
  pulse : Nat
  lost : Bool
  pool : List TokRec
  asking : List Nat
  launches : List Launch
  held : List HeldTask
  stages : Store Stage
  ringBase : BitVec 64
  waiting : List (List Byte)
  basin : Basin
  recov : Nat
  retired : List (Nat × Nat)
  outGroups : List Nat
  unreach : List Nat
  spares : List Nat
  sparePos : List (Nat × Nat)
  rimimg : Nat
  rimImgOf : List Nat
  discard : Nat
  corr : BitVec 32
  unc : Nat
  fatal : Nat
  cascN : Nat
  tlb : List TlbEntry
  walks : List (Nat × Nat × Nat)
  live : BitVec 36
  livepos : BitVec 180
  govAt : Nat
  deriving DecidableEq, Repr

/-- One rim channel (R228, R297, R361-R365). `upsets` holds, by line, the bytes of its codeword that differ from the coded ones, each with
its pattern: bytes 0-127 are data, 128 and 129 the poison mask, 130-143 the check bytes. -/
structure Channel where
  secure : Bool
  own : OwnerData
  rcorr : BitVec 64
  runc : BitVec 64
  rlast : BitVec 64
  rpass : BitVec 64
  scrubAt : Nat
  corrected : List Nat
  upsets : Store (List (Nat × BitVec 8))
  deriving DecidableEq, Repr

/-- Pre-emption of a partition in progress (R337): the save area, the time of step 2, whether step 5 has begun, and the strands
that it stopped. -/
structure Preempt where
  area : Nat
  since : Nat
  stopping : Bool
  stopped : List Nat
  deriving DecidableEq, Repr

/-- One partition (Tables 13-3, R325, R343, R345), with the cycle count of each region at its creation (R307). -/
structure Part where
  live : Bool
  rx0 : Nat
  ry0 : Nat
  wr : Nat
  hr : Nat
  secure : Bool
  h : Nat
  sup : Nat
  share : Nat
  t : Nat
  rs : Nat
  toks : Nat
  ptroot : Nat
  code : Nat
  codesz : Nat
  kentry : BitVec 64
  sentry : BitVec 64
  casc : Nat
  ival : Nat
  exp : List (Nat × Nat)
  dmod : Nat
  dmask : BitVec 8
  dpeer : Nat
  agreed : Bool
  b : Nat
  exceed : Bool
  n : Nat
  measure : BitVec 512
  cascLog : List ReplStore
  preempt : Option Preempt
  ckArea : Nat
  cyc0 : List (Nat × Nat)
  deriving DecidableEq, Repr

/-- What a pre-emption save holds (R338): the partition, and its cores, strands, groups and regions, what its
local stores hold, and what has been caused in it. The place word of a group is its saved router entry. -/
structure Saved where
  part : Part
  pid : Nat
  cores : Store Core
  strands : Store Strand
  groups : Store Group
  regions : Store Region
  local_ : List Host.Cell
  marks : List Nat
  agenda : List Instr
  deriving DecidableEq, Repr

/-! ## Host queues, the Igfel controller, the module -/

/-- The command that a host queue is running (R341): its bytes, when it began, the requests that have not been answered, the
code of an error, the bytes that a copy has sent, and the time of the next poll of a wait. -/
structure HostRun where
  cmd : List Byte
  since : Nat
  outstanding : List Nat
  code : Nat
  sent : Nat
  pollAt : Nat
  deriving DecidableEq, Repr

/-- A command queue of the rim command processor (R341). -/
structure HostQueue where
  base : Nat
  size : Nat
  head : Nat
  ring : Nat
  status : BitVec 32
  world : Option Nat
  tok : BitVec 40
  sn : BitVec 32
  floor : BitVec 32
  run : Option HostRun
  reqs : List Req
  reached : List Owner
  raised : Nat
  deriving DecidableEq, Repr

/-- The Igfel controller (R325, R344, R346), with the interrupts raised at MSI-X vectors 8 and 9 (R340). -/
structure Igfel where
  mailbox : BitVec 8
  refusal : Option Nat
  started : Bool
  log : List (BitVec 32 × BitVec 512)
  report : List Byte
  mailRaised : Nat
  reportRaised : Nat
  deriving DecidableEq, Repr

/-- Yield grade of the module (R17). -/
inductive Grade where
  | a | b
  deriving DecidableEq, Repr

/-- How an access from another module is answered (R178, R228). -/
inductive ModAnswer where
  | result
  | refuse (cause : Nat)
  | busy
  deriving DecidableEq, Repr

/-- The whole module. `outbox` holds what leaves for other modules, each message with its Valsen port, and `answers` the replies to them: module, token,
serial, the kind of answer and the result. `agenda` holds what has been caused and not yet taken: messages in flight, timers
and inputs from outside (log 3). `deferMarks` are the marks of the operands of deferred
entries (log 93). `cur` is the strand whose word is being executed, `second` whether that
word is the second of its pair, `word` its bits, `held` whether the bundle turned out not to issue. -/
structure State where
  grade : Grade
  fused : Store (List Byte)
  mem : List Host.Cell
  poison : List Nat
  deferMarks : List Nat
  strands : Store Strand
  cores : Store Core
  groups : Store Group
  regions : Store Region
  channels : Store Channel
  units : Store SramUnit
  links : Store Link
  parts : Store Part
  saved : Store Saved
  queues : Store HostQueue
  igfel : Igfel
  outbox : List (Fin 32 × Msg)
  answers : List (Nat × Nat × Nat × ModAnswer × Reply)
  agenda : List Instr
  now : Nat
  steps : Nat
  fresh : Nat
  cur : Nat
  word : Word32
  second : Bool
  held : Bool
  deriving DecidableEq, Repr

/-- Why a step stops with a fault. No rule of the spec stops the machine: each fault of the spec freezes a
strand and goes on, so nobody raises this one. -/
inductive Fault where
  /-- Raised by nobody: the manual leaves no behaviour of the device as a whole undefined (R9). Safe. -/
  | machineStopped
  deriving DecidableEq, Repr

/-- Why a step is refused. -/
inductive Refusal where
  /-- Raised by an arm of `exec` whose instruction has no meaning yet; named by its mnemonic. Safe. -/
  | notModelled (mnemonic : String)
  deriving DecidableEq, Repr

/-! ## Reset values -/

/-- A register of zero with a clear mark. -/
def Reg.zero : Reg := { v := 0, p := false }

/-- A vector register of zero. -/
def VReg.zero : VReg := { d := 0, p := false }

/-- A mask register of zero. -/
def KReg.zero : KReg := { d := 0, p := false }

/-- The reset value of `vt` (Table 5-1). -/
def vtReset : BitVec 64 := 0

/-- The reset value of `chl`: LEN 256 (Table 8-1). -/
def chlReset : BitVec 64 := 256

/-- The reset value of `wcl`: CEIL 0x01_0000 (Table 10-2). -/
def wclReset : BitVec 64 := 0x10000

/-- The context every strand has before anything starts it (R258, R266; `rng` is 1 by choice, log 22). -/
def Ctx.reset : Ctx :=
  { g := Vector.replicate 24 Reg.zero, pw := 1, pc := 0, second := false, vt := vtReset,
    v := Vector.replicate 8 VReg.zero, k := Vector.replicate 4 KReg.zero,
    lat := Vector.replicate 28 Reg.zero, stale := 0, mxSt := 0, sqSt := 0, fx := 0, rng := 1,
    binds := Vector.replicate 8 none, flights := [], pe := { set := false, pc := 0, addr := 0 } }

/-- A chunk in which nothing has happened. -/
def Chunk.empty : Chunk :=
  { len := 0, limit := 256, drainvs := 0, stores := [], lines := [], rsig := 0, wsig := 0, prsig := 0, pwsig := 0, slices := [], times := [],
    vsaved := 0, deferred := [], reads := [], issued := [], prepared := [], serial := none }

/-- A monitor slot that watches nothing. -/
def Monitor.off : Monitor := { line := 0, ptr := 0, armed := false, fired := false }

/-- A strand that has never run. -/
def Strand.reset : Strand :=
  { ctx := Ctx.reset, start := Ctx.reset, chunk := Chunk.empty, await := none, effect := none,
    waitFrom := none, st := .idle, recorded := .idle, frozenFrom := .ready, why := .none, since := 0, bound := 0,
    bounded := false, stopping := false, prefixed := none, branch := none, effIssue := false,
    closes := false, fetchSends := 0, seq := 0, squashPc := 0, squashes := 0, serialLeft := 0, serialRun := none, waitLog := [],
    farBusy := none, cspc := (0, false), alarm := 0, wcl := wclReset, chl := chlReset, tok := 0, sn := 0, floor := 0, ag := 0, slips := 0, lastTm := 0, readyFrom := none, dueFrom := none,
    task := none, mons := Vector.replicate 4 Monitor.off, syl := 0, sgoWake := false,
    sets := Vector.replicate 8 none, asking := [], reqs := [], reached := [], ceCount := 0, ceOut := [],
    ceDone := [], ceErr := 0, ceErrCmd := 0, ctl := [], saving := none, endChunk := false,
    stepping := false, stepAsked := false, stepKind := 0, stepVal := 0, killing := false, wounded := false, donePhase := 0,
    buffered := Vector.replicate 8 0, elem := none, popped := [], given := [], carry := none, tlbinvOut := [], retryAt := 0, tryReply := none, queueSeen := (0, 0), committed := 0, stepAt := 0 }

/-- The error words of a unit at reset: SCRUB 12 (Table 14-5). -/
def ErrWords.reset : ErrWords :=
  { scrub := 12, rptscat := false, unc := 0, rep := 0, scat := 0, filter := 0, clearedAt := none }

/-- A barrier at partition creation (R271). -/
def Barrier.reset : Barrier :=
  { phase := false, expA := 0, arrA := 0, expB := 0, arrB := 0, auto := false, st := .uninit, cause := 0 }

/-- A queue that holds nothing, with the limits given. -/
def Queue.reset (min cap : Nat) : Queue :=
  { min := min, cap := cap, head := 0, tail := 0, off := 0, elems := [], waiters := [] }

/-- The reduction server before its first round. -/
def RedState.reset : RedState :=
  { phase := .idle, taken := 0, up := none, down := none, upFailed := false, downFailed := false, off := 0, len := 0 }

/-- A core as it stands before its partition gives it a place; inboxes as Table 11-3. -/
def Core.reset : Core :=
  { gx := 0, gy := 0, sup := false, rx := 0, ry := 0, group := 0, pos := 0, dbl := false,
    shadow := false, rot := 15, rotAt := none, watchFrom := none, ranges := [], tlb := [], stash := [], refilling := false,
    barriers := [], rq := Vector.replicate 4 [], rqHead := 0, rqTail := 0, inbox := [], redIn := [],
    redHead := 0, redTail := 0, redMin := 4, redCap := 64, claims := [], rqPushed := false, done := 0, yld := 0, hlt := 0,
    trp := 0, trc := 0, redpin := 0, red := RedState.reset, disc := 0, fifo := [], running := [],
    nextCmd := 0, eTok := 0, eSn := 0, eFloor := 0, eSeq := 0, eReqs := [], eReached := [], occ := 0, changed := [],
    parked := [], swapBase := [], drained := false, basinStopped := [], moving := false, fatal := false, log := [], sending := [], replay := [], early := false,
    copyLost := 0, got := [], gave := 0, keep := 0, tmSeen := 0 }

/-- A slot at reset (R144). -/
def Slot.reset : Slot := { cells := [], kind := .n, mark := false }

/-- An operand buffer at reset (R144). -/
def Buf.reset : Buf := { rows := [], fmt := 0, mark := false }

/-- An owner that has answered nothing. -/
def OwnerData.reset : OwnerData :=
  { cache := [], locks := [], drafts := [], waiters := [], slice := { num := 0, hist := [], prep := [] } }

/-- The array and owner state of a group at reset; the last lease holder counts as seat 3 (R147). -/
def GroupData.reset : GroupData :=
  { slots := [], bufA := Buf.reset, bufB := Buf.reset, holder := none, lastSeat := 3, idleSince := 0,
    leaseLeft := 0, leaseSeq := 0, requests := [], own := OwnerData.reset, gbar := [], xchg := [] }

/-- A router entry of zeros. -/
def RouterEntry.reset : RouterEntry :=
  { ver := 0, state := 0, rx := 0, ry := 0, group := 0, dbl := 0, pos := Vector.replicate 4 0 }

/-- A group as it stands before its partition binds it. -/
def Group.reset : Group :=
  { data := GroupData.reset, arriving := [], queue := [], icache := [], tlb := [], arrayLive := true, entry := RouterEntry.reset,
    stale := [], fetching := [], rebind := none, forwarding := false, moved := false, oldWorks := true, forwardUntil := 0, boundary := none, durable := none,
    nextBoundary := 0, nextE := 0, recovery := none, held := [] }

/-- A unit at module start: SCRUB 12, WD 16 (Table 14-5), the scrub at column group (0, 0) (R354). -/
def SramUnit.reset : SramUnit := { err := ErrWords.reset, wd := 16, scrubs := 0, scrubAt := 0, flips := [], bare := [] }

/-- A link over which no flit has gone. -/
def Link.reset : Link := { waiting := [], wire := [], held := [] }

/-- A region that no partition holds: open, FMAX 1600 (R319, Table 12-1). DESIGN CHOICE: it lists no spare group and no spare position,
whose fields Table 15-8 resets at creation (log 81). -/
def Region.reset : Region :=
  { pid := none, secure := false, fmax := 1600, drift := 0, stretches := 0, stretched := false, calm := 0, phase := 0, cyc := 0, copy := 0, slack := 0,
    pulse := 0, lost := false, pool := [], asking := [], launches := [], held := [], stages := [],
    ringBase := 0, waiting := [],
    basin := { busy := false, err := 0, lcore := 0, done := 0, seqCore := none, seqNext := 0,
               target := (0, 0), started := 0 },
    recov := 0, retired := [], outGroups := [], unreach := [], spares := [], sparePos := [], rimimg := 16,
    rimImgOf := [], discard := 0, corr := 0, unc := 0, fatal := 0, cascN := 0, tlb := [], walks := [],
    live := BitVec.allOnes 36, livepos := BitVec.allOnes 180, govAt := 0 }

/-- A channel at start: open (log 20). -/
def Channel.reset : Channel :=
  { secure := false, own := OwnerData.reset, rcorr := 0, runc := 0, rlast := 0, rpass := 0, scrubAt := 0,
    corrected := [], upsets := [] }

/-- A partition number that holds no partition. -/
def Part.reset : Part :=
  { live := false, rx0 := 0, ry0 := 0, wr := 0, hr := 0, secure := false, h := 2, sup := 0, share := 8,
    t := 256, rs := 0, toks := 64, ptroot := 0, code := 0, codesz := 0, kentry := 0, sentry := 0,
    casc := 0, ival := 8, exp := [], dmod := 0, dmask := 0, dpeer := 0, agreed := false, b := 8,
    exceed := false, n := 0, measure := 0, cascLog := [], preempt := none, ckArea := 0, cyc0 := [] }

/-- A host queue that the host has not set up (log 20). -/
def HostQueue.reset : HostQueue :=
  { base := 0, size := 16, head := 0, ring := 0, status := 0, world := none, tok := 0, sn := 0, floor := 0,
    run := none, reqs := [], reached := [], raised := 0 }

/-- The controller before start-up (log 20). -/
def Igfel.reset : Igfel :=
  { mailbox := 0, refusal := none, started := false, log := [], report := [], mailRaised := 0, reportRaised := 0 }

/-- The module right after reset: no partition exists, nothing is listed in memory, nothing is caused. DESIGN CHOICE (log 1): the module is of yield grade A; R17 sells both grades. -/
def State.reset : State :=
  { grade := .a, fused := [], mem := [], poison := [], deferMarks := [], strands := [], cores := [], groups := [],
    regions := [], channels := [], units := [], links := [], parts := [], saved := [], queues := [], igfel := Igfel.reset,
    outbox := [], answers := [], agenda := [], now := 0, steps := 0, fresh := 0, cur := 0, word := 0, second := false,
    held := false }

end Sys2Proof.Machine
end

