-- ==== Sys2Proof/Machine/Access.lean ====
section
/-! DEFINITION. Names and places: register and latch accessors, strand, core, group and region keys, the
geometry of a partition, little-endian bytes, and the records a key selects. -/

namespace Sys2Proof.Machine

/-! ## Bytes and words -/

/-- The `n` low bytes of `v`, least significant first (R37, R183). -/
def leBytes : Nat → Nat → List Byte
  | 0, _ => []
  | n + 1, v => BitVec.ofNat 8 v :: leBytes n (v / 256)

/-- The number whose little-endian bytes these are. -/
def ofLE : List Byte → Nat
  | [] => 0
  | b :: r => b.toNat + 256 * ofLE r

/-- Byte `i` of a list of bytes; zero past its end. -/
def byteAt (l : List Byte) (i : Nat) : Byte := l.getD i 0

/-- The little-endian field of `n` bytes from byte `i` on. -/
def fieldAt (l : List Byte) (i n : Nat) : Nat := ofLE ((l.drop i).take n)

/-- Bits [hi:lo] of a 64-bit value as a number. -/
def bitsAt (w : BitVec 64) (hi lo : Nat) : Nat := (w.toNat / 2 ^ lo) % 2 ^ (hi + 1 - lo)

/-- Round `n` up to a multiple of `m`, in units of `m`. -/
def ceilDiv (n m : Nat) : Nat := (n + m - 1) / m

/-! ## 80-bit values (R13) -/

/-- `Val(g)`. -/
def valOf (v : Reg80) : BitVec 64 := v.extractLsb' 0 64
/-- `Tag(g)`. -/
def tagOf (v : Reg80) : BitVec 16 := v.extractLsb' 64 16
/-- `Make(t, v)`. -/
def make (t : BitVec 16) (v : BitVec 64) : Reg80 := t ++ v
/-- `Make(0x0000, v)` with a mark. -/
def mk0 (v : BitVec 64) (p : Bool) : Reg := { v := make 0 v, p := p }
/-- `Val` of a register. -/
def Reg.val (r : Reg) : BitVec 64 := valOf r.v
/-- `Tag` of a register. -/
def Reg.tag (r : Reg) : BitVec 16 := tagOf r.v

/-! ## Latches and units -/

/-- The place of a latch in the order of Table 13-7. -/
def Latch.idx : Latch → Fin 28
  | .iaO => 0 | .iaR => 1 | .ibO => 2 | .ibR => 3 | .faO => 4 | .faR => 5 | .lsW => 6 | .lsX => 7
  | .lsY => 8 | .lsZ => 9 | .lsD => 10 | .vxS => 11 | .mxA => 12 | .mxB => 13 | .atO => 14 | .atR => 15
  | .ceS => 16 | .ceD => 17 | .ceN => 18 | .ceB => 19 | .ceM => 20 | .sqD => 21 | .sqH => 22 | .sqR => 23
  | .syA => 24 | .syB => 25 | .syL => 26 | .syR => 27

/-- The content of a latch. -/
def Ctx.latch (c : Ctx) (l : Latch) : Reg := c.lat[l.idx]
/-- Write a latch. -/
def Ctx.setLatch (c : Ctx) (l : Latch) (r : Reg) : Ctx :=
  { c with lat := c.lat.set l.idx r, stale := c.stale &&& ~~~ BitVec.ofNat 28 (2 ^ l.idx.val) }
/-- The content of a general register. -/
def Ctx.greg (c : Ctx) (n : Fin 24) : Reg := c.g[n]
/-- Write a general register. -/
def Ctx.setG (c : Ctx) (n : Fin 24) (r : Reg) : Ctx := { c with g := c.g.set n r }
/-- Predicate `n`; p0 reads as 1 (R29). -/
def Ctx.pred (c : Ctx) (n : Nat) : Bool := if n = 0 then true else c.pw.getLsbD n
/-- Write `pw`: p0 ignores writes (R29, R44). -/
def Ctx.setPw (c : Ctx) (w : BitVec 32) : Ctx := { c with pw := w ||| 1 }
/-- Write one predicate; p0 ignores writes. -/
def Ctx.setPred (c : Ctx) (n : Nat) (b : Bool) : Ctx :=
  if n = 0 then c
  else if b then { c with pw := c.pw ||| BitVec.ofNat 32 (2 ^ n) }
  else { c with pw := c.pw &&& ~~~ (BitVec.ofNat 32 (2 ^ n)) }

/-- The result lane of a load (Table 7-4). -/
def laneLatch (l : Fin 4) : Latch :=
  match l with
  | 0 => .lsW
  | 1 => .lsX
  | 2 => .lsY
  | 3 => .lsZ

/-! ## Keys -/

/-- The core of a strand. -/
def ckOf (sid : Nat) : Nat := sid / 16
/-- The strand's number within its core. -/
def strandNo (sid : Nat) : Nat := sid % 16
/-- The key of strand `n` of core `ck`. -/
def sidOf (ck n : Nat) : Nat := ck * 16 + n
/-- The partition of a core. -/
def pidOf (ck : Nat) : Nat := ck / 2 ^ 24
/-- The logical core number (R5). -/
def lcoreOf (ck : Nat) : Nat := ck % 2 ^ 24
/-- The key of a logical core of a partition. -/
def ckAt (pid lcore : Nat) : Nat := pid * 2 ^ 24 + lcore
/-- The logical group of a core. -/
def gkOf (ck : Nat) : Nat := ck / 4
/-- The seat of a core. -/
def seatOf (ck : Nat) : Nat := ck % 4
/-- The partition of a logical group. -/
def pidOfG (gk : Nat) : Nat := gk / 2 ^ 22

/-! ## Records -/

/-- The record of a strand. -/
def State.strand (s : State) (sid : Nat) : Strand := s.strands.getD sid Strand.reset
/-- The record of a core. -/
def State.core (s : State) (ck : Nat) : Core := s.cores.getD ck Core.reset
/-- The record of a group. -/
def State.group (s : State) (gk : Nat) : Group := s.groups.getD gk Group.reset
/-- The record of a region, by its index ry × 12 + rx. -/
def State.region (s : State) (rk : Nat) : Region := s.regions.getD rk Region.reset
/-- The record of a channel. -/
def State.channel (s : State) (c : Nat) : Channel := s.channels.getD c Channel.reset
/-- The record of a partition. -/
def State.part (s : State) (pid : Nat) : Part := s.parts.getD pid Part.reset
/-- A unit with coded arrays, by its key: physical cores first. -/
def State.unit (s : State) (u : Nat) : SramUnit := s.units.getD u SramUnit.reset
/-- The record of a host queue. -/
def State.hostq (s : State) (q : Nat) : HostQueue := s.queues.getD q HostQueue.reset

/-- Replace the record of a strand. -/
def State.setStrand (s : State) (sid : Nat) (x : Strand) : State := { s with strands := s.strands.put sid x }
/-- Replace the record of a core. -/
def State.setCore (s : State) (ck : Nat) (x : Core) : State := { s with cores := s.cores.put ck x }
/-- Replace the record of a group. -/
def State.setGroup (s : State) (gk : Nat) (x : Group) : State := { s with groups := s.groups.put gk x }
/-- Replace the record of a region. -/
def State.setRegion (s : State) (rk : Nat) (x : Region) : State := { s with regions := s.regions.put rk x }
/-- Replace the record of a channel. -/
def State.setChannel (s : State) (c : Nat) (x : Channel) : State := { s with channels := s.channels.put c x }
/-- Replace the record of a partition. -/
def State.setPart (s : State) (p : Nat) (x : Part) : State := { s with parts := s.parts.put p x }
/-- Change a unit with coded arrays. -/
def State.updUnit (s : State) (u : Nat) (f : SramUnit → SramUnit) : State := { s with units := s.units.put u (f (s.unit u)) }
/-- Replace the record of a host queue. -/
def State.setHostq (s : State) (q : Nat) (x : HostQueue) : State := { s with queues := s.queues.put q x }

/-- Change the record of a strand. -/
def State.updStrand (s : State) (sid : Nat) (f : Strand → Strand) : State := s.setStrand sid (f (s.strand sid))
/-- Change the record of a core. -/
def State.updCore (s : State) (ck : Nat) (f : Core → Core) : State := s.setCore ck (f (s.core ck))
/-- Change the record of a group. -/
def State.updGroup (s : State) (gk : Nat) (f : Group → Group) : State := s.setGroup gk (f (s.group gk))
/-- Change the checkpointed data of a group. -/
def State.updData (s : State) (gk : Nat) (f : GroupData → GroupData) : State :=
  s.updGroup gk fun g => { g with data := f g.data }
/-- Change the record of a region. -/
def State.updRegion (s : State) (rk : Nat) (f : Region → Region) : State := s.setRegion rk (f (s.region rk))
/-- Change the record of a channel. -/
def State.updChannel (s : State) (c : Nat) (f : Channel → Channel) : State := s.setChannel c (f (s.channel c))
/-- Change the record of a partition. -/
def State.updPart (s : State) (p : Nat) (f : Part → Part) : State := s.setPart p (f (s.part p))
/-- Change the record of a host queue. -/
def State.updHostq (s : State) (q : Nat) (f : HostQueue → HostQueue) : State := s.setHostq q (f (s.hostq q))

/-- Add what has been caused. -/
def State.push (s : State) (e : Instr) : State := { s with agenda := s.agenda ++ [e] }
/-- Add what has been caused, once. -/
def State.pushOnce (s : State) (e : Instr) : State := if e ∈ s.agenda then s else s.push e
/-- The number of the next free value, which is used up. -/
def State.bump (s : State) : State := { s with fresh := s.fresh + 1 }

/-- The strand whose word is being executed. -/
def State.me (s : State) : Strand := s.strand s.cur
/-- Change the strand whose word is being executed. -/
def State.updMe (s : State) (f : Strand → Strand) : State := s.updStrand s.cur f
/-- Change that strand's context. -/
def State.updCtx (s : State) (f : Ctx → Ctx) : State := s.updMe fun x => { x with ctx := f x.ctx }
/-- The core of the strand whose word is being executed. -/
def State.myCk (s : State) : Nat := ckOf s.cur
/-- The context of the strand whose word is being executed. -/
def State.ctx (s : State) : Ctx := s.me.ctx

/-! ## Geometry (R5, R17, R18) -/

/-- Width W of a region in logical groups (Table 1-3). -/
def Grade.width : Grade → Nat
  | .a => 8
  | .b => 7
/-- Logical cores of a region: Cr (R180). -/
def Grade.cr (g : Grade) : Nat := 16 * g.width
/-- Live groups that Table 1-3 guarantees in each region. -/
def Grade.guaranteed : Grade → Nat
  | .a => 34
  | .b => 30

/-- The partition of a core. -/
def State.partOf (s : State) (ck : Nat) : Part := s.part (pidOf ck)
/-- Logical columns of a partition, in groups. -/
def State.cols (s : State) (pid : Nat) : Nat := (s.part pid).wr * s.grade.width
/-- Low corner of a partition in logical groups. -/
def State.gx0 (s : State) (pid : Nat) : Nat := (s.part pid).rx0 * s.grade.width
/-- Low corner of a partition in logical groups. -/
def State.gy0 (s : State) (pid : Nat) : Nat := (s.part pid).ry0 * 4
/-- The logical core at (gx, gy, seat), numbered in partition order (R5), if the partition holds it. -/
def State.coreAt (s : State) (pid gx gy seat : Nat) : Option Nat :=
  let p := s.part pid
  if s.gx0 pid ≤ gx ∧ gx < s.gx0 pid + s.cols pid ∧ s.gy0 pid ≤ gy ∧ gy < s.gy0 pid + 4 * p.hr ∧ seat < 4 then
    some (ckAt pid (((gy - s.gy0 pid) * s.cols pid + (gx - s.gx0 pid)) * 4 + seat))
  else none
/-- Logical coordinate gx of a core. -/
def State.gxOf (s : State) (ck : Nat) : Nat := s.gx0 (pidOf ck) + (lcoreOf ck / 4) % s.cols (pidOf ck)
/-- Logical coordinate gy of a core. -/
def State.gyOf (s : State) (ck : Nat) : Nat := s.gy0 (pidOf ck) + (lcoreOf ck / 4) / s.cols (pidOf ck)
/-- The region index ry × 12 + rx of a core. -/
def State.rkOf (s : State) (ck : Nat) : Nat := (s.gyOf ck / 4) * 12 + s.gxOf ck / s.grade.width
/-- The region index of a logical group. -/
def State.rkOfG (s : State) (gk : Nat) : Nat := s.rkOf (gk * 4)

/-! ## The way of a message (R23, R310, R379) -/

/-- The core of a requester, if it is one. -/
def originCore (o : Origin) : Option Nat :=
  match o with
  | .strand sid => some (ckOf sid)
  | .engine ck => some ck
  | .host _ => none

/-- Where the origin of a request is: a region, or a rim command processor. -/
def State.originPlace (s : State) (o : Origin) : Nat :=
  match o with
  | .strand sid => s.rkOf (ckOf sid)
  | .engine ck => s.rkOf ck
  | .host q => 200 + q
/-- Where an owner is: a region, a rim channel, or the Valsen port to its module. -/
def State.ownerPlace (s : State) (w : Owner) : Nat :=
  match w with
  | .group gk => s.rkOfG gk
  | .channel c => 144 + c
  | .module m => 168 + (Config.valsenPort m).val
/-- The live groups of every region. -/
def State.liveGroups (s : State) : List (BitVec 36) := (List.range 144).map fun rk => (s.region rk).live
/-- The links at region boundaries that lie between two places: none within a region. The spec gives no route (log 63). -/
def State.crossings (s : State) (a b : Nat) : List Nat := if a = b then [] else Config.route s.liveGroups a b
/-- A link that no flit waits at, or uses, reads as empty. -/
def State.link (s : State) (n : Nat) : Link := s.links.getD n Link.reset
/-- The cycle of the region that receives over a link; links are numbered (sender × 144 + receiver) × 12 + plane × 6 + lane. -/
def State.linkCycle (s : State) (n : Nat) : Nat := (s.region (n / 12 % 144)).cyc
/-- The flits of a message of `n` bytes: 128 bytes of payload each, and one where it has none (R23). -/
def flitsOf (n since : Nat) (e : Instr) (rest : List Nat) : List Flit :=
  List.replicate ((n + 127) / 128 - 1) { msg := e, bytes := n, last := false, onward := rest, since := since } ++
    [{ msg := e, bytes := n, last := true, onward := rest, since := since }]
/-- A message enters the next link of its way, or arrives where none is left. -/
def State.enter (s : State) (way : List Nat) (n : Nat) (e : Instr) : State :=
  match way with
  | [] => s.push e
  | k :: rest =>
    let l := s.link k
    ({ s with links := s.links.put k { l with waiting := l.waiting ++ flitsOf n 0 e rest } } : State).pushOnce (.boundaryFlitCrossing k)
/-- The bytes a request carries. -/
def opBytes (op : RemoteOp) : Nat :=
  match op with
  | .deliver d => d.data.length
  | .spawn h _ => h.length
  | .inbox _ d _ => 4 * d.length
  | .down _ d _ _ _ => 4 * d.length
  | .repl _ st => st.data.length
  | .module acc => match acc.write with
    | some d => d.length
    | none => 0
  | _ => 16
/-- The plane of a request: engine bytes are on the data plane, all else on the request plane (R249). -/
def opPlane (op : RemoteOp) : Nat :=
  match op with
  | .deliver _ => 1
  | _ => 0
/-- The way on a plane: the same links, each of that plane. -/
def onPlane (p : Nat) (way : List Nat) : List Nat := way.map fun k => k / 12 * 12 + p * 6 + k % 6
/-- A request sets out to its owner, as the event of its arrival. -/
def State.sendMsg (s : State) (m : Msg) (e : Instr) : State :=
  s.enter (onPlane (opPlane m.op) (s.crossings (s.originPlace m.origin) (s.ownerPlace m.owner))) (opBytes m.op) e
/-- The answer to a request sets out to its origin. -/
def State.sendReply (s : State) (m : Msg) (n : Nat) (e : Instr) : State :=
  s.enter (onPlane (opPlane m.op) (s.crossings (s.ownerPlace m.owner) (s.originPlace m.origin))) n e
/-- What has been caused and has not happened, the messages that are crossing region boundaries among it. -/
def State.inFlight (s : State) : List Instr :=
  s.agenda ++ s.links.flatMap fun q => ((q.2.held ++ q.2.wire ++ q.2.waiting).filter Flit.last).map Flit.msg
/-- Of what has been caused, and of the messages on their way, only what meets `p` goes on. -/
def State.keepEvents (s : State) (p : Instr → Bool) : State :=
  let f := fun (l : List Flit) => l.filter fun x => p x.msg
  { s with agenda := s.agenda.filter p,
           links := s.links.mapAll fun _ l => { waiting := f l.waiting, wire := f l.wire, held := f l.held } }
/-- The region-local logical core index, in the order of R5 (R180, R324). -/
def State.localIndex (s : State) (ck : Nat) : Nat :=
  ((s.gyOf ck % 4) * s.grade.width + s.gxOf ck % s.grade.width) * 4 + seatOf ck
/-- The core with a region-local logical index. -/
def State.coreOfIndex (s : State) (pid rk i : Nat) : Option Nat :=
  s.coreAt pid ((rk % 12) * s.grade.width + (i / 4) % s.grade.width) ((rk / 12) * 4 + (i / 4) / s.grade.width) (i % 4)
/-- The region indices of a partition. -/
def State.partRegions (s : State) (pid : Nat) : List Nat :=
  let p := s.part pid
  (List.range p.hr).flatMap fun j => (List.range p.wr).map fun i => (p.ry0 + j) * 12 + p.rx0 + i
/-- The supervisor core of a region of a partition (R321). -/
def State.supCore (s : State) (pid rk : Nat) : Nat := (s.coreOfIndex pid rk (s.part pid).sup).getD (ckAt pid 0)
/-- The cores of a partition. -/
def State.partCores (s : State) (pid : Nat) : List Nat := s.cores.keysIn (ckAt pid 0) (ckAt (pid + 1) 0)
/-- The groups of a partition. -/
def State.partGroups (s : State) (pid : Nat) : List Nat := s.groups.keysIn (pid * 2 ^ 22) ((pid + 1) * 2 ^ 22)
/-- The strands of a core that exist. -/
def coreStrands (ck : Nat) : List Nat := (List.range 16).map (sidOf ck)
/-- The seats of a logical group. -/
def groupCores (gk : Nat) : List Nat := (List.range 4).map (gk * 4 + ·)
/-- Region cycles where a core sits, since the module started (R4). -/
def State.cyc (s : State) (ck : Nat) : Nat := (s.region (s.rkOf ck)).cyc

/-- The number of a physical core: (region × 36 + group) × 8 + position. -/
def physCore (rk g pos : Nat) : Nat := (rk * 36 + g) * 8 + pos
/-- The number of the physical core on which a logical core is seated. -/
def Core.physPlace (c : Core) : Nat := physCore (c.ry * 12 + c.rx) c.group c.pos
/-- The live positions of a physical group of a region. -/
def Region.groupLive (r : Region) (g : Nat) : Nat := (r.livepos.toNat / 2 ^ (5 * g)) % 32
/-- The key of a unit: physical cores first, then physical groups. -/
def unitKey (u : ErrUnit) : Nat :=
  match u with
  | .core p => p
  | .group p => 2 ^ 20 + p

/-- The unit with a key. -/
def unitOfKey (k : Nat) : ErrUnit := if k < 2 ^ 20 then .core k else .group (k - 2 ^ 20)

/-- The key of a group in the order of prepares (R202). -/
def State.groupKey (s : State) (gk : Nat) : Nat :=
  let e := (s.group gk).entry
  (e.ry * 12 + e.rx) * 36 + e.group
/-- The logical group of a partition that is bound to the physical group with this key. -/
def State.groupOfKey (s : State) (pid key : Nat) : Option Nat :=
  (s.partGroups pid).find? fun gk => s.groupKey gk = key

/-! ## Modes (R321) -/

/-- The privilege modes. -/
inductive Mode where
  | user | kernel | supervisor
  deriving DecidableEq, Repr

/-- The mode of a strand is fixed by its place. -/
def State.mode (s : State) (sid : Nat) : Mode :=
  if (s.core (ckOf sid)).sup then .supervisor else if strandNo sid = 0 then .kernel else .user

/-- The code of a mode in `strid` and in packets (Tables 13-2, 13-5). -/
def Mode.code : Mode → Nat
  | .user => 0
  | .kernel => 1
  | .supervisor => 2

/-- The code of a strand state (R331). -/
def SState.code : SState → Nat
  | .idle => 0 | .ready => 1 | .stalledLA => 2 | .stalledStream => 3 | .waitMonitor => 4
  | .waitBarrier => 5 | .waitQueue => 6 | .waitLease => 7 | .waitSet => 8 | .slip => 9
  | .stopped => 10 | .frozen => 11

/-- The strand state of a code (R331). -/
def SState.ofCode : Nat → Option SState
  | 0 => some .idle | 1 => some .ready | 2 => some .stalledLA | 3 => some .stalledStream
  | 4 => some .waitMonitor | 5 => some .waitBarrier | 6 => some .waitQueue | 7 => some .waitLease
  | 8 => some .waitSet | 9 => some .slip | 10 => some .stopped | 11 => some .frozen
  | _ => none

/-- The size S of the global share in bytes (R170). -/
def Part.shareBytes (p : Part) : Nat := p.share * 65536
/-- The size RS of the replicated pages in bytes (R180). -/
def Part.rsBytes (p : Part) : Nat := p.rs * 65536
/-- The size A of the replicated area in bytes (R180). -/
def State.repArea (s : State) (pid : Nat) : Nat := 128 * ceilDiv (s.part pid).rsBytes (128 * s.grade.cr)
/-- The end of the private part of a local store (R170). -/
def State.privEnd (s : State) (pid : Nat) : Nat := 2 ^ 20 - (s.part pid).shareBytes - s.repArea pid
/-- Whether a local offset lies in an explicitly exported span (R170). -/
def Part.inExp (p : Part) (off : Nat) : Bool := p.exp.any fun e => decide (e.1 ≤ off) && decide (off < e.1 + e.2)
/-- Whether a local offset is exported (R170). -/
def State.exported (s : State) (pid off : Nat) : Bool :=
  decide (s.privEnd pid ≤ off) || (s.part pid).inExp off
/-- Whether `n` bytes at a local offset lie in the private part and outside every exported span (R170). -/
def State.privRange (s : State) (pid off n : Nat) : Bool :=
  decide (off + n ≤ s.privEnd pid) &&
    (s.part pid).exp.all fun e => decide (e.2 = 0) || decide (off + n ≤ e.1) || decide (e.1 + e.2 ≤ off)

/-- `F(x)` (R13). -/
def hashF (n x : Nat) : Nat := ((x * 2654435761) % 2 ^ 32) % n
/-- `Owner(L)` (R13): the logical core that owns global line L, of N. -/
def ownerOf (n l : Nat) : Nat := (l + hashF n (l / n)) % n
/-- `Slot(L)` (R13). -/
def slotOf (n l : Nat) : Nat := l / n

/-! ## Flat places of memory -/

/-- The flat address of a byte of a core's local store. -/
def localFlat (ck off : Nat) : Nat := ck * 2 ^ 20 + off
/-- The flat address of a byte of rim memory (R175). -/
def rimFlat (pa : Nat) : Nat := 2 ^ 52 + pa
/-- The flat address of a byte of the image that a core's buddy, or a rim image, holds (R370). -/
def imageFlat (ck off : Nat) : Nat := 2 ^ 54 + ck * 2 ^ 20 + off
/-- The flat address of a byte of host memory (R341). -/
def hostFlat (a : Nat) : Nat := 2 ^ 66 + a
/-- Where physical rim memory ends: 1,536 GiB (R175). -/
def rimLimit : Nat := 1536 * 2 ^ 30
/-- Whether a flat address lies in a local store. -/
def isLocalFlat (a : Nat) : Bool := decide (a < 2 ^ 52)
/-- The core whose local store holds a flat address. -/
def ckOfFlat (a : Nat) : Nat := a / 2 ^ 20
/-- The channel that holds a flat rim address (R175). -/
def channelOfFlat (a : Nat) : Nat := (a - 2 ^ 52) / 2 ^ 36
/-- The owner of the line at a flat address (R201, R225). -/
def ownerOfFlat (a : Nat) : Owner := if isLocalFlat a then .group (gkOf (ckOfFlat a)) else .channel (channelOfFlat a)
/-- A number for an owner, for tables keyed by owner. -/
def ownerRef : Owner → Nat
  | .group gk => gk
  | .channel c => 2 ^ 40 + c
  | .module m => 2 ^ 41 + m
/-- The owner of such a number. -/
def ownerOfRef (n : Nat) : Owner :=
  if n < 2 ^ 40 then .group n else if n < 2 ^ 41 then .channel (n - 2 ^ 40) else .module (n - 2 ^ 41)

/-- The data of an owner in this module. -/
def State.owner (s : State) : Owner → OwnerData
  | .group gk => (s.group gk).data.own
  | .channel c => (s.channel c).own
  | .module _ => OwnerData.reset
/-- Change the data of an owner. -/
def State.updOwner (s : State) (w : Owner) (f : OwnerData → OwnerData) : State :=
  match w with
  | .group gk => s.updData gk fun g => { g with own := f g.own }
  | .channel c => s.updChannel c fun x => { x with own := f x.own }
  | .module _ => s

/-- A slot of a group by its number. -/
def GroupData.slotAt (g : GroupData) (t : Nat) : Slot := g.slots.getD t Slot.reset

/-- Whether bytes of a local store touch the task table (R262). -/
def Part.inTable (p : Part) (off n : Nat) : Bool := decide (off < 64 * p.t) && decide (0 < n)

end Sys2Proof.Machine
end

