-- ==== Sys2Proof/Machine/Formats.lean ====
section
/-! DEFINITION. Number formats and rounding (spec/03_number_formats.md): exact dyadic values, the
floating-point formats, the six rounding modes with stochastic rounding, flags, conversions and QN4. -/

namespace Sys2Proof.Machine

/-! ## Exact values -/

/-- A signed dyadic value: (−1)^neg × m × 2^e. A zero keeps its sign (R72). -/
structure Dy where
  neg : Bool
  m : Nat
  e : Int
  deriving DecidableEq, Repr

/-- What a floating-point pattern stands for (R65, R66). -/
inductive FV where
  | nan
  | inf (neg : Bool)
  | fin (d : Dy)
  deriving DecidableEq, Repr

/-- A zero of a sign. -/
def Dy.zero (neg : Bool) : Dy := { neg := neg, m := 0, e := 0 }

/-- 2^n for n ≥ 0, and 1 below. -/
def pow2 (n : Int) : Nat := 2 ^ n.toNat

/-- The signed numerator of a value over 2^e for an e not above its own. -/
def Dy.num (d : Dy) (e : Int) : Int :=
  let n := d.m * pow2 (d.e - e)
  if d.neg then -(n : Int) else n

/-- A signed numerator over 2^e; zero is positive. -/
def dyOfInt (n : Int) (e : Int) : Dy := { neg := decide (n < 0), m := n.natAbs, e := e }

/-- The exact sum; an exact zero takes the sign R72 gives it under the mode. -/
def Dy.add (a b : Dy) (rdn : Bool) : Dy :=
  let e := min a.e b.e
  let n := a.num e + b.num e
  if n = 0 then Dy.zero (if a.m = 0 ∧ b.m = 0 ∧ a.neg = b.neg then a.neg else rdn) else dyOfInt n e

/-- The exact product. -/
def Dy.mul (a b : Dy) : Dy := { neg := xor a.neg b.neg, m := a.m * b.m, e := a.e + b.e }

/-- The opposite value. -/
def Dy.negate (a : Dy) : Dy := { a with neg := !a.neg }

/-- Whether a < b as reals (both zeros are equal). -/
def Dy.lt (a b : Dy) : Bool := let e := min a.e b.e; decide (a.num e < b.num e)
/-- Whether a = b as reals. -/
def Dy.eqv (a b : Dy) : Bool := let e := min a.e b.e; decide (a.num e = b.num e)

/-! ## Formats -/

/-- A floating-point format (Table 3-3): fraction width, exponent width, bias, whether it has infinities. -/
structure Fmt where
  w : Nat
  ew : Nat
  bias : Nat
  hasInf : Bool
  deriving DecidableEq, Repr

/-- binary32. -/
def fp32 : Fmt := { w := 23, ew := 8, bias := 127, hasInf := true }
/-- BF16. -/
def bf16 : Fmt := { w := 7, ew := 8, bias := 127, hasInf := true }
/-- E5M2. -/
def e5m2 : Fmt := { w := 2, ew := 5, bias := 15, hasInf := true }
/-- E4M3. -/
def e4m3 : Fmt := { w := 3, ew := 4, bias := 7, hasInf := false }

/-- The exponent of the smallest normal. -/
def Fmt.emin (f : Fmt) : Int := 1 - (f.bias : Int)
/-- The sign bit. -/
def Fmt.sign (f : Fmt) : Nat := 2 ^ (f.w + f.ew)
/-- The pattern of the largest finite magnitude. -/
def Fmt.maxPat (f : Fmt) : Nat := if f.hasInf then (2 ^ f.ew - 1) * 2 ^ f.w - 1 else f.sign - 2
/-- The pattern of +∞. -/
def Fmt.infPat (f : Fmt) : Nat := (2 ^ f.ew - 1) * 2 ^ f.w
/-- The canonical NaN (R66). -/
def Fmt.nanPat (f : Fmt) : Nat := if f.hasInf then f.infPat + 2 ^ (f.w - 1) else f.sign - 1
/-- A magnitude pattern with a sign. -/
def Fmt.signed (f : Fmt) (neg : Bool) (p : Nat) : Nat := if neg then p + f.sign else p

/-- The value of a pattern (Table 3-4). -/
def Fmt.decode (f : Fmt) (x : Nat) : FV :=
  let neg := decide ((x / f.sign) % 2 = 1)
  let p := x % f.sign
  let e := p / 2 ^ f.w
  let m := p % 2 ^ f.w
  if f.hasInf ∧ e = 2 ^ f.ew - 1 then (if m = 0 then .inf neg else .nan)
  else if ¬ f.hasInf ∧ p = f.sign - 1 then .nan
  else if e = 0 then .fin { neg := neg, m := m, e := f.emin - f.w }
  else .fin { neg := neg, m := m + 2 ^ f.w, e := f.emin - f.w + (e - 1 : Nat) }

/-- The value of the largest finite magnitude. -/
def Fmt.maxDy (f : Fmt) : Dy :=
  match f.decode f.maxPat with
  | .fin d => d
  | _ => Dy.zero false

/-! ## Flags (R77) -/

/-- Invalid. -/
def flNV : Nat := 16
/-- Divide-by-zero. -/
def flDZ : Nat := 8
/-- Overflow. -/
def flOF : Nat := 4
/-- Underflow. -/
def flUF : Nat := 2
/-- Inexact. -/
def flNX : Nat := 1

/-- A delivered pattern with the flags it raises. -/
structure FR where
  bits : Nat
  fl : Nat
  deriving DecidableEq, Repr

/-! ## Rounding (R72-R75) -/

/-- Whole units of 2^q of the magnitude m × 2^e after rounding, and whether anything was lost. Modes are
coded as Table 3-7; `r` is the draw of mode SR. -/
def roundUnits (mode : Nat) (neg : Bool) (r : Nat) (m : Nat) (e q : Int) : Nat × Bool :=
  if q ≤ e then (m * pow2 (e - q), false)
  else
    let sh := pow2 (q - e)
    let n := m / sh
    let rem := m % sh
    let up : Bool :=
      match mode with
      | 0 => decide (2 * rem > sh) || (decide (2 * rem = sh) && decide (n % 2 = 1))
      | 1 => false
      | 2 => neg && decide (rem ≠ 0)
      | 3 => !neg && decide (rem ≠ 0)
      | 4 => decide (2 * rem ≥ sh)
      | _ => decide (rem * 65536 + r * sh ≥ 65536 * sh)
    (if up then n + 1 else n, decide (rem ≠ 0))

/-- The result of overflow (Table 3-8). -/
def overflowPat (f : Fmt) (mode : Nat) (neg : Bool) : Nat :=
  if ¬ f.hasInf then f.signed neg f.maxPat
  else
    let toMax : Bool :=
      match mode with
      | 1 => true
      | 2 => !neg
      | 3 => neg
      | _ => false
    f.signed neg (if toMax then f.maxPat else f.infPat)

/-- Round an exact value to a format (R72-R75). DESIGN CHOICE (log 44): a tiny inexact result that rounds to zero raises NX only; R77 leaves open whether it is a flushed result. -/
def roundDy (f : Fmt) (mode r : Nat) (d : Dy) : FR :=
  if d.m = 0 then { bits := f.signed d.neg 0, fl := 0 }
  else
    let top : Int := (Nat.log2 d.m : Int) + d.e
    let q := max (top - f.w) (f.emin - f.w)
    let (n, lost) := roundUnits mode d.neg r d.m d.e q
    let mag : Dy := { neg := false, m := n, e := q }
    if f.maxDy.lt mag then { bits := overflowPat f mode d.neg, fl := flOF + flNX }
    else
      let pat := (q - (f.emin - f.w)).toNat * 2 ^ f.w + n
      { bits := f.signed d.neg pat,
        fl := (if lost then flNX else 0) + (if lost && decide (n ≠ 0) && decide (pat < 2 ^ f.w) then flUF else 0) }

/-- Round what an operation delivers; infinities and NaN pass without flags. E4M3 has no infinity: an
infinite operand becomes ±448 with NV (R75, R80). -/
def roundFV (f : Fmt) (mode r : Nat) : FV → FR
  | .nan => { bits := f.nanPat, fl := 0 }
  | .inf neg =>
    if f.hasInf then { bits := f.signed neg f.infPat, fl := 0 } else { bits := f.signed neg f.maxPat, fl := flNV }
  | .fin d => roundDy f mode r d

/-- The canonical NaN with a flag. -/
def nanWith (f : Fmt) (fl : Nat) : FR := { bits := f.nanPat, fl := fl }

/-- The generator after one draw (R73). -/
def rngNext (s : BitVec 64) : BitVec 64 :=
  let s := s ^^^ (s <<< 13)
  let s := s ^^^ (s >>> 7)
  s ^^^ (s <<< 17)

/-- The draw that a generator state, already advanced, gives (R73). -/
def rngBits (s : BitVec 64) : Nat := s.toNat / 2 ^ 48

/-! ## Arithmetic with one rounding (R103, R123, R124) -/

/-- a + b. -/
def fAdd (f : Fmt) (mode r : Nat) (a b : FV) : FR :=
  match a, b with
  | .nan, _ => nanWith f 0
  | _, .nan => nanWith f 0
  | .inf x, .inf y => if x = y then roundFV f mode r (.inf x) else nanWith f flNV
  | .inf x, _ => roundFV f mode r (.inf x)
  | _, .inf y => roundFV f mode r (.inf y)
  | .fin x, .fin y => roundDy f mode r (x.add y (decide (mode = 2)))

/-- −a. -/
def FV.negate : FV → FV
  | .nan => .nan
  | .inf x => .inf (!x)
  | .fin d => .fin d.negate

/-- The exact product, and whether it creates a NaN (0 × ∞). -/
def fvMul (a b : FV) : FV × Bool :=
  match a, b with
  | .nan, _ => (.nan, false)
  | _, .nan => (.nan, false)
  | .inf x, .inf y => (.inf (xor x y), false)
  | .inf x, .fin d => if d.m = 0 then (.nan, true) else (.inf (xor x d.neg), false)
  | .fin d, .inf y => if d.m = 0 then (.nan, true) else (.inf (xor d.neg y), false)
  | .fin x, .fin y => (.fin (x.mul y), false)

/-- a × b. -/
def fMul (f : Fmt) (mode r : Nat) (a b : FV) : FR :=
  let p := fvMul a b
  if p.2 then nanWith f flNV else roundFV f mode r p.1

/-- a × b + c, rounded once; 0 × ∞ raises NV even when c is NaN. -/
def fFma (f : Fmt) (mode r : Nat) (a b c : FV) : FR :=
  let p := fvMul a b
  if p.2 then nanWith f flNV else fAdd f mode r p.1 c

/-- A quotient or root whose value lies strictly between two neighbours of a grid far finer than any
rounding threshold is represented by their midpoint. -/
def sticky (neg : Bool) (q : Nat) (exact : Bool) (e : Int) : Dy :=
  if exact then { neg := neg, m := q, e := e } else { neg := neg, m := 2 * q + 1, e := e - 1 }

/-- a / b. -/
def fDiv (f : Fmt) (mode r : Nat) (a b : FV) : FR :=
  match a, b with
  | .nan, _ => nanWith f 0
  | _, .nan => nanWith f 0
  | .inf _, .inf _ => nanWith f flNV
  | .inf x, .fin d => roundFV f mode r (.inf (xor x d.neg))
  | .fin d, .inf y => roundDy f mode r (Dy.zero (xor d.neg y))
  | .fin x, .fin y =>
    if y.m = 0 then
      if x.m = 0 then nanWith f flNV
      else { bits := f.signed (xor x.neg y.neg) f.infPat, fl := flDZ }
    else
      let n := x.m * 2 ^ 96
      roundDy f mode r (sticky (xor x.neg y.neg) (n / y.m) (decide (n % y.m = 0)) (x.e - y.e - 96))

/-- The integer square root of `n`, built bit by bit from bit `k − 1` down. -/
def isqrtFrom (n : Nat) : Nat → Nat → Nat
  | 0, r => r
  | k + 1, r => if (r + 2 ^ k) * (r + 2 ^ k) ≤ n then isqrtFrom n k (r + 2 ^ k) else isqrtFrom n k r

/-- The integer square root. -/
def isqrt (n : Nat) : Nat := isqrtFrom n (Nat.log2 n / 2 + 1) 0

/-- √a. -/
def fSqrt (f : Fmt) (mode r : Nat) (a : FV) : FR :=
  match a with
  | .nan => nanWith f 0
  | .inf neg => if neg then nanWith f flNV else roundFV f mode r (.inf false)
  | .fin d =>
    if d.m = 0 then roundDy f mode r d
    else if d.neg then nanWith f flNV
    else
      let odd : Nat := if d.e % 2 = 0 then 0 else 1
      let n := d.m * 2 ^ odd * 2 ^ 128
      let q := isqrt n
      roundDy f mode r (sticky false q (decide (q * q = n)) ((d.e - odd) / 2 - 64))

/-- 1 / a. -/
def fRcp (f : Fmt) (mode r : Nat) (a : FV) : FR := fDiv f mode r (.fin { neg := false, m := 1, e := 0 }) a

/-- 1 / √a. -/
def fRsq (f : Fmt) (mode r : Nat) (a : FV) : FR :=
  match a with
  | .nan => nanWith f 0
  | .inf neg => if neg then nanWith f flNV else roundDy f mode r (Dy.zero false)
  | .fin d =>
    if d.m = 0 then { bits := f.signed d.neg f.infPat, fl := flDZ }
    else if d.neg then nanWith f flNV
    else
      let odd : Nat := if d.e % 2 = 0 then 0 else 1
      let m := d.m * 2 ^ odd
      let q := isqrt (2 ^ 256 / m)
      roundDy f mode r (sticky false q (decide (q * q * m = 2 ^ 256)) (-((d.e - odd) / 2) - 128))

/-- A magnitude pattern of a format with its sign cleared or inverted; a NaN becomes canonical (R104). -/
def fSignOp (f : Fmt) (invert : Bool) (x : Nat) : Nat :=
  match f.decode x with
  | .nan => f.nanPat
  | _ => if invert then (if (x / f.sign) % 2 = 1 then x % f.sign else x % f.sign + f.sign) else x % f.sign

/-- Whether a < b for min and max: −0 is less than +0 (R104). -/
def fvBelow (a b : FV) : Bool :=
  match a, b with
  | .nan, _ => false
  | _, .nan => false
  | .inf x, .inf y => x && !y
  | .inf x, .fin _ => x
  | .fin _, .inf y => !y
  | .fin x, .fin y => x.lt y || (x.eqv y && x.neg && !y.neg)

/-- The smaller or larger of two patterns, unrounded (R104). -/
def fPick (f : Fmt) (largest : Bool) (x y : Nat) : Nat :=
  match f.decode x, f.decode y with
  | .nan, .nan => f.nanPat
  | .nan, _ => y % (2 * f.sign)
  | _, .nan => x % (2 * f.sign)
  | a, b =>
    let first := if largest then !fvBelow a b else !fvBelow b a
    if first then x % (2 * f.sign) else y % (2 * f.sign)

/-- a < b as R105 has it; false with a NaN. -/
def fvLt (a b : FV) : Bool :=
  match a, b with
  | .nan, _ => false
  | _, .nan => false
  | .inf x, .inf y => x && !y
  | .inf x, .fin _ => x
  | .fin _, .inf y => !y
  | .fin x, .fin y => x.lt y

/-- a = b as R105 has it; false with a NaN. -/
def fvEq (a b : FV) : Bool :=
  match a, b with
  | .inf x, .inf y => x == y
  | .fin x, .fin y => x.eqv y
  | _, _ => false

/-- Whether a value is NaN. -/
def FV.isNan : FV → Bool
  | .nan => true
  | _ => false

/-! ## Integers and conversions (R62, R80) -/

/-- The low `w` bits read as signed or unsigned. -/
def intOf (w : Nat) (signed : Bool) (x : Nat) : Int :=
  let y := x % 2 ^ w
  if signed && decide (2 ^ (w - 1) ≤ y) then (y : Int) - (2 ^ w : Nat) else y

/-- The largest and smallest integers of a width. -/
def intMax (w : Nat) (signed : Bool) : Int := if signed then 2 ^ (w - 1) - 1 else 2 ^ w - 1
/-- The smallest integer of a width. -/
def intMin (w : Nat) (signed : Bool) : Int := if signed then -(2 ^ (w - 1)) else 0

/-- The pattern of an integer modulo 2^w. -/
def intPat (w : Nat) (n : Int) : Nat := (n % (2 ^ w : Nat)).toNat

/-- Clamp to the range of a width (R64). -/
def saturate (w : Nat) (signed : Bool) (n : Int) : Int := max (intMin w signed) (min (intMax w signed) n)

/-- An integer as an exact value. -/
def dyOfNum (n : Int) : Dy := dyOfInt n 0

/-- Float to integer (Table 3-13): the integer and the flags. -/
def fToInt (w : Nat) (signed : Bool) (mode r : Nat) : FV → Int × Nat
  | .nan => (0, flNV)
  | .inf neg => (if neg then intMin w signed else intMax w signed, flNV)
  | .fin d =>
    let (n, lost) := roundUnits mode d.neg r d.m d.e 0
    let v : Int := if d.neg then -(n : Int) else n
    if v > intMax w signed then (intMax w signed, flNV)
    else if v < intMin w signed then (intMin w signed, flNV)
    else (v, if lost then flNX else 0)

/-! ## QN4 (R68, R69) -/

/-- The BF16 pattern of a level (Table 3-6). -/
def qn4Pat (c : Nat) : Nat :=
  let mag : Nat :=
    match (if c < 8 then 7 - c else c - 8) with
    | 0 => 0x3D2C | 1 => 0x3E02 | 2 => 0x3E5D | 3 => 0x3E9F | 4 => 0x3ED5 | 5 => 0x3F0B | 6 => 0x3F35
    | _ => 0x3F80
  if c < 8 then mag + 0x8000 else mag

/-- The value of a level. -/
def qn4Level (c : Nat) : Dy :=
  match bf16.decode (qn4Pat c) with
  | .fin d => d
  | _ => Dy.zero false

/-- Twice the midpoint of levels c and c + 1. -/
def qn4Mid2 (c : Nat) : Dy := (qn4Level c).add (qn4Level (c + 1)) false

/-- The nearest code, the even one on a tie (R69). -/
def qn4Code (y : Dy) : Nat :=
  (List.range 15).foldl (fun code c =>
    let y2 : Dy := { y with e := y.e + 1 }
    if (qn4Mid2 c).lt y2 then c + 1
    else if (qn4Mid2 c).eqv y2 then (if c % 2 = 0 then code else c + 1)
    else code) 0

/-- Encode a value into QN4 with its flags (R69). -/
def qn4Encode : FV → Nat × Nat
  | .nan => (8, flNV)
  | .inf neg => (if neg then 0 else 15, flNV)
  | .fin d => let c := qn4Code d; (c, if (qn4Level c).eqv d then 0 else flNX)

/-- Whether a superscale may be used: positive, normal and finite (R71). -/
def goodSuper (x : Nat) : Bool :=
  let p := x % 2 ^ 32
  decide (2 ^ 23 ≤ p) && decide (p < 0x7F800000)

/-- The block scale RoundFP32(F × (s + 1) / 256, RNE) (R71). -/
def blockScale (x s : Nat) : FR :=
  match fp32.decode x with
  | .fin d => roundDy fp32 0 0 { neg := d.neg, m := d.m * (s + 1), e := d.e - 8 }
  | v => roundFV fp32 0 0 v

/-! ## Special functions, rounded once from the exact value (R127) -/

/-- Bits of the fixed-point grid on which the irrational values are worked out. -/
def fxBits : Nat := 320

/-- ln 2 on the grid: Σ 1 / (k 2^k). -/
def ln2Fx : Nat := (List.range 340).foldl (fun a k => a + 2 ^ fxBits / ((k + 1) * 2 ^ (k + 1))) 0

/-- e^y on the grid for y in [0, 1) on the grid, by its power series. -/
def expFx (y : Nat) : Nat :=
  ((List.range 90).foldl (fun (acc : Nat × Nat) k =>
    let t := acc.2 * y / 2 ^ fxBits / (k + 1)
    (acc.1 + t, t)) (2 ^ fxBits, 2 ^ fxBits)).1

/-- ln t on the grid for t in [1, 2] on the grid, by the series of the inverse hyperbolic tangent. -/
def lnFx (t : Nat) : Nat :=
  let one := 2 ^ fxBits
  let z := (t - one) * one / (t + one)
  let z2 := z * z / one
  2 * ((List.range 110).foldl (fun (acc : Nat × Nat) k =>
    (acc.1 + acc.2 / (2 * k + 1), acc.2 * z2 / one)) (0, z)).1

/-- 2^x for a finite x that is not an integer, or an exact power for one that is. -/
def exp2Dy (d : Dy) : Dy :=
  let one : Int := (2 ^ fxBits : Nat)
  let n : Int := d.num (-(fxBits : Int))
  let k := n / one
  let f := (n % one).toNat
  if f = 0 then { neg := false, m := 1, e := k }
  else { neg := false, m := expFx (f * ln2Fx / 2 ^ fxBits), e := k - fxBits }

/-- vx.exp2. -/
def fExp2 (f : Fmt) (mode r : Nat) : FV → FR
  | .nan => nanWith f 0
  | .inf neg => if neg then roundDy f mode r (Dy.zero false) else roundFV f mode r (.inf false)
  | .fin d =>
    if d.m = 0 then roundDy f mode r { neg := false, m := 1, e := 0 }
    else if (Dy.mk false 1 10).lt { d with neg := false } then
      roundDy f mode r { neg := false, m := 3, e := if d.neg then -400 else 400 }
    else roundDy f mode r (exp2Dy d)

/-- log2 of a positive finite value. -/
def log2Dy (d : Dy) : Dy :=
  let l := Nat.log2 d.m
  let k : Int := (l : Int) + d.e
  if d.m = 2 ^ l then dyOfNum k
  else
    let t := d.m * 2 ^ fxBits / 2 ^ l
    let frac := lnFx t * 2 ^ fxBits / ln2Fx
    dyOfInt (k * (2 ^ fxBits : Nat) + frac) (-(fxBits : Int))

/-- vx.log2. -/
def fLog2 (f : Fmt) (mode r : Nat) : FV → FR
  | .nan => nanWith f 0
  | .inf neg => if neg then nanWith f flNV else roundFV f mode r (.inf false)
  | .fin d =>
    if d.m = 0 then { bits := f.signed true f.infPat, fl := flDZ }
    else if d.neg then nanWith f flNV
    else roundDy f mode r (log2Dy d)

/-- tanh of a finite value that is not zero. Below 2^−30 the value lies just below x, and above 64 just
below 1; both are given by a value in the same place between rounding thresholds. -/
def tanhDy (d : Dy) : Dy :=
  let a : Dy := { d with neg := false }
  if a.lt (Dy.mk false 1 (-30)) then { neg := d.neg, m := d.m * (2 ^ 80 - 1), e := d.e - 80 }
  else if (Dy.mk false 1 6).lt a then { neg := d.neg, m := 2 ^ 90 - 1, e := -90 }
  else
    let x := (a.num (-(fxBits : Int))).toNat
    let y := 2 * x * 2 ^ fxBits / ln2Fx
    let k := y / 2 ^ fxBits
    let ex := expFx (y % 2 ^ fxBits * ln2Fx / 2 ^ fxBits) * 2 ^ k
    let one := 2 ^ fxBits
    { neg := d.neg, m := (ex - one) * one / (ex + one), e := -(fxBits : Int) }

/-- vx.tanh. -/
def fTanh (f : Fmt) (mode r : Nat) : FV → FR
  | .nan => nanWith f 0
  | .inf neg => roundDy f mode r { neg := neg, m := 1, e := 0 }
  | .fin d => if d.m = 0 then roundDy f mode r d else roundDy f mode r (tanhDy d)

end Sys2Proof.Machine
end

