-- ==== Sys2Proof/Machine/Array.lean ====
section
/-! DEFINITION. What the matrix array computes (spec/06_matrix_instructions.md): operand elements, exact chunk
sums, products with their checksums, narrowing for `chain`, and the check of a slot. -/

namespace Sys2Proof.Machine

/-! ## Operand buffers (R146) -/

/-- Bits of an element of a buffer format (Table 6-2). -/
def bufWidth (f : Fin 6) : Nat :=
  match f.val with
  | 0 => 16
  | 1 | 2 | 3 => 8
  | 4 => 32
  | _ => 4

/-- Element `k` of a row. -/
def rowElem (r : BitVec 1024) (f : Fin 6) (k : Nat) : Nat := (r.toNat >>> (bufWidth f * k)) % 2 ^ bufWidth f

/-- Row `r` of a buffer. -/
def Buf.row (b : Buf) (r : Nat) : BitVec 1024 := b.rows.getD r 0

/-- A pattern of binary32 with a subnormal replaced by a zero of its sign (R67). -/
def flush32 (x : Nat) : Nat := if (x / 2 ^ 23) % 256 = 0 then x / 2 ^ 31 * 2 ^ 31 else x

/-- A value with a subnormal of its format replaced by a zero of its sign (R67). -/
def flushPat (f : Fmt) (x : Nat) : Nat := if (x / 2 ^ f.w) % 2 ^ f.ew = 0 then x / f.sign * f.sign else x

/-- The value of an operand element after flushing (R156). -/
def operand (f : Fin 6) (x : Nat) : FV :=
  match f.val with
  | 0 => bf16.decode (flushPat bf16 x)
  | 1 => e4m3.decode (flushPat e4m3 x)
  | 2 => e5m2.decode (flushPat e5m2 x)
  | 4 => fp32.decode (flushPat fp32 x)
  | _ => .fin (qn4Level x)

/-! ## Exact sums (R81) -/

/-- The exact sum of some values; a sum of zero is −0 only when every term is −0. -/
def exactSum (l : List FV) : FV :=
  if l.any FV.isNan then .nan
  else
    let pos := l.any fun v => match v with | .inf n => !n | _ => false
    let neg := l.any fun v => match v with | .inf n => n | _ => false
    if pos && neg then .nan
    else if pos then .inf false
    else if neg then .inf true
    else
      let ds := l.filterMap fun v => match v with | .fin d => some d | _ => none
      let e := ds.foldl (fun m (d : Dy) => min m d.e) 0
      let n := ds.foldl (fun a (d : Dy) => a + d.num e) 0
      if n = 0 then .fin (Dy.zero (ds.all fun d => d.neg && decide (d.m = 0) && !ds.isEmpty)) else .fin (dyOfInt n e)

/-- A value rounded to binary32 under RNE. -/
def round32 (v : FV) : Nat := (roundFV fp32 0 0 v).bits

/-- One chunk of an accumulation: the exact chunk sum, rounded and flushed, added to the accumulator. -/
def chunkStep (acc : Nat) (ps : List FV) : Nat :=
  flush32 (fAdd fp32 0 0 (fp32.decode (flush32 (round32 (exactSum ps)))) (fp32.decode acc)).bits

/-- The accumulation of K products in chunks of C (R81). -/
def accumulate (acc : Nat) (k c : Nat) (a b : Nat → FV) : Nat :=
  (List.range (k / c)).foldl (fun acc n => chunkStep acc ((List.range c).map fun i => (fvMul (a (n * c + i)) (b (n * c + i))).1)) acc

/-- An exact INT32 accumulation, wrapping. -/
def accumulateInt (acc : Nat) (k : Nat) (a b : Nat → Int) : Nat :=
  intPat 32 ((List.range k).foldl (fun s i => s + a i * b i) (acc : Int))

/-! ## Shapes (Table 6-6) -/

/-- A row of Table 6-6; `a` is none for a chain. -/
structure Shape where
  a : Option (Fin 6)
  narrow : Fin 6
  b : Fin 6
  m : Nat
  k : Nat
  c : Nat
  int : Bool
  aw : Nat
  bw : Nat
  deriving DecidableEq, Repr

/-- The shape of a product command, DP 0x0D to 0x18. -/
def shapeOf (i : Fin 12) : Shape :=
  match i.val with
  | 0 => { a := some 0, narrow := 0, b := 0, m := 64, k := 32, c := 8, int := false, aw := 2, bw := 2 }
  | 1 => { a := some 0, narrow := 0, b := 0, m := 32, k := 32, c := 8, int := false, aw := 2, bw := 2 }
  | 2 => { a := some 0, narrow := 0, b := 0, m := 16, k := 32, c := 8, int := false, aw := 2, bw := 2 }
  | 3 => { a := some 1, narrow := 1, b := 1, m := 64, k := 64, c := 16, int := false, aw := 2, bw := 2 }
  | 4 => { a := some 2, narrow := 2, b := 2, m := 64, k := 64, c := 16, int := false, aw := 2, bw := 2 }
  | 5 => { a := some 1, narrow := 1, b := 2, m := 64, k := 64, c := 16, int := false, aw := 2, bw := 2 }
  | 6 => { a := some 3, narrow := 3, b := 3, m := 64, k := 64, c := 16, int := true, aw := 2, bw := 2 }
  | 7 => { a := some 0, narrow := 0, b := 5, m := 64, k := 64, c := 8, int := false, aw := 1, bw := 4 }
  | 8 => { a := some 0, narrow := 0, b := 5, m := 16, k := 64, c := 8, int := false, aw := 1, bw := 4 }
  | 9 => { a := some 4, narrow := 4, b := 4, m := 64, k := 8, c := 8, int := false, aw := 4, bw := 4 }
  | 10 => { a := none, narrow := 0, b := 0, m := 64, k := 32, c := 8, int := false, aw := 2, bw := 2 }
  | _ => { a := none, narrow := 1, b := 1, m := 64, k := 64, c := 16, int := false, aw := 1, bw := 2 }

/-- The kind that a shape gives its slot. -/
def Shape.kind (p : Shape) : SlotKind := if p.int then .i else .f

/-! ## Slots (R144) -/

/-- Cell (i, j) of a slot. -/
def Slot.cell (t : Slot) (i j : Nat) : Nat := (t.cells.getD (65 * i + j) 0).toNat

/-- A store with a cell that is zero left out. -/
def putCell (c : Store (BitVec 32)) (k : Nat) (w : BitVec 32) : Store (BitVec 32) := if w = 0 then Store.del c k else Store.put c k w

/-- Write a cell. -/
def Slot.setCell (t : Slot) (i j : Nat) (x : Nat) : Slot := { t with cells := putCell t.cells (65 * i + j) (BitVec.ofNat 32 x) }

/-! ## Products (R156-R158) -/

/-- Element k of A row i: from the A buffer, or from a source slot narrowed (R158). -/
def productA (p : Shape) (ab : Buf) (src : Slot) (aw i k : Nat) : Nat :=
  match p.a with
  | some f => rowElem (ab.row i) f (aw * p.k + k)
  | none =>
    let x := fp32.decode (src.cell i (if p.narrow = 0 then 32 * aw + k else k))
    (roundFV (if p.narrow = 0 then bf16 else e4m3) 0 0 x).bits

/-- One product into slot contents (R156): cells, checksum row, column and corner. -/
def product (p : Shape) (ab bb : Buf) (src old : Slot) (z : Bool) (aw bw : Nat) : Slot :=
  let base : Slot := if z then { cells := [], kind := p.kind, mark := false } else old
  let ka := fun i k => productA p ab src aw i k
  let kb := fun k j => rowElem (bb.row j) p.b (bw * p.k + k)
  let is := List.range p.m
  let js := List.range 64
  let cells : List ((Nat × Nat) × Nat) :=
    if p.int then
      let a := fun i k => intOf 8 true (ka i k)
      let b := fun k j => intOf 8 true (kb k j)
      let ca := fun k => is.foldl (fun (s : Int) i => s + a i k) 0
      let cb := fun k => js.foldl (fun (s : Int) j => s + b k j) 0
      let cell := fun i j (f g : Nat → Int) => ((i, j), accumulateInt (base.cell i j) p.k f g)
      (is.flatMap fun i => js.map fun j => cell i j (a i) (fun k => b k j)) ++
      (js.map fun j => cell 64 j ca (fun k => b k j)) ++ (is.map fun i => cell i 64 (a i) cb) ++ [cell 64 64 ca cb]
    else
      let a := fun i k => operand p.narrow (ka i k)
      let b := fun k j => operand p.b (kb k j)
      let ca := fun k => fp32.decode (round32 (exactSum (is.map fun i => a i k)))
      let cb := fun k => fp32.decode (round32 (exactSum (js.map fun j => b k j)))
      let cell := fun i j (f g : Nat → FV) => ((i, j), accumulate (base.cell i j) p.k p.c f g)
      (is.flatMap fun i => js.map fun j => cell i j (a i) (fun k => b k j)) ++
      (js.map fun j => cell 64 j ca (fun k => b k j)) ++ (is.map fun i => cell i 64 (a i) cb) ++ [cell 64 64 ca cb]
  let t := cells.foldl (fun (t : Slot) c => t.setCell c.1.1 c.1.2 c.2) base
  let mark := base.mark || bb.mark || (match p.a with | some _ => ab.mark | none => src.mark)
  { t with kind := p.kind, mark := mark }

/-! ## The check (R159) -/

/-- Mismatch(s, c, m) for kind F. -/
def mismatchF (s c : FV) (m : FV) : Bool :=
  match s, c with
  | .fin x, .fin y =>
    match m with
    | .fin z =>
      let e := min (min x.e y.e) z.e
      decide ((x.num e - y.num e).natAbs * 512 > (z.num e).natAbs)
    | _ => false
  | .fin _, _ => true
  | _, .fin _ => true
  | _, _ => false

/-- The absolute value of a value. -/
def FV.absV : FV → FV
  | .fin d => .fin { d with neg := false }
  | .inf _ => .inf false
  | .nan => .nan

/-- Whether a row or column of cells disagrees with its checksum. -/
def lineBad (kind : SlotKind) (cells : List Nat) (sum : Nat) : Bool :=
  match kind with
  | .f =>
    let vs := cells.map fp32.decode
    mismatchF (fp32.decode (round32 (exactSum vs))) (fp32.decode sum) (exactSum (vs.map FV.absV))
  | _ => decide ((cells.foldl (· + ·) 0 : Nat) % 2 ^ 32 ≠ sum)

/-- The outcome of a check: the slot, the status code, the numbers of bad rows and columns, and the cell. -/
structure CheckOut where
  slot : Slot
  ck : Nat
  nrow : Nat
  ncol : Nat
  row : Nat
  col : Nat
  deriving DecidableEq, Repr

/-- The check of a slot (R159). DESIGN CHOICE (log 48): a slot of kind N with one bad row and one bad column is corrected as kind I is; R159 gives the correction for F and I only. -/
def checkSlot (t : Slot) : CheckOut :=
  let idx := List.range 64
  let bad := fun (f : Nat → Bool) => idx.filter f
  let rows := bad fun i => lineBad t.kind (idx.map fun j => t.cell i j) (t.cell i 64)
  let cols := bad fun j => lineBad t.kind (idx.map fun i => t.cell i j) (t.cell 64 j)
  let out := fun (s : Slot) ck r c => ({ slot := s, ck := ck, nrow := rows.length, ncol := cols.length, row := r, col := c } : CheckOut)
  match rows, cols with
  | [], [] => out t 1 0 0
  | [i], [j] =>
    let row := idx.map fun j => t.cell i j
    match t.kind with
    | .f =>
      match fp32.decode (round32 (exactSum (row.map fp32.decode))), fp32.decode (t.cell i 64), fp32.decode (t.cell i j) with
      | .fin r, .fin c, .fin x =>
        let d := c.add r.negate false
        out (t.setCell i j (flush32 (roundDy fp32 0 0 (x.add d false)).bits)) 2 i j
      | .fin _, .fin _, x => out (t.setCell i j (flush32 (round32 x))) 2 i j
      | _, _, _ => out { t with mark := true } 3 0 0
    | _ =>
      let r : Nat := row.foldl (· + ·) 0
      out (t.setCell i j (intPat 32 ((t.cell i j : Int) + (t.cell i 64 : Int) - (r : Int)))) 2 i j
  | _, _ => out { t with mark := true } 3 0 0

/-- The check fields of `mx.st` (Table 6-7). -/
def CheckOut.status (c : CheckOut) (t : Nat) : BitVec 64 :=
  BitVec.ofNat 64 (t * 2 ^ 36 + c.ck * 2 ^ 32 + c.nrow * 2 ^ 24 + c.ncol * 2 ^ 16 + c.row * 2 ^ 8 + c.col)

/-- The mask of the check fields of `mx.st`. -/
def checkMask : BitVec 64 := BitVec.ofNat 64 (0xF * 2 ^ 36 + 3 * 2 ^ 32 + 0xFFFF * 2 ^ 16 + 0x7F * 2 ^ 8 + 0x7F)

/-- A row pair of a slot as a vector register (R162). -/
def rowPair (t : Slot) (p : Nat) : BitVec 4096 :=
  BitVec.ofNat 4096 ((List.range 128).foldr (fun i acc => t.cell (2 * p + i / 64) (i % 64) + acc * 2 ^ 32) 0)

/-- The bytes of row `i` of a slot's result cells (R160). -/
def slotRow (t : Slot) (i : Nat) : List Byte := (List.range 64).flatMap fun j => leBytes 4 (t.cell i j)

end Sys2Proof.Machine
end

