-- ==== Sys2Proof/Machine/Memory.lean ====
section
/-! DEFINITION. Memory: one sparse list of bytes in canonical form, the poison mark of each 8-byte word,
line identities and signatures, and one write's whole place in the single order: the bytes, the marks, the
slice's history, the private check, the monitors and the changed-line sets. -/

namespace Sys2Proof.Machine

/-! ## Bytes -/

/-- What an address that is not listed reads as (log 2). -/
def memDefault : Byte := 0

/-- Read one byte. -/
def memRead (m : List Host.Cell) (a : Nat) : Byte := Store.getD m a memDefault

/-- Write one byte, keeping the canonical form: a byte equal to the default is not listed. -/
def memWrite (m : List Host.Cell) (a : Nat) (b : Byte) : List Host.Cell :=
  if b = memDefault then Store.del m a else Store.put m a b

/-- The canonical form of memory: addresses strictly rising, no byte equal to the default. -/
def Memory.wf (m : List Host.Cell) : Bool := Store.wf m && m.all fun c => c.2 != memDefault

/-- Write bytes at rising addresses. -/
def memWriteList (m : List Host.Cell) (a : Nat) : List Byte → List Host.Cell
  | [] => m
  | b :: r => memWriteList (memWrite m a b) (a + 1) r

/-- Read `n` bytes at rising addresses. -/
def memReadList (m : List Host.Cell) (a : Nat) : Nat → List Byte
  | 0 => []
  | n + 1 => memRead m a :: memReadList m (a + 1) n

/-- The little-endian number of `n` bytes (R183). -/
def State.load (s : State) (a n : Nat) : Nat := ofLE (memReadList s.mem a n)
/-- Write the `n` low bytes of a number, little-endian, with no other consequence. -/
def State.poke (s : State) (a n v : Nat) : State := { s with mem := memWriteList s.mem a (leBytes n v) }
/-- Write bytes with no other consequence. -/
def State.pokeList (s : State) (a : Nat) (l : List Byte) : State := { s with mem := memWriteList s.mem a l }

/-! ## Poison marks (R186) -/

/-- The mark of the 8-byte word that holds an address. -/
def State.marked (s : State) (a : Nat) : Bool := hasNat s.poison (a / 8)

/-- Set or clear the mark of word `w`. -/
def setMark (p : List Nat) (w : Nat) (m : Bool) : List Nat := if m then insertNat p w else eraseNat p w

/-- The mark of a word after a write of `n` bytes at `a` that carries mark `m`: the write's own mark when it
covers the word, otherwise the two joined (R186). -/
def mergeMark (old : Bool) (w a n : Nat) (m : Bool) : Bool :=
  if a ≤ 8 * w ∧ 8 * w + 8 ≤ a + n then m else if a < 8 * w + 8 ∧ 8 * w < a + n then old || m else old

/-- The words that `n` bytes at `a` touch. -/
def wordsOf (a n : Nat) : List Nat := if n = 0 then [] else (List.range ((a + n - 1) / 8 + 1 - a / 8)).map (a / 8 + ·)

/-- Split `n` bytes at `a` where a 128-byte line ends. -/
def splitLines (a n : Nat) : List (Nat × Nat) :=
  (List.range (if n = 0 then 0 else (a + n - 1) / 128 + 1 - a / 128)).map fun i =>
    let lo := if i = 0 then a else (a / 128 + i) * 128
    (lo, min (a + n) ((a / 128 + i + 1) * 128) - lo)

/-- The marks after a write of `n` bytes at `a` that carries mark `m`. -/
def writeMarks (p : List Nat) (a n : Nat) (m : Bool) : List Nat :=
  (wordsOf a n).foldl (fun q w => setMark q w (mergeMark (hasNat q w) w a n m)) p

/-- Whether any of `n` bytes at `a` lies in a poisoned word. -/
def anyMarked (p : List Nat) (a n : Nat) : Bool := (wordsOf a n).any (hasNat p)

/-! ## Lines and signatures (R199, R200) -/

/-- The line of a flat address. -/
def lineOf (a : Nat) : Nat := a / 128

/-- The line identity LI of a flat line (R200). -/
def lineIdent (line : Nat) : Nat :=
  if line < 2 ^ 45 then ((line / 2 ^ 13) % 2 ^ 24) * 2 ^ 13 + line % 2 ^ 13 else 2 ^ 40 + (line - 2 ^ 45)

/-- `h_1` (R200). -/
def sigHash1 (li : Nat) : Nat := ((li * 0x9E3779B97F4A7C15) % 2 ^ 64) / 2 ^ 55
/-- `h_2` (R200). -/
def sigHash2 (li : Nat) : Nat := ((li * 0xC2B2AE3D27D4EB4F) % 2 ^ 64) / 2 ^ 55

/-- The signature of one line. -/
def lineSig (line : Nat) : BitVec 512 :=
  BitVec.ofNat 512 (2 ^ sigHash1 (lineIdent line)) ||| BitVec.ofNat 512 (2 ^ sigHash2 (lineIdent line))

/-- The signature of several lines. -/
def linesSig (ls : List Nat) : BitVec 512 := ls.foldl (fun a l => a ||| lineSig l) 0

/-- Whether two signatures may share a line (R200). -/
def mayShare (a b : BitVec 512) : Bool := (a &&& b) != 0

/-- The lines that `n` bytes at a flat address touch. -/
def linesOf (a n : Nat) : List Nat :=
  if n = 0 then [] else (List.range ((a + n - 1) / 128 + 1 - a / 128)).map (a / 128 + ·)

/-- Whether a flat line is entered in signatures: rim lines and exported lines of local stores (R199). -/
def State.lineExported (s : State) (line : Nat) : Bool :=
  if line < 2 ^ 45 then s.exported (pidOf (line / 2 ^ 13)) ((line % 2 ^ 13) * 128) else true

/-- The owner of a flat line. -/
def ownerOfLine (line : Nat) : Owner := ownerOfFlat (line * 128)

/-! ## Records kept beside memory -/

/-- Ask for an early boundary of a core's group (R367). -/
def State.askBoundary (s : State) (ck : Nat) : State :=
  (s.updCore ck fun c => { c with early := true }).pushOnce (.boundaryStart (gkOf ck))

/-- Note a line changed and its KiB occupied in the local store a write reaches (R368, R387); a core with more than 6,144 changed
lines asks for an early boundary (R367). -/
def State.noteChanged (s : State) (line : Nat) : State :=
  if line < 2 ^ 45 then
    let ck := line / 2 ^ 13
    let s1 := s.updCore ck fun c =>
      { c with changed := insertNat c.changed (line % 2 ^ 13),
               occ := c.occ ||| BitVec.ofNat 1024 (2 ^ ((line % 2 ^ 13) / 8)) }
    if 6144 < (s1.core ck).changed.length then s1.askBoundary ck else s1
  else s

/-- A strand's monitors after a write to a line by another party (R274). -/
def Strand.fireMon (x : Strand) (line : Nat) : Strand :=
  { x with mons := x.mons.map fun m => if m.armed && m.line == line then { m with fired := true } else m }

/-- Whether a strand has an armed slot on a line. -/
def Strand.watches (x : Strand) (line : Nat) : Bool := x.mons.toList.any fun m => m.armed && m.line == line

/-- Fire the monitors of every other strand on a line (R274). -/
def State.fireMonitors (s : State) (writer : Option Nat) (line : Nat) : State :=
  { s with strands := s.strands.mapAll fun sid x =>
      if writer = some sid then x else if x.watches line then x.fireMon line else x }

/-- One more commit at a slice, with its write signature (R201, R203): the last 64 are kept. -/
def Slice.record (sl : Slice) (by_ : Option Nat) (sig : BitVec 512) : Slice :=
  { sl with num := sl.num + 1, hist := ((by_, sig) :: sl.hist).take 64 }

/-- Enter a write of lines of one owner into its slice's history. -/
def State.recordAt (s : State) (by_ : Option Nat) (w : Owner) (sig : BitVec 512) : State :=
  s.updOwner w fun o => { o with slice := o.slice.record by_ sig }

/-- The owners of some lines, each once. -/
def ownersOf (ls : List Nat) : List Owner := (ls.map ownerOfLine).eraseDups

/-- Enter a write of lines into the histories of the slices that own them, one commit at each (R203). -/
def State.recordLines (s : State) (by_ : Option Nat) (ls : List Nat) : State :=
  (ownersOf ls).foldl (fun s w => s.recordAt by_ w (linesSig (ls.filter fun l => ownerOfLine l = w))) s

end Sys2Proof.Machine
end

