-- ==== Sys2Proof/Machine/VecFn.lean ====
section
/-! DEFINITION. What a captured vector operation computes (spec/05_vector_instructions.md): element types,
activity, every operation of Table 5-3, the destination as it stood just before the result lands. -/

namespace Sys2Proof.Machine

/-! ## Element types (R111, R113) -/

/-- The kinds of Table 5-2. -/
inductive VKind where
  | f | e | i | q
  deriving DecidableEq, Repr

/-- A vector element type. -/
structure VTy where
  code : Nat
  w : Nat
  kind : VKind
  signed : Bool
  deriving DecidableEq, Repr

/-- The type of a code (Table 5-2); code 15 is never held by `vt` and reads as U4. -/
def vty (c : Nat) : VTy :=
  match c with
  | 0 => { code := 0, w := 32, kind := .f, signed := true }
  | 1 => { code := 1, w := 16, kind := .f, signed := true }
  | 2 => { code := 2, w := 8, kind := .e, signed := true }
  | 3 => { code := 3, w := 8, kind := .e, signed := true }
  | 4 => { code := 4, w := 32, kind := .i, signed := true }
  | 5 => { code := 5, w := 16, kind := .i, signed := true }
  | 6 => { code := 6, w := 8, kind := .i, signed := true }
  | 7 => { code := 7, w := 4, kind := .q, signed := false }
  | 8 => { code := 8, w := 32, kind := .i, signed := false }
  | 9 => { code := 9, w := 16, kind := .i, signed := false }
  | 10 => { code := 10, w := 8, kind := .i, signed := false }
  | 11 => { code := 11, w := 64, kind := .i, signed := true }
  | 12 => { code := 12, w := 64, kind := .i, signed := false }
  | 13 => { code := 13, w := 4, kind := .i, signed := true }
  | _ => { code := 14, w := 4, kind := .i, signed := false }

/-- The element count n of a type (R111). -/
def VTy.n (t : VTy) : Nat := 4096 / t.w
/-- The format of a floating-point type. -/
def VTy.fmt (t : VTy) : Fmt :=
  match t.code with
  | 0 => fp32
  | 1 => bf16
  | 2 => e4m3
  | _ => e5m2
/-- Whether a type is floating-point (kinds F and E). -/
def VTy.isFloat (t : VTy) : Bool := t.kind == .f || t.kind == .e

/-- The type ET of a `vt` (Table 5-1). -/
def etOf (vt : BitVec 64) : VTy := vty (bitsAt vt 3 0)
/-- The type WT of a `vt`. -/
def wtOf (vt : BitVec 64) : VTy := vty (bitsAt vt 10 7)
/-- The rounding mode RND of a `vt`. -/
def rndOf (vt : BitVec 64) : Nat := bitsAt vt 6 4

/-- Element `i` of width `w` of a register (R111). -/
def elemAt (d : BitVec 4096) (w i : Nat) : Nat := (d.toNat >>> (w * i)) % 2 ^ w

/-- Pack elements of width `w`, element 0 lowest. -/
def packElems (w : Nat) (l : List Nat) : Nat := l.foldr (fun x acc => x % 2 ^ w + acc * 2 ^ w) 0

/-- Element `i` of an operand of element width `w`, after broadcast; a group of m registers is read as R128
orders it. -/
def VArg.elem (a : VArg) (w i : Nat) : Nat :=
  match a with
  | .vec r => elemAt r.d w i
  | .group rs => elemAt ((rs.getD (i % rs.length) VReg.zero).d) w (i / rs.length)
  | .msk k => if k.d.getLsbD i then 1 else 0
  | .scal r => r.val.toNat % 2 ^ w

/-- The poison mark of an operand. -/
def VArg.poisoned : VArg → Bool
  | .vec r => r.p
  | .group rs => rs.any VReg.p
  | .msk k => k.p
  | .scal r => r.p

/-- The scalar an operand stands for. -/
def VArg.scalar : VArg → BitVec 64
  | .scal r => r.val
  | _ => 0

/-! ## Activity (R116) -/

/-- Whether element `i` is active. -/
def VReq.active (q : VReq) (i : Nat) : Bool :=
  match q.mask with
  | none => true
  | some k => k.d.getLsbD i

/-- The mode in force: the prefix RM, or the rounding field of `vt` (R76). -/
def VReq.mode (q : VReq) : Nat := if q.rm = 6 then rndOf q.vt else q.rm.val

/-- Elements of a result: for each index the active elements are computed with the draw of mode SR, the
others keep Before or become zero; flags are joined (R116, R121). -/
def mapActive (q : VReq) (n : Nat) (before : Nat → Nat) (f : Nat → Nat → FR) : List Nat × Nat :=
  let draws : Bool := decide (q.mode = 5)
  let r := (List.range n).foldl (fun (acc : List Nat × Nat × BitVec 64) i =>
    if q.active i then
      let g := if draws then rngNext acc.2.2 else acc.2.2
      let x := f i (rngBits g)
      (x.bits :: acc.1, acc.2.1 ||| x.fl, g)
    else ((if q.mz then 0 else before i) :: acc.1, acc.2.1, acc.2.2)) ([], 0, q.rng)
  (r.1.reverse, r.2.1)

/-- What a vector operation writes: registers, a mask, or `vx.s`, with flags. -/
structure VOut where
  v : List (Fin 8 × VReg)
  k : Option (Fin 4 × KReg)
  s : Option Reg
  fl : Nat
  deriving DecidableEq, Repr

/-- Register `d + j` of a group. -/
def regPlus (d : Fin 8) (j : Nat) : Fin 8 := Fin.ofNat 8 (d.val + j)

/-- Whether the destination takes part: an inactive element is merged (R121). -/
def VReq.merges (q : VReq) : Bool := q.mask.isSome && !q.mz

/-- The poison that the operands of a request carry. -/
def VReq.poisoned (q : VReq) : Bool :=
  q.o.poisoned || q.t.poisoned || (match q.add with | some r => r.p | none => false) ||
    (match q.mask with | some k => k.p | none => false)

/-- A result in one register of element width `w`. -/
def vecOut (q : VReq) (old : VReg) (w : Nat) (usesOld : Bool) (r : List Nat × Nat) : VOut :=
  { v := [(q.d, { d := BitVec.ofNat 4096 (packElems w r.1), p := q.poisoned || (usesOld && old.p) })],
    k := none, s := none, fl := r.2 }

/-- A result of element width `w` in a group of m registers (R128). -/
def groupOut (q : VReq) (olds : List VReg) (w m : Nat) (r : List Nat × Nat) : VOut :=
  let p := q.poisoned || (q.merges && olds.any VReg.p)
  { v := (List.range m).map fun j =>
      (regPlus q.d j,
        { d := BitVec.ofNat 4096 (packElems w ((List.range (r.1.length / m)).map fun t => r.1.getD (t * m + j) 0)),
          p := p }),
    k := none, s := none, fl := r.2 }

/-- A mask result; bits n to 1,023 are clear (R116, R126). -/
def maskOut (q : VReq) (old : KReg) (n : Nat) (f : Nat → Bool) : VOut :=
  let bits := (List.range n).foldr (fun i acc =>
    (if (if q.active i then f i else if q.mz then false else old.d.getLsbD i) then 1 else 0) + 2 * acc) 0
  { v := [], k := some (Fin.ofNat 4 q.d.val, { d := BitVec.ofNat 1024 bits, p := q.poisoned || (q.merges && old.p) }),
    s := none, fl := 0 }

/-- A scalar result in `vx.s` (R132). -/
def scalOut (q : VReq) (x : Nat) (fl : Nat) : VOut :=
  { v := [], k := none, s := some (mk0 (BitVec.ofNat 64 x) q.poisoned), fl := fl }

/-! ## Element operations -/

/-- An exact integer result: wrapped, or saturated under SAT (R123). -/
def intRes (t : VTy) (sat : Bool) (n : Int) : FR :=
  { bits := intPat t.w (if sat then saturate t.w t.signed n else n), fl := 0 }

/-- An exact pattern. -/
def patRes (x : Nat) : FR := { bits := x, fl := 0 }

/-- add, sub, mul (R123). -/
def arith (t : VTy) (op : VOp) (sat : Bool) (mode r x y : Nat) : FR :=
  if t.kind = .i then
    let a := intOf t.w t.signed x
    let b := intOf t.w t.signed y
    intRes t sat (match op with | .add => a + b | .sub => a - b | _ => a * b)
  else
    let a := t.fmt.decode x
    let b := t.fmt.decode y
    match op with
    | .add => fAdd t.fmt mode r a b
    | .sub => fAdd t.fmt mode r a b.negate
    | _ => fMul t.fmt mode r a b

/-- min, max (R123). -/
def pick (t : VTy) (largest : Bool) (x y : Nat) : FR :=
  if t.kind = .i then
    let a := intOf t.w t.signed x
    let b := intOf t.w t.signed y
    patRes (if largest then (if b ≤ a then x else y) else (if a ≤ b then x else y))
  else patRes (fPick t.fmt largest x y)

/-- abs, neg (R123). -/
def signOp (t : VTy) (invert sat : Bool) (x : Nat) : FR :=
  if t.kind = .i then
    let a := intOf t.w t.signed x
    intRes t sat (if invert then -a else if t.signed then (a.natAbs : Int) else a)
  else patRes (fSignOp t.fmt invert x)

/-- shl, shr, sar (R125). -/
def shiftOp (w : Nat) (op : VOp) (x c : Nat) : Nat :=
  match op with
  | .shl => if c ≥ w then 0 else x * 2 ^ c % 2 ^ w
  | .shr => if c ≥ w then 0 else x / 2 ^ c
  | _ => intPat w (intOf w true x / ((2 ^ min c w : Nat) : Int))

/-- The compares (R126). -/
def cmpOp (t : VTy) (op : VOp) (x y : Nat) : Bool :=
  if t.kind = .i then
    let a := intOf t.w t.signed x
    let b := intOf t.w t.signed y
    match op with
    | .cmpeq => decide (a = b)
    | .cmpne => decide (a ≠ b)
    | .cmplt => decide (a < b)
    | _ => decide (a ≤ b)
  else
    let a := t.fmt.decode x
    let b := t.fmt.decode y
    match op with
    | .cmpeq => fvEq a b
    | .cmpne => !fvEq a b
    | .cmplt => fvLt a b
    | _ => fvLt a b || fvEq a b

/-- Convert one element between types (R80, R129, R131). DESIGN CHOICE (log 46): a conversion between a float and an integer type that R80 does not list rounds and saturates as the listed ones do. -/
def convert (s t : VTy) (sat : Bool) (mode r x : Nat) : FR :=
  if s.isFloat then
    if t.isFloat then roundFV t.fmt mode r (s.fmt.decode x)
    else
      let z := fToInt t.w t.signed mode r (s.fmt.decode x)
      { bits := intPat t.w z.1, fl := z.2 }
  else if t.isFloat then roundDy t.fmt mode r (dyOfNum (intOf s.w s.signed x))
  else intRes t sat (intOf s.w s.signed x)

/-- wadd, wmul (R130). -/
def widen (s t : VTy) (mul : Bool) (mode r x y : Nat) : FR :=
  if s.kind = .i then
    let a := intOf s.w s.signed x
    let b := intOf s.w s.signed y
    patRes (intPat t.w (if mul then a * b else a + b))
  else
    let a := s.fmt.decode x
    let b := s.fmt.decode y
    if mul then fMul t.fmt mode r a b else fAdd t.fmt mode r a b

/-- The special functions (R127). -/
def special (f : Fmt) (op : VOp) (mode r : Nat) (v : FV) : FR :=
  match op with
  | .exp2 => fExp2 f mode r v
  | .log2 => fLog2 f mode r v
  | .rcp => fRcp f mode r v
  | .rsq => fRsq f mode r v
  | _ => fTanh f mode r v

/-- One level of the pairwise tree of `vx.sum`: element i becomes e(i) + e(i + half) (R82). -/
def treeStep (f : Fmt) (l : List Nat) (half fl : Nat) : List Nat × Nat :=
  (List.range half).foldr (fun i acc =>
    let s := fAdd f 0 0 (f.decode (l.getD i 0)) (f.decode (l.getD (i + half) 0))
    (s.bits :: acc.1, acc.2 ||| s.fl)) ([], fl)

/-- The tree of `vx.sum` over a power of two of elements (R82). -/
def treeSum (f : Fmt) : Nat → List Nat → Nat → List Nat × Nat
  | 0, l, fl => (l, fl)
  | k + 1, l, fl => let r := treeStep f l (2 ^ k) fl; treeSum f k r.1 r.2

/-- The active elements of an operand, in order. -/
def VReq.actives (q : VReq) (a : VArg) (t : VTy) : List Nat :=
  ((List.range t.n).filter q.active).map (a.elem t.w)

/-- sum, maxr, minr (R132). -/
def reduce (q : VReq) (t : VTy) : VOut :=
  match q.op with
  | .sum =>
    if t.kind = .i then
      scalOut q (intPat 64 ((q.actives q.o t).foldl (fun acc x => acc + intOf t.w t.signed x) 0)) 0
    else
      let l := (List.range t.n).map fun i => if q.active i then q.o.elem t.w i else t.fmt.sign
      let r := treeSum t.fmt (Nat.log2 t.n) l 0
      scalOut q (r.1.getD 0 0) r.2
  | op =>
    let largest := decide (op = .maxr)
    if t.kind = .i then
      let z := (q.actives q.o t).foldl (fun acc x =>
        let a := intOf t.w t.signed x
        if largest then max acc a else min acc a) (if largest then intMin t.w t.signed else intMax t.w t.signed)
      scalOut q (intPat 64 z) 0
    else
      match q.actives q.o t with
      | [] => scalOut q (t.fmt.signed largest t.fmt.infPat) 0
      | x :: r => scalOut q (r.foldl (fun acc y => fPick t.fmt largest acc y) (fPick t.fmt largest x x)) 0

/-! ## The whole operation -/

/-- What a request writes, given the old content of the destination registers and masks (R116, R119). -/
def evalVec (q : VReq) (oldV : Vector VReg 8) (oldK : Vector KReg 4) : VOut :=
  let t := etOf q.vt
  let u := wtOf q.vt
  let old := oldV[q.d]
  let bef (w : Nat) : Nat → Nat := elemAt old.d w
  let a (i : Nat) : Nat := q.o.elem t.w i
  let b (i : Nat) : Nat := q.t.elem t.w i
  let md := q.mode
  match q.op with
  | .add | .sub | .mul =>
    vecOut q old t.w q.merges (mapActive q t.n (bef t.w) fun i r => arith t q.op q.sat md r (a i) (b i))
  | .mulh =>
    vecOut q old t.w q.merges (mapActive q t.n (bef t.w) fun i _ =>
      patRes (intPat (2 * t.w) (intOf t.w t.signed (a i) * intOf t.w t.signed (b i)) / 2 ^ t.w))
  | .fma | .fms | .nfma =>
    vecOut q old t.w (q.merges || q.add.isNone) (mapActive q t.n (bef t.w) fun i r =>
      let c := t.fmt.decode (match q.add with | some v => elemAt v.d t.w i | none => bef t.w i)
      let x := t.fmt.decode (a i)
      let y := t.fmt.decode (b i)
      match q.op with
      | .fma => fFma t.fmt md r x y c
      | .fms => fFma t.fmt md r x y c.negate
      | _ => fFma t.fmt md r x.negate y c)
  | .min => vecOut q old t.w q.merges (mapActive q t.n (bef t.w) fun i _ => pick t false (a i) (b i))
  | .max => vecOut q old t.w q.merges (mapActive q t.n (bef t.w) fun i _ => pick t true (a i) (b i))
  | .abs => vecOut q old t.w q.merges (mapActive q t.n (bef t.w) fun i _ => signOp t false q.sat (a i))
  | .neg => vecOut q old t.w q.merges (mapActive q t.n (bef t.w) fun i _ => signOp t true q.sat (a i))
  | .and => vecOut q old t.w q.merges (mapActive q t.n (bef t.w) fun i _ => patRes (a i &&& b i))
  | .or => vecOut q old t.w q.merges (mapActive q t.n (bef t.w) fun i _ => patRes (a i ||| b i))
  | .xor => vecOut q old t.w q.merges (mapActive q t.n (bef t.w) fun i _ => patRes (a i ^^^ b i))
  | .shl | .shr | .sar =>
    vecOut q old t.w q.merges (mapActive q t.n (bef t.w) fun i _ => patRes (shiftOp t.w q.op (a i) (b i)))
  | .cmpeq | .cmpne | .cmplt | .cmple =>
    maskOut q oldK[Fin.ofNat 4 q.d.val] t.n fun i => cmpOp t q.op (a i) (b i)
  | .sel =>
    vecOut q old t.w false ((List.range t.n).map fun i => if q.active i then b i else a i, 0)
  | .cvt =>
    let m := u.w / t.w
    let olds := (List.range m).map fun j => oldV[regPlus q.d j]
    groupOut q olds u.w m (mapActive q t.n (fun i => (VArg.group olds).elem u.w i) fun i r =>
      convert t u q.sat md r (a i))
  | .wadd | .wmul =>
    let m := u.w / t.w
    let olds := (List.range m).map fun j => oldV[regPlus q.d j]
    groupOut q olds u.w m (mapActive q t.n (fun i => (VArg.group olds).elem u.w i) fun i r =>
      widen t u (decide (q.op = .wmul)) md r (a i) (b i))
  | .narrow =>
    vecOut q old u.w q.merges (mapActive q u.n (bef u.w) fun i r => convert t u q.sat md r (a i))
  | .sum | .maxr | .minr => reduce q t
  | .perm => vecOut q old t.w q.merges (mapActive q t.n (bef t.w) fun i _ => patRes (a (b i % t.n)))
  | .shuf =>
    vecOut q old t.w q.merges (mapActive q t.n (bef t.w) fun i _ => patRes (a (i ^^^ (q.t.scalar.toNat % t.n))))
  | .bcast =>
    vecOut q old t.w q.merges (mapActive q t.n (bef t.w) fun _ _ => patRes (a (q.t.scalar.toNat % t.n)))
  | .slide =>
    vecOut q old t.w q.merges (mapActive q t.n (bef t.w) fun i _ =>
      let j : Int := (i : Int) + q.t.scalar.toInt
      if 0 ≤ j ∧ j < t.n then patRes (a j.toNat)
      else match q.add with
        | some v => patRes (elemAt v.d t.w (j % (t.n : Int)).toNat)
        | none => patRes 0)
  | .sexp =>
    let s := q.t.scalar
    vecOut q old 32 q.merges (mapActive q 128 (bef 32) fun i _ =>
      blockScale (bitsAt s 31 0) (q.o.elem 8 (128 * bitsAt s 33 32 + i)))
  | .sacc =>
    vecOut q old 32 true (mapActive q 128 (bef 32) fun i r =>
      fFma fp32 md r (fp32.decode (q.o.elem 32 i)) (fp32.decode (q.t.elem 32 (i % 64))) (fp32.decode (bef 32 i)))
  | .decq =>
    vecOut q old 16 q.merges (mapActive q 256 (bef 16) fun i _ => patRes (qn4Pat (q.o.elem 4 (256 * q.quart + i))))
  | .encq =>
    let r := (List.range 1024).foldr (fun c acc =>
      if 256 * q.quart ≤ c ∧ c < 256 * q.quart + 256 ∧ q.active (c - 256 * q.quart) then
        let z := qn4Encode (bf16.decode (q.o.elem 16 (c - 256 * q.quart)))
        (z.1 :: acc.1, acc.2 ||| z.2)
      else (bef 4 c :: acc.1, acc.2)) (([] : List Nat), 0)
    vecOut q old 4 true r
  | .exp2 | .log2 | .rcp | .rsq | .tanh =>
    vecOut q old t.w q.merges (mapActive q t.n (bef t.w) fun i r => special t.fmt q.op md r (t.fmt.decode (a i)))
  | .popcm =>
    scalOut q ((List.range t.n).foldl (fun acc i => if q.o.elem 1 i = 1 ∧ q.active i then acc + 1 else acc) 0) 0
  | .iota =>
    vecOut q old t.w q.merges (mapActive q t.n (bef t.w) fun i _ =>
      patRes ((q.o.scalar.toNat + i * q.t.scalar.toNat) % 2 ^ t.w))
  | .mmov =>
    vecOut q old t.w q.merges (mapActive q t.n (bef t.w) fun i _ =>
      patRes (if q.o.elem 1 i = 1 then 2 ^ t.w - 1 else 0))

/-- Whether an operation rounds under the current types, so that mode SR draws for each active element
(R74, R118). -/
def roundsUnder (op : VOp) (vt : BitVec 64) : Bool :=
  let t := etOf vt
  let u := wtOf vt
  match op with
  | .add | .sub | .mul | .wadd | .wmul => t.isFloat
  | .fma | .fms | .nfma | .sacc | .exp2 | .log2 | .rcp | .rsq | .tanh => true
  | .cvt | .narrow => t.isFloat || u.isFloat
  | _ => false

/-- The elements an operation's mask governs. -/
def opCount (op : VOp) (vt : BitVec 64) : Nat :=
  match op with
  | .narrow => (wtOf vt).n
  | .sexp | .sacc => 128
  | .decq | .encq => 256
  | _ => (etOf vt).n

/-- The generator after the draws of a request: one for each active element in mode SR (R74). -/
def VReq.rngAfter (q : VReq) : BitVec 64 :=
  if q.mode = 5 ∧ roundsUnder q.op q.vt then
    (List.range (opCount q.op q.vt)).foldl (fun g i => if q.active i then rngNext g else g) q.rng
  else q.rng

end Sys2Proof.Machine
end

