-- ==== Sys2Proof/Machine/Packets.lean ====
section
/-! DEFINITION. Causes of faults and reports (Table 13-6), the 64-byte packet (Table 13-5) and its way to the supervisor's
fault ring (R327, R357). -/

namespace Sys2Proof.Machine

/-- What a meaning answers. -/
abbrev Res := Host.Outcome State Fault Refusal

/-! ## Causes (Table 13-6) -/

/-- Cause *illegal word*. -/
def causeIllegal : Nat := 0x01
/-- Cause *privilege*. -/
def causePrivilege : Nat := 0x02
/-- Cause *reserved-field write*. -/
def causeReserved : Nat := 0x03
/-- Cause *window*. -/
def causeWindow : Nat := 0x04
/-- Cause *misaligned*. -/
def causeMisaligned : Nat := 0x05
/-- Cause *not present*. -/
def causeNotPresent : Nat := 0x06
/-- Cause *bad entry*. -/
def causeBadEntry : Nat := 0x07
/-- Cause *read-only*. -/
def causeReadOnly : Nat := 0x08
/-- Cause *world*. -/
def causeWorld : Nat := 0x09
/-- Cause *poison*. -/
def causePoison : Nat := 0x0A
/-- Cause *wait expired*. -/
def causeWait : Nat := 0x0B
/-- Cause *bad superscale*. -/
def causeSuperscale : Nat := 0x0C
/-- Cause *vector type*. -/
def causeVecType : Nat := 0x0D
/-- Cause *matrix operand*. -/
def causeMatrix : Nat := 0x0E
/-- Cause *no lease*. -/
def causeNoLease : Nat := 0x0F
/-- Cause *no token*. -/
def causeNoToken : Nat := 0x10
/-- Cause *no reply*. -/
def causeNoReply : Nat := 0x11
/-- Cause *owner busy*. -/
def causeOwnerBusy : Nat := 0x12
/-- Cause *dependency underflow*. -/
def causeUnderflow : Nat := 0x13
/-- Cause *launch operand*. -/
def causeLaunch : Nat := 0x14
/-- Cause *task operand*. -/
def causeTask : Nat := 0x15
/-- Cause *strand operand*. -/
def causeStrand : Nat := 0x16
/-- Cause *barrier operand*. -/
def causeBarrier : Nat := 0x17
/-- Cause *queue operand*. -/
def causeQueue : Nat := 0x18
/-- Cause *set operand*. -/
def causeSetOp : Nat := 0x19
/-- Cause *set conflict*. -/
def causeSetConflict : Nat := 0x1A
/-- Cause *undo overflow*. -/
def causeUndo : Nat := 0x1B
/-- Cause *no task*. -/
def causeNoTask : Nat := 0x1C
/-- Cause *engine operand*. -/
def causeEngineOp : Nat := 0x1D
/-- Cause *engine error*. -/
def causeEngine : Nat := 0x1E
/-- Cause *stream*. -/
def causeStream : Nat := 0x1F
/-- Cause *trap*. -/
def causeTrap : Nat := 0x20
/-- Cause *halt*. -/
def causeHalt : Nat := 0x21
/-- Cause *fetch*. -/
def causeFetch : Nat := 0x22
/-- Cause *reduction busy*. -/
def causeRedBusy : Nat := 0x23
/-- Cause *core fatal*. -/
def causeCoreFatal : Nat := 0x24

/-! ## Fault packets (R327, R328, Table 13-5) -/

/-- Where a strand resumes once its open chunk is squashed: its pair and whether at the second word (R206). -/
def Strand.chunkStart (x : Strand) : BitVec 64 × Bool :=
  let c := x.waitFrom.getD x.start
  (c.pc, c.second)

/-- The chunk start that a packet names: a frozen strand's further packets name the first one's (R328). -/
def Strand.packetStart (x : Strand) : BitVec 64 × Bool := if x.st = .frozen then x.cspc else x.chunkStart

/-- The 64 bytes of a packet. -/
def packetBytes (cause detail strand mode : Nat) (exact second report cssec : Bool) (outst cspc fpc serial
    lcore time : Nat) (data : List Byte) : List Byte :=
  [BitVec.ofNat 8 cause, BitVec.ofNat 8 detail,
   BitVec.ofNat 8 (strand + (if exact then 16 else 0) + (if second then 32 else 0) + 64 * mode),
   BitVec.ofNat 8 ((if report then 1 else 0) + (if cssec then 2 else 0))] ++
  leBytes 4 outst ++ leBytes 8 cspc ++ leBytes 8 fpc ++ leBytes 4 serial ++ leBytes 3 lcore ++ [0] ++
  leBytes 8 time ++ (data ++ List.replicate 24 (0 : Byte)).take 24

/-- A region's copy of shared time (R307). -/
def State.regionTime (s : State) (rk : Nat) : Nat := (s.region rk).copy

/-- `tm` as a strand would read it: its region's copy, never below what it has read (R307). -/
def State.strandTime (s : State) (sid : Nat) : Nat := max (s.strand sid).lastTm (s.regionTime (s.rkOf (ckOf sid)))

/-- The unacknowledged remote effect messages of a strand (R233); a request that carries no identity is none. -/
def Strand.outstanding (x : Strand) : Nat := (x.reqs.filter fun q => q.msg.tok != 0).length

/-- The packet of a fault of a strand: EXACT is 1 when no request is outstanding (R328). -/
def State.faultPacket (s : State) (sid cause detail : Nat) (fpc : BitVec 64) (second : Bool) (serial : Nat)
    (data : List Byte) : List Byte :=
  let x := s.strand sid
  packetBytes cause detail (strandNo sid) (s.mode sid).code (decide (x.outstanding = 0)) second false
    x.packetStart.2 x.outstanding x.packetStart.1.toNat fpc.toNat serial (lcoreOf (ckOf sid)) (s.strandTime sid) data

/-- A report about a core: a packet that freezes nothing (R357). -/
def State.reportBytes (s : State) (cause detail ck : Nat) (data : List Byte) : List Byte :=
  packetBytes cause detail 0 0 true false true false 0 0 0 0 (lcoreOf ck) (s.regionTime (s.rkOf ck)) data

/-- Hand a packet to a region for its supervisor's fault ring, in the order of the faults (R327). -/
def State.sendPacket (s : State) (pid rk : Nat) (b : List Byte) : State :=
  (s.updRegion rk fun r => { r with waiting := r.waiting ++ [b] }).pushOnce (.faultRingDeliver pid rk)

/-- Send a report about a core to its region's supervisor (R357). -/
def State.report (s : State) (cause detail ck : Nat) (data : List Byte) : State :=
  s.sendPacket (pidOf ck) (s.rkOf ck) (s.reportBytes cause detail ck data)

end Sys2Proof.Machine
end

