-- ==== Sys2Proof/Machine/Sram.lean ====
section
/-! DEFINITION. Coded arrays and rim codewords (R348-R357, R361): what soft errors do, how a rebuild logs and reports them,
and how a read or a write of a line meets them. -/

namespace Sys2Proof.Machine

/-! ## Arrays and row keys (Tables 14-1 and 14-2) -/

/-- Banks and rows per bank of an array. -/
def arrayShape (a : Nat) : Nat × Nat :=
  match a with
  | 0 => (16, 512)
  | 1 => (16, 512)
  | 2 => (2, 320)
  | 3 => (4, 512)
  | 4 => (1, 512)
  | 5 => (1, 512)
  | 6 => (1, 2048)
  | 7 => (1, 256)
  | _ => (0, 0)

/-- Whether an array belongs to a unit: 0-2 to a physical core, 3-7 to a group. -/
def unitHolds (u : ErrUnit) (a : Nat) : Bool :=
  match u with
  | .core _ => decide (a < 3)
  | .group _ => decide (3 ≤ a ∧ a < 8)

/-- Row blocks of a bank: 32 rows each (R349). -/
def blocksOf (a : Nat) : Nat := (arrayShape a).2 / 32

/-- The physical row of a logical row in a bank of `b` row blocks (R350). -/
def physRow (b r : Nat) : Nat := (r % 32) * b + r / 32

/-- The logical row that stands in a physical row (R350). -/
def logicalRow (b p : Nat) : Nat := 32 * (p % b) + p / b

/-- Cell 16 b + c of a physical row holds bit b of column c (R350). -/
def cellAt (d : Disturbance) : Cell :=
  { array := d.array, bank := d.bank, par := d.par, row := if d.par then d.row else logicalRow (blocksOf d.array) d.row, col := d.cell % 16, bit := d.cell / 16 }

/-- Whether a disturbed cell exists: in an array of its unit, a bank, a row and one of the row's 16 × 66 cells. -/
def disturbanceFits (d : Disturbance) : Bool :=
  unitHolds d.unit_ d.array && decide (d.bank < (arrayShape d.array).1) && decide (d.cell < 16 * 66) &&
    (if d.par then decide (d.row < blocksOf d.array) else decide (d.row < (arrayShape d.array).2))

/-- The row key of a data row or, with `par`, of the parity-store word of a row block. -/
def rowKey (array bank : Nat) (par : Bool) (row : Nat) : Nat := array * 2 ^ 28 + bank * 2 ^ 24 + (if par then 2 ^ 11 else 0) + row

/-- The three filter positions of a key (R356). -/
def filterBits (k : Nat) : List Nat := [0x9E3779B9, 0x85EBCA6B, 0xC2B2AE35].map fun m => ((k * m) % 2 ^ 32) / 2 ^ 21

/-! ## Where a unit is -/

/-- The region and physical group of a unit. -/
def unitSite (u : ErrUnit) : Nat × Nat :=
  match u with
  | .core p => (p / 8 / 36, p / 8 % 36)
  | .group p => (p / 36, p % 36)

/-- The physical place as reports give it: RX, RY, GROUP, POS (Table 14-3). -/
def placeWord (rk g pos : Nat) : Nat := (rk % 12) * 2 ^ 28 + (rk / 12) * 2 ^ 24 + g * 2 ^ 18 + pos * 2 ^ 15

/-- The place of a unit as reports give it. -/
def unitPlace (u : ErrUnit) : Nat :=
  match u with
  | .core p => placeWord (unitSite u).1 (unitSite u).2 (p % 8)
  | .group _ => placeWord (unitSite u).1 (unitSite u).2 0

/-- The logical cores seated on a physical core. -/
def State.seatedOn (s : State) (pid place : Nat) : List Nat := (s.partCores pid).filter fun ck => (s.core ck).physPlace = place

/-- The logical core that a report about a unit names (R357): the one seated there, or seat 0 of the group; the region's
supervisor core where none is. -/
def State.unitCore (s : State) (pid : Nat) (u : ErrUnit) : Nat :=
  let c := match u with
    | .core p => (s.seatedOn pid p).head?
    | .group p => (s.groupOfKey pid p).map fun gk => gk * 4
  c.getD (s.supCore pid (unitSite u).1)

/-- Send a report about a unit, where a partition holds its region. -/
def State.unitReport (s : State) (u : ErrUnit) (cause detail : Nat) (data : List Byte) : State :=
  match (s.region (unitSite u).1).pid with
  | some pid => s.report cause detail (s.unitCore pid u) data
  | none => s

/-! ## Logging (R353, R356) -/

/-- Count up to a limit. -/
def countTo (n lim : Nat) : Nat := min (n + 1) lim

/-- A corrected error in a row: a repeat offender, or scattered (R356). An update in the cycle of FCLR is lost (R364, R366). -/
def State.logCorrected (s : State) (u : ErrUnit) (key : Nat) : State :=
  let k := unitKey u
  let e := (s.unit k).err
  let data := fun (n : Nat) => leBytes 4 key ++ leBytes 2 n ++ leBytes 2 0 ++ leBytes 4 (unitPlace u)
  let s1 := s.updRegion (unitSite u).1 fun r => { r with corr := r.corr + 1 }
  if (filterBits key).all fun b => e.filter.getLsbD b then
    let n := countTo e.rep 0xFFFF
    (s1.updUnit k fun x => { x with err := { x.err with rep := n } }).unitReport u 0x43 0 (data n)
  else
    let lost := decide (e.clearedAt = some (s.region (unitSite u).1).cyc)
    let f := if lost then e.filter else (filterBits key).foldl (fun (f : BitVec 2048) b => f ||| BitVec.twoPow 2048 b) e.filter
    let s2 := s1.updUnit k fun x => { x with err := { x.err with filter := f, scat := countTo x.err.scat 0xFFFF } }
    if e.rptscat then s2.unitReport u 0x47 0 (data e.rep) else s2

/-- An uncorrectable event (R353): counted and reported. -/
def State.logUncorrectable (s : State) (u : ErrUnit) (key col detail words : Nat) : State :=
  let s1 := (s.updRegion (unitSite u).1 fun r => { r with unc := countTo r.unc 0xFFFF }).updUnit (unitKey u) fun y => { y with err := { y.err with unc := countTo y.err.unc 0xFFFF } }
  s1.unitReport u 0x44 detail (leBytes 4 key ++ leBytes 2 col ++ [BitVec.ofNat 8 words, 0] ++ leBytes 4 (unitPlace u))

/-! ## What a word of an array holds

The spec gives the size and the shape of each array, and not what stands in which row of it. Log 64 names the layout: line l of a store
in row l div 16 of bank l mod 16; strand n of the vector file from its row 36 n on, the rows taken from the two banks in turn; slot t of
the accumulator store from its row 128 t on; the operand buffers in the first 256 rows of array 4. -/

/-- What a stored word holds: a word of memory, 8 bytes of a vector or mask register, two cells of an accumulator slot or of its checksums, 8 bytes of
an operand buffer's row, or something of the arrays whose layout nothing shows. -/
inductive Held where
  | word (w : Nat)
  | vreg (sid : Nat) (n : Fin 8) (i : Nat)
  | kreg (sid : Nat) (n : Fin 4) (i : Nat)
  | slot (gk t i : Nat)
  | check (gk t i : Nat)
  | buf (gk : Nat) (b : Bool) (row i : Nat)
  | other (gk array : Nat)
  | nothing
  deriving DecidableEq, Repr

/-- The core whose buddy a core is (R370): same index and seat in the region beside it; none where that region lies outside the
partition. -/
def State.buddyOf (s : State) (ck : Nat) : Option Nat :=
  let p := s.partOf ck
  let rk := s.rkOf ck
  let dx := rk % 12 - p.rx0
  let bx := if dx % 2 = 0 then dx + 1 else dx - 1
  if p.wr ≤ bx then none else s.coreOfIndex (pidOf ck) (rk / 12 * 12 + p.rx0 + bx) (s.localIndex ck)

/-- The core in whose position's shadow store the image of a core stands; none where it stands in a rim image (R370, R381). -/
def State.imageKeeper (s : State) (ck : Nat) : Option Nat :=
  (s.buddyOf ck).filter fun b => !(s.region (s.rkOf b)).rimImgOf.contains ck

/-- The logical cores seated on a physical core of whatever partition holds it. -/
def State.seatedAt (s : State) (p : Nat) : List Nat :=
  match (s.region (p / 8 / 36)).pid with
  | some pid => s.seatedOn pid p
  | none => []

/-- What a line of a physical core's local store holds (array 0), or of its shadow store (array 1): that of the core seated there, of
a core that has the shadow half as its local store (R381), or the image of the seated core's buddy (R370). -/
def State.storeLine (s : State) (p array l : Nat) : Option Nat :=
  let cks := s.seatedAt p
  if array = 0 then (cks.find? fun ck => !(s.core ck).shadow).map fun ck => localFlat ck (128 * l)
  else match cks.find? fun ck => (s.core ck).shadow, cks.head? with
    | some ck, _ => some (localFlat ck (128 * l))
    | none, some ck => ((s.buddyOf ck).filter fun b => decide (s.imageKeeper b = some ck)).map fun b => imageFlat b (128 * l)
    | none, none => none

/-- What word `col` of a row of a bank holds. -/
def State.heldAt (s : State) (u : ErrUnit) (array bank row col : Nat) : Held :=
  match u with
  | .core p =>
    if array < 2 then
      match s.storeLine p array (16 * row + bank) with
      | some a => .word (a / 8 + col)
      | none => .nothing
    else
      let r := 2 * row + bank
      match (s.seatedAt p).head? with
      | some ck =>
        if 576 ≤ r then .nothing
        else if r % 36 < 32 then .vreg (sidOf ck (r / 36)) (Fin.ofNat 8 (r % 36 / 4)) (16 * (r % 4) + col)
        else .kreg (sidOf ck (r / 36)) (Fin.ofNat 4 (r % 36 - 32)) col
      | none => .nothing
  | .group p =>
    match (s.region (p / 36)).pid.bind fun pid => s.groupOfKey pid p with
    | none => .nothing
    | some gk =>
      let r := 512 * bank + row
      if array = 3 then .slot gk (r / 128) (16 * (r % 128) + col)
      else if array = 4 ∧ r < 256 then .buf gk (decide (128 ≤ r)) (r % 128) col
      else if array = 4 ∧ r < 384 ∧ 16 * (r % 8) + col < 65 then .check gk ((r - 256) / 8) (16 * (r % 8) + col)
      else .other gk array

/-! ## Damage -/

/-- A vector register is poisoned in a context. -/
def Ctx.poisonV (c : Ctx) (n : Fin 8) : Ctx := { c with v := c.v.set n { c.v[n] with p := true } }
/-- A mask register is poisoned in a context. -/
def Ctx.poisonK (c : Ctx) (n : Fin 4) : Ctx := { c with k := c.k.set n { c.k[n] with p := true } }
/-- Change every context that still holds a register's value as it stands. -/
def Strand.inCtxs (x : Strand) (same : Ctx → Bool) (f : Ctx → Ctx) : Strand :=
  let g := fun (c : Ctx) => if same c then f c else c
  { x with ctx := g x.ctx, start := g x.start, waitFrom := x.waitFrom.map g, await := x.await.map fun p => (g p.1, p.2) }

/-- An accumulator slot of a group changes. -/
def State.updSlot (s : State) (gk t : Nat) (f : Slot → Slot) : State :=
  s.updData gk fun g => { g with slots := g.slots.put t (f (g.slots.getD t Slot.reset)) }
/-- An operand buffer of a group changes. -/
def State.updBuf (s : State) (gk : Nat) (b : Bool) (f : Buf → Buf) : State :=
  s.updData gk fun g => if b then { g with bufB := f g.bufB } else { g with bufA := f g.bufA }

/-- Bits of a 32-bit cell of a slot flip. -/
def Slot.flipKey (x : Slot) (key bit : Nat) : Slot := { x with cells := x.cells.put key (x.cells.getD key 0 ^^^ BitVec.twoPow 32 bit) }

/-- The key of the n-th of the 129 checksum cells of a slot: the checksum column, then the checksum row with its corner (R156). -/
def checkKey (n : Nat) : Nat := if n < 64 then 65 * n + 64 else 65 * 64 + (n - 64)

/-- A data bit of a 64-bit word flips in what the word holds; the mark of a word of memory is its bit 64. The other marks follow
from their words (`flipMark`), and a parity bit is nothing but a cell. -/
def State.flipHeld (s : State) (h : Held) (bit : Nat) : State :=
  match h with
  | .word w =>
    if bit = 64 then { s with poison := setMark s.poison w (!hasNat s.poison w) }
    else if bit = 65 then s
    else s.poke (8 * w) 8 (s.load (8 * w) 8 ^^^ 2 ^ bit)
  | .vreg sid n i =>
    let r := (s.strand sid).ctx.v[n]
    if 64 ≤ bit then s
    else s.updStrand sid fun x => x.inCtxs (fun c => c.v[n] == r) fun c => { c with v := c.v.set n { r with d := r.d ^^^ BitVec.twoPow 4096 (64 * i + bit) } }
  | .kreg sid n i =>
    let r := (s.strand sid).ctx.k[n]
    if 64 ≤ bit then s
    else s.updStrand sid fun x => x.inCtxs (fun c => c.k[n] == r) fun c => { c with k := c.k.set n { r with d := r.d ^^^ BitVec.twoPow 1024 (64 * i + bit) } }
  | .slot gk t i => if 64 ≤ bit then s else s.updSlot gk t fun x => x.flipKey (65 * (i / 32) + 2 * (i % 32) + bit / 32) (bit % 32)
  | .check gk t i => if 64 ≤ bit ∨ 129 ≤ 2 * i + bit / 32 then s else s.updSlot gk t fun x => x.flipKey (checkKey (2 * i + bit / 32)) (bit % 32)
  | .buf gk b row i =>
    if 64 ≤ bit then s
    else s.updBuf gk b fun x => { x with rows := x.rows.put row (x.rows.getD row 0 ^^^ BitVec.twoPow 1024 (64 * i + bit)) }
  | .other _ _ => s
  | .nothing => s

/-- What a word belongs to as far as its mark goes: the first word of its register, slot or buffer. -/
def Held.whole (h : Held) : Held :=
  match h with
  | .vreg sid n _ => .vreg sid n 0
  | .kreg sid n _ => .kreg sid n 0
  | .slot gk t _ => .slot gk t 0
  | .check gk t _ => .slot gk t 0
  | .buf gk b _ _ => .buf gk b 0 0
  | h => h

/-- Whether a word's mark is its own, or nothing. -/
def Held.ownsMark (h : Held) : Bool :=
  match h with
  | .word _ | .other _ _ | .nothing => true
  | _ => false

/-- The mark of the register, slot or buffer that a word belongs to: the words of one carry one mark in State. -/
def State.wholeMark (s : State) (h : Held) : Bool :=
  match h with
  | .vreg sid n _ => (s.strand sid).ctx.v[n].p
  | .kreg sid n _ => (s.strand sid).ctx.k[n].p
  | .slot gk t _ => ((s.group gk).data.slotAt t).mark
  | .check gk t _ => ((s.group gk).data.slotAt t).mark
  | .buf gk b _ _ => (if b then (s.group gk).data.bufB else (s.group gk).data.bufA).mark
  | _ => false

/-- The mark of a register, slot or buffer is set or cleared. -/
def State.setWhole (s : State) (h : Held) (m : Bool) : State :=
  match h with
  | .vreg sid n _ => let r := (s.strand sid).ctx.v[n]; s.updStrand sid fun x => x.inCtxs (fun c => c.v[n] == r) fun c => { c with v := c.v.set n { r with p := m } }
  | .kreg sid n _ => let r := (s.strand sid).ctx.k[n]; s.updStrand sid fun x => x.inCtxs (fun c => c.k[n] == r) fun c => { c with k := c.k.set n { r with p := m } }
  | .slot gk t _ => s.updSlot gk t fun x => { x with mark := m }
  | .check gk t _ => s.updSlot gk t fun x => { x with mark := m }
  | .buf gk b _ _ => s.updBuf gk b fun x => { x with mark := m }
  | _ => s

/-- The n-th element of the queues in a group's pool is poisoned, and the reply of the n-th result in its cache: which of them stands in
a word of arrays 5 and 6 the spec does not say (log 64). -/
def State.poisonOther (s : State) (gk array n : Nat) : State :=
  if array = 5 then
    let qs := (groupCores gk).flatMap fun ck => (s.core ck).inbox.map fun p => (ck, p.1)
    match qs[n % max 1 qs.length]? with
    | some (ck, i) => s.updCore ck fun c =>
        { c with inbox := c.inbox.alter i fun (q : Queue) => { q with elems := q.elems.modifyHead fun e => { e with mark := true } } }
    | none => s
  else if array = 6 then
    s.updData gk fun g =>
      { g with own := { g.own with cache := g.own.cache.modify (n % max 1 g.own.cache.length) fun e => { e with reply := { e.reply with mark := true } } } }
  else s

/-- A word is poisoned (R353). -/
def State.poisonHeld (s : State) (h : Held) : State :=
  match h with
  | .word w => { s with poison := insertNat s.poison w }
  | .other gk a => (s.poisonOther gk a (Config.choice s.fresh)).bump
  | h => s.setWhole h true

/-! ## Words and column groups (R349, R352-R354) -/

/-- A word of an array, a vertical parity word among them: a cell of it with bit 0. -/
def Cell.word (c : Cell) : Cell := { c with bit := 0 }

/-- The bits in which a word differs from its coded content. -/
def State.wordDiff (s : State) (u : ErrUnit) (w : Cell) : List Nat := ((s.unit (unitKey u)).flips.filter fun c => c.word == w).map Cell.bit

/-- What a word of a unit holds. -/
def State.held_ (s : State) (u : ErrUnit) (w : Cell) : Held := s.heldAt u w.array w.bank w.row w.col

/-- The words of a unit in which some cell differs. -/
def State.flippedWords (s : State) (u : ErrUnit) : List Cell := ((s.unit (unitKey u)).flips.map Cell.word).eraseDups

/-- The mark cell of a word of a register, slot or buffer flips. The whole is marked while one of its words is: a first flip sets
its mark, and the mark falls with the last flip unless something else has set it. -/
def State.flipMark (s : State) (u : ErrUnit) (w : Cell) : State :=
  let k := unitKey u
  let h := s.held_ u w
  if h.ownsMark then s.flipHeld h 64
  else
    let mine := fun (b : Cell) => decide ((s.held_ u b).whole = h.whole)
    let rest := (s.flippedWords u).filter fun b => b != w && !b.par && mine b && (s.wordDiff u b).contains 64
    if !s.wholeMark h then (s.setWhole h true).updUnit k fun y => { y with bare := y.bare ++ [w] }
    else if !(s.unit k).bare.any mine ∨ 64 ∉ s.wordDiff u w then s
    else match rest with
      | [] => (s.setWhole h false).updUnit k fun y => { y with bare := y.bare.filter fun b => !mine b }
      | b :: _ => s.updUnit k fun y => { y with bare := (y.bare.filter fun b => !mine b) ++ [b] }

/-- A bit of a word flips in what it holds. -/
def State.flipBit (s : State) (u : ErrUnit) (w : Cell) (bit : Nat) : State :=
  if bit = 64 then s.flipMark u w else s.flipHeld (s.held_ u w) bit

/-- A cell that soft errors disturb holds the other value from then on; what it holds of is changed with it. -/
def State.flipCell (s : State) (u : ErrUnit) (c : Cell) : State :=
  (if c.par then s else s.flipBit u c.word c.bit).updUnit (unitKey u) fun y =>
    { y with flips := if c ∈ y.flips then y.flips.erase c else y.flips ++ [c] }

/-- Soft errors strike a cell. -/
def State.strike (s : State) (d : Disturbance) : State := if disturbanceFits d then s.flipCell d.unit_ (cellAt d) else s

/-- A word fails its horizontal parity: an odd number of its cells differ. -/
def State.wordFails (s : State) (u : ErrUnit) (w : Cell) : Bool := (s.wordDiff u w).length % 2 == 1

/-- The column group of a word: its 32 words. -/
def groupWords (w : Cell) : List Cell :=
  let j := if w.par then w.row else w.row / 32
  (List.range 32).map fun i => { w with par := false, row := 32 * j + i, bit := 0 }

/-- The vertical parity word of a word's column group. -/
def parityWord (w : Cell) : Cell := if w.par then w else { w with par := true, row := w.row / 32, bit := 0 }

/-- The bits that stand in an odd number of lists: the XOR of differences. -/
def xorBits (ls : List (List Nat)) : List Nat := (List.range 66).filter fun b => ls.flatten.count b % 2 == 1

/-- A word's difference becomes another one, its content left as it is: what it holds counts as coded but for these bits. -/
def State.setDiff (s : State) (u : ErrUnit) (w : Cell) (bs : List Nat) : State :=
  s.updUnit (unitKey u) fun y =>
    { y with flips := (y.flips.filter fun c => c.word != w) ++ bs.map fun b => { w with bit := b },
             bare := if 64 ∈ bs then y.bare else y.bare.filter fun b => b != w }

/-- The vertical parity word of a column group is recomputed from what its words hold: what differs in them stands in it too. -/
def State.recompute (s : State) (u : ErrUnit) (w : Cell) : State :=
  s.setDiff u (parityWord w) (xorBits ((groupWords w).map (s.wordDiff u)))

/-- The row key of a word's row (Table 14-2). -/
def wordKey (w : Cell) : Nat := rowKey w.array w.bank w.par w.row

/-- Words of one column group are marked uncorrectable: written back as read with their poison marks set, the vertical parity word
recomputed, one event counted and reported (R353). A word that is `written` anew in the same access is not marked. -/
def State.condemn (s : State) (u : ErrUnit) (w : Cell) (detail : Nat) (written : Option Cell) (ws : List Cell) : State :=
  let s1 := ws.foldl (fun s x =>
    let h := s.held_ u x
    let s1 := if written = some x then s
      else (s.poisonHeld h).updUnit (unitKey u) fun y => { y with bare := y.bare.filter fun b => decide ((s.held_ u b).whole ≠ h.whole) }
    s1.setDiff u x []) s
  (s1.recompute u w).logUncorrectable u (wordKey w) w.col detail ws.length

/-- A word that fails its parity is found by a read (detail 1) or a scrub (detail 2): rebuilt from the rest of its column group and
written back, or marked uncorrectable; a vertical parity word is recomputed (R352, R353). Where the access that found it has `written`
it anew, only its parity and its count follow. -/
def State.rebuildAs (s : State) (u : ErrUnit) (detail : Nat) (written : Bool) (w : Cell) : State :=
  if w.par then (s.recompute u w).logCorrected u (wordKey w)
  else
    let fails := (groupWords w).filter (s.wordFails u)
    let others := (groupWords w).filter fun x => x != w
    let d := xorBits (s.wordDiff u (parityWord w) :: others.map (s.wordDiff u))
    if fails = [w] ∧ d.length % 2 = 0 then
      let s1 := if written then s else (xorBits [s.wordDiff u w, d]).foldl (fun s b => s.flipBit u w b) s
      (s1.setDiff u w d).logCorrected u (wordKey w)
    else s.condemn u w detail (if written then some w else none) fails

/-- A word that fails its parity is rebuilt. -/
def State.rebuild (s : State) (u : ErrUnit) (detail : Nat) (w : Cell) : State := s.rebuildAs u detail false w

/-- A column group is scrubbed: a failing word is rebuilt, or the failing ones condemned; a failing vertical parity word is recomputed;
where none fails and the vertical parity does not match, all 32 words are condemned (R352-R354). -/
def State.scrubGroup (s : State) (u : ErrUnit) (w : Cell) : State :=
  let p := parityWord w
  match (groupWords w).filter (s.wordFails u) with
  | x :: _ => s.rebuild u 2 x
  | [] =>
    if s.wordFails u p then s.rebuild u 2 p
    else if xorBits (s.wordDiff u p :: (groupWords w).map (s.wordDiff u)) = [] then s
    else s.condemn u { w with par := false, row := 32 * p.row } 2 none (groupWords w)

/-- A read meets the words of a unit that hold something of a kind: those that fail their parity are rebuilt (R351). -/
def State.senseUnit (s : State) (u : ErrUnit) (p : Held → Bool) : State :=
  (s.flippedWords u).foldl (fun s w => if !w.par && s.wordFails u w && p (s.held_ u w) then s.rebuild u 1 w else s) s

/-- A word that is written anew: what differs in its old content passes into the vertical parity word with it (R351). -/
def State.passDiff (s : State) (u : ErrUnit) (w : Cell) : State :=
  (s.setDiff u (parityWord w) (xorBits [s.wordDiff u (parityWord w), s.wordDiff u w])).setDiff u w []

/-- Words are written: what differs in the old content passes into the vertical parity words with it (R351). The writes of a whole
row and of less of it alike have read the old content. -/
def State.overwriteUnit (s : State) (u : ErrUnit) (p : Held → Bool) : State :=
  (s.flippedWords u).foldl (fun s w =>
    if !w.par && p (s.held_ u w) then s.passDiff u w else s) (s.senseUnit u p)

/-- A read of something in a queue pool, a result cache or a lock table of a group (R351; log 64). -/
def State.senseGroup (s : State) (gk array : Nat) : State :=
  let u : ErrUnit := .group (s.groupKey gk)
  if (s.flippedWords u).all fun w => w.array != array then s
  else ((s.flippedWords u).foldl (fun s w =>
    if w.array == array && !w.par && s.wordFails u w && Config.readsWord s.fresh then s.rebuild u 1 w else s) s).bump

/-- A read of an owner's result cache (array 6) or lock table (array 7); a rim channel's are no coded array. -/
def State.senseOwner (s : State) (w : Owner) (array : Nat) : State :=
  match w with
  | .group gk => s.senseGroup gk array
  | _ => s

/-- The 64 data bits of a word of a register, slot or buffer. -/
def State.contentOf (s : State) (h : Held) : Nat :=
  match h with
  | .vreg sid n i => ((s.strand sid).ctx.v[n].d.extractLsb' (64 * i) 64).toNat
  | .kreg sid n i => ((s.strand sid).ctx.k[n].d.extractLsb' (64 * i) 64).toNat
  | .slot gk t i =>
    let x := (s.group gk).data.slotAt t
    let key := 65 * (i / 32) + 2 * (i % 32)
    (x.cells.getD key 0).toNat + 2 ^ 32 * (x.cells.getD (key + 1) 0).toNat
  | .check gk t i =>
    let x := (s.group gk).data.slotAt t
    (x.cells.getD (checkKey (2 * i)) 0).toNat + 2 ^ 32 * (x.cells.getD (checkKey (2 * i + 1)) 0).toNat
  | .buf gk b row i => (((if b then (s.group gk).data.bufB else (s.group gk).data.bufA).rows.getD row 0).extractLsb' (64 * i) 64).toNat
  | _ => 0

/-- A disturbed word of a register, slot or buffer that what has happened since `s0` wrote anew: its old content was read, and its
failure found, in that write (R351). -/
def State.renewWord (s0 s : State) (u : ErrUnit) (w : Cell) : State :=
  let h := s.held_ u w
  if w.par ∨ s0.held_ u w ≠ h ∨ s0.wordDiff u w ≠ s.wordDiff u w ∨ s0.contentOf h = s.contentOf h then s
  else (if s.wordFails u w then s.rebuildAs u 1 true w else s).passDiff u w

/-- What has happened since `s0` takes the disturbed words that it wrote with it. -/
def State.renewed (s0 s : State) : State :=
  s.units.foldl (fun s p => if p.2.flips.isEmpty then s else (s.flippedWords (unitOfKey p.1)).foldl (fun s w => s0.renewWord s (unitOfKey p.1) w) s) s

/-- The pending error of a strand whose access found a register uncorrectable: DESIGN CHOICE (log 65), with address 0, as a register
has none. -/
def Strand.noteRegisters (x y : Strand) : Strand :=
  let bad := (List.finRange 8).any (fun n => y.ctx.v[n].p && !x.ctx.v[n].p) || (List.finRange 4).any fun n => y.ctx.k[n].p && !x.ctx.k[n].p
  if bad && !y.ctx.pe.set then { y with ctx := { y.ctx with pe := { set := true, pc := y.ctx.pc, addr := 0 } } } else y

/-- A strand's registers in the vector file are read (R351; log 65). -/
def State.senseStrand (s : State) (sid : Nat) : State :=
  let s1 := s.senseUnit (.core (s.core (ckOf sid)).physPlace) fun h => match h with
    | .vreg k _ _ => k == sid
    | .kreg k _ _ => k == sid
    | _ => false
  s1.updStrand sid fun y => (s.strand sid).noteRegisters y

/-- The accumulators, their checksums and the operand buffers of a group are read (R351, R363; log 65). -/
def State.senseArray (s : State) (gk : Nat) : State :=
  s.senseUnit (.group (s.groupKey gk)) fun h => match h with
    | .slot _ _ _ => true
    | .check _ _ _ => true
    | .buf _ _ _ _ => true
    | _ => false

/-- What a group's checkpoint record holds is read as it is copied (R351, R369). -/
def State.senseRecord (s : State) (gk : Nat) : State :=
  (groupCores gk).foldl (fun s ck => s.senseUnit (.core (s.core ck).physPlace) fun h => match h with
    | .vreg _ _ _ => true
    | .kreg _ _ _ => true
    | _ => false) (s.senseUnit (.group (s.groupKey gk)) fun _ => true)

/-- Disturbed words of the task tables are found by the dispatchers, which read them at all times (R262, R351; log 65). -/
def State.senseTables (s : State) : State :=
  s.units.foldl (fun s p => if p.2.flips.isEmpty then s
    else s.senseUnit (unitOfKey p.1) fun h => match h with
      | .word w => decide (8 * w < 2 ^ 52) && (s.partOf (ckOfFlat (8 * w))).inTable (8 * w % 2 ^ 20) 8
      | _ => false) s

/-- Everything in the coded arrays of a partition's place is read (R351). -/
def State.sensePart (s : State) (pid : Nat) : State :=
  let us : List ErrUnit := (s.partGroups pid).map (fun gk => .group (s.groupKey gk)) ++ (s.partCores pid).map fun ck => .core (s.core ck).physPlace
  us.foldl (fun s u => s.senseUnit u fun _ => true) s

/-- What a unit holds is written anew: its old content is read on the way (R351). -/
def State.renewUnit (s : State) (u : ErrUnit) : State := s.overwriteUnit u fun _ => true

/-- What the coded arrays of a region hold is written anew. -/
def State.renewRegion (s : State) (rk : Nat) : State :=
  s.units.foldl (fun s p => if (unitSite (unitOfKey p.1)).1 = rk then s.renewUnit (unitOfKey p.1) else s) s

/-! ## Rim codewords (R357, R361) -/

/-- Whether a partition's channels include a channel: those whose world it may use (R320). -/
def State.holdsChannel (s : State) (pid c : Nat) : Bool := (s.part pid).live && ((s.part pid).secure || !(s.channel c).secure)

/-- The partition to which a rim report of no reader goes, if any. -/
def State.channelPart (s : State) (c : Nat) : Option Nat := (s.parts.map Prod.fst).find? fun pid => s.holdsChannel pid c

/-- A rim report: to the region of the core that read, or to the first region of the partition that holds the channel. -/
def State.rimReport (s : State) (c : Nat) (reader : Option Nat) (cause detail line : Nat) : State :=
  let data := leBytes 8 (line * 128) ++ [BitVec.ofNat 8 c]
  match reader with
  | some ck => s.report cause detail ck data
  | none => match s.channelPart c with
    | some pid => s.report cause detail (s.supCore pid ((s.part pid).ry0 * 12 + (s.part pid).rx0)) data
    | none => s

/-- The errors of a byte of a codeword with one more pattern. -/
def byteErrs (l : List (Nat × BitVec 8)) (i : Nat) (p : BitVec 8) : List (Nat × BitVec 8) :=
  let e := ((l.find? fun q => q.1 == i).map Prod.snd).getD 0 ^^^ p
  (l.filter fun q => q.1 != i) ++ if e = 0 then [] else [(i, e)]

/-- Soft errors strike a byte of a rim line's codeword. -/
def State.strikeRim (s : State) (u : Nat × Nat × BitVec 8) : State :=
  if 24 * 2 ^ 29 ≤ u.1 ∨ 144 ≤ u.2.1 then s
  else s.updChannel (u.1 / 2 ^ 29) fun x => { x with upsets := x.upsets.put u.1 (byteErrs (x.upsets.getD u.1 []) u.2.1 u.2.2) }

/-- A rim line is read: up to 6 erroneous bytes of its codeword are corrected; with more it is uncorrectable, delivered as it stands
with every word poisoned, and rewritten so (R361; more than 8 bytes: log 66). -/
def State.rebuildRim (s : State) (line : Nat) (reader : Option Nat) (detail : Nat) : State :=
  let c := line / 2 ^ 29
  let es := (s.channel c).upsets.getD line []
  let s0 := s.updChannel c fun x => { x with upsets := x.upsets.del line }
  if es = [] then s
  else if es.length ≤ 6 then s0.updChannel c fun x => { x with rcorr := x.rcorr + BitVec.ofNat 64 es.length }
  else
    let a := rimFlat (line * 128)
    let s1 := (es.filter fun e => decide (e.1 < 128)).foldl (fun (s : State) e => s.pokeList (a + e.1) [memRead s.mem (a + e.1) ^^^ e.2]) s0
    let s2 := { s1 with poison := (List.range 16).foldl (fun p i => insertNat p (a / 8 + i)) s1.poison }
    (s2.updChannel c fun x => { x with runc := x.runc + 1, rlast := BitVec.ofNat 64 (line * 128) }).rimReport c reader 0x45 detail line

/-! ## A line is read or written -/

/-- Where a line stands: the local store of a core, in the shadow half of its position where that is what it has (R381), the image of a
core, or a rim line. -/
inductive LineHome where
  | store (p : Nat)
  | rim (line : Nat)
  | none_
  deriving DecidableEq, Repr

/-- Where a line stands. -/
def State.homeOf (s : State) (line : Nat) : LineHome :=
  let a := 128 * line
  if a < 2 ^ 52 then .store (s.core (line / 2 ^ 13)).physPlace
  else if a < 2 ^ 53 then .rim ((a - 2 ^ 52) / 128)
  else if a < 2 ^ 54 then .none_
  else if a < 2 ^ 55 then match s.imageKeeper ((a - 2 ^ 54) / 2 ^ 20) with
    | some b => .store (s.core b).physPlace
    | none => .none_
  else .none_

/-- Whether a word lies among `n` bytes at `a`. -/
def inBytes (a n : Nat) (h : Held) : Bool :=
  match h with
  | .word w => decide (8 * w < a + n ∧ a < 8 * w + 8)
  | _ => false

/-- The check of a line as it is read (R351, R361): `reader` is the core that reads it, or whose engine or page walker does (R357). -/
def State.sense (s : State) (reader : Option Nat) (line : Nat) : State :=
  match s.homeOf line with
  | .store p => s.senseUnit (.core p) (inBytes (128 * line) 128)
  | .rim l => s.rebuildRim l reader 1
  | .none_ => s

/-- What a write of `n` bytes of one line finds there and takes with it: the old content is read (R351), of a rim line only where it is
not written as a whole (R361). -/
def State.overwrite (s : State) (writer : Option Nat) (a n : Nat) : State :=
  match s.homeOf (a / 128) with
  | .store p => s.overwriteUnit (.core p) (inBytes a n)
  | .rim l => if n = 128 then s.updChannel (l / 2 ^ 29) fun x => { x with upsets := x.upsets.del l } else s.rebuildRim l writer 1
  | .none_ => s

/-- The lines that `n` bytes at `a` touch are read. -/
def State.senseAll (s : State) (reader : Option Nat) (a n : Nat) : State :=
  (splitLines a n).foldl (fun s q => s.sense reader (q.1 / 128)) s

/-- What a write of bytes finds in each of the lines it touches. -/
def State.overwriteAll (s : State) (writer : Option Nat) (a n : Nat) : State :=
  (splitLines a n).foldl (fun s q => s.overwrite writer q.1 q.2) s

/-! ## What soft errors and failing checks do between events (R348-R361; log 11) -/

/-- A word of an instruction cache line fails its parity: the line is invalidated and fetched again, as a slip (R358). -/
def State.dropCodeLine (s : State) (q : Nat × Nat) : State := s.updGroup q.1 fun g => { g with icache := g.icache.eraseIdx q.2 }

/-- An entry of a translation cache of a core, a group or a region fails its parity: it is dropped and walked again (R177, R358). -/
def State.dropTlb (s : State) (q : Nat × Nat × Nat) : State :=
  match q.1 with
  | 0 => s.updCore q.2.1 fun c => { c with tlb := c.tlb.eraseIdx q.2.2 }
  | 1 => s.updGroup q.2.1 fun g => { g with tlb := g.tlb.eraseIdx q.2.2 }
  | _ => s.updRegion q.2.1 fun r => { r with tlb := r.tlb.eraseIdx q.2.2 }

end Sys2Proof.Machine
end

