-- ==== Sys2Proof/Machine/Ops.lean ====
section
/-! DEFINITION. The shared operations of a strand: taking a fault (the machine's exception entry) and the
return from it, squashing, results in flight and their landing, waiting and waking, remote requests, reads
and writes of the open chunk, and the placing of a write in the single order. -/

namespace Sys2Proof.Machine

/-! ## Results in flight (R31-R36) -/

/-- The units that an unlanded result keeps from landing: its own (R32), and behind a vector load whose window is over the
vector unit too, so that of two results that become visible together the later-issued one stands (R119, R143). -/
def Flight.blocks (f : Flight) : List FUnit :=
  if f.left = 0 ∧ !f.arrived ∧ (f.unit = .vm ∨ (f.unit = .mx ∧ !f.port)) then [.vm, .mx, .vx] else [f.unit]

/-- Split results into those that stay in flight and those that land: a result lands when its bundles have
passed, it has arrived, and no earlier result that it must follow is still in flight (R32, R34). -/
def landScan : List Flight → List FUnit → List Flight × List Flight
  | [], _ => ([], [])
  | f :: r, blocked =>
    if decide (f.left = 0) && f.arrived && !(blocked.contains f.unit) then
      let p := landScan r blocked
      (p.1, f :: p.2)
    else
      let p := landScan r (f.blocks ++ blocked)
      (f :: p.1, p.2)

/-- Whether a write sets the pending error. -/
def Wr.isPe : Wr → Bool
  | .pe _ _ => true
  | _ => false

/-- The first access that met poison, unless one is recorded already (R212). -/
def PendingError.note (e : PendingError) (acts : List Wr) : PendingError :=
  if e.set then e
  else (acts.findSome? fun w => match w with
    | .pe pc a => some { set := true, pc := pc, addr := a }
    | _ => none).getD e

/-- One write of a landing result. -/
def Strand.apply (x : Strand) (w : Wr) : Strand :=
  let c := x.ctx
  match w with
  | .latch l r => { x with ctx := c.setLatch l r }
  | .g n r => { x with ctx := c.setG n r }
  | .pw w => { x with ctx := c.setPw w }
  | .pbit n b => { x with ctx := c.setPred n.val b }
  | .vt w => { x with ctx := { c with vt := w } }
  | .v n r => { x with ctx := { c with v := c.v.set n r } }
  | .k n r => { x with ctx := { c with k := c.k.set n r } }
  | .vop q =>
    let o := evalVec q c.v c.k
    let c1 := { c with v := o.v.foldl (fun v p => v.set p.1 p.2) c.v, fx := c.fx ||| BitVec.ofNat 64 o.fl }
    let c2 := match o.k with
      | some p => { c1 with k := c1.k.set p.1 p.2 }
      | none => c1
    { x with ctx := match o.s with
      | some r => c2.setLatch .vxS r
      | none => c2 }
  | .mulacc tag prod mark =>
    let prev := c.latch .ibR
    { x with ctx := c.setLatch .ibR { v := make tag (prev.val + prod), p := mark || prev.p } }
  | .fmaOnto a b mode draw mark quiet =>
    let prev := c.latch .faR
    let q := fFma fp32 mode draw (fp32.decode a) (fp32.decode b) (fp32.decode (prev.val.toNat % 2 ^ 32))
    { x with ctx := { c.setLatch .faR (mk0 (BitVec.ofNat 64 q.bits) (mark || prev.p)) with fx := if quiet then c.fx else c.fx ||| BitVec.ofNat 64 q.fl } }
  | .mxSt clear set => { x with ctx := { c with mxSt := (c.mxSt &&& ~~~ clear) ||| set } }
  | .sqSt w => { x with ctx := { c with sqSt := w } }
  | .fx w => { x with ctx := { c with fx := c.fx ||| w } }
  | .pe _ _ => { x with ctx := { c with pe := c.pe.note [w] } }
  | .sysw r w =>
    match r with
    | 2 => { x with alarm := w &&& BitVec.ofNat 64 (2 ^ 63 - 1) }
    | 3 => { x with wcl := w }
    | 4 => { x with chl := w }
    | 5 => { x with tok := BitVec.ofNat 40 w.toNat }
    | 6 => { x with sn := BitVec.ofNat 32 w.toNat }
    | 7 => { x with floor := BitVec.ofNat 32 w.toNat }
    | 8 => { x with ag := w }
    | 12 => { x with ctx := { c with fx := w } }
    | 13 => { x with ctx := { c with rng := if w = 0 then 1 else w } }
    | 14 => { x with slips := BitVec.ofNat 32 w.toNat }
    | _ => x

/-- Whether a write is a move into `fx`: flags of results that land with it are raised on top (R110). -/
def Wr.isFxMove : Wr → Bool
  | .sysw r _ => decide (r = 12)
  | _ => false

/-- Land every result that can land, in issue order (R38). -/
def Strand.land (x : Strand) : Strand :=
  let p := landScan x.ctx.flights []
  let ws := p.2.flatMap Flight.acts
  ((ws.filter Wr.isFxMove) ++ (ws.filter fun w => !w.isFxMove)).foldl Strand.apply { x with ctx := { x.ctx with flights := p.1 } }

/-- Count one bundle for every result in flight. -/
def Ctx.tick (c : Ctx) : Ctx := { c with flights := c.flights.map fun f => { f with left := f.left - 1 } }

/-- One of the strand's bundles ends: results are counted and land (R31). -/
def Strand.bundleEnd (x : Strand) : Strand := Strand.land { x with ctx := x.ctx.tick }

/-- The first result whose window is over and which has not arrived. -/
def Ctx.overdue (c : Ctx) : Option Flight := c.flights.find? fun f => decide (f.left = 0) && !f.arrived

/-! ## Waking (R255, R256) -/

/-- Whether a state is one of waiting or stalling, which a wake leaves (Table 10-1). -/
def SState.waits : SState → Bool
  | .stalledLA | .stalledStream | .waitMonitor | .waitBarrier | .waitQueue | .waitLease | .waitSet | .slip => true
  | _ => false

/-- The wake condition of a wait holds: the strand becomes ready, or records ready while it is stopped or
frozen (R255, R256). -/
def Strand.wake (x : Strand) : Strand :=
  match x.st with
  | .stopped => if x.recorded.waits then { x with recorded := .ready } else x
  | .frozen =>
    if x.frozenFrom.waits then { x with frozenFrom := .ready }
    else if x.frozenFrom = .stopped ∧ x.recorded.waits then { x with recorded := .ready }
    else x
  | st => if st.waits then { x with st := .ready } else x

/-- Wake a strand. -/
def State.wake (s : State) (sid : Nat) : State := s.updStrand sid Strand.wake

/-- The reasons for which a bundle is held back until it can issue: it is tried again after any change. -/
def Why.retries : Why → Bool
  | .chunkAwait | .effect | .fence | .done | .scoreboard | .serial | .engine | .completion | .pool => true
  | _ => false

/-- Let a strand's held bundle test its condition again: an effect, a push and a fence through events of their
own. -/
def State.retryStrand (s : State) (sid : Nat) : State :=
  match (s.strand sid).why with
  | .effect => s.pushOnce (.effectIssue sid)
  | .engine => s.pushOnce (.cePushAccept sid)
  | .fence => s.pushOnce (.fenceCheck sid)
  | w => if w.retries then s.wake sid else s

/-- Let the held bundles of the other strands of a strand's core test their conditions again. -/
def State.retryOthers (s : State) (sid : Nat) : State :=
  ((coreStrands (ckOf sid)).filter fun n => n != sid).foldl State.retryStrand s

/-- Let the held bundles of a core test their conditions again, and its array the commands that wait. -/
def State.retry (s : State) (ck : Nat) : State :=
  let s1 := (coreStrands ck).foldl State.retryStrand s
  if (s1.group (gkOf ck)).arriving = [] then s1 else s1.pushOnce (.mxCommandAccept (gkOf ck))

/-! ## Squash (R204) -/

/-- A strand put back to a context: its open chunk is discarded, and results whose bundles have passed and that have
arrived meanwhile are visible there. DESIGN CHOICE: `chl` is not among what R204 restores, so the chunk runs again at the length that
stands there now (log 84). -/
def Strand.restart (x : Strand) (c : Ctx) : Strand :=
  let y := Strand.land
    { x with
      ctx := c, chunk := { Chunk.empty with limit := bitsAt x.chl 10 0 }, prefixed := none, branch := none, effIssue := false,
      closes := false, asking := [] }
  { y with start := y.ctx }

/-- A waiting effect that has no place yet is given up, with the records that its bundle would log. -/
def Strand.forgetWait (x : Strand) : Strand :=
  if x.waitFrom.isSome then { x with effect := none, waitFrom := none, waitLog := [] } else x

/-- A strand put back to the start of its open chunk, or of a waiting effect that has no place yet. -/
def Strand.squashOpen (x : Strand) : Strand := x.forgetWait.restart (x.waitFrom.getD x.start)

/-- Serial mode is over (R205). -/
def Strand.endSerial (x : Strand) : Strand := { x with serialLeft := 0, serialRun := none }

/-- Give back the counts that drainv commands of a squashed chunk took from the lease (R150). -/
def State.giveBack (s : State) (sid n : Nat) : State :=
  if n = 0 then s
  else s.updData (gkOf (ckOf sid)) fun g =>
    if g.holder = some sid then { g with leaseLeft := g.leaseLeft + n } else g

/-- The strand waits for nothing any more: it leaves the group barrier, the exchange and the queues it had joined, and
the record it had claimed for a pop is free again, unless a request that names it is on its way (R135, R276, R288,
R292). -/
def State.withdraw (s : State) (sid : Nat) : State :=
  let x := s.strand sid
  let ck := ckOf sid
  if x.waitFrom.isNone then s
  else
    let leave := fun (q : Queue) => { q with waiters := q.waiters.filter fun w => w != sid }
    x.ctx.flights.foldl (fun s f =>
      if f.arrived then s
      else match f.pend with
      | .gbar => s.updData (gkOf ck) fun g => { g with gbar := g.gbar.mapAll fun _ l => eraseNat l sid }
      | .xchg .. => s.updData (gkOf ck) fun g => { g with xchg := g.xchg.mapAll fun _ l => eraseNat l sid }
      | .queue _ _ _ _ _ claim =>
        let s1 := s.updCore ck fun c =>
          { c with inbox := c.inbox.mapAll fun _ q => leave q,
                   claims := if x.reqs.any fun r => r.seq == f.seq then c.claims else c.claims.filter fun j => claim != some j }
        let s2 := s1.updRegion (s.rkOf ck) fun r => { r with stages := r.stages.mapAll fun _ st => { st with q := leave st.q } }
        if claim.isSome then s2.pushOnce (.launchExpansion (pidOf ck) (s.rkOf ck)) else s2
      | _ => s) s

/-- Whether a request asks a slice elsewhere to decide its strand's chunk (R201, R202). -/
def Req.isCommit (q : Req) : Bool := match q.msg.op with | .commitAt _ => true | _ => false

/-- The slices at which a chunk had prepared forget it, with the answer they had given to its serial (R202, R220). -/
def State.unprepare (s : State) (sid : Nat) (k : Chunk) : State :=
  let pid := pidOf (ckOf sid)
  let tok := (s.strand sid).tok
  k.prepared.foldl (fun s r => s.updOwner (ownerOfRef r) fun o =>
    { o with slice := { o.slice with prep := o.slice.prep.filter fun p => p.1 != sid },
             cache := o.cache.filter fun e => !(e.pid == pid && e.tok == tok && k.serial == some e.sn) }) s

/-- A prepared chunk has committed: its slices hold nothing back any more (R202). -/
def State.unhold (s : State) (sid : Nat) (k : Chunk) : State :=
  k.prepared.foldl (fun s r => s.updOwner (ownerOfRef r) fun o => { o with slice := { o.slice with prep := o.slice.prep.filter fun p => p.1 != sid } }) s

/-- Count a squash by conflict at a chunk start; the fourth in a row turns on serial mode (R205). -/
def Strand.countSquash (x : Strand) (pc : BitVec 64) (len : Nat) : Strand :=
  let n := if x.squashPc = pc then x.squashes + 1 else 1
  if n < 4 then { x with squashPc := pc, squashes := n }
  else { x with squashPc := pc, squashes := 0, serialLeft := min len (bitsAt x.chl 10 0), serialRun := none }

/-- Squash the open chunk because a write met what it read or wrote; it runs again, and an effect that waits goes on
waiting (R203, R204, R207). -/
def State.squashConflict (s : State) (sid : Nat) : State :=
  let x := s.strand sid
  let y := (s.giveBack sid x.chunk.drainvs).updStrand sid fun z =>
    (z.restart z.start).countSquash x.start.pc (if x.chunk.len = 0 then 1 else bitsAt x.chl 10 0)
  (y.wake sid).retry (ckOf sid)

/-- A chunk awaiting commit is given up: the counts, the prepares and the serial it took return (R150, R202, R220). -/
def State.undoAwait (s : State) (sid : Nat) (k : Chunk) : State :=
  (((s.giveBack sid (s.strand sid).chunk.drainvs).giveBack sid k.drainvs).unprepare sid k).updStrand sid fun x =>
    { x with await := none, sn := k.serial.getD x.sn, reqs := x.reqs.filter fun q => !q.isCommit }

/-- Squash the chunk awaiting commit, and the open chunk with it (R204). -/
def State.squashAwait (s : State) (sid : Nat) : State :=
  match (s.strand sid).await with
  | none => s
  | some (c, k) =>
    let s2 := (s.undoAwait sid k).updStrand sid fun x => (x.restart c).countSquash c.pc k.len
    ((if (s.strand sid).stopping then s2.pushOnce (.weirCommitRequest sid) else s2).wake sid).retry (ckOf sid)

/-- Drop the chunk awaiting commit, and the open one, without counting a squash; a waiting effect goes back to its own
bundle. -/
def State.dropAwait (s : State) (sid : Nat) : State :=
  match (s.strand sid).await with
  | none => s
  | some (c, k) => ((s.withdraw sid).undoAwait sid k).updStrand sid fun x => x.forgetWait.restart (x.waitFrom.getD c)

/-- Squash the open chunk of a strand; a chunk awaiting commit that follows a waiting effect goes with it (R204, R206). -/
def State.squashOpen (s : State) (sid : Nat) : State :=
  let s1 := if (s.strand sid).waitFrom.isSome then s.dropAwait sid else s
  ((s1.withdraw sid).giveBack sid (s1.strand sid).chunk.drainvs).updStrand sid Strand.squashOpen

/-! ## Freezing: taking a fault (R13, R206, R255, R327) -/

/-- The cycles a strand's bound still has. -/
def State.boundLeft (s : State) (sid : Nat) : Nat :=
  let x := s.strand sid
  if x.bounded then x.bound - (s.cyc (ckOf sid) - x.since) else x.bound

/-- The outcome that a stepped strand reports (R278, R330). -/
def Strand.stepped (x : Strand) (kind : BitVec 4) (v : BitVec 32) : Strand :=
  if x.stepping then { x with stepKind := kind, stepVal := v } else x

/-- `Fault(c)`: the packet is built from the strand as it stands, the open chunk is squashed, and the
strand freezes with its state and the rest of its bound recorded. An idle strand does not freeze; a frozen
one sends a further packet (R328). -/
def State.freeze (s : State) (sid cause detail : Nat) (fpc : BitVec 64) (second : Bool) (serial : Nat)
    (data : List Byte) : State :=
  let x := s.strand sid
  if x.st = .idle then s
  else
    let pkt := s.faultPacket sid cause detail fpc second serial data
    let left := s.boundLeft sid
    let s1 := ((s.squashOpen sid).retryOthers sid).updStrand sid fun y =>
      { y.endSerial with
        st := .frozen, frozenFrom := if x.st = .frozen then x.frozenFrom else x.st, bound := left, bounded := false, stopping := false,
        stepping := false, cspc := x.packetStart, readyFrom := none }
    s1.sendPacket (pidOf (ckOf sid)) (s.rkOf (ckOf sid)) pkt

/-- A fault at issue: the word being executed is the one that caused it; the bundle does not issue. -/
def State.fault (s : State) (cause detail : Nat) (data : List Byte) : State :=
  { s.freeze s.cur cause detail s.ctx.pc s.second 0 data with held := true }

/-- The ten bytes of an address in packet data (Table 13-6). -/
def addrBytes (a : Reg80) : List Byte := leBytes 8 (valOf a).toNat ++ leBytes 2 (tagOf a).toNat

/-- A pointer rounded down to its line (R299). -/
def linePtr (a : Reg80) : Reg80 := make (tagOf a) (BitVec.ofNat 64 ((valOf a).toNat / 128 * 128))

/-- A fault at issue whose data is the word itself. -/
def State.faultWord (s : State) (cause : Nat) : State := s.fault cause 0 (leBytes 4 s.word.toNat)

/-- A fault at issue whose data is an address or operand; a privilege fault names the word (Table 13-6). -/
def State.faultAddr (s : State) (cause : Nat) (a : Reg80) : State :=
  if cause = causePrivilege then s.faultWord cause else s.fault cause 0 (addrBytes a)

/-! ## Waiting and waking (R34, R255-R257) -/

/-- The state in which a strand waits for a result (R34, R148, R273, R275, R288). -/
def Pend.state : Pend → SState
  | .lease _ => .waitLease
  | .barrier .. => .waitBarrier
  | .gbar => .waitBarrier
  | .xchg .. => .waitBarrier
  | .monitor => .waitMonitor
  | .queue .. => .waitQueue
  | _ => .stalledLA

/-- The strand's wait ceiling in cycles (R257). -/
def Strand.ceiling (x : Strand) : Nat := bitsAt x.wcl 23 0 * 256

/-- Whether a wait that begins is the one that a strand recorded as it was stopped or frozen (R255). -/
def Strand.resumes (x : Strand) (st : SState) (lim : Nat) : Bool := decide (lim ≠ 0) && x.carry.any fun p => decide (p.1 = st)

/-- The bound of a wait that begins: what is left of it where the strand resumes the same wait (R255, R331). -/
def Strand.waitBound (x : Strand) (st : SState) (lim : Nat) : Nat :=
  match x.carry with
  | some (_, n) => if x.resumes st lim then n else lim
  | none => lim

/-- Whether a state is one before which a chunk ends (R194). -/
def SState.endsChunk : SState → Bool
  | .waitMonitor | .waitBarrier | .waitQueue | .waitLease | .waitSet => true
  | _ => false

/-- Leave the rotation. A wait that goes on for the same reason keeps its bound (R255); serial mode ends where the squashed chunk
would have ended (R205). -/
def State.enterWait (s : State) (sid : Nat) (st : SState) (why : Why) (lim : Nat) : State :=
  let z := s.strand sid
  let x := if st.endsChunk then z.endSerial else z
  let y := if x.bounded ∧ x.why = why then { x with st := st }
    else { x with st := st, why := why, readyFrom := none, since := s.cyc (ckOf sid), bound := x.waitBound st lim, bounded := decide (lim ≠ 0),
                  carry := if x.resumes st lim then none else x.carry }
  let s1 := s.setStrand sid y
  if y.bounded then s1.pushOnce (.waitExpired sid) else s1

/-- Leave the rotation when a window is over and its result has not arrived (R34). -/
def State.stallIfOverdue (s : State) (sid : Nat) : State :=
  match (s.strand sid).ctx.overdue with
  | some f => s.enterWait sid f.pend.state (.window f.seq) f.lim
  | none => s

/-- A result arrives with what it writes. -/
def Flight.arrive (f : Flight) (seq : Nat) (acts : List Wr) : Flight :=
  if f.seq = seq ∧ ¬ f.arrived then { f with arrived := true, pend := .none, acts := f.acts ++ acts } else f

/-- A result arrives in a context; a poisoned word that it met sets the pending error at once (R212, R214). -/
def Ctx.arrive (c : Ctx) (seq : Nat) (acts : List Wr) : Ctx :=
  match c.flights.find? fun f => decide (f.seq = seq) && !f.arrived with
  | none => c
  | some f =>
    { c with
      pe := c.pe.note (f.acts ++ acts),
      flights := c.flights.map fun f =>
        let g := f.arrive seq acts
        if f.seq = seq then { g with acts := g.acts.filter fun w => !w.isPe } else g }

/-- A result arrives in every context that holds it in flight; an effect gets its place (R36, R207). -/
def Strand.arrive (x : Strand) (seq : Nat) (acts : List Wr) : Strand :=
  { x with
    ctx := x.ctx.arrive seq acts,
    start := x.start.arrive seq acts,
    await := x.await.map fun p => (p.1.arrive seq acts, p.2),
    waitFrom := if x.effect = some seq then none else x.waitFrom,
    effect := if x.effect = some seq then none else x.effect,
    carry := if x.effect = some seq then none else x.carry }

/-- After an arrival: land what can land, and wake a strand whose window was waiting for it. -/
def State.settle (s : State) (sid : Nat) : State :=
  let x := s.strand sid
  match x.why with
  | .window _ =>
    let y := x.land
    if y.ctx.overdue.isSome then s.setStrand sid y else s.setStrand sid y.wake
  | .ninth _ => s.setStrand sid x.land.wake
  | _ => s.setStrand sid x.land

/-- The result in flight for which a strand waits in `sy.mwait`. -/
def Strand.monitorFlight (x : Strand) : Option Flight :=
  x.ctx.flights.find? fun f => !f.arrived && (match f.pend with | .monitor => true | _ => false)

/-- Let a strand that waits in `sy.mwait` look at its wake causes again (R275). -/
def State.pokeMonitor (s : State) (sid : Nat) : State :=
  match (s.strand sid).monitorFlight with
  | some f => s.pushOnce (.variableResultLand sid f.seq)
  | none => s

/-- Ask again whether a strand's chunk can commit. -/
def State.askCommit (s : State) (sid : Nat) : State :=
  if (s.strand sid).await.isSome then s.pushOnce (.weirCommitRequest sid) else s

/-- Enter a record in a core's log: it travels to the buddy (R372). -/
def State.logRec (s : State) (ck : Nat) (r : LogRec) : State :=
  (s.updCore ck fun c => { c with sending := c.sending ++ [r] }).push (.logRecord ck r)

/-- The wait of a strand's bundle is over: its records are logged (R372). Until then a stop puts the bundle back (R206), and a replay
would not find it done. -/
def State.logWait (s : State) (sid : Nat) : State :=
  if (s.strand sid).waitLog = [] then s
  else (s.strand sid).waitLog.foldl (fun s r => s.logRec (ckOf sid) r) (s.updStrand sid fun x => { x with waitLog := [] })

/-- A result or an acknowledgment arrives at a strand (R34). -/
def State.arrive (s : State) (sid seq : Nat) (acts : List Wr) : State :=
  let s1 := if (s.strand sid).effect = some seq then s.logWait sid else s
  (((s1.updStrand sid fun x => x.arrive seq acts).settle sid).askCommit sid).retry (ckOf sid)

/-- The result in flight of a number, if the strand has it. -/
def Strand.flight (x : Strand) (seq : Nat) : Option Flight := x.ctx.flights.find? fun f => f.seq = seq

/-- Return to a recorded state (R255, R331): a strand that waited or stalled issues its waiting bundle again,
or waits for the result whose window is over, with what its bound has left. -/
def State.reenter (s : State) (sid : Nat) (st : SState) : State :=
  let x := s.strand sid
  let back := { x with st := st, since := s.cyc (ckOf sid), bounded := true }
  if st.waits ∧ x.why = .reduction then ((s.setStrand sid { back with bounded := decide (x.bound ≠ 0) }).pushOnce (.reductionTake (ckOf sid))).pushOnce (.waitExpired sid)
  else if st.waits ∧ x.why = .token then
    ((s.setStrand sid back).pushOnce (.stashRefillRequest (ckOf sid))).pushOnce (.waitExpired sid)
  else if st.waits ∧ x.why = .context ∧ x.ctl ≠ [] then
    ((s.setStrand sid back).pushOnce (.strandControlAct sid)).pushOnce (.waitExpired sid)
  else if st.waits then
    (s.setStrand sid { x with st := .ready, why := .none, bounded := false, carry := if x.bound = 0 then x.carry else some (st, x.bound) }).stallIfOverdue sid
  else
    let s1 := s.setStrand sid { x with st := st, why := if st = .stopped then x.why else .none, bounded := false, carry := none }
    if st = .ready then s1.stallIfOverdue sid else s1

/-- The return from a fault (R255, R330): a frozen strand returns to the state it froze in; no other strand
changes. -/
def State.resume (s : State) (sid : Nat) : State :=
  let x := s.strand sid
  if x.st = .frozen then s.reenter sid x.frozenFrom else s

/-- The empty bundles that follow an effect's own bundle are over: results of fixed latency are visible (R332). -/
def Strand.showFixed (x : Strand) : Strand :=
  let fs := x.ctx.flights.map fun f => if f.arrived && !f.port then { f with left := 0 } else f
  let y := Strand.land { x with ctx := { x.ctx with flights := fs } }
  { y with start := y.ctx }

/-- A stop takes effect: no chunk awaits commit, the open chunk is squashed and the state is recorded (R206,
R267). -/
def State.stopNow (s : State) (sid : Nat) : State :=
  let x := s.strand sid
  let left := s.boundLeft sid
  ((s.squashOpen sid).retryOthers sid).updStrand sid fun y =>
    { y.showFixed.endSerial with st := .stopped, readyFrom := none, recorded := x.st, stopping := false, bound := left, bounded := false }

/-- The result for which a strand waits. -/
def Strand.waitedFlight (x : Strand) : Option Flight :=
  match x.why with
  | .window seq => x.flight seq
  | .ninth seq => x.flight seq
  | _ => none

/-- Whether the condition that a strand waits for is about to be tested, so that a wake comes before a stop or the expiry of
its bound (R256). -/
def State.wakeDue (s : State) (sid : Nat) : Bool :=
  let x := s.strand sid
  x.st.waits && (match x.why, x.waitedFlight with
    | _, some f => decide (f.pend.state ≠ .stalledLA ∨ f.pend = .token ∨ f.pend = .pfence) && s.agenda.contains (.variableResultLand sid f.seq)
    | .engine, none => s.agenda.contains (.cePushAccept sid)
    | .fence, none => s.agenda.contains (.fenceCheck sid)
    | _, none => false)

/-- Whether everything before a fence is over: its earlier chunks and effects, and its accesses; an array command and a request for a
lease are none (R214). -/
def Strand.quiet (x : Strand) : Bool :=
  x.await.isNone && x.effect.isNone && x.reqs.isEmpty && x.ctx.flights.all fun f => f.arrived || (match f.pend with
    | .lease _ => true
    | .pfence => true
    | .command => true
    | _ => false)

/-- Whether the wake of a strand comes before a stop in the same cycle: the stop then records it ready. A push that is only to be
tested again, or a fence whose conditions do not hold, is recorded waiting (R255, R256). -/
def State.wakesFirst (s : State) (sid : Nat) : Bool :=
  let x := s.strand sid
  s.wakeDue sid && (match x.why with
    | .engine => false
    | .fence => x.quiet
    | _ => true)

/-- Stop a strand at its next bundle boundary: at once, or when its chunk awaiting commit is gone and a wake that is due
has come. An idle, stopped or frozen strand is left as it is (R256, R267). -/
def State.stop (s : State) (sid : Nat) : State :=
  let x := s.strand sid
  match x.st with
  | .idle | .stopped | .frozen => s
  | _ =>
    if x.await.isSome then s.setStrand sid { x with stopping := true }
    else if s.wakesFirst sid then (s.setStrand sid { x with stopping := true }).pushOnce (.weirCommitRequest sid)
    else s.stopNow sid

/-- A late fault of the access or request with number `seq` (R176, R233): the chunk it was issued in is
squashed, FPC names its word, and the strand freezes. -/
def State.freezeLate (s : State) (sid seq cause detail : Nat) (fpc : BitVec 64) (second : Bool) (serial : Nat) (data : List Byte) : State :=
  let s1 := match (s.strand sid).await with
    | some (_, k) => if k.issued.contains seq || decide ((s.strand sid).effect = some seq) then s.dropAwait sid else s
    | none => s
  s1.freeze sid cause detail fpc second serial data

/-- Put a result of the executing word in flight. -/
def State.launch (s : State) (u : FUnit) (left : Nat) (arrived : Bool) (pend : Pend) (lim detail : Nat)
    (acts : List Wr) : State :=
  s.updMe fun x =>
    { x with
      seq := x.seq + 1,
      ctx := { x.ctx with flights := x.ctx.flights ++
        [{ unit := u, seq := x.seq, left := left, arrived := arrived, pend := pend, lim := lim, detail := detail,
           word := s.word, pc := x.ctx.pc, second := s.second, port := false, acts := acts }] } }

/-- The bundles after which a window of `la` bundles ends: not before an earlier open window of the same unit, whose result
lands first (R32, R34). -/
def Ctx.windowEnd (c : Ctx) (u : FUnit) (la : BitVec 4) : Nat :=
  (c.flights.filter fun f => decide (f.unit = u)).foldl (fun m f => max m f.left) (la.toNat + 1)

/-- Put a result of variable latency in flight (R34): its window is LA bundles, and the chunk commits only
after it has arrived where it is a read (R332). -/
def State.launchVar (s : State) (u : FUnit) (la : BitVec 4) (pend : Pend) (lim detail : Nat) (port read : Bool)
    (acts : List Wr) : State :=
  s.updMe fun x =>
    { x with
      seq := x.seq + 1,
      chunk := if read then { x.chunk with issued := x.chunk.issued ++ [x.seq] } else x.chunk,
      ctx := { x.ctx with flights := x.ctx.flights ++
        [{ unit := u, seq := x.seq, left := x.ctx.windowEnd u la, arrived := false, pend := pend, lim := lim, detail := detail,
           word := s.word, pc := x.ctx.pc, second := s.second, port := port, acts := acts }] } }

/-- A write that lands as the bundle ends (R38, R44). -/
def State.write (s : State) (w : Wr) : State := s.launch .mv 1 true .none 0 0 [w]

/-- A trigger of fixed latency (R31). -/
def State.trigger (s : State) (u : FUnit) (lat : Nat) (acts : List Wr) : State := s.launch u lat true .none 0 0 acts

/-- The content of an operand latch after a trigger consumed it is undefined (R33); a bundle that does not issue
consumes nothing. -/
def State.consume (s : State) (l : Latch) : State :=
  if s.held then s
  else (s.updCtx fun c =>
    let c1 := c.setLatch l { v := Config.freeLatch s.fresh, p := false }
    { c1 with stale := c1.stale ||| BitVec.ofNat 28 (2 ^ l.idx.val) }).bump

/-- Consume several operand latches. -/
def State.consumeAll (s : State) (ls : List Latch) : State := ls.foldl State.consume s

/-! ## Guards, privilege and holding back (R40, R52) -/

/-- Whether a guard is true. -/
def guardTrue (c : Ctx) (g : BitVec 4) : Bool :=
  xor (c.pred (g.toNat % 8)) (g.getLsbD 3)

/-- A word whose guard is false does nothing (R40). -/
def guarded (h : Hdr) (s : State) (k : State → State) : State := if guardTrue s.ctx h.guard then k s else s

/-- A word of kernel and supervisor strands only (R52). -/
def needKernel (s : State) (k : State → State) : State :=
  if s.mode s.cur = .user then s.faultWord causePrivilege else k s

/-- A word of supervisor strands only (R52). -/
def needSupervisor (s : State) (k : State → State) : State :=
  if s.mode s.cur = .supervisor then k s else s.faultWord causePrivilege

/-- The bundle is held back: the strand waits and issues it later. -/
def State.hold (s : State) (st : SState) (why : Why) (lim : Nat) : State :=
  { s.enterWait s.cur st why lim with held := true }

/-- The DP code of the word that triggered a result. -/
def Flight.dp (f : Flight) : Nat := (f.word.toNat / 2 ^ 12) % 64

/-- The results to source ports that a result in flight stands for (R332): a queue operation that has not been answered may deliver
to `sq.r` and to `sq.st` (R287; log 67). -/
def Flight.results (f : Flight) : Nat :=
  if !f.port then 0
  else match f.unit, f.acts with
  | .sq, [] =>
    match f.pend with
    | .queue push _ _ _ _ _ => if push then 1 else 2
    | _ => if f.dp < 3 then 2 else 1
  | .sq, l => l.length
  | _, _ => 1

/-- The results to source ports that a list of results in flight stands for. -/
def openResults (fs : List Flight) : Nat := (fs.map Flight.results).sum

/-- Whether a result lands no later than another: it is of the same unit and was triggered no later (R32). -/
def Flight.before (g f : Flight) : Bool := decide (g.unit = f.unit ∧ g.seq ≤ f.seq)

/-- End the window of a result, and with it the earlier windows of its unit. -/
def endWindow (fs : List Flight) (f : Flight) : List Flight := fs.map fun g => if g.before f then { g with left := 0 } else g

/-- A strand has at most 8 open windows of results to a source port: a trigger of `n` such results that would open a ninth holds its
bundle, which ends the oldest window first (State.endOldest, R332). -/
def windowGate (s : State) (n : Nat) (k : State → State) : State :=
  if openResults s.me.ctx.flights + n ≤ 8 then k s
  else match s.me.ctx.flights.find? fun f => decide (0 < f.results) with
    | some f => s.hold .stalledLA (.ninth f.seq) f.lim
    | none => k s

/-- The window that a held bundle ends is over: its result becomes visible, at once when it has arrived, and the bundle is issued again;
until then the strand stalls (R332). -/
def State.endOldest (s : State) (sid : Nat) : State :=
  let x := s.strand sid
  match x.waitedFlight with
  | some f =>
    let y := Strand.land { x with ctx := { x.ctx with flights := endWindow x.ctx.flights f } }
    s.setStrand sid (if (y.flight f.seq).isSome then y else y.wake)
  | none => s

/-- The bytes of a log record (Table 15-3); what carries no identity stands in the log as a mark of its place only (log 29). -/
def recBytes (r : LogRec) : Nat :=
  match r with
  | .chunk _ _ => 4
  | .arrayOrder _ _ => 4
  | .time _ _ => 8
  | .reply _ _ _ => 16
  | .remoteLine _ _ => 136
  | .incoming m _ =>
    if m.tok = 0 then 0
    else match m.op with
    | .deliver _ => 160
    | _ => 32

/-- The bytes of a core's log. -/
def Core.logSize (c : Core) : Nat := (c.log.map recBytes).sum
/-- Whether a log has no room: 256 KiB (R373). -/
def Core.logFull (c : Core) : Bool := decide (2 ^ 18 ≤ c.logSize)

/-- Whether a core replays its log (R376). -/
def State.replaying (s : State) (ck : Nat) : Bool := (s.group (gkOf ck)).entry.state == 2

/-- Whether log records of a core have not reached its buddy, or its log has no room (R373); a replay waits for neither. -/
def State.logWaiting (s : State) (ck : Nat) : Bool := !s.replaying ck && ((s.core ck).logFull || !(s.core ck).sending.isEmpty)

/-- What the hardware of a region does at a core, as its log holds it (R372; log 29). -/
def hardwareMsg (ck : Nat) (op : RemoteOp) : Msg :=
  { origin := .host 0, seq := 0, tok := 0, sn := 0, floor := 0, owner := .group (gkOf ck), op := op }

/-- Enter what the hardware of a region did at a core in the core's log. -/
def State.logHardware (s : State) (ck : Nat) (op : RemoteOp) : State :=
  s.logRec ck (.incoming (hardwareMsg ck op) { value := 0, mark := false, code := 0, head := 0, tail := 0, old := [], marks := [] })

/-- Whether a core takes nothing from the hardware of its region now: its group recovers, or it is being moved (R378, R408). -/
def State.coreHeld (s : State) (ck : Nat) : Bool := (s.group (gkOf ck)).entry.state != 0 || (s.core ck).moving

/-- Hold the bundle until the open chunk has ended before it (R194). -/
def State.endFirst (s : State) : State := { s.updMe fun x => { x with closes := true } with held := true }

/-- Run `k` as a chunk of its own, after every earlier chunk has committed and acted and every earlier effect has its
place (R195, R207, R270): otherwise the open chunk ends, or the strand waits for the commit. -/
def effectGate (s : State) (k : State → State) : State :=
  if s.me.effIssue then k s
  else if s.me.chunk.len ≠ 0 then s.endFirst
  else if s.me.await.isSome ∨ s.me.effect.isSome ∨ s.me.ctl ≠ [] ∨ s.logWaiting s.myCk then
    (s.hold .stalledLA .effect 0).pushOnce (.effectIssue s.cur)
  else k (s.updMe fun x => { x with effIssue := true })

/-- The executing word is an effect that has no place yet: the chunk that follows waits for it (R207). -/
def State.asEffect (s : State) : State := s.updMe fun x => { x with effect := some x.seq }

/-- The executing word waits for something that may not come: until it does, the strand can be stopped or
frozen back to this bundle (R206, R331). -/
def State.asWaiting (s : State) : State := s.updMe fun x => { x with effect := some x.seq, waitFrom := some x.start }

/-! ## Remote effect messages (R218-R220, R232, R233) -/

/-- Add an owner to those a requester has reached since its last boundary (R230). -/
def addOwner (l : List Owner) (w : Owner) : List Owner := if w ∈ l then l else l ++ [w]

/-- The distance SN − FLOOR (R220). -/
def Strand.distance (x : Strand) : Nat := (x.sn - x.floor).toNat

/-- Whether a strand may send one more request: it holds a token, and neither its distance nor its count is
at the limit (R219, R220, R233). -/
def remoteGate (s : State) (k : State → State) : State :=
  if s.me.tok = 0 then s.fault causeNoToken 0 []
  else if 2 ^ 31 - 2 ^ 16 ≤ s.me.distance ∨ 2 ^ 16 ≤ s.me.outstanding then s.hold .stalledLA .serial 0
  else k s

/-- The reply that the log of a replaying core holds for a serial of one of its strands, or of its engine, number 16 (R377). -/
def State.loggedReply (s : State) (ck n : Nat) (sn : BitVec 32) : Option Reply :=
  (s.core ck).replay.findSome? fun r => match r with
    | .reply k m v => if k = n ∧ m = sn then some v else none
    | _ => none

/-- A request sets out, unless a replaying core's log holds its reply (R377); the grant of a set is asked for again. -/
def State.sendOut (s : State) (ck n : Nat) (m : Msg) (e : Instr) : State :=
  match s.loggedReply ck n m.sn with
  | some r =>
    let s1 := s.push (.replyResult m.origin m.seq r)
    match m.op with
    | .acquire q => s1.push (.setAcquireRequest q)
    | _ => s1
  | none => (s.sendMsg m e).push (.retransmitTimeout m.origin m.seq)

/-- Send a remote effect message of a strand under a serial. The request's number is the result it answers. -/
def State.sendUnder (s : State) (sid : Nat) (sn : BitVec 32) (w : Owner) (op : RemoteOp) (seq : Nat) (fpc : BitVec 64)
    (second : Bool) : State :=
  let x := s.strand sid
  let m : Msg := { origin := .strand sid, seq := seq, tok := x.tok, sn := sn, floor := x.floor, owner := w, op := op }
  let s1 := s.setStrand sid
    { x with
      reqs := x.reqs ++ [{ seq := seq, msg := m, sends := 1, last := s.now, busySince := none, fpc := fpc, second := second }],
      reached := addOwner x.reached w }
  s1.sendOut (ckOf sid) (strandNo sid) m (.remoteEffectMessage m)

/-- The serial SN is used; 2^30 serials after the floor the core asks for an early boundary (R220). -/
def State.useSerial (s : State) (sid : Nat) : State :=
  let x := s.strand sid
  let s1 := s.setStrand sid { x with sn := x.sn + 1 }
  if (x.sn + 1 - x.floor).toNat ≥ 2 ^ 30 then s1.askBoundary (ckOf sid) else s1

/-- Send a remote effect message of a strand under the next serial (R220). -/
def State.sendRemote (s : State) (sid : Nat) (w : Owner) (op : RemoteOp) (seq : Nat) (fpc : BitVec 64) (second : Bool) : State :=
  (s.sendUnder sid (s.strand sid).sn w op seq fpc second).useSerial sid

/-- Send a request about a strand's chunk to a slice elsewhere, under the chunk's serial (R218, R220). -/
def State.sendCommit (s : State) (sid : Nat) (c : Ctx) (k : Chunk) (ref : Nat) (op : RemoteOp) : State :=
  let x := s.strand sid
  (s.setStrand sid { x with seq := x.seq + 1 }).sendUnder sid (k.serial.getD 0) (ownerOfRef ref) op x.seq c.pc c.second

/-- Whether a strand may send no request now: it has no room for one more serial, or too many requests (R220, R233). -/
def Strand.noSerial (x : Strand) : Bool := decide (2 ^ 31 - 2 ^ 16 ≤ x.distance) || decide (2 ^ 16 ≤ x.outstanding)

/-! ## The open chunk: reads and writes (R197, R199) -/

/-- The byte that a list of stores leaves at a flat address, if one of them covers it. -/
def storesByte (ws : List SbWrite) (a : Nat) : Option Byte :=
  ws.foldl (fun acc w => if w.addr ≤ a ∧ a < w.addr + w.data.length then some (byteAt w.data (a - w.addr)) else acc) none

/-- The mark that a list of stores leaves on a word (R186). -/
def storesMark (ws : List SbWrite) (w : Nat) (m : Bool) : Bool :=
  ws.foldl (fun acc x => mergeMark acc w x.addr x.data.length x.mark) m

/-- Every uncommitted store of a strand, oldest first. -/
def Strand.stores (x : Strand) : List SbWrite :=
  (match x.await with | some (_, k) => k.stores | none => []) ++ x.chunk.stores

/-- The bytes that the log of a replaying core holds of a line that its next chunk reads from another owner (R377). -/
def loggedLine : List LogRec → Nat → Option (List Byte)
  | [], _ => none
  | .chunk _ _ :: _, _ => none
  | .remoteLine l d :: r, line => if l = line then some d else loggedLine r line
  | _ :: r, line => loggedLine r line

/-- A byte as a strand's open chunk reads it (R197). -/
def State.readByte (s : State) (sid a : Nat) : Byte :=
  match storesByte (s.strand sid).stores a, loggedLine (s.core (ckOf sid)).replay (lineOf a) with
  | some b, _ => b
  | none, some d => byteAt d (a % 128)
  | none, none => memRead s.mem a

/-- Bytes as a strand's open chunk reads them. -/
def State.readBytes (s : State) (sid a n : Nat) : List Byte := (List.range n).map fun i => s.readByte sid (a + i)

/-- Whether any word that `n` bytes touch is poisoned, as the open chunk reads it. -/
def State.readMarked (s : State) (sid a n : Nat) : Bool :=
  (wordsOf a n).any fun w => storesMark (s.strand sid).stores w (hasNat s.poison w)

/-- Enter a read of a line: in the read signature with the slice's number, or in the private one (R199,
R201). -/
def State.noteRead (s : State) (sid line : Nat) : State :=
  let sig := lineSig line
  let s := s.sense (some (ckOf sid)) line
  if s.lineExported line then
    let w := ownerOfLine line
    let num := (s.owner w).slice.num
    s.updStrand sid fun x =>
      { x with chunk := { x.chunk with
          rsig := x.chunk.rsig ||| sig, reads := insertNat x.chunk.reads line,
          slices := if x.chunk.slices.any (fun p => p.1 == ownerRef w) then x.chunk.slices else x.chunk.slices ++ [(ownerRef w, num)] } }
  else s.updStrand sid fun x => { x with chunk := { x.chunk with prsig := x.chunk.prsig ||| sig } }

/-- Enter a store of the open chunk in its buffer and its signatures (R197, R199). -/
def State.noteWrite (s : State) (sid : Nat) (w : SbWrite) : State :=
  (linesOf w.addr w.data.length).foldl (fun s line =>
    let sig := lineSig line
    let s := s.updStrand sid fun x => { x with chunk := { x.chunk with lines := insertNat x.chunk.lines line } }
    if s.lineExported line then
      let o := ownerOfLine line
      let num := (s.owner o).slice.num
      s.updStrand sid fun x =>
        { x with chunk := { x.chunk with
            wsig := x.chunk.wsig ||| sig,
            slices := if x.chunk.slices.any (fun p => p.1 == ownerRef o) then x.chunk.slices else x.chunk.slices ++ [(ownerRef o, num)] } }
    else s.updStrand sid fun x => { x with chunk := { x.chunk with pwsig := x.chunk.pwsig ||| sig } })
    (s.updStrand sid fun x => { x with chunk := { x.chunk with stores := x.chunk.stores ++ [w] } })

/-- The lines of the strand's uncommitted stores after more lines are added (R197); in serial mode with those of the run, which the
squashed chunk would hold (R205). -/
def Strand.bufferedLines (x : Strand) (more : List Nat) : Nat :=
  let old := (match x.await with | some (_, k) => k.lines | none => []) ++ (match x.serialRun with | some (ls, _) => ls | none => [])
  (more.foldl insertNat (old.foldl insertNat x.chunk.lines)).length

/-- Serial mode ends before the bundle, which is issued again outside it: the squashed chunk would have ended here (R194, R205). -/
def State.serialEnds (s : State) : State := { s.updMe fun x => { x.endSerial with closes := true } with held := true }

/-- A store that would bring the uncommitted lines to 33: the open chunk ends before the bundle, and the
bundle waits for room (R194, R197). DESIGN CHOICE (log 47): one store that alone touches more than 32 lines enters whole once the buffer is empty; R142 and R197 give no outcome. -/
def storeGate (s : State) (lines : List Nat) (k : State → State) : State :=
  if s.me.bufferedLines lines ≤ 32 then k s
  else if s.me.chunk.len ≠ 0 then s.endFirst
  else if s.me.await.isSome then s.hold .stalledLA .chunkAwait 0
  else if s.me.serialRun.isSome then s.serialEnds
  else k s

/-! ## A write takes its place in the order (R203, R208, R225, R274) -/

/-- Whether a private write to a line meets what a strand's chunks recorded (R199, R203). -/
def Strand.privConflict (x : Strand) (sig : BitVec 512) : Bool × Bool :=
  (mayShare (x.chunk.prsig ||| x.chunk.pwsig) sig,
   match x.await with
   | some (_, k) => mayShare (k.prsig ||| k.pwsig) sig
   | none => false)

/-- The core's private check of one written line against its strands but the writer (R203). A strand whose effect is being executed has
recorded no more than that bundle's own accesses, which take their place with it (R207). -/
def State.privCheck (s : State) (writer : Option Nat) (line : Nat) : State :=
  if s.lineExported line then s
  else
    (coreStrands (line / 2 ^ 13)).foldl (fun s sid =>
      if writer = some sid ∨ (s.strand sid).effIssue then s
      else
        let c := (s.strand sid).privConflict (lineSig line)
        if c.2 then s.squashAwait sid else if c.1 then s.squashConflict sid else s) s

/-- Bytes and marks of one write reach memory. -/
def State.putBytes (s : State) (w : SbWrite) : State :=
  { s with mem := memWriteList s.mem w.addr w.data, poison := writeMarks s.poison w.addr w.data.length w.mark }

/-- Wake the strands whose monitor fired while they wait for one (R275). -/
def State.wakeMonitors (s : State) : State :=
  s.strands.foldl (fun s p => if p.2.mons.toList.any Monitor.fired then s.pokeMonitor p.1 else s) s

/-- What follows from a write of some lines: changed marks, the private checks and the monitors. -/
def State.afterLines (s : State) (writer : Option Nat) (ls : List Nat) : State :=
  (ls.foldl (fun s l => ((s.noteChanged l).privCheck writer l).fireMonitors writer l) s).wakeMonitors

/-- A write by an engine, an atomic, a drain or the hardware: its bytes, one commit at each slice it
touches, and what follows (R203, R210, R225). -/
def State.place (s : State) (writer : Option Nat) (w : SbWrite) : State :=
  let ls := linesOf w.addr w.data.length
  (((s.overwriteAll (writer.map ckOf) w.addr w.data.length).putBytes w).recordLines none (ls.filter s.lineExported)).afterLines writer ls

/-- Place a little-endian number of `n` bytes with a mark. -/
def State.placeNum (s : State) (writer : Option Nat) (a n v : Nat) (mark : Bool) : State :=
  s.place writer { addr := a, data := leBytes n v, mark := mark }

/-- A core asks for a line, unless its group's cache is waiting for it already. -/
def State.askFill (s : State) (ck line : Nat) : State :=
  if s.agenda.any (fun e => match e with
    | .fetchFillArrival c l => gkOf c == gkOf ck && l == line
    | _ => false) then s
  else s.push (.fetchFillArrival ck line)

end Sys2Proof.Machine
end

