-- ==== Sys2Proof/Machine/Windows.lean ====
section
/-! DEFINITION. Addresses and windows (R167-R181): the checks of R169 in order, the places of local, global
and tile-direct bytes, the page walk and its caches, the replicated area and the range scoreboard. -/

namespace Sys2Proof.Machine

/-! ## Fields of an address (R167, R172, R179) -/

/-- The window class of an address. -/
def classOf (a : Reg80) : Nat := (tagOf a).toNat / 256
/-- The qualifier of an address. -/
def qualOf (a : Reg80) : Nat := (tagOf a).toNat % 256
/-- The offset of an address. -/
def offOf (a : Reg80) : Nat := (valOf a).toNat
/-- The logical core that offset bits [34:20] name (R172), if the partition holds it. -/
def State.coreOfBits (s : State) (pid off : Nat) : Option Nat :=
  s.coreAt pid ((off / 2 ^ 28) % 128) ((off / 2 ^ 22) % 64) ((off / 2 ^ 20) % 4)
/-- The tile-direct offset of a byte of a core (R172). -/
def State.tileOff (s : State) (ck off : Nat) : Nat :=
  s.gxOf ck * 2 ^ 28 + s.gyOf ck * 2 ^ 22 + seatOf ck * 2 ^ 20 + off
/-- Whether a module number lies in the partition's load-store domain (R168, R324). -/
def Part.inDomain (p : Part) (m : Nat) : Bool := decide (m < 8) && p.dmask.getLsbD m

/-- A checked access, before translation. -/
inductive Place where
  | tile (ck off : Nat)
  | global (off : Nat)
  | rim (off : Nat)
  | repl (off : Nat)
  | module (m : Nat) (tile : Bool) (off : Nat)
  | system (qq off : Nat)
  deriving DecidableEq, Repr

/-- A refusal of a check with its cause, or a place. -/
inductive Checked where
  | bad (cause : Nat)
  | ok (p : Place)
  deriving DecidableEq, Repr

/-! ## The checks of R169 -/

/-- Check 1: class and qualifier (R168). -/
def classOk (p : Part) (cls q : Nat) : Bool :=
  match cls with
  | 0x00 => decide (q = 0)
  | 0x01 => decide (q = 0) || (decide (q ≤ 7) && p.inDomain q)
  | 0x02 => decide (q = 0)
  | 0x03 => decide (q = 0)
  | 0x04 => decide (q = 0)
  | 0x06 => decide (1 ≤ q) && decide (q ≤ 7) && p.inDomain q
  | 0x7F => decide (q ≤ 4)
  | _ => false


/-- Whether a local-window access touches the core's own replicated area (R171). -/
def State.inRepArea (s : State) (pid off n : Nat) : Bool :=
  let hi := 2 ^ 20 - (s.part pid).shareBytes
  decide (s.privEnd pid < hi) && decide (off < hi) && decide (s.privEnd pid < off + n)

/-- The first byte from `a` on that none of some spans holds, looked for in one pass. -/
def pastSpans (l : List (Nat × Nat)) (a : Nat) : Nat := l.foldl (fun a e => if e.1 ≤ a ∧ a < e.1 + e.2 then e.1 + e.2 else a) a

/-- Whether `n` bytes of another core's store may be reached from outside it: each lies in the global share or in an
exported span (R172). -/
def State.reachable (s : State) (pid off n : Nat) : Bool :=
  let p := s.part pid
  let l := (2 ^ 20 - p.shareBytes, p.shareBytes) :: p.exp
  decide (off + n ≤ l.foldl (fun a _ => pastSpans l a) off)

/-- The check of a local access of a core to `n` bytes of its own store (R171, R262). -/
def State.checkLocal (s : State) (ck : Nat) (user : Bool) (off n : Nat) : Checked :=
  if user && (s.partOf ck).inTable off n then .bad causePrivilege
  else if 2 ^ 20 < off + n then .bad causeWindow
  else if s.inRepArea (pidOf ck) off n then .bad causeWindow
  else .ok (.tile ck off)

/-- The checks of R169, in order, of an access of `n` bytes by a core in a mode. -/
def State.checkAccess (s : State) (ck : Nat) (mode : Mode) (a : Reg80) (n align : Nat) : Checked :=
  let p := s.partOf ck
  let cls := classOf a
  let q := qualOf a
  let off := offOf a
  let own := decide (cls = 1 ∧ q = 0 ∧ off < 2 ^ 35 ∧ s.coreOfBits (pidOf ck) off = some ck)
  let loc := if own then off % 2 ^ 20 else off
  if !classOk p cls q then .bad causeWindow
  else if cls = 0x7F ∧ mode ≠ .supervisor then .bad causePrivilege
  else if (cls = 0 ∨ own) ∧ mode = .user ∧ p.inTable loc n then .bad causePrivilege
  else if off % align ≠ 0 then .bad causeMisaligned
  else if cls = 0 ∨ own then s.checkLocal ck false loc n
  else if cls = 1 then
    if 2 ^ 35 < off + n ∨ 2 ^ 35 ≤ off then .bad causeWindow
    else if 2 ^ 20 < off % 2 ^ 20 + n then .bad causeWindow
    else if q ≠ 0 then .ok (.module q true off)
    else
      match s.coreOfBits (pidOf ck) off with
      | none => .bad causeWindow
      | some t =>
        if s.reachable (pidOf ck) (off % 2 ^ 20) n then .ok (.tile t (off % 2 ^ 20)) else .bad causeWindow
  else if cls = 2 then if p.n * p.shareBytes < off + n then .bad causeWindow else .ok (.global off)
  else if cls = 3 then if 2 ^ 55 < off + n then .bad causeWindow else .ok (.rim off)
  else if cls = 4 then if 2 ^ 55 < off + n then .bad causeWindow else .ok (.repl off)
  else if cls = 6 then if 2 ^ 55 < off + n then .bad causeWindow else .ok (.module q false off)
  else if 2 ^ 35 < off + n then .bad causeWindow
  else .ok (.system q off)

/-! ## The global window (R173) -/

/-- The flat address of a byte of the global window. -/
def State.globalFlat (s : State) (pid g : Nat) : Nat :=
  let p := s.part pid
  localFlat (ckAt pid (ownerOf p.n (g / 128))) (2 ^ 20 - p.shareBytes + slotOf p.n (g / 128) * 128 + g % 128)

/-! ## Page tables (R174-R177) -/

/-- A page-table entry (Table 7-2). -/
structure Pte where
  w : Nat
  deriving DecidableEq, Repr
/-- Bit `i` of an entry. -/
def Pte.bit (e : Pte) (i : Nat) : Bool := e.w.testBit i
/-- FRAME as a physical address. -/
def Pte.addr (e : Pte) : Nat := ((e.w / 2 ^ 16) % 2 ^ 32) * 2 ^ 16
/-- Whether a reserved bit is set. -/
def Pte.reserved (e : Pte) : Bool := decide (e.w / 2 ^ 48 ≠ 0 ∨ (e.w / 2 ^ 5) % 2 ^ 11 ≠ 0)

/-- The result of a walk: a leaf with its size, or the cause of Table 7-3. -/
inductive Walk where
  | leaf (e : TlbEntry)
  | bad (cause : Nat)
  deriving DecidableEq, Repr

/-- Whether an open partition may not use a frame (R176). -/
def State.worldBad (s : State) (pid pa : Nat) : Bool :=
  !(s.part pid).secure && (s.channel (pa / 2 ^ 36)).secure

/-- The entry at index `i` of the table at a physical address, read from rim memory (R174). -/
def State.pte (s : State) (base i : Nat) : Pte := { w := s.load (rimFlat (base + 8 * i)) 8 }

/-- What a non-leaf entry answers, if it stops the walk. -/
def State.tableBad (s : State) (pid : Nat) (e : Pte) : Option Nat :=
  if !e.bit 0 then some causeNotPresent
  else if e.reserved || e.bit 2 || e.bit 3 || e.bit 4 || decide (rimLimit ≤ e.addr) then some causeBadEntry
  else if s.worldBad pid e.addr then some causeWorld
  else none

/-- What a leaf answers for an access, given what it maps. -/
def State.leafBad (s : State) (pid : Nat) (e : Pte) (pa : Nat) : Option Nat :=
  if !(s.part pid).secure && (e.bit 3 || (!e.bit 4 && s.worldBad pid pa)) then some causeWorld else none

/-- The walk of an offset of the rim window, or of the replicated window (R174-R176). Where several conditions of Table 7-3
hold for one entry, *not present* comes first, then *bad entry*, then *world*, and *read-only* last. DESIGN CHOICE: the table
gives no order (log 40). -/
def State.walk (s : State) (pid off : Nat) (rep : Bool) : Walk :=
  let e1 := s.pte (s.part pid).ptroot (off / 2 ^ 42)
  if !e1.bit 0 then .bad causeNotPresent
  else if e1.bit 1 then .bad causeBadEntry
  else match s.tableBad pid e1 with
  | some c => .bad c
  | none =>
    let e2 := s.pte e1.addr ((off / 2 ^ 29) % 2 ^ 13)
    if !e2.bit 0 then .bad causeNotPresent
    else if e2.bit 1 then
      if e2.reserved || decide ((e2.w / 2 ^ 16) % 2 ^ 13 ≠ 0) || e2.bit 4 || rep || decide (rimLimit ≤ e2.addr + off % 2 ^ 29) then
        .bad causeBadEntry
      else match s.leafBad pid e2 e2.addr with
      | some c => .bad c
      | none => .leaf { pid := pid, rep := false, page := off / 2 ^ 29, big := true, frame := e2.addr, writable := e2.bit 2 }
    else match s.tableBad pid e2 with
    | some c => .bad c
    | none =>
      let e3 := s.pte e2.addr ((off / 2 ^ 16) % 2 ^ 13)
      if !e3.bit 0 then .bad causeNotPresent
      else if e3.reserved || !e3.bit 1 || (e3.bit 4 != rep) then .bad causeBadEntry
      else if rep then
        if e3.w / 2 ^ 26 % 2 ^ 22 ≠ 0 ∨ (s.part pid).rs ≤ (e3.w / 2 ^ 16) % 2 ^ 10 then .bad causeBadEntry
        else match s.leafBad pid e3 0 with
        | some c => .bad c
        | none => .leaf { pid := pid, rep := true, page := off / 2 ^ 16, big := false, frame := ((e3.w / 2 ^ 16) % 2 ^ 10) * 2 ^ 16, writable := e3.bit 2 }
      else if rimLimit ≤ e3.addr then .bad causeBadEntry
      else match s.leafBad pid e3 e3.addr with
      | some c => .bad c
      | none => .leaf { pid := pid, rep := false, page := off / 2 ^ 16, big := false, frame := e3.addr, writable := e3.bit 2 }

/-- Whether a cached entry covers an offset. -/
def TlbEntry.covers (e : TlbEntry) (pid off : Nat) (rep : Bool) : Bool :=
  decide (e.pid = pid) && (e.rep == rep) && decide (e.page = if e.big then off / 2 ^ 29 else off / 2 ^ 16)

/-- The physical address, or the byte of the replicas, that an entry gives for an offset. -/
def TlbEntry.place (e : TlbEntry) (off : Nat) : Nat := e.frame + off % (if e.big then 2 ^ 29 else 2 ^ 16)

/-- Keep an entry in a cache of `cap` places (R177). -/
def addTlb (l : List TlbEntry) (e : TlbEntry) (cap pick : Nat) : List TlbEntry :=
  let l := l.filter fun x => !(decide (x.pid = e.pid ∧ x.rep = e.rep ∧ x.page = e.page ∧ x.big = e.big))
  if l.length < cap then l ++ [e] else l.eraseIdx (pick % l.length) ++ [e]

/-- Translate an offset for a core: a cached entry may be used as it stands until an invalidation removes it;
otherwise the tables are walked, and the entry found is kept at the three levels, the walker's as long as one of its 64 places does
(R176, R177). Answers the place or the cause. -/
def State.translate (s : State) (ck off : Nat) (rep store : Bool) : Except Nat Nat × State :=
  let pid := pidOf ck
  let cached := match (s.core ck).tlb.find? fun e => e.covers pid off rep with
    | some e => some e
    | none =>
      match (s.group (gkOf ck)).tlb.find? fun e => e.covers pid off rep with
      | some e => some e
      | none => (s.region (s.rkOf ck)).tlb.find? fun e => e.covers pid off rep
  let finish := fun (e : TlbEntry) (s : State) =>
    if store && !e.writable then (Except.error causeReadOnly, s)
    else
      let s1 := s.updCore ck fun c => { c with tlb := addTlb c.tlb e 64 (Config.evict s.steps) }
      let s2 := s1.updGroup (gkOf ck) fun g => { g with tlb := addTlb g.tlb e 1024 (Config.evict s.steps) }
      let s3 := s2.updRegion (s.rkOf ck) fun r => { r with tlb := addTlb r.tlb e 64 (Config.evict s.steps) }
      (Except.ok (e.place off), s3)
  let walked := match s.walk pid off rep with
    | .leaf e => finish e s
    | .bad c => (Except.error c, s)
  match cached with
  | none => walked
  | some e => if Config.useCached s.fresh then finish e s.bump else (walked.1, walked.2.bump)

/-- Translate the pieces of an access, line by line: their places, or the first cause. -/
def State.translateAll (s : State) (ck : Nat) (rep store : Bool) : List (Nat × Nat) → Except Nat (List (Nat × Nat)) × State
  | [] => (.ok [], s)
  | (off, n) :: r =>
    match s.translate ck off rep store with
    | (.error c, s1) => (.error c, s1)
    | (.ok pa, s1) =>
      match s1.translateAll ck rep store r with
      | (.error c, s2) => (.error c, s2)
      | (.ok l, s2) => (.ok ((pa, n) :: l), s2)

/-! ## Replicated pages (R180, R181) -/

/-- The flat address of byte `b` of the replicas, as region `rk` holds it (R180). -/
def State.replFlat (s : State) (pid rk b : Nat) : Nat :=
  let x := b / 128
  let cr := s.grade.cr
  let ck := (s.coreOfIndex pid rk (x % cr)).getD (ckAt pid 0)
  localFlat ck (s.privEnd pid + (x / cr) * 128 + b % 128)

/-! ## The range scoreboard (R192) -/

/-- Whether lines `lo` to `hi` of a core's store overlap a held range that `me` does not own. -/
def Core.rangeHeld (c : Core) (lo hi : Nat) : Bool := c.ranges.any fun r => decide (r.lo ≤ hi) && decide (lo ≤ r.hi)

/-! ## One access -/

/-- Where the bytes of a checked access are: flat pieces, pieces of the replicas, or another module. -/
inductive Acc where
  | mem (ps : List (Nat × Nat))
  | late (cause : Nat)
  | repl (ps : List (Nat × Nat))
  | module (m : Nat) (tile : Bool) (offs : List Nat)
  | system (qq off : Nat)
  deriving DecidableEq, Repr

/-- Two accesses of one instruction together; the first late cause stands. -/
def Acc.join (a b : Acc) : Acc :=
  match a, b with
  | .late c, _ => .late c
  | _, .late c => .late c
  | .mem x, .mem y => .mem (x ++ y)
  | .repl x, .repl y => .repl (x ++ y)
  | .module m t x, .module _ _ y => .module m t (x ++ y)
  | x, _ => x

/-- Where the bytes of a checked place are, with any translation done; the modules of a domain must have agreed it (R343). -/
def State.resolve (s : State) (ck n : Nat) (store : Bool) (p : Place) : Acc × State :=
  match p with
  | .tile t off => (.mem ((splitLines off n).map fun q => (localFlat t q.1, q.2)), s)
  | .global off => (.mem ((splitLines off n).map fun q => (s.globalFlat (pidOf ck) q.1, q.2)), s)
  | .rim off =>
    match s.translateAll ck false store (splitLines off n) with
    | (.error c, s1) => (.late c, s1)
    | (.ok l, s1) => (.mem (l.map fun q => (rimFlat q.1, q.2)), s1)
  | .repl off =>
    match s.translateAll ck true store (splitLines off n) with
    | (.error c, s1) => (.late c, s1)
    | (.ok l, s1) => (.repl l, s1)
  | .module m t off => (if (s.partOf ck).agreed then .module m t [off] else .late causeNotPresent, s)
  | .system q off => (.system q off, s)

/-- The places of several checked accesses of one instruction. -/
def State.resolveAll (s : State) (ck n : Nat) (store : Bool) : List Place → Acc × State
  | [] => (.mem [], s)
  | [p] => s.resolve ck n store p
  | p :: r =>
    let a := s.resolve ck n store p
    let b := a.2.resolveAll ck n store r
    (a.1.join b.1, b.2)

/-- Whether an access through a place is an effect (R195). -/
def Place.isEffect : Place → Bool
  | .repl _ => true
  | .module _ _ _ => true
  | _ => false

/-- Whether a place is the system window. -/
def Place.isSystem : Place → Bool
  | .system _ _ => true
  | _ => false

/-- Whether an access waits on the scoreboard: local and self-directed accesses are checked (R192). -/
def State.rangeWait (s : State) (ck n : Nat) (cls : Nat) (p : Place) : Bool :=
  match p with
  | .tile t off => decide (t = ck ∧ n ≠ 0 ∧ cls ≤ 1) && (s.core ck).rangeHeld (off / 128) ((off + n - 1) / 128)
  | _ => false

/-- A poisoned value that steers the strand faults at issue (R213). -/
def State.faultPoison (s : State) (a : Reg80) : State :=
  s.fault causePoison 0 (addrBytes a ++ leBytes 8 s.ctx.pc.toNat)

/-! ## Atomic sets (R295, R296) -/

/-- The flat pieces of `n` bytes that a pointer names, with no fault and no cache touched. -/
def State.flatPieces (s : State) (ck : Nat) (a : Reg80) (n : Nat) : Option (List (Nat × Nat)) :=
  match s.checkAccess ck .kernel a n 1 with
  | .bad _ => none
  | .ok p => match (s.resolve ck n false p).1 with
    | .mem ps => some ps
    | _ => none

/-- The flat lines of pieces. -/
def flatLines (ps : List (Nat × Nat)) : List Nat := (ps.flatMap fun p => linesOf p.1 p.2).eraseDups

/-- The offset in a core's own store that a pointer of class 0x00, or of class 0x01 to its own tile, names. -/
def State.ownOff (s : State) (ck : Nat) (a : Reg80) : Option Nat :=
  if classOf a = 0 then some (offOf a)
  else if classOf a = 1 ∧ qualOf a = 0 ∧ offOf a < 2 ^ 35 ∧ s.coreOfBits (pidOf ck) (offOf a) = some ck then some (offOf a % 2 ^ 20)
  else none

/-- The flat lines of the bytes from a pointer on, from the line of the first to the line of the last. No access is made: a line of a
page that is not present is left out, and nothing else is asked of the bytes of the core's own store (R295, R296). -/
def State.coveredLines (s : State) (ck : Nat) (a : Reg80) (n : Nat) : List Nat :=
  let lo := offOf a / 128 * 128
  match s.ownOff ck a with
  | some off => linesOf (localFlat ck off) n
  | none => (List.range ((offOf a + n - lo + 127) / 128)).flatMap fun i =>
      flatLines ((s.flatPieces ck (make (tagOf a) (BitVec.ofNat 64 (lo + 128 * i))) 128).getD [])

/-- The flat lines that a declared set covers. -/
def State.setLines (s : State) (ck : Nat) (d : SetDecl) : List Nat := s.coveredLines ck d.base d.len

/-- Whether a declaration covers one of some lines. -/
def State.setCovers (s : State) (ck : Nat) (d : Option SetDecl) (ls : List Nat) : Bool :=
  match d with
  | none => false
  | some d => let m := s.setLines ck d; ls.any fun l => m.contains l

/-- The sets that a strand's task holds: SETS of its record (R262). -/
def State.heldSets (s : State) (sid : Nat) : Nat :=
  match (s.strand sid).task with
  | some i => s.load (localFlat (ckOf sid) (64 * i + 27)) 1
  | none => 0

/-- An effect that a task holding a set may not make (R300). -/
def conflictGate (s : State) (src : Reg80) (k : State → State) : State :=
  if s.heldSets s.cur = 0 then k s else s.faultAddr causeSetConflict src

/-- The age stamp of a task: AGE and TOKEN of its record (R262). -/
def State.stampOf (s : State) (ck i : Nat) : Nat × Nat :=
  let r := localFlat ck (64 * i)
  (s.load (r + 32) 8, s.load (r + 40) 5)

/-- The request for a set (R296). -/
def State.setRequest (s : State) (sid i : Nat) (n : Fin 8) (ls : List Nat) : SetReq :=
  let st := s.stampOf (ckOf sid) i
  { sid := sid, core := ckOf sid, record := i, age := st.1, token := st.2, set := n, lines := ls,
    home := ownerOfLine (ls.headD 0) }

/-- Whether a set's home is the asking core itself: then its request carries no identity (R225). -/
def setIsLocal (q : SetReq) : Bool := decide (q.lines.headD 0 < 2 ^ 45 ∧ q.lines.headD 0 / 2 ^ 13 = q.core)

/-- Ask for a set: the request goes to its home and the strand waits (R296). -/
def State.askSet (s : State) (q : SetReq) : State :=
  let seq := s.me.seq
  let s1 := s.updMe fun x => { x with asking := x.asking ++ [q], seq := x.seq + 1 }
  let s2 := if setIsLocal q then s1.push (.setAcquireRequest q) else s1.sendRemote s.cur q.home (.acquire q) seq s.ctx.pc s.second
  s2.hold .waitSet (.set q.set) s.me.ceiling

/-- The first touch of a declared set acquires it, in increasing set number, before the access is made (R296). -/
def setGate (s : State) (acc : Acc) (k : State → State) : State :=
  match s.me.task, acc with
  | some i, .mem ps =>
    if s.me.sets.toList.all Option.isNone then k s
    else
      let ls := flatLines ps
      let held := s.heldSets s.cur
      match (List.finRange 8).find? fun (n : Fin 8) => !held.testBit n.val && s.setCovers s.myCk s.me.sets[n] ls with
      | none => k s
      | some n =>
        if s.me.chunk.len ≠ 0 then s.endFirst
        else if s.me.await.isSome ∨ s.me.effect.isSome then (s.hold .stalledLA .effect 0).pushOnce (.effectIssue s.cur)
        else if s.me.asking.any fun q => q.set == n then s.hold .waitSet (.set n) s.me.ceiling
        else
          let q := s.setRequest s.cur i n ((s.me.sets[n].map fun d => s.setLines s.myCk d).getD [])
          if setIsLocal q then s.askSet q else remoteGate s fun s => s.askSet q
  | _, _ => k s

/-- Checked accesses of the executing word: the scoreboard, the effect gate, the places of the bytes, and, where `sets` says
that the access acquires them, the sets they touch. A stream's element in the replicated or a remote window is an effect too (R195;
DEDUCED, log 78). -/
def accessPlaces (s : State) (ps : List Place) (cls n : Nat) (store sets : Bool) (k : Acc → State → State) : State :=
  if ps.any fun p => s.rangeWait s.myCk n cls p then s.hold .stalledLA .scoreboard s.me.ceiling
  else if ps.any Place.isEffect then effectGate s fun s => let r := s.resolveAll s.myCk n store ps; k r.1 r.2
  else
    let r := s.resolveAll s.myCk n store ps
    if sets then setGate r.2 r.1 fun s => k r.1 s else k r.1 r.2

/-- One access of the executing word: poison, the checks of R169, then its place. `scalar` says that the
system window may be named (R326), `sets` that the access acquires declared sets (R296). -/
def accessWith (s : State) (a : Reg) (n align : Nat) (store scalar sets : Bool) (k : Acc → State → State) : State :=
  if a.p then s.faultPoison a.v
  else match s.checkAccess s.myCk (s.mode s.cur) a.v n align with
  | .bad c => s.faultAddr c a.v
  | .ok p => if p.isSystem && !scalar then s.faultAddr causeWindow a.v else accessPlaces s [p] (classOf a.v) n store sets k

/-- One access that acquires the sets it touches. -/
def access (s : State) (a : Reg) (n align : Nat) (store scalar : Bool) (k : Acc → State → State) : State :=
  accessWith s a n align store scalar true k

/-- An address formed without wrap, as a pointer with the tag of its base; `none` past either end. -/
def pointerAt (tag : BitVec 16) (x : Int) : Option Reg80 :=
  if 0 ≤ x ∧ x < 2 ^ 64 then some (make tag (BitVec.ofInt 64 x)) else none

/-- The check that an address past either end of a window fails first: class and qualifier, privilege, alignment, limit
(R169). -/
def State.outBad (s : State) (tag : BitVec 16) (align : Nat) (x : Int) : Nat :=
  let cls := tag.toNat / 256
  if !classOk (s.partOf s.myCk) cls (tag.toNat % 256) then causeWindow
  else if cls = 0x7F ∧ s.mode s.cur ≠ .supervisor then causePrivilege
  else if x % (align : Int) ≠ 0 then causeMisaligned
  else causeWindow

/-- The cause of one element's check. -/
def State.elemBad (s : State) (tag : BitVec 16) (n : Nat) (x : Int) : Option Nat :=
  match pointerAt tag x with
  | some a => match s.checkAccess s.myCk (s.mode s.cur) a n n with
    | .bad c => some c
    | .ok p => if p.isSystem then some causeWindow else none
  | none => some (s.outBad tag n x)

/-- The check that fails first over all elements (R140): class and qualifier, privilege, alignment, limit. -/
def State.elemsBad (s : State) (tag : BitVec 16) (n : Nat) (xs : List Int) : Option (Nat × Reg80) :=
  let bad := xs.filterMap fun x => (s.elemBad tag n x).map fun c => (c, make tag (BitVec.ofInt 64 x))
  if !classOk (s.partOf s.myCk) (tag.toNat / 256) (tag.toNat % 256) then xs.head?.map fun x => (causeWindow, make tag (BitVec.ofInt 64 x))
  else match bad.find? fun b => b.1 = causePrivilege with
  | some b => some b
  | none => match bad.find? fun b => b.1 = causeMisaligned with
    | some b => some b
    | none => bad.head?

/-- The accesses of a strided or indexed instruction: every element is checked before any byte moves. A poisoned base, or a
poisoned stride, pitch or index (`steer`), faults (R213). -/
def accessElems (s : State) (base : Reg) (steer : Bool) (xs : List Int) (n : Nat) (store : Bool) (k : Acc → State → State) : State :=
  if base.p ∨ steer then s.faultPoison base.v
  else match s.elemsBad base.tag n xs with
  | some (c, a) => s.faultAddr c a
  | none =>
    let ps := xs.filterMap fun x => match pointerAt base.tag x with
      | some a => match s.checkAccess s.myCk (s.mode s.cur) a n n with
        | .ok p => some p
        | .bad _ => none
      | none => none
    accessPlaces s ps (classOf base.v) n store true k

/-! ## Poison and the pending error (R212) -/

/-- The write that records a poisoned access of the executing word. -/
def State.peWrite (s : State) (a : Reg80) : Wr := .pe s.ctx.pc a

/-- Set the pending error of the executing strand at once. -/
def State.setPe (s : State) (a : Reg80) : State :=
  s.updCtx fun c => if c.pe.set then c else { c with pe := { set := true, pc := c.pc, addr := a } }

/-! ## Reading and writing the pieces of an access -/

/-- Read pieces for the executing strand: their bytes, whether any word is poisoned, and the signatures. -/
def State.readPieces (s : State) (ps : List (Nat × Nat)) : List Byte × Bool × State :=
  let s1 := ps.foldl (fun s p => (linesOf p.1 p.2).foldl (fun s l => s.noteRead s.cur l) s) s
  ((ps.flatMap fun p => s1.readBytes s.cur p.1 p.2), ps.any fun p => s1.readMarked s.cur p.1 p.2, s1)

/-- The lines of pieces. -/
def piecesLines (ps : List (Nat × Nat)) : List Nat := (ps.flatMap fun p => linesOf p.1 p.2).eraseDups

/-- Enter the stores of pieces, with their bytes in order and one mark each. -/
def State.writePieces (s : State) (ps : List (Nat × Nat)) (data : List Byte) (mark : Bool) : State :=
  match ps with
  | [] => s
  | p :: r =>
    (s.noteWrite s.cur { addr := p.1, data := data.take p.2, mark := mark }).writePieces r (data.drop p.2) mark

/-- Where pieces of the replicated area stand in the region's replica (R181). -/
def State.replPlaces (s : State) (ck : Nat) (ps : List (Nat × Nat)) : List Nat :=
  ps.flatMap fun p => (List.range p.2).map fun i => s.replFlat (pidOf ck) (s.rkOf ck) (p.1 + i)

/-- A read of pieces of the region's replica meets what is disturbed there (R351). -/
def State.senseRepl (s : State) (ck : Nat) (ps : List (Nat × Nat)) : State :=
  ((s.replPlaces ck ps).map lineOf).eraseDups.foldl (fun s l => s.sense (some ck) l) s

/-- Read pieces of the region's replica (R181). -/
def State.readRepl (s : State) (ck : Nat) (ps : List (Nat × Nat)) : List Byte × Bool :=
  let fs := s.replPlaces ck ps
  (fs.map fun f => memRead s.mem f, fs.any fun f => s.marked f)

end Sys2Proof.Machine
end

