-- ==== Sys2Proof/Machine/Operands.lean ====
section
/-! DEFINITION. Operand forms: the sources of A-words (Table 2-7) and of C-words (Table 2-5), stream elements
(R188-R191), the completion queue (R246), `ce.st` (R247) and the system registers as they read (R322). -/

namespace Sys2Proof.Machine

/-! ## System registers as sources (R307, R315, R322, R323) -/

/-- A logged value that a replaying core's strand reads next (R307, R377). -/
def State.loggedTime (s : State) (sid : Nat) : Option (BitVec 64) :=
  (s.core (ckOf sid)).replay.findSome? fun r => match r with
    | .time n v => if n = strandNo sid then some v else none
    | _ => none

/-- Remove the first record that `p` picks. -/
def dropFirst {α : Type} (p : α → Bool) : List α → List α
  | [] => []
  | x :: r => if p x then r else x :: dropFirst p r

/-- Read a time or cycle count: it is logged as its chunk commits, and taken from the log in a replay (R307). -/
def State.logged (s : State) (v : BitVec 64) : BitVec 64 × State :=
  match s.loggedTime s.cur with
  | some w =>
    (w, s.updCore s.myCk fun c =>
      { c with replay := dropFirst (fun r => match r with | .time n _ => n == strandNo s.cur | _ => false) c.replay })
  | none => (v, s.updMe fun x => { x with chunk := { x.chunk with times := x.chunk.times ++ [v] } })

/-- `ce.st` (Table 9-10). -/
def State.ceStatus (s : State) : BitVec 64 :=
  let x := s.me
  BitVec.ofNat 64 (x.ceErrCmd.toNat * 2 ^ 32 + x.ceErr.toNat * 2 ^ 24 + x.ceDone.length * 2 ^ 16 +
    x.ceOut.length * 2 ^ 8 + (16 - (s.core s.myCk).fifo.length))

/-- `strid` (Table 13-2). -/
def State.srStrid (s : State) : Nat := (s.mode s.cur).code * 16 + strandNo s.cur
/-- `core` (Table 13-2). -/
def State.srCore (s : State) : Nat :=
  let ck := s.myCk
  lcoreOf ck * 2 ^ 24 + (s.partOf ck).dmod * 2 ^ 16 + s.gxOf ck * 2 ^ 8 + s.gyOf ck * 4 + seatOf ck
/-- `part` (Table 13-2). -/
def State.srPart (s : State) : Nat :=
  let p := s.partOf s.myCk
  p.share * 2 ^ 44 + p.n * 2 ^ 16 + pidOf s.myCk
/-- `place` (Table 13-2). -/
def State.srPlace (s : State) : Nat :=
  let c := s.core s.myCk
  c.rx * 2 ^ 28 + c.ry * 2 ^ 24 + c.group * 2 ^ 18 + c.pos * 2 ^ 15 + (if c.dbl then 2 ^ 14 else 0) +
    (if c.shadow then 2 ^ 13 else 0) + (s.region (c.ry * 12 + c.rx)).groupLive c.group * 2 ^ 8 + (if (s.group (gkOf s.myCk)).arrayLive then 2 ^ 7 else 0)

/-- A system register as a source; every one can be read in every mode (Table 13-1). -/
def readSr (s : State) (r : Fin 21) (k : Reg → State → State) : State :=
  let x := s.me
  match r.val with
  | 0 =>
    let t := s.strandTime s.cur
    let q := s.bump.logged (BitVec.ofNat 64 t)
    k (mk0 q.1 false) (q.2.updMe fun x => { x with lastTm := max x.lastTm q.1.toNat })
  | 1 =>
    let q := s.logged (BitVec.ofNat 64 (s.cyc s.myCk - Store.getD (s.partOf s.myCk).cyc0 (s.rkOf s.myCk) 0))
    k (mk0 q.1 false) q.2
  | 2 => k (mk0 x.alarm false) s
  | 3 => k (mk0 x.wcl false) s
  | 4 => k (mk0 x.chl false) s
  | 5 => k (mk0 (x.tok.setWidth 64) false) s
  | 6 => k (mk0 (x.sn.setWidth 64) false) s
  | 7 => k (mk0 (x.floor.setWidth 64) false) s
  | 8 => k (mk0 x.ag false) s
  | 9 => k (mk0 (s.core s.myCk).trp false) s
  | 10 => k (mk0 (s.core s.myCk).trc false) s
  | 11 => k (mk0 (s.core s.myCk).redpin false) s
  | 12 => k (mk0 x.ctx.fx false) s
  | 13 => k (mk0 x.ctx.rng false) s
  | 14 => k (mk0 (x.slips.setWidth 64) false) s
  | 15 => k (mk0 (BitVec.ofNat 64 s.srStrid) false) s
  | 16 => k (mk0 (BitVec.ofNat 64 s.srCore) false) s
  | 17 => k (mk0 (BitVec.ofNat 64 s.srPart) false) s
  | 18 => k (mk0 (if (s.partOf s.myCk).secure then 1 else 0) false) s
  | 19 => k (mk0 (BitVec.ofNat 64 s.srPlace) false) s
  | _ => k (mk0 ((s.core s.myCk).disc.setWidth 64) false) s

/-! ## Streams (R188-R191) -/

/-- The number of positions of a pattern. -/
def Binding.total (b : Binding) : Nat := b.counts.foldl (· * ·) 1

/-- Σ i_d × D_d for a position, innermost dimension first. -/
def patternSum : List Nat → List (BitVec 64) → Nat → Int
  | c :: cs, d :: ds, t => (t % c : Nat) * d.toInt + patternSum cs ds (t / c)
  | _, _, _ => 0

/-- The address of the next position, without wrap (R188). -/
def Binding.addr (b : Binding) : Int := (b.base.toNat : Int) + patternSum b.counts b.strides b.pos

/-- The address of a position as a pointer, if it is one. -/
def Binding.pointer (b : Binding) : Option Reg80 :=
  if 0 ≤ b.addr ∧ b.addr < 2 ^ 64 then some (make b.tag (BitVec.ofInt 64 b.addr)) else none

/-- A stream fault (R191). -/
def State.faultStream (s : State) (detail : Nat) (j : Fin 8) : State := s.fault causeStream detail [BitVec.ofNat 8 j.val]

/-- Take the next position of a stream in direction `out`, `n` bytes aligned to `n`, at most 128. -/
def takePosition (s : State) (j : Fin 8) (out : Bool) (n : Nat) (k : Acc → Reg80 → State → State) : State :=
  match s.ctx.binds[j] with
  | none => s.faultStream 3 j
  | some b =>
    if b.out != out then s.faultStream 4 j
    else if b.total ≤ b.pos then s.faultStream 5 j
    else match b.pointer with
    | none => s.faultAddr (s.outBad b.tag (min n 128) b.addr) (make b.tag (BitVec.ofInt 64 b.addr))
    | some a =>
      access s { v := a, p := false } n (min n 128) out false fun acc s =>
        k acc a (s.updCtx fun c => { c with binds := c.binds.set j (some { b with pos := b.pos + 1 }) })

/-- The number of elements of stream `j` that have arrived. -/
def Strand.arrivedElems (x : Strand) (j : Fin 8) : Nat := x.buffered[j]

/-- Deliver a popped element: its bytes enter the read signature and its poison sets the pending error. -/
def State.deliverElem (s : State) (a : Reg80) (ps : List (Nat × Nat)) (k : List Byte → Bool → State → State) : State :=
  let r := s.readPieces ps
  if r.2.1 then k r.1 true (r.2.2.setPe a) else k r.1 false r.2.2

/-- Ask another module for an element of a stream; the strand waits for it (R178, R189). -/
def State.askElem (s : State) (j : Fin 8) (m : Nat) (tile : Bool) (offs : List Nat) (n : Nat) : State :=
  remoteGate s fun s =>
    let x := s.me
    let acc : ModAccess := { fromModule := (s.partOf s.myCk).dmod, peer := (s.partOf s.myCk).dpeer, tok := x.tok.toNat, sn := x.sn.toNat, floor := x.floor.toNat, tile := tile, offs := offs, size := n, write := none, atomic := none, add := false, marks := [] }
    let s1 := if x.reqs.any fun q => decide (q.seq = x.seq) then s else s.sendRemote s.cur (.module m) (.module acc) x.seq x.ctx.pc s.second
    s1.hold .stalledStream (.stream j) s.me.ceiling

/-- A position has been popped: what it delivered is noted for the bundle (R38). -/
def State.notePop (s : State) (j : Fin 8) (b : Option Binding) (a : Reg80) (d : List Byte) (p : Bool) (ps : List (Nat × Nat)) : State :=
  match b with
  | some b => s.updMe fun x => { x with popped := x.popped ++ [{ j := j, bind := b, addr := a, data := d, mark := p, pieces := ps, kept := false }] }
  | none => s

/-- An element that was read before the bundle's writes is popped at its place in the bundle: the binding moves on, unless the
other word has bound or released the stream, and the element's lines enter the read signature (R38, R189). -/
def State.popGiven (s : State) (e : Popped) : State :=
  let s1 := if e.kept then s else
    (s.updCtx fun c => { c with binds := c.binds.set e.j (some { e.bind with pos := e.bind.pos + 1 }) }).updMe fun x =>
      { x with buffered := if e.pieces = [] then x.buffered else x.buffered.set e.j (x.arrivedElems e.j - 1),
               elem := if e.pieces = [] then none else x.elem }
  let s2 := e.pieces.foldl (fun s p => (linesOf p.1 p.2).foldl (fun s l => s.noteRead s.cur l) s) s1
  let s3 := if e.mark then s2.setPe e.addr else s2
  if e.kept ∨ e.pieces = [] then s3 else s3.pushOnce (.streamElementArrival s.cur e.j)

/-- Pop one element of `n` bytes from an in-stream (R189). -/
def popStream (s : State) (j : Fin 8) (n : Nat) (k : List Byte → Bool → State → State) : State :=
  match s.me.given with
  | e :: r => k e.data e.mark ((s.updMe fun x => { x with given := r }).popGiven e)
  | [] =>
    let b := s.ctx.binds[j]
    takePosition s j false n fun acc a s =>
      match acc with
      | .module m t off =>
        match s.me.elem with
        | some (i, d, p) =>
          if i = j.val ∧ d.length = n then
            let s1 := (s.updMe fun x => { x with elem := none }).notePop j b a d p []
            k d p (if p then s1.setPe a else s1)
          else s.askElem j m t off n
        | none => s.askElem j m t off n
      | .late c => s.faultAddr c a
      | .system _ _ => s.faultAddr causeWindow a
      | .repl bs =>
        let r := s.readRepl s.myCk bs
        let s1 := s.notePop j b a r.1 r.2 []
        k r.1 r.2 (if r.2 then s1.setPe a else s1)
      | .mem ps =>
        if s.me.arrivedElems j = 0 then
          (s.hold .stalledStream (.stream j) s.me.ceiling).pushOnce (.streamElementArrival s.cur j)
        else
          ((s.updMe fun x => { x with buffered := x.buffered.set j (x.arrivedElems j - 1) }).pushOnce
            (.streamElementArrival s.cur j)).deliverElem a ps fun d p s => k d p (s.notePop j b a d p ps)

/-- A scalar pop: 8 bytes, tag 0 (R189). -/
def popScalar (s : State) (j : Fin 8) (k : Reg → State → State) : State :=
  popStream s j 8 fun d p s => k (mk0 (BitVec.ofNat 64 (ofLE d)) p) s

/-! ## The completion queue (R246) -/

/-- Pop the oldest element of the strand's `ce.c`: an acquiring effect. -/
def popCompletion (s : State) (k : Reg → State → State) : State :=
  effectGate s fun s => conflictGate s 0 fun s =>
    match s.me.ceDone with
    | e :: r => k (mk0 e.1 e.2) (s.updMe fun x => { x with ceDone := r })
    | [] => if s.me.ceOut = [] then s.fault causeWait 8 [] else s.hold .waitQueue .completion s.me.ceiling

/-! ## Sources -/

/-- Read a C-word's source (Table 2-5, R41). -/
def readC (s : State) (src : CSrc) (k : Reg → State → State) : State :=
  match src with
  | .g n => k (s.ctx.greg n) s
  | .pw => k (mk0 (s.ctx.pw.setWidth 64) false) s
  | .vt => k (mk0 s.ctx.vt false) s
  | .pc => k (mk0 s.ctx.pc false) s
  | .zero => k (mk0 0 false) s
  | .iaR => k (s.ctx.latch .iaR) s
  | .ibR => k (s.ctx.latch .ibR) s
  | .faR => k (s.ctx.latch .faR) s
  | .vxS => k (s.ctx.latch .vxS) s
  | .mxSt => k (mk0 s.ctx.mxSt false) s
  | .ls lane => k (s.ctx.latch (laneLatch lane)) s
  | .atR => k (s.ctx.latch .atR) s
  | .ceC => popCompletion s k
  | .ceSt => k (mk0 s.ceStatus false) s
  | .sqR => effectGate s fun s => k (s.ctx.latch .sqR) s
  | .sqSt => k (mk0 s.ctx.sqSt false) s
  | .syR => k (s.ctx.latch .syR) s
  | .q j => popScalar s j k
  | .sr r => readSr s r k
  | .imm i => k (mk0 (i.signExtend 64) false) s

/-- The value of a vector register's low bytes as a scalar never arises: a scalar unit that names v0-v7 is an
illegal word (R48). The vector unit reads v0-v7 itself. -/
def readA (s : State) (src : ASrc) (k : Reg → State → State) : State :=
  match src with
  | .g n => k (s.ctx.greg n) s
  | .iaR => k (s.ctx.latch .iaR) s
  | .ibR => k (s.ctx.latch .ibR) s
  | .faR => k (s.ctx.latch .faR) s
  | .ls lane => k (s.ctx.latch (laneLatch lane)) s
  | .vxS => k (s.ctx.latch .vxS) s
  | .q j => popScalar s j k
  | .v _ => s.faultWord causeIllegal
  | .imm c => k (mk0 (c.signExtend 64) false) s

/-- A source of a vector operation: a register, a popped 512-byte element, or a scalar for every element
(R48, R189). -/
def readV (s : State) (src : ASrc) (k : VArg → State → State) : State :=
  match src with
  | .v n => k (.vec s.ctx.v[n]) s
  | .q j => popStream s j 512 fun d p s => k (.vec { d := BitVec.ofNat 4096 (ofLE d), p := p }) s
  | _ => readA s src fun r s => k (.scal r) s

end Sys2Proof.Machine
end

