-- ==== Sys2Proof/Machine/Flags.lean ====
section
/-! DEFINITION. Flags and predicates: the conditions of the scalar compares (R95, R105), the predicate write
with its pending error (R91), the sticky flags of `fx` (R77, R78) and the checks of `vt` (R114). -/

namespace Sys2Proof.Machine

/-- S64 of a value. -/
def s64 (v : BitVec 64) : Int := v.toInt

/-- cmpeq (R95). -/
def condEq (a b : BitVec 64) : Bool := a == b
/-- cmpne. -/
def condNe (a b : BitVec 64) : Bool := a != b
/-- cmplt. -/
def condLt (a b : BitVec 64) : Bool := decide (s64 a < s64 b)
/-- cmpltu. -/
def condLtu (a b : BitVec 64) : Bool := decide (a.toNat < b.toNat)
/-- cmple. -/
def condLe (a b : BitVec 64) : Bool := decide (s64 a ≤ s64 b)
/-- cmpleu. -/
def condLeu (a b : BitVec 64) : Bool := decide (a.toNat ≤ b.toNat)

/-- FP of a value: its low 32 bits as binary32 (R92). -/
def fpOf (v : BitVec 64) : FV := fp32.decode (v.toNat % 2 ^ 32)

/-- fcmpeq (R105). -/
def fcondEq (a b : BitVec 64) : Bool := fvEq (fpOf a) (fpOf b)
/-- fcmplt. -/
def fcondLt (a b : BitVec 64) : Bool := fvLt (fpOf a) (fpOf b)
/-- fcmple. -/
def fcondLe (a b : BitVec 64) : Bool := fvLt (fpOf a) (fpOf b) || fvEq (fpOf a) (fpOf b)
/-- fcmpun. -/
def fcondUn (a b : BitVec 64) : Bool := (fpOf a).isNan || (fpOf b).isNan

/-- The bit of a condition as a value. -/
def bit64 (b : Bool) : BitVec 64 := if b then 1 else 0

/-- The writes of a compare: the result latch, the predicate that D names, and the pending error of a
predicate written from a poisoned operand, which records no address (R91; log 5). -/
def compareWrites (s : State) (l : Latch) (d : Fin 8) (c p : Bool) : List Wr :=
  .latch l (mk0 (bit64 c) p) ::
    (if d.val = 0 then [] else .pbit d c :: (if p then [.pe s.ctx.pc (Config.freeLatch s.fresh)] else []))

/-- The sticky flags that a result raises. -/
def flagWrites (fl : Nat) : List Wr := if fl = 0 then [] else [.fx (BitVec.ofNat 64 fl)]

/-- FRM (Table 3-11). -/
def frmOf (fx : BitVec 64) : Nat := bitsAt fx 10 8

/-- Whether a value may be written to `fx` (R78, R8). -/
def fxOk (w : BitVec 64) : Bool := decide (bitsAt w 63 11 = 0 ∧ bitsAt w 7 5 = 0 ∧ bitsAt w 10 8 < 6)

/-- Whether a value may be written to `vt` (R114). -/
def vtOk (w : BitVec 64) : Bool :=
  decide (bitsAt w 63 11 = 0 ∧ bitsAt w 6 4 < 6 ∧ bitsAt w 3 0 ≠ 15 ∧ bitsAt w 10 7 ≠ 15)

/-- Write `vt`, or fault (R114). DESIGN CHOICE (log 45): the packet of a refused write carries no register index; R114 and Table 13-6 name none for vt. -/
def writeVt (r : Reg) (s : State) : State :=
  if vtOk r.val then s.write (.vt r.val) else s.fault causeReserved 0 []

/-- A draw of mode SR: `rng` advances at issue (R74, R89). -/
def State.drawSr (s : State) (mode : Nat) : Nat × State :=
  if mode = 5 then
    let g := rngNext s.ctx.rng
    (rngBits g, s.updCtx fun c => { c with rng := g })
  else (0, s)

end Sys2Proof.Machine
end

