-- ==== Sys2Proof/Machine/Transfer.lean ====
section
/-! DEFINITION. Loads and stores through every window, shared by the `ls` triggers, the vector memory
instructions and the operand loads: what becomes of the bytes, and where a store goes (R169-R186, R207). -/

namespace Sys2Proof.Machine

/-- The value that a scalar load delivers (R183): DP[4:2] of Table 7-4. -/
def laneValue (op : Fin 8) (d : List Byte) : Reg80 :=
  let v := ofLE d
  match op.val with
  | 0 => make 0 ((BitVec.ofNat 8 v).signExtend 64)
  | 1 => make 0 (BitVec.ofNat 64 (v % 2 ^ 8))
  | 2 => make 0 ((BitVec.ofNat 16 v).signExtend 64)
  | 3 => make 0 (BitVec.ofNat 64 (v % 2 ^ 16))
  | 4 => make 0 ((BitVec.ofNat 32 v).signExtend 64)
  | 5 => make 0 (BitVec.ofNat 64 (v % 2 ^ 32))
  | 6 => make 0 (BitVec.ofNat 64 v)
  | _ => make (if v / 2 ^ 80 = 0 then BitVec.ofNat 16 (v / 2 ^ 64) else 0xFFFF) (BitVec.ofNat 64 v)

/-- The bytes of a scalar load. -/
def laneBytes (op : Fin 8) : Nat :=
  match op.val with
  | 0 | 1 => 1
  | 2 | 3 => 2
  | 4 | 5 => 4
  | 6 => 8
  | _ => 16

/-- What a load writes when its bytes are there (R183, R142); a poisoned word sets the pending error (R212). -/
def LoadKind.writes (k : LoadKind) (pc : BitVec 64) (a : Reg80) (d : List Byte) (mark : Bool) : List Wr :=
  (match k with
   | .lane op l => [.latch (laneLatch l) { v := laneValue op d, p := mark }]
   | .vec n => [.v n { d := BitVec.ofNat 4096 (ofLE d), p := mark }]
   | .mask n => [.k n { d := BitVec.ofNat 1024 (ofLE d), p := mark }]
   | .rows _ _ => []) ++
  (if mark then [.pe pc a] else [])

/-- The owner that runs the partition's Cascade sequencer (R181, R324). -/
def State.sequencer (s : State) (pid : Nat) : Owner := .group ((s.groupOfKey pid (s.part pid).casc).getD (pid * 2 ^ 22))

/-- An access that this strand makes to another module (R178). -/
def State.modAccess (s : State) (tile : Bool) (offs : List Nat) (size : Nat) (write : Option (List Byte))
    (atomic : Option (AtOp × BitVec 64 × BitVec 64)) (mark : Bool) : ModAccess :=
  { fromModule := (s.partOf s.myCk).dmod, peer := (s.partOf s.myCk).dpeer, tok := s.me.tok.toNat, sn := s.me.sn.toNat, floor := s.me.floor.toNat,
    tile := tile, offs := offs, size := size, write := write, atomic := atomic, add := false, marks := [mark] }

/-- Issue a remote effect message for the executing word, in flight under a window (R207, R232). -/
def State.remoteOp (s : State) (u : FUnit) (la : BitVec 4) (pend : Pend) (port : Bool) (w : Owner) (op : State → RemoteOp) : State :=
  remoteGate s fun s =>
    let seq := s.me.seq
    let s1 := s.asEffect.launchVar u la pend 0 0 port false []
    s1.sendRemote s.cur w (op s) seq s.ctx.pc s.second

/-- The event that delivers a read: a page walk in the rim and replicated windows, an arrival elsewhere. -/
def arrivalEvent (sid seq : Nat) (a : Reg80) : Instr :=
  if classOf a = 3 ∨ classOf a = 4 then .translationWalk sid seq else .variableResultLand sid seq

/-- A late translation fault of the executing word (R176): the access changes nothing, and what follows an effect's does not
commit. -/
def State.lateFault (s : State) (u : FUnit) (la : BitVec 4) (a : Reg80) (cause : Nat) : State :=
  let s1 := if s.me.effIssue then s.asWaiting else s
  (s1.launchVar u la (.walk (some cause) a) s.me.ceiling 17 false true []).push (.translationWalk s.cur s.me.seq)

/-- The window offsets of the pieces of `n` bytes at an address. -/
def pieceOffs (a : Reg80) (n : Nat) : List Nat := (splitLines (offOf a) n).map Prod.fst

/-- A load through a checked access of `n` bytes (at each place, for several). -/
def loadOp (s : State) (u : FUnit) (la : BitVec 4) (a : Reg80) (n : Nat) (kind : LoadKind) (acc : Acc) : State :=
  let port := match kind with
    | .lane _ _ => true
    | _ => false
  match acc with
  | .mem ps =>
    let r := s.readPieces ps
    (r.2.2.launchVar u la (.bytes kind a) s.me.ceiling 17 port true (kind.writes s.ctx.pc a r.1 r.2.1)).push
      (arrivalEvent s.cur s.me.seq a)
  | .late c => s.lateFault u la a c
  | .repl bs =>
    let s := s.senseRepl s.myCk bs
    let r := s.readRepl s.myCk bs
    (s.asEffect.launchVar u la (.bytes kind a) s.me.ceiling 17 port true (kind.writes s.ctx.pc a r.1 r.2)).push
      (arrivalEvent s.cur s.me.seq a)
  | .module m t offs =>
    s.remoteOp u la (.bytes kind a) port (.module m) fun s => .module (s.modAccess t offs n none none false)
  | .system _ _ => s.faultAddr causeWindow a

/-! ## The undo log of a task that holds sets (R299) -/

/-- The local offset of a task's undo log. -/
def State.undoAt (s : State) (ck i : Nat) : Nat := localFlat ck (s.load (localFlat ck (64 * i + 48)) 4)

/-- The flat lines that a task's undo log already holds. -/
def State.loggedLines (s : State) (ck i : Nat) : List Nat :=
  let u := s.undoAt ck i
  (List.range (s.load u 4)).filterMap fun e =>
    let b := memReadList s.mem (u + 64 + 144 * e) 10
    (s.flatPieces ck (make (BitVec.ofNat 16 (fieldAt b 8 2)) (BitVec.ofNat 64 (fieldAt b 0 8))) 1).map fun ps => (ps.headD (0, 0)).1 / 128

/-- The lines that a strand's uncommitted chunks and its atomics on their way may log (R299). -/
def Strand.undoPending (x : Strand) : List Nat :=
  let f := fun (k : Chunk) => k.deferred.filterMap fun d => match d with | .undo _ _ key => some key | _ => none
  let away := x.reqs.filterMap fun q => match q.msg.op with
    | .atomic _ _ addr _ _ _ true => some (addr / 128)
    | _ => none
  ((match x.await with | some (_, k) => f k | none => []) ++ f x.chunk ++ away).eraseDups

/-- Whether a flat line lies in a set the strand's task holds. -/
def State.inHeldSet (s : State) (sid line : Nat) : Bool :=
  let held := s.heldSets sid
  (List.finRange 8).any fun (n : Fin 8) => held.testBit n.val && s.setCovers (ckOf sid) (s.strand sid).sets[n] [line]

/-- The lines of some pieces that have still to be logged, each with the pointer it was reached through. -/
def State.undoNeeds (s : State) (sid i : Nat) (tag : BitVec 16) (ps : List (Nat × Nat)) (offs : List Nat) : List (Nat × Reg80) :=
  let old := s.loggedLines (ckOf sid) i ++ (s.strand sid).undoPending
  let ls := ((ps.zip offs).map fun p => (p.1.1 / 128, make tag (BitVec.ofNat 64 (p.2 / 128 * 128)))).eraseDups
  ls.filter fun l => s.inHeldSet sid l.1 && !old.contains l.1

/-- A store to lines of held sets logs them when its chunk commits; it faults when the log has no room (R299). -/
def undoGate (s : State) (tag : BitVec 16) (ps : List (Nat × Nat)) (offs : List Nat) (k : State → State) : State :=
  match s.me.task with
  | none => k s
  | some i =>
    if s.heldSets s.cur = 0 then k s
    else
      let need := s.undoNeeds s.cur i tag ps offs
      let u := s.undoAt s.myCk i
      if need = [] then k s
      else if s.load (u + 4) 4 < s.load u 4 + s.me.undoPending.length + need.length then s.faultAddr causeUndo (make tag (BitVec.ofNat 64 (offs.headD 0)))
      else
        let ds := need.map fun l => Deferred.undo l.2 (s.readBytes s.cur (l.1 * 128) 128) l.1
        k (s.updMe fun x => { x with chunk := { x.chunk with deferred := x.chunk.deferred ++ ds } })

/-- The marks of the six operand places of an entry, the first at `a`. -/
def noteMarks (p : List Nat) (a : Nat) (ms : List Bool) : List Nat :=
  (List.range 6).foldl (fun p i => setMark p (a + 10 * i) (ms.getD i false)) p

/-- A task that holds a set defers its outward effects (R300): the trigger word, its source, what else must be known
(`extra`) and the latches `ls` it consumed go to the next deferred entry of the undo log, with their marks (R212), and the window ends at
once. -/
def deferGate (s : State) (src : Reg) (extra : List Reg) (ls : List Latch) (k : State → State) : State :=
  match s.me.task with
  | none => k s
  | some i =>
    if s.heldSets s.cur = 0 then k s
    else effectGate s fun s =>
      let u := s.undoAt s.myCk i
      let r := localFlat s.myCk (64 * i + 30)
      let n := s.load r 2
      if s.load (u + 8) 4 ≤ n then s.faultAddr causeUndo src.v
      else
        let regs := addrBytes src.v ++ (extra.flatMap fun r => addrBytes r.v) ++ ls.flatMap fun l => addrBytes (s.ctx.latch l).v
        let ms := src.p :: (extra.map (·.p) ++ ls.map fun l => (s.ctx.latch l).p)
        let e := leBytes 4 s.word.toNat ++ List.replicate 12 (0 : Byte) ++ (regs ++ List.replicate 80 (0 : Byte)).take 80
        let at_ := u + 64 + 144 * s.load (u + 4) 4 + 96 * n
        let s1 := s.place none { addr := at_, data := e, mark := false }
        (({ s1 with deferMarks := noteMarks s1.deferMarks (at_ + 16) ms }).placeNum none r 2 (n + 1) false).consumeAll ls

/-- A store to a window that makes it an effect: by the Cascade sequencer, or in another module (R178, R181). -/
def farStore (s : State) (u : FUnit) (la : BitVec 4) (n : Nat) (data : List Byte) (mark : Bool) (acc : Acc) : State :=
  match acc with
  | .repl bs =>
    s.remoteOp u la .remote false (s.sequencer (pidOf s.myCk)) fun s =>
      .repl (pidOf s.myCk) { sid := s.cur, seq := s.me.seq, places := bs, data := data, poison := mark }
  | .module m t offs => s.remoteOp u la .remote false (.module m) fun s => .module (s.modAccess t offs n (some data) none mark)
  | _ => s

/-- A store through a checked access: into the chunk's store buffer, or as an effect of its own (R184). `offs` are
the window offsets of the pieces; `src`, `extra` and `ls` are what a deferred entry holds. -/
def storeOp (s : State) (u : FUnit) (la : BitVec 4) (a : Reg80) (n : Nat) (offs : List Nat) (data : List Byte) (mark : Bool)
    (src : Reg) (extra : List Reg) (ls : List Latch) (acc : Acc) : State :=
  match acc with
  | .mem ps => undoGate s (tagOf a) ps offs fun s => storeGate s (piecesLines ps) fun s => s.writePieces ps data mark
  | .late c => s.lateFault u la a c
  | .repl bs => deferGate s src extra ls fun s => farStore s u la n data mark (.repl bs)
  | .module m t offs => deferGate s src extra ls fun s => farStore s u la n data mark (.module m t offs)
  | .system _ _ => s.faultAddr causeWindow a

end Sys2Proof.Machine
end

