-- ==== Sys2Proof/Machine/Vector.lean ====
section
/-! DEFINITION. The vector unit: prefixes and types (R117, R118), the triggers of Table 5-3, `vset`, `vpfx`, the
exchange (R135) and vector and mask memory (R140-R142). -/

namespace Sys2Proof.Machine

/-! ## What an operation admits (Table 5-3) -/

/-- Whether an operation admits RM. -/
def VOp.admitsRm : VOp → Bool
  | .add | .sub | .mul | .fma | .fms | .nfma | .cvt | .wadd | .wmul | .narrow | .sacc | .encq
  | .exp2 | .log2 | .rcp | .rsq | .tanh => true
  | _ => false

/-- Whether an operation admits X. -/
def VOp.admitsX : VOp → Bool
  | .fma | .fms | .nfma | .slide => true
  | _ => false

/-- Whether an operation admits SAT. -/
def VOp.admitsSat : VOp → Bool
  | .add | .sub | .mul | .abs | .neg | .cvt | .narrow => true
  | _ => false

/-- Whether an operation admits MZ. -/
def VOp.admitsMz : VOp → Bool
  | .sel | .sum | .maxr | .minr | .encq | .popcm => false
  | _ => true

/-- An unprefixed operation (R49). -/
def noPrefix : Prefix := { mask := 0, mz := false, rm := 6, x := false, v4 := 0, sat := false }

/-- Whether a prefix sets any field (R117). -/
def prefixSets (p : Prefix) : Bool := decide (p.mask ≠ 0) || p.mz || decide (p.rm ≠ 6) || p.x || p.sat

/-- Whether the fields of a prefix are admitted (R117). -/
def prefixOk (op : VOp) (p : Prefix) : Bool :=
  (op.admitsRm || decide (p.rm = 6)) && (op.admitsX || !p.x) && (op.admitsSat || !p.sat) &&
  (op.admitsMz || !p.mz) && (!p.mz || decide (p.mask ≠ 0)) && (op != .sel || decide (p.mask ≠ 0))

/-- Whether an operation's types are permitted (R118, R128-R131). `src` is the source group's first register. -/
def vecTypeOk (op : VOp) (vt : BitVec 64) (p : Prefix) (d src : Fin 8) : Bool :=
  let t := etOf vt
  let u := wtOf vt
  let fi := t.kind == .f || t.kind == .i
  let fei := t.kind != .q
  let wide := u.w / t.w
  let slim := t.w / u.w
  let kinds := match op with
    | .add | .sub | .mul | .min | .max | .abs | .neg | .cmpeq | .cmpne | .cmplt | .cmple | .sum | .maxr | .minr => fi
    | .mulh | .shl | .shr | .sar | .iota => t.kind == .i
    | .fma | .fms | .nfma | .exp2 | .log2 | .rcp | .rsq | .tanh => t.kind == .f
    | .perm => decide (16 ≤ t.w)
    | .cvt => fei && u.kind != .q && (wide == 1 || wide == 2 || wide == 4) && decide (t.w ≤ u.w) && decide (d.val % wide = 0)
    | .wadd | .wmul =>
      fei && u.kind != .q && ((t.kind == .i) == (u.kind == .i)) && (wide == 2 || wide == 4) && decide (d.val % wide = 0)
    | .narrow => fei && u.kind != .q && (slim == 2 || slim == 4) && decide (src.val % slim = 0)
    | .sacc => decide (t.code = 0)
    | _ => true
  let rm := decide (p.rm = 6) || (match op with
    | .add | .sub | .mul | .wadd | .wmul => t.isFloat
    | .cvt | .narrow => t.isFloat || u.isFloat
    | .encq => false
    | _ => true)
  let sat := !p.sat || (match op with
    | .add | .sub | .mul | .abs | .neg => t.kind == .i
    | .cvt => t.kind == .i && u.kind == .i && decide (t.w = u.w)
    | .narrow => t.kind == .i && u.kind == .i
    | _ => true)
  kinds && rm && sat

/-- A *vector type* fault: the packet carries ET, WT and OP (R118). -/
def State.faultVecType (s : State) (op : Nat) : State :=
  s.fault causeVecType 0 [BitVec.ofNat 8 (bitsAt s.ctx.vt 3 0), BitVec.ofNat 8 (bitsAt s.ctx.vt 10 7), BitVec.ofNat 8 op]

/-! ## The shadow pool (R204) -/

/-- The vector registers that a result writes. -/
def vecDests (op : VOp) (vt : BitVec 64) (d : Fin 8) : List (Fin 8) :=
  match op with
  | .cmpeq | .cmpne | .cmplt | .cmple | .sum | .maxr | .minr | .popcm => []
  | .cvt | .wadd | .wmul => (List.range ((wtOf vt).w / (etOf vt).w)).map (regPlus d)
  | _ => [d]

/-- The number of set bits of a mask of registers. -/
def countBits (m : BitVec 8) : Nat := ((List.range 8).filter fun i => m.getLsbD i).length

/-- The register copies that a strand's chunks hold. -/
def Strand.copies (x : Strand) : Nat :=
  countBits x.chunk.vsaved + (match x.await with | some (_, k) => countBits k.vsaved | none => 0)

/-- The register copies in use in a core. -/
def State.copiesUsed (s : State) (ck : Nat) : Nat := ((coreStrands ck).map fun i => (s.strand i).copies).foldl (· + ·) 0

/-- Whether the chunk that a serial run stands for would have found the core's pool empty here (R194, R205). -/
def State.serialPoolEnds (s : State) (ds : List (Fin 8)) : Bool :=
  match s.me.serialRun with
  | none => false
  | some (_, vs) =>
    let more := ds.filter fun d => !vs.getLsbD d.val && !s.me.chunk.vsaved.getLsbD d.val
    let kept := (List.finRange 8).countP fun d => vs.getLsbD d.val && !s.me.chunk.vsaved.getLsbD d.val
    more != [] && decide (16 < s.copiesUsed s.myCk + kept + more.length)

/-- A chunk's first write to a vector register takes a copy from the core's pool of 16; with the pool empty the
chunk ends before the bundle, or the strand waits at its first bundle (R194, R204). -/
def poolGate (s : State) (ds : List (Fin 8)) (k : State → State) : State :=
  let new := ds.filter fun d => !s.me.chunk.vsaved.getLsbD d.val
  if s.serialPoolEnds ds then s.serialEnds
  else if s.copiesUsed s.myCk + new.length ≤ 16 ∨ new = [] then
    k (s.updMe fun x =>
      let m := new.foldl (fun m d => m ||| BitVec.ofNat 8 (2 ^ d.val)) x.chunk.vsaved
      { x with chunk := { x.chunk with vsaved := m } })
  else if s.me.chunk.len ≠ 0 then s.endFirst
  else s.hold .stalledLA .pool 0

/-! ## Triggers -/

/-- The request that a trigger captures (R115, R119). -/
def State.vecReq (s : State) (op : VOp) (d : Fin 8) (a b : VArg) (p : Prefix) (quart : Nat) : VReq :=
  { op := op, d := d, o := a, t := b, vt := s.ctx.vt,
    mask := if p.mask.val = 0 then none else some s.ctx.k[Fin.ofNat 4 (p.mask.val - 1)],
    mz := p.mz, rm := p.rm, add := if p.x then some s.ctx.v[p.v4] else none, sat := p.sat, quart := quart,
    rng := s.ctx.rng }

/-- The latency of a vector operation (Table 5-3). -/
def VOp.lat : VOp → Nat
  | .exp2 | .log2 | .rcp | .rsq | .tanh => 8
  | _ => 4

/-- Capture an operation and put its result in flight; mode SR draws at issue (R74, R119). -/
def vecTrigger (op : VOp) (d : Fin 8) (a b : VArg) (p : Prefix) (quart : Nat) (s : State) : State :=
  let q := s.vecReq op d a b p quart
  (s.updCtx fun c => { c with rng := q.rngAfter }).trigger .vx op.lat [.vop q]

/-- A vector operation: its prefix, its guard, its types, then its operands (R52, R117, R118). -/
def vecOp (op : VOp) (h : Hdr) (d src : Fin 8) (ops : State → (VArg → VArg → State → State) → State) (quart : Nat)
    (check : VArg → Bool) (s : State) : State :=
  let p := s.me.prefixed.getD noPrefix
  if !prefixOk op p then s.faultWord causeIllegal
  else guarded h s fun s =>
    if !vecTypeOk op s.ctx.vt p d src then s.faultVecType (s.word.toNat / 2 ^ 14 % 64)
    else ops s fun a b s =>
      if !check b then s.fault causeSuperscale 0 []
      else poolGate s (vecDests op s.ctx.vt d) fun s => vecTrigger op d a b p quart s

/-- No operand. -/
def noArg : VArg := .scal Reg.zero
/-- Two sources. -/
def two (o t : ASrc) (s : State) (k : VArg → VArg → State → State) : State := readV s o fun a s => readV s t fun b s => k a b s
/-- One source. -/
def one (o : ASrc) (s : State) (k : VArg → VArg → State → State) : State := readV s o fun a s => k a noArg s
/-- A vector source and a scalar read through Val (R122, R134). -/
def vecScal (o t : ASrc) (s : State) (k : VArg → VArg → State → State) : State :=
  readV s o fun a s => readA s t fun b s => k a (.scal b) s
/-- Two scalars (R133). -/
def scals (o t : ASrc) (s : State) (k : VArg → VArg → State → State) : State :=
  readA s o fun a s => readA s t fun b s => k (.scal a) (.scal b) s
/-- A register named outright. -/
def reg1 (o : Fin 8) (s : State) (k : VArg → VArg → State → State) : State := k (.vec s.ctx.v[o]) noArg s
/-- A mask. -/
def msk1 (o : Fin 4) (s : State) (k : VArg → VArg → State → State) : State := k (.msk s.ctx.k[o]) noArg s
/-- The source group of `narrow` (R131). -/
def group1 (o : Fin 8) (s : State) (k : VArg → VArg → State → State) : State :=
  k (.group ((List.range ((etOf s.ctx.vt).w / (wtOf s.ctx.vt).w)).map fun j => s.ctx.v[regPlus o j])) noArg s
/-- A register and a scalar (R136). -/
def regScal (o : Fin 8) (t : ASrc) (s : State) (k : VArg → VArg → State → State) : State :=
  readA s t fun b s => k (.vec s.ctx.v[o]) (.scal b) s
/-- No check of the operands. -/
def anyArg (_ : VArg) : Bool := true
/-- The superscale of `sexp` must be positive, normal and finite (R136). -/
def superArg (b : VArg) : Bool := goodSuper (b.scalar.toNat % 2 ^ 32)
/-- A mask register's number as a destination. -/
def kDest (d : Fin 4) : Fin 8 := Fin.ofNat 8 d.val

/-- VPFX (R49): the prefix of the vector A-word it pairs with. -/
def execVpfx (p : Prefix) (s : State) : Res := .next (s.updMe fun x => { x with prefixed := some p })

/-- VSET (R114). -/
def execVset (h : Hdr) (c : CSrc) (s : State) : Res := .next (guarded h s fun s => readC s c writeVt)

/-- VX_ADD (R123). -/
def execVxAdd (h : Hdr) (d : Fin 8) (o t : ASrc) (s : State) : Res := .next (vecOp .add h d 0 (two o t) 0 anyArg s)
/-- VX_SUB (R123). -/
def execVxSub (h : Hdr) (d : Fin 8) (o t : ASrc) (s : State) : Res := .next (vecOp .sub h d 0 (two o t) 0 anyArg s)
/-- VX_MUL (R123). -/
def execVxMul (h : Hdr) (d : Fin 8) (o t : ASrc) (s : State) : Res := .next (vecOp .mul h d 0 (two o t) 0 anyArg s)
/-- VX_MULH (R123). -/
def execVxMulh (h : Hdr) (d : Fin 8) (o t : ASrc) (s : State) : Res := .next (vecOp .mulh h d 0 (two o t) 0 anyArg s)
/-- VX_FMA (R124). -/
def execVxFma (h : Hdr) (d : Fin 8) (o t : ASrc) (s : State) : Res := .next (vecOp .fma h d 0 (two o t) 0 anyArg s)
/-- VX_FMS (R124). -/
def execVxFms (h : Hdr) (d : Fin 8) (o t : ASrc) (s : State) : Res := .next (vecOp .fms h d 0 (two o t) 0 anyArg s)
/-- VX_NFMA (R124). -/
def execVxNfma (h : Hdr) (d : Fin 8) (o t : ASrc) (s : State) : Res := .next (vecOp .nfma h d 0 (two o t) 0 anyArg s)
/-- VX_MIN (R123). -/
def execVxMin (h : Hdr) (d : Fin 8) (o t : ASrc) (s : State) : Res := .next (vecOp .min h d 0 (two o t) 0 anyArg s)
/-- VX_MAX (R123). -/
def execVxMax (h : Hdr) (d : Fin 8) (o t : ASrc) (s : State) : Res := .next (vecOp .max h d 0 (two o t) 0 anyArg s)
/-- VX_ABS (R123). -/
def execVxAbs (h : Hdr) (d : Fin 8) (o : ASrc) (s : State) : Res := .next (vecOp .abs h d 0 (one o) 0 anyArg s)
/-- VX_NEG (R123). -/
def execVxNeg (h : Hdr) (d : Fin 8) (o : ASrc) (s : State) : Res := .next (vecOp .neg h d 0 (one o) 0 anyArg s)
/-- VX_AND (R125). -/
def execVxAnd (h : Hdr) (d : Fin 8) (o t : ASrc) (s : State) : Res := .next (vecOp .and h d 0 (two o t) 0 anyArg s)
/-- VX_OR (R125). -/
def execVxOr (h : Hdr) (d : Fin 8) (o t : ASrc) (s : State) : Res := .next (vecOp .or h d 0 (two o t) 0 anyArg s)
/-- VX_XOR (R125). -/
def execVxXor (h : Hdr) (d : Fin 8) (o t : ASrc) (s : State) : Res := .next (vecOp .xor h d 0 (two o t) 0 anyArg s)
/-- VX_SHL (R125). -/
def execVxShl (h : Hdr) (d : Fin 8) (o t : ASrc) (s : State) : Res := .next (vecOp .shl h d 0 (two o t) 0 anyArg s)
/-- VX_SHR (R125). -/
def execVxShr (h : Hdr) (d : Fin 8) (o t : ASrc) (s : State) : Res := .next (vecOp .shr h d 0 (two o t) 0 anyArg s)
/-- VX_SAR (R125). -/
def execVxSar (h : Hdr) (d : Fin 8) (o t : ASrc) (s : State) : Res := .next (vecOp .sar h d 0 (two o t) 0 anyArg s)
/-- VX_CMPEQ (R126). -/
def execVxCmpeq (h : Hdr) (d : Fin 4) (o t : ASrc) (s : State) : Res := .next (vecOp .cmpeq h (kDest d) 0 (two o t) 0 anyArg s)
/-- VX_CMPNE (R126). -/
def execVxCmpne (h : Hdr) (d : Fin 4) (o t : ASrc) (s : State) : Res := .next (vecOp .cmpne h (kDest d) 0 (two o t) 0 anyArg s)
/-- VX_CMPLT (R126). -/
def execVxCmplt (h : Hdr) (d : Fin 4) (o t : ASrc) (s : State) : Res := .next (vecOp .cmplt h (kDest d) 0 (two o t) 0 anyArg s)
/-- VX_CMPLE (R126). -/
def execVxCmple (h : Hdr) (d : Fin 4) (o t : ASrc) (s : State) : Res := .next (vecOp .cmple h (kDest d) 0 (two o t) 0 anyArg s)
/-- VX_SEL (R126). -/
def execVxSel (h : Hdr) (d : Fin 8) (o t : ASrc) (s : State) : Res := .next (vecOp .sel h d 0 (two o t) 0 anyArg s)
/-- VX_CVT (R129). -/
def execVxCvt (h : Hdr) (d : Fin 8) (o : ASrc) (s : State) : Res := .next (vecOp .cvt h d 0 (one o) 0 anyArg s)
/-- VX_WADD (R130). -/
def execVxWadd (h : Hdr) (d : Fin 8) (o t : ASrc) (s : State) : Res := .next (vecOp .wadd h d 0 (two o t) 0 anyArg s)
/-- VX_WMUL (R130). -/
def execVxWmul (h : Hdr) (d : Fin 8) (o t : ASrc) (s : State) : Res := .next (vecOp .wmul h d 0 (two o t) 0 anyArg s)
/-- VX_NARROW (R131). -/
def execVxNarrow (h : Hdr) (d o : Fin 8) (s : State) : Res := .next (vecOp .narrow h d o (group1 o) 0 anyArg s)
/-- VX_SUM (R132). -/
def execVxSum (h : Hdr) (o : ASrc) (s : State) : Res := .next (vecOp .sum h 0 0 (one o) 0 anyArg s)
/-- VX_MAXR (R132). -/
def execVxMaxr (h : Hdr) (o : ASrc) (s : State) : Res := .next (vecOp .maxr h 0 0 (one o) 0 anyArg s)
/-- VX_MINR (R132). -/
def execVxMinr (h : Hdr) (o : ASrc) (s : State) : Res := .next (vecOp .minr h 0 0 (one o) 0 anyArg s)
/-- VX_PERM (R134). -/
def execVxPerm (h : Hdr) (d : Fin 8) (o t : ASrc) (s : State) : Res := .next (vecOp .perm h d 0 (two o t) 0 anyArg s)
/-- VX_SHUF (R134). -/
def execVxShuf (h : Hdr) (d : Fin 8) (o t : ASrc) (s : State) : Res := .next (vecOp .shuf h d 0 (vecScal o t) 0 anyArg s)
/-- VX_BCAST (R134). -/
def execVxBcast (h : Hdr) (d : Fin 8) (o t : ASrc) (s : State) : Res := .next (vecOp .bcast h d 0 (vecScal o t) 0 anyArg s)
/-- VX_SLIDE (R134). -/
def execVxSlide (h : Hdr) (d : Fin 8) (o t : ASrc) (s : State) : Res := .next (vecOp .slide h d 0 (vecScal o t) 0 anyArg s)
/-- VX_SEXP (R136). -/
def execVxSexp (h : Hdr) (d o : Fin 8) (t : ASrc) (s : State) : Res := .next (vecOp .sexp h d 0 (regScal o t) 0 superArg s)
/-- VX_SACC (R137). -/
def execVxSacc (h : Hdr) (d : Fin 8) (o t : ASrc) (s : State) : Res := .next (vecOp .sacc h d 0 (two o t) 0 anyArg s)
/-- VX_DECQ (R138). -/
def execVxDecq (h : Hdr) (d o : Fin 8) (q : Fin 4) (s : State) : Res := .next (vecOp .decq h d 0 (reg1 o) q.val anyArg s)
/-- VX_ENCQ (R139). -/
def execVxEncq (h : Hdr) (d o : Fin 8) (q : Fin 4) (s : State) : Res := .next (vecOp .encq h d 0 (reg1 o) q.val anyArg s)
/-- VX_EXP2 (R127). -/
def execVxExp2 (h : Hdr) (d : Fin 8) (o : ASrc) (s : State) : Res := .next (vecOp .exp2 h d 0 (one o) 0 anyArg s)
/-- VX_LOG2 (R127). -/
def execVxLog2 (h : Hdr) (d : Fin 8) (o : ASrc) (s : State) : Res := .next (vecOp .log2 h d 0 (one o) 0 anyArg s)
/-- VX_RCP (R127). -/
def execVxRcp (h : Hdr) (d : Fin 8) (o : ASrc) (s : State) : Res := .next (vecOp .rcp h d 0 (one o) 0 anyArg s)
/-- VX_RSQ (R127). -/
def execVxRsq (h : Hdr) (d : Fin 8) (o : ASrc) (s : State) : Res := .next (vecOp .rsq h d 0 (one o) 0 anyArg s)
/-- VX_TANH (R127). -/
def execVxTanh (h : Hdr) (d : Fin 8) (o : ASrc) (s : State) : Res := .next (vecOp .tanh h d 0 (one o) 0 anyArg s)
/-- VX_POPCM (R133). -/
def execVxPopcm (h : Hdr) (o : Fin 4) (s : State) : Res := .next (vecOp .popcm h 0 0 (msk1 o) 0 anyArg s)
/-- VX_IOTA (R133). -/
def execVxIota (h : Hdr) (d : Fin 8) (o t : ASrc) (s : State) : Res := .next (vecOp .iota h d 0 (scals o t) 0 anyArg s)
/-- VX_MMOV (R133). -/
def execVxMmov (h : Hdr) (d : Fin 8) (o : Fin 4) (s : State) : Res := .next (vecOp .mmov h d 0 (msk1 o) 0 anyArg s)

/-! ## The exchange (R135) -/

/-- Slice `j` of a register: 128 bytes. -/
def sliceOf (r : VReg) (j : Nat) : BitVec 1024 := r.d.extractLsb' (1024 * j) 1024

/-- What seat `seat` receives: slice j from slice `seat` of seat j. -/
def exchanged (vs : List VReg) (seat : Nat) : VReg :=
  let sl := fun j => (sliceOf (vs.getD j VReg.zero) seat).toNat
  { d := BitVec.ofNat 4096 (sl 0 + 2 ^ 1024 * sl 1 + 2 ^ 2048 * sl 2 + 2 ^ 3072 * sl 3), p := vs.any VReg.p }

/-- The seats that joined, as a mask. -/
def seatMask (l : List Nat) : Nat := (l.map fun sid => 2 ^ seatOf (ckOf sid)).foldl (· + ·) 0

/-- The register a participant gives, as its `xchg` read it. -/
def Strand.offered (x : Strand) : VReg :=
  (x.ctx.flights.findSome? fun f => match f.pend with | .xchg _ v => some v | _ => none).getD VReg.zero

/-- The waiting exchange result of a participant: its number and destination. -/
def Strand.exchange (x : Strand) : Option (Nat × Fin 8) :=
  x.ctx.flights.findSome? fun f => match f.pend with | .xchg d _ => some (f.seq, d) | _ => none

/-- A participant's result arrives: it is visible after 3 more of its bundles, the `xchg` being the first of
the 4 (R135, R119). -/
def Strand.finishExchange (x : Strand) (left : Nat) (r : VReg) : Strand :=
  match x.exchange with
  | none => x
  | some (seq, d) =>
    let set := fun (c : Ctx) =>
      { c with flights := c.flights.map fun f =>
          if f.seq = seq then { f with left := left, arrived := true, pend := .none, acts := [.v d r] } else f }
    { x with ctx := set x.ctx, start := set x.start, effect := none, waitFrom := none }

/-- The fourth seat has joined: every participant's result arrives and it leaves the wait. -/
def State.completeExchange (s : State) (gk : Nat) (n : Nat) (sids : List Nat) : State :=
  let vs := (List.range 4).map fun j => (s.strand (sidOf (gk * 4 + j) n)).offered
  let s1 := s.updData gk fun g => { g with xchg := Store.del g.xchg n }
  sids.foldl (fun s sid => (s.updStrand sid fun x =>
    let y := x.finishExchange (if sid = s.cur then 4 else 3) (exchanged vs (seatOf (ckOf sid)))
    if y.ctx.overdue.isSome then y else y.wake).logWait sid) s1

/-- VX_XCHG (R135): no prefix field is admitted. -/
def execVxXchg (h : Hdr) (d o : Fin 8) (s : State) : Res :=
  .next (if prefixSets (s.me.prefixed.getD noPrefix) then s.faultWord causeIllegal
    else guarded h s fun s => effectGate s fun s => conflictGate s 0 fun s =>
      poolGate s [d] fun s =>
        let gk := gkOf s.myCk
        let n := strandNo s.cur
        let joined := insertNat (((s.group gk).data.xchg.find n).getD []) s.cur
        let s1 := (s.asWaiting.launch .vx 1 false (.xchg d s.ctx.v[o]) s.me.ceiling 2 []).updMe fun x => { x with closes := true }
        if joined.length = 4 then s1.completeExchange gk n joined
        else s1.updData gk fun g => { g with xchg := Store.put g.xchg n joined })

/-! ## Vector and mask memory (R140-R142) -/

/-- The bytes of a register. -/
def VReg.bytes (r : VReg) : List Byte := leBytes 512 r.d.toNat
/-- The bytes of a mask. -/
def KReg.bytes (k : KReg) : List Byte := leBytes 128 k.d.toNat

/-- A typed access of a 4-bit element type is a *vector type* fault, found before the addresses (R140, R141). -/
def typed (s : State) (k : State → State) : State := if (etOf s.ctx.vt).w < 8 then s.faultVecType (s.word.toNat / 2 ^ 12 % 64) else k s

/-- Whether the stride, or the index register, of a form is poisoned (R213). -/
def steers (s : State) (idx : Bool) : Bool := if idx then s.ctx.v[(7 : Fin 8)].p else (s.ctx.greg 23).p

/-- The element addresses of the strided forms: s + i × d with the stride in g23. -/
def strided (s : State) (a : Reg) : List Int :=
  let d := (s.ctx.greg 23).val.toInt
  (List.range (etOf s.ctx.vt).n).map fun (i : Nat) => (a.val.toNat : Int) + (i : Int) * d

/-- The element addresses of the indexed forms: s + x_i × (w / 8) with the indices in v7. -/
def indexed (s : State) (a : Reg) : List Int :=
  let t := etOf s.ctx.vt
  (List.range t.n).map fun (i : Nat) => ((a.val.toNat + elemAt s.ctx.v[(7 : Fin 8)].d t.w i * (t.w / 8) : Nat) : Int)

/-- The element addresses of a form, indexed or strided. -/
def elemAddrs (s : State) (idx : Bool) (a : Reg) : List Int := if idx then indexed s a else strided s a

/-- Load a register from element addresses. -/
def loadElems (h : Hdr) (la : BitVec 4) (n : Fin 8) (c : CSrc) (idx : Bool) (s : State) : State :=
  guarded h s fun s => readC s c fun a s => typed s fun s =>
    let w := (etOf s.ctx.vt).w / 8
    accessElems s a (steers s idx) (elemAddrs s idx a) w false fun acc s => poolGate s [n] fun s => loadOp s .vm la a.v w (.vec n) acc

/-- Store a register to element addresses, in rising element order (R141). -/
def storeElems (h : Hdr) (la : BitVec 4) (n : Fin 8) (c : CSrc) (idx : Bool) (s : State) : State :=
  guarded h s fun s => readC s c fun a s => typed s fun s =>
    let w := (etOf s.ctx.vt).w / 8
    accessElems s a (steers s idx) (elemAddrs s idx a) w true fun acc s => storeOp s .vm la a.v w ((elemAddrs s idx a).map Int.toNat) s.ctx.v[n].bytes s.ctx.v[n].p a [] [] acc

/-- VLD (R140). -/
def execVld (h : Hdr) (la : BitVec 4) (n : Fin 8) (c : CSrc) (s : State) : Res :=
  .next (guarded h s fun s => readC s c fun a s => access s a 512 128 false false fun acc s =>
    poolGate s [n] fun s => loadOp s .vm la a.v 512 (.vec n) acc)
/-- VST (R140). -/
def execVst (h : Hdr) (la : BitVec 4) (n : Fin 8) (c : CSrc) (s : State) : Res :=
  .next (guarded h s fun s => readC s c fun a s => access s a 512 128 true false fun acc s =>
    storeOp s .vm la a.v 512 (pieceOffs a.v 512) s.ctx.v[n].bytes s.ctx.v[n].p a [] [] acc)
/-- VLDS (R141). -/
def execVlds (h : Hdr) (la : BitVec 4) (n : Fin 8) (c : CSrc) (s : State) : Res := .next (loadElems h la n c false s)
/-- VSTS (R141). -/
def execVsts (h : Hdr) (la : BitVec 4) (n : Fin 8) (c : CSrc) (s : State) : Res := .next (storeElems h la n c false s)
/-- VGTH (R141). -/
def execVgth (h : Hdr) (la : BitVec 4) (n : Fin 8) (c : CSrc) (s : State) : Res := .next (loadElems h la n c true s)
/-- VSCT (R141). -/
def execVsct (h : Hdr) (la : BitVec 4) (n : Fin 8) (c : CSrc) (s : State) : Res := .next (storeElems h la n c true s)
/-- KLD (R140). -/
def execKld (h : Hdr) (la : BitVec 4) (n : Fin 4) (c : CSrc) (s : State) : Res :=
  .next (guarded h s fun s => readC s c fun a s => access s a 128 128 false false fun acc s =>
    loadOp s .vm la a.v 128 (.mask n) acc)
/-- KST (R140). -/
def execKst (h : Hdr) (la : BitVec 4) (n : Fin 4) (c : CSrc) (s : State) : Res :=
  .next (guarded h s fun s => readC s c fun a s => access s a 128 128 true false fun acc s =>
    storeOp s .vm la a.v 128 (pieceOffs a.v 128) s.ctx.k[n].bytes s.ctx.k[n].p a [] [] acc)

end Sys2Proof.Machine
end

