-- ==== Sys2Proof/Machine/Matrix.lean ====
section
/-! DEFINITION. The matrix triggers (R147-R164): leases, operand loads, products, chains, checks and drains, as
the strand issues them. The array's own steps are in Machine/ArrayEvents.lean. -/

namespace Sys2Proof.Machine

/-! ## The lease as the strand sees it (R149, R164) -/

/-- LEFT of `mx.st`. -/
def leftOf (st : BitVec 64) : Nat := bitsAt st 54 48
/-- The mask of HELD and LEFT. -/
def leaseMask : BitVec 64 := BitVec.ofNat 64 (255 * 2 ^ 47)
/-- HELD with a LEFT count. -/
def heldWith (n : Nat) : BitVec 64 := BitVec.ofNat 64 (n * 2 ^ 48 + 2 ^ 47)

/-- Whether the strand has issued an `mx.free` whose chunk has not committed: later words find the lease gone. -/
def Strand.freeing (x : Strand) : Bool :=
  match x.await with
  | some (_, k) => k.deferred.any fun d => match d with | .free => true | _ => false
  | none => false

/-- Whether the executing strand holds its group's lease (R147). -/
def State.holdsLease (s : State) : Bool :=
  decide ((s.group (gkOf s.myCk)).data.holder = some s.cur) && !s.me.freeing

/-- The executing strand must hold the lease with a counted command left (R149). -/
def needLease (s : State) (k : State → State) : State :=
  if s.holdsLease ∧ leftOf s.ctx.mxSt > 0 then k s else s.fault causeNoLease 0 []

/-- A matrix operand fault (R152). -/
def State.faultMatrix (s : State) : State := s.fault causeMatrix 0 []

/-- Every command consumes both operand latches (R152). -/
def State.consumeMx (s : State) : State := s.consumeAll [.mxA, .mxB]

/-- The chunk ends with this bundle (R150). -/
def State.close (s : State) : State := s.updMe fun x => { x with closes := true }

/-- A command that acts when its chunk commits. -/
def State.defer (s : State) (d : Deferred) : State :=
  s.updMe fun x => { x with chunk := { x.chunk with deferred := x.chunk.deferred ++ [d] } }

/-- LEFT counts one command down as the trigger issues (R164), and the lease has been used (R147). -/
def State.countDown (s : State) : State :=
  let s1 := s.write (.mxSt leaseMask (heldWith (leftOf s.ctx.mxSt - 1)))
  if s.held then s else s1.updData (gkOf s.myCk) fun g => { g with idleSince := s.cyc s.myCk }

/-! ## What earlier commands will leave (R149) -/

/-- The operand loads that another module has still to answer: nothing of the strand's passes them (R178, R207). -/
def Strand.awaitedLoads (x : Strand) : List MxCmd :=
  (x.ctx.flights.filter fun f => !f.arrived && x.reqs.any fun q => q.seq == f.seq).filterMap fun f => match f.pend with
    | .bytes (.rows b fmt) _ => some (.load b fmt [] false)
    | _ => none

/-- The commands that a strand has issued and the array has not received: those whose operand another module has still to answer, and
those of its chunk awaiting commit and of its open chunk. -/
def Strand.unsent (x : Strand) : List MxCmd :=
  let own := fun (k : Chunk) => k.deferred.filterMap fun d => match d with | .mx _ c => some c | _ => none
  x.awaitedLoads ++ (match x.await with | some (_, k) => own k | none => []) ++ own x.chunk

/-- The commands that earlier holders of the lease issued before it passed and that the array has not received (R147). -/
def State.unsentOthers (s : State) (gk sid : Nat) : List MxCmd :=
  (List.range 4).flatMap fun j => (coreStrands (gk * 4 + j)).flatMap fun t => if t = sid then [] else (s.strand t).unsent

/-- The commands ahead of the executing one, in their order: accepted, those of earlier holders, and the strand's own. -/
def State.ahead (s : State) : List MxCmd :=
  let gk := gkOf s.myCk
  let g := s.group gk
  let mine := fun (j : MxJob) => decide (j.sid = s.cur)
  (g.queue.map MxJob.cmd) ++ ((g.arriving.filter fun j => !mine j).map MxJob.cmd) ++ s.unsentOthers gk s.cur ++
    ((g.arriving.filter mine).map MxJob.cmd) ++ s.me.unsent

/-- The kind of slot `t` after some commands. -/
def kindAfter (t : Fin 16) (k : SlotKind) : List MxCmd → SlotKind
  | [] => k
  | .product sh t' z _ _ _ :: r => kindAfter t (if t' = t ∧ (z ∨ k = .n) then (shapeOf sh).kind else k) r
  | .drain t' c _ _ :: r => kindAfter t (if t' = t ∧ c then .n else k) r
  | .zero t' :: r => kindAfter t (if t' = t then .n else k) r
  | _ :: r => kindAfter t k r

/-- The format of a buffer after some commands. -/
def fmtAfter (b : Bool) (f : Fin 6) : List MxCmd → Fin 6
  | [] => f
  | .load b' f' _ _ :: r => fmtAfter b (if b' = b then f' else f) r
  | _ :: r => fmtAfter b f r

/-- Slot `t` of the group. -/
def GroupData.slot (g : GroupData) (t : Nat) : Slot := g.slots.getD t Slot.reset

/-- The kind of slot `t` as the executing command will find it. -/
def State.slotKind (s : State) (t : Fin 16) : SlotKind := kindAfter t ((s.group (gkOf s.myCk)).data.slot t.val).kind s.ahead
/-- The format of a buffer as the executing command will find it. -/
def State.bufFmt (s : State) (b : Bool) : Fin 6 :=
  let g := (s.group (gkOf s.myCk)).data
  fmtAfter b (if b then g.bufB.fmt else g.bufA.fmt) s.ahead

/-! ## Triggers -/

/-- A counted command whose window ends when the array has done or accepted it (Table 6-3). -/
def State.sendMx (s : State) (la : BitVec 4) (c : MxCmd) : State :=
  let seq := s.me.seq
  (((s.consumeMx).launchVar .mx la .command 0 0 false false []).defer (.mx seq c)).countDown.close

/-- MX_LEASE (R147, R148). -/
def execMxLease (h : Hdr) (la : BitVec 4) (c : CSrc) (s : State) : Res :=
  .next (guarded h s fun s => readC s c fun r s =>
    let g := (s.group (gkOf s.myCk)).data
    let n := r.val.toNat
    let waiting := s.me.ctx.flights.any fun f => match f.pend with | .lease _ => true | _ => false
    if n = 0 ∨ n > 64 ∨ s.holdsLease ∨ (g.requests.any fun q => decide (q.1 = s.cur)) ∨ waiting then s.faultMatrix
    else windowGate s 1 fun s =>
      let seq := s.me.seq
      (((s.consumeMx.launchVar .mx la (.lease n) s.me.ceiling 1 true false []).defer (.lease seq n)).write (.mxSt leaseMask 0)).close)

/-- MX_FREE (R147). -/
def execMxFree (h : Hdr) (s : State) : Res :=
  .next (guarded h s fun s => needLease s fun s => (s.consumeMx.defer .free).close)

/-- The 64 rows of 128 bytes of an operand load (R154). -/
def rowsOf : Nat → List Byte → List (BitVec 1024)
  | 0, _ => []
  | n + 1, d => BitVec.ofNat 1024 (ofLE (d.take 128)) :: rowsOf n (d.drop 128)

/-- An operand load once its places are known. -/
def mxLoadAcc (la : BitVec 4) (b : Bool) (f : Fin 6) (a : Reg80) (acc : Acc) (s : State) : State :=
  let finish := fun (d : List Byte) (m : Bool) (s : State) =>
    let seq := s.me.seq
    (((s.consumeMx.launchVar .mx la (.bytes (.rows b f) a) s.me.ceiling 17 false true (if m then [.pe s.ctx.pc a] else [])).defer
      (.mx seq (.load b f (rowsOf 64 d) m))).push (arrivalEvent s.cur seq a)).countDown.close
  match acc with
  | .mem ps => let r := s.readPieces ps; finish r.1 r.2.1 r.2.2
  | .late c => (s.consumeMx.lateFault .mx la a c).countDown.close
  | .repl bs => let s := s.senseRepl s.myCk bs; let r := s.readRepl s.myCk bs; finish r.1 r.2 s.asEffect
  | .module m t offs =>
    (s.consumeMx.remoteOp .mx la (.bytes (.rows b f) a) false (.module m) fun s => .module (s.modAccess t offs 128 none none false)).countDown.close
  | .system _ _ => s.faultMatrix

/-- `lda` and `ldb` (R154). DEDUCED: the checks of R169 and R179 come first, so class 0x05 faults *window* and class 0x7F *privilege* in
user and kernel mode; the *matrix operand* of R154 is left to a supervisor's class 0x7F (log 77). -/
def mxLoad (h : Hdr) (la : BitVec 4) (b : Bool) (f : Fin 6) (c : CSrc) (s : State) : State :=
  guarded h s fun s => readC s c fun a s => needLease s fun s =>
    let pitch := (s.ctx.latch .mxB).val.toNat
    let cls := classOf a.v
    if a.p then s.faultPoison a.v
    else if cls = 0x7F ∧ classOk (s.partOf s.myCk) cls (qualOf a.v) ∧ s.mode s.cur = .supervisor then s.faultMatrix
    else if cls ≠ 0x7F ∧ classOk (s.partOf s.myCk) cls (qualOf a.v) ∧ (a.val.toNat % 128 ≠ 0 ∨ pitch % 128 ≠ 0 ∨ pitch < 128 ∨ 2 ^ 32 ≤ pitch) then
      s.faultAddr causeMisaligned a.v
    else accessElems s a (s.ctx.latch .mxB).p ((List.range 64).map fun (r : Nat) => ((a.val.toNat + r * pitch : Nat) : Int)) 128 false (mxLoadAcc la b f a.v)

/-- Whether a product word is legal for a shape (R153). -/
def productOk (p : Shape) (w : Nat) : Bool := decide (w < 2 ^ 9 ∧ (w / 32) % 4 < p.aw ∧ (w / 128) % 4 < p.bw)

/-- `mma` and `chain` (R153, R155, R158). -/
def mxProduct (h : Hdr) (la : BitVec 4) (i : Fin 12) (c : CSrc) (s : State) : State :=
  guarded h s fun s => readC s c fun r s => needLease s fun s =>
    let p := shapeOf i
    let w := r.val.toNat
    let t : Fin 16 := Fin.ofNat 16 w
    let z := r.val.getLsbD 4
    let kind := s.slotKind t
    let sv := (s.ctx.latch .mxA).val.toNat
    let src : Fin 16 := Fin.ofNat 16 sv
    let srcOk := match p.a with
      | some f => s.bufFmt false == f
      | none => decide (sv < 16 ∧ src ≠ t ∧ s.slotKind src ≠ .i)
    if !productOk p w || !srcOk || s.bufFmt true != p.b || (!z && kind != .n && kind != p.kind) then s.faultMatrix
    else s.sendMx la (.product i t z (Fin.ofNat 4 (w / 32)) (Fin.ofNat 4 (w / 128)) (if p.a.isSome then none else some src))

/-- MX_DRAIN (R160): an effect that takes a range of the scoreboard. DESIGN CHOICE: while all 32 entries are in use the drain waits, as
a push does (R192), and its wait expires with detail *scoreboard* (log 79). -/
def execMxDrain (h : Hdr) (la : BitVec 4) (c : CSrc) (s : State) : Res :=
  .next (guarded h s fun s => readC s c fun r s => needLease s fun s =>
    let w := r.val.toNat
    let d := s.ctx.latch .mxA
    let pitch := (s.ctx.latch .mxB).val.toNat
    let a := d.val.toNat
    let user := decide (s.mode s.cur = .user)
    if w ≥ 32 ∨ d.tag ≠ 0 then s.faultMatrix
    else if d.p ∨ (s.ctx.latch .mxB).p then s.faultPoison d.v
    else if a % 128 ≠ 0 ∨ pitch % 128 ≠ 0 ∨ pitch < 256 then s.faultAddr causeMisaligned d.v
    else
      let bad := (List.range 64).findSome? fun i => match s.checkLocal s.myCk user (a + i * pitch) 256 with
        | .bad c => some c
        | .ok _ => none
      match bad with
      | some c => s.faultAddr c d.v
      | none => effectGate s fun s => windowGate s 1 fun s =>
        if (s.core s.myCk).ranges.length ≥ 32 then s.hold .stalledLA .scoreboard s.me.ceiling
        else
          let seq := s.me.seq
          let s1 := s.updCore s.myCk fun c =>
            { c with ranges := c.ranges ++ [{ lo := a / 128, hi := (a + 63 * pitch + 255) / 128, owner := 2 ^ 40 + seq * 16 + strandNo s.cur }] }
          let s2 := (s1.asEffect.consumeMx.launchVar .mx la .command 0 0 true false [])
          (s2.defer (.mx seq (.drain (Fin.ofNat 16 w) (r.val.getLsbD 4) (localFlat s.myCk a) pitch))).countDown.close)

/-- MX_DRAINV (R150, R162): it reaches the array at issue and takes its count there. -/
def execMxDrainv (h : Hdr) (la : BitVec 4) (c : CSrc) (s : State) : Res :=
  .next (guarded h s fun s => readC s c fun r s => needLease s fun s =>
    let w := r.val.toNat
    let n := (s.ctx.latch .mxA).val.toNat
    if w ≥ 512 ∨ n ≥ 8 then s.faultMatrix
    else poolGate s [Fin.ofNat 8 n] fun s =>
      let seq := s.me.seq
      let gk := gkOf s.myCk
      let s1 := (s.consumeMx.launchVar .mx la .command 0 0 false true []).countDown
      let s2 := s1.updGroup gk fun g =>
        { g with arriving := g.arriving ++ [{ sid := s.cur, seq := seq, cmd := .drainv (Fin.ofNat 16 w) (Fin.ofNat 32 (w / 16)) (Fin.ofNat 8 n) }],
                 data := { g.data with leaseLeft := g.data.leaseLeft - 1 } }
      let s3 := s2.updMe fun x => { x with chunk := { x.chunk with drainvs := x.chunk.drainvs + 1 } }
      s3.pushOnce (.mxCommandAccept gk))

/-- A command on one slot (R152); `port` says that it delivers to `mx.st` (R332). -/
def mxSlot (h : Hdr) (la : BitVec 4) (c : CSrc) (f : Fin 16 → MxCmd) (port : Bool) (s : State) : State :=
  guarded h s fun s => readC s c fun r s => needLease s fun s =>
    if r.val.toNat ≥ 16 then s.faultMatrix
    else
      let run := fun (s : State) =>
        ((s.consumeMx.launchVar .mx la .command 0 0 port false []).defer (.mx s.me.seq (f (Fin.ofNat 16 r.val.toNat)))).countDown.close
      if port then windowGate s 1 run else run s

/-- MX_ZERO (R163). -/
def execMxZero (h : Hdr) (la : BitVec 4) (c : CSrc) (s : State) : Res := .next (mxSlot h la c MxCmd.zero false s)
/-- MX_CHK (R161). -/
def execMxChk (h : Hdr) (la : BitVec 4) (c : CSrc) (s : State) : Res := .next (mxSlot h la c MxCmd.chk true s)

/-- MX_INJECT (R163): kernel and supervisor strands only. -/
def execMxInject (h : Hdr) (la : BitVec 4) (c : CSrc) (s : State) : Res :=
  .next (guarded h s fun s => needKernel s fun s =>
    let a := (s.ctx.latch .mxA).val.toNat
    let row := (a / 2 ^ 8) % 128
    let col := a % 128
    if a ≥ 2 ^ 21 ∨ (a / 2 ^ 15) % 2 = 1 ∨ (a / 2 ^ 7) % 2 = 1 ∨ row > 64 ∨ col > 64 then needLease s State.faultMatrix
    else mxSlot { h with guard := 0 } la c (fun t => .inject t row col (a / 2 ^ 16)) false s)

/-- MOV_MX_A (R152). -/
def execMovMxA (h : Hdr) (c : CSrc) (s : State) : Res := .next (guarded h s fun s => readC s c fun r s => s.write (.latch .mxA r))
/-- MOV_MX_B (R152). -/
def execMovMxB (h : Hdr) (c : CSrc) (s : State) : Res := .next (guarded h s fun s => readC s c fun r s => s.write (.latch .mxB r))

/-- MX_LDA_BF16 (R154). -/
def execMxLdaBf16 (h : Hdr) (la : BitVec 4) (c : CSrc) (s : State) : Res := .next (mxLoad h la false 0 c s)
/-- MX_LDA_E4M3 (R154). -/
def execMxLdaE4m3 (h : Hdr) (la : BitVec 4) (c : CSrc) (s : State) : Res := .next (mxLoad h la false 1 c s)
/-- MX_LDA_E5M2 (R154). -/
def execMxLdaE5m2 (h : Hdr) (la : BitVec 4) (c : CSrc) (s : State) : Res := .next (mxLoad h la false 2 c s)
/-- MX_LDA_I8 (R154). -/
def execMxLdaI8 (h : Hdr) (la : BitVec 4) (c : CSrc) (s : State) : Res := .next (mxLoad h la false 3 c s)
/-- MX_LDA_F32 (R154). -/
def execMxLdaF32 (h : Hdr) (la : BitVec 4) (c : CSrc) (s : State) : Res := .next (mxLoad h la false 4 c s)
/-- MX_LDB_BF16 (R154). -/
def execMxLdbBf16 (h : Hdr) (la : BitVec 4) (c : CSrc) (s : State) : Res := .next (mxLoad h la true 0 c s)
/-- MX_LDB_E4M3 (R154). -/
def execMxLdbE4m3 (h : Hdr) (la : BitVec 4) (c : CSrc) (s : State) : Res := .next (mxLoad h la true 1 c s)
/-- MX_LDB_E5M2 (R154). -/
def execMxLdbE5m2 (h : Hdr) (la : BitVec 4) (c : CSrc) (s : State) : Res := .next (mxLoad h la true 2 c s)
/-- MX_LDB_I8 (R154). -/
def execMxLdbI8 (h : Hdr) (la : BitVec 4) (c : CSrc) (s : State) : Res := .next (mxLoad h la true 3 c s)
/-- MX_LDB_F32 (R154). -/
def execMxLdbF32 (h : Hdr) (la : BitVec 4) (c : CSrc) (s : State) : Res := .next (mxLoad h la true 4 c s)
/-- MX_LDB_QN4 (R154). -/
def execMxLdbQn4 (h : Hdr) (la : BitVec 4) (c : CSrc) (s : State) : Res := .next (mxLoad h la true 5 c s)
/-- MX_MMAM64N64K32BF16 (R156). -/
def execMxMmaM64n64k32Bf16 (h : Hdr) (la : BitVec 4) (c : CSrc) (s : State) : Res := .next (mxProduct h la 0 c s)
/-- MX_MMAM32N64K32BF16 (R156). -/
def execMxMmaM32n64k32Bf16 (h : Hdr) (la : BitVec 4) (c : CSrc) (s : State) : Res := .next (mxProduct h la 1 c s)
/-- MX_MMAM16N64K32BF16 (R156). -/
def execMxMmaM16n64k32Bf16 (h : Hdr) (la : BitVec 4) (c : CSrc) (s : State) : Res := .next (mxProduct h la 2 c s)
/-- MX_MMAM64N64K64E4M3 (R156). -/
def execMxMmaM64n64k64E4m3 (h : Hdr) (la : BitVec 4) (c : CSrc) (s : State) : Res := .next (mxProduct h la 3 c s)
/-- MX_MMAM64N64K64E5M2 (R156). -/
def execMxMmaM64n64k64E5m2 (h : Hdr) (la : BitVec 4) (c : CSrc) (s : State) : Res := .next (mxProduct h la 4 c s)
/-- MX_MMAM64N64K64MIX8 (R156). -/
def execMxMmaM64n64k64Mix8 (h : Hdr) (la : BitVec 4) (c : CSrc) (s : State) : Res := .next (mxProduct h la 5 c s)
/-- MX_MMAM64N64K64I8 (R156). -/
def execMxMmaM64n64k64I8 (h : Hdr) (la : BitVec 4) (c : CSrc) (s : State) : Res := .next (mxProduct h la 6 c s)
/-- MX_MMAM64N64K64QN4 (R156). -/
def execMxMmaM64n64k64Qn4 (h : Hdr) (la : BitVec 4) (c : CSrc) (s : State) : Res := .next (mxProduct h la 7 c s)
/-- MX_MMAM16N64K64QN4 (R156). -/
def execMxMmaM16n64k64Qn4 (h : Hdr) (la : BitVec 4) (c : CSrc) (s : State) : Res := .next (mxProduct h la 8 c s)
/-- MX_MMAM64N64K8F32 (R156). -/
def execMxMmaM64n64k8F32 (h : Hdr) (la : BitVec 4) (c : CSrc) (s : State) : Res := .next (mxProduct h la 9 c s)
/-- MX_CHAINBF16 (R158). -/
def execMxChainBf16 (h : Hdr) (la : BitVec 4) (c : CSrc) (s : State) : Res := .next (mxProduct h la 10 c s)
/-- MX_CHAINE4M3 (R158). -/
def execMxChainE4m3 (h : Hdr) (la : BitVec 4) (c : CSrc) (s : State) : Res := .next (mxProduct h la 11 c s)

end Sys2Proof.Machine
end

