-- ==== Sys2Proof/Machine/ArrayEvents.lean ====
section
/-! DEFINITION. The group's array: the lease (R147, R148), acceptance (R150) and execution (R151-R163) of commands. -/

namespace Sys2Proof.Machine

/-! ## The lease -/

/-- The turn of a core in the cyclic order: its seat, or directly after the seat of the core whose position it
shares (R147). -/
def State.turnOf (s : State) (ck : Nat) : Nat :=
  let c := s.core ck
  if c.shadow then
    match (groupCores (gkOf ck)).find? fun d => d ≠ ck ∧ (s.core d).pos = c.pos ∧ !(s.core d).shadow with
    | some d => 2 * seatOf d + 1
    | none => 2 * seatOf ck
  else 2 * seatOf ck

/-- The lease ends: the next request may be granted. -/
def State.endLease (s : State) (gk : Nat) : State :=
  match (s.group gk).data.holder with
  | none => s
  | some sid =>
    (s.updData gk fun g => { g with holder := none, lastSeat := seatOf (ckOf sid), leaseLeft := 0 }).pushOnce (.leaseGrant gk)

/-- The commands of `drainv` that a strand's uncommitted chunks hold. -/
def Strand.openDrainvs (x : Strand) : Nat :=
  x.chunk.drainvs + (match x.await with | some (_, k) => k.drainvs | none => 0)

/-- The lease ends when its last counted command has been accepted, or, for a `drainv`, has committed (R147, R150). -/
def State.leaseCheck (s : State) (gk : Nat) : State :=
  let g := (s.group gk).data
  match g.holder with
  | some sid => if g.leaseLeft = 0 ∧ (s.strand sid).openDrainvs = 0 then s.endLease gk else s
  | none => s

/-- A strand asks for the lease no longer. -/
def State.dropRequests (s : State) (sid : Nat) : State :=
  s.updData (gkOf (ckOf sid)) fun g => { g with requests := g.requests.filter fun q => decide (q.1 ≠ sid) }

/-- Free the lease if a strand holds it. -/
def State.freeLeaseOf (s : State) (sid : Nat) : State :=
  let gk := gkOf (ckOf sid)
  if (s.group gk).data.holder = some sid then s.endLease gk else s

/-- A committed request for the lease joins the others. -/
def State.requestLease (s : State) (sid seq n : Nat) : State :=
  let gk := gkOf (ckOf sid)
  let s1 := (s.updData gk fun g => { g with requests := g.requests ++ [(sid, seq, n)] }).pushOnce (.leaseGrant gk)
  s1.pushOnce (.leaseIdleLimit gk)

/-- The request that is granted next: the first seat after the last holder's, the oldest of it (R147). -/
def State.nextRequest (s : State) (gk : Nat) : Option (Nat × Nat × Nat) :=
  let g := (s.group gk).data
  let last := s.turnOf (gk * 4 + g.lastSeat)
  let dist := fun (q : Nat × Nat × Nat) => (s.turnOf (ckOf q.1) + 8 - last - 1) % 8
  g.requests.foldl (fun best q => match best with
    | none => some q
    | some b => if dist q < dist b then some q else best) none

/-- IDLEX of `mx.st`. -/
def idlexBit : BitVec 64 := BitVec.ofNat 64 (2 ^ 46)

/-- Rewrite `mx.st` wherever a strand's contexts hold it. -/
def Strand.setMxSt (x : Strand) (clear set : BitVec 64) : Strand :=
  let f := fun (c : Ctx) => { c with mxSt := (c.mxSt &&& ~~~ clear) ||| set }
  { x with ctx := f x.ctx, start := f x.start, await := x.await.map fun p => (f p.1, p.2), waitFrom := x.waitFrom.map f }

/-- LEASE_GRANT (R147, R148): the lease fields of `mx.st` are written at the grant (R164). -/
def execLeaseGrant (gk : Nat) (s : State) : Res :=
  .next (match (s.group gk).data.holder, s.nextRequest gk with
    | none, some (sid, seq, n) =>
      let s1 := s.updData gk fun g =>
        { g with holder := some sid, leaseLeft := n, leaseSeq := seq, idleSince := s.cyc (ckOf sid),
                 requests := g.requests.filter fun q => decide (q.1 ≠ sid) }
      ((s1.updStrand sid fun x => x.setMxSt (leaseMask ||| idlexBit) (heldWith n)).arrive sid seq []).pushOnce (.leaseIdleLimit gk)
    | _, _ => s)

/-- LEASE_IDLE_LIMIT (R147): requests wait, and for 4,096 cycles the holder has issued nothing. -/
def execLeaseIdleLimit (gk : Nat) (s : State) : Res :=
  .next (
    let g := (s.group gk).data
    match g.holder with
    | some sid =>
      if g.requests = [] then s
      else if g.idleSince + 4096 ≤ s.cyc (ckOf sid) then
        (s.endLease gk).updStrand sid fun x => x.setMxSt leaseMask idlexBit
      else s.pushOnce (.leaseIdleLimit gk)
    | none => s)

/-! ## Acceptance (R150, R151) -/

/-- A command takes its place among those that arrive: before the later ones of its strand (R150). -/
def insertJob (j : MxJob) : List MxJob → List MxJob
  | [] => [j]
  | k :: r => if k.sid = j.sid ∧ j.seq < k.seq then j :: k :: r else k :: insertJob j r

/-- A committed command reaches the array. -/
def State.sendJob (s : State) (sid seq : Nat) (c : MxCmd) : State :=
  let gk := gkOf (ckOf sid)
  (s.updGroup gk fun g => { g with arriving := insertJob { sid := sid, seq := seq, cmd := c } g.arriving }).pushOnce (.mxCommandAccept gk)

/-- Whether a command is `drainv`. -/
def MxCmd.isDrainv : MxCmd → Bool
  | .drainv _ _ _ => true
  | _ => false

/-- Whether a command waits for an earlier one of its strand: one whose chunk awaits commit, or an operand load that
another module has not answered. -/
def State.jobBlocked (s : State) (j : MxJob) : Bool :=
  let x := s.strand j.sid
  j.cmd.isDrainv &&
    ((match x.await with
      | some (_, k) => k.deferred.any fun d => match d with | .mx q _ => decide (q < j.seq) | _ => false
      | none => false) ||
     x.reqs.any fun q => decide (q.seq < j.seq) && (match q.msg.op, x.flight q.seq with | .module _, some f => f.unit == .mx | _, _ => false))

/-- Whether a command of the lease's holder waits for those of an earlier holder, which the array executes first (R147). -/
def State.jobBehind (s : State) (j : MxJob) : Bool :=
  let gk := gkOf (ckOf j.sid)
  decide ((s.group gk).data.holder = some j.sid) && !(s.unsentOthers gk j.sid).isEmpty

/-- The command that is accepted next: a strand's commands may pass only its own (`only`). -/
def State.nextJob (s : State) (only : Option Nat) : List MxJob → Nat → Option Nat
  | [], _ => none
  | j :: r, i =>
    if only.any fun sid => sid != j.sid then none
    else if s.jobBehind j then s.nextJob only r (i + 1)
    else if !s.jobBlocked j then some i
    else s.nextJob (some j.sid) r (i + 1)

/-- Whether a command's window ends at its acceptance (Table 6-3). -/
def MxCmd.endsAtAccept : MxCmd → Bool
  | .product .. => true
  | .zero _ => true
  | .inject .. => true
  | _ => false

/-- The command that the log of a replaying group names next: its seat and number (R377). Each accepted command is logged once,
at seat 0. -/
def State.loggedJob (s : State) (gk : Nat) : Option (Nat × Nat) :=
  (s.core (gk * 4)).replay.findSome? fun r => match r with
    | .arrayOrder seat seq => some (seat, seq)
    | _ => none

/-- The place of the command that is accepted next, in a replay the one that the log names. -/
def State.chooseJob (s : State) (gk : Nat) (js : List MxJob) : Option Nat :=
  match s.loggedJob gk with
  | some (seat, seq) => js.findIdx? fun j => seatOf (ckOf j.sid) == seat && j.seq == seq
  | none => s.nextJob none js 0

/-- A command that a replay has accepted leaves the log. -/
def State.jobReplayed (s : State) (gk : Nat) : State :=
  s.updCore (gk * 4) fun c => { c with replay := dropFirst (fun r => match r with | .arrayOrder _ _ => true | _ => false) c.replay }

/-- Whether a command counts against the lease that is held: its strand holds it and issued the command under it; a `drainv` has
counted at issue (R147, R150). -/
def GroupData.counts (g : GroupData) (j : MxJob) : Bool :=
  !j.cmd.isDrainv && decide (g.holder = some j.sid ∧ g.leaseSeq < j.seq)

/-- MX_COMMAND_ACCEPT (R150, R151). -/
def execMxCommandAccept (gk : Nat) (s : State) : Res :=
  .next (
    let g := s.group gk
    match s.chooseJob gk g.arriving with
    | none => s
    | some i =>
      match g.arriving[i]? with
      | none => s
      | some j =>
        if 8 ≤ g.queue.length then s
        else
          let s1 := s.updGroup gk fun g =>
            { g with arriving := g.arriving.eraseIdx i, queue := g.queue ++ [j],
                     data := if g.data.counts j then { g.data with leaseLeft := g.data.leaseLeft - 1 } else g.data }
          let s0 := s1.leaseCheck gk
          let s2 := if (s.loggedJob gk).isSome then s0.jobReplayed gk else s0.logRec (gk * 4) (.arrayOrder (seatOf (ckOf j.sid)) j.seq)
          let s3 := if j.cmd.endsAtAccept then s2.arrive j.sid j.seq [] else s2
          let s4 := s3.pushOnce (.mxCommandExecute gk)
          if (s4.group gk).arriving = [] then s4 else s4.pushOnce (.mxCommandAccept gk))

/-! ## Execution -/

/-- Write slot `t`. -/
def State.putSlot (s : State) (gk t : Nat) (x : Slot) : State := s.updData gk fun g => { g with slots := g.slots.put t x }

/-- The 128 line writes of a drain, all together (R160). -/
def State.drainRows (s : State) (sid : Nat) (t : Slot) (dest pitch : Nat) : State :=
  (List.range 64).foldl (fun s i => s.place (some sid) { addr := dest + i * pitch, data := slotRow t i, mark := t.mark }) s

/-- A slot with one bit of a cell inverted (R163). -/
def Slot.flip (t : Slot) (row col bit : Nat) : Slot := t.setCell row col (t.cell row col ^^^ 2 ^ bit)

/-- A range of the scoreboard is released. -/
def State.releaseRange (s : State) (ck owner : Nat) : State :=
  (s.updCore ck fun c => { c with ranges := c.ranges.filter fun r => decide (r.owner ≠ owner) }).retry ck

/-- The command at the head of the queue is carried out. DESIGN CHOICE (log 49): the pending error of a poisoned drainv, which accesses no memory, records address 0. -/
def State.runJob (s : State) (gk : Nat) (j : MxJob) : State :=
  let g := (s.group gk).data
  let pc := (((s.strand j.sid).flight j.seq).map Flight.pc).getD 0
  let pe := fun (m : Bool) (a : Reg80) => if m then [Wr.pe pc a] else []
  match j.cmd with
  | .load b f rows mark =>
    let buf : Buf := { rows := (List.range 64).foldl (fun st i => if rows.getD i 0 = 0 then st else Store.put st i (rows.getD i 0)) [], fmt := f, mark := mark }
    s.updData gk fun g => if b then { g with bufB := buf } else { g with bufA := buf }
  | .product sh t z aw bw src =>
    let p := shapeOf sh
    let from_ := match src with
      | some q => g.slot q.val
      | none => Slot.reset
    s.putSlot gk t.val (product p g.bufA g.bufB from_ (g.slot t.val) z aw.val bw.val)
  | .drain t clear dest pitch =>
    let o := checkSlot (g.slot t.val)
    let s1 := (s.drainRows j.sid o.slot dest pitch).putSlot gk t.val (if clear then Slot.reset else o.slot)
    (s1.releaseRange (ckOf j.sid) (2 ^ 40 + j.seq * 16 + strandNo j.sid)).arrive j.sid j.seq
      (.mxSt checkMask (o.status t.val) :: pe o.slot.mark (make 0 (BitVec.ofNat 64 (dest % 2 ^ 20))))
  | .drainv t p n =>
    let sl := g.slot t.val
    s.arrive j.sid j.seq (.v n { d := rowPair sl p.val, p := sl.mark } :: pe sl.mark 0)
  | .zero t => s.putSlot gk t.val Slot.reset
  | .chk t =>
    let o := checkSlot (g.slot t.val)
    (s.putSlot gk t.val o.slot).arrive j.sid j.seq [.mxSt checkMask (o.status t.val)]
  | .inject t row col bit => s.putSlot gk t.val ((g.slot t.val).flip row col bit)

/-- MX_COMMAND_EXECUTE (R151). -/
def execMxCommandExecute (gk : Nat) (s : State) : Res :=
  .next (match (s.group gk).queue with
    | [] => s
    | j :: r =>
      if !(s.group gk).arrayLive then s
      else
        let s1 := ((s.senseArray gk).updGroup gk fun g => { g with queue := r }).runJob gk j
        let s2 := if r = [] then s1 else s1.pushOnce (.mxCommandExecute gk)
        if (s2.group gk).arriving = [] then s2 else s2.pushOnce (.mxCommandAccept gk))

end Sys2Proof.Machine
end

