-- ==== Sys2Proof/Machine/Tasks.lean ====
section
/-! DEFINITION. What owners and cores hold for tasks: records (Table 10-4), the ready queue, the buffer pool and
its queues (R280-R292), named barriers (R271-R273), the stash of tokens (R221), and the start of a task
(R258, R266). -/

namespace Sys2Proof.Machine

/-! ## Task records (R262, R263) -/

/-- Record states (Table 10-5). -/
def recFree : Nat := 0
/-- PENDING. -/
def recPending : Nat := 1
/-- READY. -/
def recReady : Nat := 2
/-- RUNNING. -/
def recRunning : Nat := 3
/-- SAVED. -/
def recSaved : Nat := 4
/-- ENDING. -/
def recEnding : Nat := 5

/-- The flat address of record `i` of a core. -/
def recFlat (ck i : Nat) : Nat := localFlat ck (64 * i)
/-- `n` bytes of a record from byte `o` on. -/
def State.recField (s : State) (ck i o n : Nat) : Nat := s.load (recFlat ck i + o) n
/-- Write `n` bytes of a record: a write by the hardware. -/
def State.setRec (s : State) (ck i o n v : Nat) : State := s.placeNum none (recFlat ck i + o) n v false
/-- STATE of a record. -/
def State.recState (s : State) (ck i : Nat) : Nat := s.recField ck i 26 1 % 16
/-- PRIO of a record. -/
def State.recPrio (s : State) (ck i : Nat) : Nat := (s.recField ck i 26 1 / 16) % 4
/-- Change STATE. -/
def State.setRecState (s : State) (ck i st : Nat) : State := s.setRec ck i 26 1 (s.recPrio ck i * 16 + st)
/-- Change PRIO. -/
def State.setRecPrio (s : State) (ck i p : Nat) : State := s.setRec ck i 26 1 (p * 16 + s.recState ck i)
/-- SETS of a record. -/
def State.recSets (s : State) (ck i : Nat) : Nat := s.recField ck i 27 1
/-- Whether a record can be taken for a new task: FREE, and not claimed by a pop (R292). -/
def State.recOpen (s : State) (ck i : Nat) : Bool := decide (s.recState ck i = recFree) && !(s.core ck).claims.contains i
/-- The handle of a record: its tile-direct pointer (R262). -/
def State.recHandle (s : State) (ck i : Nat) : Reg80 := make 0x0100 (BitVec.ofNat 64 (s.tileOff ck (64 * i)))

/-- A launch that a distributor holds a task of looks again, as a record was freed (R261). -/
def State.recordFreed (s : State) (ck : Nat) : State :=
  if (s.region (s.rkOf ck)).held.any fun h => h.core = ck then s.pushOnce (.launchExpansion (pidOf ck) (s.rkOf ck)) else s

/-- Free a record. -/
def State.freeRec (s : State) (ck i : Nat) : State := (s.setRecState ck i recFree).recordFreed ck

/-! ## Events that wake strand 0 (R275) -/

/-- Strand 0 of a core looks at its wake causes. -/
def State.pokeKernel (s : State) (ck : Nat) : State := s.pokeMonitor (sidOf ck 0)
/-- Set a strand's bit in the DONE mask. -/
def State.noteDone (s : State) (sid : Nat) : State :=
  (s.updCore (ckOf sid) fun c => { c with done := c.done ||| BitVec.ofNat 16 (2 ^ strandNo sid) }).pokeKernel (ckOf sid)

/-! ## The ready queue (R264, R265) -/

/-- Append a record index at a priority. -/
def State.rqPush (s : State) (ck i prio : Nat) : State :=
  (s.updCore ck fun c =>
    { c with rq := c.rq.set (prio % 4) (c.rq[prio % 4]'(Nat.mod_lt _ (by decide)) ++ [i]) (Nat.mod_lt _ (by decide)), rqTail := c.rqTail + 1, rqPushed := true }).pokeKernel ck
/-- Whether a record is queued. -/
def Core.rqHas (c : Core) (i : Nat) : Bool := c.rq.toList.any fun l => l.contains i
/-- The head of the highest priority that is not empty: the priority and the record. -/
def Core.rqNext (c : Core) : Option (Nat × Nat) :=
  [3, 2, 1, 0].findSome? fun p => match c.rq.toList.getD p [] with
    | i :: _ => some (p, i)
    | [] => none
/-- Remove the head of a priority. -/
def Core.rqDrop (c : Core) (p : Nat) : Core :=
  { c with rq := c.rq.mapIdx fun q l => if q = p then l.drop 1 else l, rqHead := c.rqHead + 1 }
/-- Move a queued record to the tail of a priority. -/
def Core.rqMove (c : Core) (i p : Nat) : Core :=
  { c with rq := c.rq.mapIdx fun q l => if q = p then (l.filter fun j => j != i) ++ [i] else l.filter fun j => j != i }

/-- A task becomes ready: in the ready queue of its core, or at its stage's queue (R261, R264). -/
def State.rqAppend (s : State) (ck i : Nat) : State := s.rqPush ck i (s.recPrio ck i)

/-! ## The buffer pool (R280, R281) -/

/-- The cells that a queue of 15-element cells holds. -/
def Queue.used (q : Queue) : Nat := if q.elems = [] then 0 else ceilDiv (q.off + q.elems.length) 15
/-- The cells that a core's ready queue holds (R264). -/
def Core.rqUsed (c : Core) : Nat := ceilDiv (c.rq.toList.map List.length).sum 62
/-- The cells that a core's reduction inbox holds (R250). -/
def Core.redUsed (c : Core) : Nat := (c.redIn.map Contribution.cells).sum
/-- The record of inbox `i` of a core (Table 11-3). -/
def Core.inboxQ (c : Core) (i : Nat) : Queue := c.inbox.getD i (if i = 15 then Queue.reset 1 1 else Queue.reset 1 32)
/-- MIN of the ready queue: ⌈T / 62⌉. -/
def State.rqMin (s : State) (ck : Nat) : Nat := ceilDiv (s.partOf ck).t 62

/-- The stage queues homed in a group: region and stage number. -/
def State.stagesAt (s : State) (gk : Nat) : List (Nat × Nat × Stage) :=
  let rk := s.rkOfG gk
  ((s.region rk).stages.filter fun p => p.2.en && decide (s.coreOfIndex (pidOfG gk) rk p.2.home ∈ (groupCores gk).map some)).map fun p => (rk, p.1, p.2)

/-- MIN and USED of every queue of a group. -/
def State.poolQueues (s : State) (gk : Nat) : List (Nat × Nat) :=
  ((groupCores gk).flatMap fun ck =>
    let c := s.core ck
    (s.rqMin ck, c.rqUsed) :: (c.redMin, c.redUsed) :: ((List.range 16).map fun i => ((c.inboxQ i).min, (c.inboxQ i).used))) ++
  (s.stagesAt gk).map fun p => (p.2.2.q.min, p.2.2.q.used)

/-- Whether the pool grants `n` cells to a queue with these limits (R281): each is granted while FREE exceeds
what every other queue has been promised. -/
def State.grants (s : State) (gk min used cap n : Nat) : Bool :=
  let qs := s.poolQueues gk
  let held := (qs.map Prod.snd).sum
  let promised := (qs.map fun q => q.1 - q.2).sum - (min - used)
  decide (used + n ≤ cap ∧ held + n + promised ≤ 512)

/-! ## Inboxes and stage queues (R284-R292) -/

/-- Outcome codes of a queue operation. -/
def qOk : Nat := 0
/-- EMPTY. -/
def qEmpty : Nat := 1
/-- FULL. -/
def qFull : Nat := 2
/-- TASKHEAD. -/
def qTaskHead : Nat := 3

/-- The queue that a core, a qualifier and an index name; a stage handle names the region's stage (R284). -/
def State.queueAt (s : State) (ck qual idx : Nat) : Option Queue :=
  if qual = 1 then some ((s.core ck).inboxQ idx)
  else match (s.region (s.rkOf ck)).stages.find idx with
  | some st => if st.en then some st.q else none
  | none => none
/-- The core at which such a queue lives. -/
def State.queueHome (s : State) (ck qual idx : Nat) : Nat :=
  if qual = 1 then ck
  else match (s.region (s.rkOf ck)).stages.find idx with
  | some st => (s.coreOfIndex (pidOf ck) (s.rkOf ck) st.home).getD ck
  | none => ck
/-- Replace a queue. -/
def State.putQueue (s : State) (ck qual idx : Nat) (q : Queue) : State :=
  if qual = 1 then s.updCore ck fun c => { c with inbox := c.inbox.put idx q }
  else s.updRegion (s.rkOf ck) fun r => { r with stages := r.stages.alter idx fun st => { st with q := q } }

/-- Strands that wait on a queue look again, oldest first (R288). -/
def State.pokeWaiters (s : State) (q : Queue) : State :=
  q.waiters.foldl (fun s sid =>
    match (s.strand sid).ctx.flights.find? fun f => !f.arrived && (match f.pend with | .queue .. => true | _ => false) with
    | some f => s.pushOnce (.variableResultLand sid f.seq)
    | none => s) s

/-- A cell of a group's pool may be free: strands that wait on any of its queues look again (R281, R288). -/
def State.pokePool (s : State) (gk : Nat) : State :=
  (((groupCores gk).flatMap fun ck => (s.core ck).inbox.map Prod.snd) ++ (s.stagesAt gk).map fun p => p.2.2.q).foldl State.pokeWaiters s

/-- Push an element at a queue's owner (R287); inbox 15 keeps one element, the latest (R285, R294). -/
def State.qPush (s : State) (ck qual idx : Nat) (e : QElem) : Nat × State :=
  match s.queueAt ck qual idx with
  | none => (qFull, s)
  | some q =>
    if qual = 1 ∧ idx = 15 ∧ q.elems ≠ [] then
      (qOk, (s.putQueue ck qual idx { q with elems := [e], head := q.head + 1, tail := q.tail + 1 }).pokeWaiters q)
    else if (q.elems = [] ∨ (q.off + q.elems.length) % 15 = 0) ∧ !s.grants (gkOf (s.queueHome ck qual idx)) q.min q.used q.cap 1 then
      (qFull, s)
    else
      let off := if q.elems = [] then 0 else q.off
      (qOk, (s.putQueue ck qual idx { q with off := off, elems := q.elems ++ [e], tail := q.tail + 1 }).pokeWaiters q)

/-- A queue without its head; a cell whose last element has gone returns to the pool. -/
def Queue.dropHead (q : Queue) : Queue := { q with elems := q.elems.drop 1, head := q.head + 1, off := (q.off + 1) % 15 }

/-- Pop or peek at a queue's owner (R287, R292): the outcome and the element. DEDUCED (log 51): a peek by a kernel or supervisor
strand that meets a task element takes it, as R292 has it adopt the task; R287 has a peek take nothing. -/
def State.qPop (s : State) (ck qual idx : Nat) (take user : Bool) : Nat × Option QElem × State :=
  match s.queueAt ck qual idx with
  | none => (qEmpty, none, s)
  | some q =>
    match q.elems with
    | [] => (qEmpty, none, s)
    | e :: _ =>
      if e.task.isSome && user then (qTaskHead, some e, s)
      else if take || e.task.isSome then (qOk, some e, ((s.putQueue ck qual idx q.dropHead).pokeWaiters q).pokePool (gkOf (s.queueHome ck qual idx)))
      else (qOk, some e, s)

/-- `sq.st` after an operation (Table 11-5). -/
def queueStatus (code occ kind : Nat) : BitVec 64 :=
  BitVec.ofNat 64 (occ + (if code = qEmpty then 2 ^ 32 else 0) + (if code = qFull then 2 ^ 33 else 0) + kind * 2 ^ 34)

/-- Elements in a queue. -/
def State.occ (s : State) (ck qual idx : Nat) : Nat := ((s.queueAt ck qual idx).map fun q => q.elems.length).getD 0

/-- A task element's record moves to the claimed record of the popping core (R292): the record named is read and
freed at its home, and its 64 bytes are written into the claimed one with STATE READY. -/
def State.adopt (s : State) (home i ck claimed : Nat) : State :=
  let b := memReadList s.mem (recFlat home i) 64
  let b2 := (b.take 26) ++ [BitVec.ofNat 8 (fieldAt b 26 1 / 16 * 16 + recReady)] ++ b.drop 27
  let s1 := (s.freeRec home i).place none { addr := recFlat ck claimed, data := b2, mark := false }
  s1.updCore ck fun c => { c with claims := c.claims.filter fun j => j != claimed }

/-- A claim lapses (R292). -/
def State.lapse (s : State) (ck : Nat) (claimed : Option Nat) : State :=
  match claimed with
  | none => s
  | some i => (s.updCore ck fun c => { c with claims := c.claims.filter fun j => j != i }).recordFreed ck

/-! ## Named barriers (R271-R273) -/

/-- A core's barrier. -/
def State.barrier (s : State) (ck i : Nat) : Barrier := (s.core ck).barriers.getD i Barrier.reset
/-- Code of a barrier's state (Table 10-8). -/
def BarState.code : BarState → Nat
  | .uninit => 0
  | .armed => 1
  | .complete => 2
  | .poison => 3
/-- The status word (Table 10-8). -/
def Barrier.status (b : Barrier) : BitVec 64 :=
  BitVec.ofNat 64 (b.cause.toNat * 2 ^ 51 + b.st.code * 2 ^ 49 + (if b.phase then 2 ^ 48 else 0) + b.arrA.toNat * 2 ^ 32 + b.arrB.toNat)
/-- The strands of a core that wait at a barrier look again. -/
def State.pokeBarrier (s : State) (ck i : Nat) : State :=
  (coreStrands ck).foldl (fun s sid =>
    match (s.strand sid).ctx.flights.find? fun f => !f.arrived && (match f.pend with | .barrier _ j _ => j == i | _ => false) with
    | some f => s.pushOnce (.variableResultLand sid f.seq)
    | none => s) s
/-- Replace a barrier. -/
def State.putBarrier (s : State) (ck i : Nat) (b : Barrier) : State :=
  (s.updCore ck fun c => { c with barriers := c.barriers.put i b }).pokeBarrier ck i

/-- A barrier after Count(a, n) (R272); the flag says that the count was discarded. -/
def Barrier.count (b : Barrier) (a n : Nat) : Barrier × Bool :=
  match b.st with
  | .uninit | .complete => (b, true)
  | .poison => (b, false)
  | .armed =>
    let c := { b with arrA := b.arrA + BitVec.ofNat 16 a, arrB := b.arrB + BitVec.ofNat 32 n }
    if b.expA.toNat < b.arrA.toNat + a ∨ b.expB.toNat < b.arrB.toNat + n then ({ c with st := .poison, cause := 1 }, false)
    else if c.arrA = b.expA ∧ c.arrB = b.expB then
      if b.auto then ({ c with phase := !b.phase, arrA := 0, arrB := 0 }, false)
      else ({ c with phase := !b.phase, st := .complete }, false)
    else (c, false)

/-- Count(a, n) at a barrier of a core; a discarded count goes to `fltc` (R272). -/
def State.countBarrier (s : State) (ck i a n : Nat) : State :=
  let r := (s.barrier ck i).count a n
  if r.2 then s.updCore ck fun c => { c with disc := c.disc + BitVec.ofNat 32 (a + n) }
  else s.putBarrier ck i r.1

/-! ## The stash of tokens (R221) -/

/-- Keep one refill request in flight while the stash is not full. -/
def State.askToken (s : State) (ck : Nat) : State :=
  if (s.core ck).stash.length < 8 ∧ !(s.core ck).refilling then
    (s.updCore ck fun c => { c with refilling := true }).push (.stashRefillRequest ck)
  else s

/-- The slice answers waiting requests, oldest first, while it has records. -/
def answerTokens (r : Region) : Nat → List (Nat × TokRec) × Region
  | 0 => ([], r)
  | n + 1 =>
    match r.asking, r.pool with
    | ck :: cs, t :: ts =>
      let p := answerTokens { r with asking := cs, pool := ts } n
      ((ck, t) :: p.1, p.2)
    | _, _ => ([], r)

/-- Let a region's slice answer what it can. -/
def State.serveTokens (s : State) (rk : Nat) : State :=
  let r := s.region rk
  let p := answerTokens r r.asking.length
  p.1.foldl (fun s q => s.push (.stashRefillAnswer q.1 q.2)) (s.setRegion rk p.2)

/-- A record returns: to the core's stash, or to the region's slice when the stash is full (R221); a replay leaves out
the returns that the slice already has. DESIGN CHOICE: a refill in flight counts as a place of the stash, so that it never holds 9
records (log 85). -/
def State.returnToken (s : State) (ck : Nat) (t : TokRec) : State :=
  if t.token = 0 then s
  else if (s.core ck).stash.length + (if (s.core ck).refilling then 1 else 0) < 8 then s.updCore ck fun c => { c with stash := c.stash ++ [t] }
  else if 0 < (s.core ck).keep then s.updCore ck fun c => { c with keep := c.keep - 1 }
  else ((s.updCore ck fun c => { c with gave := c.gave + 1 }).updRegion (s.rkOf ck) fun r => { r with pool := r.pool ++ [t] }).serveTokens (s.rkOf ck)

/-! ## Starting a task (R258, R266) -/

/-- The seed of `rng` (R79). -/
def rngSeed (w t : Nat) : BitVec 64 :=
  let x := BitVec.ofNat 64 w ^^^ BitVec.ofNat 64 (t * 2 ^ 24)
  if x = 0 then 1 else x

/-- A strand at the start of a task: registers, latches and limits at their reset values (R258, R266). -/
def Strand.fresh (x : Strand) (pc : BitVec 64) (g0 g1 g2 : Reg80) (rng : BitVec 64) : Strand :=
  let z := Vector.replicate 24 Reg.zero
  let c := { Ctx.reset with
    pc := pc, rng := rng,
    g := ((z.set 0 { v := g0, p := false }).set 1 { v := g1, p := false }).set 2 { v := g2, p := false } }
  { x with
    ctx := c, start := c, chunk := { Chunk.empty with limit := 256 }, await := none, effect := none, waitFrom := none,
    why := .none, bounded := false, stopping := false, prefixed := none, branch := none, effIssue := false, closes := false,
    squashPc := 0, squashes := 0, serialLeft := 0, serialRun := none, waitLog := [], farBusy := none, alarm := 0, wcl := wclReset, chl := chlReset, slips := 0,
    mons := Vector.replicate 4 Monitor.off, sets := Vector.replicate 8 none, asking := [], ceCount := 0, ceOut := [], ceDone := [],
    ceErr := 0, ceErrCmd := 0, buffered := Vector.replicate 8 0, elem := none, popped := [], given := [], carry := none, donePhase := 0,
    wounded := false, killing := false, endChunk := false, stepping := false, stepAsked := false, sgoWake := false }

/-- The values of a task's record as its strand starts (R266). -/
def State.bindTask (s : State) (sid i : Nat) : State :=
  let ck := ckOf sid
  let arg := make (BitVec.ofNat 16 (s.recField ck i 24 2)) (BitVec.ofNat 64 (s.recField ck i 16 8))
  let wid := s.recField ck i 0 8
  let tok := (s.strand sid).tok.toNat
  let entry := BitVec.ofNat 64 (s.recField ck i 8 8)
  let age := BitVec.ofNat 64 (s.recField ck i 32 8)
  let h := s.recHandle ck i
  s.updStrand sid fun x => { x.fresh entry arg (make 0 (BitVec.ofNat 64 wid)) h (rngSeed wid tok) with task := some i, ag := age }

/-- Take the oldest record of a core's stash for a strand (R221). -/
def State.takeToken (s : State) (sid : Nat) : Option (TokRec × State) :=
  match (s.core (ckOf sid)).stash with
  | [] => none
  | t :: r => some (t, (s.updCore (ckOf sid) fun c => { c with stash := r }).askToken (ckOf sid))

/-- Give a strand an identity. -/
def State.setToken (s : State) (sid : Nat) (t : TokRec) : State :=
  s.updStrand sid fun x => { x with tok := t.token, sn := t.sn, floor := t.floor }

/-- A task that has its identity starts: its record runs and its strand is ready (R266). -/
def State.launchTask (s : State) (sid i : Nat) : State :=
  ((s.bindTask sid i).setRecState (ckOf sid) i recRunning).updStrand sid fun x => { x with st := .ready }

/-- An idle strand of a double-seated core that is not resident starts: where no other was parked, the chunks that the residents have
committed since count from here (R382). -/
def State.parkedWakes (s : State) (sid : Nat) : State :=
  let ck := ckOf sid
  let c := s.core ck
  let busy := fun (n : Nat) => decide ((s.strand (sidOf ck n)).st ≠ .idle)
  if c.parked.contains (strandNo sid) && !c.parked.any (fun n => n != strandNo sid && busy n) then
    s.updCore ck fun c => { c with swapBase := ((List.range 16).filter fun n => !c.parked.contains n).map fun n => (n, (s.strand (sidOf ck n)).committed) }
  else s

/-- `ct.sgo` with NEW on an idle strand and a READY record (R266): a first start takes an identity from the
stash, or waits for one; a restarted task takes it from its undo log's header (R298). -/
def State.startTask (s : State) (sid i : Nat) : State :=
  let s := s.parkedWakes sid
  let ck := ckOf sid
  let tok := s.recField ck i 40 5
  if tok ≠ 0 then
    let undo := localFlat ck (s.recField ck i 48 4)
    (s.setToken sid { token := BitVec.ofNat 40 tok, sn := BitVec.ofNat 32 (s.load (undo + 16) 4), floor := BitVec.ofNat 32 (s.load (undo + 20) 4) }).launchTask sid i
  else match s.takeToken sid with
  | some (t, s1) => ((s1.setToken sid t).setRec ck i 40 5 t.token.toNat).launchTask sid i
  | none =>
    let s1 := ((s.setToken sid { token := 0, sn := 0, floor := 0 }).bindTask sid i).setRecState ck i recRunning
    s1.enterWait sid .stalledLA .token (s1.strand sid).ceiling

/-- Strands that wait for an identity take the records a core's stash holds (R221, R266). -/
def State.serveStash (s : State) (ck : Nat) : State :=
  (coreStrands ck).foldl (fun s sid =>
    let x := s.strand sid
    let s1 := match x.ctx.flights.find? fun f => !f.arrived && (match f.pend with | .token => true | _ => false) with
      | some f => s.pushOnce (.variableResultLand sid f.seq)
      | none => s
    match x.task with
    | some i =>
      if x.st = .stalledLA ∧ x.why = .token then
        match s1.takeToken sid with
        | some (t, s2) => ((s2.setToken sid t).setRec ck i 40 5 t.token.toNat).launchTask sid i
        | none => s1
      else s1
    | none => s1) s

end Sys2Proof.Machine
end

