-- ==== Sys2Proof/Machine/Atomics.lean ====
section
/-! DEFINITION. Atomics (R222-R227), atomic-set declarations (R295) and `at.tok` (R221). -/

namespace Sys2Proof.Machine

/-! ## What an atomic does to its location (Table 9-4) -/

/-- Bytes of the location. -/
def atSize (op : AtOp) : Nat :=
  match op with
  | .add32 | .fadd32 | .fadd16b | .min32 | .max32 | .minu32 | .maxu32 => 4
  | _ => 8

/-- S32 of a value's low bits. -/
def s32 (n : Nat) : Int := (BitVec.ofNat 32 n).toInt

/-- The new content of a location with content `m`; `none` where nothing is written. -/
def atNew (op : AtOp) (m : Nat) (o x : BitVec 64) : Option Nat :=
  let o32 := o.toNat % 2 ^ 32
  match op with
  | .add32 => some ((m + o32) % 2 ^ 32)
  | .add64 => some ((m + o.toNat) % 2 ^ 64)
  | .fadd32 => some (fAdd fp32 0 0 (fp32.decode m) (fp32.decode o32)).bits
  | .fadd16b => some (fAdd fp32 0 0 (fp32.decode m) (bf16.decode (o.toNat % 2 ^ 16))).bits
  | .min32 => some (if s32 m ≤ s32 o32 then m else o32)
  | .max32 => some (if s32 m ≥ s32 o32 then m else o32)
  | .minu32 => some (min m o32)
  | .maxu32 => some (max m o32)
  | .and64 => some (m &&& o.toNat)
  | .or64 => some (m ||| o.toNat)
  | .xor64 => some (m ^^^ o.toNat)
  | .swp64 => some o.toNat
  | .cas64 => if m = o.toNat then some x.toNat else none
  | .finc => some ((m + 1) % 2 ^ 64)

/-- What `at.r` receives of the old content. -/
def atResult (op : AtOp) (m : Nat) : BitVec 64 :=
  match op with
  | .add32 | .min32 | .max32 => (BitVec.ofNat 32 m).signExtend 64
  | _ => BitVec.ofNat 64 m

/-- The mark of the stored value: an operand's mark where its value is stored, joined with that of the old content
where the operation reads it (R227). DESIGN CHOICE: min and max store one of the two, and either's mark marks the word (log 86). -/
def atMark (op : AtOp) (omark old : Bool) : Bool :=
  match op with
  | .swp64 | .cas64 => omark
  | _ => omark || old

/-- The mark that an atomic's operands carry to its location. -/
def operandMark (op : AtOp) (o x : Reg) : Bool :=
  match op with
  | .finc => false
  | .cas64 => x.p
  | _ => o.p

/-- An atomic at its owner, at one place in the order: the result, its mark, and the state (R225). -/
def State.atomicAt (s : State) (writer : Option Nat) (op : AtOp) (flat : Nat) (o x : BitVec 64) (mark : Bool) : BitVec 64 × Bool × State :=
  let n := atSize op
  let m := s.load flat n
  let old := s.marked flat
  let s1 := match atNew op m o x with
    | some v => s.placeNum writer flat n v (atMark op mark old)
    | none => s
  (atResult op m, old, s1)

/-! ## The undo log's own writes (R299) -/

/-- Write the next line entry of a task's undo log. -/
def State.logLine (s : State) (ck i : Nat) (ptr : Reg80) (line : List Byte) : State :=
  let u := s.undoAt ck i
  let n := s.load u 4
  (s.place none { addr := u + 64 + 144 * n, data := addrBytes ptr ++ List.replicate 6 (0 : Byte) ++ line, mark := false }).placeNum none u 4 (n + 1) false

/-! ## Triggers -/

/-- What a landing atomic writes (R222, R227). DESIGN CHOICE: a reduction that meets a poisoned content, having no result to mark, sets no
pending error (log 86). -/
def atWrites (red : Bool) (pc : BitVec 64) (a : Reg80) (v : BitVec 64) (mark : Bool) : List Wr :=
  if red then [] else .latch .atR (mk0 v mark) :: (if mark then [.pe pc a] else [])

/-- An atomic that does not wait for a deferral: at the core's own bank unit, or as a message (R225). -/
def atIssue (s : State) (la : BitVec 4) (op : AtOp) (red : Bool) (a o x : Reg) (log : Bool) (acc : Acc) : State :=
  let mark := operandMark op o x
  match acc with
  | .mem ps =>
    let flat := (ps.headD (0, 0)).1
    if isLocalFlat flat && decide (ckOfFlat flat = s.myCk) then
      let s := s.sense (some s.myCk) (flat / 128)
      let old := memReadList s.mem (flat / 128 * 128) 128
      let r := s.atomicAt (some s.cur) op flat o.val x.val mark
      let s1 := match s.me.task with
        | some i => if log then r.2.2.logLine s.myCk i (linePtr a.v) old else r.2.2
        | none => r.2.2
      (s1.asEffect.launchVar .at la .none 0 0 (!red) false (atWrites red s.ctx.pc a.v r.1 r.2.1)).push (.variableResultLand s.cur s.me.seq)
    else
      s.remoteOp .at la (.atomic a.v log) (!red) (ownerOfFlat flat) fun _ => .atomic op red flat o.val x.val mark log
  | .late c => s.lateFault .at la a.v c
  | .module m t offs =>
    s.remoteOp .at la (.atomic a.v false) (!red) (.module m) fun s => .module (s.modAccess t offs (atSize op) none (some (op, o.val, x.val)) mark)
  | _ => s.faultAddr causeWindow a.v

/-- An atomic on a line of a held set is logged; outside the sets it is deferred (R299, R300). -/
def atSets (s : State) (la : BitVec 4) (op : AtOp) (red : Bool) (a o x : Reg) (acc : Acc) : State :=
  let ls : List Latch := if op = .cas64 then [.atO, .lsD] else [.atO]
  let run := fun (log : Bool) (s : State) => (atIssue s la op red a o x log acc).consumeAll ls
  match acc, s.me.task with
  | .mem ps, some i =>
    let line := (ps.headD (0, 0)).1 / 128
    if s.heldSets s.cur = 0 then run false s
    else if s.inHeldSet s.cur line then
      if (s.loggedLines s.myCk i ++ s.me.undoPending).contains line then run false s
      else if s.load (s.undoAt s.myCk i + 4) 4 ≤ s.load (s.undoAt s.myCk i) 4 + s.me.undoPending.length then s.faultAddr causeUndo a.v
      else run true s
    else deferGate s a [] ls (run false)
  | _, _ => deferGate s a [] ls (run false)

/-- An atomic with its address and operands (R224). -/
def atRun (s : State) (la : BitVec 4) (op : AtOp) (red : Bool) (a o x : Reg) : State :=
  let n := atSize op
  effectGate s fun s =>
  if a.p then s.faultPoison a.v
  else if classOf a.v = 4 ∨ classOf a.v = 5 ∨ classOf a.v = 0x7F then s.faultAddr causeWindow a.v
  else access s a n n true false fun acc s =>
    if red then atSets s la op red a o x acc else windowGate s 1 fun s => atSets s la op red a o x acc

/-- An atomic trigger. -/
def atTrigger (h : Hdr) (la : BitVec 4) (op : AtOp) (red : Bool) (c : CSrc) (s : State) : State :=
  guarded h s fun s => readC s c fun a s => atRun s la op red a (s.ctx.latch .atO) (s.ctx.latch .lsD)

/-- AT_ADD32 (R222). -/
def execAtAdd32 (h : Hdr) (la : BitVec 4) (c : CSrc) (s : State) : Res := .next (atTrigger h la .add32 false c s)
/-- AT_ADD64 (R222). -/
def execAtAdd64 (h : Hdr) (la : BitVec 4) (c : CSrc) (s : State) : Res := .next (atTrigger h la .add64 false c s)
/-- AT_FADD32 (R223). -/
def execAtFadd32 (h : Hdr) (la : BitVec 4) (c : CSrc) (s : State) : Res := .next (atTrigger h la .fadd32 false c s)
/-- AT_FADD16B (R223). -/
def execAtFadd16b (h : Hdr) (la : BitVec 4) (c : CSrc) (s : State) : Res := .next (atTrigger h la .fadd16b false c s)
/-- AT_MIN32 (R222). -/
def execAtMin32 (h : Hdr) (la : BitVec 4) (c : CSrc) (s : State) : Res := .next (atTrigger h la .min32 false c s)
/-- AT_MAX32 (R222). -/
def execAtMax32 (h : Hdr) (la : BitVec 4) (c : CSrc) (s : State) : Res := .next (atTrigger h la .max32 false c s)
/-- AT_MINU32 (R222). -/
def execAtMinu32 (h : Hdr) (la : BitVec 4) (c : CSrc) (s : State) : Res := .next (atTrigger h la .minu32 false c s)
/-- AT_MAXU32 (R222). -/
def execAtMaxu32 (h : Hdr) (la : BitVec 4) (c : CSrc) (s : State) : Res := .next (atTrigger h la .maxu32 false c s)
/-- AT_AND64 (R222). -/
def execAtAnd64 (h : Hdr) (la : BitVec 4) (c : CSrc) (s : State) : Res := .next (atTrigger h la .and64 false c s)
/-- AT_OR64 (R222). -/
def execAtOr64 (h : Hdr) (la : BitVec 4) (c : CSrc) (s : State) : Res := .next (atTrigger h la .or64 false c s)
/-- AT_XOR64 (R222). -/
def execAtXor64 (h : Hdr) (la : BitVec 4) (c : CSrc) (s : State) : Res := .next (atTrigger h la .xor64 false c s)
/-- AT_SWP64 (R222). -/
def execAtSwp64 (h : Hdr) (la : BitVec 4) (c : CSrc) (s : State) : Res := .next (atTrigger h la .swp64 false c s)
/-- AT_CAS64 (R222). -/
def execAtCas64 (h : Hdr) (la : BitVec 4) (c : CSrc) (s : State) : Res := .next (atTrigger h la .cas64 false c s)
/-- AT_FINC (R222). -/
def execAtFinc (h : Hdr) (la : BitVec 4) (c : CSrc) (s : State) : Res := .next (atTrigger h la .finc false c s)
/-- AT_RED_ADD32 (R223). -/
def execAtRedAdd32 (h : Hdr) (la : BitVec 4) (c : CSrc) (s : State) : Res := .next (atTrigger h la .add32 true c s)
/-- AT_RED_ADD64 (R223). -/
def execAtRedAdd64 (h : Hdr) (la : BitVec 4) (c : CSrc) (s : State) : Res := .next (atTrigger h la .add64 true c s)
/-- AT_RED_FADD32 (R223). -/
def execAtRedFadd32 (h : Hdr) (la : BitVec 4) (c : CSrc) (s : State) : Res := .next (atTrigger h la .fadd32 true c s)
/-- AT_RED_FADD16B (R223). -/
def execAtRedFadd16b (h : Hdr) (la : BitVec 4) (c : CSrc) (s : State) : Res := .next (atTrigger h la .fadd16b true c s)

/-- Whether a byte of a declared set lies at or past its window's limit (R295). A declaration is no access: of the core's own
store only the limit is asked. -/
def State.pastLimit (s : State) (a : Reg80) (n : Nat) : Bool :=
  match s.ownOff s.myCk a with
  | some off => decide (2 ^ 20 < off + n)
  | none => match s.checkAccess s.myCk .kernel a n 1 with
    | .bad _ => true
    | .ok _ => false

/-- AT_ASET (R295): declare a set. -/
def execAtAset (h : Hdr) (n : Fin 8) (c : CSrc) (s : State) : Res :=
  .next (guarded h s fun s => readC s c fun a s =>
    let len := (s.ctx.latch .atO).val.toNat
    let cls := classOf a.v
    let okClass := decide ((cls = 0 ∨ cls = 1 ∨ cls = 2 ∨ cls = 3) ∧ qualOf a.v = 0)
    if a.p then s.faultPoison a.v
    else if len = 0 ∨ 2 ^ 20 < len ∨ (s.heldSets s.cur).testBit n.val then s.faultAddr causeSetOp a.v
    else if !okClass then s.faultAddr causeWindow a.v
    else if s.pastLimit a.v len then s.faultAddr causeWindow a.v
    else if s.me.task.isNone then s.faultAddr causeNoTask a.v
    else (s.updMe fun x => { x with sets := x.sets.set n (some { base := a.v, len := len }) }).consume .atO)

/-- AT_TOK (R221): the stash's oldest record becomes the context's identity. -/
def execAtTok (h : Hdr) (la : BitVec 4) (s : State) : Res :=
  .next (guarded h s fun s => needKernel s fun s => conflictGate s 0 fun s => effectGate s fun s => windowGate s 1 fun s =>
    let seq := s.me.seq
    ((s.asWaiting.consume .atO).launchVar .at la .token s.me.ceiling 6 true false []).push (.variableResultLand s.cur seq))

/-- MOV_AT_O (R222). -/
def execMovAtO (h : Hdr) (c : CSrc) (s : State) : Res := .next (guarded h s fun s => readC s c fun r s => s.write (.latch .atO r))

end Sys2Proof.Machine
end

