-- ==== Sys2Proof/Machine/Cache.lean ====
section
/-! DEFINITION. The result cache of an owner (R228, R230): which entries retire, whether there is room, and what an entry
answers. -/

namespace Sys2Proof.Machine

/-- Before(a, b) for serials (R220). -/
def snBefore (a b : BitVec 32) : Bool := let d := (b - a).toNat; decide (1 ≤ d ∧ d < 2 ^ 31)

/-- Whether an entry belongs to a token of a partition. -/
def CacheEnt.isOf (e : CacheEnt) (pid : Nat) (tok : BitVec 40) : Bool := e.pid == pid && e.tok == tok

/-- Retire every entry of a token whose serial is before a floor. -/
def OwnerData.retire (o : OwnerData) (pid : Nat) (tok : BitVec 40) (floor : BitVec 32) : OwnerData :=
  { o with cache := o.cache.filter fun e => !(e.isOf pid tok && snBefore e.sn floor) }

/-- The entry of a token and serial. -/
def OwnerData.entryOf (o : OwnerData) (pid : Nat) (tok : BitVec 40) (sn : BitVec 32) : Option CacheEnt :=
  o.cache.find? fun e => e.isOf pid tok && e.sn == sn

/-- Whether there is no room for one more entry of a token. -/
def OwnerData.full (o : OwnerData) (pid : Nat) (tok : BitVec 40) : Bool :=
  decide (64 ≤ (o.cache.filter fun e => e.isOf pid tok).length) || decide (4096 ≤ o.cache.length)

/-- A plain acknowledgment. -/
def ackReply : Reply := { value := 0, mark := false, code := 0, head := 0, tail := 0, old := [], marks := [] }

/-- Store an entry. -/
def OwnerData.keep (o : OwnerData) (pid : Nat) (tok : BitVec 40) (sn : BitVec 32) (kind : ReplyKind) (r : Reply) : OwnerData :=
  { o with cache := o.cache ++ [{ pid := pid, tok := tok, sn := sn, kind := kind, reply := r }] }

end Sys2Proof.Machine
end

