-- ==== Sys2Proof/Machine/Image.lean ====
section
/-! DEFINITION. The context image of a strand (Table 13-7, R331, R332): its 8,192 bytes, the checks of its
fields, and the strand that an image describes. -/

namespace Sys2Proof.Machine

/-- `l` with zeros up to `n` bytes. -/
def padTo (n : Nat) (l : List Byte) : List Byte := (l ++ List.replicate n (0 : Byte)).take n
/-- The ten bytes of a register or latch: the value, then the tag. -/
def regBytes (r : Reg) : List Byte := addrBytes r.v
/-- The pointer that ten bytes hold. -/
def ptrAt (b : List Byte) (o : Nat) : Reg80 := make (BitVec.ofNat 16 (fieldAt b (o + 8) 2)) (BitVec.ofNat 64 (fieldAt b o 8))
/-- Some flags as a number, the first in bit 0. -/
def flagBits : List Bool → Nat
  | [] => 0
  | b :: r => (if b then 1 else 0) + 2 * flagBits r

/-! ## Stream descriptors (Table 7-5) -/

/-- The 64 bytes of a stream's descriptor. -/
def Binding.bytes (b : Binding) : List Byte :=
  leBytes 8 b.base.toNat ++ leBytes 2 b.tag.toNat ++ [if b.out then 1 else 0] ++ List.replicate 5 (0 : Byte) ++
  (b.counts.flatMap fun c => leBytes 4 c) ++ (b.strides.flatMap fun d => leBytes 8 d.toNat)

/-- The stream a descriptor describes, unless it breaks a must-be-zero or count rule (R188). -/
def bindingOf (d : List Byte) : Option Binding :=
  let counts := (List.range 4).map fun i => fieldAt d (16 + 4 * i) 4
  let flags := fieldAt d 10 1
  if 2 ≤ flags ∨ fieldAt d 11 5 ≠ 0 ∨ counts.any (fun c => c == 0) then none
  else some
    { base := BitVec.ofNat 64 (fieldAt d 0 8), tag := BitVec.ofNat 16 (fieldAt d 8 2), out := decide (flags = 1),
      counts := counts, strides := (List.range 4).map fun i => BitVec.ofNat 64 (fieldAt d (32 + 8 * i) 8), pos := 0 }

/-! ## Pending results (R332) -/

/-- {SU, SP} of the source port that shows a latch, for the results a record holds. -/
def latchPort : Latch → Option Nat
  | .lsW => some 0x60
  | .lsX => some 0x61
  | .lsY => some 0x62
  | .lsZ => some 0x63
  | .atR => some 0x70
  | .sqR => some 0x90
  | .syR => some 0xA0
  | _ => none

/-- The unit and the write of a result recorded for a port. -/
def portWrite (code : Nat) (r : Reg) : Option (FUnit × Wr) :=
  match code with
  | 0x60 => some (.ls, .latch .lsW r)
  | 0x61 => some (.ls, .latch .lsX r)
  | 0x62 => some (.ls, .latch .lsY r)
  | 0x63 => some (.ls, .latch .lsZ r)
  | 0x70 => some (.at, .latch .atR r)
  | 0x90 => some (.sq, .latch .sqR r)
  | 0x91 => some (.sq, .sqSt r.val)
  | 0xA0 => some (.sy, .latch .syR r)
  | 0x50 => some (.mx, .mxSt (BitVec.allOnes 64) r.val)
  | _ => none

/-- The ports of a result that has not arrived: a pop delivers to two (Table 11-4). -/
def Flight.portCodes (f : Flight) : List Nat :=
  match f.pend with
  | .bytes (.lane _ l) _ => [0x60 + l.val]
  | .queue push _ _ _ _ _ => if push then [0x91] else [0x90, 0x91]
  | _ =>
    match f.unit with
    | .at => [0x70]
    | .sq => if f.dp = 0 then [0x91] else if f.dp < 3 then [0x90, 0x91] else [0x90]
    | .sy => [0xA0]
    | .mx => [0x50]
    | _ => [0x60]

/-- One 16-byte record. -/
def pendRecord (code left : Nat) (valid : Bool) (r : Reg) : List Byte :=
  [BitVec.ofNat 8 code, BitVec.ofNat 8 left, BitVec.ofNat 8 (flagBits [valid, r.p])] ++ regBytes r ++ List.replicate 3 (0 : Byte)

/-- The records of a result in flight to a source port. A request for the lease that waits stands there with the count it asks for; DESIGN
CHOICE, as the record's value is open before the result lands (log 92). -/
def Flight.records (c : Ctx) (f : Flight) : List (List Byte) :=
  let rs := f.acts.filterMap fun w => match w with
    | .latch l r => (latchPort l).map fun p => pendRecord p f.left f.arrived r
    | .sqSt w => some (pendRecord 0x91 f.left f.arrived (mk0 w false))
    | .mxSt cl st => some (pendRecord 0x50 f.left f.arrived (mk0 ((c.mxSt &&& ~~~ cl) ||| st) false))
    | _ => none
  if !f.port then []
  else match f.pend with
  | .lease n => [pendRecord 0x50 f.left false (mk0 (BitVec.ofNat 64 n) false)]
  | _ => if rs = [] ∧ !f.arrived then f.portCodes.map fun c => pendRecord c f.left false Reg.zero else rs

/-! ## The image -/

/-- The state that an image records: the one a strand returns to (R255). -/
def Strand.imageState (x : Strand) : SState :=
  match x.st with
  | .frozen => x.frozenFrom
  | .stopped | .idle => x.recorded
  | st => st

/-- The remaining bound of the recorded wait in units of 256 cycles; none where the strand records no wait. -/
def State.imageBound (s : State) (sid : Nat) : Nat :=
  match (s.strand sid).imageState with
  | .idle | .ready | .slip => 0
  | _ => ceilDiv (s.boundLeft sid) 256

/-- Slot 31: the header. -/
def imageHeader (x : Strand) (bound : Nat) : List Byte :=
  let c := x.ctx
  leBytes 2 (x.task.getD 0xFFFF) ++ [BitVec.ofNat 8 x.imageState.code, BitVec.ofNat 8 (flagBits [c.pe.set, true, c.second])] ++
  leBytes 4 bound ++ leBytes 8 c.pe.pc.toNat ++ padTo 16 (addrBytes c.pe.addr) ++
  (x.mons.toList.flatMap fun m => addrBytes (linePtr m.ptr)) ++
  [BitVec.ofNat 8 (flagBits (x.mons.toList.map Monitor.armed) + 16 * flagBits (x.mons.toList.map Monitor.fired)),
   BitVec.ofNat 8 (flagBits (c.binds.toList.map Option.isSome))] ++ List.replicate 6 (0 : Byte) ++
  leBytes 8 (flagBits ((c.g.toList.map Reg.p) ++ (c.lat.toList.map Reg.p) ++ (c.v.toList.map VReg.p) ++ (c.k.toList.map KReg.p)))

/-- The 8,192 bytes of a strand's image. -/
def State.image (s : State) (sid : Nat) : List Byte :=
  let x := s.strand sid
  let c := x.ctx
  (c.v.toList.flatMap fun r => leBytes 512 r.d.toNat) ++ (c.k.toList.flatMap fun r => leBytes 128 r.d.toNat) ++
  padTo 248 ((c.g.toList.flatMap regBytes) ++ leBytes 4 c.pw.toNat) ++ leBytes 8 c.pc.toNat ++
  padTo 256 ((c.lat.toList.take 25).flatMap regBytes) ++
  padTo 256 (padTo 32 ((c.lat.toList.drop 25).flatMap regBytes) ++
    leBytes 8 c.mxSt.toNat ++ leBytes 8 c.sqSt.toNat ++ leBytes 8 c.vt.toNat ++ leBytes 8 c.fx.toNat ++ leBytes 8 c.rng.toNat ++
    leBytes 8 x.tok.toNat ++ leBytes 4 x.sn.toNat ++ leBytes 4 x.floor.toNat ++ leBytes 4 x.chl.toNat ++ leBytes 4 x.wcl.toNat ++
    leBytes 8 x.alarm.toNat ++ leBytes 8 x.slips.toNat ++ leBytes 8 x.ag.toNat ++ leBytes 4 x.ceCount.toNat) ++
  (x.sets.toList.flatMap fun d => match d with
    | some d => padTo 16 (addrBytes d.base ++ leBytes 4 d.len)
    | none => List.replicate 16 (0 : Byte)) ++
  padTo 128 (x.ceDone.flatMap fun e => leBytes 8 e.1.toNat) ++
  (c.binds.toList.flatMap fun b => match b with
    | some b => b.bytes
    | none => List.replicate 64 (0 : Byte)) ++
  padTo 256 ((c.binds.toList.flatMap fun b => leBytes 8 ((b.map Binding.pos).getD 0)) ++
    padTo 128 ((c.flights.flatMap fun f => f.records c).flatten)) ++
  List.replicate 1536 (0 : Byte) ++ padTo 256 (imageHeader x (s.imageBound sid))

/-! ## Limits of the fields -/

/-- Whether `n` bytes from `o` on are zero. -/
def zeroAt (b : List Byte) (o n : Nat) : Bool := ((b.drop o).take n).all fun x => x == 0

/-- Whether `chl` may hold a value (Table 8-1). -/
def chlOk (w : BitVec 64) : Bool := decide (16 ≤ w.toNat ∧ w.toNat ≤ 1024)
/-- Whether `wcl` may hold a value (Table 10-2). -/
def wclOk (w : BitVec 64) : Bool := decide (1 ≤ w.toNat ∧ w.toNat < 2 ^ 24)

/-- The stream flagged bound in the header, as its descriptor and position give it. -/
def imageBind (b : List Byte) (j : Nat) : Option Binding :=
  if (fieldAt b (7936 + 73) 1).testBit j then
    (bindingOf ((b.drop (5632 + 64 * j)).take 64)).map fun d => { d with pos := fieldAt b (6144 + 8 * j) 8 }
  else none

/-- Whether the fields of an image are within their limits and its reserved bits zero (R267, R329). -/
def imageOk (b : List Byte) : Bool :=
  let w := fun o n => BitVec.ofNat 64 (fieldAt b o n)
  zeroAt b 4852 4 && zeroAt b 5114 6 && zeroAt b 5150 2 && zeroAt b 5228 4 && zeroAt b 5244 132 &&
  ((List.range 8).all fun i => zeroAt b (5376 + 16 * i + 14) 2 && decide (fieldAt b (5376 + 16 * i + 10) 4 ≤ 2 ^ 20)) &&
  ((List.range 8).all fun j => !(fieldAt b (7936 + 73) 1).testBit j || (imageBind b j).isSome) &&
  ((List.range 8).all fun i => zeroAt b (6208 + 16 * i + 13) 3 &&
    (zeroAt b (6208 + 16 * i) 13 || (portWrite (fieldAt b (6208 + 16 * i) 1) Reg.zero).isSome && decide (fieldAt b (6208 + 16 * i + 2) 1 < 4))) &&
  zeroAt b 6336 1600 && decide (fieldAt b 7938 1 < 12) && decide (fieldAt b 7939 1 < 8) && zeroAt b 7962 6 &&
  zeroAt b 8010 6 && zeroAt b 8024 168 &&
  vtOk (w 5168 8) && fxOk (w 5176 8) && decide (fieldAt b 5192 8 < 2 ^ 40) && chlOk (w 5208 4) && wclOk (w 5212 4) &&
  decide (fieldAt b 5152 8 &&& (2 ^ 64 - 1 - (2 ^ 55 - 2 ^ 46 + 2 ^ 40 - 2 ^ 36 + 2 ^ 34 - 2 ^ 16 + 2 ^ 15 - 2 ^ 8 + 127)) = 0) &&
  decide (fieldAt b 5160 8 < 2 ^ 36)

/-! ## The strand that an image describes -/

/-- A result to `mx.st` that has not landed waits for the lease. -/
def Flight.asLease (f : Flight) (code n : Nat) : Flight :=
  if code = 0x50 ∧ !f.arrived then { f with pend := .lease n, detail := 1, acts := [] } else f

/-- The results that an image records, in flight under new numbers from `seq` on; one that has not landed
arrives as the strand runs again. -/
def imageFlights (b : List Byte) (seq lim : Nat) : List Flight :=
  (List.range 8).filterMap fun i =>
    let o := 6208 + 16 * i
    if zeroAt b o 16 then none
    else
      let fl := fieldAt b (o + 2) 1
      (portWrite (fieldAt b o 1) { v := ptrAt b (o + 3), p := fl.testBit 1 }).map fun uw =>
        let f : Flight :=
          { unit := uw.1, seq := seq + i, left := fieldAt b (o + 1) 1, arrived := fl.testBit 0, pend := .none, lim := lim,
            detail := 17, word := 0, pc := 0, second := false, port := true, acts := [uw.2] }
        f.asLease (fieldAt b o 1) (fieldAt b (o + 3) 8)

/-- The context that an image describes, with `fs` in flight. -/
def imageCtx (b : List Byte) (fs : List Flight) : Ctx :=
  let pb := fieldAt b 8016 8
  let reg := fun o i => ({ v := ptrAt b o, p := pb.testBit i } : Reg)
  { g := Vector.ofFn fun (i : Fin 24) => reg (4608 + 10 * i.val) i.val,
    pw := BitVec.ofNat 32 (fieldAt b 4848 4) ||| 1,
    pc := BitVec.ofNat 64 (fieldAt b 4856 8),
    second := (fieldAt b 7939 1).testBit 2,
    vt := BitVec.ofNat 64 (fieldAt b 5168 8),
    v := Vector.ofFn fun (i : Fin 8) => ({ d := BitVec.ofNat 4096 (fieldAt b (512 * i.val) 512), p := pb.testBit (52 + i.val) } : VReg),
    k := Vector.ofFn fun (i : Fin 4) => ({ d := BitVec.ofNat 1024 (fieldAt b (4096 + 128 * i.val) 128), p := pb.testBit (60 + i.val) } : KReg),
    lat := Vector.ofFn fun (i : Fin 28) => reg (if i.val < 25 then 4864 + 10 * i.val else 5120 + 10 * (i.val - 25)) (24 + i.val),
    mxSt := BitVec.ofNat 64 (fieldAt b 5152 8),
    sqSt := BitVec.ofNat 64 (fieldAt b 5160 8),
    fx := BitVec.ofNat 64 (fieldAt b 5176 8),
    rng := (if fieldAt b 5184 8 = 0 then 1 else BitVec.ofNat 64 (fieldAt b 5184 8)),
    stale := 0,
    binds := Vector.ofFn fun (j : Fin 8) => imageBind b j.val,
    flights := fs,
    pe := { set := (fieldAt b 7939 1).testBit 0, pc := BitVec.ofNat 64 (fieldAt b 7944 8), addr := ptrAt b 7952 } }

/-- The atomic-set declarations of an image. -/
def imageSets (b : List Byte) : Vector (Option SetDecl) 8 :=
  Vector.ofFn fun (i : Fin 8) =>
    let n := fieldAt b (5376 + 16 * i.val + 10) 4
    if n = 0 then none else some { base := ptrAt b (5376 + 16 * i.val), len := n }

/-- A strand with everything of an image but its state: registers, identity, declarations and bound. -/
def Strand.ofImage (x : Strand) (b : List Byte) (fs : List Flight) : Strand :=
  let c := imageCtx b fs
  { x with
    ctx := c, start := c, chunk := { Chunk.empty with limit := fieldAt b 5208 4 },
    tok := BitVec.ofNat 40 (fieldAt b 5192 8), sn := BitVec.ofNat 32 (fieldAt b 5200 4), floor := BitVec.ofNat 32 (fieldAt b 5204 4),
    chl := BitVec.ofNat 64 (fieldAt b 5208 4), wcl := BitVec.ofNat 64 (fieldAt b 5212 4),
    alarm := BitVec.ofNat 64 (fieldAt b 5216 8), slips := BitVec.ofNat 32 (fieldAt b 5224 4),
    ag := BitVec.ofNat 64 (fieldAt b 5232 8), ceCount := BitVec.ofNat 32 (fieldAt b 5240 4),
    sets := imageSets b, bound := 256 * fieldAt b 7940 4, bounded := false, seq := x.seq + 8 }

/-- The elements of `ce.c` that an image holds: those before the last that is not zero. -/
def imageDone (b : List Byte) : List (BitVec 64 × Bool) :=
  let es := (List.range 16).map fun i => BitVec.ofNat 64 (fieldAt b (5504 + 8 * i) 8)
  ((es.reverse.dropWhile fun e => e == 0).reverse).map fun e => (e, false)

/-- Whether two images differ in `n` bytes from `o` on. -/
def imageDiffers (a b : List Byte) (o n : Nat) : Bool := (a.drop o).take n != (b.drop o).take n

end Sys2Proof.Machine
end

