-- ==== Sys2Proof/Machine/Launch.lean ====
section
/-! DEFINITION. Launch headers (Table 10-3): their fields, their legality (R260), the homes and records of their
tasks (R261). -/

namespace Sys2Proof.Machine

/-- NF. -/
def hdrFields (h : List Byte) : Nat := fieldAt h 18 1
/-- W_f. -/
def hdrWidth (h : List Byte) (f : Nat) : Nat := fieldAt h (20 + f) 1
/-- o_f (R259). -/
def hdrOff (h : List Byte) (f : Nat) : Nat := ((List.range f).map (hdrWidth h)).sum
/-- The number of values of field f. -/
def hdrCount (h : List Byte) (f : Nat) : Nat := (fieldAt h 32 8 / 2 ^ hdrOff h f) % 2 ^ hdrWidth h f + 1
/-- What field f maps to: 0 local, 1 x, 2 y, 3 seat. -/
def hdrMap (h : List Byte) (f : Nat) : Nat := (fieldAt h 26 2 / 2 ^ (2 * f)) % 4
/-- The fields that map to a coordinate. -/
def hdrMapped (h : List Byte) (m : Nat) : List Nat := (List.range (hdrFields h)).filter fun f => hdrMap h f = m
/-- RBASE. -/
def hdrRbase (h : List Byte) : Nat := fieldAt h 40 4 / 2 ^ 22
/-- STG. -/
def hdrStg (h : List Byte) : Bool := (fieldAt h 40 4).testBit 0
/-- The number of values of a coordinate, 1 where no field maps to it. -/
def hdrExtent (h : List Byte) (m : Nat) : Nat := ((hdrMapped h m).map (hdrCount h)).foldl (· * ·) 1
/-- Tasks at each home core. -/
def hdrPerHome (h : List Byte) : Nat := hdrExtent h 0
/-- v_f(w). -/
def hdrValue (h : List Byte) (w f : Nat) : Nat := (w / 2 ^ hdrOff h f) % 2 ^ hdrWidth h f

/-- Whether the layout rules of Table 10-3 and the field rules of R260 hold. -/
def hdrLayoutOk (h : List Byte) : Bool :=
  let nf := hdrFields h
  let z := fun o n => decide (fieldAt h o n = 0)
  decide (1 ≤ nf ∧ nf ≤ 6) && decide (fieldAt h 19 1 < 4) &&
  ((List.range 6).all fun f => if f < nf then decide (1 ≤ hdrWidth h f ∧ hdrWidth h f ≤ 63) else decide (hdrWidth h f = 0)) &&
  decide (hdrOff h 6 ≤ 64) && decide (fieldAt h 26 2 < 2 ^ 12) && (hdrStg h || z 30 1) && z 31 1 && z 44 20 &&
  decide ((fieldAt h 40 4 / 2) % 2 ^ 21 = 0) && decide (fieldAt h 32 8 < 2 ^ hdrOff h 6) &&
  ([1, 2, 3].all fun m => decide ((hdrMapped h m).length ≤ 1)) && decide (hdrExtent h 3 ≤ 4)

/-- The first value of a coordinate of the homes: the partition's origin where a field maps to it, otherwise the
launching core's own (R261). -/
def hdrStart (h : List Byte) (m own origin : Nat) : Nat := if hdrMapped h m = [] then own else origin

/-- Whether a coordinate lies among the values that the homes take. -/
def hdrCovers (h : List Byte) (m own origin v : Nat) : Bool :=
  let a := hdrStart h m own origin
  decide (a ≤ v ∧ v < a + hdrExtent h m)

/-- Whether a header is legal for a partition, launched with the given own coordinates (R260, R321). -/
def State.hdrOk (s : State) (pid : Nat) (h : List Byte) (ox oy oseat : Nat) : Bool :=
  let p := s.part pid
  let sup := (s.partRegions pid).any fun rk =>
    let c := s.supCore pid rk
    hdrCovers h 1 ox (s.gx0 pid) (s.gxOf c) && hdrCovers h 2 oy (s.gy0 pid) (s.gyOf c) && hdrCovers h 3 oseat 0 (seatOf c)
  hdrLayoutOk h && decide (hdrExtent h 1 ≤ s.cols pid ∧ hdrExtent h 2 ≤ 4 * p.hr) && !sup &&
    decide (hdrRbase h + hdrPerHome h ≤ p.t)

/-- Whether a number is a work identifier of a launch: every field value below its count. -/
def hdrHasTask (h : List Byte) (w : Nat) : Bool :=
  decide (w < 2 ^ hdrOff h 6) && (List.range (hdrFields h)).all fun f => decide (hdrValue h w f < hdrCount h f)

/-- The home core of a task (R261). -/
def State.hdrHome (s : State) (pid : Nat) (h : List Byte) (ox oy oseat w : Nat) : Option Nat :=
  let v := fun m own origin => match hdrMapped h m with
    | f :: _ => origin + hdrValue h w f
    | [] => own
  s.coreAt pid (v 1 ox (s.gx0 pid)) (v 2 oy (s.gy0 pid)) (v 3 oseat 0)

/-- The work identifier of the t-th task in increasing order: field values in mixed radix, field 0 the lowest. -/
def hdrWork (h : List Byte) (t : Nat) : Nat :=
  ((List.range (hdrFields h)).foldl (fun (p : Nat × Nat) f => (p.1 + (p.2 % hdrCount h f) * 2 ^ hdrOff h f, p.2 / hdrCount h f)) (0, t)).1

/-- The number of tasks of a launch. -/
def hdrTasks (h : List Byte) : Nat := ((List.range (hdrFields h)).map (hdrCount h)).foldl (· * ·) 1

/-- The 64 bytes of a task's record (R262). -/
def recordBytes (h : List Byte) (wid : BitVec 64) (age : Nat) : List Byte :=
  let st := if fieldAt h 28 2 = 0 then recReady else recPending
  leBytes 8 wid.toNat ++ (h.take 18) ++ [BitVec.ofNat 8 (fieldAt h 19 1 * 16 + st), 0] ++ leBytes 2 (fieldAt h 28 2) ++ [0, 0] ++
  leBytes 8 age ++ List.replicate 5 (0 : Byte) ++ [BitVec.ofNat 8 (fieldAt h 30 1), if hdrStg h then 1 else 0] ++ List.replicate 17 (0 : Byte)

end Sys2Proof.Machine
end

