-- ==== Sys2Proof/Machine/QueueOps.lean ====
section
/-! DEFINITION. The `sq` triggers (Tables 11-4 and 10-10): queues (R284-R292), the ready queue (R265), launches
(R277) and dependencies (R264). `sq.done` is in Machine/Done.lean. -/

namespace Sys2Proof.Machine

/-! ## Queue operations at the owner (R287, R292) -/

/-- The answer of a queue operation, with the queue's indices after it. -/
def State.queueReply (s : State) (ck qual idx code : Nat) (v : BitVec 64) (mark : Bool) : Reply :=
  let q := s.queueAt ck qual idx
  { value := v, mark := mark, code := code, head := ((q.map Queue.head).getD 0).toNat, tail := ((q.map Queue.tail).getD 0).toNat, old := [], marks := [] }

/-- A push at the owner. -/
def State.pushAt (s : State) (ck qual idx : Nat) (v : BitVec 64) (mark : Bool) : Reply × State :=
  let r := s.qPush ck qual idx { val := v, mark := mark, task := none }
  (r.2.queueReply ck qual idx r.1 0 false, r.2)

/-- A pop or peek at the owner: a task element is adopted into the claimed record (code + 8). -/
def State.popAt (s : State) (ck qual idx : Nat) (take user : Bool) (claim : Option (Nat × Nat)) : Reply × State :=
  let r := (s.senseGroup (gkOf ck) 5).qPop ck qual idx take user
  match r.1, r.2.1 with
  | 0, some e =>
    match e.task, claim with
    | some (home, i), some (c, j) =>
      let s1 := r.2.2.adopt home i c j
      (s1.queueReply ck qual idx 8 (BitVec.ofNat 64 j) false, s1)
    | _, _ => (r.2.2.queueReply ck qual idx 0 e.val e.mark, r.2.2)
  | code, _ => (r.2.2.queueReply ck qual idx code 0 false, r.2.2)

/-- A pop is over: unless it has adopted a task, the record that it claimed is free again (R292). -/
def State.lapseFor (s : State) (ck : Nat) (claim : Option Nat) (r : Reply) : State := if 8 ≤ r.code then s else s.lapse ck claim

/-- The claim of a pop elsewhere that is over (R292). -/
def State.lapseOf (s : State) (op : RemoteOp) (r : Reply) : State :=
  match op with
  | .pop _ _ _ _ _ (some (c, j)) => s.lapseFor c (some j) r
  | _ => s

/-- KIND of `sq.st` (Table 11-5). -/
def replyKind (r : Reply) : Nat := if 8 ≤ r.code ∨ r.code = qTaskHead then 2 else if r.code = qOk then 1 else 0
/-- OCC of `sq.st`. -/
def replyOcc (r : Reply) : Nat := (r.tail + 2 ^ 32 - r.head) % 2 ^ 32

/-- What a queue operation writes (R287). DEDUCED (log 52): a push that is accepted leaves `sq.r` as it is. -/
def queueWrites (r : Reply) (push : Bool) : List Wr :=
  if push then (if r.code = qFull then [.latch .sqR (mk0 0 false)] else []) ++ [.sqSt (queueStatus r.code (replyOcc r) 0)]
  else [.latch .sqR (mk0 r.value r.mark), .sqSt (queueStatus (r.code % 8) (replyOcc r) (replyKind r))]

/-! ## Checks at issue (R284, R285, R292) -/

/-- The core, the qualifier and the index of a queue handle, if it names a queue of the partition. -/
def State.queueHandle (s : State) (pid : Nat) (a : Reg80) : Option (Nat × Nat × Nat) :=
  if classOf a = 5 ∧ offOf a < 2 ^ 35 then
    match s.coreOfBits pid (offOf a) with
    | none => none
    | some ck =>
      let i := offOf a % 2 ^ 20
      if qualOf a = 1 ∧ i < 16 then some (ck, 1, i)
      else if qualOf a = 3 ∧ (s.queueAt ck 3 i).isSome then some (ck, 3, i)
      else none
  else none

/-- The checks of a queue operation's handle. -/
def queueGate (s : State) (h : Reg) (push : Bool) (k : Nat → Nat → Nat → State → State) : State :=
  if h.p then s.faultPoison h.v
  else match s.queueHandle (pidOf s.myCk) h.v with
  | none => s.faultAddr causeQueue h.v
  | some (ck, q, i) =>
    if push then if q = 1 ∧ i = 15 ∧ s.mode s.cur ≠ .supervisor then s.faultAddr causePrivilege h.v else k ck q i s
    else if q = 1 ∧ ck ≠ s.myCk then s.faultAddr causeQueue h.v
    else k ck q i s

/-- Whether an earlier, rolled-back issue of a waiting pop has claimed a record for this strand. -/
def Strand.ownClaim (x : Strand) (ck j : Nat) : Bool :=
  (x.tryReply.toList.map Prod.fst ++ x.reqs.map fun q => q.msg.op).any fun op => match op with
    | .pop _ _ _ _ _ (some (c, i)) => c == ck && i == j
    | _ => false

/-- The record that a pop of a stage queue by a kernel or supervisor strand claims at issue (R292). -/
def claimGate (s : State) (qual : Nat) (k : Option Nat → State → State) : State :=
  if qual = 1 ∨ s.mode s.cur = .user then k none s
  else
    let d := s.ctx.latch .sqD
    let j := d.val.toNat
    if s.me.ownClaim s.myCk j then k (some j) s
    else if (s.partOf s.myCk).t ≤ j ∨ !s.recOpen s.myCk j then s.faultAddr causeTask d.v
    else k (some j) (s.updCore s.myCk fun c => { c with claims := c.claims ++ [j] })

/-- The latches that every `sq` trigger consumes (R286). -/
def sqLatches : List Latch := [.sqD, .sqH]

/-- A result that is known at issue, in flight under a window. -/
def State.sqLocal (s : State) (la : BitVec 4) (port : Bool) (ws : List Wr) : State :=
  ((s.asEffect.launchVar .sq la .none 0 0 port false ws).consumeAll sqLatches).push (.variableResultLand s.cur s.me.seq)

/-! ## push, pop, peek (R287) -/

/-- The owner of a queue. -/
def State.queueOwner (s : State) (ck qual idx : Nat) : Owner := .group (gkOf (s.queueHome ck qual idx))
/-- Whether a queue lives at the executing strand's own core. -/
def State.queueLocal (s : State) (ck qual idx : Nat) : Bool := decide (s.queueHome ck qual idx = s.myCk)

/-- What a request to a queue elsewhere needs before anything is claimed for it. -/
def nearGate (s : State) (ck qual idx : Nat) (k : State → State) : State := if s.queueLocal ck qual idx then k s else remoteGate s k

/-- A push that is not deferred, with its value. -/
def pushIssue (s : State) (la : BitVec 4) (ck qual idx : Nat) (d : Reg) : State :=
  if s.queueLocal ck qual idx then
    let r := s.pushAt ck qual idx d.val d.p
    r.2.sqLocal la true (queueWrites r.1 true)
  else (s.remoteOp .sq la .remote true (s.queueOwner ck qual idx) fun _ => .push ck qual idx d.val d.p).consumeAll sqLatches

/-- SQ_PUSH (R287). -/
def execSqPush (h : Hdr) (la : BitVec 4) (c : CSrc) (s : State) : Res :=
  .next (guarded h s fun s => readC s c fun a s => effectGate s fun s => queueGate s a true fun ck q i s =>
    deferGate s a [] sqLatches fun s => windowGate s 2 fun s => pushIssue s la ck q i (s.ctx.latch .sqD))

/-- `sq.pop` and `sq.peek`. -/
def popTrigger (h : Hdr) (la : BitVec 4) (take : Bool) (c : CSrc) (s : State) : State :=
  guarded h s fun s => readC s c fun a s => effectGate s fun s => conflictGate s a.v fun s => queueGate s a false fun ck q i s =>
    windowGate s 2 fun s => nearGate s ck q i fun s => claimGate s q fun j s =>
      let user := decide (s.mode s.cur = .user)
      let claim := j.map fun j => (s.myCk, j)
      if s.queueLocal ck q i then
        let r := s.popAt ck q i take user claim
        (r.2.lapseFor s.myCk j r.1).sqLocal la true (queueWrites r.1 false)
      else (s.remoteOp .sq la .remote true (s.queueOwner ck q i) fun _ => .pop ck q i take user claim).consumeAll sqLatches

/-- SQ_POP (R287). -/
def execSqPop (h : Hdr) (la : BitVec 4) (c : CSrc) (s : State) : Res := .next (popTrigger h la true c s)
/-- SQ_PEEK (R287). -/
def execSqPeek (h : Hdr) (la : BitVec 4) (c : CSrc) (s : State) : Res := .next (popTrigger h la false c s)

/-! ## popw, pushw (R288) -/

/-- The operation of one try. -/
def tryOp (ck qual idx : Nat) (push : Bool) (v : BitVec 64) (mark user : Bool) (claim : Option (Nat × Nat)) : RemoteOp :=
  if push then .push ck qual idx v mark else .pop ck qual idx true user claim

/-- The request of an earlier, rolled-back issue of the same try that is still outstanding. -/
def Strand.orphan (x : Strand) (op : RemoteOp) : Option Req :=
  x.reqs.find? fun q => decide (q.msg.op = op) && (x.flight q.seq).isNone

/-- The newest result in flight takes on the number of a request that is already outstanding. -/
def Strand.adoptReq (x : Strand) (old : Nat) : Strand :=
  let n := x.seq - 1
  { x with
    effect := some old,
    ctx := { x.ctx with flights := x.ctx.flights.map fun f => if f.seq = n then { f with seq := old } else f } }

/-- Strands waiting on a queue, with a new one behind them. -/
def State.joinWaiters (s : State) (ck qual idx sid : Nat) : State :=
  match s.queueAt ck qual idx with
  | some q => s.putQueue ck qual idx { q with waiters := (q.waiters.filter fun w => w != sid) ++ [sid] }
  | none => s
/-- A strand no longer waits on a queue. -/
def State.leaveWaiters (s : State) (ck qual idx sid : Nat) : State :=
  match s.queueAt ck qual idx with
  | some q => if q.waiters.contains sid then s.putQueue ck qual idx { q with waiters := q.waiters.filter fun w => w != sid } else s
  | none => s

/-- `sq.popw` and `sq.pushw`: a local queue is waited on, a remote one is tried again and again. -/
def queueWait (h : Hdr) (la : BitVec 4) (push : Bool) (n : BitVec 10) (s : State) : State :=
  guarded h s fun s => effectGate s fun s =>
    let hd := s.ctx.latch .sqH
    conflictGate s hd.v fun s => queueGate s hd push fun ck q i s => windowGate s (if push then 1 else 2) fun s => nearGate s ck q i fun s =>
      (if push then fun k => k none s else claimGate s q) fun j s =>
        let d := s.ctx.latch .sqD
        let user := decide (s.mode s.cur = .user)
        let lim := if n = 0 then s.me.ceiling else min (n.toNat * 256) s.me.ceiling
        let seq := s.me.seq
        let wait := fun (s : State) =>
          (s.asWaiting.launchVar .sq la (.queue push hd.v d.val d.p user j) lim 12 true false []).consumeAll sqLatches
        if s.queueLocal ck q i then ((wait s).joinWaiters ck q i s.cur).push (.variableResultLand s.cur seq)
        else
          let op := tryOp ck q i push d.val d.p user (j.map fun j => (s.myCk, j))
          match s.me.tryReply, s.me.orphan op with
          | some (o, r), _ =>
            if o = op then (((wait s).updMe fun x => { x with tryReply := none }).arrive s.cur seq (queueWrites r push))
            else (wait s).sendRemote s.cur (s.queueOwner ck q i) op seq s.ctx.pc s.second
          | none, some old => (wait s).updMe fun x => x.adoptReq old.seq
          | none, none =>
            ((wait s).updMe fun x => { x with queueSeen := (0, 0) }).sendRemote s.cur (s.queueOwner ck q i) op seq s.ctx.pc s.second

/-- SQ_POPW (R288). -/
def execSqPopw (h : Hdr) (la : BitVec 4) (n : BitVec 10) (s : State) : Res := .next (queueWait h la false n s)
/-- SQ_PUSHW (R288). -/
def execSqPushw (h : Hdr) (la : BitVec 4) (n : BitVec 10) (s : State) : Res := .next (queueWait h la true n s)

/-- The first strand in a list of waiters that waits to push, or to pop. -/
def State.firstWaiter (s : State) (ws : List Nat) (push : Bool) : Option Nat :=
  ws.find? fun sid => (s.strand sid).ctx.flights.any fun f => !f.arrived && (match f.pend with | .queue p .. => p == push | _ => false)

/-- A local try of a waiting strand: its turn is after that of older waiters (R288). -/
def State.tryQueue (s : State) (sid : Nat) (f : Flight) : State :=
  match f.pend with
  | .queue push h v mark user claim =>
    match s.queueHandle (pidOf (ckOf sid)) h with
    | some (ck, q, i) =>
      if s.queueHome ck q i ≠ ckOf sid then s
      else if s.firstWaiter (((s.queueAt ck q i).map Queue.waiters).getD []) push ≠ some sid then s
      else if push then
        let r := s.pushAt ck q i v mark
        if r.1.code = qOk then (r.2.leaveWaiters ck q i sid).arrive sid f.seq (queueWrites r.1 true) else s
      else
        let r := s.popAt ck q i true user (claim.map fun j => (ckOf sid, j))
        if r.1.code = qEmpty then s else ((r.2.leaveWaiters ck q i sid).lapseFor (ckOf sid) claim r.1).arrive sid f.seq (queueWrites r.1 false)
    | none => s
  | _ => s

/-! ## The ready queue (R265) -/

/-- SQ_RQPUSH (R265). -/
def execSqRqpush (h : Hdr) (la : BitVec 4) (n : Fin 4) (c : CSrc) (s : State) : Res :=
  .next (guarded h s fun s => needKernel s fun s => readC s c fun a s => effectGate s fun s =>
    let i := a.val.toNat
    let st := s.recState s.myCk i
    if a.p then s.faultPoison a.v
    else if (s.partOf s.myCk).t ≤ i ∨ ¬(st = recSaved ∨ st = recReady) ∨ (s.core s.myCk).rqHas i then s.faultAddr causeTask a.v
    else (((s.setRec s.myCk i 26 1 (n.val * 16 + recReady)).rqPush s.myCk i n.val).sqLocal la false []))

/-- The word that `sq.rqpop` delivers. -/
def rqWord (x : Option (Nat × Nat)) : BitVec 64 :=
  match x with
  | some (p, i) => BitVec.ofNat 64 (p * 2 ^ 16 + i)
  | none => BitVec.ofNat 64 (2 ^ 63)

/-- SQ_RQPOP (R265); a drained core finds its queue empty (R386). -/
def execSqRqpop (h : Hdr) (la : BitVec 4) (s : State) : Res :=
  .next (guarded h s fun s => needKernel s fun s => effectGate s fun s => windowGate s 1 fun s =>
    let c := s.core s.myCk
    let x := if c.drained then none else c.rqNext
    let s1 := match x with
      | some (p, _) => (s.updCore s.myCk fun c => c.rqDrop p).pokePool (gkOf s.myCk)
      | none => s
    s1.sqLocal la true [.latch .sqR (mk0 (rqWord x) false)])

/-- SQ_RQPRIO (R265). -/
def execSqRqprio (h : Hdr) (la : BitVec 4) (c : CSrc) (s : State) : Res :=
  .next (guarded h s fun s => needKernel s fun s => readC s c fun a s => effectGate s fun s =>
    let i := a.val.toNat
    let d := s.ctx.latch .sqD
    if a.p then s.faultPoison a.v
    else if (s.partOf s.myCk).t ≤ i then s.faultAddr causeTask a.v
    else if 4 ≤ d.val.toNat then s.faultAddr causeTask d.v
    else
      let s1 := s.setRecPrio s.myCk i d.val.toNat
      let s2 := if (s1.core s1.myCk).rqHas i then s1.updCore s1.myCk fun c => c.rqMove i d.val.toNat else s1
      s2.sqLocal la false [])

/-! ## spawn (R260, R277) -/

/-- A spawn that is not deferred: a message to the distributor of the strand's region, whose answers the group of
the supervisor core keeps. -/
def spawnIssue (s : State) (la : BitVec 4) (hdr : List Byte) : State :=
  let w := Owner.group (gkOf (s.supCore (pidOf s.myCk) (s.rkOf s.myCk)))
  (s.remoteOp .sq la .remote true w fun _ => .spawn hdr s.myCk).consumeAll sqLatches

/-- The header that a spawn reads at issue, checked. -/
def spawnHeader (s : State) (a : Reg) (k : List Byte → State → State) : State :=
  if !a.p && decide (¬(classOf a.v = 0 ∨ (classOf a.v = 1 ∧ qualOf a.v = 0) ∨ classOf a.v = 2 ∨ classOf a.v = 3)) then s.faultAddr causeWindow a.v
  else accessWith s a 64 64 false false false fun acc s =>
    match acc with
    | .mem ps =>
      let r := s.readPieces ps
      if r.2.1 then s.faultPoison a.v
      else if s.hdrOk (pidOf s.myCk) r.1 (s.gxOf s.myCk) (s.gyOf s.myCk) (seatOf s.myCk) then k r.1 r.2.2
      else s.faultAddr causeLaunch a.v
    | .late c => s.faultAddr c a.v
    | _ => s.faultAddr causeWindow a.v

/-- SQ_SPAWN (R277). -/
def execSqSpawn (h : Hdr) (la : BitVec 4) (c : CSrc) (s : State) : Res :=
  .next (guarded h s fun s => readC s c fun a s => effectGate s fun s => spawnHeader s a fun hdr s =>
    deferGate s a [] sqLatches fun s => windowGate s 1 fun s => spawnIssue s la hdr)

/-! ## dec (R264) -/

/-- A request to the strand's own core, which carries no identity (R225, R264). -/
def State.sendLocal (s : State) (sid : Nat) (op : RemoteOp) (seq : Nat) (fpc : BitVec 64) (second : Bool) : State :=
  let m : Msg := { origin := .strand sid, seq := seq, tok := 0, sn := 0, floor := 0, owner := .group (gkOf (ckOf sid)), op := op }
  (s.updStrand sid fun x => { x with reqs := x.reqs ++ [{ seq := seq, msg := m, sends := 1, last := s.now, busySince := none, fpc := fpc, second := second }] }).push (.remoteEffectMessage m)

/-- The core and the record that a task handle names (R264). -/
def State.taskHandle (s : State) (pid : Nat) (a : Reg80) : Option (Nat × Nat) :=
  let off := offOf a
  if classOf a = 1 ∧ qualOf a = 0 ∧ off < 2 ^ 35 ∧ off % 64 = 0 ∧ off % 2 ^ 20 < 64 * (s.part pid).t then
    (s.coreOfBits pid off).map fun ck => (ck, off % 2 ^ 20 / 64)
  else none

/-- A decrement that is not deferred. -/
def decIssue (s : State) (la : BitVec 4) (ck i : Nat) : State :=
  if ck = s.myCk then
    ((s.asEffect.launchVar .sq la .remote 0 0 false false []).sendLocal s.cur (.dec ck i) s.me.seq s.ctx.pc s.second).consumeAll sqLatches
  else (s.remoteOp .sq la .remote false (.group (gkOf ck)) fun _ => .dec ck i).consumeAll sqLatches

/-- SQ_DEC (R264). -/
def execSqDec (h : Hdr) (la : BitVec 4) (c : CSrc) (s : State) : Res :=
  .next (guarded h s fun s => readC s c fun a s => effectGate s fun s =>
    if a.p then s.faultPoison a.v
    else match s.taskHandle (pidOf s.myCk) a.v with
    | none => s.faultAddr causeTask a.v
    | some (ck, i) => deferGate s a [] sqLatches fun s => decIssue s la ck i)

/-- MOV_SQ_D (R286). -/
def execMovSqD (h : Hdr) (c : CSrc) (s : State) : Res := .next (guarded h s fun s => readC s c fun r s => s.write (.latch .sqD r))
/-- MOV_SQ_H (R286). -/
def execMovSqH (h : Hdr) (c : CSrc) (s : State) : Res := .next (guarded h s fun s => readC s c fun r s => s.write (.latch .sqH r))

end Sys2Proof.Machine
end

