-- ==== Sys2Proof/Machine/Sync.lean ====
section
/-! DEFINITION. The `sy` triggers (Table 10-10): named barriers (R271-R273), monitors (R274, R275) and the group
barrier (R276). -/

namespace Sys2Proof.Machine

/-- The latches that every `sy` trigger consumes (R277). -/
def syLatches : List Latch := [.syA, .syB, .syL]

/-- A result that is known at issue, in flight under a window. -/
def State.syLocal (s : State) (la : BitVec 4) (port : Bool) (ws : List Wr) : State :=
  ((s.asEffect.launchVar .sy la .none 0 0 port false ws).consumeAll syLatches).push (.variableResultLand s.cur s.me.seq)

/-! ## Named barriers -/

/-- The core and the barrier that a handle names, if it is one of the partition's (R271). -/
def State.barrierHandle (s : State) (pid : Nat) (a : Reg80) : Option (Nat × Nat) :=
  if classOf a = 5 ∧ qualOf a = 0 ∧ offOf a < 2 ^ 35 ∧ offOf a % 2 ^ 20 < 512 then
    (s.coreOfBits pid (offOf a)).map fun ck => (ck, offOf a % 2 ^ 20)
  else none

/-- The checks of a barrier handle: `own` says that the barrier must be the issuing core's. -/
def barrierGate (s : State) (a : Reg) (own : Bool) (k : Nat → Nat → State → State) : State :=
  if a.p then s.faultPoison a.v
  else match s.barrierHandle (pidOf s.myCk) a.v with
  | none => s.faultAddr causeBarrier a.v
  | some (ck, i) => if own ∧ ck ≠ s.myCk then s.faultAddr causeBarrier a.v else k ck i s

/-- A barrier armed with the word of `sy.a` (R272). -/
def Barrier.arm (b : Barrier) (w : BitVec 64) : Barrier :=
  { b with expA := BitVec.ofNat 16 w.toNat, expB := BitVec.ofNat 32 (bitsAt w 47 16), auto := w.getLsbD 48, arrA := 0, arrB := 0, cause := 0, st := .armed }

/-- Whether `binit` may arm a barrier with a word. -/
def Barrier.mayArm (b : Barrier) (w : BitVec 64) : Bool :=
  !(decide (b.st = .armed) && decide (b.arrA ≠ 0 ∨ b.arrB ≠ 0)) && decide (bitsAt w 47 0 ≠ 0 ∧ bitsAt w 63 49 = 0)

/-- A barrier that `inval` has reset (R272). -/
def Barrier.inval (b : Barrier) : Barrier := { b with st := .uninit, arrA := 0, arrB := 0, cause := 0 }

/-- Whether a wait on phase `p` is over (R273). -/
def Barrier.released (b : Barrier) (p : Bool) : Bool := b.phase != p || decide (b.st = .poison)

/-- What a wait or test on phase `p` writes: p1 and the status word (R273). -/
def Barrier.waitWrites (b : Barrier) (p : Bool) : List Wr :=
  [.pbit 1 (b.phase != p && !decide (b.st = .poison)), .latch .syR (mk0 b.status false)]

/-- SY_BINIT (R272). -/
def execSyBinit (h : Hdr) (la : BitVec 4) (c : CSrc) (s : State) : Res :=
  .next (guarded h s fun s => readC s c fun a s => effectGate s fun s => barrierGate s a true fun ck i s =>
    let w := (s.ctx.latch .syA).val
    let b := s.barrier ck i
    if b.mayArm w then (s.putBarrier ck i (b.arm w)).syLocal la false [] else s.faultAddr causeBarrier a.v)

/-- An arrival that is not deferred: counted at once at the strand's own core, a message otherwise (R272). -/
def arriveIssue (s : State) (la : BitVec 4) (ck i : Nat) (n : Option Nat) : State :=
  if ck = s.myCk then
    let s1 := s.countBarrier ck i 1 (n.getD 0)
    s1.syLocal la true [.latch .syR (mk0 (s1.barrier ck i).status false)]
  else (s.remoteOp .sy la .remote true (.group (gkOf ck)) fun _ => .arrive ck i n).consumeAll syLatches

/-- `sy.arrive` and `sy.arrivb`: a task holding a set defers only an arrival elsewhere (R300). -/
def arriveTrigger (h : Hdr) (la : BitVec 4) (bytes : Bool) (c : CSrc) (s : State) : State :=
  guarded h s fun s => readC s c fun a s => effectGate s fun s => barrierGate s a false fun ck i s =>
    let n := (s.ctx.latch .syB).val.toNat
    if bytes ∧ 2 ^ 32 ≤ n then s.faultAddr causeBarrier a.v
    else
      let b := if bytes then some n else none
      if ck = s.myCk then windowGate s 1 fun s => arriveIssue s la ck i b
      else deferGate s a [] syLatches fun s => windowGate s 1 fun s => arriveIssue s la ck i b

/-- SY_ARRIVE (R272). -/
def execSyArrive (h : Hdr) (la : BitVec 4) (c : CSrc) (s : State) : Res := .next (arriveTrigger h la false c s)
/-- SY_ARRIVB (R272). -/
def execSyArrivb (h : Hdr) (la : BitVec 4) (c : CSrc) (s : State) : Res := .next (arriveTrigger h la true c s)

/-- P, the phase that `sy.b` names: its other bits must be zero (R273). -/
def phaseGate (s : State) (a : Reg) (k : Bool → State → State) : State :=
  let b := (s.ctx.latch .syB).val
  if 2 ≤ b.toNat then s.faultAddr causeBarrier a.v else k (b.getLsbD 0) s

/-- The bound that `sy.l` gives, with the value it held (R257). -/
def State.syBound (s : State) : Nat :=
  let l := (s.ctx.latch .syL).val.toNat
  if l = 0 then s.me.ceiling else min (l * 256) s.me.ceiling

/-- SY_WAIT (R273). -/
def execSyWait (h : Hdr) (la : BitVec 4) (c : CSrc) (s : State) : Res :=
  .next (guarded h s fun s => readC s c fun a s => effectGate s fun s => conflictGate s a.v fun s => barrierGate s a true fun _ i s =>
    phaseGate s a fun p s => windowGate s 1 fun s =>
      ((s.asWaiting.launchVar .sy la (.barrier a.v i p) s.syBound 9 true false []).consumeAll syLatches).push (.variableResultLand s.cur s.me.seq))

/-- SY_TEST (R273). -/
def execSyTest (h : Hdr) (la : BitVec 4) (c : CSrc) (s : State) : Res :=
  .next (guarded h s fun s => readC s c fun a s => effectGate s fun s => barrierGate s a true fun ck i s =>
    phaseGate s a fun p s => windowGate s 1 fun s => s.syLocal la true ((s.barrier ck i).waitWrites p))

/-- SY_INVAL (R272). -/
def execSyInval (h : Hdr) (la : BitVec 4) (c : CSrc) (s : State) : Res :=
  .next (guarded h s fun s => readC s c fun a s => effectGate s fun s => barrierGate s a true fun ck i s =>
    (s.putBarrier ck i (s.barrier ck i).inval).syLocal la false [])

/-- A waiting strand looks at its barrier (R273). -/
def State.tryBarrier (s : State) (sid : Nat) (f : Flight) : State :=
  match f.pend with
  | .barrier _ i p =>
    let b := s.barrier (ckOf sid) i
    if b.released p then s.arrive sid f.seq (b.waitWrites p) else s
  | _ => s

/-! ## Monitors -/

/-- SY_MON (R274). -/
def execSyMon (h : Hdr) (la : BitVec 4) (n : Fin 4) (c : CSrc) (s : State) : Res :=
  .next (guarded h s fun s => readC s c fun a s => effectGate s fun s =>
    let cls := classOf a.v
    if a.p then s.faultPoison a.v
    else if ¬((cls = 0 ∨ cls = 1 ∨ cls = 2 ∨ cls = 3) ∧ qualOf a.v = 0) then s.faultAddr causeWindow a.v
    else match s.checkAccess s.myCk (s.mode s.cur) a.v 1 1 with
    | .bad c => s.faultAddr c a.v
    | .ok p =>
      match s.resolve s.myCk 1 false p with
      | (.mem ((f, _) :: _), s1) =>
        (s1.updMe fun x => { x with mons := x.mons.set n { line := lineOf f, ptr := a.v, armed := true, fired := false } }).syLocal la false []
      | (.late c, s1) => (s1.lateFault .sy la a.v c).consumeAll syLatches
      | (_, s1) => s1.faultAddr causeWindow a.v)

/-- SY_UNMON (R274). -/
def execSyUnmon (h : Hdr) (la : BitVec 4) (mk : BitVec 4) (s : State) : Res :=
  .next (guarded h s fun s => effectGate s fun s =>
    (s.updMe fun x => { x with mons := x.mons.mapIdx fun j m => if mk.getLsbD j then Monitor.off else m }).syLocal la false [])

/-- The slots that have fired, as a mask. -/
def Strand.firedMask (x : Strand) : Nat := flagBits (x.mons.toList.map fun m => m.armed && m.fired)

/-- The wake word of `sy.mwait` (Table 10-9); `bound` says that the bound of `sy.l` has expired. -/
def State.wakeWord (s : State) (sid : Nat) (bound : Bool) : Nat :=
  let x := s.strand sid
  let c := s.core (ckOf sid)
  let k := decide (strandNo sid = 0)
  let ev := if k then c.done.toNat * 2 ^ 48 + c.yld.toNat * 2 ^ 32 + c.hlt.toNat * 2 ^ 16 else 0
  let fired := x.firedMask
  ev + fired * 2 ^ 8 + flagBits [decide (fired ≠ 0), bound, x.alarm.getLsbD 63, x.sgoWake, k && (decide (ev ≠ 0) || c.rqPushed)]

/-- The reported causes are cleared; the slots stay armed (R275, R309). -/
def State.clearWake (s : State) (sid : Nat) : State :=
  let s1 := s.updStrand sid fun x =>
    { x with mons := x.mons.map fun m => { m with fired := false }, alarm := x.alarm &&& BitVec.ofNat 64 (2 ^ 63 - 1), sgoWake := false }
  if strandNo sid = 0 then s1.updCore (ckOf sid) fun c => { c with done := 0, yld := 0, hlt := 0, rqPushed := false } else s1

/-- A strand in `sy.mwait` wakes if a cause is there (R275). -/
def State.tryMonitor (s : State) (sid : Nat) (f : Flight) (bound : Bool) : State :=
  let w := s.wakeWord sid bound
  if w % 32 = 0 then s else (s.clearWake sid).arrive sid f.seq [.latch .syR (mk0 (BitVec.ofNat 64 w) false)]

/-- SY_MWAIT (R275). -/
def execSyMwait (h : Hdr) (la : BitVec 4) (s : State) : Res :=
  .next (guarded h s fun s => effectGate s fun s => conflictGate s 0 fun s => windowGate s 1 fun s =>
    let l := (s.ctx.latch .syL).val.toNat
    let s1 := (s.asWaiting.launchVar .sy la .monitor s.syBound 10 true false []).consumeAll syLatches
    (s1.updMe fun x => { x with syl := l }).push (.variableResultLand s.cur s.me.seq))

/-! ## The group barrier -/

/-- The participants of a group barrier that wait for it, each with the number of its result. -/
def State.gbarFlights (s : State) (sids : List Nat) : List (Nat × Nat) :=
  sids.filterMap fun sid =>
    ((s.strand sid).ctx.flights.find? fun f => !f.arrived && (match f.pend with | .gbar => true | _ => false)).map fun f => (sid, f.seq)

/-- SY_GBAR (R276). -/
def execSyGbar (h : Hdr) (la : BitVec 4) (s : State) : Res :=
  .next (guarded h s fun s => effectGate s fun s => conflictGate s 0 fun s =>
    let gk := gkOf s.myCk
    let n := strandNo s.cur
    let joined := insertNat (((s.group gk).data.gbar.find n).getD []) s.cur
    let s1 := (s.asWaiting.launchVar .sy la .gbar s.me.ceiling 11 false false []).consumeAll syLatches
    if joined.length = 4 then
      (s1.gbarFlights joined).foldl (fun s p => s.arrive p.1 p.2 []) (s1.updData gk fun g => { g with gbar := Store.del g.gbar n })
    else s1.updData gk fun g => { g with gbar := Store.put g.gbar n joined })

/-- MOV_SY_A (R277). -/
def execMovSyA (h : Hdr) (c : CSrc) (s : State) : Res := .next (guarded h s fun s => readC s c fun r s => s.write (.latch .syA r))
/-- MOV_SY_B (R277). -/
def execMovSyB (h : Hdr) (c : CSrc) (s : State) : Res := .next (guarded h s fun s => readC s c fun r s => s.write (.latch .syB r))
/-- MOV_SY_L (R277). -/
def execMovSyL (h : Hdr) (c : CSrc) (s : State) : Res := .next (guarded h s fun s => readC s c fun r s => s.write (.latch .syL r))

end Sys2Proof.Machine
end

