-- ==== Sys2Proof/Machine/System.lean ====
section
/-! DEFINITION. The system window (R326, Table 13-4): what each of its words names, reads as, may be given and
becomes. The layouts of the lease word, of a slot's kind and poison word and of a lock-table entry are this
model's own (log 23). -/

namespace Sys2Proof.Machine

/-! ## The fused grade record (R19) -/

/-- A region entry of the fused record where none is given: every group and position live, each birth count
40,000, no first replacement (log 1). -/
def fusedDefault : List Byte :=
  leBytes 8 (2 ^ 36 - 1) ++ leBytes 24 (2 ^ 180 - 1) ++ ((List.range 36).flatMap fun _ => leBytes 2 40000) ++ leBytes 24 (2 ^ 192 - 1)
/-- The region entry of the fused record (Table 1-4). -/
def State.fusedOf (s : State) (rk : Nat) : List Byte := s.fused.getD rk fusedDefault

/-! ## Names of the words -/

/-- A word of the system window. -/
inductive SysRef where
  | image (sid byte : Nat)
  | dbgCtl (sid : Nat)
  | dbgStat (sid : Nat)
  | qctl (ck q : Nat)
  | qidx (ck q : Nat)
  | bar (ck i : Nat) (hi : Bool)
  | ectl (u : ErrUnit)
  | estat (u : ErrUnit)
  | wd (place : Nat)
  | filter (u : ErrUnit) (k : Nat)
  | cells (gk t n : Nat)
  | kind (gk t : Nat)
  | buf (gk : Nat) (b : Bool) (n : Nat)
  | lease (gk : Nat)
  | lock (gk e w : Nat)
  | stage (rk n : Nat)
  | clock (rk : Nat)
  | latency (rk : Nat)
  | ring (rk : Nat)
  | bcmd (rk : Nat)
  | bstat (rk : Nat)
  | rep (off : Nat)
  deriving DecidableEq, Repr

/-- The word at an offset of the core-object space. -/
def coreWord (ck place b : Nat) : Option SysRef :=
  if b < 0x120 then some (if b % 16 = 0 then .qctl ck (b / 16) else .qidx ck (b / 16))
  else if 0x10000 ≤ b ∧ b < 0x12000 then some (.bar ck ((b - 0x10000) / 16) (decide (b % 16 = 8)))
  else if b = 0x20000 then some (.ectl (.core place))
  else if b = 0x20008 then some (.estat (.core place))
  else if b = 0x20010 then some (.wd place)
  else if 0x20100 ≤ b ∧ b < 0x20200 then some (.filter (.core place) ((b - 0x20100) / 8))
  else none

/-- The word at an offset of the group array and lock space. -/
def groupWord (gk place b : Nat) : Option SysRef :=
  if b < 0x80000 then
    if b % 0x8000 ≤ 0x4200 then some (.cells gk (b / 0x8000) ((b % 0x8000) / 4))
    else if b % 0x8000 = 0x4400 then some (.kind gk (b / 0x8000))
    else none
  else if b < 0x82000 then some (.buf gk false ((b - 0x80000) / 8))
  else if b < 0x84000 then some (.buf gk true ((b - 0x82000) / 8))
  else if b = 0x84000 then some (.lease gk)
  else if 0xC0000 ≤ b ∧ b < 0xC4000 then some (.lock gk ((b - 0xC0000) / 32) ((b - 0xC0000) % 32 / 8))
  else if b = 0xE0000 then some (.ectl (.group place))
  else if b = 0xE0008 then some (.estat (.group place))
  else if 0xE0100 ≤ b ∧ b < 0xE0200 then some (.filter (.group place) ((b - 0xE0100) / 8))
  else none

/-- The word at an offset of the region space. -/
def regionWord (rk b : Nat) : Option SysRef :=
  if b < 0x800 then some (.stage rk (b / 8))
  else if b = 0x800 then some (.clock rk)
  else if b = 0x808 then some (.latency rk)
  else if b = 0x810 then some (.ring rk)
  else if b = 0x900 then some (.bcmd rk)
  else if b = 0x908 then some (.bstat rk)
  else none

/-- The word that a qualifier and an aligned offset name, if it is one of the partition's. -/
def State.sysRef (s : State) (pid qq off : Nat) : Option SysRef :=
  let b := off % 2 ^ 20
  match qq with
  | 0 => match s.coreOfBits pid off with
    | some ck =>
      let sid := sidOf ck (b / 2 ^ 16)
      if b % 2 ^ 16 < 0x2000 then some (.image sid (b % 2 ^ 16))
      else if b % 2 ^ 16 = 0x2000 then some (.dbgCtl sid)
      else if b % 2 ^ 16 = 0x2008 then some (.dbgStat sid)
      else none
    | none => none
  | 1 => match s.coreOfBits pid off with
    | some ck => coreWord ck (s.core ck).physPlace b
    | none => none
  | 2 => match s.coreOfBits pid off with
    | some ck => groupWord (gkOf ck) (s.groupKey (gkOf ck)) b
    | none => none
  | 3 => if off / 2 ^ 20 ∈ s.partRegions pid then regionWord (off / 2 ^ 20) b else none
  | _ => some (.rep off)

/-! ## Error words (R356, R364) -/

/-- The error words of a unit. -/
def State.errOf (s : State) (u : ErrUnit) : ErrWords := (s.unit (unitKey u)).err
/-- Change the error words of a unit. -/
def State.updErr (s : State) (u : ErrUnit) (f : ErrWords → ErrWords) : State := s.updUnit (unitKey u) fun x => { x with err := f x.err }
/-- The number of bits that are set. -/
def onesOf {n : Nat} (b : BitVec n) : Nat := ((List.range n).filter fun i => b.getLsbD i).length
/-- The status word of Table 14-5. -/
def ErrWords.status (e : ErrWords) : BitVec 64 :=
  BitVec.ofNat 64 (e.unc * 2 ^ 48 + e.rep * 2 ^ 32 + e.scat * 2 ^ 16 + min 0xFFF (onesOf e.filter))

/-! ## Queues of a core by number (Table 13-4) -/

/-- MIN, CAP, USED, HEAD and TAIL of queue `q` of a core: inboxes 0-15, the ready queue 16, the reduction
inbox 17. -/
def State.coreQueue (s : State) (ck q : Nat) : Nat × Nat × Nat × BitVec 32 × BitVec 32 :=
  let c := s.core ck
  if q = 16 then (s.rqMin ck, s.rqMin ck, c.rqUsed, c.rqHead, c.rqTail)
  else if q = 17 then (c.redMin, c.redCap, c.redUsed, c.redHead, c.redTail)
  else
    let i := c.inboxQ q
    (i.min, i.cap, i.used, i.head, i.tail)

/-! ## Reads -/

/-- Code of a slot's kind. -/
def SlotKind.code : SlotKind → Nat
  | .n => 0
  | .f => 1
  | .i => 2
/-- The stage control word (Table 11-6). -/
def Stage.word (st : Stage) : BitVec 64 :=
  BitVec.ofNat 64 (st.home * 2 ^ 57 + (if st.en then 2 ^ 56 else 0) + st.maxc * 2 ^ 48 + st.minc * 2 ^ 40 + st.hi * 2 ^ 24 +
    st.lo * 2 ^ 8 + min 255 st.cores.length)
/-- A stage that a region does not hold. -/
def Stage.reset : Stage := { home := 0, en := false, maxc := 0, minc := 0, hi := 0, lo := 0, q := Queue.reset 2 128, cores := [] }
/-- The region clock word (Table 12-1). -/
def Region.clockWord (r : Region) : BitVec 64 := BitVec.ofNat 64 (r.fmax * 2 ^ 40 + r.drift * 2 ^ 32 + r.stretches.toNat)
/-- The partition latency word (Table 12-4). -/
def Part.latencyWord (p : Part) : BitVec 64 := BitVec.ofNat 64 ((if p.exceed then 2 ^ 16 else 0) + p.h * 256 + p.b)
/-- The Basin status word (Table 15-7). -/
def Basin.word (b : Basin) : BitVec 64 :=
  BitVec.ofNat 64 ((if b.busy then 2 ^ 63 else 0) + b.err.toNat * 2 ^ 48 + b.lcore * 2 ^ 24 + b.done)
/-- The region sparing word (Table 15-8). -/
def State.sparingWord (s : State) (rk : Nat) : BitVec 64 :=
  let r := s.region rk
  let dbl := match r.pid with
    | some pid => ((s.partCores pid).filter fun ck => s.rkOf ck = rk ∧ (s.core ck).dbl ∧ (s.core ck).shadow).length
    | none => 0
  BitVec.ofNat 64 (r.recov * 2 ^ 56 + r.retired.length * 2 ^ 48 + dbl * 2 ^ 40 + r.unreach.length * 2 ^ 32 + r.sparePos.length * 2 ^ 24 +
    r.spares.length * 2 ^ 16 + r.rimimg * 2 ^ 8 + r.discard)
/-- The region error word (Table 14-6). -/
def Region.errorWord (r : Region) : BitVec 64 := BitVec.ofNat 64 (r.corr.toNat * 2 ^ 32 + r.unc * 2 ^ 16 + r.fatal)
/-- The word of a channel at offset 8k of its 32 bytes (Table 14-6). -/
def Channel.word (c : Channel) (k : Nat) : BitVec 64 :=
  match k with
  | 0 => c.rcorr
  | 1 => c.runc
  | 2 => c.rlast
  | _ => c.rpass

/-- A word of the reporting window (R342, R365, R388); offsets not listed read as zero. -/
def State.repWord (s : State) (off : Nat) : BitVec 64 :=
  if off < 0x4800 then BitVec.ofNat 64 (fieldAt (s.fusedOf (off / 128)) (off % 128) 8)
  else if 0x8000 ≤ off ∧ off < 0x8480 then (s.region ((off - 0x8000) / 8)).clockWord
  else if 0x10000 ≤ off ∧ off < 0x20000 then BitVec.ofNat 64 (fieldAt s.igfel.report (off - 0x10000) 8)
  else if 0x20000 ≤ off ∧ off < 0x20300 then (s.channel ((off - 0x20000) / 32)).word ((off % 32) / 8)
  else if 0x20400 ≤ off ∧ off < 0x20880 then (s.region ((off - 0x20400) / 8)).errorWord
  else if 0x21000 ≤ off ∧ off < 0x21480 then s.sparingWord ((off - 0x21000) / 8)
  else 0

/-- The lease word: HELD, seat, strand and LEFT (log 23). -/
def GroupData.leaseWord (g : GroupData) : BitVec 64 :=
  match g.holder with
  | some sid => BitVec.ofNat 64 (1 + seatOf (ckOf sid) * 2 + strandNo sid * 8 + g.leaseLeft * 256)
  | none => 0

/-- What stands in an entry of a lock table, valid or not. -/
def OwnerData.lockEntry (o : OwnerData) (e : Nat) : Option SetReq :=
  match o.locks.find e with
  | some q => some q
  | none => o.drafts.find e

/-- The four words of a lock-table entry: valid with the first line, lines, set and strand, AGE, and TOKEN with the
core and record (log 23). -/
def lockWord (valid : Bool) (q : SetReq) (w : Nat) : BitVec 64 :=
  match w with
  | 0 => BitVec.ofNat 64 ((if valid then 2 ^ 63 else 0) + q.lines.headD 0)
  | 1 => BitVec.ofNat 64 (q.lines.length + q.set.val * 2 ^ 16 + strandNo q.sid * 2 ^ 20 + q.record * 2 ^ 24)
  | 2 => BitVec.ofNat 64 q.age
  | _ => BitVec.ofNat 64 (q.token + lcoreOf q.core * 2 ^ 40)

/-- Whether the debug window may see and write a strand (R329). -/
def Strand.debuggable (x : Strand) : Bool :=
  match x.st with
  | .frozen | .stopped | .idle => true
  | _ => false

/-- A word as it reads. -/
def State.sysRead (s : State) (r : SysRef) : BitVec 64 :=
  match r with
  | .image sid b => if (s.strand sid).debuggable then BitVec.ofNat 64 (fieldAt (s.image sid) b 8) else Config.freeWord s.fresh
  | .dbgCtl _ => 0
  | .dbgStat sid =>
    let x := s.strand sid
    if x.debuggable then
      BitVec.ofNat 64 (x.stepVal.toNat * 2 ^ 32 + x.stepKind.toNat * 16 + (if x.stepKind = 5 ∧ x.st = .frozen then x.frozenFrom else x.st).code)
    else Config.freeWord s.fresh
  | .qctl ck q =>
    let c := s.coreQueue ck q
    BitVec.ofNat 64 (c.2.1 * 2 ^ 32 + c.1 * 2 ^ 12 + c.2.2.1)
  | .qidx ck q =>
    let c := s.coreQueue ck q
    BitVec.ofNat 64 (c.2.2.2.1.toNat * 2 ^ 32 + c.2.2.2.2.toNat)
  | .bar ck i hi =>
    let b := s.barrier ck i
    if hi then BitVec.ofNat 64 ((if b.auto then 2 ^ 48 else 0) + b.expB.toNat * 2 ^ 16 + b.expA.toNat) else b.status
  | .ectl u =>
    let e := s.errOf u
    BitVec.ofNat 64 (e.scrub * 2 ^ 16 + (if e.rptscat then 4 else 0))
  | .estat u => (s.errOf u).status
  | .wd p => BitVec.ofNat 64 (s.unit p).wd
  | .filter u k => BitVec.ofNat 64 ((s.errOf u).filter.toNat / 2 ^ (64 * k))
  | .cells gk t n =>
    let t := (s.group gk).data.slotAt t
    BitVec.ofNat 64 ((t.cells.getD n 0).toNat + if n + 1 < 4225 then (t.cells.getD (n + 1) 0).toNat * 2 ^ 32 else 0)
  | .kind gk t =>
    let t := (s.group gk).data.slotAt t
    BitVec.ofNat 64 (t.kind.code + if t.mark then 4 else 0)
  | .buf gk b n =>
    let g := (s.group gk).data
    BitVec.ofNat 64 (((if b then g.bufB else g.bufA).row (n / 16)).toNat / 2 ^ (64 * (n % 16)))
  | .lease gk => (s.group gk).data.leaseWord
  | .lock gk e w => match (s.group gk).data.own.lockEntry e with
    | some q => lockWord ((s.group gk).data.own.locks.find e).isSome q w
    | none => 0
  | .stage rk n => ((s.region rk).stages.getD n Stage.reset).word
  | .clock rk => (s.region rk).clockWord
  | .latency rk => match (s.region rk).pid with
    | some pid => (s.part pid).latencyWord
    | none => 0
  | .ring rk => (s.region rk).ringBase
  | .bcmd _ => 0
  | .bstat rk => (s.region rk).basin.word
  | .rep off => s.repWord off

/-! ## Limits of a store -/

/-- A cause where a condition fails. -/
def unless_ (ok : Bool) (c : Nat) : Option Nat := if ok then none else some c

/-- The sum of MIN over the queues of a group with one of them changed from `old` to `new`. -/
def State.minSum (s : State) (gk old new : Nat) : Nat := ((s.poolQueues gk).map Prod.fst).sum - old + new

/-- Whether a stage word may be written (R291). -/
def State.stageOk (s : State) (rk n : Nat) (w : BitVec 64) : Bool :=
  let old := (s.region rk).stages.getD n Stage.reset
  let others := ((s.region rk).stages.filter fun p => p.1 ≠ n ∧ p.2.en).map fun p => p.2.minc
  let en := w.getLsbD 56
  let home := match (s.region rk).pid with
    | some pid => s.coreOfIndex pid rk (bitsAt w 63 57)
    | none => none
  let room := match home with
    | some ck => decide (s.minSum (gkOf ck) 0 old.q.min ≤ 512)
    | none => true
  (!en || old.en || room) &&
  decide (bitsAt w 23 8 < bitsAt w 39 24 ∧ bitsAt w 47 40 ≤ bitsAt w 55 48 ∧ bitsAt w 63 57 < s.grade.cr) &&
    decide (others.sum + (if en then bitsAt w 47 40 else 0) ≤ s.grade.cr) && (!old.en || decide (bitsAt w 63 57 = old.home))

/-- Whether a fault-ring base may be written (R327). -/
def State.ringOk (s : State) (rk : Nat) (w : BitVec 64) : Bool :=
  match (s.region rk).pid with
  | none => false
  | some pid =>
    let o := bitsAt w 19 6 * 64
    let f := bitsAt w 42 32
    decide (bitsAt w 63 43 = 0 ∧ bitsAt w 31 20 = 0 ∧ bitsAt w 5 0 = 0 ∧ 16 ≤ f ∧ f ≤ 1024) && s.privRange pid o (64 + 64 * f)

/-- Whether the group's lease is free and its command queue empty (R326). -/
def Group.quiet (g : Group) : Bool := g.data.holder.isNone && g.queue.isEmpty && g.arriving.isEmpty

/-- The cause with which a store of word `w` is refused, if any (R326, R329, R330, R282, R364, R385). -/
def State.sysBad (s : State) (r : SysRef) (w : BitVec 64) : Option Nat :=
  match r with
  | .image sid b =>
    if !(s.strand sid).debuggable then some causeStrand
    else
      let im := s.image sid
      unless_ (imageOk ((im.take b) ++ leBytes 8 w.toNat ++ im.drop (b + 8))) causeReserved
  | .dbgCtl sid =>
    if !(s.strand sid).debuggable then some causeStrand
    else unless_ (decide (bitsAt w 63 8 = 0 ∧ bitsAt w 6 3 = 0 ∧ bitsAt w 2 0 < 4)) causeReserved
  | .qctl ck q =>
    let c := s.coreQueue ck q
    let mn := bitsAt w 21 12
    let cap := bitsAt w 41 32
    let fixed := decide (q = 15 ∨ q = 16)
    unless_ (decide (bitsAt w 63 42 = 0 ∧ bitsAt w 31 22 = 0 ∧ bitsAt w 11 10 = 0 ∧ mn ≤ cap ∧ cap ≤ 512) &&
      decide (s.minSum (gkOf ck) c.1 mn ≤ 512) && (!fixed || decide (mn = c.1 ∧ cap = c.2.1))) causeReserved
  | .bar _ _ hi => unless_ (if hi then decide (bitsAt w 63 49 = 0) else decide (bitsAt w 63 56 = 0 ∧ bitsAt w 55 51 < 3)) causeReserved
  | .ectl _ =>
    let sc := bitsAt w 23 16
    unless_ (decide (bitsAt w 63 24 = 0 ∧ bitsAt w 15 3 = 0 ∧ (sc = 0 ∨ (8 ≤ sc ∧ sc ≤ 20)))) causeReserved
  | .wd _ => unless_ (decide (10 ≤ w.toNat ∧ w.toNat ≤ 24)) causeReserved
  | .cells gk _ n => if !(s.group gk).quiet then some causeMatrix else unless_ (decide (n + 1 < 4225 ∨ w.toNat < 2 ^ 32)) causeReserved
  | .kind gk _ => if !(s.group gk).quiet then some causeMatrix else unless_ (decide (w.toNat < 8 ∧ w.toNat % 4 < 3)) causeReserved
  | .buf gk _ _ => unless_ (s.group gk).quiet causeMatrix
  | .lease gk =>
    if !(s.group gk).quiet then some causeMatrix
    else unless_ (decide (w.toNat % 2 ^ 8 < 2 ^ 7 ∧ w.toNat < 2 ^ 16 ∧ (w.getLsbD 0 ∨ w = 0))) causeReserved
  | .lock gk _ _ => unless_ (s.group gk).quiet causeMatrix
  | .stage rk n => unless_ (s.stageOk rk n w) causeReserved
  | .ring rk => unless_ (s.ringOk rk w) causeReserved
  | .bcmd rk =>
    let c := bitsAt w 63 60
    unless_ (decide (1 ≤ c ∧ c ≤ 8 ∧ bitsAt w 59 48 = 0 ∧ bitsAt w 14 0 = 0) && !(s.region rk).basin.busy) causeReserved
  | _ => some causeReserved

/-! ## Effects of a store -/

/-- The physical line that a pointer names for a core, with no fault (R274). -/
def State.lineOfPtr (s : State) (ck : Nat) (a : Reg80) : Option Nat :=
  match s.checkAccess ck .kernel a 1 1 with
  | .ok p => match (s.resolve ck 1 false p).1 with
    | .mem ((f, _) :: _) => some (lineOf f)
    | _ => none
  | .bad _ => none

/-- The monitors that an image records, armed again (R267, R331). -/
def State.imageMons (s : State) (ck : Nat) (b : List Byte) : Vector Monitor 4 :=
  Vector.ofFn fun (j : Fin 4) =>
    let f := fieldAt b 8008 1
    let a := ptrAt b (7968 + 10 * j.val)
    match s.lineOfPtr ck a with
    | some l => if f.testBit j.val then { line := l, ptr := a, armed := true, fired := f.testBit (4 + j.val) } else Monitor.off
    | none => Monitor.off

/-- A strand takes on an image: what the image does not change stays as it is (R329). -/
def State.writeImage (s : State) (sid : Nat) (b : List Byte) : State :=
  let x := s.strand sid
  let old := s.image sid
  let fs := if imageDiffers old b 6208 128 then imageFlights b x.seq x.ceiling else x.ctx.flights
  let y := x.ofImage b fs
  let st := (SState.ofCode (fieldAt b 7938 1)).getD .ready
  let rec_ := fieldAt b 7936 2
  let s1 := s.setStrand sid
    { y with
      mons := if imageDiffers old b 7968 41 then s.imageMons (ckOf sid) b else x.mons,
      ceDone := if imageDiffers old b 5504 128 then imageDone b else x.ceDone,
      task := if rec_ = 0xFFFF then none else some rec_,
      recorded := if x.st = .stopped ∨ x.st = .idle then st else x.recorded,
      frozenFrom := if x.st = .frozen then st else x.frozenFrom }
  if y.alarm ≠ x.alarm then s1.pushOnce (.alarmFire sid) else s1

/-- Parse the state of a barrier. -/
def BarState.ofCode (n : Nat) : BarState :=
  match n % 4 with
  | 0 => .uninit
  | 1 => .armed
  | 2 => .complete
  | _ => .poison
/-- A barrier with one of its two words replaced. -/
def Barrier.setWord (b : Barrier) (hi : Bool) (w : BitVec 64) : Barrier :=
  if hi then { b with auto := w.getLsbD 48, expB := BitVec.ofNat 32 (bitsAt w 47 16), expA := BitVec.ofNat 16 (bitsAt w 15 0) }
  else { b with cause := BitVec.ofNat 5 (bitsAt w 55 51), st := BarState.ofCode (bitsAt w 50 49), phase := w.getLsbD 48,
                arrA := BitVec.ofNat 16 (bitsAt w 47 32), arrB := BitVec.ofNat 32 (bitsAt w 31 0) }

/-- A lock-table entry with one of its words replaced (log 23): word 0 gives the first line, word 1 how many there are. -/
def setLockWord (q : SetReq) (pid w : Nat) (v : BitVec 64) : SetReq :=
  match w with
  | 0 => { q with lines := (List.range (max 1 q.lines.length)).map fun i => v.toNat % 2 ^ 63 + i }
  | 1 => { q with lines := (List.range (v.toNat % 2 ^ 16)).map fun i => q.lines.headD 0 + i, set := Fin.ofNat 8 (v.toNat / 2 ^ 16),
                  sid := sidOf q.core ((v.toNat / 2 ^ 20) % 16), record := (v.toNat / 2 ^ 24) % 2 ^ 16 }
  | 2 => { q with age := v.toNat }
  | _ => { q with token := v.toNat % 2 ^ 40, core := ckAt pid (v.toNat / 2 ^ 40) }

/-- An entry of the lock table that nothing has filled. -/
def blankReq (gk : Nat) : SetReq := { sid := 0, core := 0, record := 0, age := 0, token := 0, set := 0, lines := [], home := .group gk }

/-- ERROR_FCLR (R364): the filter clears, and what would enter it in this cycle is lost. -/
def State.clearFilter (s : State) (u : ErrUnit) : State :=
  s.updErr u fun e => { e with filter := 0, clearedAt := some (s.region (unitSite u).1).cyc }
/-- ERROR_CCLR (R364): the counts clear. -/
def State.clearCounts (s : State) (u : ErrUnit) : State := s.updErr u fun e => { e with unc := 0, rep := 0, scat := 0 }
/-- Let a unit's next scrub tick be due. -/
def State.askScrub (s : State) (u : ErrUnit) : State := if (s.errOf u).scrub = 0 then s else s.pushOnce (.scrubTick u)

/-- WRITE_FAULT_RING_BASE (R327): the ring is set and what waits is delivered. -/
def State.setRing (s : State) (rk : Nat) (w : BitVec 64) : State :=
  match (s.region rk).pid with
  | some pid => (s.updRegion rk fun r => { r with ringBase := w }).pushOnce (.faultRingDeliver pid rk)
  | none => s

/-- Whether a command 1-5 comes in its order: it opens a sequence with drain or stop, or continues the open one of its core. -/
def Basin.inOrder (b : Basin) (ck cmd : Nat) : Bool :=
  match b.seqCore with
  | none => decide (cmd = 1 ∨ cmd = 2)
  | some c => decide (c = ck ∧ cmd = b.seqNext)

/-- The error with which a command is turned away: out of order, or a core of another region. -/
def State.basinError (s : State) (c : BasinCmd) (cmd : Nat) : Option Nat :=
  if cmd ≤ 5 ∧ !(s.region c.region).basin.inOrder c.core cmd then some 3
  else if (s.part (pidOf c.core)).n ≤ lcoreOf c.core ∨ s.rkOf c.core ≠ c.region then some 1
  else none

/-- Whether a target is a spare position of the core's group. -/
def State.spareTarget (s : State) (c : BasinCmd) : Bool :=
  (s.group (gkOf c.core)).entry.group == c.group && (s.region c.region).sparePos.contains (c.group, c.pos)

/-- Whether a *migrate* is taken up: from its acceptance on, requests to the core are held (R408). -/
def State.basinTakes (s : State) (c : BasinCmd) (cmd : Nat) : Bool := (s.basinError c cmd).isNone && s.spareTarget c

/-- A Basin command is accepted: its event is due (R385). -/
def State.basinCommand (s : State) (rk : Nat) (w : BitVec 64) : State :=
  match (s.region rk).pid with
  | none => s
  | some pid =>
    let lc := bitsAt w 47 24
    let c : BasinCmd := { region := rk, core := ckAt pid lc, group := bitsAt w 23 18, pos := bitsAt w 17 15 }
    let s1 := s.updRegion rk fun r => { r with basin := { r.basin with busy := true, err := 0, lcore := lc, done := 0, started := s.now } }
    match bitsAt w 63 60 with
    | 1 => s1.push (.basinDrain c)
    | 2 => s1.push (.basinStop c)
    | 3 => (if s.basinTakes c 3 then s1.updCore c.core fun k => { k with moving := true } else s1).push (.basinMigrate c)
    | 4 => s1.push (.basinRemapPrepare c)
    | 5 => s1.push (.basinRemapCommit c)
    | 6 => s1.push (.basinReturn c)
    | 7 => s1.push (.basinBoundaryNow c)
    | _ => s1.push (.basinFail c)

/-- A debug control command (R330): resume at once, step and kill as events of their own. A killed strand ignores
resume. -/
def State.debugCommand (s : State) (sid : Nat) (w : BitVec 64) : State :=
  let e := w.getLsbD 7
  match bitsAt w 2 0 with
  | 1 => if (s.strand sid).killing then s else (s.updStrand sid fun x => { x with endChunk := e || x.endChunk }).resume sid
  | 2 => (s.updStrand sid fun x => { x with stepAsked := true }).push (.debugStep sid)
  | 3 => (s.updStrand sid fun x => { x with killing := true }).push (.debugKill sid)
  | _ => s.updStrand sid fun x => { x with endChunk := e || x.endChunk }

/-- A slot with the two cells of a word replaced. -/
def Slot.setWord (t : Slot) (n : Nat) (w : BitVec 64) : Slot :=
  let c1 := putCell t.cells n (BitVec.ofNat 32 w.toNat)
  { t with cells := if n + 1 < 4225 then putCell c1 (n + 1) (BitVec.ofNat 32 (w.toNat / 2 ^ 32)) else c1 }
/-- A buffer with 8 bytes of a row replaced. -/
def Buf.setWord (b : Buf) (n : Nat) (w : BitVec 64) : Buf :=
  let r := (b.row (n / 16)).toNat
  let sh := 2 ^ (64 * (n % 16))
  let r2 := BitVec.ofNat 1024 (r % sh + (w.toNat + r / sh / 2 ^ 64 * 2 ^ 64) * sh)
  { b with rows := if r2 = 0 then b.rows.del (n / 16) else b.rows.put (n / 16) r2 }

/-- A stage with its control word replaced. -/
def Stage.setWord (st : Stage) (w : BitVec 64) : Stage :=
  { st with home := bitsAt w 63 57, en := w.getLsbD 56, maxc := bitsAt w 55 48, minc := bitsAt w 47 40, hi := bitsAt w 39 24, lo := bitsAt w 23 8 }

/-- A store of word `w` that breaks no limit takes effect. -/
def State.sysApply (s : State) (pid : Nat) (r : SysRef) (w : BitVec 64) : State :=
  match r with
  | .image sid b =>
    let im := s.image sid
    s.writeImage sid ((im.take b) ++ leBytes 8 w.toNat ++ im.drop (b + 8))
  | .dbgCtl sid => s.debugCommand sid w
  | .qctl ck q =>
    let mn := bitsAt w 21 12
    let cap := bitsAt w 41 32
    let s1 := if q = 17 then s.updCore ck fun c => { c with redMin := mn, redCap := cap }
      else if q = 16 then s
      else s.updCore ck fun c => { c with inbox := c.inbox.put q { c.inboxQ q with min := mn, cap := cap } }
    s1.pokePool (gkOf ck)
  | .bar ck i hi => s.putBarrier ck i ((s.barrier ck i).setWord hi w)
  | .ectl u =>
    let s0 := if (s.errOf u).scrub = 0 then s.updUnit (unitKey u) fun x => { x with scrubAt := (s.region (unitSite u).1).cyc } else s
    let s1 := s0.updErr u fun e => { e with scrub := bitsAt w 23 16, rptscat := w.getLsbD 2 }
    let s2 := if w.getLsbD 1 then s1.clearCounts u else s1
    (if w.getLsbD 0 then s2.clearFilter u else s2).askScrub u
  | .wd p => s.updUnit p fun x => { x with wd := bitsAt w 4 0 }
  | .cells gk t n => s.updData gk fun g => { g with slots := g.slots.put t ((g.slotAt t).setWord n w) }
  | .kind gk t =>
    let k := if w.toNat % 4 = 0 then SlotKind.n else if w.toNat % 4 = 1 then SlotKind.f else SlotKind.i
    s.updData gk fun g => { g with slots := g.slots.put t { g.slotAt t with kind := k, mark := w.getLsbD 2 } }
  | .buf gk b n =>
    s.updData gk fun g => if b then { g with bufB := g.bufB.setWord n w } else { g with bufA := g.bufA.setWord n w }
  | .lease gk =>
    let n := w.toNat
    s.updData gk fun g =>
      if w.getLsbD 0 then { g with holder := some (sidOf (gk * 4 + n / 2 % 4) (n / 8 % 16)), leaseLeft := n / 256, leaseSeq := 0, lastSeat := n / 2 % 4 }
      else { g with holder := none, leaseLeft := 0, leaseSeq := 0 }
  | .lock gk e k =>
    s.updData gk fun g =>
      let q := setLockWord ((g.own.lockEntry e).getD (blankReq gk)) pid k w
      let valid := if k = 0 then w.getLsbD 63 else (g.own.locks.find e).isSome
      { g with own :=
        if valid then { g.own with locks := g.own.locks.put e q, drafts := g.own.drafts.del e }
        else { g.own with locks := g.own.locks.del e, drafts := g.own.drafts.put e q } }
  | .stage rk n =>
    s.updRegion rk fun r => { r with stages := r.stages.put n ((r.stages.getD n Stage.reset).setWord w) }
  | .ring rk => s.setRing rk w
  | .bcmd rk => s.basinCommand rk w
  | _ => s

/-! ## Loads and stores of 1 to 8 bytes -/

/-- What an access of the system window reads in a coded array is checked first (R351). -/
def State.senseSys (s : State) (r : SysRef) : State :=
  match r with
  | .image sid _ => s.senseStrand sid
  | .cells gk _ _ => s.senseArray gk
  | .kind gk _ => s.senseArray gk
  | .buf gk _ _ => s.senseArray gk
  | .lock gk _ _ => s.senseGroup gk 7
  | _ => s

/-- A word with `n` bytes from byte `o` on replaced (R326). -/
def mergeWord (old : BitVec 64) (o : Nat) (d : List Byte) : BitVec 64 :=
  let b := leBytes 8 old.toNat
  BitVec.ofNat 64 (ofLE ((b.take o) ++ d ++ b.drop (o + d.length)))

/-- SYSTEM_WINDOW_STORE (R326): as its chunk commits, a store's bytes are merged into the word's current content;
where that breaks a field limit the store is discarded and the strand faults late. -/
def State.commitSys (s : State) (sid : Nat) (st : SysStore) : State :=
  let pid := pidOf (ckOf sid)
  match s.sysRef pid st.qq (st.off / 8 * 8) with
  | none => s
  | some r =>
    let s := s.senseSys r
    let w := mergeWord (s.sysRead r) (st.off % 8) st.data
    match s.sysBad r w with
    | none => s.sysApply pid r w
    | some c => s.freeze sid c 0 (BitVec.ofNat 64 st.fpc) st.second 0 (if c = causeReserved then leBytes 8 st.off else addrBytes (make (BitVec.ofNat 16 (0x7F00 + st.qq)) (BitVec.ofNat 64 st.off)))

end Sys2Proof.Machine
end

