-- ==== Sys2Proof/Machine/Control.lean ====
section
/-! DEFINITION. The `ct` words (Table 10-7): control transfer (R39, R270), chunk ends (R216, R268), the fence (R214)
and the words that act on another strand when their chunk commits (R266, R267, R270). -/

namespace Sys2Proof.Machine

/-! ## Control transfer (R39, R213) -/

/-- The branch is taken after the bundle. -/
def State.branchTo (s : State) (t : BitVec 64) : State := s.updMe fun x => { x with branch := some t }

/-- The target of `br`, `call` and `ipf`: a displacement from the pair, or an absolute pair number. -/
def targetOf (s : State) (c : CSrc) (r : Reg) : BitVec 64 :=
  match c with
  | .imm i => s.ctx.pc + i.signExtend 64
  | _ => r.val

/-- A poisoned target faults. -/
def withTarget (s : State) (c : CSrc) (k : BitVec 64 → State → State) : State :=
  readC s c fun r s => if r.p then s.faultPoison r.v else k (targetOf s c r) s

/-- `br`. -/
def branchTrigger (h : Hdr) (c : CSrc) (s : State) : State := guarded h s fun s => withTarget s c fun t s => s.branchTo t
/-- `call`: the next pair goes to g22. -/
def callTrigger (h : Hdr) (c : CSrc) (s : State) : State :=
  guarded h s fun s => withTarget s c fun t s => (s.write (.g 22 (mk0 (s.ctx.pc + 1) false))).branchTo t

/-- CT_BR (R39). -/
def execCtBr (h : Hdr) (d : BitVec 11) (s : State) : Res := .next (branchTrigger h (.imm d) s)
/-- CT_BR_ABS (R39). -/
def execCtBrAbs (h : Hdr) (c : CSrc) (s : State) : Res := .next (branchTrigger h c s)
/-- CT_CALL (R270). -/
def execCtCall (h : Hdr) (d : BitVec 11) (s : State) : Res := .next (callTrigger h (.imm d) s)
/-- CT_CALL_ABS (R270). -/
def execCtCallAbs (h : Hdr) (c : CSrc) (s : State) : Res := .next (callTrigger h c s)
/-- CT_RET (R270). -/
def execCtRet (h : Hdr) (s : State) : Res :=
  .next (guarded h s fun s =>
    let r := s.ctx.greg 22
    if r.p then s.faultPoison r.v else if r.tag ≠ 0 then s.faultAddr causeMisaligned r.v else s.branchTo r.val)
/-- CT_JMP (R270). -/
def execCtJmp (h : Hdr) (c : CSrc) (s : State) : Res :=
  .next (guarded h s fun s => readC s c fun r s => if r.p then s.faultPoison r.v else s.branchTo (s.ctx.pc + r.val))
/-- CT_NOP (R270). -/
def execCtNop (h : Hdr) (s : State) : Res := .next (guarded h s fun s => s)

/-- The instruction-cache lines of `n` pairs from a pair on. -/
def pairLines (t : BitVec 64) (n : Nat) : List Nat :=
  ((List.range n).map fun i => (t + BitVec.ofNat 64 i).toNat / 16).eraseDups

/-- The source of a hint, which neither faults nor is an effect: one that cannot be read drops the hint, and `ce.c` is not popped
(R314; DEDUCED, log 54). -/
def readHint (s : State) (src : CSrc) (k : Reg → State → State) : State :=
  match src with
  | .ceC => s
  | .sqR => k (s.ctx.latch .sqR) s
  | _ =>
    let t := readC s src k
    if t.me.st = .frozen then s else t

/-- CT_IPF (R314): a hint that fills the lines of n pairs. -/
def execCtIpf (h : Hdr) (la : BitVec 4) (c : CSrc) (s : State) : Res :=
  .next (guarded h s fun s => readHint s c fun r s =>
    let gk := gkOf s.myCk
    (pairLines (targetOf s c r) (la.toNat + 1)).foldl (fun s l =>
      if (s.group gk).icache.any fun e => e.1 == l then s else s.askFill s.myCk l) s)

/-! ## Ends of chunks -/

/-- CT_CHUNK (R216). -/
def execCtChunk (h : Hdr) (s : State) : Res := .next (guarded h s fun s => s.close)
/-- CT_YIELD (R268): the strand stops when its chunk has committed; strand 0 and supervisor strands only end the
chunk. -/
def execCtYield (h : Hdr) (s : State) : Res :=
  .next (guarded h s fun s =>
    if strandNo s.cur = 0 ∨ s.mode s.cur = .supervisor then s.close else (s.defer (.selfStop false)).close)
/-- CT_HALT (R268). -/
def execCtHalt (h : Hdr) (s : State) : Res :=
  .next (guarded h s fun s => if strandNo s.cur = 0 then s.fault causeHalt 0 [] else (s.defer (.selfStop true)).close)
/-- CT_TRAP (R270): a chunk of its own, after the earlier chunks have committed. -/
def execCtTrap (h : Hdr) (c : CSrc) (s : State) : Res :=
  .next (guarded h s fun s => readC s c fun r s =>
    if s.me.chunk.len ≠ 0 then s.endFirst
    else if s.me.await.isSome ∨ s.me.effect.isSome ∨ s.me.ctl ≠ [] then s.hold .stalledLA .chunkAwait 0
    else s.fault causeTrap 0 (leBytes 8 r.val.toNat))

/-! ## The fence (R214) -/

/-- Wait for everything before, as a chunk of its own; then a pending error faults. -/
def fenceGate (s : State) (why : Why) (k : State → State) : State :=
  if s.me.chunk.len ≠ 0 then s.endFirst
  else if !s.me.quiet then s.hold .stalledLA why s.me.ceiling
  else if s.ctx.pe.set then s.fault causePoison 0 (addrBytes s.ctx.pe.addr ++ leBytes 8 s.ctx.pe.pc.toNat)
  else k s

/-- CT_EFENCE (R214). -/
def execCtEfence (h : Hdr) (s : State) : Res := .next (guarded h s fun s => fenceGate s .fence State.close)

/-! ## Words that act on another strand; a poisoned target faults (R213, R270) -/

/-- EN of `redpin` (R250). -/
def Core.serves (c : Core) : Bool := c.redpin.getLsbD 63

/-- The word acts when its chunk commits (R270). -/
def State.deferStrand (s : State) (dp : Nat) (r : Reg) : State :=
  ((s.defer (.strand dp r.v s.me.seq s.ctx.pc s.second)).updMe fun x => { x with seq := x.seq + 1 }).close

/-- A strand-operand fault. -/
def State.faultStrand (s : State) (r : Reg) : State := s.faultAddr causeStrand r.v

/-- Target 15 of a core whose reduction server runs may not be touched (R250). -/
def serverGate (s : State) (st : Nat) (r : Reg) (k : State → State) : State :=
  if st = 15 ∧ (s.core s.myCk).serves then s.faultAddr causePrivilege r.v else k s

/-- CT_SSTOP (R267). -/
def execCtSstop (h : Hdr) (c : CSrc) (s : State) : Res :=
  .next (guarded h s fun s => needKernel s fun s => readC s c fun r s =>
    let v := r.val.toNat
    if r.p then s.faultPoison r.v
    else if 16 ≤ v ∨ v = 0 ∨ v = strandNo s.cur then s.faultStrand r
    else serverGate s v r fun s => s.deferStrand 0x0B r)

/-- CT_SGO (R266). -/
def execCtSgo (h : Hdr) (c : CSrc) (s : State) : Res :=
  .next (guarded h s fun s => needKernel s fun s => readC s c fun r s =>
    let v := r.val.toNat
    let idx := v / 2 ^ 16
    let new := v.testBit 4
    if r.p then s.faultPoison r.v
    else if 2 ^ 26 ≤ v ∨ (v / 32) % 2 ^ 11 ≠ 0 ∨ v % 16 = 0 ∨ (!new ∧ idx ≠ 0) ∨ (s.partOf s.myCk).t ≤ idx then s.faultStrand r
    else serverGate s (v % 16) r fun s => s.deferStrand 0x0C r)

/-- The checks of an image's place: O + 16 × ST (R267). -/
def imageGate (s : State) (r : Reg) (k : State → State) : State :=
  let v := r.val.toNat
  let o := v / 256 * 256
  if r.p then s.faultPoison r.v
  else if r.tag ≠ 0 ∨ v % 16 ≠ 0 ∨ o < 64 * (s.partOf s.myCk).t then s.faultStrand r
  else if !s.privRange (pidOf s.myCk) o 8192 then s.faultAddr causeWindow r.v
  else k s

/-- CT_SSAVE (R267). -/
def execCtSsave (h : Hdr) (c : CSrc) (s : State) : Res :=
  .next (guarded h s fun s => needKernel s fun s => readC s c fun r s => imageGate s r fun s => s.deferStrand 0x0D r)
/-- CT_SLOAD (R267). -/
def execCtSload (h : Hdr) (c : CSrc) (s : State) : Res :=
  .next (guarded h s fun s => needKernel s fun s => readC s c fun r s => imageGate s r fun s =>
    serverGate s (r.val.toNat / 16 % 16) r fun s => s.deferStrand 0x0E r)

/-- The strand that a system-window pointer to a context image names (Table 13-4). -/
def State.imagePtr (s : State) (pid : Nat) (a : Reg80) : Option Nat :=
  let off := offOf a
  if classOf a = 0x7F ∧ qualOf a = 0 ∧ off < 2 ^ 35 ∧ off % 2 ^ 16 = 0 then
    (s.coreOfBits pid off).map fun ck => sidOf ck (off % 2 ^ 20 / 2 ^ 16)
  else none

/-- CT_RESUME (R270). -/
def execCtResume (h : Hdr) (c : CSrc) (s : State) : Res :=
  .next (guarded h s fun s => needSupervisor s fun s => readC s c fun r s =>
    if r.p then s.faultPoison r.v
    else match s.imagePtr (pidOf s.myCk) r.v with
    | none => s.faultStrand r
    | some _ => s.deferStrand 0x0F r)

end Sys2Proof.Machine
end

