-- ==== Sys2Proof/Machine/Commit.lean ====
section
/-! DEFINITION. Chunks from their end to their place in the order (R194-R205): the end of a chunk, the decisions of the
Weir slices, what a commit makes visible, serial mode, and the end of one bundle. -/

namespace Sys2Proof.Machine

/-! ## What a slice decides (R201-R203) -/

/-- Whether every read of a chunk has landed, the effect before it has its place and the words of the chunk before it have acted
(R207, R270, R332). -/
def Strand.mayCommit (x : Strand) (k : Chunk) : Bool :=
  x.effect.isNone && x.ctl.isEmpty && k.issued.all fun q => x.ctx.flights.all fun f => f.seq != q || f.arrived

/-- Whether a write after number `n` may share a line with a signature, or is no longer in the history (R203). The
strand's own commits precede its chunk in any case. -/
def Slice.meets (sl : Slice) (sid n : Nat) (sig : BitVec 512) : Bool :=
  let d := sl.num - n
  decide (sl.hist.length < d) || (sl.hist.take d).any fun e => e.1 != some sid && mayShare e.2 sig

/-- Whether a chunk meets a later write at one slice. -/
def State.meetsAt (s : State) (sid ref : Nat) (k : Chunk) : Bool :=
  k.slices.any fun p => p.1 == ref && (s.owner (ownerOfRef p.1)).slice.meets sid p.2 (k.rsig ||| k.wsig)

/-- Whether a chunk meets a later write at one of its slices. -/
def State.chunkMeets (s : State) (sid : Nat) (k : Chunk) : Bool :=
  k.slices.any fun p => (s.owner (ownerOfRef p.1)).slice.meets sid p.2 (k.rsig ||| k.wsig)

/-- Whether a chunk that is prepared at a slice may share a line with another (R202). -/
def State.preparedAt (s : State) (sid ref : Nat) (k : Chunk) : Bool :=
  (s.owner (ownerOfRef ref)).slice.prep.any fun p => p.1 != sid && mayShare p.2 (k.rsig ||| k.wsig)

/-- Whether requests to an owner are held while its group moves (R378). -/
def State.ownerHeld (s : State) (w : Owner) : Bool :=
  match w with
  | .group gk => (s.group gk).entry.state != 0
  | _ => false

/-- Whether a chunk's commit waits for its core's log (R373). -/
def State.commitWaitsLog (s : State) (sid : Nat) (k : Chunk) : Bool :=
  (k.wsig != 0 || decide (2 ≤ k.slices.length)) && s.logWaiting (ckOf sid)

/-- The strand whose chunk a log names next, or 16 where it names an incoming effect (R377). -/
def nextTurn (l : List LogRec) : Option Nat := l.findSome? fun r => match r with | .chunk n _ => some n | .incoming _ _ => some 16 | _ => none

/-- Whether a replaying core has something else to do before a strand's next chunk: another strand's chunk, an incoming effect,
or the end of the replay (R377, R404). -/
def State.outOfTurn (s : State) (sid : Nat) : Bool := s.replaying (ckOf sid) && nextTurn (s.core (ckOf sid)).replay != some (strandNo sid)

/-- The key of a slice in the order of prepares (R202). -/
def State.sliceKey (s : State) (ref : Nat) : Nat := if ref < 2 ^ 40 then s.groupKey ref else 5184 + (ref - 2 ^ 40)

/-- The slice at which a chunk prepares next. -/
def State.nextSlice (s : State) (k : Chunk) : Option Nat :=
  ((k.slices.map Prod.fst).filter fun r => !k.prepared.contains r).foldl (fun best r => match best with
    | none => some r
    | some b => if s.sliceKey r < s.sliceKey b then some r else best) none

/-- The slices of a chunk outside its own group: its commit is a remote effect message there (R218). -/
def Chunk.farSlices (k : Chunk) (sid : Nat) : List Nat := (k.slices.map Prod.fst).filter fun r => r != gkOf (ckOf sid)

/-- Whether the log of a core of a slice's group has no room (R373). -/
def State.sliceLogFull (s : State) (ref : Nat) : Bool := decide (ref < 2 ^ 40) && (groupCores ref).any fun ck => (s.core ck).logFull

/-- Whether a slice elsewhere has no room to keep the answer to a chunk's commit, or to log it (R228, R373). -/
def State.commitBusy (s : State) (sid : Nat) (k : Chunk) : Bool :=
  let x := s.strand sid
  let pid := pidOf (ckOf sid)
  (k.farSlices sid).any fun r => ((s.owner (ownerOfRef r)).retire pid x.tok x.floor).full pid x.tok || s.sliceLogFull r

/-- Why a chunk cannot be decided now, though nothing conflicts: the order of a replay, the log, a group on the move, or a
prepared chunk. -/
def State.commitHeld (s : State) (sid : Nat) (k : Chunk) (refs : List Nat) : Bool :=
  if s.replaying (ckOf sid) then s.outOfTurn sid
  else (k.lines.any fun l => decide (l < 2 ^ 45) && (s.core (l / 2 ^ 13)).moving) || s.commitWaitsLog sid k ||
    refs.any fun r => s.ownerHeld (ownerOfRef r) || s.preparedAt sid r k

/-! ## What a commit does (R197, R208) -/

/-- A chunk's stores become visible, with one commit at each of its slices (R201, R202). -/
def State.commitStores (s : State) (sid : Nat) (k : Chunk) : State :=
  let s1 := k.stores.foldl (fun s w => (s.overwriteAll (some (ckOf sid)) w.addr w.data.length).putBytes w) s
  let s2 := k.slices.foldl (fun s p =>
    s.recordAt (some sid) (ownerOfRef p.1) (linesSig (k.lines.filter fun l => s.lineExported l && ownerRef (ownerOfLine l) == p.1))) s1
  s2.afterLines (some sid) k.lines

/-- The stores of a chunk that lie in one core's local store. -/
def Chunk.storesAt (k : Chunk) (ck : Nat) : List (Nat × List Byte × Bool) :=
  (k.stores.filter fun w => decide (w.addr < 2 ^ 52 ∧ ckOfFlat w.addr = ck)).map fun w => (w.addr, w.data, w.mark)

/-- What a replay commits of a recorded chunk: what it wrote in its own core; the rest took its place before the failure, or has
its place in another core's log (R377). -/
def Chunk.own (k : Chunk) (sid : Nat) : Chunk :=
  let ck := ckOf sid
  let mine := fun (l : Nat) => decide (l < 2 ^ 45 ∧ l / 2 ^ 13 = ck)
  { k with stores := k.stores.filter fun w => mine (lineOf w.addr), lines := k.lines.filter mine, slices := k.slices.filter fun p => p.1 == gkOf ck }

/-- The message that carries a chunk's commit to another core. -/
def State.commitMsg (s : State) (sid : Nat) (k : Chunk) (ref : Nat) (ws : List (Nat × List Byte × Bool)) : Msg :=
  let x := s.strand sid
  { origin := .strand sid, seq := 0, tok := x.tok, sn := k.serial.getD 0, floor := x.floor, owner := ownerOfRef ref, op := .commit sid ws }

/-- A slice elsewhere keeps the acknowledgment of a commit, where it has not kept it already (R228). -/
def OwnerData.keepCommit (o : OwnerData) (pid : Nat) (x : Strand) (sn : BitVec 32) : OwnerData :=
  let o1 := o.retire pid x.tok x.floor
  if (o1.entryOf pid x.tok sn).isSome then o1 else o1.keep pid x.tok sn .result ackReply

/-- Each slice elsewhere keeps an acknowledgment of the commit and is told of it, unless the chunk's one request to it is being
answered; every other core logs what it wrote there (R218, R228, R372). -/
def State.commitFar (s : State) (sid : Nat) (k : Chunk) (c : Ctx) : State :=
  let x := s.strand sid
  let pid := pidOf (ckOf sid)
  let asked := x.reqs.any Req.isCommit
  (k.slices.map Prod.fst).foldl (fun s r =>
    let s1 := if r = gkOf (ckOf sid) then s
      else
        let s0 := s.updOwner (ownerOfRef r) fun o => o.keepCommit pid x (k.serial.getD 0)
        if asked then s0 else s0.sendCommit sid c k r (.commit sid [])
    if r < 2 ^ 40 then
      ((groupCores r).filter fun ck => ck != ckOf sid).foldl (fun s ck =>
        let ws := k.storesAt ck
        if ws = [] then s else s.logRec ck (.incoming (s.commitMsg sid k r ws) ackReply)) s1
    else s1) s

/-- What a committed `ct.yield` or `ct.halt` does (R268). -/
def State.selfStop (s : State) (sid : Nat) (halt : Bool) : State :=
  let bit := BitVec.ofNat 16 (2 ^ strandNo sid)
  let s1 := s.updCore (ckOf sid) fun c => if halt then { c with hlt := c.hlt ||| bit } else { c with yld := c.yld ||| bit }
  let s2 := if (s1.strand sid).st = .frozen then s1.updStrand sid fun x => { x with recorded := .ready, frozenFrom := .stopped, why := .none }
    else (s1.stopNow sid).updStrand sid fun x => { x with recorded := .ready, why := .none }
  s2.pokeKernel (ckOf sid)

/-- An action that waited for the commit. -/
def State.actDeferred (s : State) (sid : Nat) (d : Deferred) : State :=
  match d with
  | .mx seq c => s.sendJob sid seq c
  | .lease seq n => s.requestLease sid seq n
  | .free => s.freeLeaseOf sid
  | .strand dp w seq fpc second =>
    (s.updStrand sid fun x => { x with ctl := x.ctl ++ [{ dp := dp, w := w, seq := seq, fpc := fpc, second := second }] }).push (.strandControlAct sid)
  | .selfStop halt => s.selfStop sid halt
  | .sys st => s.commitSys sid st
  | .undo ptr line _ =>
    match (s.strand sid).task with
    | some i => s.logLine (ckOf sid) i ptr line
    | none => s

/-- The records of a chunk that commits: the times and the lines of other owners that it read, as it read them, then the chunk
(R372). -/
def State.chunkRecs (s : State) (sid : Nat) (k : Chunk) : List LogRec :=
  let ck := ckOf sid
  let far := k.reads.filter fun l => !(decide (l < 2 ^ 45) && decide (l / 2 ^ 13 = ck))
  (k.times.map fun v => .time (strandNo sid) v) ++ (far.map fun l => .remoteLine l (memReadList s.mem (l * 128) 128)) ++ [.chunk (strandNo sid) k.len]

/-- Log a chunk that commits; the bundle of a wait is logged as the wait ends (State.logWait). -/
def State.logChunk (s : State) (sid : Nat) (k : Chunk) : State :=
  let recs := s.chunkRecs sid k
  if (s.strand sid).waitFrom.isSome then s.updStrand sid fun x => { x with waitLog := recs }
  else recs.foldl (fun s r => s.logRec (ckOf sid) r) s

/-- A log without its next chunk and the lines that chunk read. -/
def dropChunk : List LogRec → List LogRec
  | [] => []
  | .chunk _ _ :: r => r
  | .remoteLine _ _ :: r => dropChunk r
  | x :: r => x :: dropChunk r

/-- The length of a strand's next chunk: the recorded one in a replay (R377), otherwise `chl`.LEN (R196). -/
def State.nextLimit (s : State) (sid : Nat) : Nat :=
  let rec_ := (s.core (ckOf sid)).replay.findSome? fun r => match r with
    | .chunk n len => if n = strandNo sid then some len else none
    | _ => none
  rec_.getD (bitsAt (s.strand sid).chl 10 0)

/-- A replaying core commits the chunk its log names next; the strand's next one has its recorded length (R377). -/
def State.replayChunk (s : State) (sid : Nat) (k : Chunk) : State :=
  let s1 := ((s.commitStores sid (k.own sid)).unhold sid k).updCore (ckOf sid) fun c => { c with replay := dropChunk c.replay }
  s1.updStrand sid fun x => { x with chunk := { x.chunk with limit := s1.nextLimit sid } }

/-- A chunk that began in a context takes its place in the order. -/
def State.commitChunk (s : State) (sid : Nat) (c : Ctx) (k : Chunk) : State :=
  let s1 := if s.replaying (ckOf sid) then s.replayChunk sid k
    else ((((s.logChunk sid k).commitStores sid k).unhold sid k).commitFar sid k c)
  let s2 := k.deferred.foldl (fun s d => s.actDeferred sid d) s1
  if k.drainvs = 0 then s2 else s2.leaseCheck (gkOf (ckOf sid))

/-- A stop that waited for the chunk awaiting commit takes effect (R206). -/
def State.settleStop (s : State) (sid : Nat) : State :=
  let x := s.strand sid
  if !x.stopping ∨ x.await.isSome then s
  else if s.wakesFirst sid then s.pushOnce (.weirCommitRequest sid)
  else s.stopNow sid

/-- The chunk awaiting commit commits (R198). -/
def State.commitAwait (s : State) (sid : Nat) : State :=
  match (s.strand sid).await with
  | none => s
  | some (c, k) =>
    let s1 := s.updStrand sid fun x =>
      { x with await := none, committed := x.committed + 1, squashes := if x.squashPc = c.pc then 0 else x.squashes }
    ((s1.commitChunk sid c k).settleStop sid).retry (ckOf sid)

/-! ## Events of the Weir -/

/-- Ask a slice elsewhere to decide a chunk, unless one is being asked. -/
def State.askSlice (s : State) (sid : Nat) (c : Ctx) (k : Chunk) (ref : Nat) : State :=
  if (s.strand sid).reqs.any Req.isCommit then s else s.sendCommit sid c k ref (.commitAt sid)

/-- A chunk awaiting commit asks: it commits when it touched no slice, is decided at its one slice, or prepares at
several. A slice elsewhere is asked by a message. What cannot be decided yet is asked again. -/
def State.weirDecide (s : State) (sid : Nat) : State :=
  let x := s.strand sid
  match x.await with
  | none => s.settleStop sid
  | some (c, k) =>
    if !x.mayCommit k then s
    else if s.replaying (ckOf sid) then (if s.outOfTurn sid then s.pushOnce (.weirCommitRequest sid) else s.commitAwait sid)
    else if 2 ≤ k.slices.length then s.pushOnce (.weirPrepare sid)
    else if s.commitHeld sid k (k.slices.map Prod.fst) then s.pushOnce (.weirCommitRequest sid)
    else if s.chunkMeets sid k then s.squashAwait sid
    else match k.farSlices sid with
      | r :: _ => s.askSlice sid c k r
      | [] => s.commitAwait sid

/-- WEIR_COMMIT_REQUEST (R201). -/
def execWeirCommitRequest (sid : Nat) (s : State) : Res := .next (s.weirDecide sid)

/-- The log of a group elsewhere names a prepare or a commit that its slice answers, at its first core (R372, R391). -/
def State.logAnswer (s : State) (m : Msg) : State :=
  match m.owner with
  | .group gk => s.logRec (gk * 4) (.incoming m ackReply)
  | _ => s

/-- A slice accepts a chunk's prepare and holds its write signature. -/
def State.acceptPrepare (s : State) (sid ref : Nat) (k : Chunk) : State :=
  let s1 := s.updOwner (ownerOfRef ref) fun o => { o with slice := { o.slice with prep := o.slice.prep ++ [(sid, k.wsig)] } }
  s1.updStrand sid fun x => { x with await := x.await.map fun p => (p.1, { p.2 with prepared := p.2.prepared ++ [ref] }) }

/-- WEIR_PREPARE (R202): one slice, in rising key order; after the last the chunk commits at all of them. -/
def execWeirPrepare (sid : Nat) (s : State) : Res :=
  .next (
    let x := s.strand sid
    match x.await with
    | none => s
    | some (c, k) =>
      if !x.mayCommit k then s
      else match s.nextSlice k with
      | none => if s.chunkMeets sid k then s.squashAwait sid else s.commitAwait sid
      | some r =>
        if s.commitHeld sid k [r] then s.pushOnce (.weirPrepare sid)
        else if s.meetsAt sid r k then s.squashAwait sid
        else if r ≠ gkOf (ckOf sid) then s.askSlice sid c k r
        else (s.acceptPrepare sid r k).pushOnce (.weirPrepare sid))

/-- A request about a chunk arrives at a slice elsewhere (R201, R202): it is answered *busy* where the answer cannot be kept,
waits behind a prepared chunk, squashes the chunk, commits a chunk of that one slice, or prepares it. -/
def State.decideCommit (s : State) (sid : Nat) (m : Msg) (again : Instr) : State :=
  let x := s.strand sid
  let ref := ownerRef m.owner
  let pid := pidOf (ckOf sid)
  let answer : Instr := .replyResult m.origin m.seq ackReply
  match x.await with
  | none => s
  | some (_, k) =>
    if k.serial ≠ some m.sn ∨ !(x.reqs.any fun q => q.seq == m.seq) then s
    else if (s.owner m.owner).full pid x.tok ∨ s.sliceLogFull ref then s.sendReply m 0 (.replyBusy m.origin m.seq)
    else if s.commitHeld sid k [ref] then s.pushOnce again
    else if s.meetsAt sid ref k then s.squashAwait sid
    else if k.slices.length = 1 then (s.commitAwait sid).push answer
    else (((s.acceptPrepare sid ref k).updOwner m.owner fun o => o.keepCommit pid x m.sn).logAnswer m).push answer

/-! ## The end of a chunk (R194, R332) -/

/-- A result that is visible before a chunk ends: one of fixed latency, or one with no source port. `reads` holds the
numbers of the chunk's reads. -/
def Flight.drains (f : Flight) (reads : List Nat) : Bool :=
  match f.pend with
  | .barrier .. => true
  | .xchg .. => true
  | .bytes (.vec _) _ => true
  | .bytes (.mask _) _ => true
  | .command => reads.contains f.seq
  | .none => (!f.port && !f.acts.isEmpty) || f.acts.any fun w => match w with | .pbit _ _ => true | _ => false
  | _ => false

/-- Whether a strand still issues empty bundles before its chunk ends. -/
def Strand.draining (x : Strand) : Bool := x.ctx.flights.any fun f => f.drains x.chunk.issued

/-- Whether a strand that drains its results stalls: at the end of a window, unless it first ends its open chunk to wait
there (R194). -/
def Strand.stallsDrain (x : Strand) : Bool :=
  match x.ctx.overdue with
  | none => false
  | some f => decide (x.chunk.len = 0 ∨ f.pend.state = .stalledLA) || f.drains x.chunk.issued

/-- Issue empty bundles until every such result is visible, or the strand stalls at the end of a window. Before a chunk's
first bundle they move its start with them. -/
def State.drain (s : State) (sid : Nat) : Nat → State
  | 0 => s
  | n + 1 =>
    let x := s.strand sid
    if !x.draining then s
    else if x.stallsDrain then s.stallIfOverdue sid
    else
      let y := x.bundleEnd
      (s.setStrand sid (if y.chunk.len = 0 then { y with start := y.ctx } else y)).drain sid n

/-- Stall at the end of a window, if the strand is in the rotation; before it enters a waiting state its open chunk ends
(R194). -/
def State.stallReady (s : State) (sid : Nat) : State :=
  let x := s.strand sid
  if x.st ≠ .ready then s
  else match x.ctx.overdue with
    | none => s
    | some f => if f.pend.state ≠ .stalledLA ∧ x.chunk.len ≠ 0 then s.setStrand sid { x with closes := true } else s.stallIfOverdue sid

/-- Whether a chunk holds a word that saves or loads a context: its strand waits until that is done (R267). -/
def Chunk.hasContextWord (k : Chunk) : Bool :=
  k.deferred.any fun d => match d with
    | .strand 0x0D _ _ _ _ => true
    | .strand 0x0E _ _ _ _ => true
    | _ => false

/-- The open chunk ends and awaits commit; one that touched no slice commits at once (R198). -/
def State.awaitCommit (s : State) (sid : Nat) : State :=
  let x := s.strand sid
  let k := x.chunk
  let far := k.farSlices sid != []
  let s1 := s.setStrand sid
    { x with
      await := some (x.start, { k with serial := if far then some x.sn else none }), start := x.ctx,
      chunk := { Chunk.empty with limit := s.nextLimit sid }, closes := false, endChunk := false }
  let s1 := if far then s1.useSerial sid else s1
  let s2 := if k.hasContextWord then s1.enterWait sid .stalledLA .context x.ceiling else s1
  let s3 := if k.slices = [] then s2.weirDecide sid else s2.pushOnce (.weirCommitRequest sid)
  s3.stallReady sid

/-- Whether a strand may not send the commit of a chunk to slices elsewhere, for it has no token (R219). -/
def State.tokenless (s : State) (sid : Nat) (k : Chunk) : Bool :=
  decide (k.farSlices sid ≠ []) && !s.replaying (ckOf sid) && decide ((s.strand sid).tok = 0)

/-- End the open chunk, or wait until it can end. -/
def State.tryEndChunk (s : State) (sid : Nat) : State :=
  let s1 := s.drain sid 64
  let x := s1.strand sid
  if x.draining then s1
  else if x.chunk.len = 0 then (s1.updStrand sid fun x => { x with closes := false }).stallReady sid
  else if x.await.isSome then s1.enterWait sid .stalledLA .chunkAwait 0
  else if s1.tokenless sid x.chunk then s1.freeze sid causeNoToken 0 x.start.pc x.start.second 0 []
  else if x.noSerial ∧ x.chunk.farSlices sid ≠ [] then s1.enterWait sid .stalledLA .serial 0
  else s1.awaitCommit sid

/-- CHUNK_LENGTH_REACHED (R194). -/
def execChunkLengthReached (sid : Nat) (s : State) : Res :=
  .next (
    let x := s.strand sid
    if x.st = .ready ∧ x.chunk.limit ≤ x.chunk.len then (s.setStrand sid { x with closes := true }).tryEndChunk sid else s)

/-- FIXED_RESULT_VISIBLE (R31): what can land lands. -/
def execFixedResultVisible (sid : Nat) (s : State) : Res := .next (s.updStrand sid Strand.land)

/-! ## The end of a bundle -/

/-- A bundle that did not issue: a wait leaves the context, the chunk and what its operands took (stream elements, `ce.c`
elements, logged times) as they were before it; a chunk that must end before it ends. -/
def State.finishHeld (s before : State) : State :=
  let sid := s.cur
  let x := s.me
  let b := before.me
  let s1 := { s.updCore (ckOf sid) fun c => { c with replay := (before.core (ckOf sid)).replay } with held := false }
  let back := fun (x : Strand) =>
    { x with ctx := b.ctx, chunk := b.chunk, buffered := b.buffered, elem := b.elem, popped := [], given := [], ceDone := b.ceDone, effIssue := false, prefixed := none, branch := none }
  if x.st.waits then
    match x.why with
    | .ninth _ => (s1.updStrand sid back).endOldest sid
    | _ => s1.updStrand sid back
  else if x.closes ∧ x.st = .ready then (s1.updStrand sid back).tryEndChunk sid
  else s1

/-- A strand as its bundle ends: results are counted and land, the place of the next bundle is known. -/
def Strand.ended (x : Strand) (next : BitVec 64 × Bool) : Strand :=
  let t := match x.branch with
    | some t => (t, false)
    | none => next
  let y := Strand.bundleEnd { x with ctx := { x.ctx with pc := t.1, second := t.2 } }
  { y with
    chunk := { y.chunk with len := y.chunk.len + 1 }, why := .none, bounded := false, popped := [], given := [], prefixed := none, branch := none, effIssue := false,
    carry := if y.waitFrom.isSome then y.carry else none }

/-- The serial of a chunk that commits as its bundle ends, where it touches slices elsewhere (R220). -/
def Strand.immediate (x : Strand) (sid : Nat) : Chunk :=
  { x.chunk with serial := if x.chunk.farSlices sid = [] then none else some x.sn }

/-- The chunk of a strand's own bundle commits as the bundle ends: the strand stands as in `y`, and takes a serial for it. -/
def State.commitOwn (s : State) (x y : Strand) : State :=
  let sid := s.cur
  let k := x.immediate sid
  let s1 := s.setStrand sid { y with farBusy := none, start := x.ctx, chunk := { Chunk.empty with limit := s.nextLimit sid }, closes := true, committed := x.committed + 1 }
  (if k.serial.isSome then s1.useSerial sid else s1).commitChunk sid x.start k

/-- The strand goes on after a chunk of its own bundle; one that saves or loads a context waits for it (R267). -/
def State.goOn (s : State) (sid : Nat) (k : Chunk) : State :=
  let s1 := if k.hasContextWord then s.enterWait sid .stalledLA .context (s.strand sid).ceiling else s
  if (s1.strand sid).st = .ready then s1.tryEndChunk sid else s1

/-- A slice elsewhere has no room for the chunk of a strand's own bundle: the request would be answered *busy*, so the bundle is
issued again in 2 µs, and after 512 µs the strand faults *owner busy* (R229). -/
def State.ownBusy (before : State) (sid : Nat) (k : Chunk) : State :=
  let x := before.strand sid
  let first := (x.farBusy.map Prod.fst).getD before.now
  if first + 512000 ≤ before.now then
    (before.updStrand sid fun x => { x with farBusy := none }).freeze sid causeOwnerBusy 0 x.ctx.pc x.ctx.second x.sn.toNat
      (leBytes 3 (lcoreOf ((k.farSlices sid).headD 0 * 4)))
  else
    (((before.updStrand sid fun x => { x with farBusy := some (first, before.now) }).askBoundary (ckOf sid)).enterWait sid .stalledLA .effect 0).pushOnce
      (.effectIssue sid)

/-- The chunk of the bundle that a strand has just issued commits with it, as `k` says, or the bundle is put back: it waits for a
serial, for a slice, or for room at one (R220, R228, R233). -/
def State.ownOr (s before : State) (sid : Nat) (k : State) : State :=
  let x := s.strand sid
  let again := (before.enterWait sid .stalledLA .effect 0).pushOnce (.effectIssue sid)
  if s.replaying (ckOf sid) then (if s.outOfTurn sid then again else k)
  else if x.chunk.farSlices sid ≠ [] ∧ x.noSerial then before.enterWait sid .stalledLA .serial 0
  else if s.commitHeld sid x.chunk (x.chunk.slices.map Prod.fst) then again
  else if s.commitBusy sid x.chunk then before.ownBusy sid x.chunk
  else k

/-- The bundle of an effect is a chunk of its own that is never squashed (R207); serial mode ends there (R205). -/
def State.finishEffect (s before : State) (x : Strand) : State := s.ownOr before s.cur ((s.commitOwn x x.endSerial).goOn s.cur x.chunk)

/-- Whether a chunk has met a translation that fails (R176). -/
def Strand.faultsLate (x : Strand) : Bool :=
  x.ctx.flights.any fun f => x.chunk.issued.contains f.seq && (match f.pend with | .walk (some _) _ => true | _ => false)

/-- A bundle of a serial run is over: its lines and vector registers count for the chunk that the run stands for, and the run ends where
that one would have ended (R205). -/
def Strand.serialNext (x : Strand) : Strand :=
  if x.closes ∨ x.serialLeft ≤ 1 then x.endSerial
  else
    let old := x.serialRun.getD ([], 0)
    { x with serialLeft := x.serialLeft - 1, serialRun := some (x.chunk.lines.foldl insertNat old.1, old.2 ||| x.chunk.vsaved) }

/-- In serial mode each bundle is a chunk that commits with its loads (R205); one that cannot is issued again later. -/
def State.finishSerial (s before : State) (x : Strand) : State :=
  let sid := s.cur
  let y := x.serialNext
  s.ownOr before sid (
    if x.faultsLate then (s.setStrand sid { y with closes := true }).tryEndChunk sid
    else (s.commitOwn x { y with squashes := 0 }).goOn sid x.chunk)

/-- A stepped strand is frozen again after its bundle, or in the wait that its bundle left it in, with which the step is over
(R278); a window that only awaits the place of its own effect is no such wait. `stepAt` is the number of its chunks that will have committed when the bundle's own has. -/
def State.pauseStep (s : State) (eff issued : Bool) : State :=
  let x := s.me
  if !x.stepping ∨ x.st = .idle ∨ x.st = .frozen ∨ x.st = .stopped then s
  else if !issued && (decide (x.st = .ready) || decide (x.st = .slip) || decide (x.why = .effect)) then s
  else
    let waits := x.st.waits && !(eff && x.effect.isSome && x.waitFrom.isNone)
    let k : BitVec 4 := if waits then 5 else if eff && decide (x.stepKind = 0) then 3 else x.stepKind
    s.setStrand s.cur
      { x with st := .frozen, frozenFrom := x.st, bound := s.boundLeft s.cur, bounded := false, stepKind := k, cspc := x.chunkStart,
               stepping := issued && !waits, stepAt := x.committed + (if x.await.isSome then 1 else 0) }

/-- One bundle of the strand `cur` is over; `before` is the state in which it was offered the slot. -/
def State.endBundle (s before : State) (next : BitVec 64 × Bool) : State :=
  if s.held then s.finishHeld before
  else
    let sid := s.cur
    let eff := s.me.effIssue
    let x : Strand := { s.me.ended next with readyFrom := none }
    let s := s.updCore (ckOf sid) fun c => { c with rot := strandNo sid, rotAt := some (s.cyc (ckOf sid)) }
    if (eff ∨ 0 < x.serialLeft) ∧ s.tokenless sid x.chunk then before.freeze sid causeNoToken 0 before.ctx.pc before.ctx.second 0 []
    else if eff then s.finishEffect before x
    else if 0 < x.serialLeft then s.finishSerial before x
    else
      let s1 := s.setStrand sid x
      if x.closes ∨ x.chunk.limit ≤ x.chunk.len ∨ x.stepping then (s1.updStrand sid fun x => { x with closes := true }).tryEndChunk sid
      else s1.stallReady sid

/-- One bundle is over, and a step with it. -/
def State.finishBundle (s before : State) (next : BitVec 64 × Bool) : State :=
  (s.endBundle before next).pauseStep s.me.effIssue (!s.held)

/-! ## Who is offered the slot (R254) -/

/-- Whether a strand's chunk awaiting commit ends with its own stop (R268): it issues nothing more. -/
def Strand.stopsItself (x : Strand) : Bool :=
  match x.await with
  | some (_, k) => k.deferred.any fun d => match d with | .selfStop _ => true | _ => false
  | none => false

/-- Whether a strand of a replaying core waits: for its turn, or for its own chunk to commit (R377). -/
def State.replayWaits (s : State) (sid : Nat) : Bool := s.replaying (ckOf sid) && (s.outOfTurn sid || (s.strand sid).await.isSome)

/-- Whether a strand can be offered the issue slot: it is ready, no stop of it is pending, it is resident, and its group is
not being moved (R254, R267, R376, R382). -/
def State.canIssue (s : State) (sid : Nat) : Bool :=
  let x := s.strand sid
  let c := s.core (ckOf sid)
  let g := s.group (gkOf (ckOf sid))
  decide (x.st = .ready) && !x.stopping && !x.stopsItself && !c.parked.contains (strandNo sid) && (g.entry.state == 0 || g.entry.state == 2) &&
    !c.fatal && !c.moving && !s.replayWaits sid

/-- The strand that a core offers the slot: the first after the one that issued last (R254). -/
def State.nextStrand (s : State) (ck : Nat) : Option Nat :=
  ((List.range 16).map fun i => sidOf ck (((s.core ck).rot + 1 + i) % 16)).find? s.canIssue

end Sys2Proof.Machine
end

