-- ==== Sys2Proof/Machine/Engine.lean ====
section
/-! DEFINITION. Pushes to the copy engine (R236-R244): the checks, the runs of bytes, the ranges of the scoreboard
and acceptance. What the engine then does is in Machine/EngineEvents.lean. -/

namespace Sys2Proof.Machine

/-- The command index (Table 9-6), the priority class and the five operands of a push. -/
structure CeArgs where
  op : Nat
  prio : Nat
  s : Reg
  d : Reg
  n : Reg
  b : Reg
  m : Reg
  deriving DecidableEq, Repr

/-- Why a push cannot be: a cause with its operand; or the runs it covers and its multicast targets. -/
inductive CePlan where
  | bad (cause : Nat) (a : Reg80)
  | ok (runs : List CeRun) (targets : List Nat)
  deriving DecidableEq, Repr

/-! ## The shape block of `copy2d` (Table 9-7) -/

/-- A signed stride. -/
def strideAt (b : List Byte) (o : Nat) : Int := (BitVec.ofNat 64 (fieldAt b o 8)).toInt

/-- Whether a shape block meets the rules of R240. -/
def shapeOk (b : List Byte) : Bool :=
  let run := fieldAt b 0 4
  let cs := [fieldAt b 4 4, fieldAt b 8 4, fieldAt b 12 4]
  decide (run % 8 = 0 ∧ 8 ≤ run ∧ run ≤ 2 ^ 20) && cs.all (fun c => c != 0) && decide (run * (cs.foldl (· * ·) 1) < 2 ^ 32)

/-- The runs of a shape: the first fastest in i1; a run whose pointer would wrap has none. -/
def shapeRuns (b : List Byte) (s d : Reg80) : List (Option CeRun) :=
  (List.range (fieldAt b 12 4)).flatMap fun (i3 : Nat) => (List.range (fieldAt b 8 4)).flatMap fun (i2 : Nat) => (List.range (fieldAt b 4 4)).map fun (i1 : Nat) =>
    let so := ((valOf s).toNat : Int) + i1 * strideAt b 16 + i2 * strideAt b 24 + i3 * strideAt b 32
    let dd := ((valOf d).toNat : Int) + i1 * strideAt b 40 + i2 * strideAt b 48 + i3 * strideAt b 56
    match pointerAt (tagOf s) so, pointerAt (tagOf d) dd with
    | some p, some q => some { src := p, dst := q, len := fieldAt b 0 4 }
    | _, _ => none

/-! ## Checks (R237) -/

/-- The cause with which a range of an engine command fails R169, if any; alignment is a check of its own. -/
def State.ceRangeBad (s : State) (a : Reg80) (n : Nat) (dest : Bool) : Option Nat :=
  let cls := classOf a
  if cls = 5 ∨ cls = 0x7F ∨ (cls = 4 ∧ dest) then some causeWindow
  else match s.checkAccess s.myCk (s.mode s.cur) a n 1 with
  | .bad c => some c
  | .ok _ => none

/-- The core that a class 0x05 handle names, with its qualifier and index (R179). -/
def State.handleAt (s : State) (a : Reg80) : Option (Nat × Nat × Nat) :=
  if classOf a = 5 ∧ offOf a < 2 ^ 35 then
    match s.coreOfBits (pidOf s.myCk) (offOf a) with
    | some ck => some (ck, qualOf a, offOf a % 2 ^ 20)
    | none => none
  else none

/-- Whether a destination is a reduction inbox (R250). -/
def isInboxDest (a : Reg80) : Bool := decide (classOf a = 5 ∧ qualOf a = 5)

/-- The barrier index that `ce.b` names (R244). -/
def barrierIndex (a : Reg80) : Option Nat := if classOf a = 5 ∧ qualOf a = 0 ∧ offOf a < 512 then some (offOf a) else none

/-- The targets of a multicast (R241). -/
def mcastTargets (c0 : Nat) (mask : BitVec 64) : List Nat :=
  ((List.range 64).filter fun m => mask.getLsbD m).map fun m => c0 + m

/-- Whether `n` bytes at a local offset may be written at a multicast target (R172). -/
def State.mcastBad (s : State) (off n : Nat) (ck : Nat) : Option Nat :=
  if ck = s.myCk then
    match s.checkLocal ck (decide (s.mode s.cur = .user)) off n with
    | .bad c => some c
    | .ok _ => none
  else if 2 ^ 20 < off + n ∨ !s.reachable (pidOf s.myCk) off n then some causeWindow
  else none

/-- Whether a pointer names a local offset of a base core, as a multicast needs (R241). -/
def mcastShape (d : Reg80) : Bool := decide (classOf d = 1 ∧ qualOf d = 0 ∧ offOf d < 2 ^ 35)

/-- The targets of a multicast that its partition has. -/
def State.mcastCores (s : State) (d : Reg80) (mask : BitVec 64) : List Nat :=
  match s.coreOfBits (pidOf s.myCk) (offOf d) with
  | some c0 => (mcastTargets c0 mask).filter fun ck => decide (lcoreOf ck < (s.partOf s.myCk).n)
  | none => []

/-- The cause with which the destination of a run fails, if any: a `copy` or `copyq` may name a reduction inbox, with index
0 (R250), and a `copyb` writes local stores (R244; of any other class the cause is *window*, DESIGN CHOICE, log 87); a multicast's destination is checked at each target (R241). -/
def State.ceDestBad (s : State) (op : Nat) (mask : BitVec 64) (d : Reg80) (n : Nat) : Option Nat :=
  let cls := classOf d
  if op = 2 ∧ mcastShape d then
    if (s.coreOfBits (pidOf s.myCk) (offOf d)).isNone then some causeWindow
    else (s.mcastCores d mask).findSome? (s.mcastBad (offOf d % 2 ^ 20) n)
  else if isInboxDest d ∧ (op = 0 ∨ op = 5) then
    match s.handleAt d with
    | some (_, _, i) => if i = 0 then none else some causeWindow
    | none => some causeWindow
  else if op = 6 ∧ ¬(cls = 0 ∨ cls = 1 ∨ cls = 2) then some causeWindow
  else s.ceRangeBad d n true

/-- Source bytes of a command for `n` destination bytes: half of them for `redb`. -/
def ceSrcLen (op n : Nat) : Nat := if op = 3 then n / 2 else n

/-- The window check of every run: its source, then its destination. -/
def State.runsBad (s : State) (op : Nat) (mask : BitVec 64) : List (Option CeRun) → Option (Nat × Reg80)
  | [] => none
  | none :: _ => some (causeWindow, 0)
  | some r :: rs =>
    match s.ceRangeBad r.src (ceSrcLen op r.len) false with
    | some c => some (c, r.src)
    | none =>
      match s.ceDestBad op mask r.dst r.len with
      | some c => some (c, r.dst)
      | none => s.runsBad op mask rs

/-- The alignment check of every run (R237). -/
def runsUnaligned (op : Nat) : List CeRun → Option (Nat × Reg80)
  | [] => none
  | r :: rs =>
    if offOf r.src % (if op = 3 then 4 else 8) ≠ 0 then some (causeMisaligned, r.src)
    else if offOf r.dst % 8 ≠ 0 then some (causeMisaligned, r.dst)
    else runsUnaligned op rs

/-- The handle rules of a push (R241, R243, R244, R250), with the runs in hand. -/
def State.ceHandles (s : State) (a : CeArgs) (runs : List CeRun) : CePlan :=
  let bad := CePlan.bad causeEngineOp
  match a.op with
  | 2 =>
    let ts := s.mcastCores a.d.v a.m.val
    if !mcastShape a.d.v then bad a.d.v
    else if a.m.val = 0 ∨ ts.length ≠ (mcastTargets 0 a.m.val).length then bad a.m.v
    else if a.b.v ≠ 0 ∧ (barrierIndex a.b.v).isNone then bad a.b.v
    else .ok runs ts
  | 5 =>
    match s.handleAt a.b.v with
    | some (ck, 1, i) =>
      if 16 ≤ i then bad a.b.v
      else if i = 15 ∧ s.mode s.cur ≠ .supervisor then .bad causePrivilege a.b.v
      else .ok runs [ck]
    | some (ck, 3, i) => if (s.queueAt ck 3 i).isSome then .ok runs [ck] else bad a.b.v
    | _ => bad a.b.v
  | 6 =>
    if (barrierIndex a.b.v).isNone then bad a.b.v else .ok runs []
  | _ => .ok runs []

/-- The plan of a push whose runs are known: windows first, then alignment, then handles (R237). -/
def State.runPlan (s : State) (a : CeArgs) (rs : List (Option CeRun)) : CePlan :=
  match s.runsBad a.op a.m.val rs with
  | some (c, p) => .bad c p
  | none =>
    match runsUnaligned a.op (rs.filterMap id) with
    | some (c, p) => .bad c p
    | none => s.ceHandles a (rs.filterMap id)

/-- The plan of a `copy2d`: where the shape block cannot be read or is not a shape, only the classes and the alignment of its
source and destination are checked before it (R237, R240; DEDUCED, log 55). -/
def State.shapePlan (s : State) (a : CeArgs) : CePlan :=
  let o := a.n.val.toNat
  let bare := s.runPlan a [some { src := a.s.v, dst := a.d.v, len := 0 }]
  let bad := fun (c : Nat) => match bare with
    | .bad c p => CePlan.bad c p
    | .ok _ _ => CePlan.bad c a.n.v
  if a.n.tag ≠ 0 ∨ o % 64 ≠ 0 then bad causeEngineOp
  else match s.checkLocal s.myCk (decide (s.mode s.cur = .user)) o 64 with
  | .bad c => bad c
  | .ok _ =>
    let b := memReadList s.mem (localFlat s.myCk o) 64
    if anyMarked s.poison (localFlat s.myCk o) 64 then .bad causePoison a.n.v
    else if !shapeOk b then bad causeEngineOp
    else s.runPlan a (shapeRuns b a.s.v a.d.v)

/-- The plan of a push: its runs and targets, or the first check that fails (R213, R237). -/
def State.cePlan (s : State) (a : CeArgs) : CePlan :=
  let n := a.n.val.toNat
  if a.s.p then .bad causePoison a.s.v
  else if a.d.p then .bad causePoison a.d.v
  else if a.b.p ∧ (a.op = 2 ∨ a.op = 5 ∨ a.op = 6) then .bad causePoison a.b.v
  else if a.op = 1 then (if a.n.p then .bad causePoison a.n.v else s.shapePlan a)
  else
    let rs := [some ({ src := a.s.v, dst := a.d.v, len := n } : CeRun)]
    match s.runsBad a.op a.m.val rs, runsUnaligned a.op (rs.filterMap id) with
    | some (c, p), _ => .bad c p
    | none, some (c, p) => .bad c p
    | none, none => if n % 8 ≠ 0 ∨ 2 ^ 32 ≤ n then .bad causeMisaligned a.n.v else s.ceHandles a (rs.filterMap id)

/-- Whether a push touches a set the task has declared (R296). -/
def State.ceSetBad (s : State) (op : Nat) (runs : List CeRun) (targets : List Nat) : Bool :=
  if s.me.sets.toList.all Option.isNone then false
  else
    let lines := fun (a : Reg80) (n : Nat) => s.coveredLines s.myCk a n
    let ls := (runs.flatMap fun r => lines r.src (ceSrcLen op r.len) ++ (if op = 2 then [] else lines r.dst r.len)) ++
      (if op = 2 then targets.flatMap fun ck => (runs.flatMap fun r => linesOf (localFlat ck (offOf r.dst % 2 ^ 20)) r.len) else [])
    s.me.sets.toList.any fun d => s.setCovers s.myCk d ls

/-! ## The range scoreboard and acceptance (R192, R238) -/

/-- The lines of the core's own store that a pointer names. -/
def State.ownLines (s : State) (a : Reg80) (n : Nat) : Option (Nat × Nat) :=
  let off := offOf a
  let mine := decide (classOf a = 0) || decide (classOf a = 1 ∧ qualOf a = 0 ∧ s.coreOfBits (pidOf s.myCk) off = some s.myCk)
  if mine ∧ n ≠ 0 then some ((off % 2 ^ 20) / 128, (off % 2 ^ 20 + n - 1) / 128) else none

/-- One range that covers some. DESIGN CHOICE: a command enters one range for each side, with the gaps between its runs; R192 does not
say whether runs are entered singly (log 82). -/
def coverRange (l : List (Nat × Nat)) (owner : Nat) : List Range :=
  match l with
  | [] => []
  | p :: r => [{ lo := r.foldl (fun m q => min m q.1) p.1, hi := r.foldl (fun m q => max m q.2) p.2, owner := owner }]

/-- The ranges a command holds: its source's and its destination's (R192). -/
def State.ceRanges (s : State) (op id : Nat) (runs : List CeRun) (targets : List Nat) : List Range :=
  coverRange (runs.filterMap fun r => s.ownLines r.src (ceSrcLen op r.len)) id ++
  (if op = 2 then
    (if targets.contains s.myCk then coverRange (runs.filterMap fun r => s.ownLines (make 0 (BitVec.ofNat 64 (offOf r.dst % 2 ^ 20))) r.len) id else [])
   else coverRange (runs.filterMap fun r => s.ownLines r.dst r.len) id)

/-- Whether the engine or the strand has no room for one more command (R236, R238). -/
def State.pushFull (s : State) : Bool :=
  decide (16 ≤ (s.core s.myCk).fifo.length) || decide (16 ≤ s.me.ceOut.length + s.me.ceDone.length)

/-- Why a push that is not accepted waits: for the engine, or for room in the range scoreboard alone. DEDUCED: R192 names the detail of
the second wait and R238 that of every wait of a push; the model takes R192's (log 88). -/
def State.pushWait (s : State) (a : CeArgs) (runs : List CeRun) (targets : List Nat) : Why :=
  let c := s.core s.myCk
  if !s.pushFull && decide (32 < c.ranges.length + (s.ceRanges a.op c.nextCmd runs targets).length) then .scoreboard else .engine

/-- Accept a command, if the FIFO, the strand's count and the scoreboard have room (R238). -/
def State.acceptPush (s : State) (a : CeArgs) (runs : List CeRun) (targets : List Nat) : Option State :=
  let c := s.core s.myCk
  let x := s.me
  let rs := s.ceRanges a.op c.nextCmd runs targets
  if s.pushFull ∨ 32 < c.ranges.length + rs.length then none
  else
    let cmd : CeCmd :=
      { id := c.nextCmd, sid := s.cur, num := x.ceCount + 1, op := a.op, prio := a.prio, s := a.s.v, d := a.d.v, n := a.n.v,
        b := a.b.v, m := a.m.v, mMark := a.m.p, runs := runs, targets := targets, started := false, total := 0, next := 0, acked := [],
        outstanding := [], cause := 0, poisoned := false, messaged := false, server := false, buf := [], pushSn := none }
    let s1 := s.updCore s.myCk fun c => { c with fifo := c.fifo ++ [cmd], nextCmd := c.nextCmd + 1, ranges := c.ranges ++ rs }
    some ((s1.updMe fun x => { x with ceCount := x.ceCount + 1, ceOut := x.ceOut ++ [cmd.id] }.stepped 1 (x.ceCount + 1)).pushOnce (.ceCommandStart s.myCk))

/-- The operand latches of the engine in the order of Table 9-6. -/
def ceLatches : List Latch := [.ceS, .ceD, .ceN, .ceB, .ceM]

/-- A push of command `op` in class `q`. -/
def cePush (h : Hdr) (op : Nat) (q : Fin 4) (s : State) : State :=
  guarded h s fun s =>
    let c := s.ctx
    let a : CeArgs := { op := op, prio := q.val, s := c.latch .ceS, d := c.latch .ceD, n := c.latch .ceN, b := c.latch .ceB, m := c.latch .ceM }
    effectGate s fun s =>
      match s.cePlan a with
      | .bad c p => if c = causePoison then s.faultPoison p else s.faultAddr c p
      | .ok runs ts =>
        if s.ceSetBad op runs ts then s.faultAddr causeSetConflict a.d.v
        else deferGate s Reg.zero [] ceLatches fun s =>
          match s.acceptPush a runs ts with
          | none => s.hold .stalledLA (s.pushWait a runs ts) s.me.ceiling
          | some s => s.consumeAll ceLatches

/-- CE_COPY (R240). -/
def execCeCopy (h : Hdr) (q : Fin 4) (s : State) : Res := .next (cePush h 0 q s)
/-- CE_COPY2D (R240). -/
def execCeCopy2d (h : Hdr) (q : Fin 4) (s : State) : Res := .next (cePush h 1 q s)
/-- CE_MCAST (R241). -/
def execCeMcast (h : Hdr) (q : Fin 4) (s : State) : Res := .next (cePush h 2 q s)
/-- CE_REDB (R242). -/
def execCeRedb (h : Hdr) (q : Fin 4) (s : State) : Res := .next (cePush h 3 q s)
/-- CE_REDF (R242). -/
def execCeRedf (h : Hdr) (q : Fin 4) (s : State) : Res := .next (cePush h 4 q s)
/-- CE_COPYQ (R243). -/
def execCeCopyq (h : Hdr) (q : Fin 4) (s : State) : Res := .next (cePush h 5 q s)
/-- CE_COPYB (R244). -/
def execCeCopyb (h : Hdr) (q : Fin 4) (s : State) : Res := .next (cePush h 6 q s)
/-- MOV_CE_S (R236). -/
def execMovCeS (h : Hdr) (c : CSrc) (s : State) : Res := .next (guarded h s fun s => readC s c fun r s => s.write (.latch .ceS r))
/-- MOV_CE_D (R236). -/
def execMovCeD (h : Hdr) (c : CSrc) (s : State) : Res := .next (guarded h s fun s => readC s c fun r s => s.write (.latch .ceD r))
/-- MOV_CE_N (R236). -/
def execMovCeN (h : Hdr) (c : CSrc) (s : State) : Res := .next (guarded h s fun s => readC s c fun r s => s.write (.latch .ceN r))
/-- MOV_CE_B (R236). -/
def execMovCeB (h : Hdr) (c : CSrc) (s : State) : Res := .next (guarded h s fun s => readC s c fun r s => s.write (.latch .ceB r))
/-- MOV_CE_M (R236). -/
def execMovCeM (h : Hdr) (c : CSrc) (s : State) : Res := .next (guarded h s fun s => readC s c fun r s => s.write (.latch .ceM r))

end Sys2Proof.Machine
end

