-- ==== Sys2Proof/Machine/LoadStore.lean ====
section
/-! DEFINITION. The `ls` triggers (Table 7-4, R182-R187) and the streams (R188-R191). -/

namespace Sys2Proof.Machine

/-! ## The system window (R326) -/

/-- A load from the system window: the word as it stands, with no signature. -/
def sysLoad (s : State) (la : BitVec 4) (op : Fin 8) (lane : Fin 4) (a : Reg80) (qq off : Nat) : State :=
  match s.sysRef (pidOf s.myCk) qq (off / 8 * 8) with
  | none => s.faultAddr causeWindow a
  | some r =>
    let s := s.senseSys r
    let d := ((leBytes 8 (s.sysRead r).toNat).drop (off % 8)).take (laneBytes op)
    (s.bump.launchVar .ls la (.bytes (.lane op lane) a) s.me.ceiling 17 true true ((LoadKind.lane op lane).writes s.ctx.pc a d false)).push
      (.variableResultLand s.cur s.me.seq)

/-- A store to the system window: checked at issue against the word as it reads, carried out at commit. -/
def sysStore (s : State) (a : Reg80) (qq off : Nat) (d : List Byte) : State :=
  match s.sysRef (pidOf s.myCk) qq (off / 8 * 8) with
  | none => s.faultAddr causeWindow a
  | some r =>
    let s := s.senseSys r
    match s.sysBad r (mergeWord (s.sysRead r) (off % 8) d) with
    | some c => if c = causeReserved then s.fault causeReserved 0 (leBytes 8 off) else s.faultAddr c a
    | none =>
      s.updMe fun x =>
        { x with chunk := { x.chunk with deferred := x.chunk.deferred ++
            [.sys { qq := qq, off := off, data := d, fpc := x.ctx.pc.toNat, second := s.second }] } }

/-! ## Loads and stores (R183, R184) -/

/-- A scalar load. -/
def loadScalar (h : Hdr) (la : BitVec 4) (op : Fin 8) (lane : Fin 4) (c : CSrc) (s : State) : State :=
  guarded h s fun s => readC s c fun a s => windowGate s 1 fun s =>
    let n := laneBytes op
    access s a n n false (decide (op.val ≠ 7)) fun acc s =>
      match acc with
      | .system qq off => sysLoad s la op lane a.v qq off
      | acc => loadOp s .ls la a.v n (.lane op lane) acc

/-- The bytes that a store of `n` bytes writes of `ls.d`: a 16-byte store writes the tag too (R184). -/
def storeBytes (n : Nat) (d : Reg) : List Byte :=
  if n = 16 then leBytes 8 d.val.toNat ++ leBytes 2 d.tag.toNat ++ List.replicate 6 (0 : Byte) else leBytes n d.val.toNat

/-- A scalar store of `n` bytes of a value. -/
def storeValue (s : State) (la : BitVec 4) (n : Nat) (a d : Reg) : State :=
  access s a n n true (decide (n ≠ 16)) fun acc s =>
    match acc with
    | .system qq off => (sysStore s a.v qq off (storeBytes n d)).consume .lsD
    | acc => (storeOp s .ls la a.v n (pieceOffs a.v n) (storeBytes n d) d.p a [] [.lsD] acc).consume .lsD

/-- A scalar store trigger. -/
def storeScalar (h : Hdr) (la : BitVec 4) (n : Nat) (c : CSrc) (s : State) : State :=
  guarded h s fun s => readC s c fun a s => storeValue s la n a (s.ctx.latch .lsD)

/-- LS_LD8S (R183). -/
def execLsLd8s (h : Hdr) (la : BitVec 4) (l : Fin 4) (c : CSrc) (s : State) : Res := .next (loadScalar h la 0 l c s)
/-- LS_LD8U (R183). -/
def execLsLd8u (h : Hdr) (la : BitVec 4) (l : Fin 4) (c : CSrc) (s : State) : Res := .next (loadScalar h la 1 l c s)
/-- LS_LD16S (R183). -/
def execLsLd16s (h : Hdr) (la : BitVec 4) (l : Fin 4) (c : CSrc) (s : State) : Res := .next (loadScalar h la 2 l c s)
/-- LS_LD16U (R183). -/
def execLsLd16u (h : Hdr) (la : BitVec 4) (l : Fin 4) (c : CSrc) (s : State) : Res := .next (loadScalar h la 3 l c s)
/-- LS_LD32S (R183). -/
def execLsLd32s (h : Hdr) (la : BitVec 4) (l : Fin 4) (c : CSrc) (s : State) : Res := .next (loadScalar h la 4 l c s)
/-- LS_LD32U (R183). -/
def execLsLd32u (h : Hdr) (la : BitVec 4) (l : Fin 4) (c : CSrc) (s : State) : Res := .next (loadScalar h la 5 l c s)
/-- LS_LD64 (R183). -/
def execLsLd64 (h : Hdr) (la : BitVec 4) (l : Fin 4) (c : CSrc) (s : State) : Res := .next (loadScalar h la 6 l c s)
/-- LS_LDP (R183). -/
def execLsLdp (h : Hdr) (la : BitVec 4) (l : Fin 4) (c : CSrc) (s : State) : Res := .next (loadScalar h la 7 l c s)
/-- LS_ST8 (R184). -/
def execLsSt8 (h : Hdr) (la : BitVec 4) (c : CSrc) (s : State) : Res := .next (storeScalar h la 1 c s)
/-- LS_ST16 (R184). -/
def execLsSt16 (h : Hdr) (la : BitVec 4) (c : CSrc) (s : State) : Res := .next (storeScalar h la 2 c s)
/-- LS_ST32 (R184). -/
def execLsSt32 (h : Hdr) (la : BitVec 4) (c : CSrc) (s : State) : Res := .next (storeScalar h la 4 c s)
/-- LS_ST64 (R184). -/
def execLsSt64 (h : Hdr) (la : BitVec 4) (c : CSrc) (s : State) : Res := .next (storeScalar h la 8 c s)
/-- LS_STP (R184). -/
def execLsStp (h : Hdr) (la : BitVec 4) (c : CSrc) (s : State) : Res := .next (storeScalar h la 16 c s)

/-- LS_PF (R187): a hint that fills the translation caches in the rim and replicated windows. -/
def execLsPf (h : Hdr) (c : CSrc) (s : State) : Res :=
  .next (guarded h s fun s => readC s c fun a s =>
    if (classOf a.v = 3 ∨ classOf a.v = 4) ∧ qualOf a.v = 0 ∧ offOf a.v < 2 ^ 55 then
      (s.translate s.myCk (offOf a.v) (decide (classOf a.v = 4)) false).2
    else s)

/-- MOV_LS_D (R184). -/
def execMovLsD (h : Hdr) (c : CSrc) (s : State) : Res := .next (guarded h s fun s => readC s c fun r s => s.write (.latch .lsD r))

/-! ## Streams -/

/-- The stream engines that a core's strands use, but for one name of the executing strand. -/
def State.enginesUsed (s : State) (j : Fin 8) : Nat :=
  ((coreStrands s.myCk).map fun sid =>
    ((List.finRange 8).filter fun (i : Fin 8) => (s.strand sid).ctx.binds[i].isSome && !(decide (sid = s.cur) && i == j)).length).sum

/-- Load an engine with a descriptor (R188). DESIGN CHOICE: where no engine is free and the descriptor breaks a rule, the detail is *no
engine* (log 83). -/
def bindStream (s : State) (j : Fin 8) (a : Reg80) (d : List Byte) (mark : Bool) : State :=
  if 8 ≤ s.enginesUsed j then s.faultStream 1 j
  else match bindingOf d with
  | none => s.faultStream 2 j
  | some b =>
    let s1 := if mark then s.setPe a else s
    ((s1.updCtx fun c => { c with binds := c.binds.set j (some b) }).updMe fun x => { x with buffered := x.buffered.set j 0 }).pushOnce
      (.streamElementArrival s.cur j)

/-- QS_BIND (R188). -/
def execQsBind (h : Hdr) (j : Fin 8) (c : CSrc) (s : State) : Res :=
  .next (guarded h s fun s => readC s c fun a s => accessWith s a 64 64 false false false fun acc s =>
    match acc with
    | .mem ps => let r := s.readPieces ps; bindStream r.2.2 j a.v r.1 r.2.1
    | .late c => s.faultAddr c a.v
    | .repl bs => let s := s.senseRepl s.myCk bs; let r := s.readRepl s.myCk bs; bindStream s j a.v r.1 r.2
    | .module m t offs => match s.me.elem with
      | some (i, d, p) => if i = j.val ∧ d.length = 64 then bindStream (s.updMe fun x => { x with elem := none }) j a.v d p else s.askElem j m t offs 64
      | none => s.askElem j m t offs 64
    | .system _ _ => s.faultAddr causeWindow a.v)

/-- QS_UNBIND (R191). -/
def execQsUnbind (h : Hdr) (j : Fin 8) (s : State) : Res :=
  .next (guarded h s fun s =>
    (s.updCtx fun c => { c with binds := c.binds.set j none }).updMe fun x => { x with buffered := x.buffered.set j 0, elem := none })

/-- QS_WRITE (R190). -/
def execQsWrite (h : Hdr) (j : Fin 8) (c : CSrc) (s : State) : Res :=
  .next (guarded h s fun s => readC s c fun r s => takePosition s j true 8 fun acc a s =>
    storeOp s .ls 0 a 8 (pieceOffs a 8) (leBytes 8 r.val.toNat) r.p r [{ v := a, p := false }] [] acc)

end Sys2Proof.Machine
end

