-- ==== Sys2Proof/Machine/SysRegs.lean ====
section
/-! DEFINITION. Writes of system registers (R322, Table 13-1), translation control (R334, R335) and `sr.ackfloor`
(R231). -/

namespace Sys2Proof.Machine

/-! ## Writes (R8, R322) -/

/-- A reserved-field fault of a register write. -/
def State.faultReg (s : State) (r : Nat) : State := s.fault causeReserved 0 [BitVec.ofNat 8 r]

/-- A value that breaks no limit is written; otherwise the register stays as it is. -/
def limited (s : State) (r : Nat) (ok : Bool) (k : State → State) : State := if ok then k s else s.faultReg r

/-- Whether `trp` may hold a value (Table 9-12). -/
def trpOk (w : BitVec 64) : Bool := decide (bitsAt w 62 41 = 0 ∧ bitsAt w 31 24 = 0) && (!w.getLsbD 63 || decide (bitsAt w 23 0 = 0))
/-- Whether `trc` may hold a value (Table 9-13). -/
def trcOk (w : BitVec 64) : Bool := decide (bitsAt w 31 24 = 0)

/-- A register write that lands as the bundle ends. -/
def State.writeSr (s : State) (r : Fin 21) (ok : Bool) (w : BitVec 64) : State := limited s r.val ok fun s => s.write (.sysw r w)

/-- The privilege check of a register write, before its source is read: some registers are the kernel's, and those that are not
listed here are read-only (R52, Table 13-1). -/
def srGate (s : State) (r : Fin 21) (k : State → State) : State :=
  match r.val with
  | 3 | 4 | 12 => k s
  | 5 | 6 | 7 | 8 | 9 | 10 | 14 | 20 => needKernel s k
  | _ => s.faultWord causePrivilege

/-- SR_WRITE (R322). -/
def execSrWrite (h : Hdr) (r : Fin 21) (c : CSrc) (s : State) : Res :=
  .next (guarded h s fun s => srGate s r fun s => readC s c fun a s =>
    let w := a.val
    match r.val with
    | 3 => s.writeSr r (wclOk w) w
    | 4 => s.writeSr r (chlOk w) w
    | 5 => s.writeSr r (decide (w.toNat < 2 ^ 40)) w
    | 6 => s.writeSr r (decide (w.toNat < 2 ^ 32)) w
    | 7 => s.writeSr r (decide (w.toNat < 2 ^ 32)) w
    | 8 => s.writeSr r true w
    | 9 => limited s 9 (trpOk w) fun s => s.updCore s.myCk fun c => { c with trp := w }
    | 10 => limited s 10 (trcOk w) fun s => s.updCore s.myCk fun c => { c with trc := w }
    | 12 => s.writeSr r (fxOk w) w
    | 14 => s.writeSr r (decide (w.toNat < 2 ^ 32)) w
    | 20 => limited s 20 (decide (w.toNat < 2 ^ 32)) fun s => s.updCore s.myCk fun c => { c with disc := BitVec.ofNat 32 w.toNat }
    | _ => s.faultWord causePrivilege)

/-- Let an armed alarm look at the time (R309). -/
def State.askAlarm (s : State) (sid : Nat) : State := s.pushOnce (.alarmFire sid)

/-- WRITE_ALARM (R309): the deadline is set and FIRED is clear. -/
def execWriteAlarm (h : Hdr) (c : CSrc) (s : State) : Res :=
  .next (guarded h s fun s => readC s c fun a s =>
    limited s 2 (!a.val.getLsbD 63) fun s => (s.write (.sysw 2 a.val)).askAlarm s.cur)

/-- WRITE_RNG (R79): zero is stored as 1. -/
def execWriteRng (h : Hdr) (c : CSrc) (s : State) : Res :=
  .next (guarded h s fun s => readC s c fun a s => s.write (.sysw 13 a.val))

/-- Whether `redpin` may hold a value (Table 9-11). -/
def redpinOk (w : BitVec 64) : Bool :=
  let e := bitsAt w 55 48
  let l := bitsAt w 39 32
  decide (bitsAt w 62 61 < 2 ∧ bitsAt w 60 56 = 0 ∧ bitsAt w 47 40 = 0 ∧ bitsAt w 31 20 = 0 ∧ bitsAt w 6 0 = 0) &&
    (!w.getLsbD 63 || decide (1 ≤ e ∧ e ≤ 64 ∧ 1 ≤ l ∧ l ≤ 128))

/-- The core's reduction server is configured (R250): EN keeps strand 15 in waiting-queue, and gives it back idle. -/
def State.setRedpin (s : State) (ck : Nat) (w : BitVec 64) : State :=
  let was := (s.core ck).serves
  let s1 := s.updCore ck fun c => { c with redpin := w }
  let sid := sidOf ck 15
  if w.getLsbD 63 then
    (if was then s1 else s1.updStrand sid fun x => { x with st := .waitQueue, why := .reduction, bound := 0, bounded := false }).pushOnce (.reductionTake ck)
  else if was then s1.updStrand sid fun x => { x with st := .idle, why := .none, bounded := false }
  else s1

/-- WRITE_REDPIN (R250). DESIGN CHOICE: a round counts as partly counted from its first contribution until it has ended, its sends up and
down with it (log 89). -/
def execWriteRedpin (h : Hdr) (c : CSrc) (s : State) : Res :=
  .next (guarded h s fun s => needKernel s fun s => readC s c fun a s =>
    let w := a.val
    let core := s.core s.myCk
    let idle := decide ((s.strand (sidOf s.myCk 15)).st = .idle)
    limited s 11 (redpinOk w) fun s =>
      if core.red.phase ≠ .idle ∨ (w.getLsbD 63 ∧ !core.serves ∧ !idle) then s.fault causeRedBusy 0 []
      else s.setRedpin s.myCk w)

/-! ## Translation control (R334, R335) -/

/-- A result of the `sr` unit that is known at issue, in flight under a window. -/
def State.srLocal (s : State) (la : BitVec 4) : State :=
  (s.launchVar .sr la .none 0 0 false false []).push (.variableResultLand s.cur s.me.seq)

/-- An invalidation sets out for every region of the partition. -/
def State.invalidate (s : State) (off : Option Nat) : State :=
  let pid := pidOf s.myCk
  let rks := s.partRegions pid
  rks.foldl (fun s rk => s.push (.tlbInvalidationArrival rk pid off (s.cur, s.me.seq))) (s.updMe fun x => { x with tlbinvOut := x.tlbinvOut ++ rks.map fun rk => (x.seq, rk) })

/-- SR_TLBINV (R334): after the strand's earlier chunks have committed. -/
def execSrTlbinv (h : Hdr) (la : BitVec 4) (c : CSrc) (s : State) : Res :=
  .next (guarded h s fun s => needKernel s fun s => readC s c fun a s =>
    let all := match c with
      | .imm _ => true
      | _ => false
    if !all && a.p then s.faultPoison a.v
    else if !all && decide (¬((classOf a.v = 3 ∨ classOf a.v = 4) ∧ qualOf a.v = 0)) then s.faultAddr causeWindow a.v
    else if s.me.chunk.len ≠ 0 then s.endFirst
    else if s.me.await.isSome then s.hold .stalledLA .chunkAwait 0
    else (s.invalidate (if all then none else some (offOf a.v + if classOf a.v = 4 then 2 ^ 64 else 0))).srLocal la)

/-- SR_PFENCE (R335). -/
def execSrPfence (h : Hdr) (la : BitVec 4) (s : State) : Res :=
  .next (guarded h s fun s => needKernel s fun s =>
    ((s.launchVar .sr la .pfence s.me.ceiling 16 false false []).push (.variableResultLand s.cur s.me.seq)).close)

/-! ## ackfloor (R230, R231) -/

/-- Send a floor notice to every owner of the partition that holds an entry of a token; the others have nothing to
retire. The token carries the partition above bit 40. -/
def State.floorToAll (s : State) (pid tok floor : Nat) : State :=
  let ws := (s.partGroups pid).map Owner.group ++ (List.range 24).map Owner.channel
  (ws.filter fun w => (s.owner w).cache.any fun e => decide (e.pid = pid ∧ e.tok.toNat = tok)).foldl
    (fun s w => s.push (.floorNotice w (pid * 2 ^ 40 + tok) floor)) s

/-- Whether none of `n` bytes of a core's store has changed since its last durable boundary. -/
def State.unchanged (s : State) (ck off n : Nat) : Bool :=
  let sent := match (s.group (gkOf ck)).boundary with
    | some b => (b.out.filter fun (p : Nat × Nat × List Byte × List Bool) => p.1 = seatOf ck).map fun (p : Nat × Nat × List Byte × List Bool) => p.2.1
    | none => []
  (linesOf off n).all fun l => !hasNat (s.core ck).changed l && !sent.contains l

/-- SR_ACKFLOOR (R231). -/
def execSrAckfloor (h : Hdr) (la : BitVec 4) (c : CSrc) (s : State) : Res :=
  .next (guarded h s fun s => needKernel s fun s => readC s c fun a s =>
    if a.p then s.faultPoison a.v
    else match s.checkAccess s.myCk (s.mode s.cur) a.v 8192 64 with
    | .bad c => s.faultAddr c a.v
    | .ok (.tile t off) =>
      if t ≠ s.myCk ∨ !s.privRange (pidOf s.myCk) off 8192 then s.faultAddr causeWindow a.v
      else if s.unchanged t off 8192 then
        let f := localFlat t off
        let tok := s.load (f + 5192) 8
        let sn := s.load (f + 5200) 4
        ((s.placeNum (some s.cur) (f + 5204) 4 sn false).floorToAll (pidOf t) tok sn).srLocal la
      else s.srLocal la
    | .ok _ => s.faultAddr causeWindow a.v)

end Sys2Proof.Machine
end

