-- ==== Sys2Proof/Machine/Done.lean ====
section
/-! DEFINITION. The end of a task: `sq.done` (R269) and the release of its deferred effects and sets (R301). -/

namespace Sys2Proof.Machine

/-! ## Deferred entries (Table 11-7) -/

/-- Where deferred entry `k` of a task's undo log lies. -/
def State.deferredEntry (s : State) (ck i k : Nat) : Nat :=
  let u := s.undoAt ck i
  u + 64 + 144 * s.load (u + 4) 4 + 96 * k

/-- Place `p` of the entry at `e`: 0 the source, 1 on what the trigger consumed, each with its mark (R212, log 93). -/
def State.entryReg (s : State) (e p : Nat) : Reg :=
  { v := ptrAt (memReadList s.mem e 96) (16 + 10 * p), p := hasNat s.deferMarks (e + 16 + 10 * p) }

/-- The atomic of a trigger's DP, with whether it returns nothing. -/
def atOfDp (dp : Nat) : Option (AtOp × Bool) :=
  match dp with
  | 0 => some (.add32, false)
  | 1 => some (.add64, false)
  | 2 => some (.fadd32, false)
  | 3 => some (.fadd16b, false)
  | 4 => some (.min32, false)
  | 5 => some (.max32, false)
  | 6 => some (.minu32, false)
  | 7 => some (.maxu32, false)
  | 8 => some (.and64, false)
  | 9 => some (.or64, false)
  | 10 => some (.xor64, false)
  | 11 => some (.swp64, false)
  | 12 => some (.cas64, false)
  | 13 => some (.finc, false)
  | 14 => some (.add32, true)
  | 15 => some (.add64, true)
  | 16 => some (.fadd32, true)
  | 17 => some (.fadd16b, true)
  | _ => none

/-- A deferred scalar or stream store. -/
def releaseStore (s : State) (n : Nat) (a d : Reg) : State :=
  access s a n n true false fun acc s => farStore s .ls 0 n (storeBytes n d) d.p acc

/-- A deferred vector or mask store: its bytes are those of the register as it stands. -/
def releaseVector (s : State) (dp : Nat) (a : Reg) : State :=
  let v := s.ctx.v[(Fin.ofNat 8 dp)]
  let w := (etOf s.ctx.vt).w / 8
  if dp / 8 = 1 then access s a 512 128 true false fun acc s => farStore s .vm 0 512 v.bytes v.p acc
  else if dp / 8 = 3 then accessElems s a false (strided s a) w true fun acc s => farStore s .vm 0 w v.bytes v.p acc
  else if dp / 8 = 5 then accessElems s a false (indexed s a) w true fun acc s => farStore s .vm 0 w v.bytes v.p acc
  else
    let k := s.ctx.k[(Fin.ofNat 4 (dp - 0x35))]
    access s a 128 128 true false fun acc s => farStore s .vm 0 128 k.bytes k.p acc

/-- A deferred push to the engine: it waits until it can be accepted (R301). -/
def releasePush (s : State) (dp b : Nat) : State :=
  let a : CeArgs := { op := dp / 4, prio := dp % 4, s := s.entryReg b 1, d := s.entryReg b 2, n := s.entryReg b 3, b := s.entryReg b 4, m := s.entryReg b 5 }
  match s.cePlan a with
  | .bad c p => s.faultAddr c p
  | .ok runs ts => match s.acceptPush a runs ts with
    | none => s.hold .stalledLA .engine s.me.ceiling
    | some s => s

/-- A deferred queue, launch or dependency operation. -/
def releaseQueue (s : State) (dp b : Nat) : State :=
  let a := s.entryReg b 0
  match dp with
  | 0 => queueGate s a true fun ck q i s => pushIssue s 0 ck q i (s.entryReg b 1)
  | 0x0B => spawnHeader s a fun hdr s => spawnIssue s 0 hdr
  | _ => match s.taskHandle (pidOf s.myCk) a.v with
    | none => s.faultAddr causeTask a.v
    | some (ck, i) => decIssue s 0 ck i

/-- A deferred arrival. -/
def releaseArrive (s : State) (dp b : Nat) : State :=
  barrierGate s (s.entryReg b 0) false fun ck i s =>
    arriveIssue s 0 ck i (if dp = 2 then some ((s.entryReg b 2).val.toNat % 2 ^ 32) else none)

/-- A deferred effect is issued, under a fresh serial (R301). -/
def releaseEntry (s : State) (b : Nat) : State :=
  let w := s.load b 4
  let du := (w / 2 ^ 18) % 16
  let dp := (w / 2 ^ 12) % 64
  let a := s.entryReg b 0
  match du with
  | 4 => releaseVector s dp a
  | 6 => releaseStore s (if dp = 0x20 then 1 else if dp = 0x21 then 2 else if dp = 0x22 then 4 else if dp = 0x23 then 8 else 16) a (s.entryReg b 1)
  | 7 => match atOfDp dp with
    | some (op, red) => access s a (atSize op) (atSize op) true false fun acc s => atIssue s 0 op red a (s.entryReg b 1) (s.entryReg b 2) false acc
    | none => s
  | 8 => releasePush s dp b
  | 9 => releaseQueue s dp b
  | 10 => releaseArrive s dp b
  | _ => releaseStore s 8 (s.entryReg b 1) a

/-! ## Sets -/

/-- The home of a set that a strand has declared. -/
def State.setHome (s : State) (sid : Nat) (n : Fin 8) : Owner :=
  match (s.strand sid).sets[n] with
  | some d => ownerOfLine ((s.setLines (ckOf sid) d).headD 0)
  | none => .group (gkOf (ckOf sid))

/-- The sets of a task are released at their homes, and SETS is clear (R297, R301). -/
def State.releaseSets (s : State) (sid i : Nat) : State :=
  let held := s.heldSets sid
  if held = 0 then s
  else
    ((List.finRange 8).foldl (fun (s : State) (n : Fin 8) =>
      if held.testBit n.val then s.push (.setRelease (s.setHome sid n) (ckOf sid) (i, s.stampOf (ckOf sid) i) n) else s) s).setRec (ckOf sid) i 27 1 0

/-! ## sq.done -/

/-- A strand is idle, with nothing bound to it. -/
def Strand.toIdle (x : Strand) : Strand :=
  let f := fun (c : Ctx) => { c with binds := Vector.replicate 8 none, flights := [] }
  { x with
    ctx := f x.ctx, start := f x.start, chunk := Chunk.empty, await := none, effect := none, waitFrom := none, st := .idle, recorded := .idle, why := .none,
    bounded := false, stopping := false, prefixed := none, branch := none, effIssue := false, closes := false, task := none,
    mons := Vector.replicate 4 Monitor.off, sets := Vector.replicate 8 none, asking := [], ceDone := [], ceOut := [],
    buffered := Vector.replicate 8 0, elem := none, popped := [], given := [], carry := none, tryReply := none, waitLog := [], farBusy := none, serialLeft := 0,
    serialRun := none, killing := false, wounded := false,
    donePhase := 0, alarm := 0, sgoWake := false, stepAsked := false }

/-- A strand gives its lease and its task's token back and is idle (R269, R330); the token of a strand that creation started stays
(R258). -/
def State.idleStrand (s : State) (sid : Nat) : State :=
  let ck := ckOf sid
  let x := s.strand sid
  let s1 := ((s.freeLeaseOf sid).dropRequests sid).updStrand sid Strand.toIdle
  if x.task.isNone then s1
  else ((s1.returnToken ck { token := x.tok, sn := x.sn, floor := x.floor }).serveStash ck).updStrand sid fun y => { y with tok := 0 }

/-- The last steps: the lease, the token and the record are given back, and the strand is idle (R269). -/
def State.finishTask (s : State) (sid i : Nat) : State :=
  ((((s.releaseSets sid i).idleStrand sid).freeRec (ckOf sid) i).noteDone sid).retry (ckOf sid)

/-- An element of `ce.c` that ended in error (Table 9-9). -/
def ceFailed (e : BitVec 64 × Bool) : Bool := decide (bitsAt e.1 23 16 ≠ 0)

/-- The release of the deferred effects, one after the other, and then the end of the task (R301). -/
def State.endTask (s : State) (i : Nat) : State :=
  let ck := s.myCk
  let n := s.recField ck i 30 2
  let x := s.me
  if x.effect.isSome ∨ x.reqs ≠ [] then s.hold .stalledLA .done 0
  else if 0 < n then
    let s1 := releaseEntry s (s.deferredEntry ck i x.donePhase)
    if s1.held then s1
    else (((s1.setRec ck i 30 2 (n - 1)).updMe fun x => { x with donePhase := x.donePhase + 1 }).hold .stalledLA .done 0).pushOnce (.effectIssue s.cur)
  else if x.ceOut ≠ [] then s.hold .stalledLA .engine x.ceiling
  else { s.finishTask s.cur i with held := true }

/-- SQ_DONE (R269). -/
def execSqDone (h : Hdr) (s : State) : Res :=
  .next (guarded h s fun s =>
    match s.me.task with
    | none => s.faultAddr causeNoTask 0
    | some i =>
      if s.recState s.myCk i = recEnding then s.endTask i
      else fenceGate s .fence fun s =>
        if s.me.ceOut ≠ [] then s.hold .stalledLA .engine s.me.ceiling
        else match s.me.ceDone.find? ceFailed with
        | some e => s.fault causeEngine 0 (leBytes 8 e.1.toNat)
        | none => ((s.setRecState s.myCk i recEnding).updMe fun x => { x with donePhase := 0 }).endTask i)

end Sys2Proof.Machine
end

