-- ==== Sys2Proof/Machine/StrandEvents.lean ====
section
/-! DEFINITION. Events of one strand: results of variable latency (R34), page walks (R176), waits and their expiry (R257),
held bundles (R207, R214, R238), stream elements (R189), words that act on another strand (R270), alarms (R309), remote
queue tries (R288), steps (R278) and fault packets (R327). -/

namespace Sys2Proof.Machine

/-! ## Results -/

/-- Whether a request of a number is outstanding. -/
def Strand.asks (x : Strand) (seq : Nat) : Bool := x.reqs.any fun q => q.seq == seq

/-- `at.tok` takes the stash's oldest record (R221). -/
def State.tryToken (s : State) (sid seq : Nat) : State :=
  match s.takeToken sid with
  | none => s.askToken (ckOf sid)
  | some (t, s1) =>
    s1.arrive sid seq
      [.latch .atR (mk0 (t.token.setWidth 64) false), .sysw 5 (t.token.setWidth 64), .sysw 6 (t.sn.setWidth 64), .sysw 7 (t.floor.setWidth 64)]

/-- Whether the bound of a strand's wait has passed; a cause that comes in the same cycle wakes the strand, and both are
reported (R256, R318). -/
def State.boundOver (s : State) (sid : Nat) : Bool :=
  let x := s.strand sid
  x.bounded && decide (x.since + x.bound ≤ s.cyc (ckOf sid))

/-- Whether a load's bytes lie in another core that is being migrated: the request is held there (R408). -/
def State.readHeld (s : State) (ck : Nat) (a : Reg80) : Bool :=
  (((s.flatPieces ck a 1).getD []).headD (2 ^ 60, 0)).1 |> fun p => isLocalFlat p && ckOfFlat p != ck && (s.core (ckOfFlat p)).moving

/-- A result lands if what it waits for is there. -/
def State.landResult (s : State) (sid seq : Nat) : State :=
  let x := s.strand sid
  match x.flight seq with
  | none => if x.effect = some seq ∧ !x.asks seq then s.arrive sid seq [] else s
  | some f =>
    if f.arrived then s
    else match f.pend with
    | .none => if x.asks seq then s else s.arrive sid seq []
    | .bytes _ a => if x.asks seq then s else if s.readHeld (ckOf sid) a then s.pushOnce (.variableResultLand sid seq) else s.arrive sid seq []
    | .token => s.tryToken sid seq
    | .barrier _ _ _ => s.tryBarrier sid f
    | .monitor => s.tryMonitor sid f (decide (x.syl ≠ 0) && s.boundOver sid)
    | .queue _ _ _ _ _ _ => s.tryQueue sid f
    | .pfence => if x.tlbinvOut.all fun p => decide (seq < p.1) then s.arrive sid seq [] else s
    | _ => s

/-- VARIABLE_RESULT_LAND (R34). -/
def execVariableResultLand (sid seq : Nat) (s : State) : Res := .next (s.landResult sid seq)

/-- A walk is over: it delivers its bytes, or a late fault that names the access. -/
def State.endWalk (s : State) (sid seq : Nat) : State :=
  match (s.strand sid).flight seq with
  | some f =>
    match f.pend with
    | .walk (some c) a => if f.arrived then s else s.freezeLate sid seq c 0 f.pc f.second 0 (addrBytes a)
    | _ => s.landResult sid seq
  | none => s.landResult sid seq

/-- The page that a result in flight waits for, with its partition and window. -/
def walkPage (pid : Nat) (f : Flight) : Option Nat :=
  match f.pend with
  | .walk _ a => some (pid * 2 ^ 40 + offOf a / 65536 * 2 + (if classOf a = 4 then 1 else 0))
  | .bytes _ a => some (pid * 2 ^ 40 + offOf a / 65536 * 2 + (if classOf a = 4 then 1 else 0))
  | _ => none

/-- The walker reads the entries of a walk for a core, and finds what is disturbed in their lines (R357, R361). -/
def State.senseWalk (s : State) (ck off : Nat) : State :=
  let pid := pidOf ck
  let look := fun (s : State) (base i : Nat) => s.senseAll (some ck) (rimFlat (base + 8 * i)) 8
  let s1 := look s (s.part pid).ptroot (off / 2 ^ 42)
  let e1 := s1.pte (s.part pid).ptroot (off / 2 ^ 42)
  if !e1.bit 0 ∨ e1.bit 1 then s1
  else
    let s2 := look s1 e1.addr ((off / 2 ^ 29) % 2 ^ 13)
    let e2 := s2.pte e1.addr ((off / 2 ^ 29) % 2 ^ 13)
    if !e2.bit 0 ∨ e2.bit 1 then s2 else look s2 e2.addr ((off / 65536) % 2 ^ 13)

/-- TRANSLATION_WALK (R176, R177): a walk takes one of the walker's 64 places, which walks of one page share, or waits for one; then it
delivers. An access that a translation cache answers goes the same way (log 61). -/
def execTranslationWalk (sid seq : Nat) (s : State) : Res :=
  .next (
    let rk := s.rkOf (ckOf sid)
    let ws := (s.region rk).walks
    let mine := fun (w : Nat × Nat × Nat) => w.1 == sid && w.2.1 == seq
    let done := s.updRegion rk fun r => { r with walks := r.walks.filter fun w => !mine w }
    match ((s.strand sid).flight seq).bind (walkPage (pidOf (ckOf sid))) with
    | none => done.endWalk sid seq
    | some p =>
      if ws.any mine then (done.senseWalk (ckOf sid) (p % 2 ^ 40 / 2 * 65536)).endWalk sid seq
      else
        let pages := (ws.map fun w => w.2.2).eraseDups
        (if pages.contains p ∨ pages.length < 64 then s.updRegion rk fun r => { r with walks := r.walks ++ [(sid, seq, p)] } else s).pushOnce
          (.translationWalk sid seq))

/-! ## Held bundles -/

/-- Wake a strand that is out of the rotation for a reason. -/
def State.wakeIf (s : State) (sid : Nat) (why : Why) : State := if (s.strand sid).why = why then s.wake sid else s

/-- CE_PUSH_ACCEPT (R238): a push that waits tests its conditions again. -/
def execCePushAccept (sid : Nat) (s : State) : Res := .next (s.wakeIf sid .engine)
/-- EFFECT_ISSUE (R207): an effect that waits tests its conditions again; one whose chunk met a full cache, in 2 µs (R229). -/
def execEffectIssue (sid : Nat) (s : State) : Res :=
  .next (if ((s.strand sid).farBusy.any fun p => decide (s.now < p.2 + 2000)) && decide ((s.strand sid).why = .effect) then s.pushOnce (.effectIssue sid)
    else (s.wakeIf sid .effect).wakeIf sid .done)
/-- FENCE_CHECK (R214): a fence that waits tests its conditions again; when they hold it issues, and a pending error
faults. -/
def execFenceCheck (sid : Nat) (s : State) : Res := .next (s.wakeIf sid .fence)

/-- The elements of 8 bytes that an engine's buffer holds. -/
def streamDepth : Nat := 512

/-- STREAM_ELEMENT_ARRIVAL (R189). -/
def execStreamElementArrival (sid : Nat) (j : Fin 8) (s : State) : Res :=
  .next (
    let x := s.strand sid
    match x.ctx.binds[j] with
    | none => s.wakeIf sid (.stream j)
    | some _ => (s.setStrand sid { x with buffered := x.buffered.set j (min streamDepth (x.buffered[j] + 1)) }).wakeIf sid (.stream j))

/-! ## Expiry of a bound (R257) -/

/-- Detail and data of the expiry of a wait for a result (Table 13-6). -/
def State.flightExpiry (s : State) (sid : Nat) (f : Flight) : Nat × List Byte :=
  let ck := ckOf sid
  let n := strandNo sid
  let g := (s.group (gkOf ck)).data
  match f.pend with
  | .lease _ => (1, [])
  | .xchg .. => (2, [BitVec.ofNat 8 (seatMask ((g.xchg.find n).getD []))])
  | .gbar => (11, [BitVec.ofNat 8 (seatMask ((g.gbar.find n).getD []))])
  | .barrier _ i _ => (9, leBytes 8 (s.barrier ck i).status.toNat)
  | .queue _ h _ _ _ _ =>
    let q := match s.queueHandle (pidOf ck) h with
      | some (c, ql, i) => if s.queueHome c ql i = ck then ((s.queueAt c ql i).map fun (q : Queue) => (q.head.toNat, q.tail.toNat)).getD (0, 0) else (s.strand sid).queueSeen
      | none => (0, 0)
    (12, addrBytes h ++ leBytes 4 q.1 ++ leBytes 4 q.2)
  | .monitor => (10, [])
  | .token => (6, [])
  | .pfence => (16, [])
  | .command => (17, leBytes 4 f.word.toNat ++ leBytes 10 0)
  | .bytes _ a => (17, leBytes 4 f.word.toNat ++ addrBytes a)
  | .walk _ a => (17, leBytes 4 f.word.toNat ++ addrBytes a)
  | _ => (f.detail, leBytes 4 f.word.toNat)

/-- Detail and data of the expiry of any other wait. -/
def State.heldExpiry (s : State) (sid : Nat) : Nat × List Byte :=
  let x := s.strand sid
  match x.why with
  | .fence => (5, leBytes 4 x.outstanding)
  | .scoreboard => (4, [])
  | .token => (6, [])
  | .engine => (7, [])
  | .completion => (8, [])
  | .stream _ => (3, [])
  | .set _ => (13, [])
  | .context => (15, [])
  | .reduction => (14, [BitVec.ofNat 8 (s.core (ckOf sid)).red.taken])
  | _ => (17, [])

/-- A strand whose wait for a lease expired no longer asks for it (R148). -/
def State.dropLeaseRequest (s : State) (sid seq : Nat) : State :=
  s.updData (gkOf (ckOf sid)) fun g => { g with requests := g.requests.filter fun q => decide (q.1 ≠ sid ∨ q.2.1 ≠ seq) }

/-- Whether the try of a remote queue that is on its way has succeeded at its owner: it has its place in the order, and the wait
ends with its answer (R288). -/
def State.tryTaken (s : State) (sid : Nat) : Bool :=
  let x := s.strand sid
  match x.waitedFlight with
  | some f => (match f.pend with
    | .queue _ _ _ _ _ _ => (x.reqs.filter fun q => q.seq == f.seq).any fun q =>
        ((s.owner q.msg.owner).entryOf (pidOf (ckOf sid)) q.msg.tok q.msg.sn).any fun e => decide (e.kind = .result ∧ e.reply.code ≠ qEmpty ∧ e.reply.code ≠ qFull)
    | _ => false)
  | none => false

/-- A try of a remote queue that has not succeeded is withdrawn at the expiry of the bound, so that nothing is popped or pushed
afterwards (R288; DEDUCED, log 53). -/
def State.dropTry (s : State) (sid seq : Nat) : State :=
  let mine := fun (e : Instr) => match e with
    | .remoteEffectMessage m => decide (m.origin = .strand sid ∧ m.seq = seq)
    | _ => false
  let ws := ((s.strand sid).reqs.filter fun q => q.seq == seq).map fun q => q.msg.owner
  let s1 := (s.keepEvents fun e => !mine e).updStrand sid fun x => { x with reqs := x.reqs.filter fun q => q.seq != seq }
  ws.foldl (fun s w => match w with
    | .group gk => s.updGroup gk fun g => { g with held := g.held.filter fun e => !mine e }
    | _ => s) s1

/-- The wait of a strand for a result expires: `sy.mwait` with `sy.l` wakes, any other faults. DESIGN CHOICE (log 50): the lease flight stays in flight when its request is withdrawn at the limit, so a strand resumed after the fault waits for a lease again with no request (R148). -/
def State.expireFlight (s : State) (sid : Nat) (f : Flight) : State :=
  let x := s.strand sid
  let isMonitor := match f.pend with | .monitor => true | _ => false
  if isMonitor && decide (x.syl ≠ 0) then s.tryMonitor sid f true
  else
    let e := s.flightExpiry sid f
    let s1 := match f.pend with
      | .lease _ => s.dropLeaseRequest sid f.seq
      | .queue _ _ _ _ _ _ => s.dropTry sid f.seq
      | _ => s
    s1.freezeLate sid f.seq causeWait e.1 f.pc f.second 0 e.2

/-- A strand's word that waits to act on another strand is given up (R267). -/
def State.dropControl (s : State) (sid : Nat) : State :=
  match (s.strand sid).ctl with
  | [] => s
  | _ :: r =>
    let s1 := s.updStrand sid fun x => { x with ctl := r, saving := none }
    ((s1.updCore (ckOf sid) fun c => { c with ranges := c.ranges.filter fun q => decide (q.owner ≠ 2 ^ 60 + sid) }).retry (ckOf sid)).askCommit sid

/-- The bound of a strand's wait has passed. -/
def State.expire (s : State) (sid : Nat) : State :=
  let x := s.strand sid
  match x.waitedFlight with
  | some f => s.expireFlight sid f
  | none =>
    let e := s.heldExpiry sid
    if x.why = .context then
      match x.ctl with
      | w :: _ => (s.dropControl sid).freeze sid causeWait 15 w.fpc w.second 0 []
      | [] => s.wake sid
    else
      let s2 := s.freeze sid causeWait e.1 x.ctx.pc x.ctx.second 0 e.2
      match x.why with
      | .set _ => s2.updStrand sid fun y => { y with asking := [] }
      | _ => s2

/-- WAIT_EXPIRED (R257). -/
def execWaitExpired (sid : Nat) (s : State) : Res :=
  .next (
    let x := s.strand sid
    if !x.st.waits ∨ !x.bounded then s
    else if s.cyc (ckOf sid) < x.since + x.bound ∨ s.tryTaken sid ∨ s.wakeDue sid then s.pushOnce (.waitExpired sid)
    else s.expire sid)

/-! ## Tries of a remote queue (R288) -/

/-- QUEUE_RETRY (R288): 2 µs after an EMPTY or FULL answer the try is made again. -/
def execQueueRetry (sid : Nat) (s : State) : Res :=
  .next (
    let x := s.strand sid
    match x.ctx.flights.find? fun f => !f.arrived && (match f.pend with | .queue _ _ _ _ _ _ => true | _ => false) with
    | none => s
    | some f =>
      if x.asks f.seq then s
      else if s.now < x.retryAt ∨ x.tok = 0 ∨ x.distance ≥ 2 ^ 31 - 2 ^ 16 then s.pushOnce (.queueRetry sid)
      else match f.pend with
      | .queue push h v mark user claim =>
        match s.queueHandle (pidOf (ckOf sid)) h with
        | some (ck, q, i) =>
          s.sendRemote sid (s.queueOwner ck q i) (tryOp ck q i push v mark user (claim.map fun j => (ckOf sid, j))) f.seq f.pc f.second
        | none => s
      | _ => s)

/-! ## The alarm (R309) -/

/-- ALARM_FIRE (R309): shared time has reached DEADLINE; FIRED is set and DEADLINE is kept. -/
def execAlarmFire (sid : Nat) (s : State) : Res :=
  .next (
    let x := s.strand sid
    let d := bitsAt x.alarm 62 0
    if x.alarm.getLsbD 63 ∨ d = 0 then s
    else if s.regionTime (s.rkOf (ckOf sid)) < d then s.pushOnce (.alarmFire sid)
    else (s.setStrand sid { x with alarm := x.alarm ||| BitVec.ofNat 64 (2 ^ 63) }).pokeMonitor sid)

/-! ## Words that act on another strand (R266, R267, R270) -/

/-- A committed word whose requirement is not met faults late. -/
def State.controlFault (s : State) (sid : Nat) (w : CtlWord) : State :=
  (s.dropControl sid).freeze sid causeStrand 0 w.fpc w.second 0 (addrBytes w.w)

/-- A word has acted; the strand that waited for it goes on when it was the last. -/
def State.controlDone (s : State) (sid : Nat) : State :=
  let s1 := s.dropControl sid
  if (s1.strand sid).ctl = [] then s1.wakeIf sid .context else s1

/-- `ct.sgo` acts (R266). -/
def State.actSgo (s : State) (sid : Nat) (w : CtlWord) : State :=
  let v := (valOf w.w).toNat
  let ck := ckOf sid
  let t := sidOf ck (v % 16)
  let y := s.strand t
  if v.testBit 4 then
    let i := v / 2 ^ 16
    if y.st = .idle ∧ s.recState ck i = recReady ∧ s.recField ck i 52 4 = 0 then (s.controlDone sid).startTask t i
    else s.controlFault sid w
  else
    let s1 := s.controlDone sid
    if y.st = .stopped ∧ !y.wounded ∧ !y.killing then s1.reenter t y.recorded
    else if y.st = .waitMonitor then (s1.updStrand t fun y => { y with sgoWake := true }).pokeMonitor t
    else s1

/-- A strand that has been saved: nothing is bound to it any more. -/
def Strand.saved (x : Strand) : Strand := { x.toIdle with tok := 0 }

/-- The place of an image: its local offset and its strand. -/
def imageWord (w : Reg80) : Nat × Nat := ((valOf w).toNat / 256 * 256, (valOf w).toNat / 16 % 16)

/-- Hold an image's 8 KiB in the range scoreboard (R192, R267). -/
def State.holdImage (s : State) (sid o : Nat) : State :=
  s.updCore (ckOf sid) fun c => { c with ranges := c.ranges ++ [{ lo := o / 128, hi := (o + 8191) / 128, owner := 2 ^ 60 + sid }] }

/-- The image that a save writes: every armed monitor is recorded as fired. -/
def State.savedImage (s : State) (t : Nat) : List Byte :=
  (s.updStrand t fun y => { y with mons := y.mons.map fun m => { m with fired := m.armed } }).image t

/-- A save whose conditions hold: the image is written, and the strand is idle (R267). -/
def State.finishSave (s : State) (sid t o : Nat) : State :=
  let ck := ckOf sid
  let s := s.senseStrand t
  let task := (s.strand t).task
  let s1 := s.place none { addr := localFlat ck o, data := s.savedImage t, mark := false }
  let s1 := s1.updCore ck fun c => { c with tmSeen := max c.tmSeen (s.strand t).lastTm }
  let s2 := ((s1.freeLeaseOf t).dropRequests t).updStrand t Strand.saved
  let s3 := match task with
    | some i => (s2.setRecState ck i recSaved).setRec ck i 52 4 o
    | none => s2
  s3.controlDone sid

/-- Whether array commands of a strand have still to be carried out. -/
def State.hasJobs (s : State) (t : Nat) : Bool :=
  let g := s.group (gkOf (ckOf t))
  (g.arriving ++ g.queue).any fun j => j.sid == t

/-- `ct.ssave` acts (R267, R333). -/
def State.actSave (s : State) (sid : Nat) (w : CtlWord) : State :=
  let (o, n) := imageWord w.w
  let t := sidOf (ckOf sid) n
  let y := s.strand t
  let again := s.pushOnce (.strandControlAct sid)
  if (s.strand sid).saving.isNone then
    if !(decide (y.st = .stopped) || y.stopping) then s.controlFault sid w
    else if 32 ≤ (s.core (ckOf sid)).ranges.length then again
    else ((s.holdImage sid o).updStrand sid fun x => { x with saving := some (false, t, o) }).pushOnce (.strandControlAct sid)
  else if y.st = .frozen then s.controlFault sid w
  else if y.st ≠ .stopped ∨ y.ceOut ≠ [] ∨ y.reqs ≠ [] ∨ y.await.isSome ∨ y.effect.isSome ∨ s.hasJobs t then again
  else s.finishSave sid t o

/-- A load whose conditions hold: the strand takes on the image and is stopped (R267); a lease or an identity that the image still waits
for is asked for again. -/
def State.finishLoad (s : State) (sid t : Nat) (b : List Byte) : State :=
  let s := s.parkedWakes t
  let ck := ckOf sid
  let i := fieldAt b 7936 2
  let y := s.strand t
  let fs := imageFlights b y.seq (256 * fieldAt b 5212 4)
  let z := (y.ofImage b fs)
  let s1 := s.setStrand t
    { z with
      st := .stopped, recorded := (SState.ofCode (fieldAt b 7938 1)).getD .ready, why := if z.tok = 0 then .token else .none, task := some i,
      mons := s.imageMons ck b, ceDone := imageDone b, closes := false, endChunk := false, serialLeft := 0, serialRun := none, waitLog := [], farBusy := none, lastTm := (s.core ck).tmSeen }
  let s2 := (s1.setRec ck i 52 4 0).setRecState ck i recRunning
  let s3 := fs.foldl (fun s f =>
    if f.arrived then s
    else match f.pend with
      | .lease n => s.requestLease t f.seq n
      | _ => s.push (.variableResultLand t f.seq)) s2
  (if z.alarm ≠ 0 then s3.pushOnce (.alarmFire t) else s3).controlDone sid

/-- `ct.sload` acts (R267). -/
def State.actLoad (s : State) (sid : Nat) (w : CtlWord) : State :=
  let (o, n) := imageWord w.w
  let ck := ckOf sid
  let t := sidOf ck n
  if (s.core ck).rangeHeld (o / 128) ((o + 8191) / 128) then s.pushOnce (.strandControlAct sid)
  else
    let s := s.senseAll (some ck) (localFlat ck o) 8192
    let b := memReadList s.mem (localFlat ck o) 8192
    let i := fieldAt b 7936 2
    if (s.strand t).st ≠ .idle ∨ (s.partOf ck).t ≤ i ∨ s.recState ck i ≠ recSaved ∨ !(fieldAt b 7939 1).testBit 1 ∨ !imageOk b then s.controlFault sid w
    else s.finishLoad sid t b

/-- A strand's oldest committed word acts. -/
def State.actControl (s : State) (sid : Nat) (w : CtlWord) : State :=
  match w.dp with
  | 0x0B => (s.controlDone sid).stop (sidOf (ckOf sid) ((valOf w.w).toNat % 16))
  | 0x0C => s.actSgo sid w
  | 0x0D => s.actSave sid w
  | 0x0E => s.actLoad sid w
  | _ =>
    let s1 := s.controlDone sid
    match s.imagePtr (pidOf (ckOf sid)) w.w with
    | some t => if (s.strand t).killing then s1 else s1.resume t
    | none => s1

/-- STRAND_CONTROL_ACT (R270). -/
def execStrandControlAct (sid : Nat) (s : State) : Res :=
  .next (match (s.strand sid).ctl with
    | [] => s.wakeIf sid .context
    | w :: _ =>
      let s1 := s.actControl sid w
      if (s1.strand sid).ctl = [] then s1 else s1.pushOnce (.strandControlAct sid))

/-! ## The debug window's commands (R278, R330) -/

/-- DEBUG_RESUME (R330). -/
def execDebugResume (sid : Nat) (e : Bool) (s : State) : Res :=
  .next (s.debugCommand sid (if e then 0x81 else 1))

/-- A frozen strand runs until one bundle of it has issued. -/
def State.beginStep (s : State) (sid : Nat) : State :=
  let s1 := (s.updStrand sid fun x => { x with stepping := true }).resume sid
  if (s1.strand sid).st = .stopped then s1.updStrand sid fun x => { x with stepping := false }
  else s1.pushOnce (.debugStep sid)

/-- DEBUG_STEP (R278): one bundle, a chunk of its own; it is over when its effect has its place, and a squash issues it
again. -/
def execDebugStep (sid : Nat) (s : State) : Res :=
  .next (
    let x := s.strand sid
    if x.killing then s
    else if !x.stepping then
      let y := { x with stepAsked := false }
      if x.stepAsked ∧ x.st = .frozen then (s.setStrand sid { y with stepKind := 0, stepVal := 0 }).beginStep sid else s.setStrand sid y
    else if x.st ≠ .frozen ∨ x.await.isSome ∨ x.effect.isSome then s.pushOnce (.debugStep sid)
    else if x.committed < x.stepAt then s.beginStep sid
    else s.setStrand sid { x with stepping := false })

/-! ## The system window (R326, R364) -/

/-- SYSTEM_WINDOW_STORE (R326): a committed store to the system window. -/
def execSystemWindowStore (sid : Nat) (st : SysStore) (s : State) : Res := .next (s.commitSys sid st)
/-- WRITE_FAULT_RING_BASE (R327). -/
def execWriteFaultRingBase (sid rk : Nat) (w : BitVec 64) (s : State) : Res :=
  .next (if s.ringOk rk w then s.setRing rk w else s.freeze sid causeReserved 0 (s.strand sid).ctx.pc false 0 (leBytes 8 (rk * 2 ^ 20 + 0x810)))
/-- ERROR_FCLR (R364). -/
def execErrorFclr (u : ErrUnit) (s : State) : Res := .next (s.clearFilter u)
/-- ERROR_CCLR (R364). -/
def execErrorCclr (u : ErrUnit) (s : State) : Res := .next (s.clearCounts u)

/-! ## Fault packets (R327) -/

/-- The place of a region's ring header, and its size in packets; none before the supervisor has written it. -/
def State.ringOf (s : State) (pid rk : Nat) : Option (Nat × Nat) :=
  let w := (s.region rk).ringBase
  if w = 0 then none else some (localFlat (s.supCore pid rk) (bitsAt w 19 6 * 64), bitsAt w 42 32)

/-- The region writes in its supervisor core's fault ring; the core's log holds the write. -/
def State.ringWrite (s : State) (sup a : Nat) (b : List Byte) : State :=
  (s.place none { addr := a, data := b, mark := false }).logHardware sup
    (.deliver { core := 0, cmd := 0, line := 0, addr := a, data := b, marks := [], add := false, count := none })

/-- Deliver the oldest waiting packets while the ring has room: a packet and its TAIL update are one write. -/
def State.deliverPackets (s : State) (pid rk : Nat) : Nat → State
  | 0 => s
  | n + 1 =>
    match (s.region rk).waiting, s.ringOf pid rk with
    | b :: r, some (h, f) =>
      let tail := s.load h 4
      let head := s.load (h + 8) 4
      let sup := s.supCore pid rk
      if f ≤ (tail + 2 ^ 32 - head) % 2 ^ 32 ∨ s.coreHeld sup then s.pushOnce (.faultRingDeliver pid rk)
      else
        let s1 := s.updRegion rk fun x => { x with waiting := r }
        ((s1.ringWrite sup (h + 64 + 64 * (tail % f)) b).ringWrite sup h (leBytes 4 (tail + 1))).deliverPackets pid rk n
    | _, _ => s

/-- FAULT_RING_DELIVER (R327). -/
def execFaultRingDeliver (pid rk : Nat) (s : State) : Res := .next (s.deliverPackets pid rk (s.region rk).waiting.length)

end Sys2Proof.Machine
end

