-- ==== Sys2Proof/Machine/ClockEvents.lean ====
section
/-! DEFINITION. Events of clocks and links: droop stretches (R304), shared time and its reference (R308), ageing (R316,
R317), flits that cross a region boundary (R310) and CRC errors (R358). -/

namespace Sys2Proof.Machine

/-! ## Region oscillators -/

/-- DROOP_STRETCH (R304, R306): the period lengthens, and the stretch is counted. -/
def execDroopStretch (rk : Nat) (s : State) : Res :=
  .next ((s.updRegion rk fun r => { r with stretched := true, stretches := r.stretches + 1 }).pushOnce (.supplyRecovery rk))

/-- SUPPLY_RECOVERY (R304): within 64 cycles the period is 1 / FMAX again. -/
def execSupplyRecovery (rk : Nat) (s : State) : Res :=
  .next (s.updRegion rk fun r => { r with stretched := false, calm := r.cyc + 64 })

/-! ## Shared time (R308) -/

/-- TIME_REFERENCE_PULSE (R308): the region corrects its copy of shared time, which slews (Region.slew); the next pulse marks the time
1 µs later. -/
def execTimeReferencePulse (rk t : Nat) (s : State) : Res :=
  .next (
    if s.now < t then s.pushOnce (.timeReferencePulse rk t)
    else
      ((s.updRegion rk fun r => { r with pulse := s.now, lost := false }).pushOnce (.timeReferencePulse rk (t + 1000))).pushOnce (.timeReferenceLost rk))

/-- TIME_REFERENCE_LOST (R308): after 64 µs without a pulse the supervisor is told, once. -/
def execTimeReferenceLost (rk : Nat) (s : State) : Res :=
  .next (
    let r := s.region rk
    if r.lost then s
    else if s.now < r.pulse + 64000 then s.pushOnce (.timeReferenceLost rk)
    else
      let s1 := s.updRegion rk fun r => { r with lost := true }
      match r.pid with
      | some pid => s1.report 0x41 0 (s.supCore pid rk) [BitVec.ofNat 8 rk]
      | none => s1)

/-! ## Ageing (R316, R317) -/

/-- The birth count of a group's oscillator (Table 1-4). -/
def State.birthCount (s : State) (rk g : Nat) : Nat := fieldAt (s.fusedOf rk) (32 + 2 * g) 2

/-- Of two drifts, each as a loss and the birth count it is measured against, the larger. -/
def worseDrift (a b : Nat × Nat) : Nat × Nat := if a.1 * b.2 < b.1 * a.2 then b else a

/-- The largest drift over the live groups of a region. -/
def State.worstDrift (s : State) (rk : Nat) (counts : List Nat) : Nat × Nat :=
  ((List.range 36).filter fun g => (s.region rk).live.getLsbD g).foldl
    (fun d g => let b := s.birthCount rk g; if b = 0 then d else worseDrift d (b - counts.getD g b, b)) (0, 1)

/-- The target clock that a drift allows. -/
def clockFor (d : Nat × Nat) : Nat := max 800 (1600 - 50 * ceilDiv (100 * d.1 - 4 * d.2) d.2)

/-- The ageing of a region is measured: DRIFT, and FMAX, which never rises while a partition holds the region. -/
def State.measureAgeing (s : State) (rk : Nat) (counts : List Nat) : State :=
  let d := s.worstDrift rk counts
  let r := s.region rk
  let f := if r.pid.isSome then min r.fmax (clockFor d) else clockFor d
  let drift := min 255 (1000 * d.1 / d.2)
  let s1 := s.setRegion rk { r with drift := drift, fmax := f }
  match r.pid with
  | some pid => if f < r.fmax then s1.report 0x42 0 (s.supCore pid rk) ([BitVec.ofNat 8 rk, BitVec.ofNat 8 drift] ++ leBytes 2 f) else s1
  | none => s1

/-- The counts of a region's oscillators, where the controller measures them itself (R316; log 11). -/
def State.ageCounts (s : State) (rk : Nat) : List Nat := (List.range 36).map fun g => Config.ageCount s.steps (rk * 36 + g)

/-- A group is live when its matrix array, its router and at least four of its positions pass the self-test (R16). -/
def groupPasses (t : RegionTest) (g : Nat) : Bool :=
  t.arrays.getLsbD g && t.routers.getLsbD g &&
    decide (4 ≤ (List.range 5).countP fun p => t.positions.getLsbD (5 * g + p))

/-- The live groups of a region by a self-test (R16). -/
def testedLive (t : RegionTest) : BitVec 36 :=
  (List.range 36).foldl (fun m g => if groupPasses t g then m ||| BitVec.twoPow 36 g else m) 0

/-- What a self-test finds enters the region: what is live (R16), which unreachable groups have a path again (R383). -/
def Region.tested (r : Region) (t : RegionTest) : Region :=
  { r with live := testedLive t, livepos := t.positions, unreach := r.unreach.filter fun g => !(testedLive t).getLsbD g,
           outGroups := r.outGroups ++ r.unreach.filter fun g => (testedLive t).getLsbD g && !r.outGroups.contains g }

/-- SELF_TEST (R16, R316): what is live, and the ageing of each region. -/
def execSelfTest (rep : SelfTestReport) (s : State) : Res :=
  .next (rep.regions.foldl (fun s t => (s.updRegion t.region fun r => r.tested t).measureAgeing t.region t.counts) s)

/-! ## Links -/

/-- The sender's next flit sets out unless the receiver has raised stop, which it does while 6 or more flits are held; the flits on
their way never exceed the places left of the 8 (R310). -/
def Link.send (l : Link) (now : Nat) : Link :=
  match l.waiting with
  | [] => l
  | f :: rest =>
    if l.held.length < 6 ∧ l.held.length + l.wire.length < 8 then { l with waiting := rest, wire := l.wire ++ [{ f with since := now }] } else l

/-- The flit that has been longest on its way enters the FIFO. -/
def Link.arrive (l : Link) : Link :=
  match l.wire with
  | [] => l
  | f :: rest => { l with wire := rest, held := l.held ++ [f] }

/-- The oldest flit of the FIFO, where it has been 4 cycles of the receiving region since it was sent. -/
def Link.ripe (l : Link) (now : Nat) : Option Flit :=
  match l.held with
  | f :: _ => if f.since + 4 ≤ now then some f else none
  | [] => none

/-- The receiving region takes a flit; with its last flit a message is across: it enters the next link of its way, or arrives. -/
def State.takeFlit (s : State) (link : Nat) (f : Flit) : State :=
  let l := s.link link
  let s1 : State := { s with links := s.links.put link { l with held := l.held.drop 1 } }
  if f.last then s1.enter f.onward f.bytes f.msg else s1

/-- Whether no flit uses a link or waits for it. -/
def Link.empty (l : Link) : Bool := l.waiting.isEmpty && l.wire.isEmpty && l.held.isEmpty

/-- One move of a link: a flit is sent, one arrives in the FIFO, or the receiver takes the oldest (R310). -/
def State.moveLink (s : State) (link c : Nat) : State :=
  let l := s.link link
  let now := s.linkCycle link
  if c % 3 = 0 then { s with links := s.links.put link (l.send now) }
  else if c % 3 = 1 then { s with links := s.links.put link l.arrive }
  else match l.ripe now with
    | some f => s.takeFlit link f
    | none => s

/-- BOUNDARY_FLIT_CROSSING (R310): the flits of a link move on, in the order sent; which move is next is free (log 3). -/
def execBoundaryFlitCrossing (link : Nat) (s : State) : Res :=
  .next (
    let s1 := s.bump.moveLink link (Config.choice s.fresh)
    if (s1.link link).empty then s1 else s1.pushOnce (.boundaryFlitCrossing link))

/-- LINK_FLIT_CRC_ERROR (R358): the flit is not taken, and is sent again; nothing that software sees changes. -/
def execLinkFlitCrcError (_ : Nat) (s : State) : Res := .next s

end Sys2Proof.Machine
end

