-- ==== Sys2Proof/Machine/TaskEvents.lean ====
section
/-! DEFINITION. Lock tables and wounds (R296-R299), the expansion of launches (R261), stages and their governor (R293), and
the end of a killed task (R330). -/

namespace Sys2Proof.Machine

/-! ## Lock tables (R297) -/

/-- Whether the task of one request is older than that of another: the smaller (AGE, TOKEN). -/
def reqOlder (a b : SetReq) : Bool := decide (a.age < b.age) || (decide (a.age = b.age) && decide (a.token < b.token))

/-- Whether a request is that of the task with an age stamp in a record. -/
def requestOf (q : SetReq) (ck i : Nat) (st : Nat × Nat) : Bool := q.core == ck && q.record == i && q.age == st.1 && q.token == st.2

/-- Whether two requests are of one task. -/
def sameTask (a b : SetReq) : Bool := requestOf a b.core b.record (b.age, b.token)

/-- Whether two requests are for the same set of one task. -/
def sameSet (a b : SetReq) : Bool := sameTask a b && a.set == b.set

/-- The home of a request's set: the core, or the rim channel, that owns its base line (R295). -/
def setHomeKey (q : SetReq) : Nat :=
  let l := q.lines.headD 0
  if l < 2 ^ 45 then l / 2 ^ 13 else 2 ^ 45 + channelOfFlat (l * 128)

/-- Whether two requests of one partition with the same home cover a common line (R297). -/
def reqOverlaps (a b : SetReq) : Bool :=
  pidOf a.core == pidOf b.core && setHomeKey a == setHomeKey b && a.lines.any fun l => b.lines.contains l

/-- The held sets of a lock table. -/
def OwnerData.heldReqs (o : OwnerData) : List SetReq := o.locks.map Prod.snd

/-- The entries of other tasks that overlap a request. -/
def OwnerData.holders (o : OwnerData) (q : SetReq) : List SetReq := o.heldReqs.filter fun h => reqOverlaps h q && !sameTask h q

/-- The entries of a lock table. -/
def lockTable : Nat := 512

/-- The outcomes of a decision. -/
inductive SetVerdict where
  | granted | waits | busy
  deriving DecidableEq, Repr

/-- Whether a lock table's word to a task's strand leaves: a replaying owner tells only its own group again (R377). -/
def State.speaks (s : State) (w : Owner) (ck : Nat) : Bool :=
  match w with
  | .group gk => (s.group gk).recovery.isNone || gkOf ck == gk
  | _ => true

/-- A set is granted. -/
def State.grantSet (s : State) (w : Owner) (q : SetReq) : State := if s.speaks w (ckOf q.sid) then s.push (.setGrant q.sid q.set) else s

/-- A younger holder is wounded. -/
def State.woundHolder (s : State) (w : Owner) (h : SetReq) : State := if s.speaks w h.core then s.pushOnce (.woundRollback h.core (h.record, h.age, h.token)) else s

/-- A lock table decides a request: it grants it, or the request waits, and holders that are all younger are wounded. -/
def State.decideSet (s : State) (w : Owner) (q : SetReq) : SetVerdict × State :=
  let s := s.senseOwner w 7
  let o := s.owner w
  let others := o.waiters.filter fun p => !sameSet p q
  if o.heldReqs.any fun h => sameSet h q then (.granted, (s.updOwner w fun o => { o with waiters := others }).grantSet w q)
  else match o.holders q with
  | [] =>
    match (List.range lockTable).find? fun e => (o.locks.find e).isNone with
    | none => (.busy, s)
    | some e => (.granted, (s.updOwner w fun o => { o with locks := o.locks.put e q, waiters := others }).grantSet w q)
  | hs =>
    let s1 := s.updOwner w fun o => { o with waiters := others ++ [q] }
    if hs.all fun h => reqOlder q h then (.waits, hs.foldl (fun s h => s.woundHolder w h) s1)
    else (.waits, s1)

/-- SET_ACQUIRE_REQUEST (R297): a request of the home core itself; a full table makes it ask again. -/
def execSetAcquireRequest (q : SetReq) (s : State) : Res :=
  .next (
    let r := s.decideSet q.home q
    if r.1 = .busy then s.pushOnce (.setAcquireRequest q) else r.2)

/-- Insert a request among others, the older first. -/
def byAge : List SetReq → SetReq → List SetReq
  | [], q => [q]
  | h :: r, q => if reqOlder q h then q :: h :: r else h :: byAge r q

/-- Every waiting request of a lock table is decided again, the oldest first. -/
def State.redecide (s : State) (w : Owner) : State :=
  ((s.owner w).waiters.foldl byAge []).foldl (fun s q => (s.decideSet w q).2) s

/-- A set of a task is released at its home. -/
def State.releaseAt (s : State) (w : Owner) (ck rec_ : Nat) (st : Nat × Nat) (n : Fin 8) : State :=
  (s.updOwner w fun o => { o with locks := o.locks.filter fun h => !(requestOf h.2 ck rec_ st && h.2.set == n) }).redecide w

/-- The core of a lock table at which the entry of a set stands. -/
def State.lockCore (s : State) (w : Owner) (ck rec_ : Nat) (st : Nat × Nat) (n : Fin 8) : Option Nat :=
  ((s.owner w).heldReqs.find? fun h => requestOf h ck rec_ st && h.set == n).bind fun h =>
    if h.lines.headD (2 ^ 45) < 2 ^ 45 then some (h.lines.headD 0 / 2 ^ 13) else none

/-- A set is released, unless the core that holds the entry takes nothing now; that core logs it. -/
def State.releaseSet (s : State) (w : Owner) (ck rec_ : Nat) (st : Nat × Nat) (n : Fin 8) : State :=
  match s.lockCore w ck rec_ st n with
  | some c => if s.coreHeld c then s.pushOnce (.setRelease w ck (rec_, st) n) else (s.releaseAt w ck rec_ st n).logHardware c (.release w ck rec_ st n)
  | none => s.releaseAt w ck rec_ st n

/-- SET_RELEASE (R297). -/
def execSetRelease (w : Owner) (ck : Nat) (run : Nat × Nat × Nat) (n : Fin 8) (s : State) : Res := .next (s.releaseSet w ck run.1 run.2 n)

/-- SET_GRANT (R296): SETS takes the set's bit and the strand performs its access; a task that no longer asks gives the set
back. -/
def execSetGrant (sid : Nat) (n : Fin 8) (s : State) : Res :=
  .next (
    let x := s.strand sid
    if s.coreHeld (ckOf sid) then s.pushOnce (.setGrant sid n)
    else match x.asking.find? fun q => q.set == n with
    | some q =>
      let s1 := s.setRec q.core q.record 27 1 (s.recSets q.core q.record ||| 2 ^ n.val)
      (s1.updStrand sid fun y => { y with asking := y.asking.filter fun p => p.set != n }).wakeIf sid (.set n)
    | none =>
      match x.task with
      | some i => if (s.recSets (ckOf sid) i).testBit n.val then s else s.push (.setRelease (s.setHome sid n) (ckOf sid) (i, s.stampOf (ckOf sid) i) n)
      | none => s)

/-! ## Rolling a task back (R298) -/

/-- The owners in which a partition's tasks may hold sets. -/
def State.lockOwners (s : State) (pid : Nat) : List Owner := (s.partGroups pid).map Owner.group ++ (List.range 24).map Owner.channel

/-- The sets that a task holds, each with its home. -/
def State.locksOf (s : State) (ck i : Nat) : List (Owner × Fin 8) :=
  let st := s.stampOf ck i
  (s.lockOwners (pidOf ck)).flatMap fun w => ((s.owner w).heldReqs.filter fun q => requestOf q ck i st).map fun q => (w, q.set)

/-- Everything that a task holds or asks for is given back (R298). -/
def State.dropSets (s : State) (ck i : Nat) : State :=
  let st := s.stampOf ck i
  let s1 := (s.lockOwners (pidOf ck)).foldl (fun s w =>
    if (s.owner w).waiters.any (fun q => requestOf q ck i st) then s.updOwner w fun o => { o with waiters := o.waiters.filter fun q => !requestOf q ck i st } else s) s
  (s.locksOf ck i).foldl (fun s p => s.releaseSet p.1 ck i st p.2) s1

/-- One line entry of an undo log is written back through its pointer. -/
def State.writeBack (s : State) (ck i e : Nat) : State :=
  let b := memReadList s.mem (s.undoAt ck i + 64 + 144 * e) 144
  match s.flatPieces ck (ptrAt b 0) 128 with
  | some ps => (ps.foldl (fun (p : State × List Byte) q => (p.1.place none { addr := q.1, data := p.2.take q.2, mark := false }, p.2.drop q.2)) (s, b.drop 16)).1
  | none => s

/-- Steps 3 and 4: the log is written back in reverse order, the sets are given back and the deferred effects discarded. -/
def State.takeBack (s : State) (ck i : Nat) : State :=
  let u := s.undoAt ck i
  let s1 := ((List.range (s.load u 4)).reverse).foldl (fun s e => s.writeBack ck i e) s
  ((s1.placeNum none u 4 0 false).dropSets ck i).setRec ck i 30 2 0

/-- The task holds no set any more. -/
def State.rollback (s : State) (ck i : Nat) : State := (s.takeBack ck i).setRec ck i 27 1 0

/-- Step 5: the identity is kept in the undo log's header. -/
def State.keepIdentity (s : State) (ck i : Nat) (sn floor : Nat) : State :=
  let u := s.undoAt ck i
  (s.placeNum none (u + 16) 4 sn false).placeNum none (u + 20) 4 floor false

/-- The strand that runs a task. -/
def State.runner (s : State) (ck i : Nat) : Option Nat := (coreStrands ck).find? fun sid => (s.strand sid).task == some i

/-- A running task starts again on its strand, from ENTRY; a frozen strand stays frozen until it is resumed. -/
def State.restartTask (s : State) (sid i : Nat) : State :=
  let x := s.strand sid
  let frozen := decide (x.st = .frozen)
  (s.bindTask sid i).updStrand sid fun y =>
    { y with st := if frozen then .frozen else .ready, frozenFrom := .ready, recorded := .ready, wounded := false }

/-- Whether everything of a stopped or frozen strand has been answered and committed. -/
def Strand.settled (x : Strand) : Bool :=
  (decide (x.st = .stopped) || decide (x.st = .frozen)) && x.await.isNone && x.reqs.isEmpty && x.effect.isNone

/-- Steps 5 and 6 for a task whose sets have been released: it starts again on its strand, or returns to its ready queue. -/
def State.woundEnds (s : State) (ck rec_ : Nat) : State :=
  let s0 := s.setRec ck rec_ 27 1 0
  match s.runner ck rec_ with
  | some sid =>
    let x := s.strand sid
    (s0.keepIdentity ck rec_ x.sn.toNat x.floor.toNat).restartTask sid rec_
  | none =>
    let ctx := s.recField ck rec_ 52 4
    let im := localFlat ck ctx
    let s2 := if ctx = 0 then s0 else s0.keepIdentity ck rec_ (s.load (im + 5200) 4) (s.load (im + 5204) 4)
    let s3 := (s2.setRec ck rec_ 52 4 0).setRecState ck rec_ recReady
    if (s3.core ck).rqHas rec_ then s3 else s3.rqAppend ck rec_

/-- A stopped task is rolled back; it starts again once every one of its sets has been released. The core logs the rollback
(log 29). -/
def State.woundStep (s : State) (ck rec_ : Nat) (st : Nat × Nat) : State :=
  let s1 := s.takeBack ck rec_
  if (s1.locksOf ck rec_).isEmpty then (s1.woundEnds ck rec_).logHardware ck (.wound ck rec_) else s1.pushOnce (.woundRollback ck (rec_, st))

/-- WOUND_ROLLBACK (R298): the strand that runs the task is stopped first. A wound that outlives its task meets no task of its stamp. -/
def execWoundRollback (ck : Nat) (run : Nat × Nat × Nat) (s : State) : Res :=
  .next (
    let rec_ := run.1
    let st := run.2
    let rs := s.recState ck rec_
    let again := fun (s : State) => s.pushOnce (.woundRollback ck (rec_, st))
    if s.coreHeld ck then again s
    else if s.stampOf ck rec_ ≠ st then s
    else if rs = recEnding ∨ rs = recFree ∨ rs = recPending ∨ s.recSets ck rec_ = 0 ∧ (s.runner ck rec_).isNone then s
    else match s.runner ck rec_ with
    | none => s.woundStep ck rec_ st
    | some sid =>
      let x := s.strand sid
      if x.killing then s
      else if !x.settled then again ((s.setStrand sid { x with wounded := true }).stop sid)
      else s.woundStep ck rec_ st)

/-- A replay rolls a task back at the recorded place; what caused it the first time is spent. -/
def State.woundAgain (s : State) (ck rec_ : Nat) : State :=
  let s1 := { s with agenda := s.agenda.erase (.woundRollback ck (rec_, s.stampOf ck rec_)) }
  ((match s1.runner ck rec_ with
    | some sid => s1.squashOpen sid
    | none => s1).takeBack ck rec_).woundEnds ck rec_

/-- A killed strand is idle: its task, if it has one, ends as a wound without restart (R255, R330). -/
def State.killEnds (s : State) (sid : Nat) : State :=
  match (s.strand sid).task with
  | some i => (s.rollback (ckOf sid) i).finishTask sid i
  | none => ((s.idleStrand sid).noteDone sid).retry (ckOf sid)

/-- DEBUG_KILL (R330): the task ends as a wound without restart; the core logs it (log 29). -/
def execDebugKill (sid : Nat) (s : State) : Res :=
  .next (
    let x := s.strand sid
    let again := s.pushOnce (.debugKill sid)
    if !x.killing then s
    else if s.coreHeld (ckOf sid) then again
    else if x.st = .idle then s.setStrand sid { x with killing := false }
    else if x.st ≠ .stopped ∧ x.st ≠ .frozen then (s.stop sid).pushOnce (.debugKill sid)
    else if !x.settled ∨ x.ceOut ≠ [] ∨ s.hasJobs sid then again
    else (s.killEnds sid).logHardware (ckOf sid) (.kill sid))

/-! ## Launches (R261) -/

/-- A ready task joins its home's ready queue, or the queue of its stage, which may have no room (R264, R292). -/
def State.taskReady (s : State) (ck i : Nat) : Option State :=
  if s.recField ck i 46 1 % 2 = 1 then
    let r := s.qPush ck 3 (s.recField ck i 45 1) { val := 0, mark := false, task := some (ck, i) }
    if r.1 = qOk then some r.2 else none
  else some (s.rqAppend ck i)

/-- A task's record is written, and the task is ready if it depends on nothing; none where its stage queue has no room. -/
def State.expandAt (s : State) (ck i : Nat) (b : List Byte) : Option State :=
  let s1 := s.place none { addr := recFlat ck i, data := b, mark := false }
  if s1.recState ck i = recReady then s1.taskReady ck i else some s1

/-- A distributor expands a task at its home; none where it has to be held. -/
def State.placeTask (s : State) (hdr : List Byte) (wid : BitVec 64) (ck i age : Nat) : Option State :=
  let b := recordBytes hdr wid age
  if !s.recOpen ck i ∨ (s.core ck).drained ∨ s.coreHeld ck then none
  else (s.expandAt ck i b).map fun s => s.logHardware ck (.expand ck i b)

/-- Expand the first held task that can be, if there is one. -/
def State.expandHeld (s : State) (rk : Nat) : List HeldTask → List HeldTask → Option State
  | _, [] => none
  | before, h :: r =>
    match s.placeTask h.hdr h.wid h.core h.record h.age with
    | some s1 => some (s1.updRegion rk fun x => { x with held := before ++ r })
    | none => s.expandHeld rk (before ++ [h]) r

/-- Expand the next task of a launch whose home lies in the region. -/
def State.expandNext (s : State) (pid rk : Nat) (l : Launch) (rest : List Launch) : State :=
  let w := hdrWork l.hdr l.next
  let put := fun (s : State) (l : Launch) =>
    s.updRegion rk fun x => { x with launches := if hdrTasks l.hdr ≤ l.next then rest else l :: rest }
  let l1 := { l with next := l.next + 1 }
  match s.hdrHome pid l.hdr l.ox l.oy l.oseat w with
  | none => put s l1
  | some ck =>
    if s.rkOf ck ≠ rk then put s l1
    else
      let j := l.counts.getD ck 0
      let i := hdrRbase l.hdr + j
      let l2 := { l1 with counts := l1.counts.put ck (j + 1) }
      match s.placeTask l.hdr (BitVec.ofNat 64 w) ck i l.age with
      | some s1 => put s1 l2
      | none =>
        let h : HeldTask := { hdr := l.hdr, wid := BitVec.ofNat 64 w, core := ck, record := i, age := l.age, since := s.now, told := false }
        ((put s l2).updRegion rk fun x => { x with held := x.held ++ [h] }).pushOnce (.launchStalled pid rk)

/-- LAUNCH_EXPANSION (R261): one task; a partition that is asked to yield expands none (R337). -/
def execLaunchExpansion (pid rk : Nat) (s : State) : Res :=
  .next (
    let r := s.region rk
    if r.pid ≠ some pid ∨ (s.part pid).preempt.isSome then s
    else match s.expandHeld rk [] r.held with
    | some s1 => s1.pushOnce (.launchExpansion pid rk)
    | none =>
      match r.launches with
      | [] => s
      | l :: rest => (s.expandNext pid rk l rest).pushOnce (.launchExpansion pid rk))

/-- LAUNCH_STALLED (R261): a task held for 1 ms is reported once. -/
def execLaunchStalled (pid rk : Nat) (s : State) : Res :=
  .next (
    let r := s.region rk
    if r.pid ≠ some pid then s
    else
      let due := fun (h : HeldTask) => !h.told && decide (h.since + 1000000 ≤ s.now)
      let s1 := (r.held.filter due).foldl (fun s h => s.report 0x40 0 (s.supCore pid rk) (leBytes 3 (lcoreOf h.core) ++ leBytes 2 h.record)) s
      let hs := r.held.map fun h => { h with told := h.told || due h }
      let s2 := s1.updRegion rk fun x => { x with held := hs }
      if hs.any fun h => !h.told then s2.pushOnce (.launchStalled pid rk) else s2)

/-! ## The stage governor (R293, R294) -/

/-- Enabled stages of a region with their numbers. -/
def Region.enabled (r : Region) : List (Nat × Stage) := r.stages.filter fun p => p.2.en

/-- The stages between which a core moves: to the first, from the second. -/
def Region.reassign (r : Region) : Option (Nat × Nat) :=
  match r.enabled.find? fun p => decide (p.2.hi < p.2.q.elems.length ∧ p.2.cores.length < p.2.maxc) with
  | none => none
  | some (rcv, _) =>
    (r.enabled.find? fun p => decide (p.1 ≠ rcv ∧ p.2.q.elems.length < p.2.lo ∧ p.2.minc < p.2.cores.length)).map fun p => (rcv, p.1)

/-- One reassignment: the highest-numbered core of the giving stage is counted in the other and told;
one that is recovering or being moved is left where it is. -/
def State.moveCore (s : State) (rk rcv don : Nat) : State :=
  match ((s.region rk).stages.getD don Stage.reset).cores.foldl (fun m c => max m (c + 1)) 0 with
  | 0 => s
  | c + 1 =>
    if s.coreHeld c then s
    else
      let s1 := s.updRegion rk fun r =>
        { r with stages := (r.stages.alter don fun st => { st with cores := st.cores.filter fun d => d != c }).alter rcv fun st => { st with cores := insertNat st.cores c } }
      (s1.qPush c 1 15 { val := BitVec.ofNat 64 rcv, mark := false, task := none }).2.logHardware c (.push c 1 15 (BitVec.ofNat 64 rcv) false)

/-- SLUICE_GOVERNOR_TICK (R293): every 1 µs of shared time. -/
def execSluiceGovernorTick (rk : Nat) (s : State) : Res :=
  .next (
    let r := s.region rk
    if r.pid.isNone then s
    else if s.now < r.govAt then s.pushOnce (.sluiceGovernorTick rk)
    else
      let s1 := (s.updRegion rk fun r => { r with govAt := r.govAt + 1000 }).pushOnce (.sluiceGovernorTick rk)
      match r.reassign with
      | some (rcv, don) => s1.moveCore rk rcv don
      | none => s1)

end Sys2Proof.Machine
end

