-- ==== Sys2Proof/Machine/EngineEvents.lean ====
section
/-! DEFINITION. The copy engine at work (R239-R245, R248): the lines of a command, their sends and deliveries, the end of a
command; and the reduction server (R250-R252). -/

namespace Sys2Proof.Machine

/-! ## Lines of a command -/

/-- The number of destination lines of a run. -/
def ceLines (r : CeRun) : Nat := if r.len = 0 then 0 else (offOf r.dst % 128 + r.len - 1) / 128 + 1

/-- A pointer moved on. -/
def advance (a : Reg80) (n : Nat) : Reg80 := make (tagOf a) (BitVec.ofNat 64 ((valOf a).toNat + n))

/-- Destination line `j` of a run. -/
def cePiece (op : Nat) (r : CeRun) (j : Nat) : CeRun :=
  let o := offOf r.dst % 128
  let lo := if j = 0 then 0 else j * 128 - o
  let hi := min r.len ((j + 1) * 128 - o)
  { src := advance r.src (ceSrcLen op lo), dst := advance r.dst lo, len := hi - lo }

/-- Line `j` of several runs, with its run. -/
def ceFind (op : Nat) : List CeRun → Nat → Option (CeRun × CeRun)
  | [], _ => none
  | r :: rs, j => if j < ceLines r then some (cePiece op r j, r) else ceFind op rs (j - ceLines r)

/-- A line takes its place among others in increasing destination order; lines of one destination stay in the order of their
runs. -/
def placePiece (p : CeRun × CeRun) : List (CeRun × CeRun) → List (CeRun × CeRun)
  | [] => [p]
  | q :: r => if offOf p.1.dst / 128 < offOf q.1.dst / 128 then p :: q :: r else q :: placePiece p r

/-- The lines of the runs of a `copy2d`, in increasing destination order (R240, R248). -/
def sortedPieces (rs : List CeRun) : List (CeRun × CeRun) :=
  (rs.flatMap fun r => (List.range (ceLines r)).map fun j => (cePiece 1 r j, r)).foldl (fun l p => placePiece p l) []

/-- Whether a command sends its bytes as one contribution (R250). -/
def CeCmd.toInbox (c : CeCmd) : Bool := (decide (c.op = 0) || decide (c.op = 5)) && isInboxDest c.d
/-- Command index of the downward multicast of a reduction server (R252); no push names it. -/
def opDown : Nat := 7
/-- Lines that a command writes at one target. -/
def CeCmd.perTarget (c : CeCmd) : Nat := (c.runs.map ceLines).sum
/-- The messages that a command sends, each once. -/
def CeCmd.sends (c : CeCmd) : Nat :=
  if c.toInbox then (if c.runs.all fun r => r.len == 0 then 0 else 1)
  else if c.op = opDown then c.targets.length
  else if c.op = 2 then c.targets.length * c.perTarget
  else c.perTarget
/-- The target, the bytes and the run of send `k`: by increasing target, then by increasing line (R248). -/
def CeCmd.sendAt (c : CeCmd) (k : Nat) : Option (Nat × CeRun × CeRun) :=
  if c.toInbox then (c.runs.head?).map fun r => (0, r, r)
  else if c.op = opDown then (c.runs.head?).map fun r => (k, r, r)
  else if c.op = 1 then ((sortedPieces c.runs)[k]?).map fun p => (0, p)
  else
    let per := c.perTarget
    (ceFind c.op c.runs (k % per)).map fun p => (k / per, p)

/-! ## Reading a line (R210, R239) -/

/-- The source bytes of a line: flat places, a late cause, or a read in another module. -/
inductive CeSource where
  | flat (fs : List Nat)
  | bad
  | module (m : Nat) (tile : Bool) (off : Nat)
  deriving DecidableEq, Repr

/-- Where `n` source bytes are, as the engine of a core reads them. -/
def State.ceSource (s : State) (ck : Nat) (a : Reg80) (n : Nat) : CeSource × State :=
  match s.checkAccess ck .kernel a n 1 with
  | .bad _ => (.bad, s)
  | .ok p =>
    match s.resolve ck n false p with
    | (.mem ps, s1) => (.flat (ps.flatMap fun q => (List.range q.2).map fun i => q.1 + i), s1)
    | (.repl bs, s1) => (.flat (bs.flatMap fun b => (List.range b.2).map fun i => s1.replFlat (pidOf ck) (s1.rkOf ck) (b.1 + i)), s1)
    | (.module m t offs, s1) => (.module m t (offs.headD 0), s1)
    | (_, s1) => (.bad, s1)

/-- The marks of the 8-byte words of `n` destination bytes; each comes from `k` source bytes with the marks `ms`. -/
def wordMarks (ms : List Bool) (n k : Nat) : List Bool := (List.range (n / 8)).map fun i => ((ms.drop (k * i)).take k).any fun m => m

/-- The marks of bytes of memory. -/
def State.byteMarks (s : State) (fs : List Nat) : List Bool := fs.map s.marked

/-- A source line, read once and kept for the command; its parity is checked (R239, R351). -/
def State.ceReadLine (s : State) (ck : Nat) (c : CeCmd) (line : Nat) : CeCmd × State :=
  match c.buf.find line with
  | some _ => (c, s)
  | none =>
    let s1 := s.sense (some ck) line
    ({ c with buf := c.buf.put line (memReadList s1.mem (line * 128) 128, s1.byteMarks ((List.range 128).map fun i => line * 128 + i)) }, s1)

/-- The key in a command's buffer of a source line of another module, by its number there. -/
def modKey (line : Nat) : Nat := 2 ^ 100 + line

/-- The source lines of another module that a line of a command needs; each is read whole, and once (R239). -/
def modParts (op : Nat) (p : CeRun) : List Nat := linesOf (offOf p.src) (ceSrcLen op p.len)

/-- A byte with its mark of what a command has read, by key and place. -/
def CeCmd.got (c : CeCmd) (key i : Nat) : Byte × Bool :=
  let e := c.buf.getD key ([], [])
  (byteAt e.1 i, e.2.getD i false)

/-- BF16 elements widened to FP32 (R242). -/
def widenBf16 (d : List Byte) : List Byte :=
  (List.range (d.length / 2)).flatMap fun i => [0, 0, byteAt d (2 * i), byteAt d (2 * i + 1)]

/-- Bytes as 32-bit words. -/
def wordsOf32 (d : List Byte) : List (BitVec 32) := (List.range (d.length / 4)).map fun i => BitVec.ofNat 32 (fieldAt d (4 * i) 4)
/-- 32-bit words as bytes. -/
def bytesOf32 (ws : List (BitVec 32)) : List Byte := ws.flatMap fun w => leBytes 4 w.toNat

/-- Whether a flat byte lies in the source of a command. -/
def State.inSource (s : State) (ck : Nat) (c : CeCmd) (f : Nat) : Bool :=
  c.runs.any fun r => ((s.flatPieces ck r.src (ceSrcLen c.op r.len)).getD []).any fun q => decide (q.1 ≤ f ∧ f < q.1 + q.2)

/-- Destination bytes that lie in the command's own source are free values (R239; log 5). -/
def State.ceOverlap (s : State) (ck : Nat) (c : CeCmd) (flat : Nat) (d : List Byte) : List Byte × State :=
  if (List.range d.length).any fun i => s.inSource ck c (flat + i) then
    ((List.range d.length).map fun i => if s.inSource ck c (flat + i) then Config.freeByte (s.fresh + i) else byteAt d i,
     { s with fresh := s.fresh + d.length })
  else (d, s)

/-! ## Sending (R248) -/

/-- The event that carries an engine's message. -/
def engineEvent (m : Msg) : Instr :=
  match m.op with
  | .deliver d => if d.add then .ceReduceLine d.core d.cmd d.line else .ceLineDelivery d.core d.cmd d.line
  | _ => .remoteEffectMessage m

/-- Send a message of a core's engine: `here` says that it stays in the core and carries no identity; `k` is the place of
the line in its command, `read` that it asks for source bytes, and `at_` a serial that was set aside for it. -/
def State.engineSendUnder (s : State) (ck : Nat) (at_ : Option (BitVec 32)) (w : Owner) (here : Bool) (op : RemoteOp) (k : Nat) (read : Bool) : Nat × State :=
  let c := s.core ck
  let next := if here ∨ at_.isSome then c.eSn else c.eSn + 1
  let m : Msg := { origin := .engine ck, seq := c.eSeq, tok := if here then 0 else c.eTok, sn := if here then 0 else at_.getD c.eSn,
                   floor := if here then 0 else c.eFloor, owner := w, op := op }
  let q : Req := { seq := c.eSeq, msg := m, sends := 1, last := s.now, busySince := none, fpc := BitVec.ofNat 64 k, second := read }
  let s1 := s.setCore ck
    { c with eSeq := c.eSeq + 1, eSn := next, eReqs := c.eReqs ++ [q],
             eReached := if here then c.eReached else addOwner c.eReached w }
  let s3 := if here then s1.push (engineEvent m) else s1.sendOut ck 16 m (engineEvent m)
  (c.eSeq, if here ∨ (next - c.eFloor).toNat < 2 ^ 30 then s3 else s3.askBoundary ck)

/-- Send a message of a core's engine under its next serial. -/
def State.engineSend (s : State) (ck : Nat) (w : Owner) (here : Bool) (op : RemoteOp) (k : Nat) (read : Bool) : Nat × State :=
  s.engineSendUnder ck none w here op k read

/-- Whether the engine of a core may send one more message under its floor (R220). -/
def Core.eMaySend (c : Core) : Bool := decide ((c.eSn - c.eFloor).toNat < 2 ^ 31 - 2 ^ 16)

/-- What a command's line has of its source. -/
inductive CeBytes where
  | ready (d : List (Byte × Bool))
  | wait
  | bad
  deriving DecidableEq, Repr

/-- Change a running command. -/
def State.updCmd (s : State) (ck id : Nat) (f : CeCmd → CeCmd) : State :=
  s.updCore ck fun c => { c with running := c.running.map fun x => if x.id = id then f x else x }

/-- A running command. -/
def State.cmdOf (s : State) (ck id : Nat) : Option CeCmd := (s.core ck).running.find? fun c => c.id == id

/-- Whether a command sends no more: it has sent everything, or has ended in error. -/
def CeCmd.sentAll (c : CeCmd) : Bool := decide (c.total ≤ c.next) || decide (c.cause ≠ 0)

/-- A command that sends no more and waits for nothing goes on to its message or its end. -/
def State.ceCheck (s : State) (ck id : Nat) : State :=
  match s.cmdOf ck id with
  | none => s
  | some c =>
    if !c.sentAll ∨ c.outstanding ≠ [] then s
    else if c.op = 5 ∧ c.cause = 0 ∧ !c.messaged then s.pushOnce (.copyqMessagePush ck id)
    else s.pushOnce (.ceCommandComplete ck id)

/-- A command ends in error with a cause of Table 9-8; the first stands. -/
def State.ceFail (s : State) (ck id cause : Nat) : State :=
  (s.updCmd ck id fun c => { c with cause := if c.cause = 0 then cause else c.cause }).ceCheck ck id

/-- A message of a command is on its way. -/
def State.ceSent (ck id : Nat) (r : Nat × State) : State := r.2.updCmd ck id fun c => { c with outstanding := c.outstanding ++ [r.1] }

/-- Whether a command's read of a line of another module is on its way. -/
def State.ceAsked (s : State) (ck line : Nat) (c : CeCmd) : Bool :=
  (s.core ck).eReqs.any fun q => q.second && c.outstanding.contains q.seq && (match q.msg.op with
    | .module acc => acc.offs == [128 * line]
    | _ => false)

/-- An access that a core's engine makes to another module (R178). -/
def State.engineAccess (s : State) (ck : Nat) (tile : Bool) (offs : List Nat) (size : Nat) (write : Option (List Byte)) : ModAccess :=
  let c := s.core ck
  { fromModule := (s.partOf ck).dmod, peer := (s.partOf ck).dpeer, tok := c.eTok.toNat, sn := c.eSn.toNat, floor := c.eFloor.toNat,
    tile := tile, offs := offs, size := size, write := write, atomic := none, add := false, marks := [] }

/-- Ask another module for a source line of a command (R178). -/
def State.ceAsk (s : State) (ck : Nat) (c : CeCmd) (m : Nat) (tl : Bool) (k line : Nat) : State :=
  if (c.buf.find (modKey line)).isSome || s.ceAsked ck line c then s
  else State.ceSent ck c.id (s.engineSend ck (.module m) false (.module (s.engineAccess ck tl [128 * line] 128 none)) k true)

/-- The source of a line of a command: each source line is read once, as it stands at that moment (R210, R239). -/
def State.ceFetch (s : State) (ck : Nat) (c : CeCmd) (k : Nat) (p : CeRun) : CeBytes × State :=
  match s.ceSource ck p.src (ceSrcLen c.op p.len) with
  | (.bad, s1) => (.bad, s1)
  | (.flat fs, s1) =>
    let q := (fs.map fun f => f / 128).eraseDups.foldl (fun q l => q.2.ceReadLine ck q.1 l) (c, s1)
    (.ready (fs.map fun f => q.1.got (f / 128) (f % 128)), q.2.updCmd ck c.id fun x => { x with buf := q.1.buf })
  | (.module m tl off, s1) =>
    let ps := modParts c.op p
    if ps.all fun l => (c.buf.find (modKey l)).isSome then
      (.ready ((List.range (ceSrcLen c.op p.len)).map fun i => c.got (modKey ((off + i) / 128)) ((off + i) % 128)), s1)
    else (.wait, ps.foldl (fun s q => s.ceAsk ck c m tl k q) s1)

/-- The barrier that counts a line at a core, if the command counts (R241, R244). -/
def CeCmd.countAt (c : CeCmd) (ck : Nat) : Option (Nat × Nat) :=
  if c.op = 6 ∨ (c.op = 2 ∧ c.b ≠ 0) then (barrierIndex c.b).map fun i => (ck, i) else none

/-- Bytes of a line leave for their destination. -/
def State.ceDeliver (s : State) (ck : Nat) (c : CeCmd) (k t : Nat) (r : CeRun) (src : List Byte) (marks : List Bool) : State :=
  let d := if c.op = 3 then widenBf16 src else src
  let add := decide (c.op = 3 ∨ c.op = 4)
  let out := fun (s : State) (flat : Nat) =>
    let o := State.ceOverlap s ck c flat d
    let here := isLocalFlat flat && decide (ckOfFlat flat = ck)
    let dl : Delivery := { core := ck, cmd := c.id, line := k, addr := flat, data := o.1, marks := marks, add := add, count := c.countAt (ckOfFlat flat) }
    State.ceSent ck c.id (o.2.engineSend ck (ownerOfFlat flat) here (.deliver dl) k false)
  if c.toInbox then
    match s.coreOfBits (pidOf ck) (offOf c.d) with
    | some t => State.ceSent ck c.id (s.engineSend ck (.group (gkOf t)) (decide (t = ck)) (.inbox t (wordsOf32 d) marks) k false)
    | none => s.ceFail ck c.id 2
  else if c.op = opDown then
    let h := c.targets.getD t ck
    State.ceSent ck c.id (s.engineSend ck (.group (gkOf h)) (decide (h = ck)) (.down h (wordsOf32 d) marks (offOf c.b) (offOf r.dst)) k false)
  else if c.op = 2 then out s (localFlat (c.targets.getD t ck) (offOf r.dst % 2 ^ 20))
  else
    match s.checkAccess ck .kernel r.dst r.len 1 with
    | .bad _ => s.ceFail ck c.id 2
    | .ok p =>
      match s.resolve ck r.len true p with
      | (.mem ((f, _) :: _), s1) => out s1 f
      | (.module m tl offs, s1) =>
        let acc := { s1.engineAccess ck tl offs r.len (some d) with
          add := add, marks := marks, count := if c.op = 6 then (barrierIndex c.b).map fun i => (i, false) else none }
        State.ceSent ck c.id (s1.engineSend ck (.module m) false (.module acc) k false)
      | (_, s1) => s1.ceFail ck c.id 1

/-- The lines of another module that a pointer names. -/
def State.ceModLines (s : State) (ck : Nat) (a : Reg80) (n : Nat) : List (Nat × Bool × Nat) :=
  match s.checkAccess ck .kernel a n 1 with
  | .ok (.module m t off) => (linesOf off n).map fun l => (m, t, l)
  | _ => []

/-- Whether a message on its way writes bytes that a line reads or writes: of an earlier command, or the line's own
destination (R210, R240). -/
def State.ceBlocked (s : State) (ck : Nat) (c : CeCmd) (t : Nat) (r : CeRun) : Bool :=
  let lines := fun (a : Reg80) (n : Nat) => flatLines ((s.flatPieces ck a n).getD [])
  let src := lines r.src (ceSrcLen c.op r.len)
  let dst := if c.op = 2 ∨ c.op = opDown then linesOf (localFlat (c.targets.getD t ck) (offOf r.dst % 2 ^ 20)) r.len else lines r.dst r.len
  let far := s.ceModLines ck r.src (ceSrcLen c.op r.len) ++ s.ceModLines ck r.dst r.len
  (s.core ck).eReqs.any fun q => match q.msg.op with
    | .deliver d => ((decide (d.cmd ≠ c.id) && src.contains (lineOf d.addr)) || dst.contains (lineOf d.addr))
    | .down h data _ _ off => (linesOf (localFlat h off) (4 * data.length)).any fun l => src.contains l || dst.contains l
    | .module acc => acc.write.isSome && far.any fun l => decide (q.msg.owner = .module l.1 ∧ acc.tile = l.2.1) && acc.offs.any fun o => (linesOf o acc.size).contains l.2.2
    | _ => false

/-- Whether a line stays in the engine's own core; what leaves waits for the core's log (R373). -/
def State.ceStays (s : State) (ck : Nat) (c : CeCmd) (t : Nat) (r : CeRun) : Bool :=
  if c.toInbox then s.coreOfBits (pidOf ck) (offOf c.d) == some ck
  else if c.op = 2 ∨ c.op = opDown then c.targets.getD t ck == ck
  else match s.flatPieces ck r.dst r.len with
  | some ps => ps.all fun q => isLocalFlat q.1 && ckOfFlat q.1 == ck
  | none => false

/-- The core at which a `copyq` pushes its message. -/
def State.pushHome (s : State) (ck : Nat) (c : CeCmd) : Option Nat := (s.queueHandle (pidOf ck) c.b).map fun q => s.queueHome q.1 q.2.1 q.2.2

/-- The message of a `copyq` takes its serial after its lines and before the lines of later commands (R248). -/
def State.reservePush (s : State) (ck : Nat) (c : CeCmd) : State :=
  match s.pushHome ck c with
  | some home => if home = ck then s
    else (s.updCmd ck c.id fun x => { x with pushSn := some (s.core ck).eSn }).updCore ck fun k => { k with eSn := k.eSn + 1 }
  | none => s

/-- The next message of a running command: its source is read, and it is sent. -/
def State.ceSendNext (s : State) (ck : Nat) (c : CeCmd) : State :=
  match c.sendAt c.next with
  | none => s.ceFail ck c.id 2
  | some (t, r, _) =>
    if !(s.core ck).eMaySend ∨ s.ceBlocked ck c t r ∨ (!s.ceStays ck c t r && s.logWaiting ck) then s
    else
      let k := c.next
      match s.ceFetch ck c k r with
      | (.bad, s1) => s1.ceFail ck c.id 1
      | (.wait, s1) => s1
      | (.ready d, s1) =>
        let s2 := (s1.updCmd ck c.id fun c => { c with next := k + 1 }).ceDeliver ck c k t r (d.map Prod.fst)
          (wordMarks (d.map Prod.snd) r.len (if c.op = 3 then 4 else 8))
        if c.op = 5 ∧ c.total = k + 1 then s2.reservePush ck c else s2

/-- CE_COMMAND_START (R210): the next message of the command that is sending, or the next command of the FIFO. -/
def execCeCommandStart (ck : Nat) (s : State) : Res :=
  .next (
    let c := s.core ck
    match c.running.find? fun x => !x.sentAll with
    | some x => ((s.ceSendNext ck x).ceCheck ck x.id).pushOnce (.ceCommandStart ck)
    | none =>
      match c.fifo with
      | [] => s
      | x :: rest =>
        let y := { x with started := true, total := x.sends }
        (((s.setCore ck { c with fifo := rest, running := c.running ++ [y] }).ceCheck ck x.id).retry ck).pushOnce (.ceCommandStart ck))

/-! ## Delivery (R239, R242, R244) -/

/-- The writes of some bytes, one for each 8-byte word with its own mark. -/
def markedWrites (a : Nat) (d : List Byte) (marks : List Bool) : List SbWrite :=
  (List.range (ceilDiv d.length 8)).map fun i => { addr := a + 8 * i, data := (d.drop (8 * i)).take 8, mark := marks.getD i false }

/-- Bytes with marks reach memory at one place in the order; `reader` is the core to which an error of the old content is reported. -/
def State.placeMarked (s : State) (reader : Option Nat) (a : Nat) (d : List Byte) (marks : List Bool) : State :=
  let ls := linesOf a d.length
  (((markedWrites a d marks).foldl State.putBytes (s.overwriteAll reader a d.length)).recordLines none (ls.filter s.lineExported)).afterLines none ls

/-- FP32 addends added into memory, each rounded once (R83, R242). -/
def State.addBytes (s : State) (a : Nat) (d : List Byte) : List Byte :=
  (List.range (d.length / 4)).flatMap fun i =>
    leBytes 4 (fAdd fp32 0 0 (fp32.decode (s.load (a + 4 * i) 4)) (fp32.decode (fieldAt d (4 * i) 4))).bits

/-- A line takes its place: its bytes, or their sums, and its count. -/
def State.deliverLine (s : State) (reader : Option Nat) (d : Delivery) : State :=
  let n := d.data.length
  let s := s.overwriteAll reader d.addr n
  let s1 := if d.add then
      s.placeMarked reader d.addr (s.addBytes d.addr d.data) ((List.range (ceilDiv n 8)).map fun i => d.marks.getD i false || s.marked (d.addr + 8 * i))
    else s.placeMarked reader d.addr d.data d.marks
  match d.count with
  | some (ck, b) => s1.countBarrier ck b 0 n
  | none => s1

/-- A barrier goes to POISON with its counts as they stand (R244). -/
def State.poisonBarrier (s : State) (ck i : Nat) : State := s.putBarrier ck i { s.barrier ck i with st := .poison, cause := 2 }

/-- CE_POISON_NOTICE (R244). -/
def execCePoisonNotice (ck bar : Nat) (s : State) : Res := .next (s.poisonBarrier ck bar)

/-! ## The end of a command (R243-R246) -/

/-- COPYQ_MESSAGE_PUSH (R243). -/
def execCopyqMessagePush (ck id : Nat) (s : State) : Res :=
  .next (match s.cmdOf ck id with
    | none => s
    | some c =>
      if c.messaged ∨ c.cause ≠ 0 ∨ !c.sentAll ∨ c.outstanding ≠ [] then s
      else if !(s.core ck).eMaySend ∨ (s.pushHome ck c ≠ some ck ∧ s.logWaiting ck) then s.pushOnce (.copyqMessagePush ck id)
      else match s.queueHandle (pidOf ck) c.b with
      | none => (s.updCmd ck id fun c => { c with messaged := true }).ceFail ck id 2
      | some (t, q, i) =>
        let home := s.queueHome t q i
        let s1 := s.updCmd ck id fun c => { c with messaged := true }
        State.ceSent ck id (s1.engineSendUnder ck c.pushSn (.group (gkOf home)) (decide (home = ck)) (.push t q i (valOf c.m) c.mMark) 0 false))

/-- BYTES of a command: acknowledged at every destination, the least over the targets of a multicast. -/
def CeCmd.bytes (c : CeCmd) : Nat :=
  let at_ := fun t => ((c.acked.filter fun (p : Nat × Nat) => p.1 = t).map Prod.snd).sum
  if c.op = 2 then (List.range c.targets.length).foldl (fun m t => min m (at_ t)) (at_ 0) else (c.acked.map Prod.snd).sum

/-- The element of `ce.c` (Table 9-9). -/
def CeCmd.element (c : CeCmd) : BitVec 64 := BitVec.ofNat 64 (c.bytes * 2 ^ 32 + c.cause * 2 ^ 16 + c.num.toNat % 2 ^ 16)

/-- The cores at which a command was to count. -/
def State.countCores (s : State) (ck : Nat) (c : CeCmd) : List Nat :=
  if c.op = 2 then c.targets
  else (c.runs.flatMap fun r => ((s.flatPieces ck r.dst r.len).getD []).map fun q => ckOfFlat q.1).eraseDups

/-- The cores of another module at which a `copyb` was to count: the module, and a window offset of each core. -/
def State.countFar (s : State) (ck : Nat) (c : CeCmd) : List (Nat × Nat) :=
  if c.op ≠ 6 then []
  else c.runs.flatMap fun r => match s.checkAccess ck .kernel r.dst r.len 1 with
    | .ok (.module m _ off) => [(m, off / 2 ^ 20 * 2 ^ 20)]
    | _ => []

/-- Poison notices go to every core at which a command in error was to count (R244). -/
def State.sendNotices (s : State) (ck : Nat) (c : CeCmd) : State :=
  match c.cause, c.countAt ck with
  | 0, _ => s
  | _, none => s
  | _, some (_, i) =>
    let s1 := (s.countCores ck c).foldl (fun s t =>
      if t = ck then s.push (.cePoisonNotice ck i) else (s.engineSend ck (.group (gkOf t)) false (.poisonNotice t i) 0 false).2) s
    (s.countFar ck c).foldl (fun s q =>
      (s.engineSend ck (.module q.1) false (.module { s.engineAccess ck true [q.2] 0 (some []) with count := some (i, true) }) 0 false).2) s1

/-- The element and the error fields of a command that a strand pushed; a strand that has begun anew gets none. -/
def Strand.postCmd (x : Strand) (c : CeCmd) : Strand :=
  if !x.ceOut.contains c.id then x
  else
    let post := decide (¬(c.op = 5 ∨ c.op = 6) ∨ c.cause ≠ 0) && !x.killing
    { x with
      ceOut := x.ceOut.filter fun i => i != c.id,
      ceDone := if post then x.ceDone ++ [(c.element, c.poisoned)] else x.ceDone,
      ceErr := if c.cause = 0 then x.ceErr else BitVec.ofNat 8 c.cause,
      ceErrCmd := if c.cause = 0 then x.ceErrCmd else BitVec.ofNat 8 c.num.toNat }

/-! ## The reduction server (R250-R252) -/

/-- LEN. -/
def Core.redLen (c : Core) : Nat := bitsAt c.redpin 39 32
/-- EXPECT. -/
def Core.redExpect (c : Core) : Nat := bitsAt c.redpin 55 48
/-- The local offset of the buffer. -/
def Core.redBuf (c : Core) : Nat := bitsAt c.redpin 19 7 * 128
/-- BAR of `trp`. -/
def Core.redBar (c : Core) : Nat := bitsAt c.trp 40 32
/-- The children of `trc`. -/
def State.redChildren (s : State) (ck : Nat) : List Nat :=
  let c := s.core ck
  ((List.range 32).filter fun m => c.trc.getLsbD (32 + m)).map fun m => ckAt (pidOf ck) (bitsAt c.trc 23 0 + m)

/-- The server gives its engine a command of its own. DESIGN CHOICE: it waits for no free entry of the FIFO, which R238 asks of a
strand's push (log 90). -/
def State.serverSend (s : State) (ck op off n : Nat) (d : Reg80) (targets : List Nat) (b : Reg80) : State :=
  let c := s.core ck
  let r : CeRun := { src := make 0 (BitVec.ofNat 64 off), dst := d, len := n }
  let x : CeCmd := { id := c.nextCmd, sid := sidOf ck 15, num := 0, op := op, prio := 0, s := r.src, d := d, n := make 0 (BitVec.ofNat 64 r.len), b := b, m := 0,
                     mMark := false, runs := [r], targets := targets, started := false, total := 0, next := 0, acked := [], outstanding := [], cause := 0,
                     poisoned := false, messaged := false, pushSn := none, server := true, buf := [] }
  let red := if op = opDown then { c.red with down := some x.id, downFailed := false } else { c.red with up := some x.id, upFailed := false }
  (s.setCore ck { c with fifo := c.fifo ++ [x], nextCmd := c.nextCmd + 1, red := red }).pushOnce (.ceCommandStart ck)

/-- The sum goes up to the parent's inbox. -/
def State.redUp (s : State) (ck : Nat) : State :=
  let p := ckAt (pidOf ck) (bitsAt (s.core ck).trp 23 0)
  s.serverSend ck 0 (s.core ck).redBuf (4 * (s.core ck).redLen) (make 0x0505 (BitVec.ofNat 64 (s.tileOff p 0))) [] 0

/-- The sum of `n` bytes at a local offset goes down to the children, at the same offset; without children the round is over. -/
def State.redDown (s : State) (ck off n : Nat) : State :=
  let ts := s.redChildren ck
  let c := s.core ck
  let s1 := s.setCore ck { c with red := { c.red with phase := .down, off := off, len := n } }
  if ts = [] then s1.pushOnce (.reductionRoundEnd ck)
  else s1.serverSend ck opDown off n (make 0 (BitVec.ofNat 64 off)) ts (make 0x0500 (BitVec.ofNat 64 c.redBar))

/-- Every contribution has been added: a root writes its own barrier and sends down, any other server sends up. -/
def State.redFull (s : State) (ck : Nat) : State :=
  let c := s.core ck
  if c.trp.getLsbD 63 then (s.countBarrier ck c.redBar 0 (4 * c.redLen)).redDown ck c.redBuf (4 * c.redLen)
  else (s.updCore ck fun c => { c with red := { c.red with phase := .up } }).redUp ck

/-- Words of a contribution and of the buffer added, or the contribution alone where it is the first. -/
def State.redSum (s : State) (ck : Nat) (first : Bool) (q : Contribution) : List (BitVec 32) × List Bool :=
  let c := s.core ck
  let a := localFlat ck c.redBuf
  if first then (q.data, q.marks)
  else
    (q.data.mapIdx fun i w =>
      let old := s.load (a + 4 * i) 4
      if bitsAt c.redpin 62 61 = 1 then w + BitVec.ofNat 32 old else BitVec.ofNat 32 (fAdd fp32 0 0 (fp32.decode old) (fp32.decode w.toNat)).bits,
     q.marks.mapIdx fun i m => m || s.marked (a + 8 * i))

/-- The wait of strand 15 for the contributions of a round (R252). -/
def State.redWait (s : State) (ck : Nat) (on : Bool) : State :=
  let sid := sidOf ck 15
  let s1 := s.updStrand sid fun x => { x with since := s.cyc ck, bound := if on then x.ceiling else 0, bounded := on }
  if on then s1.pushOnce (.waitExpired sid) else s1

/-- The server takes the contribution at the head of its inbox. -/
def State.redTake (s : State) (ck : Nat) (q : Contribution) (r : List Contribution) : State :=
  let c := s.core ck
  let s1 := ((s.setCore ck { c with redIn := r, redHead := c.redHead + 1 }).pokePool (gkOf ck)).pushOnce (.reductionTake ck)
  if q.data.length ≠ c.redLen then s1.updCore ck fun c => { c with disc := c.disc + BitVec.ofNat 32 (4 * q.data.length) }
  else
    let first := decide (c.red.taken = 0)
    let v := s1.redSum ck first q
    let s2 := (s1.placeMarked (some ck) (localFlat ck c.redBuf) (bytesOf32 v.1) v.2).updCore ck fun c =>
      { c with red := { c.red with phase := .gathering, taken := c.red.taken + 1 } }
    let s3 := if first then s2.redWait ck true else s2
    if c.redExpect ≤ c.red.taken + 1 then (s3.redWait ck false).redFull ck else s3

/-- REDUCTION_TAKE (R252): the next contribution; after a resume, a failed send is repeated. -/
def execReductionTake (ck : Nat) (s : State) : Res :=
  .next (
    let c := s.core ck
    if !c.serves ∨ (s.strand (sidOf ck 15)).st = .frozen then s
    else match c.red.phase with
    | .up => if c.red.upFailed then s.redUp ck else s
    | .down =>
      let s1 := if c.red.upFailed then s.redUp ck else s
      if c.red.downFailed then s1.redDown ck c.red.off c.red.len else s1
    | _ => match c.redIn with
      | [] => s
      | q :: r => s.redTake ck q r)

/-- A node receives the downward sum, counts it, and a server sends it on to its children. -/
def State.redReceive (s : State) (ck : Nat) (data : List (BitVec 32)) (marks : List Bool) (bar off : Nat) : State :=
  let s1 := (s.placeMarked (some ck) (localFlat ck off) (bytesOf32 data) marks).countBarrier ck bar 0 (4 * data.length)
  let c := s.core ck
  let waits := match c.red.phase with
    | .up => true
    | _ => false
  if c.serves && waits then s1.redDown ck off (4 * data.length) else s1

/-- REDUCTION_DOWNWARD_RECEIVE (R252). -/
def execReductionDownwardReceive (ck : Nat) (data : List (BitVec 32)) (marks : List Bool) (bar off : Nat) (s : State) : Res :=
  .next (s.redReceive ck data marks bar off)

/-- Whether no send of a reduction server is outstanding or has still to be repeated. -/
def RedState.settled (r : RedState) : Bool := r.up.isNone && r.down.isNone && !r.upFailed && !r.downFailed

/-- REDUCTION_ROUND_END (R252): the round ends when the server's last send has been acknowledged. -/
def execReductionRoundEnd (ck : Nat) (s : State) : Res :=
  .next (match (s.core ck).red.phase with
    | .down => if (s.core ck).red.settled then (s.updCore ck fun c => { c with red := RedState.reset }).pushOnce (.reductionTake ck) else s
    | _ => s)

/-- A send of the server is over: its last one ends the round, one in error freezes strand 15. -/
def State.serverDone (s : State) (ck : Nat) (c : CeCmd) : State :=
  let r := (s.core ck).red
  let up := decide (r.up = some c.id)
  if !up ∧ r.down ≠ some c.id then s
  else
    let r1 := if up then { r with up := none, upFailed := decide (c.cause ≠ 0) } else { r with down := none, downFailed := decide (c.cause ≠ 0) }
    let s1 := s.updCore ck fun k => { k with red := r1 }
    if c.cause ≠ 0 then s1.freeze (sidOf ck 15) causeEngine 0 (s.strand (sidOf ck 15)).ctx.pc false 0 (leBytes 8 c.element.toNat)
    else if r.phase = .down then s1.pushOnce (.reductionRoundEnd ck)
    else s1

/-- CE_COMMAND_COMPLETE (R245, R246). -/
def execCeCommandComplete (ck id : Nat) (s : State) : Res :=
  .next (match s.cmdOf ck id with
    | none => s
    | some c =>
      if !c.sentAll ∨ c.outstanding ≠ [] then s
      else
        let s1 := (s.updCore ck fun k => { k with running := k.running.filter fun x => x.id != id }).sendNotices ck c
        let s2 := if c.server then s1.serverDone ck c else s1.updStrand c.sid fun x => x.postCmd c
        (s2.releaseRange ck id).pushOnce (.ceCommandStart ck))

/-- Whether a message of an engine writes a poisoned word (R246). -/
def opMarked : RemoteOp → Bool
  | .deliver d => d.marks.any fun m => m
  | .inbox _ _ marks => marks.any fun m => m
  | .down _ _ marks _ _ => marks.any fun m => m
  | .module acc => acc.marks.any fun m => m
  | _ => false

/-- A request of an engine is answered: its bytes count, a read goes on to its delivery, a refusal ends the command in
error. -/
def State.engineReplied (s : State) (ck seq : Nat) (refused : Option Nat) (r : Reply) : State :=
  match (s.core ck).eReqs.find? fun q => q.seq == seq with
  | none => s
  | some q =>
    let s0 := s.updCore ck fun c => { c with eReqs := c.eReqs.filter fun p => p.seq != seq }
    let s1 := if q.msg.tok = 0 ∨ refused.isSome ∨ (s.loggedReply ck 16 q.msg.sn).isSome then s0 else s0.logRec ck (.reply 16 q.msg.sn r)
    let again := s1.pushOnce (.ceCommandStart ck)
    match (s.core ck).running.find? fun c => c.outstanding.contains seq with
    | none => again
    | some c =>
      let s2 := again.updCmd ck c.id fun c => { c with outstanding := c.outstanding.filter fun n => n != seq }
      match refused with
      | some cause => s2.ceFail ck c.id cause
      | none =>
        let k := q.fpc.toNat
        match c.sendAt k with
        | none => s2.ceCheck ck c.id
        | some (t, run, _) =>
          if q.second then
            let line := match q.msg.op with
              | .module acc => acc.offs.headD 0 / 128
              | _ => 0
            let ms := (List.range r.old.length).map fun i => r.marks.getD (i / 8) false
            (s2.updCmd ck c.id fun c => { c with buf := c.buf.put (modKey line) (r.old, ms) }).ceCheck ck c.id
          else
            let isMsg := match q.msg.op with
              | .push .. => true
              | _ => false
            (s2.updCmd ck c.id fun c => { c with acked := if isMsg then c.acked else c.acked ++ [(t, run.len)], poisoned := c.poisoned || r.mark || opMarked q.msg.op }).ceCheck ck c.id

end Sys2Proof.Machine
end

