-- ==== Sys2Proof/Machine/RemoteEvents.lean ====
section
/-! DEFINITION. Remote effect messages (R218-R235): execution at the owner, the result cache, the replies, retransmission and
refusal; floors, the stash of tokens, invalidations (R334), the Cascade (R181) and accesses from other modules (R178). -/

namespace Sys2Proof.Machine

/-! ## Requesters -/

/-- The partition of a requester. -/
def State.originPid (s : State) (o : Origin) : Nat :=
  match o with
  | .strand sid => pidOf (ckOf sid)
  | .engine ck => pidOf ck
  | .host q => ((s.hostq q).run.map fun r => fieldAt r.cmd 2 1).getD 0

/-- The partition that a message concerns: its requester's, or of a host queue that of the group it names (R341). -/
def State.msgPid (s : State) (m : Msg) : Nat :=
  match m.origin, m.owner with
  | .host _, .group gk => pidOfG gk
  | o, _ => s.originPid o

/-- The strand whose write an effect is, if a strand's. -/
def originStrand (o : Origin) : Option Nat :=
  match o with
  | .strand sid => some sid
  | _ => none

/-- The requests of a requester that have not been answered. -/
def State.requests (s : State) (o : Origin) : List Req :=
  match o with
  | .strand sid => (s.strand sid).reqs
  | .engine ck => (s.core ck).eReqs
  | .host q => (s.hostq q).reqs

/-- Change the requests of a requester. -/
def State.updReqs (s : State) (o : Origin) (f : List Req → List Req) : State :=
  match o with
  | .strand sid => s.updStrand sid fun x => { x with reqs := f x.reqs }
  | .engine ck => s.updCore ck fun c => { c with eReqs := f c.eReqs }
  | .host q => s.updHostq q fun h => { h with reqs := f h.reqs }

/-- A request of a requester by its number. -/
def State.request (s : State) (o : Origin) (seq : Nat) : Option Req := (s.requests o).find? fun q => q.seq == seq

/-- Change one request. -/
def State.updReq (s : State) (o : Origin) (seq : Nat) (f : Req → Req) : State :=
  s.updReqs o fun l => l.map fun q => if q.seq = seq then f q else q

/-- A requester asks for an early boundary of its core (R229). -/
def State.askEarly (s : State) (o : Origin) : State :=
  match o with
  | .strand sid => s.askBoundary (ckOf sid)
  | .engine ck => s.askBoundary ck
  | .host _ => s

/-! ## Execution at the owner -/

/-- What an operation answers. -/
inductive OpOut where
  | done (r : Reply)
  | busy
  | refuse (cause : Nat)
  deriving DecidableEq, Repr

/-- A plain result. -/
def valueReply (v : BitVec 64) (mark : Bool) : Reply := { ackReply with value := v, mark := mark }

/-- The refusal of a contribution of the wrong length (R252); it reaches no strand. -/
def causeContribution : Nat := 0x100

/-- `sq.dec` at the owner (R264); a stage queue without room answers busy. -/
def State.decAt (s : State) (ck i : Nat) : OpOut × State :=
  let st := s.recState ck i
  let n := s.recField ck i 28 2
  if st = recFree then (.busy, s)
  else if st ≠ recPending ∨ n = 0 then (.refuse causeUnderflow, s)
  else
    let s1 := s.setRec ck i 28 2 (n - 1)
    if n ≠ 1 then (.done ackReply, s1)
    else match (s1.setRecState ck i recReady).taskReady ck i with
    | some s2 => (.done ackReply, s2)
    | none => (.busy, s)

/-- A contribution at its inbox (R250, R280). -/
def State.inboxAt (s : State) (ck : Nat) (data : List (BitVec 32)) (marks : List Bool) : OpOut × State :=
  let c := s.core ck
  let cells := ceilDiv (4 * data.length) 128
  if c.serves ∧ data.length ≠ c.redLen then (.refuse causeContribution, s)
  else if !s.grants (gkOf ck) c.redMin c.redUsed c.redCap cells then (.busy, s)
  else
    (.done ackReply,
     (s.setCore ck { c with redIn := c.redIn ++ [{ data := data, marks := marks, cells := cells }], redTail := c.redTail + 1 }).pushOnce (.reductionTake ck))

/-- An accepted spawn reaches every distributor of the partition (R261). -/
def State.acceptLaunch (s : State) (pid : Nat) (hdr : List Byte) (ox oy oseat : Nat) : State :=
  (s.partRegions pid).foldl (fun s rk =>
    (s.updRegion rk fun r =>
      { r with launches := r.launches ++ [{ hdr := hdr, ox := ox, oy := oy, oseat := oseat, age := s.now, next := 0, counts := [] }] }).pushOnce
      (.launchExpansion pid rk)) s

/-- The sequencer numbers a replicated store and sends it to every region's replica (R181). -/
def State.numberStore (s : State) (pid : Nat) (st : ReplStore) : State :=
  (s.partRegions pid).foldl (fun s rk => s.pushOnce (.cascadeApply pid rk)) (s.updPart pid fun p => { p with cascLog := p.cascLog ++ [st] })

/-- CASCADE_NUMBERING (R181). -/
def execCascadeNumbering (pid : Nat) (st : ReplStore) (s : State) : Res := .next (s.numberStore pid st)

/-- An operation takes its place in the order at its owner. -/
def State.execOp (s : State) (m : Msg) : OpOut × State :=
  let w := originStrand m.origin
  match m.op with
  | .atomic op red addr o x mark log =>
    let s := s.sense (w.map ckOf) (addr / 128)
    let old := if log then memReadList s.mem (addr / 128 * 128) 128 else []
    let r := s.atomicAt w op addr o x mark
    (.done { ackReply with value := if red then 0 else r.1, mark := !red && r.2.1, old := old }, r.2.2)
  | .push ck q i v mark =>
    let r := s.pushAt ck q i v mark
    if r.1.code = qFull ∧ w.isNone then (.busy, s) else (.done r.1, r.2)
  | .pop ck q i take user claim =>
    let r := s.popAt ck q i take user claim
    (.done r.1, r.2)
  | .dec ck i => s.decAt ck i
  | .arrive ck b n =>
    let s1 := s.countBarrier ck b 1 (n.getD 0)
    (.done (valueReply (s1.barrier ck b).status false), s1)
  | .spawn hdr ck => (.done (valueReply (BitVec.ofNat 64 s.now) false), s.acceptLaunch (pidOf ck) hdr (s.gxOf ck) (s.gyOf ck) (seatOf ck))
  | .acquire q =>
    let r := s.decideSet q.home q
    if r.1 = .busy then (.busy, s) else (.done ackReply, r.2)
  | .deliver d =>
    let s1 := s.deliverLine (originCore m.origin) d
    (.done { ackReply with mark := d.add && anyMarked s1.poison d.addr d.data.length }, s1)
  | .inbox ck data marks => s.inboxAt ck data marks
  | .down ck data marks bar off => (.done ackReply, s.redReceive ck data marks bar off)
  | .poisonNotice ck bar => (.done ackReply, s.poisonBarrier ck bar)
  | .repl pid st => (.done ackReply, s.numberStore pid st)
  | .commit _ _ => (.done ackReply, s)
  | .commitAt _ => (.done ackReply, s)
  | .module _ => (.done ackReply, s)
  | .expand ck i b => (.done ackReply, (s.expandAt ck i b).getD s)
  | .release home ck i st n => (.done ackReply, s.releaseAt home ck i st n)
  | .wound ck i => (.done ackReply, s.woundAgain ck i)
  | .kill sid => (.done ackReply, (s.squashOpen sid).killEnds sid)

/-- The core at which an operation is executed, whose log records it. -/
def State.opCore (s : State) (op : RemoteOp) : Option Nat :=
  let local_ := fun (a : Nat) => if isLocalFlat a then some (ckOfFlat a) else none
  match op with
  | .atomic _ _ addr _ _ _ _ => local_ addr
  | .push ck q i _ _ => some (s.queueHome ck q i)
  | .pop ck q i _ _ _ => some (s.queueHome ck q i)
  | .dec ck _ => some ck
  | .arrive ck _ _ => some ck
  | .acquire q => local_ (q.lines.headD 0 * 128)
  | .deliver d => local_ d.addr
  | .inbox ck _ _ => some ck
  | .down ck _ _ _ _ => some ck
  | .poisonNotice ck _ => some ck
  | _ => none

/-! ## Arrival of a message (R228) -/

/-- The bytes that a result carries (R23). -/
def replyBytes (r : Reply) : Nat := max 16 r.old.length

/-- A reply sets out. -/
def answerOf (m : Msg) (k : ReplyKind) (r : Reply) : Instr :=
  match k with
  | .result => .replyResult m.origin m.seq r
  | .refuse c => .replyRefuse m.origin m.seq c

/-- The core that executed an operation logs it (R372). -/
def State.logIncoming (s : State) (m : Msg) (r : Reply) : State :=
  match s.opCore m.op with
  | some ck => s.logRec ck (.incoming m r)
  | none => s

/-- A message that has no entry is executed; its answer is kept, but for a busy one. -/
def State.runMessage (s : State) (pid : Nat) (m : Msg) : State :=
  match s.execOp m with
  | (.busy, s1) => s1.sendReply m 0 (.replyBusy m.origin m.seq)
  | (.done r, s1) => ((s1.updOwner m.owner fun o => o.keep pid m.tok m.sn .result r).logIncoming m r).sendReply m (replyBytes r) (.replyResult m.origin m.seq r)
  | (.refuse c, s1) => ((s1.updOwner m.owner fun o => o.keep pid m.tok m.sn (.refuse c) ackReply).logIncoming m ackReply).sendReply m 0 (.replyRefuse m.origin m.seq c)

/-- The state of an owner's router entries (Table 15-5). -/
def State.ownerState (s : State) (w : Owner) : Nat :=
  match w with
  | .group gk => (s.group gk).entry.state.toNat
  | _ => 0

/-- The router through which a requester sends, by its physical group. -/
def State.originRouter (s : State) (o : Origin) : Nat :=
  match o with
  | .strand sid => s.groupKey (gkOf (ckOf sid))
  | .engine ck => s.groupKey (gkOf ck)
  | .host _ => 2 ^ 20

/-- What becomes of a message that reaches its owner's group. -/
inductive Reach where
  | here | moved | lost
  deriving DecidableEq, Repr

/-- Where a message ends that may still reach the old place of a rebound group, as its router had the old entry or the fabric
delayed it: that place forwards it, answers *moved*, or is out of order (R378); before the remap commits, one on its way to a network
interface that has failed is lost too (R404). -/
def State.reach (s : State) (o : Origin) (w : Owner) : Reach :=
  match w with
  | .group gk =>
    let g := s.group gk
    if (g.forwarding || g.moved) && ((g.stale.any fun p => p.1 == s.originRouter o) || Config.oldPlace s.steps) then
      (if !g.oldWorks then .lost else if g.moved then .moved else .here)
    else if g.entry.state == 1 && g.recovery.isSome && !g.oldWorks && Config.oldPlace s.steps then .lost
    else .here
  | _ => .here

/-- Whether the core at which an operation is executed is being migrated (R408). -/
def State.opMoving (s : State) (op : RemoteOp) : Bool :=
  match s.opCore op with
  | some ck => (s.core ck).moving
  | none => false

/-- Whether an operation launches tasks in a partition that is asked to yield (R337). -/
def State.opYields (s : State) (op : RemoteOp) : Bool :=
  match op with
  | .spawn _ ck => (s.partOf ck).preempt.isSome
  | _ => false

/-- Whether the log of the core that an operation is executed at has no room (R373). -/
def State.opLogFull (s : State) (op : RemoteOp) : Bool :=
  match s.opCore op with
  | some ck => (s.core ck).logFull
  | none => false

/-- The recorded execution of a local operation, where it is what a replay's log names next (R377). -/
def logTurn (m : Msg) : List LogRec → Option Msg
  | [] => none
  | .chunk _ _ :: _ => none
  | .incoming k _ :: _ => if k.tok = 0 ∧ k.origin = m.origin ∧ k.seq = m.seq then some k else none
  | _ :: r => logTurn m r

/-- The recorded execution of a local operation that is due at its core. -/
def State.localTurn (s : State) (m : Msg) : Option Msg := (s.opCore m.op).bind fun ck => logTurn m (s.core ck).replay

/-- Whether a message waits at its owner: its group is held (R378); an operation of a replaying core on itself keeps its recorded
place. -/
def State.localHeld (s : State) (m : Msg) : Bool := s.ownerHeld m.owner && (m.tok != 0 || (s.localTurn m).isNone)

/-- A log without the execution of a local operation. -/
def dropLocal (m : Msg) (l : List LogRec) : List LogRec :=
  dropFirst (fun x => match x with | .incoming k _ => decide (k.tok = 0 ∧ k.origin = m.origin ∧ k.seq = m.seq) | _ => false) l

/-- An operation of a core on itself, which carries no identity: its place is logged. A replay applies what is recorded. -/
def State.runLocal (s : State) (m : Msg) : State :=
  let turn := s.localTurn m
  let s0 := match turn, s.opCore m.op with
    | some _, some ck => s.updCore ck fun c => { c with replay := dropLocal m c.replay }
    | _, _ => s
  let keep := fun (s : State) (r : Reply) => if turn.isSome then s else s.logIncoming m r
  match s0.execOp (turn.getD m) with
  | (.busy, s1) => s1.push (.replyBusy m.origin m.seq)
  | (.done r, s1) => (keep s1 r).push (.replyResult m.origin m.seq r)
  | (.refuse c, s1) => (keep s1 ackReply).push (.replyRefuse m.origin m.seq c)

/-- Whether the group that owns what a message names has no place any more. -/
def State.ownerGone (s : State) (w : Owner) : Bool :=
  match w with
  | .group gk => !(s.part (pidOfG gk)).live
  | _ => false

/-- A message waits at the network interface of a group that recovers (R404); elsewhere its event is due again. -/
def State.waitAt (s : State) (m : Msg) (again : Instr) : State :=
  match m.owner with
  | .group gk =>
    if m.tok ≠ 0 ∧ ((s.group gk).recovery.isSome ∨ s.opMoving m.op) then
      s.updGroup gk fun g => { g with held := if g.held.contains again then g.held else g.held ++ [again] }
    else s.pushOnce again
  | _ => s.pushOnce again

/-- Whether an operation asks a slice to decide a chunk (R201, R202). -/
def asksCommit : RemoteOp → Bool
  | .commitAt _ => true
  | _ => false

/-- A message is at its owner, or at the network interface of the owner's group; `again` is the event to repeat while it is held there
(R228, R378, R408). -/
def State.receiveHere (s : State) (m : Msg) (again : Instr) : State :=
  let pid := s.msgPid m
  if s.localHeld m ∨ s.opMoving m.op ∨ s.opYields m.op then s.waitAt m again
  else if m.tok = 0 then s.runLocal m
  else
    let s1 := (s.senseOwner m.owner 6).updOwner m.owner fun o => o.retire pid m.tok m.floor
    match (s1.owner m.owner).entryOf pid m.tok m.sn with
    | some e => s1.sendReply m (replyBytes e.reply) (answerOf m e.kind e.reply)
    | none =>
      if snBefore m.sn m.floor then s1
      else if asksCommit m.op then s1.decideCommit ((originStrand m.origin).getD 0) m again
      else if (s1.owner m.owner).full pid m.tok ∨ s1.opLogFull m.op then s1.sendReply m 0 (.replyBusy m.origin m.seq)
      else s1.runMessage pid m

/-- Whether the router of a requester is fetching the entry of an owner's group (R379). -/
def State.routerFetches (s : State) (o : Origin) (w : Owner) : Bool :=
  match w with
  | .group gk => (s.group gk).fetching.contains (s.originRouter o)
  | _ => false

/-- A message arrives along the router tables (R228, R378, R379). -/
def State.receive (s : State) (m : Msg) (again : Instr) : State :=
  match m.owner with
  | .module n => { s with outbox := s.outbox ++ [(Config.valsenPort n, m)] }
  | w =>
    if s.ownerState w = 3 ∨ s.ownerGone w then s
    else if m.tok ≠ 0 ∧ s.routerFetches m.origin w then s.pushOnce again
    else if m.tok ≠ 0 ∧ s.reach m.origin w = .moved then s.sendReply m 0 (.replyMoved m.origin m.seq)
    else if m.tok ≠ 0 ∧ s.reach m.origin w = .lost then s
    else s.receiveHere m again

/-- REMOTE_EFFECT_MESSAGE (R228). -/
def execRemoteEffectMessage (m : Msg) (s : State) : Res := .next (s.receive m (.remoteEffectMessage m))

/-- The delivery of a line of an engine command that is on its way. -/
def State.lineRequest (s : State) (ck cmd line : Nat) : Option Req :=
  (s.core ck).eReqs.find? fun q => match q.msg.op with
    | .deliver d => d.cmd == cmd && d.line == line
    | _ => false

/-- A line arrives at its owner; one that has been answered is a duplicate and changes nothing. -/
def State.lineArrives (s : State) (ck cmd line : Nat) (again : Instr) : State :=
  match s.lineRequest ck cmd line with
  | some q => s.receive q.msg again
  | none => s

/-- CE_LINE_DELIVERY (R239). -/
def execCeLineDelivery (ck cmd line : Nat) (s : State) : Res := .next (s.lineArrives ck cmd line (.ceLineDelivery ck cmd line))
/-- CE_REDUCE_LINE (R242). -/
def execCeReduceLine (ck cmd line : Nat) (s : State) : Res := .next (s.lineArrives ck cmd line (.ceReduceLine ck cmd line))

/-! ## Replies to a strand (R232, R233) -/

/-- An EMPTY or FULL answer to a waiting try: the try is made again in 2 µs (R288). -/
def State.tryAgain (s : State) (sid : Nat) (r : Reply) : State :=
  (s.updStrand sid fun x => { x with queueSeen := (r.head, r.tail), retryAt := s.now + 2000 }).pushOnce (.queueRetry sid)

/-- The answer of a queue operation. -/
def State.queueReplied (s : State) (sid seq : Nat) (op : RemoteOp) (push : Bool) (r : Reply) : State :=
  let x := s.strand sid
  let tried := decide (r.code = qEmpty ∨ r.code = qFull)
  match x.flight seq with
  | some f =>
    match f.pend with
    | .queue _ _ _ _ _ _ => if tried then s.tryAgain sid r else (s.lapseOf op r).arrive sid seq (queueWrites r push)
    | _ => (s.lapseOf op r).arrive sid seq (queueWrites r push)
  | none =>
    let s1 := s.lapseOf op r
    if x.effect = some seq ∨ tried then s1.arrive sid seq [] else s1.updStrand sid fun x => { x with tryReply := some (op, r) }

/-- The result of an atomic: the line that it replaced is logged first (R299). -/
def State.atomicReplied (s : State) (sid seq : Nat) (red log : Bool) (r : Reply) : State :=
  match (s.strand sid).flight seq with
  | none => s.arrive sid seq []
  | some f =>
    let a := match f.pend with
      | .atomic a _ => a
      | _ => 0
    let s1 := match log, (s.strand sid).task with
      | true, some i => s.logLine (ckOf sid) i (linePtr a) r.old
      | _, _ => s
    s1.arrive sid seq (atWrites red f.pc a r.value r.mark)

/-- The answer of another module: bytes of a load, of an operand load or of a stream, a result, or an acknowledgment. -/
def State.moduleReplied (s : State) (sid seq : Nat) (acc : ModAccess) (r : Reply) : State :=
  let x := s.strand sid
  match acc.atomic with
  | some _ => s.atomicReplied sid seq (match x.flight seq with | some f => !f.port | none => true) false r
  | none =>
    match x.flight seq with
    | some f =>
      match f.pend with
      | .bytes (.rows b fmt) a => (s.sendJob sid seq (.load b fmt (rowsOf 64 r.old) r.mark)).arrive sid seq (if r.mark then [.pe f.pc a] else [])
      | .bytes k a => s.arrive sid seq (k.writes f.pc a r.old r.mark)
      | _ => s.arrive sid seq []
    | none =>
      match x.why with
      | .stream j => (s.setStrand sid { x with elem := some (j.val, r.old, r.mark) }).wakeIf sid (.stream j)
      | _ => s.arrive sid seq []

/-- Whether a request belongs to the commit of a chunk (R218). -/
def ofChunk : RemoteOp → Bool
  | .commitAt _ => true
  | .commit _ _ => true
  | _ => false

/-- What a stepped strand reports of an answer (R278). -/
def Strand.answered (x : Strand) (q : Req) (r : Reply) : Strand :=
  match q.msg.op with
  | .spawn _ _ => x.stepped 2 (BitVec.ofNat 32 r.value.toNat)
  | _ => x.stepped 3 q.msg.sn

/-- A request of a strand is answered. -/
def State.strandReplied (s : State) (sid : Nat) (q : Req) (r : Reply) : State :=
  let seq := q.seq
  let s1 := (s.updStrand sid fun x => (({ x with reqs := x.reqs.filter fun p => p.seq != seq } : Strand).answered q r))
  let s2 := if q.msg.tok = 0 ∨ ofChunk q.msg.op ∨ (s.loggedReply (ckOf sid) (strandNo sid) q.msg.sn).isSome then s1 else s1.logRec (ckOf sid) (.reply (strandNo sid) q.msg.sn r)
  let s3 := match q.msg.op with
    | .atomic _ red _ _ _ _ log => s2.atomicReplied sid seq red log r
    | .push _ _ _ _ _ => s2.queueReplied sid seq q.msg.op true r
    | .pop _ _ _ _ _ _ => s2.queueReplied sid seq q.msg.op false r
    | .arrive _ _ _ => s2.arrive sid seq [.latch .syR (mk0 r.value false)]
    | .spawn _ _ => s2.arrive sid seq [.latch .sqR (mk0 r.value false)]
    | .acquire _ => s2
    | .repl _ _ => s2
    | .commitAt _ => s2.pushOnce (.weirPrepare sid)
    | .commit _ _ => s2
    | .module acc => s2.moduleReplied sid seq acc r
    | _ => s2.arrive sid seq []
  s3.retry (ckOf sid)

/-- The logical core that owns what a request names, as packets give it (Table 13-6). -/
def State.ownerCore (s : State) (q : Req) : Nat :=
  match s.opCore q.msg.op, q.msg.owner with
  | some ck, _ => lcoreOf ck
  | none, .group gk => lcoreOf (gk * 4)
  | none, _ => 0

/-- The data of a refusal's packet. -/
def State.refusalData (s : State) (sid : Nat) (q : Req) (cause : Nat) : List Byte :=
  if cause = causeNoReply ∨ cause = causeOwnerBusy ∨ cause = causeUnderflow then leBytes 3 (s.ownerCore q)
  else match (s.strand sid).flight q.seq with
  | some f =>
    match f.pend with
    | .bytes _ a => addrBytes a
    | .atomic a _ => addrBytes a
    | _ => leBytes 3 (s.ownerCore q)
  | none => leBytes 3 (s.ownerCore q)

/-- Whether a result is one whose bundle waits and issues again when its strand is resumed (R206). -/
def Strand.waitsFor (x : Strand) (seq : Nat) : Bool :=
  match x.flight seq with
  | some f => (match f.pend with | .queue _ _ _ _ _ _ => true | _ => false)
  | none => false

/-- A refusal of a strand's request: final, and a late fault that quotes the serial; the outcomes of a killed or wounded
task are discarded (R233, R298, R330). -/
def State.strandRefused (s : State) (sid : Nat) (q : Req) (cause : Nat) : State :=
  let x := s.strand sid
  let data := s.refusalData sid q cause
  let s1 := s.updStrand sid fun x => ({ x with reqs := x.reqs.filter fun p => p.seq != q.seq } : Strand).stepped 4 q.msg.sn
  let s2 := if q.isCommit || decide (x.effect = some q.seq) then s1.dropAwait sid else s1
  let s3 := (if x.waitsFor q.seq then s2 else s2.arrive sid q.seq []).lapseOf q.msg.op ackReply
  if x.killing ∨ x.wounded then s3.retry (ckOf sid)
  else (s3.freezeLate sid q.seq cause 0 q.fpc q.second q.msg.sn.toNat data).retry (ckOf sid)

/-! ## Replies to a host queue -/

/-- The event with which a host queue's command goes on. -/
def hostEvent (q : Nat) (op : Nat) : Instr :=
  let n : Fin 8 := Fin.ofNat 8 q
  match op with
  | 1 => .hostCmdLaunch n
  | 2 => .hostCmdCopy n
  | 3 => .hostCmdSignal n
  | _ => .hostCmdWait n

/-- A request of a host queue is answered; a refusal ends its command with code 6. -/
def State.hostReplied (s : State) (q seq : Nat) (refused : Bool) : State :=
  let s1 := s.updHostq q fun h =>
    { h with reqs := h.reqs.filter fun p => p.seq != seq,
             run := h.run.map fun r => { r with outstanding := r.outstanding.filter fun n => n != seq, code := if r.code = 0 ∧ refused then 6 else r.code } }
  match (s.hostq q).run with
  | some r => s1.pushOnce (hostEvent q (fieldAt r.cmd 0 1))
  | none => s1

/-! ## The events of replies -/

/-- The cause of Table 9-8 for a refusal; `far` says that another module refuses. -/
def engineCause (far : Bool) (c : Nat) : Nat :=
  if c = causeNoReply then 3
  else if c = causeOwnerBusy then 4
  else if c = causeContribution then 5
  else if !far ∧ causeNotPresent ≤ c ∧ c ≤ causeWorld then 1
  else 2

/-- The cores whose logs an answer depends on: the one that executes the operation, or those of the group whose slice decides a chunk
(R372, R373). -/
def State.logCores (s : State) (m : Msg) : List Nat :=
  match m.op, m.owner with
  | .commitAt _, .group gk => groupCores gk
  | .commit _ _, .group gk => groupCores gk
  | op, _ => (s.opCore op).toList

/-- Whether a reply still waits for the log of the core that gives it (R373). -/
def State.replyWaits (s : State) (q : Req) : Bool :=
  q.msg.tok != 0 && (s.logCores q.msg).any fun ck => !(s.core ck).sending.isEmpty

/-- REPLY_RESULT (R232). -/
def execReplyResult (o : Origin) (seq : Nat) (r : Reply) (s : State) : Res :=
  .next (match s.request o seq with
    | none => s
    | some q =>
      if s.replyWaits q then s.pushOnce (.replyResult o seq r)
      else match o with
      | .strand sid => s.strandReplied sid q r
      | .engine ck => s.engineReplied ck seq none r
      | .host h => s.hostReplied h seq false)

/-- A request is refused with a cause. -/
def State.refused (s : State) (o : Origin) (seq cause : Nat) : State :=
  match s.request o seq with
  | none => s
  | some q =>
    match o with
    | .strand sid => s.strandRefused sid q cause
    | .engine ck =>
      let far := match q.msg.owner with | .module _ => true | _ => false
      s.engineReplied ck seq (some (engineCause far cause)) ackReply
    | .host h => s.hostReplied h seq true

/-- REPLY_REFUSE (R233). -/
def execReplyRefuse (o : Origin) (seq cause : Nat) (s : State) : Res :=
  .next (match s.request o seq with
    | none => s
    | some q => if s.replyWaits q then s.pushOnce (.replyRefuse o seq cause) else s.refused o seq cause)

/-- The event that carries a request. -/
def requestEvent (m : Msg) : Instr :=
  match m.origin with
  | .engine _ => engineEvent m
  | _ => .remoteEffectMessage m

/-- Send a request again, along the tables as they stand. -/
def State.resend (s : State) (o : Origin) (q : Req) : State :=
  let s1 := s.updReq o q.seq fun q => { q with last := s.now }
  let s2 := s1.sendMsg q.msg (requestEvent q.msg)
  if q.msg.tok = 0 then s2 else s2.pushOnce (.retransmitTimeout o q.seq)

/-- Send a recorded request again, its clocks of R229 and R232 started afresh (R235, R338, R377). -/
def State.sendAgain (s : State) (o : Origin) (q : Req) : State :=
  (s.updReq o q.seq fun q => { q with busySince := none }).resend o q

/-- REPLY_BUSY (R229): sent again in 2 µs; the requester asks for an early boundary. -/
def execReplyBusy (o : Origin) (seq : Nat) (s : State) : Res :=
  .next (match s.request o seq with
    | none => s
    | some _ =>
      let s1 := s.updReq o seq fun q => { q with last := s.now, busySince := some (q.busySince.getD s.now) }
      ((s1.pushOnce (.busyRetryTimer o seq)).pushOnce (.ownerBusyLimit o seq)).askEarly o)

/-- BUSY_RETRY_TIMER (R229). -/
def execBusyRetryTimer (o : Origin) (seq : Nat) (s : State) : Res :=
  .next (match s.request o seq with
    | none => s
    | some q => if s.now < q.last + 2000 then s.pushOnce (.busyRetryTimer o seq) else s.resend o q)

/-- OWNER_BUSY_LIMIT (R229): after 512 µs of busy replies the request is refused, while none of its sends is on its way. -/
def execOwnerBusyLimit (o : Origin) (seq : Nat) (s : State) : Res :=
  .next (match s.request o seq with
    | none => s
    | some q =>
      match q.busySince with
      | none => s
      | some t =>
        if t + 512000 ≤ s.now ∧ Instr.busyRetryTimer o seq ∈ s.agenda then
          ({ s with agenda := s.agenda.erase (.busyRetryTimer o seq) } : State).refused o seq causeOwnerBusy
        else s.pushOnce (.ownerBusyLimit o seq))

/-- REPLY_MOVED (R232). -/
def execReplyMoved (o : Origin) (seq : Nat) (s : State) : Res :=
  .next (match s.request o seq with
    | none => s
    | some q => s.resend o q)

/-- RETRANSMIT_TIMEOUT (R232, R378): 64 µs without a reply; a send to a group that is held does not count. -/
def execRetransmitTimeout (o : Origin) (seq : Nat) (s : State) : Res :=
  .next (match s.request o seq with
    | none => s
    | some q =>
      let st := s.ownerState q.msg.owner
      if s.now < q.last + 64000 then s.pushOnce (.retransmitTimeout o seq)
      else if st = 1 ∨ st = 2 then s.resend o q
      else if 8 ≤ q.sends then s.refused o seq causeNoReply
      else (s.updReq o seq fun q => { q with sends := q.sends + 1 }).resend o q)

/-! ## Floors and tokens -/

/-- Floor notices to the owners that a requester has reached; to every owner of the partition where they are more than 32
(R230). -/
def State.sendFloors (s : State) (pid : Nat) (tok : BitVec 40) (floor : BitVec 32) (reached : List Owner) : State :=
  let ws := if reached.length ≤ 32 then reached else (s.partGroups pid).map Owner.group ++ (List.range 24).map Owner.channel
  ws.foldl (fun s w => s.push (.floorNotice w (pid * 2 ^ 40 + tok.toNat) floor.toNat)) s

/-- FLOOR_NOTICE (R230): entries below the floor retire. The token carries the partition above bit 40. -/
def execFloorNotice (w : Owner) (tok floor : Nat) (s : State) : Res :=
  .next (s.updOwner w fun o => o.retire (tok / 2 ^ 40) (BitVec.ofNat 40 tok) (BitVec.ofNat 32 floor))

/-- STASH_REFILL_REQUEST (R221). -/
def execStashRefillRequest (ck : Nat) (s : State) : Res :=
  .next (
    let rk := s.rkOf ck
    let under := s.agenda.any fun e => match e with
      | .stashRefillAnswer c _ => c == ck
      | _ => false
    if !(s.core ck).refilling ∨ (s.region rk).asking.contains ck ∨ under then s.serveStash ck
    else (s.updRegion rk fun r => { r with asking := r.asking ++ [ck] }).serveTokens rk)

/-- STASH_REFILL_ANSWER (R221). -/
def execStashRefillAnswer (ck : Nat) (t : TokRec) (s : State) : Res :=
  .next (((s.updCore ck fun c => { c with stash := c.stash ++ [t], refilling := false, got := c.got ++ [t] }).askToken ck).serveStash ck)

/-! ## Invalidations (R334) -/

/-- Whether an invalidation removes an entry; an offset of the replicated window has bit 64 set. -/
def dropsEntry (pid : Nat) (off : Option Nat) (e : TlbEntry) : Bool :=
  decide (e.pid = pid) && (match off with
    | none => true
    | some o => e.covers pid (o % 2 ^ 64) (decide (2 ^ 64 ≤ o)))

/-- Whether a result waits for a page walk: an access of the rim or replicated window whose bytes or fault have not arrived. -/
def Flight.walking (f : Flight) : Bool :=
  !f.arrived && (match f.pend with
    | .walk _ _ => true
    | .bytes _ a => decide (classOf a = 3 ∨ classOf a = 4)
    | _ => false)

/-- The walks in flight of a strand are restarted: its uncommitted chunks, or the effect that waits for a late fault, are executed
again under the new translations (R334; DEDUCED, log 60). -/
def State.restartWalks (s : State) (sid : Nat) : State :=
  let x := s.strand sid
  let inChunk := fun (k : Chunk) => x.ctx.flights.any fun f => f.walking && k.issued.contains f.seq
  let held := match x.await with | some (_, k) => inChunk k | none => false
  let s1 :=
    if x.st = .idle then s
    else if held then (let s2 := s.dropAwait sid; if x.stopping then s2.pushOnce (.weirCommitRequest sid) else s2).wake sid
    else if x.waitFrom.isSome ∨ inChunk x.chunk then (if x.ctx.flights.any Flight.walking then (s.squashOpen sid).wake sid else s)
    else s
  s1.retry (ckOf sid)

/-- TLB_INVALIDATION_ARRIVAL (R334, R335): entries are dropped, and walks in flight in the region are restarted. -/
def execTlbInvalidationArrival (rk pid : Nat) (off : Option Nat) (src : Nat × Nat) (s : State) : Res :=
  .next (
    let sid := src.1
    let keep := fun (l : List TlbEntry) => l.filter fun e => !dropsEntry pid off e
    let here := (s.partCores pid).filter fun ck => s.rkOf ck = rk
    let s1 := here.foldl (fun s ck => s.updCore ck fun c => { c with tlb := keep c.tlb }) s
    let s2 := (s1.partGroups pid).foldl (fun s gk => if s.rkOfG gk = rk then s.updGroup gk fun g => { g with tlb := keep g.tlb } else s) s1
    let s3 := s2.updRegion rk fun r => { r with tlb := keep r.tlb }
    let s4 := (here.flatMap coreStrands).foldl State.restartWalks s3
    let s5 := s4.updStrand sid fun x => { x with tlbinvOut := x.tlbinvOut.filter fun p => p != (src.2, rk) }
    ((s5.strand sid).ctx.flights.filter fun f => !f.arrived && (match f.pend with | .pfence => true | _ => false)).foldl
      (fun s f => s.pushOnce (.variableResultLand sid f.seq)) s5)

/-! ## The Cascade (R181) -/

/-- One store reaches a region's replica: its bytes in order over its pieces. -/
def State.applyRepl (s : State) (pid rk : Nat) (st : ReplStore) : State :=
  (st.places.foldl (fun (q : State × List Byte) l =>
    (q.1.place none { addr := q.1.replFlat pid rk l.1, data := q.2.take l.2, mark := st.poison }, q.2.drop l.2)) (s, st.data)).1

/-- CASCADE_APPLY (R181): the next store of the Cascade order; the writer's window ends when its own region has it. -/
def execCascadeApply (pid rk : Nat) (s : State) : Res :=
  .next (
    let n := (s.region rk).cascN
    match (s.part pid).cascLog[n]? with
    | none => s
    | some st =>
      let s1 := (s.applyRepl pid rk st).updRegion rk fun r => { r with cascN := n + 1 }
      let s2 := if s.rkOf (ckOf st.sid) = rk then s1.arrive st.sid st.seq [] else s1
      s2.pushOnce (.cascadeApply pid rk))

/-! ## Accesses from other modules (R172, R178) -/

/-- The flat pieces of one place of an access from another module, or the cause with which it is refused. -/
def State.modPieces (s : State) (pid : Nat) (acc : ModAccess) (off : Nat) : Except Nat (List (Nat × Nat)) :=
  let n := acc.size
  let store := acc.write.isSome || acc.atomic.isSome
  if !(s.part pid).live || !(s.part pid).agreed then .error causeNotPresent
  else if acc.tile then
    match s.coreOfBits pid off with
    | none => .error causeWindow
    | some ck => if s.reachable pid (off % 2 ^ 20) n then .ok ((splitLines (off % 2 ^ 20) n).map fun q => (localFlat ck q.1, q.2)) else .error causeWindow
  else
    (splitLines off n).foldr (fun q r => match r, s.walk pid q.1 false with
      | .error c, _ => .error c
      | _, .bad c => .error c
      | .ok l, .leaf e => if store && !e.writable then .error causeReadOnly else .ok ((rimFlat (e.place q.1), q.2) :: l)) (.ok [])

/-- The flat pieces of an access, or the cause of its refusal. -/
def State.modAll (s : State) (pid : Nat) (acc : ModAccess) : List Nat → Except Nat (List (Nat × Nat))
  | [] => .ok []
  | o :: r =>
    match s.modPieces pid acc o, s.modAll pid acc r with
    | .error c, _ => .error c
    | _, .error c => .error c
    | .ok a, .ok b => .ok (a ++ b)

/-- The mark of word `i` of the bytes that an access writes; a single one stands for all of them. -/
def accessMark (acc : ModAccess) (i : Nat) : Bool := if acc.marks.length ≤ 1 then acc.marks.headD false else acc.marks.getD i false

/-- Write or add the bytes of an access over pieces, with the mark of each word. -/
def State.putPieces (s : State) (acc : ModAccess) (d : List Byte) : List (Nat × Nat) → Nat → State
  | [], _ => s
  | q :: r, o =>
    let b := (d.drop o).take q.2
    let ms := (List.range (ceilDiv q.2 8)).map fun i => accessMark acc (o / 8 + i)
    let s := s.overwriteAll none q.1 q.2
    let s1 := if acc.add then s.placeMarked none q.1 (s.addBytes q.1 b) (ms.mapIdx fun i m => m || s.marked (q.1 + 8 * i)) else s.placeMarked none q.1 b ms
    s1.putPieces acc d r (o + q.2)

/-- An access from another module takes its place: its result. -/
def State.runAccess (s : State) (acc : ModAccess) (ps : List (Nat × Nat)) : Reply × State :=
  let s := if acc.write.isNone then ps.foldl (fun s q => s.senseAll none q.1 q.2) s else s
  match acc.atomic, acc.write with
  | some (op, o, x), _ =>
    let r := s.atomicAt none op (ps.headD (0, 0)).1 o x (acc.marks.any fun m => m)
    (valueReply r.1 r.2.1, r.2.2)
  | none, some d =>
    let s1 := s.putPieces acc d ps 0
    let s2 := match acc.count, ckOfFlat (ps.headD (0, 0)).1 with
      | some (i, poison), ck => if poison then s1.poisonBarrier ck i else s1.countBarrier ck i 0 d.length
      | none, _ => s1
    ({ ackReply with mark := acc.add && ps.any fun q => anyMarked s1.poison q.1 q.2 }, s2)
  | none, none =>
    ({ ackReply with old := ps.flatMap fun q => memReadList s.mem q.1 q.2, mark := ps.any fun q => anyMarked s.poison q.1 q.2,
                     marks := ps.flatMap fun q => (wordsOf q.1 q.2).map fun w => hasNat s.poison w }, s)

/-- The key under which an owner keeps the answers to another module's partition. -/
def modulePid (m : Nat) : Nat := 2 ^ 20 + m

/-- An answer leaves for another module. -/
def State.answerModule (s : State) (acc : ModAccess) (k : ModAnswer) (r : Reply) : State :=
  { s with answers := s.answers ++ [(acc.fromModule, acc.tok, acc.sn, k, r)] }

/-- The answer that an entry of a result cache stores. -/
def ReplyKind.answer : ReplyKind → ModAnswer
  | .result => .result
  | .refuse c => .refuse c

/-- The entry that some owner of a partition keeps for an access (R228). -/
def State.modEntry (s : State) (acc : ModAccess) : Option CacheEnt :=
  ((s.partGroups acc.peer).map Owner.group ++ (List.range 24).map Owner.channel).findSome? fun w =>
    (s.owner w).entryOf (modulePid acc.fromModule) (BitVec.ofNat 40 acc.tok) (BitVec.ofNat 32 acc.sn)

/-- An access with its answer, as the log of the core that executed it holds it (R83, R372). -/
def accessMsg (acc : ModAccess) (w : Owner) : Msg :=
  { origin := .host 0, seq := 0, tok := BitVec.ofNat 40 acc.tok, sn := BitVec.ofNat 32 acc.sn, floor := BitVec.ofNat 32 acc.floor, owner := w, op := .module acc }

/-- An access is executed at an owner, which keeps its answer; the core whose lines it names logs it. -/
def State.execAccess (s : State) (acc : ModAccess) (w : Owner) (ps : List (Nat × Nat)) : Reply × State :=
  let key := modulePid acc.fromModule
  let tok := BitVec.ofNat 40 acc.tok
  let r := s.runAccess acc ps
  (r.1, r.2.updOwner w fun o => (o.retire key tok (BitVec.ofNat 32 acc.floor)).keep key tok (BitVec.ofNat 32 acc.sn) .result r.1)

/-- Whether another module's access waits at a core for its log, its migration or its group (R373, R378, R408). -/
def State.accessWaits (s : State) (a : Nat) : Bool :=
  s.ownerHeld (ownerOfFlat a) || (isLocalFlat a && ((s.core (ckOfFlat a)).moving || !(s.core (ckOfFlat a)).sending.isEmpty))

/-- An access finds an owner: one below the floor is not answered, one that has been answered gets its answer again, and for one that
the owner has no room to keep or to log the answer is *busy* (R228, R373). -/
def State.accessAt (s : State) (acc : ModAccess) (w : Owner) (ck : Option Nat) (k : State → State) : State :=
  let key := modulePid acc.fromModule
  let tok := BitVec.ofNat 40 acc.tok
  let sn := BitVec.ofNat 32 acc.sn
  let floor := BitVec.ofNat 32 acc.floor
  let s1 := s.updOwner w fun o => o.retire key tok floor
  if snBefore sn floor then s1
  else match s1.modEntry acc with
    | some e => s1.answerModule acc e.kind.answer e.reply
    | none => if (s1.owner w).full key tok ∨ ck.any (fun c => (s1.core c).logFull) then s1.answerModule acc .busy ackReply else k s1

/-- REMOTE_MODULE_ACCESS (R178, R228): it is translated with this partition's tables and executed once; a refusal is kept by the
partition's first group (DESIGN CHOICE, log 56). The answer of a core leaves when its log has been written (R373): the access is then found
answered. -/
def execRemoteModuleAccess (acc : ModAccess) (s : State) : Res :=
  let key := modulePid acc.fromModule
  let tok := BitVec.ofNat 40 acc.tok
  let sn := BitVec.ofNat 32 acc.sn
  .next (match s.modAll acc.peer acc acc.offs with
    | .error c =>
      if !(s.part acc.peer).live then s.answerModule acc (.refuse c) ackReply
      else
        let w := Owner.group (acc.peer * 2 ^ 22)
        s.accessAt acc w none fun s => (s.updOwner w fun o => o.keep key tok sn (.refuse c) ackReply).answerModule acc (.refuse c) ackReply
    | .ok ps =>
      let a := (ps.headD (0, 0)).1
      let w := ownerOfFlat a
      if s.accessWaits a then s.pushOnce (.remoteModuleAccess acc)
      else s.accessAt acc w (if isLocalFlat a then some (ckOfFlat a) else none) fun s =>
        let r := s.execAccess acc w ps
        if isLocalFlat a then (r.2.logRec (ckOfFlat a) (.incoming (accessMsg acc w) r.1)).pushOnce (.remoteModuleAccess acc)
        else r.2.answerModule acc .result r.1)

end Sys2Proof.Machine
end

