-- ==== Sys2Proof/Machine/Binding.lean ====
section
/-! DEFINITION. Binding logical groups to physical groups and seats to positions (R16, R18), the latency base (R311), the
router entries of a partition, and what of the agenda belongs to a partition. -/

namespace Sys2Proof.Machine

/-! ## Places in a region (R16, R18) -/

/-- The live positions of a physical group that are not retired. -/
def Region.positions (r : Region) (g : Nat) : List Nat :=
  (List.range 5).filter fun p => (r.groupLive g).testBit p && !r.retired.contains (g, p)

/-- The groups of a region that are live and in service: not unreachable and not left out. -/
def Region.inService (r : Region) : List Nat :=
  (List.range 36).filter fun g => r.live.getLsbD g && !r.outGroups.contains g && !r.unreach.contains g

/-- The groups that can present four seats. -/
def Region.usable (r : Region) : List Nat := r.inService.filter fun g => decide (4 ≤ (r.positions g).length)

/-- The positions of the four seats where `ps` are the live positions: seats in ascending order; where positions are short
the highest seats share those of the lowest (R339, R381). -/
def seatVec (ps : List Nat) : Vector Nat 4 := Vector.ofFn fun (i : Fin 4) => ps.getD (if i.val < ps.length then i.val else i.val - ps.length) 0

/-- The seats that share the position of a lower-numbered seat: they use the shadow half (R379, R381). -/
def displaced (pos : Vector Nat 4) : List (Fin 4) := (List.finRange 4).filter fun i => (List.finRange 4).any fun j => decide (j < i) && pos[j] == pos[i]

/-- The DBL bits of an entry: the higher-numbered of two seats that share a position (R381). -/
def dblBits (pos : Vector Nat 4) : BitVec 4 := (displaced pos).foldl (fun (b : BitVec 4) i => b ||| BitVec.twoPow 4 i.val) 0

/-- The entry of a logical group on a physical group of a region. -/
def entryFor (rk g : Nat) (pos : Vector Nat 4) : RouterEntry :=
  { RouterEntry.reset with rx := rk % 12, ry := rk / 12, group := g, dbl := dblBits pos, pos := pos }

/-- The entry as its 64-bit word (Table 15-5). -/
def RouterEntry.word (e : RouterEntry) : BitVec 64 :=
  BitVec.ofNat 64 (e.ver.toNat * 2 ^ 56 + e.state.toNat * 2 ^ 54 + e.rx * 2 ^ 50 + e.ry * 2 ^ 46 + e.group * 2 ^ 40 + e.dbl.toNat * 2 ^ 36 +
    e.pos[3] * 2 ^ 33 + e.pos[2] * 2 ^ 30 + e.pos[1] * 2 ^ 27 + e.pos[0] * 2 ^ 24)

/-- The place of an entry's seat as reports give it (Table 14-3). -/
def RouterEntry.place (e : RouterEntry) (seat : Nat) : Nat := placeWord (e.ry * 12 + e.rx) e.group (e.pos.toList.getD seat 0)

/-- The cores of a group take the places that an entry gives their seats. -/
def State.placeCores (s : State) (gk : Nat) (e : RouterEntry) : State :=
  (List.finRange 4).foldl (fun (s : State) i =>
    s.updCore (gk * 4 + i.val) fun c =>
      { c with rx := e.rx, ry := e.ry, group := e.group, pos := e.pos[i],
               dbl := (List.finRange 4).any fun j => j != i && e.pos[j] == e.pos[i], shadow := e.dbl.getLsbD i.val }) s

/-- The logical group with index `i` of a region of a partition (R18). -/
def State.groupOfIndex (s : State) (pid rk i : Nat) : Option Nat := (s.coreOfIndex pid rk (4 * i)).map gkOf
/-- The logical index of a group in its region. -/
def State.groupIndex (s : State) (gk : Nat) : Nat := s.localIndex (gk * 4) / 4
/-- Logical groups of a region. -/
def Grade.groups (g : Grade) : Nat := 4 * g.width

/-! ## The latency base (R311) -/

/-- The uncontended physical latency between two physical groups at 1.6 GHz: what the mesh takes within regions, detours included,
which depend on the groups `bound` that are not spare and which the spec does not give (log 63), and 4 cycles for each crossing of a region boundary on the way (R310). -/
def State.pathCycles (s : State) (bound : List Nat) (a b : Nat) : Nat :=
  Config.pathLatency s.liveGroups bound a b + 4 * (s.crossings (a / 36) (b / 36)).length

/-- The smallest base that serves every ordered pair of groups, each with its physical number and logical coordinates. -/
def State.latencyBase (s : State) (h : Nat) (gs : List (Nat × Nat × Nat)) : Nat :=
  gs.foldl (fun b (p : Nat × Nat × Nat) => gs.foldl (fun b (q : Nat × Nat × Nat) =>
    let d := (p.2.1 - q.2.1) + (q.2.1 - p.2.1) + (p.2.2 - q.2.2) + (q.2.2 - p.2.2)
    max b (s.pathCycles (gs.map Prod.fst) p.1 q.1 - h * d)) b) 8

/-- The groups of a partition with their physical numbers and logical coordinates. -/
def State.groupSites (s : State) (pid : Nat) : List (Nat × Nat × Nat) :=
  (s.partGroups pid).map fun gk => (s.groupKey gk, s.gxOf (gk * 4), s.gyOf (gk * 4))

/-- A remap has been made: EXCEED is set where a path's physical latency exceeds b + h × d (R312). -/
def State.noteExceed (s : State) (pid : Nat) : State :=
  if (s.part pid).b < s.latencyBase (s.part pid).h (s.groupSites pid) then s.updPart pid fun p => { p with exceed := true } else s

/-! ## The agenda of a partition -/

/-- The core, or the first core of the group, to which something that has been caused belongs, if to one; messages belong to
their requester's. -/
def eventCore (e : Instr) : Option Nat :=
  match e with
  | .fixedResultVisible a => some (ckOf a)
  | .variableResultLand a _ => some (ckOf a)
  | .leaseGrant a => some (a * 4)
  | .leaseIdleLimit a => some (a * 4)
  | .mxCommandAccept a => some (a * 4)
  | .mxCommandExecute a => some (a * 4)
  | .cePushAccept a => some (ckOf a)
  | .ceCommandStart a => some a
  | .ceLineDelivery a _ _ => some a
  | .ceReduceLine a _ _ => some a
  | .cePoisonNotice a _ => some a
  | .copyqMessagePush a _ => some a
  | .ceCommandComplete a _ => some a
  | .strandControlAct a => some (ckOf a)
  | .streamElementArrival a _ => some (ckOf a)
  | .chunkLengthReached a => some (ckOf a)
  | .weirCommitRequest a => some (ckOf a)
  | .weirPrepare a => some (ckOf a)
  | .effectIssue a => some (ckOf a)
  | .fenceCheck a => some (ckOf a)
  | .translationWalk a _ => some (ckOf a)
  | .remoteEffectMessage m => originCore m.origin
  | .replyResult o _ _ => originCore o
  | .replyBusy o _ => originCore o
  | .replyMoved o _ => originCore o
  | .replyRefuse o _ _ => originCore o
  | .retransmitTimeout o _ => originCore o
  | .busyRetryTimer o _ => originCore o
  | .ownerBusyLimit o _ => originCore o
  | .floorNotice (.group g) _ _ => some (g * 4)
  | .stashRefillRequest a => some a
  | .stashRefillAnswer a _ => some a
  | .reductionTake a => some a
  | .reductionDownwardReceive a _ _ _ _ => some a
  | .reductionRoundEnd a => some a
  | .waitExpired a => some (ckOf a)
  | .queueRetry a => some (ckOf a)
  | .setAcquireRequest q => some q.core
  | .setGrant a _ => some (ckOf a)
  | .woundRollback a _ => some a
  | .setRelease _ a _ _ => some a
  | .alarmFire a => some (ckOf a)
  | .slip a => some (ckOf a)
  | .fetchFillArrival a _ => some a
  | .fetchRetryTimeout a => some (ckOf a)
  | .writeFaultRingBase a _ _ => some (ckOf a)
  | .systemWindowStore a _ => some (ckOf a)
  | .debugResume a _ => some (ckOf a)
  | .debugStep a => some (ckOf a)
  | .debugKill a => some (ckOf a)
  | .watchdogFire a => some a
  | .boundaryStart a => some (a * 4)
  | .boundaryRecord a => some (a * 4)
  | .boundaryApply a _ => some (a * 4)
  | .boundaryDurable a => some (a * 4)
  | .boundaryAbandon a => some (a * 4)
  | .boundaryRetry a => some (a * 4)
  | .logRecord a _ => some a
  | .recoveryStart a _ => some (a * 4)
  | .recoveryReplay a => some (a * 4)
  | .forwardWindowExpiry a => some (a * 4)
  | .strandSwap a _ _ => some a
  | .groupUnreachable a => some (a * 4)
  | .basinDrain c => some c.core
  | .basinStop c => some c.core
  | .basinMigrate c => some c.core
  | .basinRemapPrepare c => some c.core
  | .basinRemapCommit c => some c.core
  | .basinReturn c => some c.core
  | .basinBoundaryNow c => some c.core
  | .basinFail c => some c.core
  | _ => none

/-- The partition to which something that has been caused belongs, if to one. -/
def eventPid (e : Instr) : Option Nat :=
  match e with
  | .tlbInvalidationArrival _ p _ _ => some p
  | .cascadeNumbering p _ => some p
  | .cascadeApply p _ => some p
  | .launchExpansion p _ => some p
  | .launchStalled p _ => some p
  | .domainAgreement d => some d.pid
  | .faultRingDeliver p _ => some p
  | .preemptSave p => some p
  | .preemptGraceExpiry p => some p
  | .routerEntryPending p _ _ => some p
  | .routerEntryCommit p _ _ => some p
  | .routerAckTimeout p _ _ => some p
  | .routerEntryDoubleError p _ _ => some p
  | e => (eventCore e).map pidOf

/-- The agenda without what belongs to a partition. -/
def State.dropEvents (s : State) (pid : Nat) : State := s.keepEvents fun e => eventPid e != some pid

/-- Whether something that has been caused outlives a rollback of its group, or its record: what boundaries, recovery and Basin
cause does not, and answers are asked for again with fresh clocks. -/
def outlivesRecord (e : Instr) : Bool :=
  match e with
  | .boundaryStart _ | .boundaryRecord _ | .boundaryApply _ _ | .boundaryDurable _ | .boundaryAbandon _ | .boundaryRetry _ | .logRecord _ _
  | .recoveryStart _ _ | .recoveryReplay _ | .forwardWindowExpiry _ | .strandSwap _ _ _ | .groupUnreachable _ | .basinDrain _ | .basinStop _
  | .basinMigrate _ | .basinRemapPrepare _ | .basinRemapCommit _ | .basinReturn _ | .basinBoundaryNow _ | .basinFail _ | .replyResult _ _ _
  | .replyBusy _ _ | .replyMoved _ _ | .replyRefuse _ _ _ | .busyRetryTimer _ _ | .ownerBusyLimit _ _ | .retransmitTimeout _ _
  | .stashRefillAnswer _ _ => false
  | _ => true

/-- What has been caused in a group, as a record of it holds it. -/
def State.groupAgenda (s : State) (gk : Nat) : List Instr := s.inFlight.filter fun e => (eventCore e).map gkOf == some gk && outlivesRecord e

/-! ## The record of a group (R369) -/

/-- The strands of a group. -/
def groupStrands (gk : Nat) : List Nat := (groupCores gk).flatMap coreStrands

/-- The stage queues that are homed in a group. -/
def State.homedStages (s : State) (gk : Nat) : List (Nat × Queue) :=
  let rk := s.rkOfG gk
  ((s.region rk).stages.filter fun p => match s.coreOfIndex (pidOfG gk) rk p.2.home with
    | some ck => gkOf ck == gk
    | none => false).map fun p => (p.1, p.2.q)

/-- What the record of a boundary holds (R369). -/
def State.snapshot (s : State) (gk e : Nat) (stopped : List Nat) : GroupSnap :=
  { e := e, data := (s.group gk).data, cores := (groupCores gk).map fun ck => (ck, s.core ck),
    strands := (groupStrands gk).map fun sid => (sid, s.strand sid), stages := s.homedStages gk,
    stopped := stopped.filter fun sid => (s.strand sid).st = .stopped, agenda := s.groupAgenda gk }

/-! ## A partition leaves its regions -/

/-- Whether a flat address lies in the local stores of a partition. -/
def inLocalOf (pid a : Nat) : Bool := decide (localFlat (ckAt pid 0) 0 ≤ a ∧ a < localFlat (ckAt (pid + 1) 0) 0)
/-- Whether a flat address lies in the checkpoint images of a partition. -/
def inImageOf (pid a : Nat) : Bool := decide (imageFlat (ckAt pid 0) 0 ≤ a ∧ a < imageFlat (ckAt (pid + 1) 0) 0)

/-- The local stores and images of a partition are zero, with no mark set (R387); every cell of its cores and groups is written. -/
def State.clearStores (s : State) (pid : Nat) : State :=
  let s := (s.partRegions pid).foldl State.renewRegion s
  { s with mem := s.mem.filter fun c => !inLocalOf pid c.1 && !inImageOf pid c.1,
           poison := s.poison.filter fun w => !inLocalOf pid (8 * w) && !inImageOf pid (8 * w) }

/-- The records of a partition's cores, strands and groups are gone. -/
def State.clearRecords (s : State) (pid : Nat) : State :=
  let outC := fun (ck : Nat) => !decide (pidOf ck = pid)
  { s with cores := s.cores.filter fun p => outC p.1, strands := s.strands.filter fun p => outC (ckOf p.1), groups := s.groups.filter fun p => outC (p.1 * 4) }

/-- The channels keep nothing for a partition any more. -/
def State.clearChannels (s : State) (pid : Nat) : State :=
  { s with channels := s.channels.mapAll fun _ c =>
      { c with own := { c.own with cache := c.own.cache.filter fun e => e.pid != pid,
                                   locks := c.own.locks.filter fun q => pidOf q.2.core != pid,
                                   waiters := c.own.waiters.filter fun q => pidOf q.core != pid,
                                   slice := { c.own.slice with prep := c.own.slice.prep.filter fun q => pidOf (ckOf q.1) != pid } } } }

/-- A region that its partition has left: open (R319); what the module keeps of it stays. -/
def Region.release (r : Region) : Region :=
  { Region.reset with
    fmax := r.fmax, drift := r.drift, stretches := r.stretches, stretched := r.stretched, calm := r.calm, phase := r.phase, cyc := r.cyc, copy := r.copy, pulse := r.pulse, lost := r.lost,
    retired := r.retired, outGroups := r.outGroups, unreach := r.unreach, corr := r.corr, unc := r.unc, fatal := r.fatal, live := r.live,
    livepos := r.livepos }

/-- The partition's regions are released (R337, R343). -/
def State.releaseRegions (s : State) (pid : Nat) : State :=
  { s with regions := s.regions.mapAll fun _ r => if r.pid = some pid then r.release else r }

/-- The routers of a partition, by physical group: region × 36 + group. -/
def State.routers (s : State) (pid : Nat) : List Nat :=
  (s.partRegions pid).flatMap fun rk =>
    let r := s.region rk
    ((List.range 36).filter fun g => r.live.getLsbD g && !r.unreach.contains g).map fun g => rk * 36 + g

end Sys2Proof.Machine
end

