-- ==== Sys2Proof/Machine/ErrorEvents.lean ====
section
/-! DEFINITION. Scrubs of coded banks (R354) and rim channels (R362), checks of the core's logic and the watchdog
(R358-R360). -/

namespace Sys2Proof.Machine

/-! ## Core fatal (R359) -/

/-- The strand of a core that issued in the current cycle, or strand 0 when none did (R359). -/
def State.issuing (s : State) (ck : Nat) : Nat :=
  let c := s.core ck
  sidOf ck (if c.rotAt = some (s.cyc ck) then c.rot % 16 else 0)

/-- The packet of a core-fatal fault of a logical core. -/
def State.fatalPacket (s : State) (ck detail unit_ lane : Nat) : List Byte :=
  let sid := s.issuing ck
  let x := s.strand sid
  s.faultPacket sid causeCoreFatal detail x.ctx.pc x.ctx.second 0 [BitVec.ofNat 8 unit_, BitVec.ofNat 8 lane]

/-- A strand of a failed core freezes, with its open chunk and the chunk that awaited commit dropped. -/
def State.freezeFatal (s : State) (sid : Nat) : State :=
  let x := s.strand sid
  ((s.dropAwait sid).squashOpen sid).updStrand sid fun y =>
    { y.endSerial with
      st := .frozen, frozenFrom := if x.st = .frozen then x.frozenFrom else x.st, stopping := false, stepping := false, bounded := false,
      cspc := x.packetStart }

/-- Every strand of a logical core freezes, its engine starts no further delivery, and the packet is sent. -/
def State.coreDies (s : State) (ck detail unit_ lane : Nat) : State :=
  let pkt := s.fatalPacket ck detail unit_ lane
  let s1 := (coreStrands ck).foldl State.freezeFatal s
  let s2 := s1.updCore ck fun c => { c with fatal := true, fifo := [], running := [] }
  s2.sendPacket (pidOf ck) (s.rkOf ck) pkt

/-- A core-fatal fault of a physical core: every logical core seated there dies, and Basin recovers the group (R374). -/
def State.coreFatal (s : State) (place detail unit_ lane : Nat) : State :=
  let rk := place / 8 / 36
  match (s.region rk).pid with
  | none => s
  | some pid =>
    let cks := (s.seatedOn pid place).filter fun ck => !(s.core ck).fatal
    match cks with
    | [] => s
    | ck :: _ =>
      let s1 := cks.foldl (fun s c => s.coreDies c detail unit_ lane) s
      (s1.updRegion rk fun r => { r with fatal := countTo r.fatal 0xFFFF }).push (.recoveryStart (gkOf ck) (.coreFatal ck))

/-- Whether a result of a strand has been computed, is due and is not visible, though nothing before it is outstanding (R360). -/
def Strand.pastDue (x : Strand) : Bool := !(landScan x.ctx.flights []).2.isEmpty

/-- Since when a condition has held, at cycle `now`. -/
def sinceWhen (b : Bool) (t : Option Nat) (now : Nat) : Option Nat := if b then some (t.getD now) else none

/-- Whether a condition that has held since `t` has held for `n` cycles. -/
def heldFor (t : Option Nat) (n now : Nat) : Bool := t.any fun t => decide (t + n ≤ now)

/-- What the watchdog has seen of a strand: ready without issuing, and a fixed-latency result past its due bundle (R360). -/
def State.watchStrand (s : State) (sid : Nat) : State :=
  let now := s.cyc (ckOf sid)
  s.updStrand sid fun x => { x with readyFrom := sinceWhen (s.canIssue sid) x.readyFrom now, dueFrom := sinceWhen x.pastDue x.dueFrom now }

/-- WATCHDOG_FIRE (R360): a strand has been ready for 2^WD cycles without issuing, a fixed-latency result is as late, or the issue stage
has offered no slot for so long while a strand was ready. -/
def execWatchdogFire (ck : Nat) (s : State) : Res :=
  .next (
    let c := s.core ck
    let n := 2 ^ (s.unit (unitKey (.core c.physPlace))).wd
    let now := s.cyc ck
    let sids := coreStrands ck
    if c.fatal then s
    else
      let s1 := (sids.foldl State.watchStrand s).updCore ck fun c => { c with watchFrom := sinceWhen (sids.any s.canIssue) c.watchFrom now }
      if heldFor (s1.core ck).watchFrom n now || sids.any fun sid => heldFor (s1.strand sid).readyFrom n now || heldFor (s1.strand sid).dueFrom n now then
        s1.coreFatal c.physPlace 3 9 0
      else s1.pushOnce (.watchdogFire ck))

/-! ## Scrubs of coded banks (R354) -/

/-- Whether a failed check is one of R359, in a physical core. -/
def checkKnown (f : CheckFail) : Bool :=
  decide (f.unit_ ≤ 8) && decide (f.detail = if f.unit_ ≤ 4 then 1 else 2) && (if f.unit_ = 8 then decide (f.lane < 64) else decide (f.lane = 0))

/-- What soft errors, failed checks and failed arrays do between two events, in the order of this list (R348-R361, R374; log 11). -/
def State.disturb (s : State) : State :=
  let s1 := (Config.upsets s.steps).foldl State.strike s
  let s2 := (Config.rimUpsets s.steps).foldl State.strikeRim s1
  let s3 := match Config.codeFail s.steps with
    | some q => s2.dropCodeLine q
    | none => s2
  let s4 := match Config.tlbFail s.steps with
    | some q => s3.dropTlb q
    | none => s3
  let s5 := match Config.checkFail s.steps with
    | some f => if checkKnown f then s4.coreFatal f.place f.detail f.unit_ f.lane else s4
    | none => s4
  let s6 := match Config.entryFail s.steps with
    | some (r, gk) => if (s5.part (pidOfG gk)).live ∧ (s5.routers (pidOfG gk)).contains r then
        (s5.updGroup gk fun g => { g with fetching := if g.fetching.contains r then g.fetching else g.fetching ++ [r] }).pushOnce (.routerEntryDoubleError (pidOfG gk) r gk)
      else s5
    | none => s5
  match (Config.arrayFail s.steps).bind fun p => (s6.region (p / 36)).pid.bind fun pid => s6.groupOfKey pid p with
  | some gk => s6.push (.recoveryStart gk .array)
  | none => s6

/-- Whether a scrub of number `n` checks a word's column group: the banks of an array go through their own column groups, the
column fastest. -/
def scrubMeets (n : Nat) (w : Cell) : Bool :=
  let k := n % (16 * blocksOf w.array)
  decide ((parityWord w).row = k / 16 ∧ w.col = k % 16)

/-- One column group of each bank of a unit is checked. -/
def State.scrubUnit (s : State) (u : ErrUnit) (n : Nat) : State :=
  (((s.flippedWords u).filter (scrubMeets n)).map parityWord).eraseDups.foldl (fun s w => s.scrubGroup u w) s

/-- SCRUB_TICK (R354): each 2^SCRUB cycles; a SCRUB of 0 stops it where it stands. -/
def execScrubTick (u : ErrUnit) (s : State) : Res :=
  .next (
    let x := s.unit (unitKey u)
    if x.err.scrub = 0 then s
    else if (s.region (unitSite u).1).cyc < x.scrubAt + 2 ^ x.err.scrub then s.pushOnce (.scrubTick u)
    else
      ((s.updUnit (unitKey u) fun y => { y with scrubs := y.scrubs + 1, scrubAt := y.scrubAt + 2 ^ y.err.scrub }).scrubUnit u x.scrubs).pushOnce (.scrubTick u))

/-! ## Scrubs of rim channels (R362) -/

/-- The shared time at which a channel's n-th line is due: 2^29 lines in 24 hours. -/
def rimDue (n : Nat) : Nat := n * 86400000000000 / 2 ^ 29

/-- A line of a channel is checked: a line corrected on two passes in a row is reported. -/
def State.scrubLine (s : State) (c line : Nat) : State :=
  let es := (s.channel c).upsets.getD line []
  let s1 := s.rebuildRim line none 2
  let fixed := decide (es ≠ [] ∧ es.length ≤ 6)
  let s2 := if fixed && hasNat (s1.channel c).corrected line then s1.rimReport c none 0x46 0 line else s1
  s2.updChannel c fun x => { x with corrected := if fixed then insertNat x.corrected line else eraseNat x.corrected line }

/-- RIM_SCRUB (R362): the next line of a channel. -/
def execRimScrub (c : Fin 24) (s : State) : Res :=
  .next (
    let n := (s.channel c.val).scrubAt
    if s.now < rimDue n then s.pushOnce (.rimScrub c)
    else
      let s2 := s.scrubLine c.val (c.val * 2 ^ 29 + n % 2 ^ 29)
      (s2.updChannel c.val fun x => { x with scrubAt := n + 1, rpass := if (n + 1) % 2 ^ 29 = 0 then x.rpass + 1 else x.rpass }).pushOnce (.rimScrub c))

end Sys2Proof.Machine
end

