-- ==== Sys2Proof/Machine/Crypto.lean ====
section
/-! DEFINITION. The digest and the signatures that R28 and R344-R346 name. The manual names SHAKE256 and Ed448 and does not repeat them:
they are taken from FIPS 202 and RFC 8032 (PRESUMED, log 8). The private key of a module's identity is a free value. -/

namespace Sys2Proof.Machine

/-! ## SHAKE256 -/

/-- The round constants of the permutation. -/
def keccakRounds : List (BitVec 64) :=
  [0x0000000000000001, 0x0000000000008082, 0x800000000000808A, 0x8000000080008000, 0x000000000000808B, 0x0000000080000001,
   0x8000000080008081, 0x8000000000008009, 0x000000000000008A, 0x0000000000000088, 0x0000000080008009, 0x000000008000000A] ++
  [0x000000008000808B, 0x800000000000008B, 0x8000000000008089, 0x8000000000008003, 0x8000000000008002, 0x8000000000000080,
   0x000000000000800A, 0x800000008000000A, 0x8000000080008081, 0x8000000000008080, 0x0000000080000001, 0x8000000080008008]

/-- How far lane x + 5 y is rotated. -/
def keccakRot : List Nat := [0, 1, 62, 28, 27, 36, 44, 6, 55, 20, 3, 10, 43, 25, 39, 41, 45, 15, 21, 8, 18, 2, 61, 56, 14]

/-- One round on 25 lanes. -/
def keccakRound (a : List (BitVec 64)) (rc : BitVec 64) : List (BitVec 64) :=
  let lane := fun (l : List (BitVec 64)) (x y : Nat) => l.getD (x % 5 + 5 * (y % 5)) 0
  let c := (List.range 5).map fun x => (List.range 5).foldl (fun v y => v ^^^ lane a x y) 0
  let d := (List.range 5).map fun x => c.getD ((x + 4) % 5) 0 ^^^ (c.getD ((x + 1) % 5) 0).rotateLeft 1
  let t := (List.range 25).map fun i => a.getD i 0 ^^^ d.getD (i % 5) 0
  let b := (List.range 25).map fun i =>
    let x := i % 5
    let y := i / 5
    let j := (x + 3 * y) % 5 + 5 * x
    (t.getD j 0).rotateLeft (keccakRot.getD j 0)
  (List.range 25).map fun i =>
    let x := i % 5
    let y := i / 5
    (lane b x y ^^^ (~~~ lane b (x + 1) y &&& lane b (x + 2) y)) ^^^ if i = 0 then rc else 0

/-- The permutation. -/
def keccakF (a : List (BitVec 64)) : List (BitVec 64) := keccakRounds.foldl keccakRound a

/-- Little-endian bytes as lanes of 8. -/
def bytesLanes (b : List Byte) : List (BitVec 64) := (List.range 25).map fun i => BitVec.ofNat 64 (ofLE ((b.drop (8 * i)).take 8))

/-- Lanes as bytes. -/
def lanesBytes (a : List (BitVec 64)) : List Byte := a.flatMap fun l => leBytes 8 l.toNat

/-- A block of 136 bytes is absorbed. -/
def absorb (a : List (BitVec 64)) (block : List Byte) : List (BitVec 64) := keccakF (List.zipWith (· ^^^ ·) a (bytesLanes block))

/-- A message with its padding: 0x1F after it, 0x80 in the last byte of the last block. -/
def shakePad (m : List Byte) : List Byte :=
  let z := 135 - m.length % 136
  if z = 0 then m ++ [0x9F] else m ++ [0x1F] ++ List.replicate (z - 1) 0 ++ [0x80]

/-- SHAKE256 of a message, the first 136 bytes of it at most. -/
def shake (m : List Byte) (n : Nat) : List Byte :=
  let p := shakePad m
  let a := (List.range (p.length / 136)).foldl (fun a i => absorb a ((p.drop (136 * i)).take 136)) (List.replicate 25 0)
  (lanesBytes a).take n

/-- The 64-byte digest (R344-R346). -/
def shake256 (m : List Byte) : BitVec 512 := BitVec.ofNat 512 (ofLE (shake m 64))

/-! ## Ed448 -/

/-- The field's prime. -/
def edP : Nat := 2 ^ 448 - 2 ^ 224 - 1
/-- The order of the base point. -/
def edL : Nat := 2 ^ 446 - 13818066809895115352007386748515426880336692474882178609894547503885
/-- The curve's constant, -39081. -/
def edD : Nat := edP - 39081

/-- A power modulo the prime; `n` bits of the exponent. -/
def edPow (b e : Nat) : Nat → Nat
  | 0 => 1
  | n + 1 => let h := edPow (b * b % edP) (e / 2) n; if e % 2 = 1 then h * b % edP else h

/-- The inverse of a field element. -/
def edInv (x : Nat) : Nat := edPow x (edP - 2) 448

/-- The difference of field elements. -/
def edSub (x y : Nat) : Nat := (x + edP - y % edP) % edP

/-- The sum of two points in projective coordinates; it is complete, and doubles too. -/
def edAdd (p q : Nat × Nat × Nat) : Nat × Nat × Nat :=
  let a := p.2.2 * q.2.2 % edP
  let b := a * a % edP
  let c := p.1 * q.1 % edP
  let d := p.2.1 * q.2.1 % edP
  let e := edD * (c * d % edP) % edP
  let f := edSub b e
  let g := (b + e) % edP
  let h := (p.1 + p.2.1) * (q.1 + q.2.1) % edP
  (a * f % edP * edSub h (c + d) % edP, a * g % edP * edSub d c % edP, f * g % edP)

/-- A multiple of a point; `n` bits of the factor. -/
def edMul (p : Nat × Nat × Nat) (k : Nat) : Nat → Nat × Nat × Nat
  | 0 => (0, 1, 1)
  | n + 1 => let h := edMul (edAdd p p) (k / 2) n; if k % 2 = 1 then edAdd h p else h

/-- The base point. -/
def edBase : Nat × Nat × Nat :=
  (224580040295924300187604334099896036246789641632564134246125461686950415467406032909029192869357953282578032075146446173674602635247710,
   298819210078481492676017930443930673437544040154080242095928241372331506189835876003536878655418784733982303233503462500531545062832660, 1)

/-- The 57 bytes of a point. -/
def edEncode (p : Nat × Nat × Nat) : List Byte :=
  let z := edInv p.2.2
  leBytes 57 (p.2.1 * z % edP + 2 ^ 455 * (p.1 * z % edP % 2))

/-- The point that 57 bytes name, if they name one. -/
def edDecode (b : List Byte) : Option (Nat × Nat × Nat) :=
  let v := ofLE b
  let y := v % 2 ^ 455
  let sign := v / 2 ^ 455
  let num := edSub (y * y % edP) 1
  let den := edSub (edD * (y * y % edP) % edP) 1
  let n3 := num * num % edP * num % edP
  let d3 := den * den % edP * den % edP
  let x := n3 * den % edP * edPow (n3 * (num * num % edP) % edP * d3 % edP) ((edP - 3) / 4) 448 % edP
  if b.length ≠ 57 ∨ edP ≤ y ∨ den * (x * x % edP) % edP ≠ num ∨ (x = 0 ∧ sign = 1) then none
  else some (if x % 2 = sign then x else edP - x, y, 1)

/-- The prefix of what is hashed: no context. -/
def edDom : List Byte := [0x53, 0x69, 0x67, 0x45, 0x64, 0x34, 0x34, 0x38, 0, 0]

/-- A number hashed from bytes. -/
def edHash (b : List Byte) : Nat := ofLE (shake (edDom ++ b) 114)

/-- Whether two points are one. -/
def edSame (p q : Nat × Nat × Nat) : Bool :=
  decide (p.1 * q.2.2 % edP = q.1 * p.2.2 % edP ∧ p.2.1 * q.2.2 % edP = q.2.1 * p.2.2 % edP)

/-- Whether 114 bytes are an Ed448 signature of a message by a 57-byte public key. -/
def ed448Verify (key m sig : List Byte) : Bool :=
  let s := ofLE (sig.drop 57)
  match edDecode key, edDecode (sig.take 57) with
  | some a, some r =>
    let k := edHash (sig.take 57 ++ key ++ m) % edL
    let times4 := fun p => edMul p 4 3
    decide (sig.length = 114 ∧ s < edL) && edSame (times4 (edMul edBase s 446)) (times4 (edAdd r (edMul a k 446)))
  | _, _ => false

/-- The scalar of a 57-byte private key. -/
def edScalar (key : List Byte) : Nat := ofLE ((shake key 114).take 57) / 4 * 4 % 2 ^ 447 ||| 2 ^ 447

/-- The public key of a private key. -/
def ed448Public (key : List Byte) : List Byte := edEncode (edMul edBase (edScalar key) 448)

/-- The Ed448 signature of a message by a private key. -/
def ed448Sign (key m : List Byte) : List Byte :=
  let s := edScalar key
  let r := edHash ((shake key 114).drop 57 ++ m) % edL
  let rb := edEncode (edMul edBase r 446)
  let k := edHash (rb ++ ed448Public key ++ m) % edL
  rb ++ leBytes 57 ((r + k * s) % edL)

end Sys2Proof.Machine
end

