-- ==== Sys2Proof/Machine/Fetch.lean ====
section
/-! DEFINITION. Fetching pairs (R37, R313): the group's instruction cache, slips, fills and their retries, and the
freezing of an illegal word (R52). -/

namespace Sys2Proof.Machine

/-- The pair that a group's instruction cache holds at a pair number. -/
def Group.pairAt (g : Group) (pc : BitVec 64) : Option (BitVec 64) :=
  (g.icache.find? fun e => e.1 == pc.toNat / 16).bind fun e => e.2[pc.toNat % 16]?

/-- The pairs of a line of a partition's code image that lie inside it. -/
def State.codeLine (s : State) (pid line : Nat) : List (BitVec 64) :=
  let p := s.part pid
  (List.range (min 16 (p.codesz - 16 * line))).map fun i => BitVec.ofNat 64 (s.load (rimFlat (p.code + 8 * (16 * line + i))) 8)

/-- A fill reads its line of the code image: an error is reported to the region of the requesting core (R357, R361). -/
def State.senseCode (s : State) (ck line : Nat) : State :=
  s.senseAll (some ck) (rimFlat ((s.part (pidOf ck)).code + 128 * line)) 128

/-- Keep a line in an instruction cache of 1,024 lines. -/
def addLine (l : List (Nat × List (BitVec 64))) (line : Nat) (ps : List (BitVec 64)) (pick : Nat) : List (Nat × List (BitVec 64)) :=
  let l := l.filter fun e => e.1 != line
  if l.length < 1024 then l ++ [(line, ps)] else l.eraseIdx (pick % l.length) ++ [(line, ps)]

/-- A fetch fault (Table 13-6). -/
def State.freezeFetch (s : State) (sid detail : Nat) : State :=
  let pc := (s.strand sid).ctx.pc
  s.freeze sid causeFetch detail pc false 0 (leBytes 8 pc.toNat)

/-- SLIP (R313): the strand's next pair is not in the cache; a wait that it resumes counts no further slip. -/
def execSlip (sid : Nat) (s : State) : Res :=
  .next (
    let x := s.strand sid
    let gk := gkOf (ckOf sid)
    if x.st ≠ .ready ∨ ((s.group gk).pairAt x.ctx.pc).isSome then s
    else
      let again := match x.carry with
        | some (.slip, _) => true
        | _ => false
      let s1 := (s.enterWait sid .slip .fetch 0).updStrand sid fun y =>
        { y with slips := if again then y.slips else y.slips + 1, fetchSends := 1, retryAt := s.now + 64000 }
      (s1.askFill (ckOf sid) (x.ctx.pc.toNat / 16)).pushOnce (.fetchRetryTimeout sid))

/-- A fill reaches one strand: it is ready, or its pair lies outside the code image. -/
def State.filled (s : State) (pid line sid : Nat) : State :=
  let x := s.strand sid
  if x.why = .fetch ∧ x.ctx.pc.toNat / 16 = line then
    if x.ctx.pc.toNat < (s.part pid).codesz then s.wake sid
    else if x.st = .slip then s.freezeFetch sid 1 else s
  else s

/-- FETCH_FILL_ARRIVAL (R313). -/
def execFetchFillArrival (ck line : Nat) (s : State) : Res :=
  .next (
    let gk := gkOf ck
    let pid := pidOf ck
    let s := s.senseCode ck line
    let ps := s.codeLine pid line
    let s1 := if ps = [] then s else s.updGroup gk fun g => { g with icache := addLine g.icache line ps (Config.evict s.steps) }
    ((groupCores gk).flatMap coreStrands).foldl (fun s sid => s.filled pid line sid) s1)

/-- FETCH_RETRY_TIMEOUT (R313): 64 µs without an answer; after 8 sends the strand freezes. -/
def execFetchRetryTimeout (sid : Nat) (s : State) : Res :=
  .next (
    let x := s.strand sid
    if x.st ≠ .slip then s
    else if s.now < x.retryAt then s.pushOnce (.fetchRetryTimeout sid)
    else if 8 ≤ x.fetchSends then s.freezeFetch sid 2
    else
      ((s.setStrand sid { x with fetchSends := x.fetchSends + 1, retryAt := s.now + 64000 }).askFill (ckOf sid)
        (x.ctx.pc.toNat / 16)).pushOnce (.fetchRetryTimeout sid))

/-- ILLEGAL_WORD (R52): the word being issued freezes its strand, before any effect. -/
def execIllegalWord (s : State) : Res := .next (s.faultWord causeIllegal)

end Sys2Proof.Machine
end

