-- ==== Sys2Proof/Machine/Partition.lean ====
section
/-! DEFINITION. The Igfel controller: start-up (R344), creating and destroying partitions (R324, R325, R343), load-store
domains (R343), the worlds of rim channels (R319) and attestation (R346). -/

namespace Sys2Proof.Machine

/-! ## Double-seated cores (R382) -/

/-- The strands of a double-seated core that are not resident: 8 to 15, but strand 15 takes slot 7 from strand 7 where `redpin`
pins it. -/
def Core.parkedStrands (c : Core) : List Nat := if c.redpin.getLsbD 63 then [7, 8, 9, 10, 11, 12, 13, 14] else [8, 9, 10, 11, 12, 13, 14, 15]

/-- A core that shares its position: 8 strands are resident, and swaps begin. -/
def State.seatDouble (s : State) (ck : Nat) : State :=
  let s1 := s.updCore ck fun c =>
    let ps := c.parkedStrands
    { c with parked := ps, swapBase := ((List.range 16).filter fun n => !ps.contains n).map fun n => (n, (s.strand (sidOf ck n)).committed) }
  s1.pushOnce (.strandSwap ck 8 0)

/-! ## The mailbox (R325, R340) -/

/-- A code in the mailbox's status, with its interrupt. -/
def State.mail (s : State) (code : BitVec 8) : State :=
  { s with igfel := { s.igfel with mailbox := code, mailRaised := s.igfel.mailRaised + 1 } }

/-- A refusal that names a region, with the mailbox's interrupt. -/
def State.refuseRegion (s : State) (rk : Option Nat) : State :=
  { s with igfel := { s.igfel with refusal := rk, mailRaised := s.igfel.mailRaised + 1 } }

/-! ## Start-up (R344) -/

/-- The units that are scrubbed: every physical core and every physical group (R354). -/
def allUnits : List ErrUnit :=
  (List.range 5184).flatMap fun g => ((List.range 5).map fun p => ErrUnit.core (g * 8 + p)) ++ [.group g]

/-- Whether the controller's firmware carries the vendor's signature. -/
def bootOk (images : List FirmwareImage) : Bool :=
  match images.find? fun i => i.kind == 1 with
  | some i => ed448Verify Config.vendorKey i.bytes i.signature
  | none => false

/-- What runs from start-up on: scrubs of the units and channels, the copies of shared time and their reference pulses (R308). -/
def State.startClocks (s : State) : State :=
  let s1 := { s with agenda := s.agenda ++ allUnits.map Instr.scrubTick ++ (List.finRange 24).map Instr.rimScrub ++ (List.range 144).map fun rk => .timeReferencePulse rk s.now }
  (List.range 144).foldl (fun s rk => (s.updRegion rk fun r => { r with pulse := s.now, copy := s.now }).measureAgeing rk (s.ageCounts rk)) s1

/-- MODULE_START (R344): the firmware is verified and measured; a failed signature halts start-up. -/
def execModuleStart (images : List FirmwareImage) (s : State) : Res :=
  .next (
    if s.igfel.started then s
    else if !bootOk images then s.mail 0xFF
    else ({ s with igfel := { s.igfel with started := true, log := images.map fun i => (i.kind, shake256 i.bytes) } } : State).startClocks)

/-! ## The descriptor (Table 13-3) -/

/-- The fields of a descriptor. -/
def partOfDesc (d : List Byte) : Part :=
  { Part.reset with
    live := true, rx0 := fieldAt d 0 1, ry0 := fieldAt d 1 1, wr := fieldAt d 2 1, hr := fieldAt d 3 1, secure := decide (fieldAt d 4 1 = 1),
    h := fieldAt d 5 1, sup := fieldAt d 6 1, share := fieldAt d 7 1, t := fieldAt d 8 2, rs := fieldAt d 10 2, toks := fieldAt d 12 4,
    ptroot := fieldAt d 16 8, code := fieldAt d 24 8, codesz := fieldAt d 32 8, kentry := BitVec.ofNat 64 (fieldAt d 40 8),
    sentry := BitVec.ofNat 64 (fieldAt d 48 8), casc := fieldAt d 56 2, ival := fieldAt d 58 2,
    exp := (List.range 4).map fun i => (fieldAt d (64 + 8 * i) 4, fieldAt d (68 + 8 * i) 4), dmod := fieldAt d 104 1,
    dmask := BitVec.ofNat 8 (fieldAt d 105 1), dpeer := fieldAt d 108 1 }

/-- STAGES. -/
def descStages (d : List Byte) : Nat := fieldAt d 96 8

/-- The region indices of a rectangle. -/
def rectRegions (rx0 ry0 wr hr : Nat) : List Nat := (List.range hr).flatMap fun j => (List.range wr).map fun i => (ry0 + j) * 12 + rx0 + i

/-- The regions of a partition that is being created. -/
def Part.regions (p : Part) : List Nat := rectRegions p.rx0 p.ry0 p.wr p.hr

/-- The replicated area of a partition on a grade (R180). -/
def Part.repBytes (p : Part) (cr : Nat) : Nat := 128 * ceilDiv p.rsBytes (128 * cr)

/-- Code 1: every field keeps its limit. -/
def descFits (g : Grade) (d : List Byte) : Bool :=
  let p := partOfDesc d
  let priv := 2 ^ 20 - p.shareBytes - p.repBytes g.cr
  let z := fun o n => decide (fieldAt d o n = 0)
  decide (d.length = 128) && decide (1 ≤ p.wr ∧ 1 ≤ p.hr ∧ p.rx0 + p.wr ≤ 12 ∧ p.ry0 + p.hr ≤ 12) && decide (fieldAt d 4 1 ≤ 1) &&
    decide (2 ≤ p.h ∧ p.h ≤ 6) && decide (p.sup < g.cr) && decide (p.share ≤ 14) && decide (64 ≤ p.t ∧ p.t ≤ 1024) && decide (p.rs ≤ 1024) &&
    decide (64 ≤ p.toks ∧ p.toks ≤ 2 ^ 20) && decide (p.ptroot % 65536 = 0) && decide (p.code % 65536 = 0) && decide (1 ≤ p.codesz ∧ p.codesz ≤ 2 ^ 24) &&
    decide (p.kentry.toNat < p.codesz ∧ p.sentry.toNat < p.codesz) && p.regions.contains (p.casc / 36) && decide (1 ≤ p.ival ∧ p.ival ≤ 64) && z 60 4 &&
    (p.exp.all fun e => decide (e.2 = 0 ∨ (e.1 % 128 = 0 ∧ e.2 % 128 = 0 ∧ e.1 + e.2 ≤ priv))) &&
    decide (descStages d + p.regions.length * g.cr ≤ rimLimit ∨ descStages d = 0) && decide (p.dmod < 8) && (p.dmask == 0 || p.dmask.getLsbD p.dmod) &&
    z 106 2 && z 109 3 && (p.secure || z 112 16)

/-- Code 2: no live partition holds a region of the rectangle, and each region presents the logical shape (R17, R18). -/
def State.shapeFits (s : State) (p : Part) : Bool :=
  p.regions.all fun rk => (s.region rk).pid.isNone && decide (s.grade.groups ≤ (s.region rk).usable.length)

/-- Code 3: a secure partition needs a signature by an enrolled key over the descriptor before SIG (R320). -/
def signatureOk (d sig : List Byte) (secure : Bool) : Bool :=
  !secure || (decide (sig.length = 114) && decide (d.drop 112 = sig.take 16) && Config.ownerKeys.any fun k => ed448Verify k (d.take 112) sig)

/-- The cores of a rectangle's region that a stage of the descriptor names, by their region-local index. -/
def State.stageCores (s : State) (d : List Byte) (p : Part) (rk n : Nat) : List Nat :=
  if descStages d = 0 then []
  else
    let w := s.grade.width
    (List.range s.grade.cr).filter fun i =>
      let gx := (rk % 12 - p.rx0) * w + (i / 4) % w
      let gy := (rk / 12 - p.ry0) * 4 + (i / 4) / w
      decide (memRead s.mem (rimFlat (descStages d + (gy * (p.wr * w) + gx) * 4 + i % 4)) = BitVec.ofNat 8 n)

/-- The stages that the descriptor names in a region, each with its cores. -/
def State.stagesOf (s : State) (d : List Byte) (p : Part) (rk : Nat) : List (Nat × List Nat) :=
  ((List.range 255).map fun n => (n, s.stageCores d p rk n)).filter fun q => q.2 != []

/-- The sum of MIN of a group's queues at creation (Table 11-3), with `n` stage queues homed in it. -/
def minAtCreation (t n : Nat) : Nat := 4 * (ceilDiv t 62 + 20) + 2 * n

/-- Whether no group homes too many stage queues (R283). -/
def State.queuesFit (s : State) (d : List Byte) (p : Part) : Bool :=
  p.regions.all fun rk =>
    let homes := (s.stagesOf d p rk).map fun q => q.2.headD 0 / 4
    (List.range s.grade.groups).all fun i => decide (minAtCreation p.t (homes.filter fun h => h = i).length ≤ 512)

/-- The groups a rectangle would bind, with their physical numbers and logical coordinates. -/
def State.plannedSites (s : State) (p : Part) : List (Nat × Nat × Nat) :=
  let w := s.grade.width
  p.regions.flatMap fun rk => ((s.region rk).usable.take s.grade.groups).mapIdx fun i g => (rk * 36 + g, (rk % 12) * w + i % w, (rk / 12) * 4 + i / w)

/-- Code 4: private part, queue minimum, latency base. -/
def State.spaceFits (s : State) (d : List Byte) (p : Part) : Bool :=
  decide (p.shareBytes + p.repBytes s.grade.cr + 65536 ≤ 2 ^ 20) && s.queuesFit d p && decide (s.latencyBase p.h (s.plannedSites p) ≤ 255)

/-- The checkpoint area of a partition (Table 15-2). -/
def Part.checkpointBytes (p : Part) (g : Grade) : Nat :=
  let r := p.wr * p.hr
  1024 * (r * g.cr * 1552 + r * g.groups * 1344 + r * 16384 + if p.wr % 2 = 1 then p.hr * g.cr * 1024 else 0)

/-- The channels that a partition of a world may use (R320). -/
def State.worldChannels (s : State) (secure : Bool) : List Nat := (List.range 24).filter fun c => secure || !(s.channel c).secure

/-- Whether `n` bytes of physical rim memory lie in channels of a partition's world. -/
def State.inWorld (s : State) (secure : Bool) (pa n : Nat) : Bool :=
  decide (pa + n ≤ rimLimit) && (List.range ((pa + n - 1) / 2 ^ 36 + 1 - pa / 2 ^ 36)).all fun i => (s.worldChannels secure).contains (pa / 2 ^ 36 + i)

/-- Whether a leaf entry maps a frame of a channel. -/
def Pte.mapsInto (e : Pte) (c : Nat) : Bool := e.bit 0 && e.bit 1 && !e.bit 4 && decide (e.addr / 2 ^ 36 = c)
/-- Whether an entry names a further table. -/
def Pte.isTable (e : Pte) : Bool := e.bit 0 && !e.bit 1

/-- Whether the page tables under a root map a frame in a channel. -/
def State.rootMaps (s : State) (root c : Nat) : Bool :=
  (List.range 8192).any fun i =>
    let e1 := s.pte root i
    e1.isTable && (List.range 8192).any fun j =>
      let e2 := s.pte e1.addr j
      e2.mapsInto c || (e2.isTable && (List.range 8192).any fun k => (s.pte e2.addr k).mapsInto c)

/-- Whether an open partition's page tables map frames of a secure channel: the controller refuses to map them (R320). -/
def State.mapsSecure (s : State) (p : Part) : Bool :=
  !p.secure && (List.range 24).any fun c => (s.channel c).secure && s.rootMaps p.ptroot c

/-- Code 5: page root, code image and checkpoint area lie in the partition's channels (R325, R369). -/
def State.placesFit (s : State) (p : Part) : Bool :=
  s.inWorld p.secure p.ptroot 65536 && s.inWorld p.secure p.code (8 * p.codesz) &&
    decide (((s.parts.filter fun q => q.2.live && q.2.secure == p.secure).map fun q => q.2.ckArea).sum + p.checkpointBytes s.grade ≤ (s.worldChannels p.secure).length * 2 ^ 36)

/-- The code with which a descriptor is refused, if it is: the lowest of those that apply. -/
def State.createCode (s : State) (d sig : List Byte) : Option Nat :=
  let p := partOfDesc d
  if !descFits s.grade d then some 1
  else if !s.shapeFits p then some 2
  else if !signatureOk d sig p.secure ∨ s.mapsSecure p then some 3
  else if !s.spaceFits d p then some 4
  else if !s.placesFit p then some 5
  else none

/-! ## Creation (R325) -/

/-- The partition numbers that no live or saved partition has. -/
def State.freePids (s : State) : List Nat :=
  (List.range 256).filter fun n => !(s.part n).live && !(s.saved.any fun q => q.2.pid == n)

/-- The k-th token of a partition: none is zero (R221). -/
def poolToken (pid k : Nat) : BitVec 40 := BitVec.ofNat 40 (1 + ((Config.tokenBase pid).toNat + k) % (2 ^ 40 - 1))

/-- Tokens that the slices of a partition hold: those of engines and of strands started without a task come after (R221). -/
def Part.sliceTokens (p : Part) : Nat := p.wr * p.hr * p.toks

/-- The stage control words at creation (log 24). -/
def State.freshStages (s : State) (pid : Nat) (d : List Byte) (p : Part) (rk : Nat) : Store Stage :=
  (s.stagesOf d p rk).map fun q =>
    (q.1, { home := q.2.headD 0, en := true, maxc := s.grade.cr, minc := 0, hi := 2 ^ 16 - 1, lo := 0, q := Queue.reset 2 128,
            cores := (q.2.filterMap fun i => s.coreOfIndex pid rk i).foldl insertNat [] })

/-- Region `j` of a partition at creation. -/
def State.freshRegion (s : State) (pid : Nat) (d : List Byte) (p : Part) (rk j : Nat) : Region :=
  let r := (s.region rk).release
  let bound := r.usable.take s.grade.groups
  { r with
    pid := some pid, secure := p.secure, stretches := 0, govAt := s.now + 1000,
    pool := (List.range p.toks).map fun k => { token := poolToken pid (j * p.toks + k), sn := 0, floor := 0 },
    stages := s.freshStages pid d p rk, spares := r.usable.drop s.grade.groups,
    sparePos := bound.flatMap fun g => ((r.positions g).drop 4).map fun q => (g, q) }

/-- The first 1,024 lines of a code image. -/
def State.codeLines (s : State) (pid : Nat) : List (Nat × List (BitVec 64)) :=
  (List.range (min 1024 (ceilDiv (s.part pid).codesz 16))).map fun n => (n, s.codeLine pid n)

/-- The time of a group's first boundary (R367). -/
def State.firstBoundary (s : State) (pid rk i : Nat) : Nat := s.now + (s.part pid).ival * 250000 * ((rk * 32 + i) % 64) / 64

/-- The groups of a region of a partition, bound in order (R18). -/
def State.bindGroups (s : State) (pid rk : Nat) : State :=
  let r := s.region rk
  let s := s.senseAll (some (s.supCore pid rk)) (rimFlat (s.part pid).code) (8 * (s.part pid).codesz)
  let img := s.codeLines pid
  (List.range s.grade.groups).foldl (fun (s : State) i =>
    match s.groupOfIndex pid rk i, r.usable[i]? with
    | some gk, some g =>
      (s.setGroup gk { Group.reset with entry := entryFor rk g (seatVec ((r.positions g).take 4)), icache := img, nextBoundary := s.firstBoundary pid rk i }).push (.boundaryStart gk)
    | _, _ => s) s

/-- A core at creation: its place, its engine's token, and an empty stash that asks for records (R221, R248). -/
def State.startCore (s : State) (pid ck : Nat) : State :=
  let k := (s.part pid).sliceTokens + lcoreOf ck
  let c := { Core.reset with gx := s.gxOf ck, gy := s.gyOf ck, sup := decide (ck = s.supCore pid (s.rkOf ck)), eTok := poolToken pid k }
  (((s.setCore ck c).placeCores (gkOf ck) (s.group (gkOf ck)).entry).askToken ck).push (.watchdogFire ck)

/-- A strand that creation starts: strand 0 of a kernel core, or any strand of a supervisor core (R258, R321). -/
def State.startStrand (s : State) (pid ck n : Nat) : State :=
  let p := s.part pid
  let sup := (s.core ck).sup
  if !sup && decide (n ≠ 0) then s
  else
    let tok := poolToken pid (p.sliceTokens + p.n + lcoreOf ck * 16 + n)
    let g1 : Reg80 := if sup then make 0 (BitVec.ofNat 64 n) else 0
    let x := Strand.reset.fresh (if sup then p.sentry else p.kentry) 0 g1 0 (rngSeed (lcoreOf ck * 16 + n) tok.toNat)
    s.setStrand (sidOf ck n) { x with tok := tok, ag := BitVec.ofNat 64 s.now, st := .ready, recorded := .ready }

/-- The cores of a partition that has been set up, in partition order. -/
def State.newCores (s : State) (pid : Nat) : List Nat := (List.range (s.part pid).n).map (ckAt pid)

/-- The other modules of a partition's load-store domain. -/
def Part.domainOthers (p : Part) : List Nat := (List.range 8).filter fun m => p.dmask.getLsbD m && m != p.dmod

/-- A partition is created (R325). -/
def State.createPart (s : State) (pid : Nat) (d : List Byte) : State :=
  let p0 := partOfDesc d
  let p : Part := { p0 with
    n := p0.wr * p0.hr * s.grade.cr, b := s.latencyBase p0.h (s.plannedSites p0), ckArea := p0.checkpointBytes s.grade, cyc0 := s.regions.map fun (q : Nat × Region) => (q.1, q.2.cyc),
    measure := shake256 (d ++ memReadList s.mem (rimFlat p0.code) (8 * p0.codesz)) }
  let s0 := p.regions.foldl State.renewRegion s
  let s1 := ((((s0.dropEvents pid).clearStores pid).clearRecords pid).clearChannels pid).setPart pid p
  let s2 := (p.regions.zipIdx).foldl (fun (s : State) q => ((s.setRegion q.1 (s.freshRegion pid d p q.1 q.2)).bindGroups pid q.1).pushOnce (.sluiceGovernorTick q.1)) s1
  let s3 := (s2.newCores pid).foldl (fun s ck => s.startCore pid ck) s2
  let s4 := (s3.newCores pid).foldl (fun s ck => (List.range 16).foldl (fun s n => s.startStrand pid ck n) s) s3
  let s5 := (s4.partGroups pid).foldl (fun s gk => s.updGroup gk fun g => { g with durable := some (s.snapshot gk (2 ^ 32 - 1) []) }) s4
  if p.dmask ≠ 0 ∧ p.domainOthers = [] then s5.push (.domainAgreement { pid := pid, peers := [] }) else s5

/-- PARTITION_CREATE (R325): the descriptor is refused with a code, or the partition starts. Its number is free. -/
def execPartitionCreate (desc sig : List (BitVec 8)) (s : State) : Res :=
  .next (
    if !s.igfel.started then s
    else match s.createCode desc sig, s.freePids with
    | some c, _ => s.mail (BitVec.ofNat 8 c)
    | none, [] => s.mail 2
    | none, f :: r => (s.createPart ((f :: r).getD ((Config.freeWord s.fresh).toNat % (r.length + 1)) f) desc).bump)

/-! ## Domains, destruction, worlds -/

/-- Whether a partition and those of the other controllers make one domain (R320, R343). -/
def Part.joins (p : Part) (peers : List DomainPeer) : Bool :=
  peers.all fun q => q.dmask == p.dmask && q.dpeer == p.dpeer && q.secure == p.secure

/-- DOMAIN_AGREEMENT (R343): the controllers agree a domain once each of its modules has its partition; one that would join different
worlds, masks or partition numbers is refused (R320; the mailbox code is a DESIGN CHOICE, log 62). -/
def execDomainAgreement (d : DomainJoin) (s : State) : Res :=
  .next (
    let p := s.part d.pid
    if !p.live ∨ p.dmask = 0 ∨ p.domainOthers.any (fun m => !d.peers.any fun q => q.dmod == m) then s
    else if p.joins d.peers then s.updPart d.pid fun p => { p with agreed := true } else s.mail 3)

/-- The regions of a partition are released, and nothing of it is left but what was saved (R343). -/
def State.wipePart (s : State) (pid : Nat) : State :=
  let s1 := (((((s.dropEvents pid).clearStores pid).clearRecords pid).clearChannels pid).releaseRegions pid)
  { s1 with parts := s1.parts.del pid }

/-- PARTITION_DESTROY (R343): the regions are released, and nothing of the partition is left. -/
def execPartitionDestroy (pid : Nat) (s : State) : Res :=
  .next { s.wipePart pid with saved := s.saved.filter fun q => q.2.pid != pid }

/-- Whether a live or saved partition maps a frame in a channel. -/
def State.channelMapped (s : State) (c : Nat) : Bool :=
  (s.parts.any fun p => p.2.live && s.rootMaps p.2.ptroot c) || s.saved.any fun q => s.rootMaps q.2.part.ptroot c

/-- Every byte of a channel is zero. -/
def State.zeroChannel (s : State) (c : Nat) : State :=
  let inside := fun (a : Nat) => decide (rimFlat (c * 2 ^ 36) ≤ a ∧ a < rimFlat ((c + 1) * 2 ^ 36))
  ({ s with mem := s.mem.filter fun x => !inside x.1, poison := s.poison.filter fun w => !inside (8 * w) } : State).updChannel c fun x => { x with upsets := [] }

/-- RIM_CHANNEL_WORLD_SET (R319): only while no partition maps a frame in the channel. -/
def execRimChannelWorldSet (c : Fin 24) (secure : Bool) (s : State) : Res :=
  .next (
    if s.channelMapped c.val then s
    else (if (s.channel c.val).secure && !secure then s.zeroChannel c.val else s).updChannel c.val fun x => { x with secure := secure })

/-! ## Attestation (R346) -/

/-- The bytes of the report before its signature. -/
def State.reportHead (s : State) (nonce : List (BitVec 8)) (pid : Option Nat) : List Byte :=
  let zero := fun (n : Nat) => List.replicate n (0 : Byte)
  let grade := (List.range 144).flatMap s.fusedOf
  let p := match pid with
    | some n => if (s.part n).live then some (n, s.part n) else none
    | none => none
  leBytes 2 1 ++ leBytes 2 s.igfel.log.length ++ zero 4 ++ (nonce ++ zero 32).take 32 ++ ed448Public Config.identitySecret ++ zero 7 ++
    leBytes 64 (shake256 grade).toNat ++ leBytes 64 ((p.map fun q => q.2.measure.toNat).getD 0) ++
    [BitVec.ofNat 8 ((p.map Prod.fst).getD 0), if (p.map fun q => q.2.secure).getD false then 1 else 0] ++ zero 6 ++
    s.igfel.log.flatMap fun m => leBytes 4 m.1.toNat ++ zero 12 ++ leBytes 64 m.2.toNat

/-- ATTESTATION_REQUEST (R346): the report is signed over the digest of bytes 0 to 239 + 80n − 1. -/
def execAttestationRequest (nonce : List (BitVec 8)) (pid : Option Nat) (s : State) : Res :=
  .next (
    if !s.igfel.started then s
    else
      let b := s.reportHead nonce pid
      let sig := ed448Sign Config.identitySecret (leBytes 64 (shake256 (b.take (239 + 80 * s.igfel.log.length))).toNat)
      ({ s with igfel := { s.igfel with report := b ++ sig, reportRaised := s.igfel.reportRaised + 1 } } : State).mail 1)

end Sys2Proof.Machine
end

