-- ==== Sys2Proof/Machine/Boundaries.lean ====
section
/-! DEFINITION. Interval boundaries of a logical group (R367-R371) and the writing of its cores' logs (R372, R373). -/

namespace Sys2Proof.Machine

/-! ## What a group holds -/

/-- Whether a strand is out of the rotation for good: idle, stopped or frozen. -/
def SState.still : SState → Bool
  | .idle => true
  | .stopped => true
  | .frozen => true
  | _ => false

/-- Whether a boundary of a group cannot begin now: one is in progress, or the group is recovered or moved. -/
def State.boundaryBlocked (s : State) (gk : Nat) : Bool :=
  let g := s.group gk
  g.boundary.isSome || g.recovery.isSome || g.rebind.isSome || g.entry.state != 0 || (groupCores gk).any fun ck => (s.core ck).moving

/-- Whether a boundary of a group is due: its interval has passed, or a core has asked for it (R367). -/
def State.boundaryDue (s : State) (gk : Nat) : Bool :=
  decide ((s.group gk).nextBoundary ≤ s.now) || (groupCores gk).any fun ck => (s.core ck).early

/-! ## Step 1: quiesce (Table 15-1) -/

/-- The strands of a group that are still in the rotation are stopped, and the boundary remembers them. -/
def State.stopForBoundary (s : State) (gk : Nat) : State :=
  let live := (groupStrands gk).filter fun sid => !(s.strand sid).st.still && !(s.strand sid).stopping
  (live.foldl State.stop s).updGroup gk fun g => { g with boundary := g.boundary.map fun b => { b with stopped := b.stopped ++ live.filter fun sid => !b.stopped.contains sid } }

/-- BOUNDARY_START (R368): the quiesce begins. -/
def execBoundaryStart (gk : Nat) (s : State) : Res :=
  .next (
    let g := s.group gk
    if !(s.part (pidOfG gk)).live ∨ g.entry.state = 3 then s
    else if s.boundaryBlocked gk ∨ !s.boundaryDue gk then s.pushOnce (.boundaryStart gk)
    else
      let b : Boundary := { e := g.nextE, stage := .quiesce, snap := none, since := s.now, stopped := [], logs := [], toks := [], out := [], acks := [], journal := [] }
      (((s.setGroup gk { g with boundary := some b }).stopForBoundary gk).pushOnce (.boundaryRecord gk)).pushOnce (.boundaryAbandon gk))

/-- Whether a strand has quiesced: it is still, its chunks are gone, and its requests and effects have been answered.
DEDUCED: a control word that waits for its target does not hold it up (log 26). -/
def State.strandQuiet (s : State) (sid : Nat) : Bool :=
  let x := s.strand sid
  x.st.still && !x.stopping && x.await.isNone && x.effect.isNone && x.reqs.isEmpty &&
    (x.ctl.isEmpty || decide (x.why = .context))

/-- Whether a core has quiesced: its strands, its engine and its log. -/
def State.coreQuiet (s : State) (ck : Nat) : Bool :=
  let c := s.core ck
  (coreStrands ck).all s.strandQuiet && c.eReqs.isEmpty && c.fifo.isEmpty && c.running.isEmpty && c.sending.isEmpty

/-- The first core of a group whose quiesce has not finished. -/
def State.unquiet (s : State) (gk : Nat) : Option Nat := (groupCores gk).find? fun ck => !s.coreQuiet ck

/-- Whether a group has quiesced, its array included. -/
def State.groupQuiet (s : State) (gk : Nat) : Bool := (s.unquiet gk).isNone && (s.group gk).arriving.isEmpty && (s.group gk).queue.isEmpty

/-- The strands that a boundary stopped return to their recorded states. -/
def State.resumeAll (s : State) (sids : List Nat) : State :=
  sids.foldl (fun s sid => if (s.strand sid).st = .stopped then s.reenter sid (s.strand sid).recorded else s) s

/-! ## Steps 2 and 3: record and resume -/

/-- The bytes and marks of the line at a flat address. -/
def State.lineAt (s : State) (a : Nat) : List Byte × List Bool :=
  (memReadList s.mem a 128, (List.range 16).map fun i => hasNat s.poison (a / 8 + i))

/-- Put the bytes and marks of a line at a flat address. -/
def State.putLine (s : State) (a : Nat) (d : List Byte) (ms : List Bool) : State :=
  let s := s.overwriteAll none a 128
  { s with mem := memWriteList s.mem a d, poison := (List.range 16).foldl (fun p i => setMark p (a / 8 + i) (ms.getD i false)) s.poison }

/-- A strand whose pending error is set freezes with cause *poison* (R215); one that was frozen sends a further packet (R328). -/
def State.boundaryFence (s : State) (stopped : List Nat) (sid : Nat) : State :=
  let x := s.strand sid
  if !x.ctx.pe.set ∨ x.st = .idle then s
  else
    let s1 := if stopped.contains sid then s.setStrand sid { x with st := x.recorded } else s
    s1.freeze sid causePoison 0 x.ctx.pc x.ctx.second 0 (addrBytes x.ctx.pe.addr ++ leBytes 8 x.ctx.pe.pc.toNat)

/-- The lines of a core that go to its buddy, in increasing offset. -/
def State.changedLines (s : State) (ck : Nat) : List (Nat × Nat × List Byte × List Bool) :=
  (s.core ck).changed.map fun l => let p := s.lineAt (localFlat ck (128 * l)); (seatOf ck, l, p.1, p.2)

/-- A boundary reads the changed lines of a group's cores (R351). -/
def State.senseChanged (s : State) (gk : Nat) : State :=
  (groupCores gk).foldl (fun s ck => (s.core ck).changed.foldl (fun s l => s.sense (some ck) (lineOf (localFlat ck (128 * l)))) s) s

/-- After the record, changes, requests and owners reached count towards the next boundary. -/
def State.afterRecord (s : State) (gk : Nat) : State :=
  let s1 := (groupCores gk).foldl (fun s ck => s.updCore ck fun c => { c with changed := [], early := false, eReached := [], copyLost := if c.copyLost = 0 then 0 else 2 }) s
  (groupStrands gk).foldl (fun s sid => s.updStrand sid fun x => { x with reached := [] }) s1

/-- BOUNDARY_RECORD (R368): once the group is quiet, the record is taken, the strands resume and the transfer starts. -/
def execBoundaryRecord (gk : Nat) (s : State) : Res :=
  .next (match (s.group gk).boundary with
    | none => s
    | some b =>
      if b.stage ≠ .quiesce then s
      else if !s.groupQuiet gk then (s.stopForBoundary gk).pushOnce (.boundaryRecord gk)
      else
        let s1 := (groupStrands gk).foldl (fun s sid => s.boundaryFence b.stopped sid) ((s.senseChanged gk).senseRecord gk)
        let b1 : Boundary :=
          { b with stage := .transfer, snap := some (s1.snapshot gk b.e b.stopped), out := (groupCores gk).flatMap s1.changedLines,
                   logs := (groupCores gk).map fun ck => (s1.core ck).log.length, toks := (groupCores gk).map fun ck => ((s1.core ck).got.length, (s1.core ck).gave) }
        let s2 := ((s1.afterRecord gk).updGroup gk fun g => { g with boundary := some b1 }).resumeAll b.stopped
        (List.finRange 4).foldl (fun s i => s.push (.boundaryApply gk i)) s2)

/-! ## Steps 4 and 5: transfer and apply -/

/-- BOUNDARY_APPLY (R368): a buddy journals each line it replaces, writes the new one, and acknowledges. -/
def execBoundaryApply (gk : Nat) (seat : Fin 4) (s : State) : Res :=
  .next (match (s.group gk).boundary with
    | none => s
    | some b =>
      if b.stage ≠ .transfer ∨ b.acks.contains seat.val then s
      else
        let mine := b.out.filter fun p => decide (p.1 = seat.val)
        let at_ := fun (l : Nat) => imageFlat (gk * 4 + seat.val) (128 * l)
        let js := mine.map fun p => let o := s.lineAt (at_ p.2.1); (at_ p.2.1, o.1, o.2)
        let s1 := mine.foldl (fun s p => s.putLine (at_ p.2.1) p.2.2.1 p.2.2.2) s
        let b1 : Boundary := { b with acks := seat.val :: b.acks, journal := b.journal ++ js }
        let s2 := s1.updGroup gk fun g => { g with boundary := some b1 }
        if b1.acks.length = 4 then s2.push (.boundaryDurable gk) else s2)

/-! ## Step 6: durable (R371) -/

/-- The floor of a context at a boundary: its oldest request that has not been answered, or its SN (R230). -/
def floorAt (reqs : List Req) (sn : BitVec 32) : BitVec 32 :=
  match reqs.find? fun q => q.msg.tok != 0 with
  | some q => q.msg.sn
  | none => sn

/-- The floor of a token advances wherever a core holds it. -/
def State.setFloor (s : State) (ck : Nat) (tok : BitVec 40) (f : BitVec 32) : State :=
  let s1 := (coreStrands ck).foldl (fun s sid => if (s.strand sid).tok = tok then s.updStrand sid fun x => { x with floor := f } else s) s
  s1.updCore ck fun c => { c with stash := c.stash.map fun t => if t.token = tok then { t with floor := f } else t }

/-- A strand's floor advances at a durable boundary, and the owners that it had reached are told. -/
def State.strandFloor (s : State) (p : Nat × Strand) : State :=
  let x := p.2
  if x.tok = 0 then s
  else
    let f := floorAt x.reqs x.sn
    (s.setFloor (ckOf p.1) x.tok f).sendFloors (pidOf (ckOf p.1)) x.tok f x.reached

/-- An engine's floor advances. -/
def State.engineFloor (s : State) (p : Nat × Core) : State :=
  let f := floorAt p.2.eReqs p.2.eSn
  (s.updCore p.1 fun c => { c with eFloor := f }).sendFloors (pidOf p.1) p.2.eTok f p.2.eReached

/-- What a core's log and stash keep after a durable boundary. -/
def Core.trimmed (c : Core) (n : Nat) (t : Nat × Nat) : Core :=
  { c with log := c.log.drop n, got := c.got.drop t.1, gave := c.gave - t.2, copyLost := if c.copyLost = 2 then 0 else c.copyLost }

/-- What waits for a core's log or floor looks again. -/
def State.retryCore (s : State) (ck : Nat) : State :=
  ((coreStrands ck).foldl State.askCommit (s.retry ck)).pushOnce (.ceCommandStart ck)

/-- Whether a failure of a group has fired whose recovery has not begun: its boundary is not made durable (R371). -/
def State.failing (s : State) (gk : Nat) : Bool :=
  ((groupCores gk).any fun ck => (s.core ck).fatal) || s.agenda.any fun e => match e with
    | .recoveryStart g _ => g == gk
    | .groupUnreachable g => g == gk
    | _ => false

/-- BOUNDARY_DURABLE (R371): every buddy has acknowledged, and nothing of the group has failed. -/
def execBoundaryDurable (gk : Nat) (s : State) : Res :=
  .next (match (s.group gk).boundary with
    | none => s
    | some b =>
      match b.snap with
      | none => s
      | some snap =>
        if b.acks.length < 4 ∨ s.failing gk then s
        else
          let s1 := s.updGroup gk fun g =>
            { g with boundary := none, durable := some snap, nextE := b.e + 1, nextBoundary := s.now + (s.part (pidOfG gk)).ival * 250000 }
          let s2 := (groupCores gk).foldl (fun s ck => s.updCore ck fun c => c.trimmed (b.logs.getD (seatOf ck) 0) (b.toks.getD (seatOf ck) (0, 0))) s1
          let s3 := snap.cores.foldl State.engineFloor (snap.strands.foldl State.strandFloor s2)
          ((groupCores gk).foldl State.retryCore s3).pushOnce (.boundaryStart gk))

/-! ## Abandoning (R368) -/

/-- BOUNDARY_ABANDON (R368): after 2 ms of quiesce the strands resume, and the attempt repeats after 0.25 ms. -/
def execBoundaryAbandon (gk : Nat) (s : State) : Res :=
  .next (match (s.group gk).boundary with
    | none => s
    | some b =>
      if b.stage ≠ .quiesce then s
      else if s.now < b.since + 2000000 then s.pushOnce (.boundaryAbandon gk)
      else
        let who := (s.unquiet gk).getD (gk * 4)
        let s1 := (s.updGroup gk fun g => { g with boundary := none, nextBoundary := s.now + 250000 }).resumeAll b.stopped
        let s2 := (groupCores gk).foldl (fun s ck => s.updCore ck fun c => { c with early := false }) s1
        (s2.report 0x49 0 who (leBytes 4 b.e ++ leBytes 3 (lcoreOf who))).pushOnce (.boundaryRetry gk))

/-- BOUNDARY_RETRY (R368). -/
def execBoundaryRetry (gk : Nat) (s : State) : Res :=
  .next (if s.now < (s.group gk).nextBoundary then s.pushOnce (.boundaryRetry gk) else s.pushOnce (.boundaryStart gk))

/-! ## Logs (R372, R373) -/

/-- Whether a core asks for an early boundary: its log has 192 KiB, or more than 6,144 of its lines have changed (R367). -/
def Core.wantsBoundary (c : Core) : Bool := decide (196608 ≤ c.logSize) || decide (6144 < c.changed.length)

/-- A core's log with the next record written: the oldest on its way, as records keep their order. -/
def Core.recorded (c : Core) (r : LogRec) : Core := { c with log := c.log ++ [c.sending.headD r], sending := c.sending.drop 1 }

/-- LOG_RECORD (R372): the buddy has written a record; what waited for it goes on. -/
def execLogRecord (ck : Nat) (r : LogRec) (s : State) : Res :=
  .next (
    let s1 := s.updCore ck fun c => c.recorded r
    let s2 := if (s1.core ck).wantsBoundary then s1.askBoundary ck else s1
    s2.retryCore ck)

end Sys2Proof.Machine
end

