-- ==== Sys2Proof/Machine/Routers.lean ====
section
/-! DEFINITION. Router tables: the two phases of a change, the place that takes over, forwarding from the old place, and what
waited at the group's network interface (R378-R380, R404, R408). -/

namespace Sys2Proof.Machine

/-! ## Routers and buddies -/

/-- The router of an entry's own place. -/
def RouterEntry.router (e : RouterEntry) : Nat := (e.ry * 12 + e.rx) * 36 + e.group

/-- A core's copy is lost: it asks for an early boundary in which every line counts as changed, and reports it (R383). -/
def State.loseCopy (s : State) (ck : Nat) : State :=
  let s1 := s.updCore ck fun c => { c with copyLost := 1, changed := List.range 8192 }
  (s1.report 0x4D 0 ck (leBytes 3 (lcoreOf ck))).askBoundary ck

/-- The shadow store of a core's position no longer holds the image of the core's buddy; a rim image is another thing (R381). -/
def State.loseBuddyCopy (s : State) (ck : Nat) : State :=
  match s.buddyOf ck with
  | some b => if (s.region (s.rkOf ck)).rimImgOf.contains b then s else s.loseCopy b
  | none => s

/-! ## What waited at the network interface -/

/-- A message that waited is handed to the new position; it counts as forwarded (R404). -/
def State.runHeld (s : State) (e : Instr) : State :=
  let line := fun (ck cmd l : Nat) => match s.lineRequest ck cmd l with
    | some q => s.receiveHere q.msg e
    | none => s
  match e with
  | .remoteEffectMessage m => s.receiveHere m e
  | .ceLineDelivery ck cmd l => line ck cmd l
  | .ceReduceLine ck cmd l => line ck cmd l
  | e => s.pushOnce e

/-- Everything that waited at a group's network interface is handed over, in the order of arrival (R404, R408). -/
def State.releaseHeld (s : State) (gk : Nat) : State :=
  (s.group gk).held.foldl State.runHeld (s.updGroup gk fun g => { g with held := [] })

/-! ## Basin's status (R385) -/

/-- A Basin command ends: its status, and the sequence that stays open with the command that it expects next. -/
def State.basinEnds (s : State) (rk err done : Nat) (seq : Option (Nat × Nat)) : State :=
  s.updRegion rk fun r =>
    { r with basin := { r.basin with busy := false, err := BitVec.ofNat 8 err, done := done, seqCore := seq.map Prod.fst, seqNext := (seq.map Prod.snd).getD 0 } }

/-! ## The two phases (R380) -/

/-- Ask every router of a partition to acknowledge within 50 µs. -/
def State.askRouters (s : State) (gk : Nat) (e : Nat → Instr) : State :=
  let pid := pidOfG gk
  (s.routers pid).foldl (fun s r => (s.push (e r)).pushOnce (.routerAckTimeout pid r gk)) s

/-- Phase 1: the new entry sets out to every router. -/
def State.startRebind (s : State) (gk : Nat) (e : RouterEntry) (basin : Option Nat) : State :=
  let s1 := s.updGroup gk fun g =>
    { g with rebind := some { entry := e, old := g.entry, pending := [], committed := [], lost := [], phase2 := false, since := s.now, basin := basin } }
  s1.askRouters gk fun r => .routerEntryPending (pidOfG gk) r gk

/-- Phase 2: the commit sets out to every router. -/
def State.startCommit (s : State) (gk : Nat) : State :=
  let s1 := s.updGroup gk fun g => { g with rebind := g.rebind.map fun b => { b with phase2 := true, since := s.now } }
  s1.askRouters gk fun r => .routerEntryCommit (pidOfG gk) r gk

/-- A core that has moved leaves its old position, which is retired (R386). -/
def State.retireOld (s : State) (ck : Nat) (b : Rebind) : State :=
  let rk := s.rkOf ck
  let p := b.old.pos.toList.getD (seatOf ck) 0
  let q := b.entry.pos.toList.getD (seatOf ck) 0
  let s1 := s.updRegion rk fun r =>
    { r with retired := r.retired ++ [(b.old.group, p)], sparePos := r.sparePos.filter fun x => x != (b.old.group, q),
             livepos := r.livepos &&& ~~~ BitVec.twoPow 180 (5 * b.old.group + p) }
  let strands := (s1.core ck).basinStopped
  let s2 := (s1.updCore ck fun c => { c with moving := false, drained := false, basinStopped := [], tlb := [] }).releaseHeld (gkOf ck)
  (((s2.resumeAll strands).loseBuddyCopy ck).retryCore ck).pushOnce (.launchExpansion (pidOf ck) rk)

/-- The group's own router makes the new entry current: the new place takes over, and the old one forwards for 2 µs (R378). -/
def State.ownCommit (s : State) (gk : Nat) (b : Rebind) : State :=
  let old := (s.routers (pidOfG gk)).filter fun r => !b.committed.contains r && r != b.entry.router
  let s1 := s.updGroup gk fun g =>
    { g with entry := b.entry, stale := old.map fun r => (r, g.entry), forwarding := true, moved := false, oldWorks := b.basin.isSome || g.oldWorks,
             forwardUntil := s.now + 2000,
             arrayLive := g.arrayLive || b.entry.group != b.old.group }
  let s2 := ((s1.placeCores gk b.entry).noteExceed (pidOfG gk)).pushOnce (.forwardWindowExpiry gk)
  match b.basin with
  | some ck => s2.retireOld ck b
  | none => (s2.updGroup gk fun g => { g with recovery := g.recovery.map fun r => { r with since := s.now } }).pushOnce (.recoveryReplay gk)

/-- Whether every router has acknowledged the phase, or been given up. -/
def State.allAcked (s : State) (gk : Nat) (b : Rebind) : Bool :=
  (s.routers (pidOfG gk)).all fun r => (if b.phase2 then b.committed else b.pending).contains r || b.lost.contains r

/-- A phase ends when no router is waited for: of a recovery the next begins, of a Basin command the command ends. -/
def State.phaseEnds (s : State) (gk : Nat) : State :=
  match (s.group gk).rebind with
  | none => s
  | some b =>
    if !s.allAcked gk b then s
    else
      let rk := s.rkOfG gk
      let close := fun (s : State) => s.updGroup gk fun g => { g with rebind := none }
      let err := if b.lost.isEmpty then 0 else 4
      match b.basin, b.phase2 with
      | none, false => s.startCommit gk
      | none, true => close s
      | some ck, false =>
        if err = 0 then s.basinEnds rk 0 b.pending.length (some (ck, 5))
        else (((close s).basinEnds rk err b.pending.length none).updCore ck fun k => { k with moving := false }).releaseHeld gk
      | some ck, true =>
        ((close s).basinEnds rk err b.committed.length none).report 0x50 0 (gk * 4) (leBytes 4 (b.old.place (seatOf ck)) ++ leBytes 4 (b.entry.place (seatOf ck)))

/-- The changes of a partition whose new entry a router holds in its pending file. -/
def State.pendingAt (s : State) (pid router : Nat) : Nat :=
  (s.partGroups pid).countP fun gk => match (s.group gk).rebind with
    | some b => b.pending.contains router && !b.committed.contains router
    | none => false

/-- ROUTER_ENTRY_PENDING (R380). DESIGN CHOICE (log 91): with 16 entries pending a router takes and acknowledges a further one when a place
is free. -/
def execRouterEntryPending (pid router gk : Nat) (s : State) : Res :=
  .next (match (s.group gk).rebind with
    | none => s
    | some b =>
      if b.phase2 ∨ b.pending.contains router ∨ !(s.routers pid).contains router then s
      else if 16 ≤ s.pendingAt pid router then s.push (.routerEntryPending pid router gk)
      else (s.updGroup gk fun g => { g with rebind := some { b with pending := b.pending ++ [router] } }).phaseEnds gk)

/-- ROUTER_ENTRY_COMMIT (R380): a router without the pending entry fetches it from Basin. -/
def execRouterEntryCommit (pid router gk : Nat) (s : State) : Res :=
  .next (match (s.group gk).rebind with
    | none => s
    | some b =>
      if !b.phase2 ∨ b.committed.contains router ∨ !(s.routers pid).contains router then s
      else
        let b1 := { b with committed := b.committed ++ [router] }
        let s1 := s.updGroup gk fun g => { g with rebind := some b1, stale := g.stale.filter fun p => p.1 != router }
        (if router = b.entry.router then s1.ownCommit gk b1 else s1).phaseEnds gk)

/-- ROUTER_ACK_TIMEOUT (R380, R383): after 50 µs a router is unreachable, and so is its group; where it is that of the place to which a
recovery takes a group, the recovery chooses again (R376). -/
def execRouterAckTimeout (pid router gk : Nat) (s : State) : Res :=
  .next (match (s.group gk).rebind with
    | none => s
    | some b =>
      if (if b.phase2 then b.committed else b.pending).contains router ∨ b.lost.contains router then s
      else if s.now < b.since + 50000 then s.pushOnce (.routerAckTimeout pid router gk)
      else
        let s1 := (s.updGroup gk fun g => { g with rebind := some { b with lost := b.lost ++ [router] } }).phaseEnds gk
        if b.basin.isNone ∧ router = b.entry.router then s1.push (.groupUnreachable gk)
        else match s1.groupOfKey pid router with
        | some k => s1.push (.groupUnreachable k)
        | none => s1.updRegion (router / 36) fun r =>
            { r with unreach := if r.unreach.contains (router % 36) then r.unreach else r.unreach ++ [router % 36], spares := r.spares.filter fun g => g != router % 36 })

/-- ROUTER_ENTRY_DOUBLE_ERROR (R379): the router, which has held the messages for the group since, has fetched the entry from Basin's
copy. -/
def execRouterEntryDoubleError (pid router gk : Nat) (s : State) : Res :=
  .next (if (s.part pid).live then
      s.updGroup gk fun g => { g with stale := g.stale.filter fun p => p.1 != router, fetching := g.fetching.filter fun r => r != router }
    else s)

/-- FORWARD_WINDOW_EXPIRY (R378): 2 µs after the commit the old place answers *moved*. -/
def execForwardWindowExpiry (gk : Nat) (s : State) : Res :=
  .next (
    let g := s.group gk
    if !g.forwarding then s
    else if s.now < g.forwardUntil then s.pushOnce (.forwardWindowExpiry gk)
    else s.setGroup gk { g with forwarding := false, moved := true })

end Sys2Proof.Machine
end

