-- ==== Sys2Proof/Machine/Recovery.lean ====
section
/-! DEFINITION. Recovery of a logical group: the place that takes over, restoring the durable boundary, replay (R374-R378, R404,
R405), double-seating and its swaps (R381, R382), unreachable groups (R383) and interrupted jobs (R384). -/

namespace Sys2Proof.Machine

/-! ## What failed (R374) -/

/-- The code of a reason (Table 15-9). -/
def failCode (w : FailReason) : Nat :=
  match w with
  | .coreFatal _ => 1
  | .array => 2
  | .unreachable => 3
  | .failCommand _ => 4

/-- The seat that failed; seat 0 where the whole group did. -/
def failSeat (w : FailReason) : Nat :=
  match w with
  | .coreFatal ck => seatOf ck
  | .failCommand ck => seatOf ck
  | _ => 0

/-- The entry from which a failure is judged: that of the place to which a recovery takes the group, where one is under way (R376). -/
def State.baseEntry (s : State) (gk : Nat) : RouterEntry :=
  let g := s.group gk
  if g.recovery.isSome then (g.rebind.map fun b => b.entry).getD g.entry else g.entry

/-- The failed hardware is out of service: a position, the array, or the whole physical group. -/
def State.fence (s : State) (gk : Nat) (w : FailReason) : State :=
  let e := s.baseEntry gk
  let rk := s.rkOfG gk
  let pos := fun (seat : Nat) => s.updRegion rk fun r =>
    { r with livepos := r.livepos &&& ~~~ BitVec.twoPow 180 (5 * e.group + e.pos.toList.getD seat 0),
             sparePos := r.sparePos.filter fun x => x != (e.group, e.pos.toList.getD seat 0) }
  match w with
  | .coreFatal ck => pos (seatOf ck)
  | .failCommand ck => pos (seatOf ck)
  | .array => (s.updGroup gk fun g => { g with arrayLive := false }).updRegion rk fun r => { r with live := r.live &&& ~~~ BitVec.twoPow 36 e.group }
  | .unreachable => s.updRegion rk fun r => { r with unreach := if r.unreach.contains e.group then r.unreach else r.unreach ++ [e.group] }

/-- A retirement of a core of the group is replaced (Table 15-7): ERR 5. -/
def State.replaceBasin (s : State) (gk : Nat) : State :=
  let rk := s.rkOfG gk
  let b := (s.region rk).basin
  let mine := fun (ck : Nat) => decide (gkOf ck = gk)
  match b.seqCore.filter mine, b.busy && mine (ckAt (pidOfG gk) b.lcore) with
  | some ck, _ => (s.basinEnds rk 5 b.done none).updRegion rk fun r => { r with basin := { r.basin with lcore := lcoreOf ck } }
  | none, true => s.basinEnds rk 5 b.done (b.seqCore.map fun c => (c, b.seqNext))
  | none, false => s

/-- The boundary in progress is discarded: the journals roll the images back (R371). -/
def State.discardBoundary (s : State) (gk code : Nat) : State :=
  match (s.group gk).boundary with
  | none => s
  | some b =>
    let s1 := (b.journal.reverse.foldl (fun s j => s.putLine j.1 j.2.1 j.2.2) s).updGroup gk fun g => { g with boundary := none }
    (s1.updRegion (s1.rkOfG gk) fun r => { r with discard := countTo r.discard 255 }).report 0x48 0 (gk * 4) (leBytes 4 b.e ++ [BitVec.ofNat 8 code])

/-! ## Interrupted jobs (R384) -/

/-- Basin freezes every strand of the partition, sets every entry to STATE 3 and reports it. -/
def State.interrupt (s : State) (gk reason : Nat) : State :=
  let pid := pidOfG gk
  let s1 := ((s.partCores pid).flatMap coreStrands).foldl State.freezeFatal s
  let s2 := (s1.partGroups pid).foldl (fun s k =>
    s.updGroup k fun g => { g with entry := { g.entry with ver := g.entry.ver + 1, state := 3 }, rebind := none, boundary := none, recovery := none, held := [] }) s1
  s2.report 0x4F 0 (gk * 4) [BitVec.ofNat 8 reason]

/-! ## The new place (R375, R381) -/

/-- A place for a group: its physical group and positions, and the pairs of displaced and host seats. -/
structure NewPlace where
  group : Nat
  pos : Vector Nat 4
  pairs : List (Nat × Nat)
  deriving DecidableEq, Repr

/-- Whether a position of a group is live and not retired. -/
def Region.posLive (r : Region) (g p : Nat) : Bool := (r.positions g).contains p

/-- The failed positions of an entry, each once. -/
def Region.failedOf (r : Region) (e : RouterEntry) : List Nat := (e.pos.toList.filter fun p => !r.posLive e.group p).eraseDups

/-- Whether a group's array and router are live. -/
def Region.groupWorks (r : Region) (g : Nat) : Bool := r.live.getLsbD g && !r.unreach.contains g

/-- Item 1: the group's spare positions take the failed ones' seats. -/
def Region.placeSpare (r : Region) (e : RouterEntry) : Option NewPlace :=
  let bad := r.failedOf e
  let sp := (r.sparePos.filter fun x => x.1 == e.group && r.posLive x.1 x.2).map Prod.snd
  if r.groupWorks e.group && decide (bad.length ≤ sp.length) then
    some { group := e.group, pos := e.pos.map fun p => (((bad.zip sp).find? fun q => q.1 == p).map Prod.snd).getD p, pairs := [] }
  else none

/-- The spare groups that can take a group over. -/
def Region.goodSpares (r : Region) : List Nat := r.spares.filter fun g => r.groupWorks g && decide (4 ≤ (r.positions g).length)

/-- Item 2: the first replacement that the grade record names, while it is a spare; otherwise the lowest. -/
def Region.placeGroup (r : Region) (first : Nat) : Option NewPlace :=
  let g := if r.goodSpares.contains first then some first else r.goodSpares.foldl (fun (b : Option Nat) g => some ((b.map (min g)).getD g)) none
  g.map fun g => { group := g, pos := seatVec ((r.positions g).take 4), pairs := [] }

/-- Item 3: each displaced seat joins the lowest seat whose position is live and not yet shared. -/
def placeDouble (live : Nat → Bool) : List (Fin 4) → Vector Nat 4 → List (Nat × Nat) → Option (Vector Nat 4 × List (Nat × Nat))
  | [], pos, pairs => some (pos, pairs)
  | d :: rest, pos, pairs =>
    match (List.finRange 4).find? fun h => h != d && live pos[h] && (List.finRange 4).all fun j => j == h || pos[j] != pos[h] with
    | some h => placeDouble live rest (pos.set d pos[h]) (pairs ++ [(d.val, h.val)])
    | none => none

/-- The entry of the grade record that names a group's first replacement (R19). -/
def State.firstRep (s : State) (gk : Nat) : Nat := fieldAt (s.fusedOf (s.rkOfG gk)) 104 24 / 2 ^ (6 * s.groupIndex gk) % 64

/-- Basin chooses the new place, or finds why the job is interrupted. -/
def State.choosePlace (s : State) (gk : Nat) : Except Nat NewPlace :=
  let r := s.region (s.rkOfG gk)
  let e := s.baseEntry gk
  match r.placeSpare e, r.placeGroup (s.firstRep gk) with
  | some p, _ => .ok p
  | none, some p => .ok p
  | none, none =>
    if !r.groupWorks e.group then .error 2
    else match placeDouble (r.posLive e.group) ((List.finRange 4).filter fun i => !r.posLive e.group e.pos[i]) e.pos [] with
    | none => .error 2
    | some (pos, pairs) => if r.rimimg < 2 * pairs.length then .error 3 else .ok { group := e.group, pos := pos, pairs := pairs }

/-- Whether a place is one of item 3, so that the region has no spare left for the group. -/
def NewPlace.shares (p : NewPlace) : Bool := !p.pairs.isEmpty

/-- What the region has left when a place is taken. -/
def Region.take (r : Region) (e : RouterEntry) (p : NewPlace) (hosts : List Nat) : Region :=
  if p.group = e.group then
    { r with sparePos := r.sparePos.filter fun x => !(x.1 == e.group && p.pos.toList.contains x.2), rimimg := r.rimimg - 2 * p.pairs.length,
             rimImgOf := r.rimImgOf ++ hosts.filter fun c => !r.rimImgOf.contains c }
  else
    let left := r.groupWorks e.group && decide ((r.positions e.group).length < 4)
    { r with
      spares := r.spares.filter fun g => g != p.group,
      sparePos := (r.sparePos.filter fun x => x.1 != e.group) ++ ((r.positions p.group).filter fun q => !p.pos.toList.contains q).map fun q => (p.group, q),
      live := if left then r.live &&& ~~~ BitVec.twoPow 36 e.group else r.live }

/-! ## Rolling back and restoring (Table 15-4, R405) -/

/-- Whether something that has been caused goes on when its group is rolled back: what the group has sent elsewhere, a token on its
way to it, floors, and what Basin has to do. -/
def goesOn (gk : Nat) (e : Instr) : Bool :=
  (eventCore e).map gkOf != some gk ||
    (match e with
    | .remoteEffectMessage m => m.owner != .group gk
    | .setRelease w _ _ _ => w != .group gk
    | .stashRefillAnswer _ _ => true
    | .floorNotice _ _ _ => true
    | .woundRollback _ _ => true
    | .recoveryStart _ _ => true
    | .groupUnreachable _ => true
    | .strandSwap _ _ _ => true
    | _ => false)

/-- The bytes and marks of a core's local store become those of its image. -/
def State.restoreStore (s : State) (ck : Nat) : State :=
  let s := match s.imageKeeper ck with
    | some b => s.senseUnit (.core (s.core b).physPlace) (inBytes (imageFlat ck 0) (2 ^ 20))
    | none => s
  let lo := localFlat ck 0
  let im := imageFlat ck 0
  let inside := fun (b a : Nat) => decide (b ≤ a ∧ a < b + 2 ^ 20)
  let cells := (s.mem.filter fun c => inside im c.1).map fun (c : Host.Cell) => (c.1 - im + lo, c.2)
  let words := (s.poison.filter fun w => inside im (8 * w)).map fun w => w - im / 8 + lo / 8
  { s with mem := cells.foldl (fun m (c : Host.Cell) => memWrite m c.1 c.2) (s.mem.filter fun c => !inside lo c.1),
           poison := words.foldl insertNat (s.poison.filter fun w => !inside lo (8 * w)) }

/-- A core as its boundary recorded it, with the place, the log and the tokens that it has now. -/
def Core.restored (c now : Core) : Core :=
  let log := now.log ++ now.sending
  { c with
    gx := now.gx, gy := now.gy, sup := now.sup, rx := now.rx, ry := now.ry, group := now.group, pos := now.pos, dbl := now.dbl, shadow := now.shadow,
    rotAt := none, watchFrom := none, tlb := [], stash := c.stash ++ now.got, refilling := now.refilling, changed := [], parked := [], swapBase := [],
    drained := false, basinStopped := [], moving := false, fatal := false, log := log, sending := [], replay := log, early := false,
    copyLost := now.copyLost, got := now.got, gave := now.gave, keep := now.gave }

/-- What a group's owner data is at the start of a replay: its slice starts again above every number it issued, and keeps what
chunks elsewhere had prepared, as their prepares are logged (R376, R391). -/
def OwnerData.restarted (o now : OwnerData) (gk : Nat) : OwnerData :=
  { o with slice := { num := now.slice.num + 1, hist := [], prep := now.slice.prep.filter fun p => gkOf (ckOf p.1) != gk } }

/-- A chunk elsewhere that is prepared at a group has the slice's new number. -/
def State.renumber (s : State) (gk sid : Nat) : State :=
  let n := (s.group gk).data.own.slice.num
  s.updStrand sid fun x =>
    { x with await := x.await.map fun p => (p.1, { p.2 with slices := p.2.slices.map fun q => if q.1 = gk then (gk, n) else q }) }

/-- A requester's open requests: what the log answers is answered, the rest is sent again with its serial (R377). -/
def State.reask (s : State) (ck n : Nat) (o : Origin) (q : Req) : State :=
  match s.loggedReply ck n q.msg.sn with
  | some r => s.push (.replyResult o q.seq r)
  | none => s.sendAgain o q

/-- A strand as its boundary recorded it. -/
def State.restoreStrand (s : State) (stopped : List Nat) (sid : Nat) (x : Strand) : State :=
  let out := x.tlbinvOut.filter fun p => s.inFlight.any fun e => match e with
    | .tlbInvalidationArrival r _ _ src => r == p.2 && src == (sid, p.1)
    | _ => false
  let s1 := s.setStrand sid { x with tlbinvOut := out, readyFrom := none, dueFrom := none }
  let s2 := s1.updStrand sid fun y => { y with chunk := { y.chunk with limit := s1.nextLimit sid } }
  let s3 := if stopped.contains sid then s2.reenter sid x.recorded else s2
  let s4 := (x.ctx.flights.filter fun f => !f.arrived).foldl (fun s f => s.pushOnce (.variableResultLand sid f.seq)) s3
  x.reqs.foldl (fun s q => s.reask (ckOf sid) (strandNo sid) (.strand sid) q) s4

/-- A group's durable boundary is restored: stores, cores, strands, array, owner data and stage queues; the logs are to be
replayed. What had been caused in the group since is dropped. -/
def State.restoreGroup (s : State) (gk : Nat) (d : GroupSnap) : State :=
  let rk := s.rkOfG gk
  let now := s.group gk
  let s1 := s.keepEvents (goesOn gk)
  let s2 := d.cores.foldl (fun (s : State) q => (s.restoreStore q.1).setCore q.1 (q.2.restored (s.core q.1))) s1
  let s3 := s2.setGroup gk { now with data := { d.data with own := d.data.own.restarted now.data.own gk }, arriving := [], queue := [], tlb := [] }
  let s4 := (s3.group gk).data.own.slice.prep.foldl (fun s p => s.renumber gk p.1) s3
  let s5 := s4.updRegion rk fun r =>
    { r with stages := r.stages.mapAll fun n st => match d.stages.find? fun q => q.1 == n with | some q => { st with q := q.2 } | none => st }
  let s6 := d.agenda.foldl State.pushOnce s5
  let s7 := d.strands.foldl (fun s q => s.restoreStrand d.stopped q.1 q.2) s6
  d.cores.foldl (fun (s : State) q => (q.2.eReqs.foldl (fun s r => s.reask q.1 16 (.engine q.1) r) s).pushOnce (.watchdogFire q.1)) s7

/-- The coded arrays of a group's place are written anew: what stood there is read on the way (R351). -/
def State.freshUnits (s : State) (gk : Nat) : State :=
  let e := (s.group gk).entry
  let us : List ErrUnit := .group e.router :: e.pos.toList.map fun p => .core (physCore (e.ry * 12 + e.rx) e.group p)
  us.foldl State.renewUnit s

/-! ## Copies that the new place costs (R376, R381, R383) -/

/-- Whether the shadow store of a seat's old position can be copied to the new one. -/
def State.shadowKept (s : State) (w : FailReason) (seat : Nat) : Bool := decide (failCode w ≠ 3) && Config.shadowClean (s.steps * 4 + seat)

/-- The seats whose position changes without sharing. -/
def NewPlace.movedSeats (p : NewPlace) (e : RouterEntry) : List Nat :=
  ((List.finRange 4).filter fun i => (p.group != e.group || p.pos[i] != e.pos[i]) && !p.pairs.any fun q => q.1 == i.val).map fun i => i.val

/-- The buddies of displaced and host seats checkpoint into rim images from now on. -/
def State.pairBuddies (s : State) (gk : Nat) (p : NewPlace) : List Nat := p.pairs.flatMap fun q => [gk * 4 + q.1, gk * 4 + q.2].filterMap s.buddyOf

/-- The buddies that lose their copies ask for new ones. -/
def State.loseCopies (s : State) (gk : Nat) (w : FailReason) (e : RouterEntry) (p : NewPlace) (rim : List Nat) : State :=
  let s1 := ((p.movedSeats e).filter fun i => !s.shadowKept w i).foldl (fun s i => s.loseBuddyCopy (gk * 4 + i)) s
  rim.foldl State.loseCopy s1

/-! ## Double-seating (R381, R382) -/

/-- Whether a resident strand can give way: it waits or is stopped, it is idle, or it has committed 64 chunks since a strand was
parked; at the end of a chunk (R382). In a replay one whose turn it is not gives way too, as the log may name a parked strand next (R377). -/
def State.givesWay (s : State) (ck n : Nat) : Bool :=
  let x := s.strand (sidOf ck n)
  let base := (((s.core ck).swapBase.find? fun p => p.1 == n).map Prod.snd).getD 0
  decide (x.chunk.len = 0) && x.await.isNone &&
    (x.st.waits || decide (x.st = .stopped) || decide (x.st = .idle) || decide (base + 64 ≤ x.committed) || s.outOfTurn (sidOf ck n))

/-- The swaps of a double-seated core that can take place: a parked strand that is ready, and a resident one that gives way; a
pinned strand 15 stays. -/
def State.swaps (s : State) (ck : Nat) : List (Nat × Nat) :=
  let c := s.core ck
  let ins := c.parked.filter fun n => decide ((s.strand (sidOf ck n)).st = .ready)
  let outs := (List.range 16).filter fun n => !c.parked.contains n && s.givesWay ck n && !(c.redpin.getLsbD 63 && n == 15)
  ins.flatMap fun i => outs.map fun o => (i, o)

/-- STRAND_SWAP (R382): the swap takes place if it can, and the next is considered. -/
def execStrandSwap (ck inn out : Nat) (s : State) : Res :=
  .next (
    if !(s.core ck).dbl then s
    else
      let s1 := if (s.swaps ck).contains (inn, out) then
          s.updCore ck fun c =>
            { c with parked := out :: c.parked.filter fun n => n != inn,
                     swapBase := (inn, (s.strand (sidOf ck inn)).committed) :: c.swapBase.filter fun p => p.1 != out && p.1 != inn }
        else s
      let next := s1.swaps ck
      let p := (next[Config.choice s1.fresh % next.length]?).getD (inn, out)
      (s1.bump).pushOnce (.strandSwap ck p.1 p.2))

/-! ## Recovery starts (R376) -/

/-- A group that no recovery runs for yet: its boundary is discarded and the start is reported. -/
def State.openRecovery (s : State) (gk : Nat) (w : FailReason) : State :=
  let g := s.group gk
  let d := ((g.durable.map fun b => b.e).getD (2 ^ 32 - 1))
  let s1 := s.updGroup gk fun g => { g with recovery := some { seat := failSeat w, since := s.now, records := 0 } }
  s1.report 0x4A 0 (gk * 4) (leBytes 4 d ++ leBytes 4 (g.entry.place (failSeat w)) ++ [BitVec.ofNat 8 (failCode w)])

/-- Whether a message that waits at a group's network interface passes between two of the group's cores (R405). -/
def insideGroup (gk : Nat) (e : Instr) : Bool :=
  match e with
  | .remoteEffectMessage m => (match m.origin with
    | .strand sid => gkOf (ckOf sid) == gk
    | .engine ck => gkOf ck == gk
    | .host _ => false)
  | .ceLineDelivery ck _ _ => gkOf ck == gk
  | .ceReduceLine ck _ _ => gkOf ck == gk
  | _ => false

/-- Steps 1 to 5 with a place: hold, roll back, restore, and send the new entry to the routers with STATE 2. -/
def State.recoverAt (s : State) (gk : Nat) (w : FailReason) (d : GroupSnap) (p : NewPlace) : State :=
  let rk := s.rkOfG gk
  let e := (s.group gk).entry
  let e1 : RouterEntry := if e.state = 1 then e else { e with ver := e.ver + 1, state := 1 }
  let e2 : RouterEntry := { e1 with ver := e1.ver + 1, state := 2, rx := rk % 12, ry := rk / 12, group := p.group, dbl := dblBits p.pos, pos := p.pos }
  let rim := s.pairBuddies gk p
  let s1 := (s.updRegion rk fun r => r.take (s.baseEntry gk) p rim).updGroup gk fun g =>
    { g with entry := e1, rebind := none, forwarding := false, moved := false, oldWorks := decide (failCode w ≠ 3),
             held := if failCode w = 3 then [] else g.held.filter fun m => !insideGroup gk m }
  let s2 := if p.shares then s1.report 0x4E 0 (gk * 4) [BitVec.ofNat 8 rk] else s1
  let s3 := p.pairs.foldl (fun s q => s.report 0x4C 0 (gk * 4 + q.1) (leBytes 3 (lcoreOf (gk * 4 + q.1)) ++ leBytes 3 (lcoreOf (gk * 4 + q.2)))) s2
  let s4 := (((s3.freshUnits gk).restoreGroup gk d).loseCopies gk w e p rim).updGroup gk fun g =>
    { g with recovery := g.recovery.map fun r => { r with records := ((groupCores gk).map fun ck => (s3.core ck).log.length + (s3.core ck).sending.length).sum } }
  let s5 := ((List.finRange 4).filter fun i => (List.finRange 4).any fun j => j != i && p.pos[j] == p.pos[i]).foldl (fun s i => s.seatDouble (gk * 4 + i.val)) s4
  s5.startRebind gk e2 none

/-- Basin recovers a group (R374), or the job is interrupted (R384). A failure of a group that is recovering is absorbed. -/
def State.recover (s : State) (gk : Nat) (w : FailReason) : State :=
  let g := s.group gk
  if !(s.part (pidOfG gk)).live ∨ g.entry.state = 3 then s
  else
    let s1 := (((s.fence gk w).replaceBasin gk).discardBoundary gk (failCode w))
    match g.durable, (groupCores gk).any fun ck => (s.core ck).copyLost != 0 with
    | none, _ => s1.interrupt gk 1
    | _, true => s1.interrupt gk 1
    | some d, false =>
      let s2 := if g.recovery.isSome then s1 else s1.openRecovery gk w
      match s2.choosePlace gk with
      | .error n => (s2.report 0x4E 0 (gk * 4) [BitVec.ofNat 8 (s.rkOfG gk)]).interrupt gk n
      | .ok p => s2.recoverAt gk w d p

/-- RECOVERY_START (R376). -/
def execRecoveryStart (gk : Nat) (why : FailReason) (s : State) : Res := .next (s.recover gk why)

/-- GROUP_UNREACHABLE (R383): no path is left to a group. -/
def execGroupUnreachable (gk : Nat) (s : State) : Res := .next (s.recover gk .unreachable)

/-! ## Replay (R377) -/

/-- The stores that a chunk elsewhere committed in a core. -/
def State.applyWrites (s : State) (ws : List (Nat × List (BitVec 8) × Bool)) : State :=
  ws.foldl (fun s w => s.place none { addr := w.1, data := w.2.1, mark := w.2.2 }) s

/-- A recorded incoming effect is applied again, and its answer is kept again (R234); nothing is answered. -/
def State.replayIncoming (s : State) (m : Msg) (r : Reply) : State :=
  let pid := s.msgPid m
  let keep := fun (s : State) (k : ReplyKind) => if m.tok = 0 then s else s.updOwner m.owner fun o => (o.retire pid m.tok m.floor).keep pid m.tok m.sn k r
  match m.op with
  | .commit _ ws => keep (s.applyWrites ws) .result
  | .module acc => match s.modAll acc.peer acc acc.offs with
    | .ok ps => (s.execAccess acc m.owner ps).2
    | .error _ => s
  | _ => match s.execOp m with
    | (.refuse c, s1) => keep s1 (.refuse c)
    | (_, s1) => keep s1 .result

/-- The incoming effect that a core's log names next: a message, or what its region's hardware did; not an operation of the core on
itself, which its own message applies. -/
def nextIncoming : List LogRec → Option (Msg × Reply)
  | [] => none
  | .chunk _ _ :: _ => none
  | .incoming m r :: _ => if m.tok ≠ 0 then some (m, r) else (match m.origin with | .host _ => some (m, r) | _ => none)
  | _ :: l => nextIncoming l

/-- A log without its next incoming effect. -/
def dropIncoming (l : List LogRec) : List LogRec := dropFirst (fun r => match r with | .incoming _ _ => true | _ => false) l

/-- Apply the incoming effects that are due at a core. -/
def State.replayCore (s : State) (ck : Nat) : Nat → State
  | 0 => s
  | n + 1 =>
    match nextIncoming (s.core ck).replay with
    | none => s
    | some (m, r) => ((s.updCore ck fun c => { c with replay := dropIncoming c.replay }).replayIncoming m r).replayCore ck n

/-- Whether the logs of a group are exhausted and its remap is complete. -/
def State.replayDone (s : State) (gk : Nat) : Bool :=
  (s.group gk).rebind.isNone && (s.loggedJob gk).isNone && (groupCores gk).all fun ck => (nextTurn (s.core ck).replay).isNone

/-- Step 7: STATE 0, what waited is applied before any live bundle, and the completion is reported. -/
def State.finishRecovery (s : State) (gk : Nat) (v : Recovery) : State :=
  let rk := s.rkOfG gk
  let s1 := (groupCores gk).foldl (fun s ck => s.updCore ck fun c => { c with replay := [], watchFrom := none }) s
  let s2 := s1.updGroup gk fun g => { g with entry := { g.entry with ver := g.entry.ver + 1, state := 0 }, recovery := none }
  let s3 := (s2.updRegion rk fun r => { r with recov := countTo r.recov 255 }).report 0x4B 0 (gk * 4)
    (leBytes 4 ((s2.group gk).entry.place v.seat) ++ leBytes 4 v.records ++ leBytes 4 ((s.now - v.since) / 1000))
  let s4 := (groupStrands gk).foldl (fun s sid => s.updStrand sid fun x => { x with chunk := { x.chunk with limit := bitsAt x.chl 10 0 } }) (s3.releaseHeld gk)
  let s5 := ((groupCores gk).foldl State.retryCore s4).measureAgeing rk (s4.ageCounts rk)
  ((s5.pushOnce (.boundaryStart gk)).pushOnce (.launchExpansion (pidOfG gk) rk)).pushOnce (.faultRingDeliver (pidOfG gk) rk)

/-- RECOVERY_REPLAY (R377): the logs are replayed as far as they can be; when they are exhausted the group goes on live. -/
def execRecoveryReplay (gk : Nat) (s : State) : Res :=
  .next (
    let g := s.group gk
    match g.recovery with
    | none => s
    | some v =>
      if g.entry.state ≠ 2 then s
      else
        let s1 := (groupCores gk).foldl (fun s ck => s.replayCore ck (s.core ck).replay.length) s
        if s1.replayDone gk then s1.finishRecovery gk v else s1.pushOnce (.recoveryReplay gk))

end Sys2Proof.Machine
end

