-- ==== Sys2Proof/Machine/Basin.lean ====
section
/-! DEFINITION. Basin's commands: retirement of a position, its return to service, early boundaries and failed positions (R385,
R386, R408). -/

namespace Sys2Proof.Machine

/-! ## Order and completion (R385) -/

/-- The sequence after a command of it has ended with an error code. -/
def Basin.after (b : Basin) (ck cmd err : Nat) : Option (Nat × Nat) :=
  if err = 3 ∨ (5 < cmd ∧ ¬ (cmd = 8 ∧ b.seqCore = some ck)) then b.seqCore.map fun c => (c, b.seqNext)
  else if err ≠ 0 ∨ 5 ≤ cmd then none
  else some (ck, cmd + 1)

/-- A command ends with an error code and a count. -/
def State.basinFinish (s : State) (c : BasinCmd) (cmd err done : Nat) : State :=
  s.basinEnds c.region err done ((s.region c.region).basin.after c.core cmd err)

/-- A command acts unless it is turned away. -/
def State.basinRun (s : State) (c : BasinCmd) (cmd : Nat) (act : State → State) : Res :=
  .next (match s.basinError c cmd with
    | some e => s.basinFinish c cmd e 0
    | none => act s)

/-! ## Retirement (R386, R408) -/

/-- BASIN_DRAIN: expansions homed at the core are held, and `sq.rqpop` there returns EMPTY. -/
def execBasinDrain (c : BasinCmd) (s : State) : Res :=
  s.basinRun c 1 fun s => (s.updCore c.core fun k => { k with drained := true }).basinFinish c 1 0 0

/-- Whether a core's strands have stopped, its engine and its array commands are complete, and its requests are answered. -/
def State.coreStill (s : State) (ck : Nat) : Bool :=
  let c := s.core ck
  (match (s.group (gkOf ck)).boundary with | some b => decide (b.stage = .transfer) | none => true) &&
    c.eReqs.isEmpty && c.fifo.isEmpty && c.running.isEmpty &&
    (coreStrands ck).all fun sid =>
      let x := s.strand sid
      x.st.still && !x.stopping && x.await.isNone && x.effect.isNone && x.reqs.isEmpty && !s.hasJobs sid

/-- The fence of a stop that acts as step 1 of a boundary: a strand whose pending error is set freezes with cause *poison* (R386). -/
def State.stopFence (s : State) (ck : Nat) : State :=
  let stopped := (s.core ck).basinStopped
  (coreStrands ck).foldl (fun s sid => s.boundaryFence stopped sid) s

/-- BASIN_STOP: every strand of the core stops; the command ends when the core is still. -/
def execBasinStop (c : BasinCmd) (s : State) : Res :=
  s.basinRun c 2 fun s =>
    let live := (coreStrands c.core).filter fun sid => !(s.strand sid).st.still && !(s.strand sid).stopping
    let s1 := (live.foldl State.stop s).updCore c.core fun k => { k with basinStopped := k.basinStopped ++ live.filter fun sid => !k.basinStopped.contains sid }
    if s1.coreStill c.core then (s1.stopFence c.core).basinFinish c 2 0 0 else s1.pushOnce (.basinStop c)

/-- The KiB blocks of a core's live span (R387). -/
def Core.liveSpan (c : Core) : Nat := ((List.range 1024).filter c.occ.getLsbD).length

/-- The copy reads the old position's words: what is disturbed there is corrected or found (R351), and stays behind. -/
def State.leaveUnit (s : State) (ck : Nat) : State :=
  let c := s.core ck
  let u : ErrUnit := .core c.physPlace
  (s.senseUnit u (inBytes (localFlat ck 0) (2 ^ 20)))

/-- BASIN_MIGRATE: the live span and the core's own state are copied to the spare position; from now on requests to the core are
held. -/
def execBasinMigrate (c : BasinCmd) (s : State) : Res :=
  s.basinRun c 3 fun s =>
    if !s.spareTarget c then ((s.updCore c.core fun k => { k with moving := false }).basinFinish c 3 2 0).releaseHeld (gkOf c.core)
    else if (s.group (gkOf c.core)).boundary.isSome then s.pushOnce (.basinMigrate c)
    else
      let s1 := ((s.leaveUnit c.core).updCore c.core fun k => { k with moving := true }).updRegion c.region fun r => { r with basin := { r.basin with target := (c.group, c.pos) } }
      s1.basinFinish c 3 0 (s1.core c.core).liveSpan

/-- The entry of a group with one seat on another position, one version later. -/
def RouterEntry.moveSeat (e : RouterEntry) (seat pos : Nat) : RouterEntry :=
  let ps := e.pos.setIfInBounds seat pos
  { e with ver := e.ver + 1, dbl := dblBits ps, pos := ps }

/-- A command that has to end its sequence early lets the core go on where it is. -/
def State.basinGivesUp (s : State) (c : BasinCmd) (cmd err : Nat) : State :=
  ((s.updCore c.core fun k => { k with moving := false }).basinFinish c cmd err 0).releaseHeld (gkOf c.core)

/-- BASIN_REMAP_PREPARE: phase 1 of R380 for the migrated core. -/
def execBasinRemapPrepare (c : BasinCmd) (s : State) : Res :=
  s.basinRun c 4 fun s =>
    if !s.spareTarget c ∨ (s.region c.region).basin.target ≠ (c.group, c.pos) then s.basinGivesUp c 4 2
    else s.startRebind (gkOf c.core) ((s.group (gkOf c.core)).entry.moveSeat (seatOf c.core) c.pos) (some c.core)

/-- BASIN_REMAP_COMMIT: phase 2. -/
def execBasinRemapCommit (c : BasinCmd) (s : State) : Res :=
  s.basinRun c 5 fun s =>
    if (s.group (gkOf c.core)).rebind.isSome then s.startCommit (gkOf c.core) else s.basinGivesUp c 5 5

/-! ## Return, boundary, failure -/

/-- Whether a position out of service may return: it is live again, and neither seated nor spare. -/
def State.posReturns (s : State) (c : BasinCmd) (gk : Nat) : Bool :=
  let r := s.region c.region
  decide (c.pos < 5) && (r.groupLive c.group).testBit c.pos && !r.sparePos.contains (c.group, c.pos) && !(s.group gk).entry.pos.toList.contains c.pos

/-- Whether a group out of service may return: it is live and reachable again with four positions, and not spare. -/
def Region.groupReturns (r : Region) (g : Nat) : Bool :=
  decide (g < 36) && r.groupWorks g && !r.spares.contains g && decide (4 ≤ (r.positions g).length)

/-- BASIN_RETURN: a position of a group in service becomes a spare position, a retired position of another group one that counts there
again, a group out of service a spare group, where the self-test has passed it and the owner's policy allows it. -/
def execBasinReturn (c : BasinCmd) (s : State) : Res :=
  .next (
    let r := s.region c.region
    let ok := Config.returnAllowed c.region c.group c.pos
    match s.groupOfKey (pidOf c.core) (c.region * 36 + c.group) with
    | some gk =>
      if ok && s.posReturns c gk then
        (s.setRegion c.region { r with sparePos := r.sparePos ++ [(c.group, c.pos)], retired := r.retired.filter fun x => x != (c.group, c.pos) }).basinFinish c 6 0 0
      else s.basinFinish c 6 2 0
    | none =>
      if ok && r.retired.contains (c.group, c.pos) && (r.groupLive c.group).testBit c.pos then
        (s.setRegion c.region { r with retired := r.retired.filter fun x => x != (c.group, c.pos) }).basinFinish c 6 0 0
      else if ok && r.groupReturns c.group then
        (s.setRegion c.region { r with spares := r.spares ++ [c.group], outGroups := r.outGroups.filter fun g => g != c.group }).basinFinish c 6 0 0
      else s.basinFinish c 6 2 0)

/-- BASIN_BOUNDARY_NOW: the group takes an early boundary. -/
def execBasinBoundaryNow (c : BasinCmd) (s : State) : Res :=
  s.basinRun c 7 fun s => (s.askBoundary c.core).basinFinish c 7 0 0

/-- BASIN_FAIL: the position has failed, and recovery follows. -/
def execBasinFail (c : BasinCmd) (s : State) : Res :=
  s.basinRun c 8 fun s => (s.basinFinish c 8 0 0).recover (gkOf c.core) (.failCommand c.core)

end Sys2Proof.Machine
end

