-- ==== Sys2Proof/Machine/Preempt.lean ====
section
/-! DEFINITION. Pre-emption of a partition and its restore (R336-R339). -/

namespace Sys2Proof.Machine

/-! ## Blocking points (R336) -/

/-- Whether a result is that of a load from the global, tile-direct, rim or remote-module window. -/
def Flight.farLoad (f : Flight) : Bool :=
  let far := fun (a : Reg80) => decide (classOf a = 1 ∨ classOf a = 2 ∨ classOf a = 3 ∨ classOf a = 6)
  match f.pend with
  | .bytes _ a => far a
  | .walk _ a => far a
  | _ => false

/-- Whether a strand is at a blocking point. -/
def Strand.blocked (x : Strand) : Bool :=
  decide (x.outstanding ≤ 16) &&
    (match x.st with
    | .idle | .frozen | .stopped | .waitBarrier | .waitQueue | .waitMonitor => true
    | .stalledLA => (match x.waitedFlight with | some f => f.farLoad | none => false)
    | _ => false)

/-- Whether a group is neither recovering nor being moved, and takes no boundary. -/
def Group.settled (g : Group) : Bool := (g.entry.state == 0 || g.entry.state == 3) && g.recovery.isNone && g.rebind.isNone && g.boundary.isNone

/-- Whether a group's engines and array have run to completion. -/
def State.groupDrained (s : State) (gk : Nat) : Bool :=
  let g := s.group gk
  g.arriving.isEmpty && g.queue.isEmpty &&
    (groupCores gk).all fun ck => let c := s.core ck; c.fifo.isEmpty && c.running.isEmpty && c.eReqs.isEmpty && !c.moving

/-- Whether steps 3 and 4 are complete in a region (Table 13-8). -/
def State.regionYields (s : State) (pid rk : Nat) : Bool :=
  decide ((s.part pid).cascLog.length ≤ (s.region rk).cascN) && !(s.region rk).basin.busy &&
    (List.range s.grade.groups).all fun i => match s.groupOfIndex pid rk i with
      | none => true
      | some gk => (s.group gk).settled && s.groupDrained gk && ((groupCores gk).flatMap coreStrands).all fun sid => (s.strand sid).blocked

/-- The first region of a partition whose strands are not blocked. -/
def State.firstUnblocked (s : State) (pid : Nat) : Option Nat := (s.partRegions pid).find? fun rk => !s.regionYields pid rk

/-! ## Request, grace and save (R337, R338) -/

/-- Bytes of a core record, a group record and a region record of a save area (Table 13-9). -/
def saveCoreBytes : Nat := 1176 * 1024
/-- Bytes of a group record. -/
def saveGroupBytes : Nat := 672 * 1024
/-- Bytes of a region record. -/
def saveRegionBytes : Nat := 64 * 1024
/-- Bytes of a partition's save area (R338). -/
def State.saveBytes (s : State) (pid : Nat) : Nat :=
  (s.partCores pid).length * saveCoreBytes + (s.partGroups pid).length * saveGroupBytes + (s.partRegions pid).length * saveRegionBytes

/-- Whether `n` bytes of rim memory lie in channels of one world. -/
def State.ofWorld (s : State) (secure : Bool) (pa n : Nat) : Bool :=
  s.inWorld true pa n && (List.range ((pa + n - 1) / 2 ^ 36 + 1 - pa / 2 ^ 36)).all fun i => (s.channel (pa / 2 ^ 36 + i)).secure == secure

/-- PREEMPT_REQUEST (R337): steps 1 and 2. The save area lies in rim memory of the partition's world. -/
def execPreemptRequest (pid area : Nat) (s : State) : Res :=
  .next (
    let p := s.part pid
    if !p.live ∨ p.preempt.isSome ∨ !s.ofWorld p.secure area (s.saveBytes pid) then s
    else ((s.setPart pid { p with preempt := some { area := area, since := s.now, stopping := false, stopped := [] } }).pushOnce (.preemptSave pid)).pushOnce (.preemptGraceExpiry pid))

/-- The strands of a partition. -/
def State.partStrands (s : State) (pid : Nat) : List Nat := (s.partCores pid).flatMap coreStrands

/-- Step 5: every strand stops. -/
def State.stopAll (s : State) (pid : Nat) (q : Preempt) : State :=
  let live := (s.partStrands pid).filter fun sid => match (s.strand sid).st with | .idle | .stopped | .frozen => false | _ => true
  (live.foldl State.stop s).updPart pid fun p => { p with preempt := some { q with stopping := true, stopped := live } }

/-- Whether step 5 is complete. -/
def State.allStopped (s : State) (pid : Nat) : Bool :=
  (s.partStrands pid).all fun sid =>
    let x := s.strand sid
    x.await.isNone && !x.stopping && (match x.st with | .idle | .stopped | .frozen => true | _ => false)

/-- Whether something that has been caused outlives the move of a partition: what is tied to a region or to a binding is
caused again by the restore. -/
def outlivesMove (e : Instr) : Bool :=
  match e with
  | .tlbInvalidationArrival _ _ _ _ | .cascadeApply _ _ | .launchExpansion _ _ | .launchStalled _ _ | .faultRingDeliver _ _
  | .writeFaultRingBase _ _ _ | .systemWindowStore _ _ | .preemptSave _ | .preemptGraceExpiry _ | .boundaryStart _ | .boundaryRecord _
  | .boundaryApply _ _ | .boundaryDurable _ | .boundaryAbandon _ | .boundaryRetry _ | .logRecord _ _ | .recoveryStart _ _ | .recoveryReplay _
  | .routerEntryPending _ _ _ | .routerEntryCommit _ _ _ | .routerAckTimeout _ _ _ | .routerEntryDoubleError _ _ _ | .forwardWindowExpiry _
  | .strandSwap _ _ _ | .groupUnreachable _ | .basinDrain _ | .basinStop _ | .basinMigrate _ | .basinRemapPrepare _ | .basinRemapCommit _
  | .basinReturn _ | .basinBoundaryNow _ | .basinFail _ => false
  | _ => true

/-- The place word of a group (R338). -/
def State.seatsWord (s : State) (gk : Nat) : Nat :=
  let e := (s.group gk).entry
  let lp := (s.region (e.ry * 12 + e.rx)).groupLive e.group
  e.rx * 2 ^ 28 + e.ry * 2 ^ 24 + e.group * 2 ^ 18 + lp * 2 ^ 13 + (if (s.group gk).arrayLive then 2 ^ 12 else 0) + e.dbl.toNat * 2 ^ 8

/-- What the context-save engine writes of a core besides its local store: the strand images, 9 KiB apart, and the barriers (Table 13-9). -/
def State.coreRecord (s : State) (ck : Nat) : List (Nat × List Byte) :=
  ((List.range 16).map fun n => (2 ^ 20 + 9216 * n, s.image (sidOf ck n))) ++
  (s.core ck).barriers.map fun p => (2 ^ 20 + 16 * 9216 + 16 * p.1, leBytes 8 p.2.status.toNat ++ leBytes 8 (s.sysRead (.bar ck p.1 true)).toNat)

/-- The save area in rim memory: the core records, then the group records with their place words, then the region records. The order
of the records and what the model keeps of them in its own form are a DESIGN CHOICE (log 57). -/
def State.writeSaveArea (s : State) (pid area : Nat) : State :=
  let lo := rimFlat area
  let inside := fun (a : Nat) => decide (lo ≤ a ∧ a < lo + s.saveBytes pid)
  let s0 := (linesOf lo (s.saveBytes pid)).foldl (fun (t : State) l => t.overwrite none (128 * l) 128) s
  let s1 := { s0 with mem := s.mem.filter fun c => !inside c.1, poison := s.poison.filter fun w => !inside (8 * w) }
  let cks := s.partCores pid
  let s2 := (cks.zipIdx).foldl (fun (t : State) q => (s.coreRecord q.1).foldl (fun (t : State) r => t.pokeList (lo + saveCoreBytes * q.2 + r.1) r.2) t) s1
  let s3 := s.mem.foldl (fun (t : State) c =>
    if inLocalOf pid c.1 then t.pokeList (lo + saveCoreBytes * ((cks.findIdx? fun ck => ck == ckOfFlat c.1).getD 0) + c.1 % 2 ^ 20) [c.2] else t) s2
  let base := lo + saveCoreBytes * cks.length
  ((s.partGroups pid).zipIdx).foldl (fun (t : State) q => t.pokeList (base + saveGroupBytes * q.2 + 320 * 1024 - 8) (leBytes 8 (s.seatsWord q.1))) s3

/-- Steps 6 and 7: the state is copied and the regions are released. -/
def State.savePart (s : State) (pid : Nat) (q : Preempt) : State :=
  let s := s.sensePart pid
  let keep := fun (ck : Nat) => decide (pidOf ck = pid)
  let v : Saved :=
    { part := s.part pid, pid := pid, cores := s.cores.filter fun p => keep p.1, strands := s.strands.filter fun p => keep (ckOf p.1),
      groups := s.groups.filter fun p => keep (p.1 * 4), regions := (s.partRegions pid).mapIdx fun j rk => (j, s.region rk),
      local_ := s.mem.filter fun c => inLocalOf pid c.1, marks := s.poison.filter fun w => inLocalOf pid (8 * w),
      agenda := s.inFlight.filter fun e => eventPid e == some pid && outlivesMove e }
  let s1 := ((((s.writeSaveArea pid q.area).dropEvents pid).clearStores pid).clearRecords pid).releaseRegions pid
  { s1 with parts := s1.parts.del pid, saved := s1.saved.put q.area v }

/-- PREEMPT_SAVE (R337, R338): steps 3 to 7 as far as they can go. -/
def execPreemptSave (pid : Nat) (s : State) : Res :=
  .next (match (s.part pid).preempt with
    | none => s
    | some q =>
      if q.stopping then (if s.allStopped pid && (s.partGroups pid).all s.groupDrained then s.savePart pid q else s.pushOnce (.preemptSave pid))
      else if s.now < q.since + 200000 ∧ (s.firstUnblocked pid).isNone then (s.stopAll pid q).pushOnce (.preemptSave pid)
      else s.pushOnce (.preemptSave pid))

/-- PREEMPT_GRACE_EXPIRY (R337): 200 µs after step 2 the request is withdrawn, and the host is told the first region that was
not blocked. -/
def execPreemptGraceExpiry (pid : Nat) (s : State) : Res :=
  .next (match (s.part pid).preempt with
    | none => s
    | some q =>
      if q.stopping then s
      else if s.now < q.since + 200000 then s.pushOnce (.preemptGraceExpiry pid)
      else
        let s1 := (s.updPart pid fun p => { p with preempt := none }).refuseRegion (s.firstUnblocked pid)
        (s.partRegions pid).foldl (fun s rk => s.pushOnce (.launchExpansion pid rk)) s1)

/-! ## Restore (R339) -/

/-- Where one logical group goes: its physical group and the positions of its seats, and the spare groups that are left. -/
def placeGroup (r : Region) (g : Nat) (old : RouterEntry) (spares : List Nat) : Option (Nat × Vector Nat 4 × List Nat) :=
  let ps := (r.positions g).take 4
  if old.pos.toList.eraseDups.length ≤ ps.length then some (g, seatVec ps, spares)
  else match spares with
  | sp :: rest => some (sp, seatVec ((r.positions sp).take 4), rest)
  | [] => if 2 ≤ ps.length then some (g, seatVec ps, []) else none

/-- Where the logical groups of a region go, with the spare groups that are left. -/
def placeRegion (r : Region) : List (Nat × RouterEntry) → List Nat → Option (List (Nat × Vector Nat 4) × List Nat)
  | [], spares => some ([], spares)
  | (g, old) :: rest, spares =>
    match placeGroup r g old spares with
    | none => none
    | some (g1, ps, left) => (placeRegion r rest left).map fun q => ((g1, ps) :: q.1, q.2)

/-- The saved router entries of region `j` of a partition, by logical index. -/
def State.savedEntries (s : State) (v : Saved) (j : Nat) : List RouterEntry :=
  let w := s.grade.width
  (List.range s.grade.groups).map fun i =>
    (v.groups.getD (v.pid * 2 ^ 22 + ((j / v.part.wr) * 4 + i / w) * (v.part.wr * w) + (j % v.part.wr) * w + i % w) Group.reset).entry

/-- Where the groups of region `j` of a saved partition would go in a region; none when it cannot present its logical shape. -/
def State.regionPlan (s : State) (v : Saved) (j rk : Nat) : Option (List (Nat × Vector Nat 4) × List Nat) :=
  let r := s.region rk
  let n := s.grade.groups
  if r.inService.length < n then none
  else placeRegion r ((r.inService.take n).zip (s.savedEntries v j)) ((r.inService.drop n).filter fun g => decide (4 ≤ (r.positions g).length))

/-- Seats of a vector that share their position with another. -/
def sharedSeats (ps : Vector Nat 4) : List Nat := (List.finRange 4).filterMap fun i => if (List.finRange 4).any fun j => j != i && ps[j] == ps[i] then some i.val else none

/-- Whether every core that a plan double-seats has its strands 8-15 idle. -/
def State.planIdle (s : State) (v : Saved) (j : Nat) (plan : List (Nat × Vector Nat 4)) : Bool :=
  let w := s.grade.width
  plan.zipIdx.all fun q =>
    let gk := v.pid * 2 ^ 22 + ((j / v.part.wr) * 4 + q.2 / w) * (v.part.wr * w) + (j % v.part.wr) * w + q.2 % w
    (sharedSeats q.1.2).all fun seat => (List.range 8).all fun n => (v.strands.getD (sidOf (gk * 4 + seat) (8 + n)) Strand.reset).st = .idle

/-- The plans of every region of a rectangle, or the first region that cannot take its part. DEDUCED (log 58): double-seating in a
restore uses two rim images each, as in a recovery (R382), and is refused where the region has none left. -/
def State.restorePlans (s : State) (v : Saved) : List (Nat × Nat) → Except Nat (List (List (Nat × Vector Nat 4) × List Nat))
  | [] => .ok []
  | (j, rk) :: rest =>
    match s.regionPlan v j rk with
    | none => .error rk
    | some pl =>
      if (s.region rk).pid.isSome ∨ !s.planIdle v j pl.1 ∨ 16 < (pl.1.map fun q => 2 * (displaced q.2).length).sum then .error rk
      else (s.restorePlans v rest).map fun l => pl :: l

/-- A saved region in its new place: what is physical is that of the place. -/
def State.restoredRegion (s : State) (v : Saved) (j rk : Nat) (pl : List (Nat × Vector Nat 4) × List Nat) (dx dy : Nat × Nat) : Region :=
  let old := v.regions.getD j Region.reset
  let r := s.region rk
  let move := fun (a : Nat) (d : Nat × Nat) => a + d.1 - d.2
  { r with
    pid := some v.pid, secure := v.part.secure, pool := old.pool, asking := old.asking, held := old.held, stages := old.stages, ringBase := old.ringBase,
    waiting := old.waiting, cascN := old.cascN, stretches := old.stretches, recov := old.recov, discard := old.discard, govAt := s.now + 1000,
    launches := old.launches.map fun l => { l with ox := move l.ox dx, oy := move l.oy dy },
    spares := pl.2, sparePos := pl.1.flatMap fun q => ((r.positions q.1).filter fun p => !q.2.toList.contains p).map fun p => (q.1, p),
    rimimg := 16 - (pl.1.map fun q => 2 * (displaced q.2).length).sum }

/-- A saved group in its new place: entries and boundaries start afresh, and its instruction cache is filled (R313). -/
def State.restoredGroup (s : State) (v : Saved) (gk rk i : Nat) (g : Nat) (ps : Vector Nat 4) : State :=
  let old := v.groups.getD gk Group.reset
  let s1 := s.setGroup gk
    { old with entry := entryFor rk g ps, icache := s.codeLines v.pid, stale := [], fetching := [], rebind := none, forwarding := false, moved := false, tlb := [], boundary := none, durable := none,
               recovery := none, held := [], arrayLive := true, nextBoundary := s.firstBoundary v.pid rk i }
  (s1.placeCores gk (entryFor rk g ps)).push (.boundaryStart gk)

/-- A saved core in its new place: every line of its live span counts as changed, and of two cores on one position strands
8-15 are out of the rotation. -/
def State.restoredCore (s : State) (ck : Nat) (c : Core) : State :=
  let lines := (List.range 8192).filter fun l => c.occ.getLsbD (l / 8)
  s.setCore ck { c with gx := s.gxOf ck, gy := s.gyOf ck, tlb := [], log := [], sending := [], replay := [], changed := lines, copyLost := 0, drained := false,
                        basinStopped := [], moving := false, parked := [], swapBase := [], rotAt := none, watchFrom := none }

/-- A restored strand: its recorded requests are sent again, and a strand that the pre-emption stopped goes on in its recorded
state (R235, R339). -/
def State.resumeSaved (s : State) (v : Saved) (sid : Nat) : State :=
  let s0 := s.updStrand sid fun x => { x with tlbinvOut := [] }
  let x := s0.strand sid
  let s1 := x.reqs.foldl (fun s q => if q.msg.tok = 0 then s else s.sendAgain (.strand sid) q) s0
  let s2 := match x.ctx.flights.find? fun f => !f.arrived && (match f.pend with | .pfence => true | _ => false) with
    | some f => s1.pushOnce (.variableResultLand sid f.seq)
    | none => s1
  if (match v.part.preempt with | some q => q.stopped.contains sid | none => false) && decide (x.st = .stopped) then s2.reenter sid x.recorded else s2

/-- The partition goes on in its new rectangle. -/
def State.restorePart (s : State) (v : Saved) (rx ry : Nat) (plans : List (List (Nat × Vector Nat 4) × List Nat)) (b : Nat) : State :=
  let w := s.grade.width
  let p := { v.part with rx0 := rx, ry0 := ry, b := b, exceed := false, preempt := none }
  let dx := (rx * w, v.part.rx0 * w)
  let dy := (ry * 4, v.part.ry0 * 4)
  let rks := rectRegions rx ry p.wr p.hr
  let join := fun (l : List Host.Cell) => l.foldl (fun m c => memWrite m c.1 c.2) s.mem
  let s1 := { s.setPart v.pid p with
    mem := join v.local_, poison := v.marks.foldl insertNat s.poison, agenda := s.agenda ++ v.agenda,
    strands := v.strands.foldl (fun m q => m.put q.1 { q.2 with readyFrom := none, dueFrom := none }) s.strands }
  let s2 := ((rks.zip plans).zipIdx).foldl (fun (s : State) q => s.setRegion q.1.1 (s.restoredRegion v q.2 q.1.1 q.1.2 dx dy)) s1
  let s3 := v.cores.foldl (fun (s : State) q => s.restoredCore q.1 q.2) s2
  let s4 := ((rks.zip plans)).foldl (fun (s : State) q => (q.2.1.zipIdx).foldl (fun (s : State) g =>
    match s.groupOfIndex v.pid q.1 g.2 with
    | some gk => s.restoredGroup v gk q.1 g.2 g.1.1 g.1.2
    | none => s) s) s3
  let s4 := v.cores.foldl (fun (s : State) q => if (s.core q.1).dbl then s.seatDouble q.1 else s) s4
  let s5 := rks.foldl (fun (s : State) rk => (((s.pushOnce (.sluiceGovernorTick rk)).pushOnce (.faultRingDeliver v.pid rk)).pushOnce (.launchExpansion v.pid rk)).pushOnce (.launchStalled v.pid rk)) s4
  v.strands.foldl (fun (s : State) q => s.resumeSaved v q.1) s5

/-- Whether a live partition's job has been interrupted (R384): its entries are all at STATE 3. -/
def State.interrupted (s : State) (pid : Nat) : Bool := (s.part pid).live && (s.partGroups pid).all fun gk => (s.group gk).entry.state == 3

/-- PARTITION_RESTORE (R339): a refused restore leaves the save area unchanged, and so does one that succeeds. An interrupted job's
partition gives its regions up first (R384); one that is live is not restored beside itself. -/
def execPartitionRestore (area rx ry : Nat) (s : State) : Res :=
  .next (match s.saved.find area with
    | none => s
    | some v =>
      let refuse := fun (rk : Nat) => s.refuseRegion (some rk)
      let rks := rectRegions rx ry v.part.wr v.part.hr
      if 12 < rx + v.part.wr ∨ 12 < ry + v.part.hr ∨ ((s.part v.pid).live && !s.interrupted v.pid) then refuse (ry * 12 + rx)
      else
      let s := if (s.part v.pid).live then s.wipePart v.pid else s
      match s.restorePlans v (rks.mapIdx fun j rk => (j, rk)) with
      | .error rk => refuse rk
      | .ok plans =>
        let w := s.grade.width
        let sites := (rks.zip plans).flatMap fun q => (q.2.1.mapIdx fun i g => (q.1 * 36 + g.1, (q.1 % 12) * w + i % w, (q.1 / 12) * 4 + i / w))
        let b := s.latencyBase v.part.h sites
        if 255 < b then refuse (ry * 12 + rx) else s.restorePart v rx ry plans b)

end Sys2Proof.Machine
end

