-- ==== Sys2Proof/Machine/HostQueues.lean ====
section
/-! DEFINITION. The rim command processor (R341): its rings, launches, copies, signals and waits. -/

namespace Sys2Proof.Machine

/-! ## Commands (Table 13-10) -/

/-- OP. -/
def hcOp (b : List Byte) : Nat := fieldAt b 0 1
/-- PART. -/
def hcPart (b : List Byte) : Nat := fieldAt b 2 1
/-- Flag INTR. -/
def hcIntr (b : List Byte) : Bool := (fieldAt b 1 1).testBit 0
/-- Flag HOST. -/
def hcHost (b : List Byte) : Bool := (fieldAt b 1 1).testBit 1
/-- A. -/
def hcA (b : List Byte) : Reg80 := ptrAt b 8
/-- B. -/
def hcB (b : List Byte) : Reg80 := ptrAt b 24
/-- C. -/
def hcC (b : List Byte) : Nat := fieldAt b 40 8
/-- D. -/
def hcD (b : List Byte) : Nat := fieldAt b 48 8
/-- CMP. -/
def hcCmp (b : List Byte) : Nat := fieldAt b 56 1
/-- TMO, in ns. -/
def hcTmo (b : List Byte) : Nat := fieldAt b 60 4 * 1000

/-- Whether a command keeps the limits of its fields and the alignment its operation needs. -/
def hcOk (b : List Byte) : Bool :=
  let z := fun o n => decide (fieldAt b o n = 0)
  let off := fun (a : Reg80) => (valOf a).toNat
  z 3 5 && z 57 3 && decide (fieldAt b 1 1 < 4) && (decide (hcOp b = 3) || !hcHost b) && z 18 6 && (decide (hcOp b = 2) || z 24 16) && z 34 6 &&
    (match hcOp b with
    | 1 => decide (off (hcA b) % 64 = 0)
    | 2 => decide (off (hcA b) % 8 = 0 ∧ off (hcB b) % 8 = 0 ∧ hcC b % 8 = 0 ∧ hcC b < 2 ^ 32)
    | 3 => hcHost b || decide (off (hcA b) % 8 = 0)
    | 4 => decide (off (hcA b) % 8 = 0 ∧ hcCmp b ≤ 3 ∧ hcTmo b ≠ 0)
    | _ => false)

/-- Whether a queue may name a partition: it lives, and a secure one is that for which the queue is authorised; a wait also finds
a saved partition (R341, R347). -/
def State.hcWorld (s : State) (h : HostQueue) (b : List Byte) : Bool :=
  let n := hcPart b
  let p := s.part n
  let saved := s.saved.find? fun q => q.2.pid == n
  let may := fun (sec : Bool) => if sec then h.world == some n else h.world.isNone
  if p.live then may p.secure
  else match saved with
  | some q => decide (hcOp b = 4) && may q.2.part.secure
  | none => false

/-! ## Places -/

/-- The flat pieces of `n` bytes at a pointer, as the processor reaches them; none where a window or a translation stops it. -/
def State.hostPieces (s : State) (pid : Nat) (a : Reg80) (n : Nat) (store : Bool) : Option (List (Nat × Nat)) :=
  let off := offOf a
  if n = 0 then some []
  else match classOf a with
  | 1 =>
    if qualOf a ≠ 0 ∨ 2 ^ 35 < off + n ∨ 2 ^ 20 < off % 2 ^ 20 + n then none
    else match s.coreOfBits pid off with
    | some ck => if s.reachable pid (off % 2 ^ 20) n then some ((splitLines (off % 2 ^ 20) n).map fun q => (localFlat ck q.1, q.2)) else none
    | none => none
  | 2 =>
    if qualOf a ≠ 0 ∨ (s.part pid).n * (s.part pid).shareBytes < off + n then none
    else some ((splitLines off n).map fun q => (s.globalFlat pid q.1, q.2))
  | 3 =>
    if qualOf a ≠ 0 ∨ 2 ^ 55 < off + n then none
    else (splitLines off n).foldr (fun q r => match r, s.walk pid q.1 false with
      | some l, .leaf e => if store && !e.writable then none else some ((rimFlat (e.place q.1), q.2) :: l)
      | _, _ => none) (some [])
  | _ => none

/-- Bytes and marks of pieces as the processor reads them; a disturbed line is found (R357). -/
def State.hostRead (s : State) (pid : Nat) (ps : List (Nat × Nat)) : List Byte × List Bool × State :=
  let first := s.supCore pid ((s.part pid).ry0 * 12 + (s.part pid).rx0)
  let s1 := (ps.flatMap fun q => linesOf q.1 q.2).foldl (fun s l => s.sense (some first) l) s
  let fs := ps.flatMap fun q => (List.range q.2).map fun i => q.1 + i
  (fs.map (memRead s1.mem), wordMarks (s1.byteMarks fs) fs.length 8, s1)

/-! ## The ring -/

/-- The next command begins, if the queue runs and the host has rung for one. -/
def State.nextHostCmd (s : State) (q : Nat) : State :=
  let h := s.hostq q
  if h.status ≠ 0 ∨ h.run.isSome ∨ h.ring = h.head then s
  else
    let b := memReadList s.mem (hostFlat (h.base + 64 * h.ring)) 64
    let s1 := s.setHostq q { h with run := some { cmd := b, since := s.now, outstanding := [], code := 0, sent := 0, pollAt := s.now } }
    s1.push (hostEvent q (hcOp b))

/-- The queue's floor is its SN, and every owner that the command reached is told. -/
def State.settleHost (s : State) (q : Nat) : State :=
  let h := s.hostq q
  let pid := (h.run.map fun r => hcPart r.cmd).getD 0
  (s.setHostq q { h with floor := h.sn, reached := [] }).sendFloors pid h.tok h.sn h.reached

/-- The command completes. -/
def State.hostDone (s : State) (q : Nat) : State :=
  let s1 := s.settleHost q
  let h := s1.hostq q
  let intr := (h.run.map fun r => hcIntr r.cmd).getD false
  (s1.setHostq q { h with run := none, ring := (h.ring + 1) % h.size, raised := if intr then h.raised + 1 else h.raised }).nextHostCmd q

/-- The queue halts: its status word names the code and the command. -/
def State.hostHalt (s : State) (q code : Nat) : State :=
  let s1 := s.settleHost q
  let h := s1.hostq q
  s1.setHostq q { h with run := none, status := BitVec.ofNat 32 (code * 2 ^ 24 + h.ring % 2 ^ 24) }

/-- A command of operation `op` that the queue runs goes on; its fields and its partition are checked first. -/
def State.withHostCmd (s : State) (q op : Nat) (k : HostRun → State → State) : State :=
  let h := s.hostq q
  match h.run with
  | none => s
  | some r =>
    if hcOp r.cmd ≠ op ∧ ¬(op = 4 ∧ (hcOp r.cmd = 0 ∨ 4 < hcOp r.cmd)) then s
    else if !hcOk r.cmd then s.hostHalt q 1
    else if !s.hcWorld h r.cmd then (if r.outstanding = [] then s.hostHalt q 2 else s)
    else k r s

/-- A queue as the host has set it up in BAR0: while it runs no command, and with a size that is a power of two from 16 to 4,096. A new
ring begins at entry 0 (log 21). -/
def HostQueue.setUp (h : HostQueue) (base size : Nat) (world : Option Nat) : HostQueue :=
  let ok := [16, 32, 64, 128, 256, 512, 1024, 2048, 4096].contains size
  if h.run.isSome ∨ !ok then h
  else { h with base := base, size := size, world := world, ring := if h.base = base ∧ h.size = size then h.ring else 0 }

/-- HOST_DOORBELL (R341). -/
def execHostDoorbell (q : Fin 8) (b : HostBell) (s : State) : Res :=
  .next ((s.updHostq q.val fun h =>
    let h1 := h.setUp b.base b.size b.world
    { h1 with head := b.head % h1.size }).nextHostCmd q.val)

/-- HOST_QUEUE_RESUME (R341): the host writes zero to the status word of a halted queue. -/
def execHostQueueResume (q : Fin 8) (s : State) : Res :=
  .next (
    let h := s.hostq q.val
    if h.status = 0 then s else (s.setHostq q.val { h with status := 0, ring := (h.ring + 1) % h.size }).nextHostCmd q.val)

/-! ## Launch -/

/-- HOST_CMD_LAUNCH (R341): complete when the distributors have accepted the header; it waits while the partition is asked to
yield (R337). -/
def execHostCmdLaunch (q : Fin 8) (s : State) : Res :=
  .next (s.withHostCmd q.val 1 fun r s =>
    let pid := hcPart r.cmd
    let ox := s.gx0 pid
    let oy := s.gy0 pid
    if (s.part pid).preempt.isSome then s.pushOnce (.hostCmdLaunch q)
    else match s.hostPieces pid (hcA r.cmd) 64 false with
    | none => s.hostHalt q.val 4
    | some ps =>
      let b := s.hostRead pid ps
      if b.2.1.any id ∨ !s.hdrOk pid b.1 ox oy 0 then b.2.2.hostHalt q.val 3
      else (b.2.2.acceptLaunch pid b.1 ox oy 0).hostDone q.val)

/-! ## Writes -/

/-- The token of a queue in a partition: it comes after those of the strands (R221, R341; log 21). -/
def State.hostTok (s : State) (q pid : Nat) : BitVec 40 :=
  let p := s.part pid
  poolToken pid (p.sliceTokens + 17 * p.n + q)

/-- A write of up to a line sets out as a remote effect message of the queue. -/
def State.hostSend (s : State) (q : Nat) (r : HostRun) (addr : Nat) (d : List Byte) (marks : List Bool) (n : Nat) : State :=
  let h := { s.hostq q with tok := s.hostTok q (hcPart r.cmd) }
  let seq := h.sn.toNat
  let m : Msg :=
    { origin := .host q, seq := seq, tok := h.tok, sn := h.sn, floor := h.floor, owner := ownerOfFlat addr,
      op := .deliver { core := 0, cmd := 0, line := r.sent, addr := addr, data := d, marks := marks, add := false, count := none } }
  let s1 := s.setHostq q
    { h with sn := h.sn + 1, reached := addOwner h.reached m.owner, run := some { r with outstanding := seq :: r.outstanding, sent := r.sent + n },
             reqs := h.reqs ++ [{ seq := seq, msg := m, sends := 1, last := s.now, busySince := none, fpc := 0, second := false }] }
  (s1.sendMsg m (.remoteEffectMessage m)).push (.retransmitTimeout (.host q) seq)

/-- A command whose writes have all been sent ends when they have all been answered. -/
def State.hostFinish (s : State) (q : Nat) (r : HostRun) : State :=
  if r.outstanding ≠ [] then s else if r.code ≠ 0 then s.hostHalt q r.code else s.hostDone q

/-- The next line of a copy: it ends where a line of the destination ends. -/
def State.copyNext (s : State) (q : Nat) (r : HostRun) : State :=
  let pid := hcPart r.cmd
  let dst := advance (hcB r.cmd) r.sent
  let n := min (128 - offOf dst % 128) (hcC r.cmd - r.sent)
  let fail := (s.updHostq q fun h => { h with run := some { r with code := 4 } })
  match s.hostPieces pid (advance (hcA r.cmd) r.sent) n false, s.hostPieces pid dst n true with
  | some ps, some ((a, _) :: _) =>
    let b := s.hostRead pid ps
    let whole := (s.hostPieces pid (hcA r.cmd) (hcC r.cmd) false).getD []
    let laps := fun (f : Nat) => whole.any fun p => decide (p.1 ≤ f ∧ f < p.1 + p.2)
    let d := b.1.mapIdx fun i x => if laps (a + i) then Config.freeByte (s.fresh + i) else x
    ({ b.2.2 with fresh := s.fresh + n } : State).hostSend q r a d b.2.1 n
  | _, _ => fail

/-- HOST_CMD_COPY (R341): line by line; complete when the last byte is acknowledged. -/
def execHostCmdCopy (q : Fin 8) (s : State) : Res :=
  .next (s.withHostCmd q.val 2 fun r s =>
    if r.code ≠ 0 ∨ hcC r.cmd ≤ r.sent then s.hostFinish q.val r else (s.copyNext q.val r).pushOnce (.hostCmdCopy q))

/-- HOST_CMD_SIGNAL (R341): 8 bytes, in a partition's window or in host memory. -/
def execHostCmdSignal (q : Fin 8) (s : State) : Res :=
  .next (s.withHostCmd q.val 3 fun r s =>
    if hcHost r.cmd then (s.pokeList (hostFlat (valOf (hcA r.cmd)).toNat) (leBytes 8 (hcC r.cmd))).hostDone q.val
    else if r.sent ≠ 0 then s.hostFinish q.val r
    else match s.hostPieces (hcPart r.cmd) (hcA r.cmd) 8 true with
    | some ((a, _) :: _) => s.hostSend q.val r a (leBytes 8 (hcC r.cmd)) [false] 8
    | _ => s.hostHalt q.val 4)

/-! ## Wait -/

/-- Whether a word meets a wait's comparison. -/
def hcHolds (b : List Byte) (w : Nat) : Bool :=
  let v := w &&& hcD b
  match hcCmp b with
  | 0 => decide (v = hcC b)
  | 1 => decide (v ≠ hcC b)
  | 2 => decide (hcC b ≤ v)
  | _ => decide (v < hcC b)

/-- HOST_CMD_WAIT (R341): the polls begin. A command of no known operation is a bad field. -/
def execHostCmdWait (q : Fin 8) (s : State) : Res :=
  .next (s.withHostCmd q.val 4 fun _ s => (s.pushOnce (.hostWaitPoll q)).pushOnce (.hostWaitLimit q))

/-- HOST_WAIT_POLL (R341): every 1 µs the word is read; the word of a saved partition is not there (R347). -/
def execHostWaitPoll (q : Fin 8) (s : State) : Res :=
  .next (s.withHostCmd q.val 4 fun r s =>
    let pid := hcPart r.cmd
    let later := (s.updHostq q.val fun h => { h with run := some { r with pollAt := r.pollAt + 1000 } }).pushOnce (.hostWaitPoll q)
    if s.now < r.pollAt then s.pushOnce (.hostWaitPoll q)
    else if !(s.part pid).live then later
    else match s.hostPieces pid (hcA r.cmd) 8 false with
    | none => s.hostHalt q.val 4
    | some ps =>
      let b := s.hostRead pid ps
      if hcHolds r.cmd (ofLE b.1) then b.2.2.hostDone q.val
      else (b.2.2.updHostq q.val fun h => { h with run := some { r with pollAt := r.pollAt + 1000 } }).pushOnce (.hostWaitPoll q))

/-- HOST_WAIT_LIMIT (R341): the queue halts with code 5. -/
def execHostWaitLimit (q : Fin 8) (s : State) : Res :=
  .next (s.withHostCmd q.val 4 fun r s => if s.now < r.since + hcTmo r.cmd then s.pushOnce (.hostWaitLimit q) else s.hostHalt q.val 5)

end Sys2Proof.Machine
end

