-- ==== Sys2Proof/Machine/Scalar.lean ====
section
/-! DEFINITION. Plain moves, long immediates and the scalar units `ia`, `ib` and `fa` (R44, R45, R86-R110). -/

namespace Sys2Proof.Machine

/-! ## Values of the operations -/

/-- A result of two operands with the tag of O (R88, R91). -/
def keepTag (f : BitVec 64 → BitVec 64 → BitVec 64) (o t : Reg) : Reg :=
  { v := make o.tag (f o.val t.val), p := o.p || t.p }
/-- A result of two operands with tag 0. -/
def plain2 (f : BitVec 64 → BitVec 64 → BitVec 64) (o t : Reg) : Reg := mk0 (f o.val t.val) (o.p || t.p)
/-- A result of O alone with the tag of O (R87). -/
def keepTag1 (f : BitVec 64 → BitVec 64) (o : Reg) : Reg := { v := make o.tag (f o.val), p := o.p }
/-- A result of O alone with tag 0. -/
def plain1 (f : BitVec 64 → BitVec 64) (o : Reg) : Reg := mk0 (f o.val) o.p

/-- shl (R93). -/
def vShl (a b : BitVec 64) : BitVec 64 := if b.toNat < 64 then a <<< b.toNat else 0
/-- shr. -/
def vShr (a b : BitVec 64) : BitVec 64 := if b.toNat < 64 then a >>> b.toNat else 0
/-- sar. -/
def vSar (a b : BitVec 64) : BitVec 64 := a.sshiftRight (min b.toNat 63)
/-- rotl. -/
def vRotl (a b : BitVec 64) : BitVec 64 := a.rotateLeft (b.toNat % 64)
/-- min. -/
def vMin (a b : BitVec 64) : BitVec 64 := if s64 a ≤ s64 b then a else b
/-- max. -/
def vMax (a b : BitVec 64) : BitVec 64 := if s64 a ≥ s64 b then a else b
/-- minu. -/
def vMinu (a b : BitVec 64) : BitVec 64 := if a.toNat ≤ b.toNat then a else b
/-- maxu. -/
def vMaxu (a b : BitVec 64) : BitVec 64 := if a.toNat ≥ b.toNat then a else b
/-- lea: a + b × m. -/
def vLea (m : Nat) (a b : BitVec 64) : BitVec 64 := BitVec.ofNat 64 (a.toNat + b.toNat * m)
/-- Sign-extend the low `n` bits (R94). -/
def vSext (n : Nat) (a : BitVec 64) : BitVec 64 := (a.setWidth n).signExtend 64
/-- Zero-extend the low `n` bits. -/
def vZext (n : Nat) (a : BitVec 64) : BitVec 64 := (a.setWidth n).setWidth 64
/-- clz. -/
def vClz (a : BitVec 64) : BitVec 64 := if a = 0 then 64 else BitVec.ofNat 64 (63 - Nat.log2 a.toNat)
/-- ctz. -/
def vCtz (a : BitVec 64) : BitVec 64 := BitVec.ofNat 64 (((List.range 64).find? fun i => a.getLsbD i).getD 64)
/-- popc. -/
def vPopc (a : BitVec 64) : BitVec 64 := BitVec.ofNat 64 ((List.range 64).filter fun i => a.getLsbD i).length
/-- bswap. -/
def vBswap (a : BitVec 64) : BitVec 64 := BitVec.ofNat 64 (ofLE (leBytes 8 a.toNat).reverse)

/-- sel (R96): the whole 80-bit source, with its own mark. -/
def selOut (p1 : Bool) (o t : Reg) : Reg := if p1 then t else o
/-- settag (R96). -/
def settagOut (o t : Reg) : Reg := { v := make (t.val.setWidth 16) o.val, p := o.p || t.p }
/-- gettag (R96). -/
def gettagOut (o : Reg) : Reg := mk0 (o.tag.setWidth 64) o.p
/-- tile (R97). -/
def tileOut (o t : Reg) : Reg :=
  let a := o.val.toNat
  let b := t.val.toNat
  let off := (b % 2 ^ 15) * 2 ^ 20 + a % 2 ^ 20
  let off := if a ≥ 2 ^ 20 ∨ b / 2 ^ 24 ≠ 0 ∨ t.val.getLsbD 15 then off + 2 ^ 63 else off
  { v := make (BitVec.ofNat 16 (256 + (b / 2 ^ 16) % 256)) (BitVec.ofNat 64 off), p := o.p || t.p }
/-- gown (R98). -/
def vGown (a b : BitVec 64) : BitVec 64 :=
  if b.toNat = 0 ∨ b.toNat > 2 ^ 24 then BitVec.allOnes 64 else BitVec.ofNat 64 (ownerOf b.toNat (a.toNat / 128))

/-- The result of gown: it is poisoned from O only where the owner is computed from it (R91, R98). -/
def gownOut (o t : Reg) : Reg :=
  mk0 (vGown o.val t.val) (t.p || (o.p && decide (t.val.toNat ≠ 0 ∧ t.val.toNat ≤ 2 ^ 24)))

/-- mulh (R100). -/
def vMulh (a b : BitVec 64) : BitVec 64 := BitVec.ofInt 64 ((s64 a * s64 b) / 2 ^ 64)
/-- mulhu. -/
def vMulhu (a b : BitVec 64) : BitVec 64 := BitVec.ofNat 64 ((a.toNat * b.toNat) / 2 ^ 64)
/-- div (R101): truncating, all ones for a zero divisor. -/
def vDiv (a b : BitVec 64) : BitVec 64 :=
  if b = 0 then BitVec.allOnes 64 else BitVec.ofInt 64 ((s64 a).tdiv (s64 b))
/-- rem. -/
def vRem (a b : BitVec 64) : BitVec 64 :=
  if b = 0 then a else BitVec.ofInt 64 (s64 a - (s64 a).tdiv (s64 b) * s64 b)
/-- divu. -/
def vDivu (a b : BitVec 64) : BitVec 64 :=
  if b = 0 then BitVec.allOnes 64 else BitVec.ofNat 64 (a.toNat / b.toNat)
/-- remu. -/
def vRemu (a b : BitVec 64) : BitVec 64 := if b = 0 then a else BitVec.ofNat 64 (a.toNat % b.toNat)
/-- One bit of a CRC-32C (R102). -/
def crcStep (c : Nat) (bit : Bool) : Nat :=
  let h := c / 2
  if (decide (c % 2 = 1)) != bit then h ^^^ 0x82F63B78 else h
/-- crc32c: bits [34:32] of O count the bytes of T, 0 for 8. -/
def vCrc (a b : BitVec 64) : BitVec 64 :=
  let n := (a.toNat / 2 ^ 32) % 8
  let n := if n = 0 then 8 else n
  BitVec.ofNat 64 ((List.range (8 * n)).foldl (fun c i => crcStep c (b.getLsbD i)) (a.toNat % 2 ^ 32))

/-- An FP32 result of two operands, unrounded (R104). -/
def fPick32 (largest : Bool) (a b : BitVec 64) : BitVec 64 :=
  BitVec.ofNat 64 (fPick fp32 largest (a.toNat % 2 ^ 32) (b.toNat % 2 ^ 32))
/-- fabs, fneg (R104). -/
def fSign32 (invert : Bool) (a : BitVec 64) : BitVec 64 := BitVec.ofNat 64 (fSignOp fp32 invert (a.toNat % 2 ^ 32))
/-- frombf16 (R107). -/
def fromBf16 (a : BitVec 64) : BitVec 64 := BitVec.ofNat 64 (roundFV fp32 0 0 (bf16.decode (a.toNat % 2 ^ 16))).bits
/-- fromqn4 (R107). -/
def fromQn4 (a : BitVec 64) : BitVec 64 := BitVec.ofNat 64 (qn4Pat (a.toNat % 16) * 2 ^ 16)

/-- The width of a conversion's control word (Table 4-11). -/
def cvtWidth (o : BitVec 64) : Nat := 8 * 2 ^ bitsAt o 4 3
/-- Whether a control word is valid (R106). -/
def cvtOk (o : BitVec 64) : Bool := decide (bitsAt o 63 6 = 0 ∧ bitsAt o 2 0 < 6)
/-- cvtif (R106). -/
def cvtIf (draw : Nat) (o t : BitVec 64) : FR :=
  if cvtOk o then roundDy fp32 (bitsAt o 2 0) draw (dyOfNum (intOf (cvtWidth o) (o.getLsbD 5) t.toNat))
  else nanWith fp32 flNV
/-- cvtfi (R106). -/
def cvtFi (draw : Nat) (o t : BitVec 64) : FR :=
  if cvtOk o then
    let q := fToInt (cvtWidth o) (o.getLsbD 5) (bitsAt o 2 0) draw (fpOf t)
    { bits := intPat 64 q.1, fl := q.2 }
  else { bits := 0, fl := flNV }

/-! ## Triggers -/

/-- An A-word trigger of a scalar unit (R46, R89): both operands are read, the operand latch is consumed, and
the result lands after `lat` bundles. -/
def trigA (u : FUnit) (lo lr : Latch) (lat : Nat) (h : Hdr) (o t : ASrc) (f : Reg → Reg → Reg) (s : State) : State :=
  guarded h s fun s => readA s o fun a s => readA s t fun b s =>
    (s.consume lo).trigger u lat [.latch lr (f a b)]

/-- A C-word trigger (R51): O is the operand latch, T is S. -/
def trigC (u : FUnit) (lo lr : Latch) (lat : Nat) (h : Hdr) (c : CSrc) (f : Reg → Reg → Reg) (s : State) : State :=
  guarded h s fun s => readC s c fun b s =>
    (s.consume lo).trigger u lat [.latch lr (f (s.ctx.latch lo) b)]

/-- An A-word trigger that uses O only (R87). -/
def trigA1 (u : FUnit) (lo lr : Latch) (lat : Nat) (h : Hdr) (o : ASrc) (f : Reg → Reg) (s : State) : State :=
  guarded h s fun s => readA s o fun a s => (s.consume lo).trigger u lat [.latch lr (f a)]

/-- A C-word trigger that uses O only (R87). -/
def trigC1 (u : FUnit) (lo lr : Latch) (lat : Nat) (h : Hdr) (f : Reg → Reg) (s : State) : State :=
  guarded h s fun s => (s.consume lo).trigger u lat [.latch lr (f (s.ctx.latch lo))]

/-- An A-word compare (R95, R105). -/
def cmpA (u : FUnit) (lo lr : Latch) (lat : Nat) (h : Hdr) (d : Fin 8) (o t : ASrc)
    (f : BitVec 64 → BitVec 64 → Bool) (s : State) : State :=
  guarded h s fun s => readA s o fun a s => readA s t fun b s =>
    let s1 := s.consume lo
    (s1.trigger u lat (compareWrites s1 lr d (f a.val b.val) (a.p || b.p))).bump

/-- A C-word compare writes the result latch only (R51). -/
def cmpC (u : FUnit) (lo lr : Latch) (lat : Nat) (h : Hdr) (c : CSrc) (f : BitVec 64 → BitVec 64 → Bool) (s : State) : State :=
  trigC u lo lr lat h c (fun a b => mk0 (bit64 (f a.val b.val)) (a.p || b.p)) s

/-- A predicate operation (R99). -/
def predOp (h : Hdr) (d : Fin 8) (b : Ctx → Bool) (s : State) : State :=
  guarded h s fun s =>
    (s.consume .iaO).trigger .ia 1 [.latch .iaR (mk0 (bit64 (b s.ctx)) false), .pbit d (b s.ctx)]

/-- The landing of a rounded `fa` result: its pattern and its flags (R103); a result of an undefined operand raises none (R87). -/
def faLand (lat : Nat) (quiet : Bool) (r : FR) (p : Bool) (s : State) : State :=
  (s.consume .faO).trigger .fa lat (.latch .faR (mk0 (BitVec.ofNat 64 r.bits) p) :: if quiet then [] else flagWrites r.fl)

/-- Whether fa.o has been consumed and not written since. A C-word trigger of `fa` then reads some value there (the free value that
State.consume left): its result is computed from it, and no flag and no fault follows (R33, R87; log 5). -/
def State.faStale (s : State) : Bool := s.ctx.stale.getLsbD Latch.faO.idx.val

/-- Round under FRM, drawing in mode SR (R76, R74). -/
def underFrm (s : State) (k : Nat → Nat → State → State) : State :=
  let mode := frmOf s.ctx.fx
  let q := s.drawSr mode
  k mode q.1 q.2

/-- A binary `fa` operation that rounds under FRM. -/
def faA (lat : Nat) (h : Hdr) (o t : ASrc) (f : Nat → Nat → BitVec 64 → BitVec 64 → FR) (s : State) : State :=
  guarded h s fun s => readA s o fun a s => readA s t fun b s =>
    underFrm s fun mode draw s => faLand lat false (f mode draw a.val b.val) (a.p || b.p) s

/-- Its C-word form. -/
def faC (lat : Nat) (h : Hdr) (c : CSrc) (f : Nat → Nat → BitVec 64 → BitVec 64 → FR) (s : State) : State :=
  guarded h s fun s => readC s c fun b s =>
    let a := s.ctx.latch .faO
    underFrm s fun mode draw t => faLand lat s.faStale (f mode draw a.val b.val) (a.p || b.p) t

/-- A unary `fa` operation that rounds under FRM. -/
def faA1 (lat : Nat) (h : Hdr) (o : ASrc) (f : Nat → Nat → BitVec 64 → FR) (s : State) : State :=
  guarded h s fun s => readA s o fun a s =>
    underFrm s fun mode draw s => faLand lat false (f mode draw a.val) a.p s

/-- Its C-word form. -/
def faC1 (lat : Nat) (h : Hdr) (f : Nat → Nat → BitVec 64 → FR) (s : State) : State :=
  guarded h s fun s =>
    let a := s.ctx.latch .faO
    underFrm s fun mode draw t => faLand lat s.faStale (f mode draw a.val) a.p t

/-- fadd. -/
def rAdd (mode draw : Nat) (a b : BitVec 64) : FR := fAdd fp32 mode draw (fpOf a) (fpOf b)
/-- fsub. -/
def rSub (mode draw : Nat) (a b : BitVec 64) : FR := fAdd fp32 mode draw (fpOf a) (fpOf b).negate
/-- fmul. -/
def rMul (mode draw : Nat) (a b : BitVec 64) : FR := fMul fp32 mode draw (fpOf a) (fpOf b)
/-- fdiv. -/
def rDiv (mode draw : Nat) (a b : BitVec 64) : FR := fDiv fp32 mode draw (fpOf a) (fpOf b)
/-- fsqrt. -/
def rSqrt (mode draw : Nat) (a : BitVec 64) : FR := fSqrt fp32 mode draw (fpOf a)
/-- frcp. -/
def rRcp (mode draw : Nat) (a : BitVec 64) : FR := fRcp fp32 mode draw (fpOf a)
/-- frsq. -/
def rRsq (mode draw : Nat) (a : BitVec 64) : FR := fRsq fp32 mode draw (fpOf a)
/-- tobf16. -/
def rToBf16 (mode draw : Nat) (a : BitVec 64) : FR := roundFV bf16 mode draw (fpOf a)
/-- toe4m3. -/
def rToE4m3 (mode draw : Nat) (a : BitVec 64) : FR := roundFV e4m3 mode draw (fpOf a)

/-- fma onto Prev(fa), which is read as the result lands (R92, R103). -/
def fmaOp (quiet : Bool) (a b : Reg) (s : State) : State :=
  underFrm s fun mode draw s =>
    (s.consume .faO).trigger .fa 4 [.fmaOnto (a.val.toNat % 2 ^ 32) (b.val.toNat % 2 ^ 32) mode draw (a.p || b.p) quiet]

/-- A conversion under a control word (R106). One whose control word is undefined rounds by a free value and draws none (R87; log 5). -/
def cvtOp (quiet : Bool) (f : Nat → BitVec 64 → BitVec 64 → FR) (a b : Reg) (s : State) : State :=
  let q := if quiet then ((Config.freeWord s.fresh).toNat % 2 ^ 16, s.bump)
    else if cvtOk a.val then s.drawSr (bitsAt a.val 2 0) else (0, s)
  faLand 4 quiet (f q.1 a.val b.val) (a.p || (b.p && cvtOk a.val)) q.2

/-- scl (R108): a superscale that may not be used faults at issue, but for one that is undefined (R87). -/
def sclOp (quiet : Bool) (a b : Reg) (s : State) : State :=
  if quiet || goodSuper (a.val.toNat % 2 ^ 32) then
    faLand 4 quiet (blockScale (a.val.toNat % 2 ^ 32) (b.val.toNat % 256)) (a.p || b.p) s
  else s.fault causeSuperscale 0 []

/-- mulacc onto Prev(ib) (R100). -/
def mulaccOp (a b : Reg) (s : State) : State :=
  (s.consume .ibO).trigger .ib 3 [.mulacc a.tag (a.val * b.val) (a.p || b.p)]

/-! ## Moves and long immediates (R44, R45, R109) -/

/-- A move into an operand latch: it lands as the bundle ends. -/
def moveLatch (h : Hdr) (c : CSrc) (l : Latch) (s : State) : State :=
  guarded h s fun s => readC s c fun r s => s.write (.latch l r)

/-- MOV (R44). -/
def execMov (h : Hdr) (d : Fin 24) (c : CSrc) (s : State) : Res :=
  .next (guarded h s fun s => readC s c fun r s => s.write (.g d r))

/-- MOV_PW (R44): writing a poisoned predicate sets the pending error (R213). -/
def execMovPw (h : Hdr) (c : CSrc) (s : State) : Res :=
  .next (guarded h s fun s => readC s c fun r s =>
    (s.launch .mv 1 true .none 0 0
      (.pw (r.val.setWidth 32) :: if r.p then [.pe s.ctx.pc (Config.freeLatch s.fresh)] else [])).bump)

/-- MOV_VT (R114). -/
def execMovVt (h : Hdr) (c : CSrc) (s : State) : Res := .next (guarded h s fun s => readC s c writeVt)

/-- CE_C_POP (R246). -/
def execCeCPop (h : Hdr) (d : Fin 24) (s : State) : Res :=
  .next (guarded h s fun s => readC s .ceC fun r s => s.write (.g d r))

/-- LDI (R45). -/
def execLdi (h : Hdr) (r : Fin 24) (imm : BitVec 16) (s : State) : Res :=
  .next (guarded h s fun s => s.write (.g r (mk0 (imm.signExtend 64) false)))

/-- LDIH (R45). -/
def execLdih (h : Hdr) (r : Fin 24) (imm : BitVec 16) (s : State) : Res :=
  .next (guarded h s fun s =>
    let g := s.ctx.greg r
    s.write (.g r { v := (g.v <<< 16) + imm.setWidth 80, p := g.p }))

/-- MOV_IA_O (R109). -/
def execMovIaO (h : Hdr) (c : CSrc) (s : State) : Res := .next (moveLatch h c .iaO s)
/-- MOV_IB_O (R109). -/
def execMovIbO (h : Hdr) (c : CSrc) (s : State) : Res := .next (moveLatch h c .ibO s)
/-- MOV_FA_O (R109). -/
def execMovFaO (h : Hdr) (c : CSrc) (s : State) : Res := .next (moveLatch h c .faO s)


/-! ## `ia` -/

/-- IA_ADD (R93). -/
def execIaAdd (h : Hdr) (o : ASrc) (t : ASrc) (s : State) : Res := .next (trigA .ia .iaO .iaR 1 h o t (keepTag (· + ·)) s)
/-- IA_ADD_C (R51, R93). -/
def execIaAddC (h : Hdr) (c : CSrc) (s : State) : Res := .next (trigC .ia .iaO .iaR 1 h c (keepTag (· + ·)) s)
/-- IA_SUB (R93). -/
def execIaSub (h : Hdr) (o : ASrc) (t : ASrc) (s : State) : Res := .next (trigA .ia .iaO .iaR 1 h o t (keepTag (· - ·)) s)
/-- IA_SUB_C (R51, R93). -/
def execIaSubC (h : Hdr) (c : CSrc) (s : State) : Res := .next (trigC .ia .iaO .iaR 1 h c (keepTag (· - ·)) s)
/-- IA_AND (R93). -/
def execIaAnd (h : Hdr) (o : ASrc) (t : ASrc) (s : State) : Res := .next (trigA .ia .iaO .iaR 1 h o t (keepTag (· &&& ·)) s)
/-- IA_AND_C (R51, R93). -/
def execIaAndC (h : Hdr) (c : CSrc) (s : State) : Res := .next (trigC .ia .iaO .iaR 1 h c (keepTag (· &&& ·)) s)
/-- IA_OR (R93). -/
def execIaOr (h : Hdr) (o : ASrc) (t : ASrc) (s : State) : Res := .next (trigA .ia .iaO .iaR 1 h o t (keepTag (· ||| ·)) s)
/-- IA_OR_C (R51, R93). -/
def execIaOrC (h : Hdr) (c : CSrc) (s : State) : Res := .next (trigC .ia .iaO .iaR 1 h c (keepTag (· ||| ·)) s)
/-- IA_XOR (R93). -/
def execIaXor (h : Hdr) (o : ASrc) (t : ASrc) (s : State) : Res := .next (trigA .ia .iaO .iaR 1 h o t (keepTag (· ^^^ ·)) s)
/-- IA_XOR_C (R51, R93). -/
def execIaXorC (h : Hdr) (c : CSrc) (s : State) : Res := .next (trigC .ia .iaO .iaR 1 h c (keepTag (· ^^^ ·)) s)
/-- IA_ANDN (R93). -/
def execIaAndn (h : Hdr) (o : ASrc) (t : ASrc) (s : State) : Res := .next (trigA .ia .iaO .iaR 1 h o t (keepTag (fun a b => a &&& ~~~ b)) s)
/-- IA_ANDN_C (R51, R93). -/
def execIaAndnC (h : Hdr) (c : CSrc) (s : State) : Res := .next (trigC .ia .iaO .iaR 1 h c (keepTag (fun a b => a &&& ~~~ b)) s)
/-- IA_SHL (R93). -/
def execIaShl (h : Hdr) (o : ASrc) (t : ASrc) (s : State) : Res := .next (trigA .ia .iaO .iaR 1 h o t (keepTag vShl) s)
/-- IA_SHL_C (R51, R93). -/
def execIaShlC (h : Hdr) (c : CSrc) (s : State) : Res := .next (trigC .ia .iaO .iaR 1 h c (keepTag vShl) s)
/-- IA_SHR (R93). -/
def execIaShr (h : Hdr) (o : ASrc) (t : ASrc) (s : State) : Res := .next (trigA .ia .iaO .iaR 1 h o t (keepTag vShr) s)
/-- IA_SHR_C (R51, R93). -/
def execIaShrC (h : Hdr) (c : CSrc) (s : State) : Res := .next (trigC .ia .iaO .iaR 1 h c (keepTag vShr) s)
/-- IA_SAR (R93). -/
def execIaSar (h : Hdr) (o : ASrc) (t : ASrc) (s : State) : Res := .next (trigA .ia .iaO .iaR 1 h o t (keepTag vSar) s)
/-- IA_SAR_C (R51, R93). -/
def execIaSarC (h : Hdr) (c : CSrc) (s : State) : Res := .next (trigC .ia .iaO .iaR 1 h c (keepTag vSar) s)
/-- IA_ROTL (R93). -/
def execIaRotl (h : Hdr) (o : ASrc) (t : ASrc) (s : State) : Res := .next (trigA .ia .iaO .iaR 1 h o t (keepTag vRotl) s)
/-- IA_ROTL_C (R51, R93). -/
def execIaRotlC (h : Hdr) (c : CSrc) (s : State) : Res := .next (trigC .ia .iaO .iaR 1 h c (keepTag vRotl) s)
/-- IA_MIN (R93). -/
def execIaMin (h : Hdr) (o : ASrc) (t : ASrc) (s : State) : Res := .next (trigA .ia .iaO .iaR 1 h o t (keepTag vMin) s)
/-- IA_MIN_C (R51, R93). -/
def execIaMinC (h : Hdr) (c : CSrc) (s : State) : Res := .next (trigC .ia .iaO .iaR 1 h c (keepTag vMin) s)
/-- IA_MAX (R93). -/
def execIaMax (h : Hdr) (o : ASrc) (t : ASrc) (s : State) : Res := .next (trigA .ia .iaO .iaR 1 h o t (keepTag vMax) s)
/-- IA_MAX_C (R51, R93). -/
def execIaMaxC (h : Hdr) (c : CSrc) (s : State) : Res := .next (trigC .ia .iaO .iaR 1 h c (keepTag vMax) s)
/-- IA_MINU (R93). -/
def execIaMinu (h : Hdr) (o : ASrc) (t : ASrc) (s : State) : Res := .next (trigA .ia .iaO .iaR 1 h o t (keepTag vMinu) s)
/-- IA_MINU_C (R51, R93). -/
def execIaMinuC (h : Hdr) (c : CSrc) (s : State) : Res := .next (trigC .ia .iaO .iaR 1 h c (keepTag vMinu) s)
/-- IA_MAXU (R93). -/
def execIaMaxu (h : Hdr) (o : ASrc) (t : ASrc) (s : State) : Res := .next (trigA .ia .iaO .iaR 1 h o t (keepTag vMaxu) s)
/-- IA_MAXU_C (R51, R93). -/
def execIaMaxuC (h : Hdr) (c : CSrc) (s : State) : Res := .next (trigC .ia .iaO .iaR 1 h c (keepTag vMaxu) s)
/-- IA_LEA1 (R93). -/
def execIaLea1 (h : Hdr) (o : ASrc) (t : ASrc) (s : State) : Res := .next (trigA .ia .iaO .iaR 1 h o t (keepTag (vLea 1)) s)
/-- IA_LEA1_C (R51, R93). -/
def execIaLea1C (h : Hdr) (c : CSrc) (s : State) : Res := .next (trigC .ia .iaO .iaR 1 h c (keepTag (vLea 1)) s)
/-- IA_LEA2 (R93). -/
def execIaLea2 (h : Hdr) (o : ASrc) (t : ASrc) (s : State) : Res := .next (trigA .ia .iaO .iaR 1 h o t (keepTag (vLea 2)) s)
/-- IA_LEA2_C (R51, R93). -/
def execIaLea2C (h : Hdr) (c : CSrc) (s : State) : Res := .next (trigC .ia .iaO .iaR 1 h c (keepTag (vLea 2)) s)
/-- IA_LEA4 (R93). -/
def execIaLea4 (h : Hdr) (o : ASrc) (t : ASrc) (s : State) : Res := .next (trigA .ia .iaO .iaR 1 h o t (keepTag (vLea 4)) s)
/-- IA_LEA4_C (R51, R93). -/
def execIaLea4C (h : Hdr) (c : CSrc) (s : State) : Res := .next (trigC .ia .iaO .iaR 1 h c (keepTag (vLea 4)) s)
/-- IA_LEA8 (R93). -/
def execIaLea8 (h : Hdr) (o : ASrc) (t : ASrc) (s : State) : Res := .next (trigA .ia .iaO .iaR 1 h o t (keepTag (vLea 8)) s)
/-- IA_LEA8_C (R51, R93). -/
def execIaLea8C (h : Hdr) (c : CSrc) (s : State) : Res := .next (trigC .ia .iaO .iaR 1 h c (keepTag (vLea 8)) s)
/-- IA_SEXT8 (R94). -/
def execIaSext8 (h : Hdr) (o : ASrc) (s : State) : Res := .next (trigA1 .ia .iaO .iaR 1 h o (keepTag1 (vSext 8)) s)
/-- IA_SEXT8_C (R51, R94). -/
def execIaSext8C (h : Hdr) (s : State) : Res := .next (trigC1 .ia .iaO .iaR 1 h (keepTag1 (vSext 8)) s)
/-- IA_SEXT16 (R94). -/
def execIaSext16 (h : Hdr) (o : ASrc) (s : State) : Res := .next (trigA1 .ia .iaO .iaR 1 h o (keepTag1 (vSext 16)) s)
/-- IA_SEXT16_C (R51, R94). -/
def execIaSext16C (h : Hdr) (s : State) : Res := .next (trigC1 .ia .iaO .iaR 1 h (keepTag1 (vSext 16)) s)
/-- IA_SEXT32 (R94). -/
def execIaSext32 (h : Hdr) (o : ASrc) (s : State) : Res := .next (trigA1 .ia .iaO .iaR 1 h o (keepTag1 (vSext 32)) s)
/-- IA_SEXT32_C (R51, R94). -/
def execIaSext32C (h : Hdr) (s : State) : Res := .next (trigC1 .ia .iaO .iaR 1 h (keepTag1 (vSext 32)) s)
/-- IA_ZEXT8 (R94). -/
def execIaZext8 (h : Hdr) (o : ASrc) (s : State) : Res := .next (trigA1 .ia .iaO .iaR 1 h o (keepTag1 (vZext 8)) s)
/-- IA_ZEXT8_C (R51, R94). -/
def execIaZext8C (h : Hdr) (s : State) : Res := .next (trigC1 .ia .iaO .iaR 1 h (keepTag1 (vZext 8)) s)
/-- IA_ZEXT16 (R94). -/
def execIaZext16 (h : Hdr) (o : ASrc) (s : State) : Res := .next (trigA1 .ia .iaO .iaR 1 h o (keepTag1 (vZext 16)) s)
/-- IA_ZEXT16_C (R51, R94). -/
def execIaZext16C (h : Hdr) (s : State) : Res := .next (trigC1 .ia .iaO .iaR 1 h (keepTag1 (vZext 16)) s)
/-- IA_ZEXT32 (R94). -/
def execIaZext32 (h : Hdr) (o : ASrc) (s : State) : Res := .next (trigA1 .ia .iaO .iaR 1 h o (keepTag1 (vZext 32)) s)
/-- IA_ZEXT32_C (R51, R94). -/
def execIaZext32C (h : Hdr) (s : State) : Res := .next (trigC1 .ia .iaO .iaR 1 h (keepTag1 (vZext 32)) s)
/-- IA_CLZ (R94). -/
def execIaClz (h : Hdr) (o : ASrc) (s : State) : Res := .next (trigA1 .ia .iaO .iaR 1 h o (plain1 vClz) s)
/-- IA_CLZ_C (R51, R94). -/
def execIaClzC (h : Hdr) (s : State) : Res := .next (trigC1 .ia .iaO .iaR 1 h (plain1 vClz) s)
/-- IA_CTZ (R94). -/
def execIaCtz (h : Hdr) (o : ASrc) (s : State) : Res := .next (trigA1 .ia .iaO .iaR 1 h o (plain1 vCtz) s)
/-- IA_CTZ_C (R51, R94). -/
def execIaCtzC (h : Hdr) (s : State) : Res := .next (trigC1 .ia .iaO .iaR 1 h (plain1 vCtz) s)
/-- IA_POPC (R94). -/
def execIaPopc (h : Hdr) (o : ASrc) (s : State) : Res := .next (trigA1 .ia .iaO .iaR 1 h o (plain1 vPopc) s)
/-- IA_POPC_C (R51, R94). -/
def execIaPopcC (h : Hdr) (s : State) : Res := .next (trigC1 .ia .iaO .iaR 1 h (plain1 vPopc) s)
/-- IA_BSWAP (R94). -/
def execIaBswap (h : Hdr) (o : ASrc) (s : State) : Res := .next (trigA1 .ia .iaO .iaR 1 h o (keepTag1 vBswap) s)
/-- IA_BSWAP_C (R51, R94). -/
def execIaBswapC (h : Hdr) (s : State) : Res := .next (trigC1 .ia .iaO .iaR 1 h (keepTag1 vBswap) s)
/-- IA_CMPEQ (R95). -/
def execIaCmpeq (h : Hdr) (d : Fin 8) (o : ASrc) (t : ASrc) (s : State) : Res := .next (cmpA .ia .iaO .iaR 1 h d o t condEq s)
/-- IA_CMPEQ_C (R51, R95). -/
def execIaCmpeqC (h : Hdr) (c : CSrc) (s : State) : Res := .next (cmpC .ia .iaO .iaR 1 h c condEq s)
/-- IA_CMPNE (R95). -/
def execIaCmpne (h : Hdr) (d : Fin 8) (o : ASrc) (t : ASrc) (s : State) : Res := .next (cmpA .ia .iaO .iaR 1 h d o t condNe s)
/-- IA_CMPNE_C (R51, R95). -/
def execIaCmpneC (h : Hdr) (c : CSrc) (s : State) : Res := .next (cmpC .ia .iaO .iaR 1 h c condNe s)
/-- IA_CMPLT (R95). -/
def execIaCmplt (h : Hdr) (d : Fin 8) (o : ASrc) (t : ASrc) (s : State) : Res := .next (cmpA .ia .iaO .iaR 1 h d o t condLt s)
/-- IA_CMPLT_C (R51, R95). -/
def execIaCmpltC (h : Hdr) (c : CSrc) (s : State) : Res := .next (cmpC .ia .iaO .iaR 1 h c condLt s)
/-- IA_CMPLTU (R95). -/
def execIaCmpltu (h : Hdr) (d : Fin 8) (o : ASrc) (t : ASrc) (s : State) : Res := .next (cmpA .ia .iaO .iaR 1 h d o t condLtu s)
/-- IA_CMPLTU_C (R51, R95). -/
def execIaCmpltuC (h : Hdr) (c : CSrc) (s : State) : Res := .next (cmpC .ia .iaO .iaR 1 h c condLtu s)
/-- IA_CMPLE (R95). -/
def execIaCmple (h : Hdr) (d : Fin 8) (o : ASrc) (t : ASrc) (s : State) : Res := .next (cmpA .ia .iaO .iaR 1 h d o t condLe s)
/-- IA_CMPLE_C (R51, R95). -/
def execIaCmpleC (h : Hdr) (c : CSrc) (s : State) : Res := .next (cmpC .ia .iaO .iaR 1 h c condLe s)
/-- IA_CMPLEU (R95). -/
def execIaCmpleu (h : Hdr) (d : Fin 8) (o : ASrc) (t : ASrc) (s : State) : Res := .next (cmpA .ia .iaO .iaR 1 h d o t condLeu s)
/-- IA_CMPLEU_C (R51, R95). -/
def execIaCmpleuC (h : Hdr) (c : CSrc) (s : State) : Res := .next (cmpC .ia .iaO .iaR 1 h c condLeu s)
/-- IA_SEL (R96). -/
def execIaSel (h : Hdr) (o : ASrc) (t : ASrc) (s : State) : Res := .next (trigA .ia .iaO .iaR 1 h o t (selOut (s.ctx.pred 1)) s)
/-- IA_SEL_C (R51, R96). -/
def execIaSelC (h : Hdr) (c : CSrc) (s : State) : Res := .next (trigC .ia .iaO .iaR 1 h c (selOut (s.ctx.pred 1)) s)
/-- IA_SETTAG (R96). -/
def execIaSettag (h : Hdr) (o : ASrc) (t : ASrc) (s : State) : Res := .next (trigA .ia .iaO .iaR 1 h o t settagOut s)
/-- IA_SETTAG_C (R51, R96). -/
def execIaSettagC (h : Hdr) (c : CSrc) (s : State) : Res := .next (trigC .ia .iaO .iaR 1 h c settagOut s)
/-- IA_GETTAG (R96). -/
def execIaGettag (h : Hdr) (o : ASrc) (s : State) : Res := .next (trigA1 .ia .iaO .iaR 1 h o gettagOut s)
/-- IA_GETTAG_C (R51, R96). -/
def execIaGettagC (h : Hdr) (s : State) : Res := .next (trigC1 .ia .iaO .iaR 1 h gettagOut s)
/-- IA_TILE (R97). -/
def execIaTile (h : Hdr) (o : ASrc) (t : ASrc) (s : State) : Res := .next (trigA .ia .iaO .iaR 1 h o t tileOut s)
/-- IA_TILE_C (R51, R97). -/
def execIaTileC (h : Hdr) (c : CSrc) (s : State) : Res := .next (trigC .ia .iaO .iaR 1 h c tileOut s)
/-- IA_GOWN (R98). -/
def execIaGown (h : Hdr) (o : ASrc) (t : ASrc) (s : State) : Res := .next (trigA .ia .iaO .iaR 1 h o t gownOut s)
/-- IA_GOWN_C (R51, R98). -/
def execIaGownC (h : Hdr) (c : CSrc) (s : State) : Res := .next (trigC .ia .iaO .iaR 1 h c gownOut s)
/-- IA_PAND (R99). -/
def execIaPand (h : Hdr) (d : Fin 8) (o t : Fin 32) (s : State) : Res := .next (predOp h d (fun x => x.pred o && x.pred t) s)
/-- IA_POR (R99). -/
def execIaPor (h : Hdr) (d : Fin 8) (o t : Fin 32) (s : State) : Res := .next (predOp h d (fun x => x.pred o || x.pred t) s)
/-- IA_PXOR (R99). -/
def execIaPxor (h : Hdr) (d : Fin 8) (o t : Fin 32) (s : State) : Res := .next (predOp h d (fun x => xor (x.pred o) (x.pred t)) s)
/-- IA_PNOT (R99). -/
def execIaPnot (h : Hdr) (d : Fin 8) (o : Fin 32) (s : State) : Res := .next (predOp h d (fun x => !x.pred o) s)
/-- IA_PSET (R99). -/
def execIaPset (h : Hdr) (d : Fin 8) (s : State) : Res := .next (predOp h d (fun _ => true) s)
/-- IA_PCLR (R99). -/
def execIaPclr (h : Hdr) (d : Fin 8) (s : State) : Res := .next (predOp h d (fun _ => false) s)

/-! ## `ib` -/

/-- IB_MUL (R100). -/
def execIbMul (h : Hdr) (o : ASrc) (t : ASrc) (s : State) : Res := .next (trigA .ib .ibO .ibR 3 h o t (keepTag (· * ·)) s)
/-- IB_MUL_C (R51, R100). -/
def execIbMulC (h : Hdr) (c : CSrc) (s : State) : Res := .next (trigC .ib .ibO .ibR 3 h c (keepTag (· * ·)) s)
/-- IB_MULH (R100). -/
def execIbMulh (h : Hdr) (o : ASrc) (t : ASrc) (s : State) : Res := .next (trigA .ib .ibO .ibR 3 h o t (keepTag vMulh) s)
/-- IB_MULH_C (R51, R100). -/
def execIbMulhC (h : Hdr) (c : CSrc) (s : State) : Res := .next (trigC .ib .ibO .ibR 3 h c (keepTag vMulh) s)
/-- IB_MULHU (R100). -/
def execIbMulhu (h : Hdr) (o : ASrc) (t : ASrc) (s : State) : Res := .next (trigA .ib .ibO .ibR 3 h o t (keepTag vMulhu) s)
/-- IB_MULHU_C (R51, R100). -/
def execIbMulhuC (h : Hdr) (c : CSrc) (s : State) : Res := .next (trigC .ib .ibO .ibR 3 h c (keepTag vMulhu) s)
/-- IB_DIV (R101). -/
def execIbDiv (h : Hdr) (o : ASrc) (t : ASrc) (s : State) : Res := .next (trigA .ib .ibO .ibR 18 h o t (keepTag vDiv) s)
/-- IB_DIV_C (R51, R101). -/
def execIbDivC (h : Hdr) (c : CSrc) (s : State) : Res := .next (trigC .ib .ibO .ibR 18 h c (keepTag vDiv) s)
/-- IB_DIVU (R101). -/
def execIbDivu (h : Hdr) (o : ASrc) (t : ASrc) (s : State) : Res := .next (trigA .ib .ibO .ibR 18 h o t (keepTag vDivu) s)
/-- IB_DIVU_C (R51, R101). -/
def execIbDivuC (h : Hdr) (c : CSrc) (s : State) : Res := .next (trigC .ib .ibO .ibR 18 h c (keepTag vDivu) s)
/-- IB_REM (R101). -/
def execIbRem (h : Hdr) (o : ASrc) (t : ASrc) (s : State) : Res := .next (trigA .ib .ibO .ibR 18 h o t (keepTag vRem) s)
/-- IB_REM_C (R51, R101). -/
def execIbRemC (h : Hdr) (c : CSrc) (s : State) : Res := .next (trigC .ib .ibO .ibR 18 h c (keepTag vRem) s)
/-- IB_REMU (R101). -/
def execIbRemu (h : Hdr) (o : ASrc) (t : ASrc) (s : State) : Res := .next (trigA .ib .ibO .ibR 18 h o t (keepTag vRemu) s)
/-- IB_REMU_C (R51, R101). -/
def execIbRemuC (h : Hdr) (c : CSrc) (s : State) : Res := .next (trigC .ib .ibO .ibR 18 h c (keepTag vRemu) s)
/-- IB_CRC32C (R102). -/
def execIbCrc32c (h : Hdr) (o : ASrc) (t : ASrc) (s : State) : Res := .next (trigA .ib .ibO .ibR 3 h o t (plain2 vCrc) s)
/-- IB_CRC32C_C (R51, R102). -/
def execIbCrc32cC (h : Hdr) (c : CSrc) (s : State) : Res := .next (trigC .ib .ibO .ibR 3 h c (plain2 vCrc) s)
/-- IB_MULACC (R100). -/
def execIbMulacc (h : Hdr) (o : ASrc) (t : ASrc) (s : State) : Res := .next (guarded h s fun s => readA s o fun a s => readA s t fun b s => mulaccOp a b s)
/-- IB_MULACC_C (R51, R100). -/
def execIbMulaccC (h : Hdr) (c : CSrc) (s : State) : Res := .next (guarded h s fun s => readC s c fun b s => mulaccOp (s.ctx.latch .ibO) b s)

/-! ## `fa` -/

/-- FA_FADD (R103). -/
def execFaFadd (h : Hdr) (o : ASrc) (t : ASrc) (s : State) : Res := .next (faA 4 h o t rAdd s)
/-- FA_FADD_C (R51, R103). -/
def execFaFaddC (h : Hdr) (c : CSrc) (s : State) : Res := .next (faC 4 h c rAdd s)
/-- FA_FSUB (R103). -/
def execFaFsub (h : Hdr) (o : ASrc) (t : ASrc) (s : State) : Res := .next (faA 4 h o t rSub s)
/-- FA_FSUB_C (R51, R103). -/
def execFaFsubC (h : Hdr) (c : CSrc) (s : State) : Res := .next (faC 4 h c rSub s)
/-- FA_FMUL (R103). -/
def execFaFmul (h : Hdr) (o : ASrc) (t : ASrc) (s : State) : Res := .next (faA 4 h o t rMul s)
/-- FA_FMUL_C (R51, R103). -/
def execFaFmulC (h : Hdr) (c : CSrc) (s : State) : Res := .next (faC 4 h c rMul s)
/-- FA_FDIV (R103). -/
def execFaFdiv (h : Hdr) (o : ASrc) (t : ASrc) (s : State) : Res := .next (faA 12 h o t rDiv s)
/-- FA_FDIV_C (R51, R103). -/
def execFaFdivC (h : Hdr) (c : CSrc) (s : State) : Res := .next (faC 12 h c rDiv s)
/-- FA_FSQRT (R103). -/
def execFaFsqrt (h : Hdr) (o : ASrc) (s : State) : Res := .next (faA1 12 h o rSqrt s)
/-- FA_FSQRT_C (R51, R103). -/
def execFaFsqrtC (h : Hdr) (s : State) : Res := .next (faC1 12 h rSqrt s)
/-- FA_FRCP (R103). -/
def execFaFrcp (h : Hdr) (o : ASrc) (s : State) : Res := .next (faA1 4 h o rRcp s)
/-- FA_FRCP_C (R51, R103). -/
def execFaFrcpC (h : Hdr) (s : State) : Res := .next (faC1 4 h rRcp s)
/-- FA_FRSQ (R103). -/
def execFaFrsq (h : Hdr) (o : ASrc) (s : State) : Res := .next (faA1 4 h o rRsq s)
/-- FA_FRSQ_C (R51, R103). -/
def execFaFrsqC (h : Hdr) (s : State) : Res := .next (faC1 4 h rRsq s)
/-- FA_TOBF16 (R107). -/
def execFaTobf16 (h : Hdr) (o : ASrc) (s : State) : Res := .next (faA1 4 h o rToBf16 s)
/-- FA_TOBF16_C (R51, R107). -/
def execFaTobf16C (h : Hdr) (s : State) : Res := .next (faC1 4 h rToBf16 s)
/-- FA_TOE4M3 (R107). -/
def execFaToe4m3 (h : Hdr) (o : ASrc) (s : State) : Res := .next (faA1 4 h o rToE4m3 s)
/-- FA_TOE4M3_C (R51, R107). -/
def execFaToe4m3C (h : Hdr) (s : State) : Res := .next (faC1 4 h rToE4m3 s)
/-- FA_FMA (R103). -/
def execFaFma (h : Hdr) (o : ASrc) (t : ASrc) (s : State) : Res := .next (guarded h s fun s => readA s o fun a s => readA s t fun b s => fmaOp false a b s)
/-- FA_FMA_C (R51, R103). -/
def execFaFmaC (h : Hdr) (c : CSrc) (s : State) : Res := .next (guarded h s fun s => readC s c fun b s => fmaOp s.faStale (s.ctx.latch .faO) b s)
/-- FA_FMIN (R104). -/
def execFaFmin (h : Hdr) (o : ASrc) (t : ASrc) (s : State) : Res := .next (trigA .fa .faO .faR 4 h o t (plain2 (fPick32 false)) s)
/-- FA_FMIN_C (R51, R104). -/
def execFaFminC (h : Hdr) (c : CSrc) (s : State) : Res := .next (trigC .fa .faO .faR 4 h c (plain2 (fPick32 false)) s)
/-- FA_FMAX (R104). -/
def execFaFmax (h : Hdr) (o : ASrc) (t : ASrc) (s : State) : Res := .next (trigA .fa .faO .faR 4 h o t (plain2 (fPick32 true)) s)
/-- FA_FMAX_C (R51, R104). -/
def execFaFmaxC (h : Hdr) (c : CSrc) (s : State) : Res := .next (trigC .fa .faO .faR 4 h c (plain2 (fPick32 true)) s)
/-- FA_FABS (R104). -/
def execFaFabs (h : Hdr) (o : ASrc) (s : State) : Res := .next (trigA1 .fa .faO .faR 4 h o (plain1 (fSign32 false)) s)
/-- FA_FABS_C (R51, R104). -/
def execFaFabsC (h : Hdr) (s : State) : Res := .next (trigC1 .fa .faO .faR 4 h (plain1 (fSign32 false)) s)
/-- FA_FNEG (R104). -/
def execFaFneg (h : Hdr) (o : ASrc) (s : State) : Res := .next (trigA1 .fa .faO .faR 4 h o (plain1 (fSign32 true)) s)
/-- FA_FNEG_C (R51, R104). -/
def execFaFnegC (h : Hdr) (s : State) : Res := .next (trigC1 .fa .faO .faR 4 h (plain1 (fSign32 true)) s)
/-- FA_FROMBF16 (R107). -/
def execFaFrombf16 (h : Hdr) (o : ASrc) (s : State) : Res := .next (trigA1 .fa .faO .faR 4 h o (plain1 fromBf16) s)
/-- FA_FROMBF16_C (R51, R107). -/
def execFaFrombf16C (h : Hdr) (s : State) : Res := .next (trigC1 .fa .faO .faR 4 h (plain1 fromBf16) s)
/-- FA_FROMQN4 (R107). -/
def execFaFromqn4 (h : Hdr) (o : ASrc) (s : State) : Res := .next (trigA1 .fa .faO .faR 4 h o (plain1 fromQn4) s)
/-- FA_FROMQN4_C (R51, R107). -/
def execFaFromqn4C (h : Hdr) (s : State) : Res := .next (trigC1 .fa .faO .faR 4 h (plain1 fromQn4) s)
/-- FA_FCMPEQ (R105). -/
def execFaFcmpeq (h : Hdr) (d : Fin 8) (o : ASrc) (t : ASrc) (s : State) : Res := .next (cmpA .fa .faO .faR 4 h d o t fcondEq s)
/-- FA_FCMPEQ_C (R51, R105). -/
def execFaFcmpeqC (h : Hdr) (c : CSrc) (s : State) : Res := .next (cmpC .fa .faO .faR 4 h c fcondEq s)
/-- FA_FCMPLT (R105). -/
def execFaFcmplt (h : Hdr) (d : Fin 8) (o : ASrc) (t : ASrc) (s : State) : Res := .next (cmpA .fa .faO .faR 4 h d o t fcondLt s)
/-- FA_FCMPLT_C (R51, R105). -/
def execFaFcmpltC (h : Hdr) (c : CSrc) (s : State) : Res := .next (cmpC .fa .faO .faR 4 h c fcondLt s)
/-- FA_FCMPLE (R105). -/
def execFaFcmple (h : Hdr) (d : Fin 8) (o : ASrc) (t : ASrc) (s : State) : Res := .next (cmpA .fa .faO .faR 4 h d o t fcondLe s)
/-- FA_FCMPLE_C (R51, R105). -/
def execFaFcmpleC (h : Hdr) (c : CSrc) (s : State) : Res := .next (cmpC .fa .faO .faR 4 h c fcondLe s)
/-- FA_FCMPUN (R105). -/
def execFaFcmpun (h : Hdr) (d : Fin 8) (o : ASrc) (t : ASrc) (s : State) : Res := .next (cmpA .fa .faO .faR 4 h d o t fcondUn s)
/-- FA_FCMPUN_C (R51, R105). -/
def execFaFcmpunC (h : Hdr) (c : CSrc) (s : State) : Res := .next (cmpC .fa .faO .faR 4 h c fcondUn s)
/-- FA_CVTIF (R106). -/
def execFaCvtif (h : Hdr) (o : ASrc) (t : ASrc) (s : State) : Res := .next (guarded h s fun s => readA s o fun a s => readA s t fun b s => cvtOp false cvtIf a b s)
/-- FA_CVTIF_C (R51, R106). -/
def execFaCvtifC (h : Hdr) (c : CSrc) (s : State) : Res := .next (guarded h s fun s => readC s c fun b s => cvtOp s.faStale cvtIf (s.ctx.latch .faO) b s)
/-- FA_CVTFI (R106). -/
def execFaCvtfi (h : Hdr) (o : ASrc) (t : ASrc) (s : State) : Res := .next (guarded h s fun s => readA s o fun a s => readA s t fun b s => cvtOp false cvtFi a b s)
/-- FA_CVTFI_C (R51, R106). -/
def execFaCvtfiC (h : Hdr) (c : CSrc) (s : State) : Res := .next (guarded h s fun s => readC s c fun b s => cvtOp s.faStale cvtFi (s.ctx.latch .faO) b s)
/-- FA_SCL (R108). -/
def execFaScl (h : Hdr) (o : ASrc) (t : ASrc) (s : State) : Res := .next (guarded h s fun s => readA s o fun a s => readA s t fun b s => sclOp false a b s)
/-- FA_SCL_C (R51, R108). -/
def execFaSclC (h : Hdr) (c : CSrc) (s : State) : Res := .next (guarded h s fun s => readC s c fun b s => sclOp s.faStale (s.ctx.latch .faO) b s)

end Sys2Proof.Machine
end

