-- ==== Sys2Proof/Machine/Dispatch.lean ====
section
/-! DEFINITION. `exec`: one arm for each instruction and event, each one call of its meaning. -/

namespace Sys2Proof.Machine

/-- The meaning of an instruction or event in a state. -/
def exec (i : Instr) (s : State) : Host.Outcome State Fault Refusal :=
  match i with
  | .illegalWord => Sys2Proof.Machine.execIllegalWord s
  | .fixedResultVisible v0 => Sys2Proof.Machine.execFixedResultVisible v0 s
  | .variableResultLand v0 v1 => Sys2Proof.Machine.execVariableResultLand v0 v1 s
  | .leaseGrant v0 => Sys2Proof.Machine.execLeaseGrant v0 s
  | .leaseIdleLimit v0 => Sys2Proof.Machine.execLeaseIdleLimit v0 s
  | .mxCommandAccept v0 => Sys2Proof.Machine.execMxCommandAccept v0 s
  | .mxCommandExecute v0 => Sys2Proof.Machine.execMxCommandExecute v0 s
  | .cePushAccept v0 => Sys2Proof.Machine.execCePushAccept v0 s
  | .ceCommandStart v0 => Sys2Proof.Machine.execCeCommandStart v0 s
  | .ceLineDelivery v0 v1 v2 => Sys2Proof.Machine.execCeLineDelivery v0 v1 v2 s
  | .ceReduceLine v0 v1 v2 => Sys2Proof.Machine.execCeReduceLine v0 v1 v2 s
  | .cePoisonNotice v0 v1 => Sys2Proof.Machine.execCePoisonNotice v0 v1 s
  | .copyqMessagePush v0 v1 => Sys2Proof.Machine.execCopyqMessagePush v0 v1 s
  | .ceCommandComplete v0 v1 => Sys2Proof.Machine.execCeCommandComplete v0 v1 s
  | .strandControlAct v0 => Sys2Proof.Machine.execStrandControlAct v0 s
  | .streamElementArrival v0 v1 => Sys2Proof.Machine.execStreamElementArrival v0 v1 s
  | .chunkLengthReached v0 => Sys2Proof.Machine.execChunkLengthReached v0 s
  | .weirCommitRequest v0 => Sys2Proof.Machine.execWeirCommitRequest v0 s
  | .weirPrepare v0 => Sys2Proof.Machine.execWeirPrepare v0 s
  | .effectIssue v0 => Sys2Proof.Machine.execEffectIssue v0 s
  | .fenceCheck v0 => Sys2Proof.Machine.execFenceCheck v0 s
  | .translationWalk v0 v1 => Sys2Proof.Machine.execTranslationWalk v0 v1 s
  | .tlbInvalidationArrival v0 v1 v2 v3 => Sys2Proof.Machine.execTlbInvalidationArrival v0 v1 v2 v3 s
  | .cascadeNumbering v0 v1 => Sys2Proof.Machine.execCascadeNumbering v0 v1 s
  | .cascadeApply v0 v1 => Sys2Proof.Machine.execCascadeApply v0 v1 s
  | .remoteModuleAccess v0 => Sys2Proof.Machine.execRemoteModuleAccess v0 s
  | .remoteEffectMessage v0 => Sys2Proof.Machine.execRemoteEffectMessage v0 s
  | .replyResult v0 v1 v2 => Sys2Proof.Machine.execReplyResult v0 v1 v2 s
  | .replyBusy v0 v1 => Sys2Proof.Machine.execReplyBusy v0 v1 s
  | .replyMoved v0 v1 => Sys2Proof.Machine.execReplyMoved v0 v1 s
  | .replyRefuse v0 v1 v2 => Sys2Proof.Machine.execReplyRefuse v0 v1 v2 s
  | .retransmitTimeout v0 v1 => Sys2Proof.Machine.execRetransmitTimeout v0 v1 s
  | .busyRetryTimer v0 v1 => Sys2Proof.Machine.execBusyRetryTimer v0 v1 s
  | .ownerBusyLimit v0 v1 => Sys2Proof.Machine.execOwnerBusyLimit v0 v1 s
  | .floorNotice v0 v1 v2 => Sys2Proof.Machine.execFloorNotice v0 v1 v2 s
  | .stashRefillRequest v0 => Sys2Proof.Machine.execStashRefillRequest v0 s
  | .stashRefillAnswer v0 v1 => Sys2Proof.Machine.execStashRefillAnswer v0 v1 s
  | .reductionTake v0 => Sys2Proof.Machine.execReductionTake v0 s
  | .reductionDownwardReceive v0 v1 v2 v3 v4 => Sys2Proof.Machine.execReductionDownwardReceive v0 v1 v2 v3 v4 s
  | .reductionRoundEnd v0 => Sys2Proof.Machine.execReductionRoundEnd v0 s
  | .launchExpansion v0 v1 => Sys2Proof.Machine.execLaunchExpansion v0 v1 s
  | .launchStalled v0 v1 => Sys2Proof.Machine.execLaunchStalled v0 v1 s
  | .waitExpired v0 => Sys2Proof.Machine.execWaitExpired v0 s
  | .queueRetry v0 => Sys2Proof.Machine.execQueueRetry v0 s
  | .sluiceGovernorTick v0 => Sys2Proof.Machine.execSluiceGovernorTick v0 s
  | .setAcquireRequest v0 => Sys2Proof.Machine.execSetAcquireRequest v0 s
  | .setGrant v0 v1 => Sys2Proof.Machine.execSetGrant v0 v1 s
  | .woundRollback v0 v1 => Sys2Proof.Machine.execWoundRollback v0 v1 s
  | .setRelease v0 v1 v2 v3 => Sys2Proof.Machine.execSetRelease v0 v1 v2 v3 s
  | .droopStretch v0 => Sys2Proof.Machine.execDroopStretch v0 s
  | .supplyRecovery v0 => Sys2Proof.Machine.execSupplyRecovery v0 s
  | .timeReferencePulse v0 v1 => Sys2Proof.Machine.execTimeReferencePulse v0 v1 s
  | .timeReferenceLost v0 => Sys2Proof.Machine.execTimeReferenceLost v0 s
  | .alarmFire v0 => Sys2Proof.Machine.execAlarmFire v0 s
  | .boundaryFlitCrossing v0 => Sys2Proof.Machine.execBoundaryFlitCrossing v0 s
  | .linkFlitCrcError v0 => Sys2Proof.Machine.execLinkFlitCrcError v0 s
  | .slip v0 => Sys2Proof.Machine.execSlip v0 s
  | .fetchFillArrival v0 v1 => Sys2Proof.Machine.execFetchFillArrival v0 v1 s
  | .fetchRetryTimeout v0 => Sys2Proof.Machine.execFetchRetryTimeout v0 s
  | .moduleStart v0 => Sys2Proof.Machine.execModuleStart v0 s
  | .selfTest v0 => Sys2Proof.Machine.execSelfTest v0 s
  | .partitionCreate v0 v1 => Sys2Proof.Machine.execPartitionCreate v0 v1 s
  | .domainAgreement v0 => Sys2Proof.Machine.execDomainAgreement v0 s
  | .faultRingDeliver v0 v1 => Sys2Proof.Machine.execFaultRingDeliver v0 v1 s
  | .writeFaultRingBase v0 v1 v2 => Sys2Proof.Machine.execWriteFaultRingBase v0 v1 v2 s
  | .systemWindowStore v0 v1 => Sys2Proof.Machine.execSystemWindowStore v0 v1 s
  | .debugResume v0 v1 => Sys2Proof.Machine.execDebugResume v0 v1 s
  | .debugStep v0 => Sys2Proof.Machine.execDebugStep v0 s
  | .debugKill v0 => Sys2Proof.Machine.execDebugKill v0 s
  | .preemptRequest v0 v1 => Sys2Proof.Machine.execPreemptRequest v0 v1 s
  | .preemptSave v0 => Sys2Proof.Machine.execPreemptSave v0 s
  | .preemptGraceExpiry v0 => Sys2Proof.Machine.execPreemptGraceExpiry v0 s
  | .partitionRestore v0 v1 v2 => Sys2Proof.Machine.execPartitionRestore v0 v1 v2 s
  | .hostDoorbell v0 v1 => Sys2Proof.Machine.execHostDoorbell v0 v1 s
  | .hostCmdLaunch v0 => Sys2Proof.Machine.execHostCmdLaunch v0 s
  | .hostCmdCopy v0 => Sys2Proof.Machine.execHostCmdCopy v0 s
  | .hostCmdSignal v0 => Sys2Proof.Machine.execHostCmdSignal v0 s
  | .hostCmdWait v0 => Sys2Proof.Machine.execHostCmdWait v0 s
  | .hostWaitPoll v0 => Sys2Proof.Machine.execHostWaitPoll v0 s
  | .hostWaitLimit v0 => Sys2Proof.Machine.execHostWaitLimit v0 s
  | .hostQueueResume v0 => Sys2Proof.Machine.execHostQueueResume v0 s
  | .attestationRequest v0 v1 => Sys2Proof.Machine.execAttestationRequest v0 v1 s
  | .scrubTick v0 => Sys2Proof.Machine.execScrubTick v0 s
  | .errorFclr v0 => Sys2Proof.Machine.execErrorFclr v0 s
  | .errorCclr v0 => Sys2Proof.Machine.execErrorCclr v0 s
  | .watchdogFire v0 => Sys2Proof.Machine.execWatchdogFire v0 s
  | .rimScrub v0 => Sys2Proof.Machine.execRimScrub v0 s
  | .boundaryStart v0 => Sys2Proof.Machine.execBoundaryStart v0 s
  | .boundaryRecord v0 => Sys2Proof.Machine.execBoundaryRecord v0 s
  | .boundaryApply v0 v1 => Sys2Proof.Machine.execBoundaryApply v0 v1 s
  | .boundaryDurable v0 => Sys2Proof.Machine.execBoundaryDurable v0 s
  | .boundaryAbandon v0 => Sys2Proof.Machine.execBoundaryAbandon v0 s
  | .boundaryRetry v0 => Sys2Proof.Machine.execBoundaryRetry v0 s
  | .logRecord v0 v1 => Sys2Proof.Machine.execLogRecord v0 v1 s
  | .recoveryStart v0 v1 => Sys2Proof.Machine.execRecoveryStart v0 v1 s
  | .recoveryReplay v0 => Sys2Proof.Machine.execRecoveryReplay v0 s
  | .routerEntryPending v0 v1 v2 => Sys2Proof.Machine.execRouterEntryPending v0 v1 v2 s
  | .routerEntryCommit v0 v1 v2 => Sys2Proof.Machine.execRouterEntryCommit v0 v1 v2 s
  | .routerAckTimeout v0 v1 v2 => Sys2Proof.Machine.execRouterAckTimeout v0 v1 v2 s
  | .routerEntryDoubleError v0 v1 v2 => Sys2Proof.Machine.execRouterEntryDoubleError v0 v1 v2 s
  | .forwardWindowExpiry v0 => Sys2Proof.Machine.execForwardWindowExpiry v0 s
  | .strandSwap v0 v1 v2 => Sys2Proof.Machine.execStrandSwap v0 v1 v2 s
  | .groupUnreachable v0 => Sys2Proof.Machine.execGroupUnreachable v0 s
  | .basinDrain v0 => Sys2Proof.Machine.execBasinDrain v0 s
  | .basinStop v0 => Sys2Proof.Machine.execBasinStop v0 s
  | .basinMigrate v0 => Sys2Proof.Machine.execBasinMigrate v0 s
  | .basinRemapPrepare v0 => Sys2Proof.Machine.execBasinRemapPrepare v0 s
  | .basinRemapCommit v0 => Sys2Proof.Machine.execBasinRemapCommit v0 s
  | .basinReturn v0 => Sys2Proof.Machine.execBasinReturn v0 s
  | .basinBoundaryNow v0 => Sys2Proof.Machine.execBasinBoundaryNow v0 s
  | .basinFail v0 => Sys2Proof.Machine.execBasinFail v0 s
  | .partitionDestroy v0 => Sys2Proof.Machine.execPartitionDestroy v0 s
  | .rimChannelWorldSet v0 v1 => Sys2Proof.Machine.execRimChannelWorldSet v0 v1 s
  | .mov v0 v1 v2 => Sys2Proof.Machine.execMov v0 v1 v2 s
  | .movPw v0 v1 => Sys2Proof.Machine.execMovPw v0 v1 s
  | .movVt v0 v1 => Sys2Proof.Machine.execMovVt v0 v1 s
  | .ceCPop v0 v1 => Sys2Proof.Machine.execCeCPop v0 v1 s
  | .ldi v0 v1 v2 => Sys2Proof.Machine.execLdi v0 v1 v2 s
  | .ldih v0 v1 v2 => Sys2Proof.Machine.execLdih v0 v1 v2 s
  | .movIaO v0 v1 => Sys2Proof.Machine.execMovIaO v0 v1 s
  | .movIbO v0 v1 => Sys2Proof.Machine.execMovIbO v0 v1 s
  | .movFaO v0 v1 => Sys2Proof.Machine.execMovFaO v0 v1 s
  | .iaAdd v0 v1 v2 => Sys2Proof.Machine.execIaAdd v0 v1 v2 s
  | .iaAddC v0 v1 => Sys2Proof.Machine.execIaAddC v0 v1 s
  | .iaSub v0 v1 v2 => Sys2Proof.Machine.execIaSub v0 v1 v2 s
  | .iaSubC v0 v1 => Sys2Proof.Machine.execIaSubC v0 v1 s
  | .iaAnd v0 v1 v2 => Sys2Proof.Machine.execIaAnd v0 v1 v2 s
  | .iaAndC v0 v1 => Sys2Proof.Machine.execIaAndC v0 v1 s
  | .iaOr v0 v1 v2 => Sys2Proof.Machine.execIaOr v0 v1 v2 s
  | .iaOrC v0 v1 => Sys2Proof.Machine.execIaOrC v0 v1 s
  | .iaXor v0 v1 v2 => Sys2Proof.Machine.execIaXor v0 v1 v2 s
  | .iaXorC v0 v1 => Sys2Proof.Machine.execIaXorC v0 v1 s
  | .iaAndn v0 v1 v2 => Sys2Proof.Machine.execIaAndn v0 v1 v2 s
  | .iaAndnC v0 v1 => Sys2Proof.Machine.execIaAndnC v0 v1 s
  | .iaShl v0 v1 v2 => Sys2Proof.Machine.execIaShl v0 v1 v2 s
  | .iaShlC v0 v1 => Sys2Proof.Machine.execIaShlC v0 v1 s
  | .iaShr v0 v1 v2 => Sys2Proof.Machine.execIaShr v0 v1 v2 s
  | .iaShrC v0 v1 => Sys2Proof.Machine.execIaShrC v0 v1 s
  | .iaSar v0 v1 v2 => Sys2Proof.Machine.execIaSar v0 v1 v2 s
  | .iaSarC v0 v1 => Sys2Proof.Machine.execIaSarC v0 v1 s
  | .iaRotl v0 v1 v2 => Sys2Proof.Machine.execIaRotl v0 v1 v2 s
  | .iaRotlC v0 v1 => Sys2Proof.Machine.execIaRotlC v0 v1 s
  | .iaMin v0 v1 v2 => Sys2Proof.Machine.execIaMin v0 v1 v2 s
  | .iaMinC v0 v1 => Sys2Proof.Machine.execIaMinC v0 v1 s
  | .iaMax v0 v1 v2 => Sys2Proof.Machine.execIaMax v0 v1 v2 s
  | .iaMaxC v0 v1 => Sys2Proof.Machine.execIaMaxC v0 v1 s
  | .iaMinu v0 v1 v2 => Sys2Proof.Machine.execIaMinu v0 v1 v2 s
  | .iaMinuC v0 v1 => Sys2Proof.Machine.execIaMinuC v0 v1 s
  | .iaMaxu v0 v1 v2 => Sys2Proof.Machine.execIaMaxu v0 v1 v2 s
  | .iaMaxuC v0 v1 => Sys2Proof.Machine.execIaMaxuC v0 v1 s
  | .iaLea1 v0 v1 v2 => Sys2Proof.Machine.execIaLea1 v0 v1 v2 s
  | .iaLea1C v0 v1 => Sys2Proof.Machine.execIaLea1C v0 v1 s
  | .iaLea2 v0 v1 v2 => Sys2Proof.Machine.execIaLea2 v0 v1 v2 s
  | .iaLea2C v0 v1 => Sys2Proof.Machine.execIaLea2C v0 v1 s
  | .iaLea4 v0 v1 v2 => Sys2Proof.Machine.execIaLea4 v0 v1 v2 s
  | .iaLea4C v0 v1 => Sys2Proof.Machine.execIaLea4C v0 v1 s
  | .iaLea8 v0 v1 v2 => Sys2Proof.Machine.execIaLea8 v0 v1 v2 s
  | .iaLea8C v0 v1 => Sys2Proof.Machine.execIaLea8C v0 v1 s
  | .iaSext8 v0 v1 => Sys2Proof.Machine.execIaSext8 v0 v1 s
  | .iaSext8C v0 => Sys2Proof.Machine.execIaSext8C v0 s
  | .iaSext16 v0 v1 => Sys2Proof.Machine.execIaSext16 v0 v1 s
  | .iaSext16C v0 => Sys2Proof.Machine.execIaSext16C v0 s
  | .iaSext32 v0 v1 => Sys2Proof.Machine.execIaSext32 v0 v1 s
  | .iaSext32C v0 => Sys2Proof.Machine.execIaSext32C v0 s
  | .iaZext8 v0 v1 => Sys2Proof.Machine.execIaZext8 v0 v1 s
  | .iaZext8C v0 => Sys2Proof.Machine.execIaZext8C v0 s
  | .iaZext16 v0 v1 => Sys2Proof.Machine.execIaZext16 v0 v1 s
  | .iaZext16C v0 => Sys2Proof.Machine.execIaZext16C v0 s
  | .iaZext32 v0 v1 => Sys2Proof.Machine.execIaZext32 v0 v1 s
  | .iaZext32C v0 => Sys2Proof.Machine.execIaZext32C v0 s
  | .iaClz v0 v1 => Sys2Proof.Machine.execIaClz v0 v1 s
  | .iaClzC v0 => Sys2Proof.Machine.execIaClzC v0 s
  | .iaCtz v0 v1 => Sys2Proof.Machine.execIaCtz v0 v1 s
  | .iaCtzC v0 => Sys2Proof.Machine.execIaCtzC v0 s
  | .iaPopc v0 v1 => Sys2Proof.Machine.execIaPopc v0 v1 s
  | .iaPopcC v0 => Sys2Proof.Machine.execIaPopcC v0 s
  | .iaBswap v0 v1 => Sys2Proof.Machine.execIaBswap v0 v1 s
  | .iaBswapC v0 => Sys2Proof.Machine.execIaBswapC v0 s
  | .iaCmpeq v0 v1 v2 v3 => Sys2Proof.Machine.execIaCmpeq v0 v1 v2 v3 s
  | .iaCmpeqC v0 v1 => Sys2Proof.Machine.execIaCmpeqC v0 v1 s
  | .iaCmpne v0 v1 v2 v3 => Sys2Proof.Machine.execIaCmpne v0 v1 v2 v3 s
  | .iaCmpneC v0 v1 => Sys2Proof.Machine.execIaCmpneC v0 v1 s
  | .iaCmplt v0 v1 v2 v3 => Sys2Proof.Machine.execIaCmplt v0 v1 v2 v3 s
  | .iaCmpltC v0 v1 => Sys2Proof.Machine.execIaCmpltC v0 v1 s
  | .iaCmpltu v0 v1 v2 v3 => Sys2Proof.Machine.execIaCmpltu v0 v1 v2 v3 s
  | .iaCmpltuC v0 v1 => Sys2Proof.Machine.execIaCmpltuC v0 v1 s
  | .iaCmple v0 v1 v2 v3 => Sys2Proof.Machine.execIaCmple v0 v1 v2 v3 s
  | .iaCmpleC v0 v1 => Sys2Proof.Machine.execIaCmpleC v0 v1 s
  | .iaCmpleu v0 v1 v2 v3 => Sys2Proof.Machine.execIaCmpleu v0 v1 v2 v3 s
  | .iaCmpleuC v0 v1 => Sys2Proof.Machine.execIaCmpleuC v0 v1 s
  | .iaSel v0 v1 v2 => Sys2Proof.Machine.execIaSel v0 v1 v2 s
  | .iaSelC v0 v1 => Sys2Proof.Machine.execIaSelC v0 v1 s
  | .iaSettag v0 v1 v2 => Sys2Proof.Machine.execIaSettag v0 v1 v2 s
  | .iaSettagC v0 v1 => Sys2Proof.Machine.execIaSettagC v0 v1 s
  | .iaGettag v0 v1 => Sys2Proof.Machine.execIaGettag v0 v1 s
  | .iaGettagC v0 => Sys2Proof.Machine.execIaGettagC v0 s
  | .iaTile v0 v1 v2 => Sys2Proof.Machine.execIaTile v0 v1 v2 s
  | .iaTileC v0 v1 => Sys2Proof.Machine.execIaTileC v0 v1 s
  | .iaGown v0 v1 v2 => Sys2Proof.Machine.execIaGown v0 v1 v2 s
  | .iaGownC v0 v1 => Sys2Proof.Machine.execIaGownC v0 v1 s
  | .iaPand v0 v1 v2 v3 => Sys2Proof.Machine.execIaPand v0 v1 v2 v3 s
  | .iaPor v0 v1 v2 v3 => Sys2Proof.Machine.execIaPor v0 v1 v2 v3 s
  | .iaPxor v0 v1 v2 v3 => Sys2Proof.Machine.execIaPxor v0 v1 v2 v3 s
  | .iaPnot v0 v1 v2 => Sys2Proof.Machine.execIaPnot v0 v1 v2 s
  | .iaPset v0 v1 => Sys2Proof.Machine.execIaPset v0 v1 s
  | .iaPclr v0 v1 => Sys2Proof.Machine.execIaPclr v0 v1 s
  | .ibMul v0 v1 v2 => Sys2Proof.Machine.execIbMul v0 v1 v2 s
  | .ibMulC v0 v1 => Sys2Proof.Machine.execIbMulC v0 v1 s
  | .ibMulh v0 v1 v2 => Sys2Proof.Machine.execIbMulh v0 v1 v2 s
  | .ibMulhC v0 v1 => Sys2Proof.Machine.execIbMulhC v0 v1 s
  | .ibMulhu v0 v1 v2 => Sys2Proof.Machine.execIbMulhu v0 v1 v2 s
  | .ibMulhuC v0 v1 => Sys2Proof.Machine.execIbMulhuC v0 v1 s
  | .ibDiv v0 v1 v2 => Sys2Proof.Machine.execIbDiv v0 v1 v2 s
  | .ibDivC v0 v1 => Sys2Proof.Machine.execIbDivC v0 v1 s
  | .ibDivu v0 v1 v2 => Sys2Proof.Machine.execIbDivu v0 v1 v2 s
  | .ibDivuC v0 v1 => Sys2Proof.Machine.execIbDivuC v0 v1 s
  | .ibRem v0 v1 v2 => Sys2Proof.Machine.execIbRem v0 v1 v2 s
  | .ibRemC v0 v1 => Sys2Proof.Machine.execIbRemC v0 v1 s
  | .ibRemu v0 v1 v2 => Sys2Proof.Machine.execIbRemu v0 v1 v2 s
  | .ibRemuC v0 v1 => Sys2Proof.Machine.execIbRemuC v0 v1 s
  | .ibMulacc v0 v1 v2 => Sys2Proof.Machine.execIbMulacc v0 v1 v2 s
  | .ibMulaccC v0 v1 => Sys2Proof.Machine.execIbMulaccC v0 v1 s
  | .ibCrc32c v0 v1 v2 => Sys2Proof.Machine.execIbCrc32c v0 v1 v2 s
  | .ibCrc32cC v0 v1 => Sys2Proof.Machine.execIbCrc32cC v0 v1 s
  | .faFadd v0 v1 v2 => Sys2Proof.Machine.execFaFadd v0 v1 v2 s
  | .faFaddC v0 v1 => Sys2Proof.Machine.execFaFaddC v0 v1 s
  | .faFsub v0 v1 v2 => Sys2Proof.Machine.execFaFsub v0 v1 v2 s
  | .faFsubC v0 v1 => Sys2Proof.Machine.execFaFsubC v0 v1 s
  | .faFmul v0 v1 v2 => Sys2Proof.Machine.execFaFmul v0 v1 v2 s
  | .faFmulC v0 v1 => Sys2Proof.Machine.execFaFmulC v0 v1 s
  | .faFma v0 v1 v2 => Sys2Proof.Machine.execFaFma v0 v1 v2 s
  | .faFmaC v0 v1 => Sys2Proof.Machine.execFaFmaC v0 v1 s
  | .faFmin v0 v1 v2 => Sys2Proof.Machine.execFaFmin v0 v1 v2 s
  | .faFminC v0 v1 => Sys2Proof.Machine.execFaFminC v0 v1 s
  | .faFmax v0 v1 v2 => Sys2Proof.Machine.execFaFmax v0 v1 v2 s
  | .faFmaxC v0 v1 => Sys2Proof.Machine.execFaFmaxC v0 v1 s
  | .faFabs v0 v1 => Sys2Proof.Machine.execFaFabs v0 v1 s
  | .faFabsC v0 => Sys2Proof.Machine.execFaFabsC v0 s
  | .faFneg v0 v1 => Sys2Proof.Machine.execFaFneg v0 v1 s
  | .faFnegC v0 => Sys2Proof.Machine.execFaFnegC v0 s
  | .faFcmpeq v0 v1 v2 v3 => Sys2Proof.Machine.execFaFcmpeq v0 v1 v2 v3 s
  | .faFcmpeqC v0 v1 => Sys2Proof.Machine.execFaFcmpeqC v0 v1 s
  | .faFcmplt v0 v1 v2 v3 => Sys2Proof.Machine.execFaFcmplt v0 v1 v2 v3 s
  | .faFcmpltC v0 v1 => Sys2Proof.Machine.execFaFcmpltC v0 v1 s
  | .faFcmple v0 v1 v2 v3 => Sys2Proof.Machine.execFaFcmple v0 v1 v2 v3 s
  | .faFcmpleC v0 v1 => Sys2Proof.Machine.execFaFcmpleC v0 v1 s
  | .faFcmpun v0 v1 v2 v3 => Sys2Proof.Machine.execFaFcmpun v0 v1 v2 v3 s
  | .faFcmpunC v0 v1 => Sys2Proof.Machine.execFaFcmpunC v0 v1 s
  | .faFdiv v0 v1 v2 => Sys2Proof.Machine.execFaFdiv v0 v1 v2 s
  | .faFdivC v0 v1 => Sys2Proof.Machine.execFaFdivC v0 v1 s
  | .faFsqrt v0 v1 => Sys2Proof.Machine.execFaFsqrt v0 v1 s
  | .faFsqrtC v0 => Sys2Proof.Machine.execFaFsqrtC v0 s
  | .faFrcp v0 v1 => Sys2Proof.Machine.execFaFrcp v0 v1 s
  | .faFrcpC v0 => Sys2Proof.Machine.execFaFrcpC v0 s
  | .faFrsq v0 v1 => Sys2Proof.Machine.execFaFrsq v0 v1 s
  | .faFrsqC v0 => Sys2Proof.Machine.execFaFrsqC v0 s
  | .faCvtif v0 v1 v2 => Sys2Proof.Machine.execFaCvtif v0 v1 v2 s
  | .faCvtifC v0 v1 => Sys2Proof.Machine.execFaCvtifC v0 v1 s
  | .faCvtfi v0 v1 v2 => Sys2Proof.Machine.execFaCvtfi v0 v1 v2 s
  | .faCvtfiC v0 v1 => Sys2Proof.Machine.execFaCvtfiC v0 v1 s
  | .faTobf16 v0 v1 => Sys2Proof.Machine.execFaTobf16 v0 v1 s
  | .faTobf16C v0 => Sys2Proof.Machine.execFaTobf16C v0 s
  | .faFrombf16 v0 v1 => Sys2Proof.Machine.execFaFrombf16 v0 v1 s
  | .faFrombf16C v0 => Sys2Proof.Machine.execFaFrombf16C v0 s
  | .faToe4m3 v0 v1 => Sys2Proof.Machine.execFaToe4m3 v0 v1 s
  | .faToe4m3C v0 => Sys2Proof.Machine.execFaToe4m3C v0 s
  | .faFromqn4 v0 v1 => Sys2Proof.Machine.execFaFromqn4 v0 v1 s
  | .faFromqn4C v0 => Sys2Proof.Machine.execFaFromqn4C v0 s
  | .faScl v0 v1 v2 => Sys2Proof.Machine.execFaScl v0 v1 v2 s
  | .faSclC v0 v1 => Sys2Proof.Machine.execFaSclC v0 v1 s
  | .vpfx v0 => Sys2Proof.Machine.execVpfx v0 s
  | .vxAdd v0 v1 v2 v3 => Sys2Proof.Machine.execVxAdd v0 v1 v2 v3 s
  | .vxSub v0 v1 v2 v3 => Sys2Proof.Machine.execVxSub v0 v1 v2 v3 s
  | .vxMul v0 v1 v2 v3 => Sys2Proof.Machine.execVxMul v0 v1 v2 v3 s
  | .vxMulh v0 v1 v2 v3 => Sys2Proof.Machine.execVxMulh v0 v1 v2 v3 s
  | .vxFma v0 v1 v2 v3 => Sys2Proof.Machine.execVxFma v0 v1 v2 v3 s
  | .vxFms v0 v1 v2 v3 => Sys2Proof.Machine.execVxFms v0 v1 v2 v3 s
  | .vxNfma v0 v1 v2 v3 => Sys2Proof.Machine.execVxNfma v0 v1 v2 v3 s
  | .vxMin v0 v1 v2 v3 => Sys2Proof.Machine.execVxMin v0 v1 v2 v3 s
  | .vxMax v0 v1 v2 v3 => Sys2Proof.Machine.execVxMax v0 v1 v2 v3 s
  | .vxAbs v0 v1 v2 => Sys2Proof.Machine.execVxAbs v0 v1 v2 s
  | .vxNeg v0 v1 v2 => Sys2Proof.Machine.execVxNeg v0 v1 v2 s
  | .vxAnd v0 v1 v2 v3 => Sys2Proof.Machine.execVxAnd v0 v1 v2 v3 s
  | .vxOr v0 v1 v2 v3 => Sys2Proof.Machine.execVxOr v0 v1 v2 v3 s
  | .vxXor v0 v1 v2 v3 => Sys2Proof.Machine.execVxXor v0 v1 v2 v3 s
  | .vxShl v0 v1 v2 v3 => Sys2Proof.Machine.execVxShl v0 v1 v2 v3 s
  | .vxShr v0 v1 v2 v3 => Sys2Proof.Machine.execVxShr v0 v1 v2 v3 s
  | .vxSar v0 v1 v2 v3 => Sys2Proof.Machine.execVxSar v0 v1 v2 v3 s
  | .vxCmpeq v0 v1 v2 v3 => Sys2Proof.Machine.execVxCmpeq v0 v1 v2 v3 s
  | .vxCmpne v0 v1 v2 v3 => Sys2Proof.Machine.execVxCmpne v0 v1 v2 v3 s
  | .vxCmplt v0 v1 v2 v3 => Sys2Proof.Machine.execVxCmplt v0 v1 v2 v3 s
  | .vxCmple v0 v1 v2 v3 => Sys2Proof.Machine.execVxCmple v0 v1 v2 v3 s
  | .vxSel v0 v1 v2 v3 => Sys2Proof.Machine.execVxSel v0 v1 v2 v3 s
  | .vxCvt v0 v1 v2 => Sys2Proof.Machine.execVxCvt v0 v1 v2 s
  | .vxWadd v0 v1 v2 v3 => Sys2Proof.Machine.execVxWadd v0 v1 v2 v3 s
  | .vxWmul v0 v1 v2 v3 => Sys2Proof.Machine.execVxWmul v0 v1 v2 v3 s
  | .vxNarrow v0 v1 v2 => Sys2Proof.Machine.execVxNarrow v0 v1 v2 s
  | .vxSum v0 v1 => Sys2Proof.Machine.execVxSum v0 v1 s
  | .vxMaxr v0 v1 => Sys2Proof.Machine.execVxMaxr v0 v1 s
  | .vxMinr v0 v1 => Sys2Proof.Machine.execVxMinr v0 v1 s
  | .vxPerm v0 v1 v2 v3 => Sys2Proof.Machine.execVxPerm v0 v1 v2 v3 s
  | .vxShuf v0 v1 v2 v3 => Sys2Proof.Machine.execVxShuf v0 v1 v2 v3 s
  | .vxBcast v0 v1 v2 v3 => Sys2Proof.Machine.execVxBcast v0 v1 v2 v3 s
  | .vxSlide v0 v1 v2 v3 => Sys2Proof.Machine.execVxSlide v0 v1 v2 v3 s
  | .vxXchg v0 v1 v2 => Sys2Proof.Machine.execVxXchg v0 v1 v2 s
  | .vxSexp v0 v1 v2 v3 => Sys2Proof.Machine.execVxSexp v0 v1 v2 v3 s
  | .vxSacc v0 v1 v2 v3 => Sys2Proof.Machine.execVxSacc v0 v1 v2 v3 s
  | .vxDecq v0 v1 v2 v3 => Sys2Proof.Machine.execVxDecq v0 v1 v2 v3 s
  | .vxEncq v0 v1 v2 v3 => Sys2Proof.Machine.execVxEncq v0 v1 v2 v3 s
  | .vxExp2 v0 v1 v2 => Sys2Proof.Machine.execVxExp2 v0 v1 v2 s
  | .vxLog2 v0 v1 v2 => Sys2Proof.Machine.execVxLog2 v0 v1 v2 s
  | .vxRcp v0 v1 v2 => Sys2Proof.Machine.execVxRcp v0 v1 v2 s
  | .vxRsq v0 v1 v2 => Sys2Proof.Machine.execVxRsq v0 v1 v2 s
  | .vxTanh v0 v1 v2 => Sys2Proof.Machine.execVxTanh v0 v1 v2 s
  | .vxPopcm v0 v1 => Sys2Proof.Machine.execVxPopcm v0 v1 s
  | .vxIota v0 v1 v2 v3 => Sys2Proof.Machine.execVxIota v0 v1 v2 v3 s
  | .vxMmov v0 v1 v2 => Sys2Proof.Machine.execVxMmov v0 v1 v2 s
  | .vld v0 v1 v2 v3 => Sys2Proof.Machine.execVld v0 v1 v2 v3 s
  | .vst v0 v1 v2 v3 => Sys2Proof.Machine.execVst v0 v1 v2 v3 s
  | .vlds v0 v1 v2 v3 => Sys2Proof.Machine.execVlds v0 v1 v2 v3 s
  | .vsts v0 v1 v2 v3 => Sys2Proof.Machine.execVsts v0 v1 v2 v3 s
  | .vgth v0 v1 v2 v3 => Sys2Proof.Machine.execVgth v0 v1 v2 v3 s
  | .vsct v0 v1 v2 v3 => Sys2Proof.Machine.execVsct v0 v1 v2 v3 s
  | .vset v0 v1 => Sys2Proof.Machine.execVset v0 v1 s
  | .kld v0 v1 v2 v3 => Sys2Proof.Machine.execKld v0 v1 v2 v3 s
  | .kst v0 v1 v2 v3 => Sys2Proof.Machine.execKst v0 v1 v2 v3 s
  | .mxLease v0 v1 v2 => Sys2Proof.Machine.execMxLease v0 v1 v2 s
  | .mxFree v0 => Sys2Proof.Machine.execMxFree v0 s
  | .mxLdaBf16 v0 v1 v2 => Sys2Proof.Machine.execMxLdaBf16 v0 v1 v2 s
  | .mxLdaE4m3 v0 v1 v2 => Sys2Proof.Machine.execMxLdaE4m3 v0 v1 v2 s
  | .mxLdaE5m2 v0 v1 v2 => Sys2Proof.Machine.execMxLdaE5m2 v0 v1 v2 s
  | .mxLdaI8 v0 v1 v2 => Sys2Proof.Machine.execMxLdaI8 v0 v1 v2 s
  | .mxLdaF32 v0 v1 v2 => Sys2Proof.Machine.execMxLdaF32 v0 v1 v2 s
  | .mxLdbBf16 v0 v1 v2 => Sys2Proof.Machine.execMxLdbBf16 v0 v1 v2 s
  | .mxLdbE4m3 v0 v1 v2 => Sys2Proof.Machine.execMxLdbE4m3 v0 v1 v2 s
  | .mxLdbE5m2 v0 v1 v2 => Sys2Proof.Machine.execMxLdbE5m2 v0 v1 v2 s
  | .mxLdbI8 v0 v1 v2 => Sys2Proof.Machine.execMxLdbI8 v0 v1 v2 s
  | .mxLdbF32 v0 v1 v2 => Sys2Proof.Machine.execMxLdbF32 v0 v1 v2 s
  | .mxLdbQn4 v0 v1 v2 => Sys2Proof.Machine.execMxLdbQn4 v0 v1 v2 s
  | .mxMmaM64n64k32Bf16 v0 v1 v2 => Sys2Proof.Machine.execMxMmaM64n64k32Bf16 v0 v1 v2 s
  | .mxMmaM32n64k32Bf16 v0 v1 v2 => Sys2Proof.Machine.execMxMmaM32n64k32Bf16 v0 v1 v2 s
  | .mxMmaM16n64k32Bf16 v0 v1 v2 => Sys2Proof.Machine.execMxMmaM16n64k32Bf16 v0 v1 v2 s
  | .mxMmaM64n64k64E4m3 v0 v1 v2 => Sys2Proof.Machine.execMxMmaM64n64k64E4m3 v0 v1 v2 s
  | .mxMmaM64n64k64E5m2 v0 v1 v2 => Sys2Proof.Machine.execMxMmaM64n64k64E5m2 v0 v1 v2 s
  | .mxMmaM64n64k64Mix8 v0 v1 v2 => Sys2Proof.Machine.execMxMmaM64n64k64Mix8 v0 v1 v2 s
  | .mxMmaM64n64k64I8 v0 v1 v2 => Sys2Proof.Machine.execMxMmaM64n64k64I8 v0 v1 v2 s
  | .mxMmaM64n64k64Qn4 v0 v1 v2 => Sys2Proof.Machine.execMxMmaM64n64k64Qn4 v0 v1 v2 s
  | .mxMmaM16n64k64Qn4 v0 v1 v2 => Sys2Proof.Machine.execMxMmaM16n64k64Qn4 v0 v1 v2 s
  | .mxMmaM64n64k8F32 v0 v1 v2 => Sys2Proof.Machine.execMxMmaM64n64k8F32 v0 v1 v2 s
  | .mxChainBf16 v0 v1 v2 => Sys2Proof.Machine.execMxChainBf16 v0 v1 v2 s
  | .mxChainE4m3 v0 v1 v2 => Sys2Proof.Machine.execMxChainE4m3 v0 v1 v2 s
  | .mxDrain v0 v1 v2 => Sys2Proof.Machine.execMxDrain v0 v1 v2 s
  | .mxDrainv v0 v1 v2 => Sys2Proof.Machine.execMxDrainv v0 v1 v2 s
  | .mxZero v0 v1 v2 => Sys2Proof.Machine.execMxZero v0 v1 v2 s
  | .mxChk v0 v1 v2 => Sys2Proof.Machine.execMxChk v0 v1 v2 s
  | .mxInject v0 v1 v2 => Sys2Proof.Machine.execMxInject v0 v1 v2 s
  | .movMxA v0 v1 => Sys2Proof.Machine.execMovMxA v0 v1 s
  | .movMxB v0 v1 => Sys2Proof.Machine.execMovMxB v0 v1 s
  | .lsLd8s v0 v1 v2 v3 => Sys2Proof.Machine.execLsLd8s v0 v1 v2 v3 s
  | .lsLd8u v0 v1 v2 v3 => Sys2Proof.Machine.execLsLd8u v0 v1 v2 v3 s
  | .lsLd16s v0 v1 v2 v3 => Sys2Proof.Machine.execLsLd16s v0 v1 v2 v3 s
  | .lsLd16u v0 v1 v2 v3 => Sys2Proof.Machine.execLsLd16u v0 v1 v2 v3 s
  | .lsLd32s v0 v1 v2 v3 => Sys2Proof.Machine.execLsLd32s v0 v1 v2 v3 s
  | .lsLd32u v0 v1 v2 v3 => Sys2Proof.Machine.execLsLd32u v0 v1 v2 v3 s
  | .lsLd64 v0 v1 v2 v3 => Sys2Proof.Machine.execLsLd64 v0 v1 v2 v3 s
  | .lsLdp v0 v1 v2 v3 => Sys2Proof.Machine.execLsLdp v0 v1 v2 v3 s
  | .lsSt8 v0 v1 v2 => Sys2Proof.Machine.execLsSt8 v0 v1 v2 s
  | .lsSt16 v0 v1 v2 => Sys2Proof.Machine.execLsSt16 v0 v1 v2 s
  | .lsSt32 v0 v1 v2 => Sys2Proof.Machine.execLsSt32 v0 v1 v2 s
  | .lsSt64 v0 v1 v2 => Sys2Proof.Machine.execLsSt64 v0 v1 v2 s
  | .lsStp v0 v1 v2 => Sys2Proof.Machine.execLsStp v0 v1 v2 s
  | .lsPf v0 v1 => Sys2Proof.Machine.execLsPf v0 v1 s
  | .movLsD v0 v1 => Sys2Proof.Machine.execMovLsD v0 v1 s
  | .atAdd32 v0 v1 v2 => Sys2Proof.Machine.execAtAdd32 v0 v1 v2 s
  | .atAdd64 v0 v1 v2 => Sys2Proof.Machine.execAtAdd64 v0 v1 v2 s
  | .atFadd32 v0 v1 v2 => Sys2Proof.Machine.execAtFadd32 v0 v1 v2 s
  | .atFadd16b v0 v1 v2 => Sys2Proof.Machine.execAtFadd16b v0 v1 v2 s
  | .atMin32 v0 v1 v2 => Sys2Proof.Machine.execAtMin32 v0 v1 v2 s
  | .atMax32 v0 v1 v2 => Sys2Proof.Machine.execAtMax32 v0 v1 v2 s
  | .atMinu32 v0 v1 v2 => Sys2Proof.Machine.execAtMinu32 v0 v1 v2 s
  | .atMaxu32 v0 v1 v2 => Sys2Proof.Machine.execAtMaxu32 v0 v1 v2 s
  | .atAnd64 v0 v1 v2 => Sys2Proof.Machine.execAtAnd64 v0 v1 v2 s
  | .atOr64 v0 v1 v2 => Sys2Proof.Machine.execAtOr64 v0 v1 v2 s
  | .atXor64 v0 v1 v2 => Sys2Proof.Machine.execAtXor64 v0 v1 v2 s
  | .atSwp64 v0 v1 v2 => Sys2Proof.Machine.execAtSwp64 v0 v1 v2 s
  | .atCas64 v0 v1 v2 => Sys2Proof.Machine.execAtCas64 v0 v1 v2 s
  | .atFinc v0 v1 v2 => Sys2Proof.Machine.execAtFinc v0 v1 v2 s
  | .atRedAdd32 v0 v1 v2 => Sys2Proof.Machine.execAtRedAdd32 v0 v1 v2 s
  | .atRedAdd64 v0 v1 v2 => Sys2Proof.Machine.execAtRedAdd64 v0 v1 v2 s
  | .atRedFadd32 v0 v1 v2 => Sys2Proof.Machine.execAtRedFadd32 v0 v1 v2 s
  | .atRedFadd16b v0 v1 v2 => Sys2Proof.Machine.execAtRedFadd16b v0 v1 v2 s
  | .atAset v0 v1 v2 => Sys2Proof.Machine.execAtAset v0 v1 v2 s
  | .atTok v0 v1 => Sys2Proof.Machine.execAtTok v0 v1 s
  | .movAtO v0 v1 => Sys2Proof.Machine.execMovAtO v0 v1 s
  | .ceCopy v0 v1 => Sys2Proof.Machine.execCeCopy v0 v1 s
  | .ceCopy2d v0 v1 => Sys2Proof.Machine.execCeCopy2d v0 v1 s
  | .ceMcast v0 v1 => Sys2Proof.Machine.execCeMcast v0 v1 s
  | .ceRedb v0 v1 => Sys2Proof.Machine.execCeRedb v0 v1 s
  | .ceRedf v0 v1 => Sys2Proof.Machine.execCeRedf v0 v1 s
  | .ceCopyq v0 v1 => Sys2Proof.Machine.execCeCopyq v0 v1 s
  | .ceCopyb v0 v1 => Sys2Proof.Machine.execCeCopyb v0 v1 s
  | .movCeS v0 v1 => Sys2Proof.Machine.execMovCeS v0 v1 s
  | .movCeD v0 v1 => Sys2Proof.Machine.execMovCeD v0 v1 s
  | .movCeN v0 v1 => Sys2Proof.Machine.execMovCeN v0 v1 s
  | .movCeB v0 v1 => Sys2Proof.Machine.execMovCeB v0 v1 s
  | .movCeM v0 v1 => Sys2Proof.Machine.execMovCeM v0 v1 s
  | .sqPush v0 v1 v2 => Sys2Proof.Machine.execSqPush v0 v1 v2 s
  | .sqPop v0 v1 v2 => Sys2Proof.Machine.execSqPop v0 v1 v2 s
  | .sqPeek v0 v1 v2 => Sys2Proof.Machine.execSqPeek v0 v1 v2 s
  | .sqPopw v0 v1 v2 => Sys2Proof.Machine.execSqPopw v0 v1 v2 s
  | .sqPushw v0 v1 v2 => Sys2Proof.Machine.execSqPushw v0 v1 v2 s
  | .sqRqpush v0 v1 v2 v3 => Sys2Proof.Machine.execSqRqpush v0 v1 v2 v3 s
  | .sqRqpop v0 v1 => Sys2Proof.Machine.execSqRqpop v0 v1 s
  | .sqRqprio v0 v1 v2 => Sys2Proof.Machine.execSqRqprio v0 v1 v2 s
  | .sqSpawn v0 v1 v2 => Sys2Proof.Machine.execSqSpawn v0 v1 v2 s
  | .sqDec v0 v1 v2 => Sys2Proof.Machine.execSqDec v0 v1 v2 s
  | .sqDone v0 => Sys2Proof.Machine.execSqDone v0 s
  | .movSqD v0 v1 => Sys2Proof.Machine.execMovSqD v0 v1 s
  | .movSqH v0 v1 => Sys2Proof.Machine.execMovSqH v0 v1 s
  | .syBinit v0 v1 v2 => Sys2Proof.Machine.execSyBinit v0 v1 v2 s
  | .syArrive v0 v1 v2 => Sys2Proof.Machine.execSyArrive v0 v1 v2 s
  | .syArrivb v0 v1 v2 => Sys2Proof.Machine.execSyArrivb v0 v1 v2 s
  | .syWait v0 v1 v2 => Sys2Proof.Machine.execSyWait v0 v1 v2 s
  | .syTest v0 v1 v2 => Sys2Proof.Machine.execSyTest v0 v1 v2 s
  | .syInval v0 v1 v2 => Sys2Proof.Machine.execSyInval v0 v1 v2 s
  | .syMon v0 v1 v2 v3 => Sys2Proof.Machine.execSyMon v0 v1 v2 v3 s
  | .syUnmon v0 v1 v2 => Sys2Proof.Machine.execSyUnmon v0 v1 v2 s
  | .syMwait v0 v1 => Sys2Proof.Machine.execSyMwait v0 v1 s
  | .syGbar v0 v1 => Sys2Proof.Machine.execSyGbar v0 v1 s
  | .movSyA v0 v1 => Sys2Proof.Machine.execMovSyA v0 v1 s
  | .movSyB v0 v1 => Sys2Proof.Machine.execMovSyB v0 v1 s
  | .movSyL v0 v1 => Sys2Proof.Machine.execMovSyL v0 v1 s
  | .ctBr v0 v1 => Sys2Proof.Machine.execCtBr v0 v1 s
  | .ctBrAbs v0 v1 => Sys2Proof.Machine.execCtBrAbs v0 v1 s
  | .ctCall v0 v1 => Sys2Proof.Machine.execCtCall v0 v1 s
  | .ctCallAbs v0 v1 => Sys2Proof.Machine.execCtCallAbs v0 v1 s
  | .ctRet v0 => Sys2Proof.Machine.execCtRet v0 s
  | .ctJmp v0 v1 => Sys2Proof.Machine.execCtJmp v0 v1 s
  | .ctChunk v0 => Sys2Proof.Machine.execCtChunk v0 s
  | .ctYield v0 => Sys2Proof.Machine.execCtYield v0 s
  | .ctHalt v0 => Sys2Proof.Machine.execCtHalt v0 s
  | .ctTrap v0 v1 => Sys2Proof.Machine.execCtTrap v0 v1 s
  | .ctNop v0 => Sys2Proof.Machine.execCtNop v0 s
  | .ctIpf v0 v1 v2 => Sys2Proof.Machine.execCtIpf v0 v1 v2 s
  | .ctEfence v0 => Sys2Proof.Machine.execCtEfence v0 s
  | .ctSstop v0 v1 => Sys2Proof.Machine.execCtSstop v0 v1 s
  | .ctSgo v0 v1 => Sys2Proof.Machine.execCtSgo v0 v1 s
  | .ctSsave v0 v1 => Sys2Proof.Machine.execCtSsave v0 v1 s
  | .ctSload v0 v1 => Sys2Proof.Machine.execCtSload v0 v1 s
  | .ctResume v0 v1 => Sys2Proof.Machine.execCtResume v0 v1 s
  | .qsBind v0 v1 v2 => Sys2Proof.Machine.execQsBind v0 v1 v2 s
  | .qsUnbind v0 v1 => Sys2Proof.Machine.execQsUnbind v0 v1 s
  | .qsWrite v0 v1 v2 => Sys2Proof.Machine.execQsWrite v0 v1 v2 s
  | .srWrite v0 v1 v2 => Sys2Proof.Machine.execSrWrite v0 v1 v2 s
  | .writeAlarm v0 v1 => Sys2Proof.Machine.execWriteAlarm v0 v1 s
  | .writeRedpin v0 v1 => Sys2Proof.Machine.execWriteRedpin v0 v1 s
  | .writeRng v0 v1 => Sys2Proof.Machine.execWriteRng v0 v1 s
  | .srTlbinv v0 v1 v2 => Sys2Proof.Machine.execSrTlbinv v0 v1 v2 s
  | .srPfence v0 v1 => Sys2Proof.Machine.execSrPfence v0 v1 s
  | .srAckfloor v0 v1 v2 => Sys2Proof.Machine.execSrAckfloor v0 v1 v2 s

end Sys2Proof.Machine
end

