-- ==== Sys2Proof/Machine/Issue.lean ====
section
/-! DEFINITION. Issue (R37-R39, R52, R254): the strand a core offers the slot to, the words of its pair, and one bundle.
It also says which of the things that can happen next are candidates, and what a step does with the one it takes. -/

namespace Sys2Proof.Machine

/-! ## Words of a pair (Table 2-2) -/

/-- The class K of a word: an A-word. -/
def isA (w : Word32) : Bool := w.getLsbD 31
/-- The lone bit L of a word. -/
def isLone (w : Word32) : Bool := w.getLsbD 30
/-- Whether a C-word is `vpfx`, which is legal only as the first word of a prefixed pair (R49). -/
def isPrefix (w : Word32) : Bool := !isA w && decide ((w.toNat / 2 ^ 12) % 2 ^ 10 = 0x13F)
/-- Whether an A-word is a vector operation. -/
def isVector (w : Word32) : Bool := isA w && decide ((w.toNat / 2 ^ 23) % 8 = 3)
/-- Whether the two words of a bundle trigger one unit (R38, R42): DU 1, 2 and 3 are the units of AU 0, 1 and 2, and DP
0x3F writes a latch. -/
def sameUnit (c a : Word32) : Bool :=
  let du := (c.toNat / 2 ^ 18) % 16
  decide (1 ≤ du ∧ du ≤ 3 ∧ (c.toNat / 2 ^ 12) % 64 ≠ 0x3F ∧ (a.toNat / 2 ^ 23) % 8 + 1 = du)

/-- Whether an A-word names a stream, short codes 0x20 to 0x27 (Table 2-7). -/
def namesStream (a : Word32) : Bool := let n := a.toNat; decide (n % 2 ^ 7 / 8 = 4 ∨ n / 2 ^ 7 % 2 ^ 7 / 8 = 4)

/-- What a place of a program issues next. -/
inductive Bundle where
  | one (w : Word32) (second : Bool)
  | two (c a : Word32)
  | bad (w : Word32) (second : Bool)
  deriving DecidableEq, Repr

/-- The bundle at a pair, from its first or second word (Table 2-2). DESIGN CHOICE: of a pair that Table 2-2 calls illegal, and of a
`vpfx` without a vector A-word, the packet carries the first word (log 41). DEDUCED: a strand that resumes at the second word of a
pair whose first word has L = 0 issues no word there, and the second word is illegal (log 42). -/
def bundleOf (pair : BitVec 64) (second : Bool) : Bundle :=
  let w0 := pair.extractLsb' 0 32
  let w1 := pair.extractLsb' 32 32
  if second then (if isLone w0 && !isLone w1 && !isPrefix w1 then .one w1 true else .bad w1 true)
  else if isLone w0 then (if isPrefix w0 then .bad w0 false else .one w0 false)
  else if isA w0 || isLone w1 || !isA w1 then .bad w0 false
  else if isPrefix w0 && !isVector w1 then .bad w0 false
  else .two w0 w1

/-- Where the strand goes on after a bundle without a branch (R37). -/
def Bundle.next (b : Bundle) (pc : BitVec 64) : BitVec 64 × Bool :=
  match b with
  | .one _ false => (pc, true)
  | _ => (pc + 1, false)

/-! ## One bundle -/

/-- Continue with the next state, if there is one. -/
def thenState (r : Res) (f : State → Res) : Res :=
  match r with
  | .next s => f s
  | .fault e => .fault e
  | .refused e => .refused e

/-- A word that is no instruction freezes its strand (R52). -/
def illegalAt (s : State) (w : Word32) (second : Bool) : Res := exec .illegalWord { s with word := w, second := second }

/-- One word of a bundle. -/
def runWord (s : State) (w : Word32) (second : Bool) (i : Instr) : Res := exec i { s with word := w, second := second }

/-- The strand waits as it does in `y`, with nothing of its bundle done: what it waits for, the C-word took (copies of the pool). -/
def State.holdAs (s y : State) : State :=
  let a := y.me
  let e := match a.why with
    | .stream j => s.pushOnce (.streamElementArrival s.cur j)
    | _ => s.pushOnce (.effectIssue s.cur)
  { e.updMe fun x => { x with st := a.st, why := a.why, since := a.since, bound := a.bound, bounded := a.bounded, carry := a.carry } with held := true }

/-- The stream whose binding a word changes, where its guard is true (R188, R191). -/
def rebinds (c : Ctx) (i : Instr) : Option (Fin 8) :=
  match i with
  | .qsBind h j _ => if guardTrue c h.guard then some j else none
  | .qsUnbind h j => if guardTrue c h.guard then some j else none
  | _ => none

/-- A strand's bundle without its words: only the elements that its C-word pops are gone (R38). -/
def State.afterPops (s : State) (es : List Popped) : State := es.foldl State.popGiven s

/-- An A-word that another word of its bundle goes with: where it is held back or freezes on its own, nothing of the bundle is
done (R52); where only what the C-word took holds it back, the bundle waits as a whole. -/
def runSecond (s base : State) (sa : State) (wa : Word32) (a : Instr) : Res :=
  if !sa.held then .next sa
  else thenState (runWord base wa true a) fun r => .next (if r.held then r else if sa.me.st.waits then s.holdAs sa else sa)

/-- The two words of a bundle. Every source is read before any write (R38): an A-word that names streams reads their elements
as they stand without the C-word, whose own pops come first, and takes them after it. -/
def runPair (s : State) (wc wa : Word32) (c a : Instr) : Res :=
  thenState (runWord s wc false c) fun sc =>
    if sc.held then .next sc
    else
      let base := (s.afterPops sc.me.popped).updMe fun x => { x with prefixed := sc.me.prefixed, popped := [] }
      if !namesStream wa then thenState (runWord sc wa true a) fun sa => runSecond s base sa wa a
      else thenState (runWord base wa true a) fun sr =>
        if sr.held then .next sr
        else
          let es := sr.me.popped.map fun e => { e with kept := decide (rebinds s.ctx c = some e.j) }
          thenState (runWord (sc.updMe fun x => { x with given := es }) wa true a) fun sa => runSecond s base sa wa a

/-- The words of a bundle are checked and run. DESIGN CHOICE: of two triggers of one unit the packet carries the A-word (log 41). -/
noncomputable def runBundle (s : State) (b : Bundle) : Res :=
  match b with
  | .bad w second => illegalAt s w second
  | .one w second =>
    match decodeWord w with
    | some i => runWord s w second i
    | none => illegalAt s w second
  | .two wc wa =>
    match decodeWord wc, decodeWord wa with
    | none, _ => illegalAt s wc false
    | some _, none => illegalAt s wa true
    | some c, some a => if sameUnit wc wa then illegalAt s wa true else runPair s wc wa c a

/-- A ready strand is offered the slot: its chunk ends first where it must, its pair is fetched, and one bundle issues. -/
noncomputable def State.issue (s : State) (sid : Nat) : Res :=
  let s0 := { s.updCore (ckOf sid) fun c => { c with watchFrom := none } with cur := sid, held := false }
  let x := s0.strand sid
  if x.closes then .next (s0.tryEndChunk sid)
  else if x.endChunk then
    .next (if x.chunk.len = 0 then s0.updStrand sid fun x => { x with endChunk := false } else s0.tryEndChunk sid)
  else if 0 < x.serialLeft ∧ (x.await.isSome ∨ x.effect.isSome ∨ x.ctl ≠ []) then
    .next ((s0.enterWait sid .stalledLA .effect 0).pushOnce (.effectIssue sid))
  else match (s0.group (gkOf (ckOf sid))).pairAt x.ctx.pc with
    | none => exec (.slip sid) s0
    | some p =>
      let b := bundleOf p x.ctx.second
      thenState (runBundle (s0.senseStrand sid) b) fun s1 => .next (s1.finishBundle s0 (b.next x.ctx.pc))

/-! ## What can happen next -/

/-- A thing that can happen next: an entry of the agenda by its place, or a bundle of a core. -/
inductive Cand where
  | event (i : Nat)
  | core (ck : Nat)
  deriving DecidableEq, Repr

/-- Everything that can happen next. -/
def State.candidates (s : State) : List Cand :=
  (List.range s.agenda.length).map Cand.event ++ (s.cores.filterMap fun p => if (s.nextStrand p.1).isSome then some (Cand.core p.1) else none)

/-- Whether the request that a message or reply belongs to carries an identity: one that does not stays on its own core and
is never lost (R225, R232). -/
def State.travels (s : State) (o : Origin) (seq : Nat) : Bool :=
  match o with
  | .strand sid => match (s.strand sid).reqs.find? fun q => q.seq == seq with
    | some q => q.msg.tok != 0
    | none => true
  | _ => true

/-- Whether the request of an engine's line carries an identity. -/
def State.lineTravels (s : State) (ck cmd line : Nat) : Bool :=
  (s.core ck).eReqs.any fun q => q.msg.tok != 0 && (match q.msg.op with | .deliver d => d.cmd == cmd && d.line == line | _ => false)

/-- Whether the fabric may drop an event's message (R232, R313): its sender sends it again. -/
def State.losable (s : State) (e : Instr) : Bool :=
  match e with
  | .remoteEffectMessage m => m.tok != 0
  | .replyResult o seq _ => s.travels o seq
  | .replyBusy o seq => s.travels o seq
  | .replyMoved o seq => s.travels o seq
  | .replyRefuse o seq _ => s.travels o seq
  | .ceLineDelivery ck cmd line => s.lineTravels ck cmd line
  | .ceReduceLine ck cmd line => s.lineTravels ck cmd line
  | .fetchFillArrival _ _ => true
  | .timeReferencePulse _ _ => true
  | _ => false

/-- What follows when an event's message is dropped: a pulse that does not arrive is followed by the next one (R308). -/
def State.afterLoss (s : State) (e : Instr) : State :=
  match e with
  | .timeReferencePulse rk t => s.push (.timeReferencePulse rk (t + 1000))
  | _ => s

/-- The clock of a region in MHz while it is stretched: not above FMAX, not below the floor of 800, whose period is 1.25 ns
(R304). -/
def Region.slowed (r : Region) (x : Nat) : Nat := 800 + x % (r.fmax - 800 + 1)

/-- What passes of a region's cycles in `e` ns, in units of 1/1000 cycle: at FMAX, or at `f` MHz in a stretch and for up to
64 cycles after it (R304). -/
def Region.pass (r : Region) (e f : Nat) : Nat :=
  let slow := if r.stretched then e else min e (1000 * (r.calm - r.cyc) / f)
  slow * f + (e - slow) * r.fmax

/-- Where a region's copy of shared time may stand when `e` ns have passed and shared time is `t`: a corrected one within 2 ns of
it, so that two differ by at most 4 ns, or nearing it at a rate up to 1% off; it never steps back (R308). What is left of a whole ns
counts in `slack`, in units of 1/100 ns. -/
def Region.slew (r : Region) (e t : Nat) : Nat × Nat :=
  let dev := (r.slack + e) / 100
  let slow := r.copy + (e - dev)
  let fast := r.copy + e + dev
  if fast < t - 2 then (r.copy + e, fast)
  else if t + 2 < slow then (slow, r.copy + e)
  else (max slow (t - 2), min fast (t + 2))

/-- A region's copy of shared time after `e` ns: uncorrected after 64 µs without a pulse (R308). -/
def Region.copyAfter (r : Region) (e t x : Nat) : Nat :=
  if r.lost ∨ r.pulse + 64000 ≤ t then r.copy + x else (r.slew e t).1 + x % ((r.slew e t).2 - (r.slew e t).1 + 1)

/-- A region's clock and its copy of shared time run on (R304, R307, R308). -/
def Region.tick (r : Region) (e t x f : Nat) : Region :=
  let p := r.phase + r.pass e (r.slowed f)
  let y := r.copyAfter e t x
  { r with cyc := r.cyc + p / 1000, phase := p % 1000, copy := y,
           slack := min 99 (r.slack + e - 100 * ((y - (r.copy + e)) + (r.copy + e - y))) }

/-- Time passes: shared time, and with it the cycles of each region and its copy of shared time (R4, R307; log 4). -/
def State.tick (s : State) : State :=
  let e := Config.elapsed s.steps
  { s with steps := s.steps + 1, now := s.now + e,
           regions := s.regions.mapAll fun rk r => r.tick e (s.now + e) (Config.skew rk s.steps) (Config.droop rk s.steps) }

/-- The candidate of a step happens; what it writes takes the disturbed words with it (R351). -/
noncomputable def State.happen (s : State) (c : Cand) : Res :=
  match c with
  | .core ck => match s.nextStrand ck with
    | some sid => thenState (s.senseTables.issue sid) fun t => .next (s.senseTables.renewed t)
    | none => .next s
  | .event i => match s.agenda[i]? with
    | some e =>
      let s1 := ({ s with agenda := s.agenda.eraseIdx i } : State).disturb.senseTables
      if s.losable e && Config.lost s.steps then .next (s1.afterLoss e) else thenState (exec e s1) fun t => .next (s1.renewed t)
    | none => .next s

/-- Which candidate happens: the only one, or the one the free choice picks (R208). -/
def State.chosen (s : State) : Option Cand :=
  match s.candidates with
  | [] => none
  | [c] => some c
  | cs => cs[Config.choice s.steps % cs.length]?

/-! ## Placing one word where the next step fetches it -/

/-- The pair in which a word is issued next, and whether it is the second of that pair: `vpfx` with an operation to prefix,
a lone word first, any other word after a lone `ct.nop`. -/
def pairFor (w : Word32) : BitVec 64 × Bool :=
  let pair := fun (a b : Word32) => (b ++ a : BitVec 64)
  if isPrefix w then (pair w 0x81811428, false)
  else if isLone w then (pair w 0, false)
  else (pair 0x402C8800 w, true)

/-- A module whose one strand is a ready supervisor strand at pair 0 with this word in its instruction cache, and in which
nothing else can happen (log 30). -/
def State.placeWord (s : State) (w : Word32) : State :=
  let p := pairFor w
  let x := s.strand 0
  let c := { x.ctx with pc := 0, second := p.2 }
  let y : Strand :=
    { x with
      ctx := c, start := c, chunk := Chunk.empty, await := none, effect := none, waitFrom := none, st := .ready, why := .none,
      stopping := false, prefixed := none, branch := none, effIssue := false, closes := false, endChunk := false, serialLeft := 0, serialRun := none,
      waitLog := [], ctl := [], farBusy := none }
  let k := { s.core 0 with sup := true, rot := 15, parked := [], fatal := false, replay := [] }
  let g := { s.group 0 with icache := [(0, [p.1])], entry := { (s.group 0).entry with state := 0 } }
  { s with
    agenda := [], strands := [(0, y)], cores := [(0, k)], groups := s.groups.put 0 g,
    regions := s.regions.put 0 { s.region 0 with pid := some 0 },
    parts := s.parts.put 0 { s.part 0 with live := true, wr := 1, hr := 1, n := s.grade.cr } }

end Sys2Proof.Machine
end

