-- ==== Sys2Proof/Machine/Step.lean ====
section
/-! DEFINITION. One step of the module: time passes, and one thing that can happen next happens. -/

namespace Sys2Proof.Machine

/-- One step: time passes, then the chosen event or bundle takes its place (R208, R254). -/
noncomputable def step (s : State) : Host.Outcome State Fault Refusal :=
  match s.tick.chosen with
  | some c => s.tick.happen c
  | none => .next s.tick

/-- The state in which the next step fetches and issues the word `w` (log 30). Every word has 32 bits. -/
def State.withFetchWord (s : State) (nbits w : Nat) : State := s.placeWord (BitVec.ofNat 32 (w % 2 ^ nbits))

end Sys2Proof.Machine
end

