-- ==== Sys2Proof/Safety.lean ====
section
/-! DEFINITION. What a safe run is, and the invariants that statements use. -/

namespace Sys2Proof.Safety

open Sys2Proof.Machine

/-- A step is safe when it ends in a next state. -/
def Runs (s : State) : Prop := ∃ t, step s = .next t

/-- Numbers rise strictly from a lower bound. -/
def risesFrom : Nat → List Nat → Bool
  | _, [] => true
  | lo, n :: r => decide (lo ≤ n) && risesFrom (n + 1) r

/-- Memory and its poison marks keep their canonical form: addresses strictly rising with no byte listed at its default value,
and marked words strictly rising. -/
def MemForm (s : State) : Prop := Memory.wf s.mem = true ∧ risesFrom 0 s.poison = true

end Sys2Proof.Safety
end

