-- ==== Sys2Proof/Certificates/Slice0/Obligations.lean ====
section
/-! DEFINITION. The statements for the provers, each a proposition about the model, and the few notions they are written in. -/

open Sys2Proof Sys2Proof.Machine

namespace Sys2Proof.Claims

open Sys2Proof.Machine

/-- Source `x` of an A-word delivers `r` and leaves the state `t`: whatever reads it goes on with them (Table 2-7). -/
def ReadsA (s : State) (x : ASrc) (r : Reg) (t : State) : Prop := ∀ k : Reg → State → State, readA s x k = k r t

/-- Source `c` of a C-word delivers `r` and leaves the state `t` (Table 2-5). -/
def ReadsC (s : State) (c : CSrc) (r : Reg) (t : State) : Prop := ∀ k : Reg → State → State, readC s c k = k r t

/-- Both forms of a two-operand operation of unit `u`: where the guard holds and the sources deliver `a` and `b`, the word
consumes the operand latch and puts `f a b` in flight to the result latch, due after `lat` bundles. The C-word takes O from
the operand latch and T from its source (R51, R86). -/
def TwoForms (u : FUnit) (lo lr : Latch) (lat : Nat) (A : Hdr → ASrc → ASrc → Instr) (C : Hdr → CSrc → Instr)
    (f : Reg → Reg → Reg) : Prop :=
  ∀ (h : Hdr) (o t : ASrc) (c : CSrc) (s s1 s2 : State) (a b : Reg), guardTrue s.ctx h.guard = true →
    (ReadsA s o a s1 → ReadsA s1 t b s2 →
      exec (A h o t) s = .next ((s2.consume lo).trigger u lat [.latch lr (f a b)])) ∧
    (ReadsC s c b s2 → s2.ctx.latch lo = a →
      exec (C h c) s = .next ((s2.consume lo).trigger u lat [.latch lr (f a b)]))

/-- Both forms of a unary operation (R87). -/
def OneForms (u : FUnit) (lo lr : Latch) (lat : Nat) (A : Hdr → ASrc → Instr) (C : Hdr → Instr) (f : Reg → Reg) : Prop :=
  ∀ (h : Hdr) (o : ASrc) (s s1 : State) (a : Reg), guardTrue s.ctx h.guard = true →
    (ReadsA s o a s1 → exec (A h o) s = .next ((s1.consume lo).trigger u lat [.latch lr (f a)])) ∧
    (s.ctx.latch lo = a → exec (C h) s = .next ((s.consume lo).trigger u lat [.latch lr (f a)]))

/-- Both forms of a compare: the result latch gets the condition as 0 or 1; the A-word also writes the predicate that a D
other than 0 names, and one written from a poisoned operand sets the pending error (R91, R95, R105). -/
def CompareForms (u : FUnit) (lo lr : Latch) (lat : Nat) (A : Hdr → Fin 8 → ASrc → ASrc → Instr) (C : Hdr → CSrc → Instr)
    (f : BitVec 64 → BitVec 64 → Bool) : Prop :=
  ∀ (h : Hdr) (d : Fin 8) (o t : ASrc) (c : CSrc) (s s1 s2 : State) (a b : Reg), guardTrue s.ctx h.guard = true →
    (ReadsA s o a s1 → ReadsA s1 t b s2 →
      ∃ addr, exec (A h d o t) s = .next (((s2.consume lo).trigger u lat
        (.latch lr (mk0 (if f a.val b.val then 1 else 0) (a.p || b.p)) ::
          if d = 0 then []
          else .pbit d (f a.val b.val) :: if a.p || b.p then [.pe (s2.consume lo).ctx.pc addr] else [])).bump)) ∧
    (ReadsC s c b s2 → s2.ctx.latch lo = a →
      exec (C h c) s = .next ((s2.consume lo).trigger u lat [.latch lr (mk0 (if f a.val b.val then 1 else 0) (a.p || b.p))]))

/-- The state in which fa.r and the flags of a result of `fa` are due; `quiet` stands for an O that is undefined, because fa.o was
consumed and not written since: such a result raises no flag (R33, R87; the model's reading, log 5). -/
def FaDue (lat : Nat) (quiet : Bool) (v : FR) (p : Bool) (s : State) : State :=
  (s.consume .faO).trigger .fa lat (.latch .faR (mk0 (BitVec.ofNat 64 v.bits) p) :: if quiet then [] else flagWrites v.fl)

/-- Whether fa.o holds no operand, but the free value that was left as it was consumed (R33, R87). -/
def FaUndefined (s : State) : Bool := s.ctx.stale.getLsbD Latch.faO.idx.val

/-- Both forms of a two-operand operation of `fa` that rounds under FRM: mode SR draws from `rng` as the word issues (R74, R89),
and the result carries the mark of either operand, also where O is undefined (R91). -/
def RoundTwo (lat : Nat) (A : Hdr → ASrc → ASrc → Instr) (C : Hdr → CSrc → Instr)
    (f : Nat → Nat → BitVec 64 → BitVec 64 → FR) : Prop :=
  ∀ (h : Hdr) (o t : ASrc) (c : CSrc) (s s1 s2 : State) (a b : Reg), guardTrue s.ctx h.guard = true →
    let r := s2.drawSr (frmOf s2.ctx.fx)
    let out := fun quiet => FaDue lat quiet (f (frmOf s2.ctx.fx) r.1 a.val b.val) (a.p || b.p) r.2
    (ReadsA s o a s1 → ReadsA s1 t b s2 → exec (A h o t) s = .next (out false)) ∧
    (ReadsC s c b s2 → s2.ctx.latch .faO = a → exec (C h c) s = .next (out (FaUndefined s2)))

/-- Both forms of a unary operation of `fa` that rounds under FRM. -/
def RoundOne (lat : Nat) (A : Hdr → ASrc → Instr) (C : Hdr → Instr) (f : Nat → Nat → BitVec 64 → FR) : Prop :=
  ∀ (h : Hdr) (o : ASrc) (s s1 : State) (a : Reg), guardTrue s.ctx h.guard = true →
    let out := fun quiet (s1 : State) =>
      let r := s1.drawSr (frmOf s1.ctx.fx)
      FaDue lat quiet (f (frmOf s1.ctx.fx) r.1 a.val) a.p r.2
    (ReadsA s o a s1 → exec (A h o) s = .next (out false s1)) ∧
    (s.ctx.latch .faO = a → exec (C h) s = .next (out (FaUndefined s) s))

end Sys2Proof.Claims

open Sys2Proof.Claims

/-- For ia.add, sub, and, or, xor, andn, shl, shr, sar, rotl, min, max, minu, maxu, lea1, lea2, lea4 and lea8, in the A-word
and in the C-word form, for every header whose guard holds and all sources that deliver a and b: exec answers the next
state in which the operand latch is consumed and ia.r is due one bundle later with the value of Table 4-3, the tag of O
and the mark of either operand (gown: of O only where the count is valid). A shift by 64 or more gives 0 for shl and shr
and the sign for sar; rotl counts modulo 64. tile writes the tile-direct pointer with tag 0x0100 + MOD and offset
T[14:0] above O[19:0], with bit 63 set for a malformed operand; gown writes the owner of line O div 128 among T cores,
or all ones for a count of 0 or above 2^24. For ia.sext8, sext16, sext32, zext8, zext16, zext32 and bswap (tag of O) and
for clz, ctz and popc (tag 0), in both forms, where the guard holds and O delivers a: exec answers the next state in
which ia.r is due one bundle later with the stated value and the mark of O. clz and ctz of 0 are 64. popc counts the one
bits, ctz is the lowest one bit, and clz is 63 less the highest one bit. -/
def Obligations.IaArithmeticResults : Prop :=
  (
    let two := fun (A : Hdr → ASrc → ASrc → Instr) (C : Hdr → CSrc → Instr) (v : BitVec 64 → BitVec 64 → BitVec 64) =>
      TwoForms .ia .iaO .iaR 1 A C fun a b => { v := make a.tag (v a.val b.val), p := a.p || b.p }
    two .iaAdd .iaAddC (fun a b => a + b) ∧
    two .iaSub .iaSubC (fun a b => a - b) ∧
    two .iaAnd .iaAndC (fun a b => a &&& b) ∧
    two .iaOr .iaOrC (fun a b => a ||| b) ∧
    two .iaXor .iaXorC (fun a b => a ^^^ b) ∧
    two .iaAndn .iaAndnC (fun a b => a &&& ~~~ b) ∧
    two .iaShl .iaShlC (fun a b => if b.toNat < 64 then BitVec.ofNat 64 (a.toNat * 2 ^ b.toNat) else 0) ∧
    two .iaShr .iaShrC (fun a b => if b.toNat < 64 then BitVec.ofNat 64 (a.toNat / 2 ^ b.toNat) else 0) ∧
    two .iaSar .iaSarC (fun a b => BitVec.ofInt 64 (a.toInt / 2 ^ min b.toNat 63)) ∧
    two .iaRotl .iaRotlC (fun a b => a.rotateLeft (b.toNat % 64)) ∧
    two .iaMin .iaMinC (fun a b => if a.toInt ≤ b.toInt then a else b) ∧
    two .iaMax .iaMaxC (fun a b => if a.toInt ≥ b.toInt then a else b) ∧
    two .iaMinu .iaMinuC (fun a b => if a.toNat ≤ b.toNat then a else b) ∧
    two .iaMaxu .iaMaxuC (fun a b => if a.toNat ≥ b.toNat then a else b) ∧
    two .iaLea1 .iaLea1C (fun a b => BitVec.ofNat 64 (a.toNat + b.toNat)) ∧
    two .iaLea2 .iaLea2C (fun a b => BitVec.ofNat 64 (a.toNat + b.toNat * 2)) ∧
    two .iaLea4 .iaLea4C (fun a b => BitVec.ofNat 64 (a.toNat + b.toNat * 4)) ∧
    two .iaLea8 .iaLea8C (fun a b => BitVec.ofNat 64 (a.toNat + b.toNat * 8)) ∧
    TwoForms .ia .iaO .iaR 1 .iaTile .iaTileC (fun a b =>
      let off := (b.val.toNat % 2 ^ 15) * 2 ^ 20 + a.val.toNat % 2 ^ 20
      let bad := decide (2 ^ 20 ≤ a.val.toNat) || decide (b.val.toNat / 2 ^ 24 ≠ 0) || b.val.getLsbD 15
      { v := make (BitVec.ofNat 16 (0x0100 + (b.val.toNat / 2 ^ 16) % 256)) (BitVec.ofNat 64 (if bad then off + 2 ^ 63 else off)),
        p := a.p || b.p }) ∧
    TwoForms .ia .iaO .iaR 1 .iaGown .iaGownC (fun a b =>
      mk0 (if b.val.toNat = 0 ∨ 2 ^ 24 < b.val.toNat then BitVec.allOnes 64
        else BitVec.ofNat 64 (ownerOf b.val.toNat (a.val.toNat / 128)))
        (b.p || (a.p && decide (b.val.toNat ≠ 0 ∧ b.val.toNat ≤ 2 ^ 24))))) ∧
  (
    let keep := fun (A : Hdr → ASrc → Instr) (C : Hdr → Instr) (v : BitVec 64 → BitVec 64) =>
      OneForms .ia .iaO .iaR 1 A C fun a => { v := make a.tag (v a.val), p := a.p }
    let plain := fun (A : Hdr → ASrc → Instr) (C : Hdr → Instr) (v : BitVec 64 → BitVec 64) =>
      OneForms .ia .iaO .iaR 1 A C fun a => mk0 (v a.val) a.p
    keep .iaSext8 .iaSext8C (fun a => (a.setWidth 8).signExtend 64) ∧
    keep .iaSext16 .iaSext16C (fun a => (a.setWidth 16).signExtend 64) ∧
    keep .iaSext32 .iaSext32C (fun a => (a.setWidth 32).signExtend 64) ∧
    keep .iaZext8 .iaZext8C (fun a => (a.setWidth 8).setWidth 64) ∧
    keep .iaZext16 .iaZext16C (fun a => (a.setWidth 16).setWidth 64) ∧
    keep .iaZext32 .iaZext32C (fun a => (a.setWidth 32).setWidth 64) ∧
    keep .iaBswap .iaBswapC (fun a => BitVec.ofNat 64 (ofLE (leBytes 8 a.toNat).reverse)) ∧
    plain .iaClz .iaClzC (fun a => if a = 0 then 64 else BitVec.ofNat 64 (63 - Nat.log2 a.toNat)) ∧
    plain .iaCtz .iaCtzC (fun a => BitVec.ofNat 64 (((List.range 64).find? fun i => a.getLsbD i).getD 64)) ∧
    plain .iaPopc .iaPopcC (fun a => BitVec.ofNat 64 ((List.range 64).countP fun i => a.getLsbD i)))

/-- In both forms, where the guard holds and the sources deliver a (O) and b (T): ia.sel writes the whole 80-bit T to ia.r
where P(1) is 1 and the whole 80-bit O otherwise, with its tag, so that the result and its mark depend on p1 and on the
selected operand only; ia.settag writes Make(Val(T)[15:0], Val(O)); ia.gettag writes Make(0, ZExt(Tag(O), 16)). All
complete for every tag: neither operation checks the window class, and it is an access whose address is a tag that names
no window that faults. -/
def Obligations.SelSettagGettag : Prop :=
  (∀ (h : Hdr) (o t : ASrc) (c : CSrc) (s s1 s2 : State) (a b : Reg), guardTrue s.ctx h.guard = true →
    let out := (s2.consume .iaO).trigger .ia 1 [.latch .iaR (if s.ctx.pred 1 then b else a)]
    (ReadsA s o a s1 → ReadsA s1 t b s2 → exec (.iaSel h o t) s = .next out) ∧
    (ReadsC s c b s2 → s2.ctx.latch .iaO = a → exec (.iaSelC h c) s = .next out)) ∧
  TwoForms .ia .iaO .iaR 1 .iaSettag .iaSettagC (fun a b => { v := make (b.val.setWidth 16) a.val, p := a.p || b.p }) ∧
  OneForms .ia .iaO .iaR 1 .iaGettag .iaGettagC (fun a => mk0 (a.tag.setWidth 64) a.p) ∧
  (∀ (s : State) (a : Reg) (n align : Nat) (store scalar : Bool) (k : Acc → State → State),
    classOf a.v = 5 ∨ (6 < classOf a.v ∧ classOf a.v ≠ 0x7F) → a.p = false → access s a n align store scalar k = s.faultAddr causeWindow a.v)

/-- For ia.cmpeq, cmpne, cmplt, cmpltu, cmple and cmpleu, in both forms, where the guard holds and the sources deliver a and
b: exec answers the next state in which ia.r is due one bundle later with 1 or 0 and tag 0; the A-word with D other than
0 also writes p_D, with the pending error where an operand is poisoned; D = 0 and the C-word write no predicate. Tags
take no part. For ia.pand, por, pxor, pnot, pset and pclr with D from 1 to 7, where the guard holds: exec answers the
next state in which, one bundle later, p_D gets b and ia.r gets Make(0, b), where b is computed from the predicates as
the word issues. A word of these operations with D = 0 is not well formed. -/
def Obligations.IaCompareAndPredicateResults : Prop :=
  (
    CompareForms .ia .iaO .iaR 1 .iaCmpeq .iaCmpeqC (fun a b => decide (a = b)) ∧
    CompareForms .ia .iaO .iaR 1 .iaCmpne .iaCmpneC (fun a b => decide (a ≠ b)) ∧
    CompareForms .ia .iaO .iaR 1 .iaCmplt .iaCmpltC (fun a b => decide (a.toInt < b.toInt)) ∧
    CompareForms .ia .iaO .iaR 1 .iaCmpltu .iaCmpltuC (fun a b => decide (a.toNat < b.toNat)) ∧
    CompareForms .ia .iaO .iaR 1 .iaCmple .iaCmpleC (fun a b => decide (a.toInt ≤ b.toInt)) ∧
    CompareForms .ia .iaO .iaR 1 .iaCmpleu .iaCmpleuC (fun a b => decide (a.toNat ≤ b.toNat))) ∧
  (
    ∀ (h : Hdr) (d : Fin 8) (o t : Fin 32) (s : State),
      (guardTrue s.ctx h.guard = true → d ≠ 0 →
        let out := fun (b : Bool) => Host.Outcome.next ((s.consume .iaO).trigger .ia 1
          [.latch .iaR (mk0 (if b then 1 else 0) false), .pbit d b])
        exec (.iaPand h d o t) s = out (s.ctx.pred o && s.ctx.pred t) ∧
        exec (.iaPor h d o t) s = out (s.ctx.pred o || s.ctx.pred t) ∧
        exec (.iaPxor h d o t) s = out (xor (s.ctx.pred o) (s.ctx.pred t)) ∧
        exec (.iaPnot h d o) s = out (!s.ctx.pred o) ∧
        exec (.iaPset h d) s = out true ∧
        exec (.iaPclr h d) s = out false) ∧
      (Instr.iaPand h 0 o t).wf = false ∧ (Instr.iaPor h 0 o t).wf = false ∧ (Instr.iaPxor h 0 o t).wf = false ∧
      (Instr.iaPnot h 0 o).wf = false ∧ (Instr.iaPset h 0).wf = false ∧ (Instr.iaPclr h 0).wf = false)

/-- In both forms, where the guard holds and the sources deliver a and b: ib.mul, mulh and mulhu give the low or high half
of the product after 3 bundles; div, divu, rem and remu give the truncating quotient and remainder after 18, all ones or
the dividend for a zero divisor, with the tag of O; crc32c gives the CRC-32C of the 1 to 8 low bytes of T; mulacc puts
in flight an accumulation of the product onto what ib.r holds just before it lands. -/
def Obligations.IbResults : Prop :=
  let two := fun (lat : Nat) (A : Hdr → ASrc → ASrc → Instr) (C : Hdr → CSrc → Instr) (v : BitVec 64 → BitVec 64 → BitVec 64) =>
    TwoForms .ib .ibO .ibR lat A C fun a b => { v := make a.tag (v a.val b.val), p := a.p || b.p }
  two 3 .ibMul .ibMulC (fun a b => a * b) ∧
  two 3 .ibMulh .ibMulhC (fun a b => BitVec.ofInt 64 ((a.toInt * b.toInt) / 2 ^ 64)) ∧
  two 3 .ibMulhu .ibMulhuC (fun a b => BitVec.ofNat 64 ((a.toNat * b.toNat) / 2 ^ 64)) ∧
  two 18 .ibDiv .ibDivC (fun a b => if b = 0 then BitVec.allOnes 64 else BitVec.ofInt 64 (a.toInt.tdiv b.toInt)) ∧
  two 18 .ibDivu .ibDivuC (fun a b => if b = 0 then BitVec.allOnes 64 else BitVec.ofNat 64 (a.toNat / b.toNat)) ∧
  two 18 .ibRem .ibRemC (fun a b => if b = 0 then a else BitVec.ofInt 64 (a.toInt - a.toInt.tdiv b.toInt * b.toInt)) ∧
  two 18 .ibRemu .ibRemuC (fun a b => if b = 0 then a else BitVec.ofNat 64 (a.toNat % b.toNat)) ∧
  TwoForms .ib .ibO .ibR 3 .ibCrc32c .ibCrc32cC (fun a b => mk0 (vCrc a.val b.val) (a.p || b.p)) ∧
  (∀ (h : Hdr) (o t : ASrc) (c : CSrc) (s s1 s2 : State) (a b : Reg), guardTrue s.ctx h.guard = true →
    let out := (s2.consume .ibO).trigger .ib 3 [.mulacc a.tag (a.val * b.val) (a.p || b.p)]
    (ReadsA s o a s1 → ReadsA s1 t b s2 → exec (.ibMulacc h o t) s = .next out) ∧
    (ReadsC s c b s2 → s2.ctx.latch .ibO = a → exec (.ibMulaccC h c) s = .next out))

/-- In both forms, where the guard holds and the sources deliver a and b: fa.fadd, fsub, fmul (4 bundles), fdiv (12), and
unary fsqrt (12), frcp, frsq, tobf16 and toe4m3 (4) put in flight the FP32 (BF16, E4M3) pattern that the exact result
rounds to under FRM, with tag 0 and the flags it raises; mode SR draws one number as the word issues. fa.fma puts in
flight the fused sum of the product and of what fa.r holds just before it lands. A C-word that finds fa.o consumed
computes the same from the free value left there, with the mark that the operands carry and the draw of mode SR, and
raises no flag and no fault; a conversion there rounds by a free number and draws none (R87 frees the value of O; the
model's reading, log 5). In both forms, where the guard holds and the sources deliver a and b: fmin and fmax pick an
operand, fabs and fneg set or invert the sign bit, frombf16 and fromqn4 widen exactly, all after 4 bundles; cvtif and
cvtfi convert under the width, sign and mode of the control word O, drawing in mode SR and marked by T where it is
valid; scl multiplies by a block scale where O is a valid superscale and raises the superscale fault where it is not. -/
def Obligations.FaResults : Prop :=
  (
    RoundTwo 4 .faFadd .faFaddC (fun m d a b => fAdd fp32 m d (fpOf a) (fpOf b)) ∧
    RoundTwo 4 .faFsub .faFsubC (fun m d a b => fAdd fp32 m d (fpOf a) (fpOf b).negate) ∧
    RoundTwo 4 .faFmul .faFmulC (fun m d a b => fMul fp32 m d (fpOf a) (fpOf b)) ∧
    RoundTwo 12 .faFdiv .faFdivC (fun m d a b => fDiv fp32 m d (fpOf a) (fpOf b)) ∧
    RoundOne 12 .faFsqrt .faFsqrtC (fun m d a => fSqrt fp32 m d (fpOf a)) ∧
    RoundOne 4 .faFrcp .faFrcpC (fun m d a => fRcp fp32 m d (fpOf a)) ∧
    RoundOne 4 .faFrsq .faFrsqC (fun m d a => fRsq fp32 m d (fpOf a)) ∧
    RoundOne 4 .faTobf16 .faTobf16C (fun m d a => roundFV bf16 m d (fpOf a)) ∧
    RoundOne 4 .faToe4m3 .faToe4m3C (fun m d a => roundFV e4m3 m d (fpOf a)) ∧
    (∀ (h : Hdr) (o t : ASrc) (c : CSrc) (s s1 s2 : State) (a b : Reg), guardTrue s.ctx h.guard = true →
      let r := s2.drawSr (frmOf s2.ctx.fx)
      let out := fun quiet => (r.2.consume .faO).trigger .fa 4
        [.fmaOnto (a.val.toNat % 2 ^ 32) (b.val.toNat % 2 ^ 32) (frmOf s2.ctx.fx) r.1 (a.p || b.p) quiet]
      (ReadsA s o a s1 → ReadsA s1 t b s2 → exec (.faFma h o t) s = .next (out false)) ∧
      (ReadsC s c b s2 → s2.ctx.latch .faO = a → exec (.faFmaC h c) s = .next (out (FaUndefined s2))))) ∧
  (
    TwoForms .fa .faO .faR 4 .faFmin .faFminC (fun a b =>
      mk0 (BitVec.ofNat 64 (fPick fp32 false (a.val.toNat % 2 ^ 32) (b.val.toNat % 2 ^ 32))) (a.p || b.p)) ∧
    TwoForms .fa .faO .faR 4 .faFmax .faFmaxC (fun a b =>
      mk0 (BitVec.ofNat 64 (fPick fp32 true (a.val.toNat % 2 ^ 32) (b.val.toNat % 2 ^ 32))) (a.p || b.p)) ∧
    OneForms .fa .faO .faR 4 .faFabs .faFabsC (fun a => mk0 (BitVec.ofNat 64 (fSignOp fp32 false (a.val.toNat % 2 ^ 32))) a.p) ∧
    OneForms .fa .faO .faR 4 .faFneg .faFnegC (fun a => mk0 (BitVec.ofNat 64 (fSignOp fp32 true (a.val.toNat % 2 ^ 32))) a.p) ∧
    OneForms .fa .faO .faR 4 .faFrombf16 .faFrombf16C (fun a => mk0 (fromBf16 a.val) a.p) ∧
    OneForms .fa .faO .faR 4 .faFromqn4 .faFromqn4C (fun a => mk0 (BitVec.ofNat 64 (qn4Pat (a.val.toNat % 16) * 2 ^ 16)) a.p) ∧
    (∀ (h : Hdr) (o t : ASrc) (c : CSrc) (s s1 s2 : State) (a b : Reg), guardTrue s.ctx h.guard = true →
      let conv := fun (quiet : Bool) (f : Nat → BitVec 64 → BitVec 64 → FR) =>
        let r := if quiet then ((Config.freeWord s2.fresh).toNat % 2 ^ 16, s2.bump)
          else if cvtOk a.val then s2.drawSr (bitsAt a.val 2 0) else (0, s2)
        FaDue 4 quiet (f r.1 a.val b.val) (a.p || (b.p && cvtOk a.val)) r.2
      let scaled := fun (quiet : Bool) =>
        if quiet = true ∨ goodSuper (a.val.toNat % 2 ^ 32) = true then
          FaDue 4 quiet (blockScale (a.val.toNat % 2 ^ 32) (b.val.toNat % 256)) (a.p || b.p) s2
        else s2.fault causeSuperscale 0 []
      (ReadsA s o a s1 → ReadsA s1 t b s2 →
        exec (.faCvtif h o t) s = .next (conv false cvtIf) ∧
        exec (.faCvtfi h o t) s = .next (conv false cvtFi) ∧
        exec (.faScl h o t) s = .next (scaled false)) ∧
      (ReadsC s c b s2 → s2.ctx.latch .faO = a →
        exec (.faCvtifC h c) s = .next (conv (FaUndefined s2) cvtIf) ∧
        exec (.faCvtfiC h c) s = .next (conv (FaUndefined s2) cvtFi) ∧
        exec (.faSclC h c) s = .next (scaled (FaUndefined s2)))))

/-- In both forms, where the guard holds and the sources deliver a and b: fcmpeq, fcmplt, fcmple and fcmpun put Make(0, c)
in flight to fa.r and, in the A-word with D other than 0, c to p_D, due after 4 bundles (as the bundle n + 3 ends), with
no write of a flag; the C-word writes only fa.r. c is FP(O) = FP(T), FP(O) < FP(T), FP(O) <= FP(T), or that either is
NaN. Where either is NaN the first three are 0; +0 equals -0; two infinities, an infinity and a finite value, and two
finite values (as exact multiples of one power of two) compare by their values. -/
def Obligations.FaCompares : Prop :=
  CompareForms .fa .faO .faR 4 .faFcmpeq .faFcmpeqC (fun a b => fvEq (fpOf a) (fpOf b)) ∧
  CompareForms .fa .faO .faR 4 .faFcmplt .faFcmpltC (fun a b => fvLt (fpOf a) (fpOf b)) ∧
  CompareForms .fa .faO .faR 4 .faFcmple .faFcmpleC (fun a b => fvLt (fpOf a) (fpOf b) || fvEq (fpOf a) (fpOf b)) ∧
  CompareForms .fa .faO .faR 4 .faFcmpun .faFcmpunC (fun a b => (fpOf a).isNan || (fpOf b).isNan) ∧
  (∀ a : FV, fvEq .nan a = false ∧ fvEq a .nan = false ∧ fvLt .nan a = false ∧ fvLt a .nan = false) ∧
  fvEq (fpOf 0x00000000) (fpOf 0x80000000) = true ∧ fvLt (fpOf 0x80000000) (fpOf 0x00000000) = false ∧
  (∀ x y : Bool, fvEq (.inf x) (.inf y) = (x == y) ∧ fvLt (.inf x) (.inf y) = (x && !y)) ∧
  (∀ (x : Bool) (d : Dy), fvEq (.inf x) (.fin d) = false ∧ fvEq (.fin d) (.inf x) = false ∧ fvLt (.inf x) (.fin d) = x ∧ fvLt (.fin d) (.inf x) = !x) ∧
  (∀ (x y : Dy) (e : Int), e ≤ x.e → e ≤ y.e →
    let n := fun (d : Dy) => (if d.neg then -1 else 1) * (d.m : Int) * (2 ^ (d.e - e).toNat : Nat)
    fvEq (.fin x) (.fin y) = decide (n x = n y) ∧ fvLt (.fin x) (.fin y) = decide (n x < n y))

/-- Where the guard holds and the source delivers r: mov writes a g register with the whole 80-bit source and its mark (a
pop of ce.c too); mov to pw writes its low 32 bits, and sets the pending error for a poisoned source; mov to vt and vset
write a value that R114 permits and take the reserved-field fault for any other. ldi writes the sign-extended immediate
with tag 0; ldih writes the old register times 65,536 plus the immediate, modulo 2^80. For the moves to ia.o, ib.o,
fa.o, mx.a, mx.b, ls.d, at.o, ce.s, ce.d, ce.n, ce.b, ce.m, sq.d, sq.h, sy.a, sy.b and sy.l: where the guard holds and
the source delivers r, exec answers the next state in which that latch is due r, tag and mark included, as the bundle
ends. That the refused type faults with address 0 and no data is the model's choice (log 45), and the address that a
poisoned move to pw records is free (log 5). -/
def Obligations.MoveResults : Prop :=
  (
    (∀ (h : Hdr) (d : Fin 24) (c : CSrc) (s s1 : State) (r : Reg), guardTrue s.ctx h.guard = true →
      (ReadsC s c r s1 → exec (.mov h d c) s = .next (s1.write (.g d r))) ∧
      (ReadsC s .ceC r s1 → exec (.ceCPop h d) s = .next (s1.write (.g d r))) ∧
      (ReadsC s c r s1 → r.p = false → exec (.movPw h c) s = .next (s1.write (.pw (r.val.setWidth 32))).bump) ∧
      (ReadsC s c r s1 → r.p = true →
        ∃ addr, exec (.movPw h c) s = .next (s1.launch .mv 1 true .none 0 0 [.pw (r.val.setWidth 32), .pe s1.ctx.pc addr]).bump) ∧
      (ReadsC s c r s1 →
        let out := Host.Outcome.next (if vtOk r.val then s1.write (.vt r.val) else s1.fault causeReserved 0 [])
        exec (.movVt h c) s = out ∧ exec (.vset h c) s = out)) ∧
    (∀ (h : Hdr) (n : Fin 24) (imm : BitVec 16) (s : State), guardTrue s.ctx h.guard = true →
      exec (.ldi h n imm) s = .next (s.write (.g n { v := make 0 (imm.signExtend 64), p := false })) ∧
      exec (.ldih h n imm) s = .next (s.write (.g n
        { v := BitVec.ofNat 80 ((s.ctx.greg n).v.toNat * 65536 + imm.toNat), p := (s.ctx.greg n).p })))) ∧
  (
    let latch := fun (C : Hdr → CSrc → Instr) (l : Latch) =>
      ∀ (h : Hdr) (c : CSrc) (s s1 : State) (r : Reg), guardTrue s.ctx h.guard = true → ReadsC s c r s1 →
        exec (C h c) s = .next (s1.write (.latch l r))
    latch .movIaO .iaO ∧
    latch .movIbO .ibO ∧
    latch .movFaO .faO ∧
    latch .movMxA .mxA ∧
    latch .movMxB .mxB ∧
    latch .movLsD .lsD ∧
    latch .movAtO .atO ∧
    latch .movCeS .ceS ∧
    latch .movCeD .ceD ∧
    latch .movCeN .ceN ∧
    latch .movCeB .ceB ∧
    latch .movCeM .ceM ∧
    latch .movSqD .sqD ∧
    latch .movSqH .sqH ∧
    latch .movSyA .syA ∧
    latch .movSyB .syB ∧
    latch .movSyL .syL)

namespace Sys2Proof.Claims

open Sys2Proof.Machine

/-- Source `x` of a vector operation delivers `v` and leaves the state `t` (R48, R189). -/
def ReadsV (s : State) (x : ASrc) (v : VArg) (t : State) : Prop := ∀ k : VArg → State → State, readV s x k = k v t

/-- The prefix of the executing vector operation (R49). -/
def activePrefix (s : State) : Prefix := s.me.prefixed.getD noPrefix

/-- The prefix fields, the guard and the types permit an operation (R40, R117, R118). -/
def Admits (op : VOp) (h : Hdr) (s : State) (d src : Fin 8) : Prop :=
  prefixOk op (activePrefix s) = true ∧ guardTrue s.ctx h.guard = true ∧ vecTypeOk op s.ctx.vt (activePrefix s) d src = true

/-- The core's pool has a copy for each destination register that the open chunk writes first, and, in serial mode, the squashed chunk
would have found one here too (R204, R205). -/
def PoolFree (s : State) (ds : List (Fin 8)) : Prop :=
  s.serialPoolEnds ds = false ∧ s.copiesUsed s.myCk + (ds.filter fun d => !s.me.chunk.vsaved.getLsbD d.val).length ≤ 16

/-- The destination registers are marked as copied. -/
def saved (s : State) (ds : List (Fin 8)) : State :=
  let new := ds.filter fun d => !s.me.chunk.vsaved.getLsbD d.val
  s.updMe fun x =>
    { x with chunk := { x.chunk with vsaved := new.foldl (fun m d => m ||| BitVec.ofNat 8 (2 ^ d.val)) x.chunk.vsaved } }

/-- A vector operation captured with its operands: in flight for `lat` bundles; `rng` has drawn for its active elements
(R74, R115, R119). -/
def captured (op : VOp) (lat : Nat) (d : Fin 8) (a b : VArg) (quart : Nat) (p : Prefix) (s : State) : State :=
  let s1 := saved s (vecDests op s.ctx.vt d)
  let q := s1.vecReq op d a b p quart
  (s1.updCtx fun c => { c with rng := q.rngAfter }).trigger .vx lat [.vop q]

end Sys2Proof.Claims

/-- For each of the 38 operations of Table 5-3 that take their operands from the short source space: where its prefix fields
are admitted, its guard holds, its types are permitted, its sources deliver and the shadow pool has room, exec answers
the next state in which the operation is in flight with its operands, prefix mask, addend and type as they stood at
issue, for 4 bundles, or 8 for exp2, log2, rcp, rsq and tanh. Where the prefix fields are admitted, the guard holds, the
types are permitted, the sources deliver and the shadow pool has room: narrow captures its source group, sexp a register
and a valid superscale, decq and encq a register and a quarter, popcm and mmov a mask, iota two scalars; exec answers
the next state with the operation in flight for 4 bundles. sexp with any other superscale takes the superscale fault
instead. When a captured request lands (outside mode SR), element i of the destination, for every i below the count of
its type, is the operation's value where the mask makes i active, and otherwise zero or the old element: integer add,
sub and mul wrap or saturate, mulh is the high half, min, max, and, or, xor, shl, shr and sar are exact, float add, sub
and mul round once, fma, fms and nfma add the prefix's addend or the old element, perm, shuf, bcast, slide, iota and
mmov pick or make elements; sel takes both sources; wadd and wmul write a group; compares write bits of a mask; sum adds
the active integers into vx.s. The mark is set where an operand, the addend or the mask is marked, or the old content is
used and marked. Every other register stands. -/
def Obligations.VectorOperationsCapture : Prop :=
  (
    let ready := fun (op : VOp) (h : Hdr) (d : Fin 8) (s s2 : State) => Admits op h s d 0 ∧ PoolFree s2 (vecDests op s2.ctx.vt d)
    let two := fun (op : VOp) (lat : Nat) (C : Hdr → Fin 8 → ASrc → ASrc → Instr) =>
      ∀ h d o t s s1 s2 a b, ready op h d s s2 → ReadsV s o a s1 → ReadsV s1 t b s2 →
        exec (C h d o t) s = .next (captured op lat d a b 0 (activePrefix s) s2)
    let cmp := fun (op : VOp) (C : Hdr → Fin 4 → ASrc → ASrc → Instr) =>
      ∀ h (d : Fin 4) o t s s1 s2 a b, ready op h (kDest d) s s2 → ReadsV s o a s1 → ReadsV s1 t b s2 →
        exec (C h d o t) s = .next (captured op 4 (kDest d) a b 0 (activePrefix s) s2)
    let one := fun (op : VOp) (lat : Nat) (C : Hdr → Fin 8 → ASrc → Instr) =>
      ∀ h d o s s2 a, ready op h d s s2 → ReadsV s o a s2 → exec (C h d o) s = .next (captured op lat d a noArg 0 (activePrefix s) s2)
    let red := fun (op : VOp) (C : Hdr → ASrc → Instr) =>
      ∀ h o s s2 a, ready op h 0 s s2 → ReadsV s o a s2 → exec (C h o) s = .next (captured op 4 0 a noArg 0 (activePrefix s) s2)
    let vecScal := fun (op : VOp) (C : Hdr → Fin 8 → ASrc → ASrc → Instr) =>
      ∀ h d o t s s1 s2 a (b : Reg), ready op h d s s2 → ReadsV s o a s1 → ReadsA s1 t b s2 →
        exec (C h d o t) s = .next (captured op 4 d a (.scal b) 0 (activePrefix s) s2)
    two .add 4 .vxAdd ∧
    two .sub 4 .vxSub ∧
    two .mul 4 .vxMul ∧
    two .mulh 4 .vxMulh ∧
    two .fma 4 .vxFma ∧
    two .fms 4 .vxFms ∧
    two .nfma 4 .vxNfma ∧
    two .min 4 .vxMin ∧
    two .max 4 .vxMax ∧
    two .and 4 .vxAnd ∧
    two .or 4 .vxOr ∧
    two .xor 4 .vxXor ∧
    two .shl 4 .vxShl ∧
    two .shr 4 .vxShr ∧
    two .sar 4 .vxSar ∧
    two .sel 4 .vxSel ∧
    two .wadd 4 .vxWadd ∧
    two .wmul 4 .vxWmul ∧
    two .perm 4 .vxPerm ∧
    two .sacc 4 .vxSacc ∧
    cmp .cmpeq .vxCmpeq ∧
    cmp .cmpne .vxCmpne ∧
    cmp .cmplt .vxCmplt ∧
    cmp .cmple .vxCmple ∧
    one .abs 4 .vxAbs ∧
    one .neg 4 .vxNeg ∧
    one .cvt 4 .vxCvt ∧
    one .exp2 8 .vxExp2 ∧
    one .log2 8 .vxLog2 ∧
    one .rcp 8 .vxRcp ∧
    one .rsq 8 .vxRsq ∧
    one .tanh 8 .vxTanh ∧
    red .sum .vxSum ∧
    red .maxr .vxMaxr ∧
    red .minr .vxMinr ∧
    vecScal .shuf .vxShuf ∧
    vecScal .bcast .vxBcast ∧
    vecScal .slide .vxSlide) ∧
  (
    let ready := fun (op : VOp) (h : Hdr) (d src : Fin 8) (s s2 : State) => Admits op h s d src ∧ PoolFree s2 (vecDests op s2.ctx.vt d)
    (∀ h d o s, ready .narrow h d o s s → exec (.vxNarrow h d o) s = .next (captured .narrow 4 d
        (.group ((List.range ((etOf s.ctx.vt).w / (wtOf s.ctx.vt).w)).map fun j => s.ctx.v[regPlus o j])) noArg 0 (activePrefix s) s)) ∧
    (∀ h d (o : Fin 8) t s s2 (b : Reg), ReadsA s t b s2 →
      (ready .sexp h d 0 s s2 → goodSuper (b.val.toNat % 2 ^ 32) = true →
        exec (.vxSexp h d o t) s = .next (captured .sexp 4 d (.vec s2.ctx.v[o]) (.scal b) 0 (activePrefix s) s2)) ∧
      (Admits .sexp h s d 0 → goodSuper (b.val.toNat % 2 ^ 32) = false →
        exec (.vxSexp h d o t) s = .next (s2.fault causeSuperscale 0 []))) ∧
    (∀ h d (o : Fin 8) (q : Fin 4) s, ready .decq h d 0 s s →
      exec (.vxDecq h d o q) s = .next (captured .decq 4 d (.vec s.ctx.v[o]) noArg q.val (activePrefix s) s)) ∧
    (∀ h d (o : Fin 8) (q : Fin 4) s, ready .encq h d 0 s s →
      exec (.vxEncq h d o q) s = .next (captured .encq 4 d (.vec s.ctx.v[o]) noArg q.val (activePrefix s) s)) ∧
    (∀ h (o : Fin 4) s, ready .popcm h 0 0 s s →
      exec (.vxPopcm h o) s = .next (captured .popcm 4 0 (.msk s.ctx.k[o]) noArg 0 (activePrefix s) s)) ∧
    (∀ h d (o : Fin 4) s, ready .mmov h d 0 s s →
      exec (.vxMmov h d o) s = .next (captured .mmov 4 d (.msk s.ctx.k[o]) noArg 0 (activePrefix s) s)) ∧
    (∀ h d o t s s1 s2 (a b : Reg), ready .iota h d 0 s s2 → ReadsA s o a s1 → ReadsA s1 t b s2 →
      exec (.vxIota h d o t) s = .next (captured .iota 4 d (.scal a) (.scal b) 0 (activePrefix s) s2)) ∧
    (∀ p s, exec (.vpfx p) s = .next (s.updMe fun x => { x with prefixed := some p }))) ∧
  (
    let others := fun (x y : Strand) (d : Fin 8) => (∀ n, n ≠ d → y.ctx.v[n] = x.ctx.v[n]) ∧ y.ctx.k = x.ctx.k ∧ y.ctx.g = x.ctx.g ∧ y.ctx.lat = x.ctx.lat
    let lands := fun (op : VOp) (ok : VReq → Prop) (usesOld : VReq → Bool) (val : VReq → (Nat → Nat) → (Nat → Nat) → (Nat → Nat) → Nat → Nat) =>
      ∀ (x : Strand) (q : VReq), q.op = op → q.mode ≠ 5 → ok q →
        let t := etOf q.vt
        let y := x.apply (.vop q)
        let old := x.ctx.v[q.d]
        (∀ i, i < t.n → elemAt y.ctx.v[q.d].d t.w i =
          if q.active i then val q (q.o.elem t.w) (q.t.elem t.w) (elemAt old.d t.w) i % 2 ^ t.w else if q.mz then 0 else elemAt old.d t.w i) ∧
        y.ctx.v[q.d].p = (q.poisoned || (usesOld q && old.p)) ∧ others x y q.d
    let isInt := fun (q : VReq) => (etOf q.vt).kind = .i
    let isFp := fun (q : VReq) => (etOf q.vt).kind ≠ .i
    let all := fun (_ : VReq) => True
    let num := fun (q : VReq) (x : Nat) => intOf (etOf q.vt).w (etOf q.vt).signed x
    let fits := fun (q : VReq) (z : Int) =>
      let lo := intMin (etOf q.vt).w (etOf q.vt).signed
      let hi := intMax (etOf q.vt).w (etOf q.vt).signed
      (if q.sat then (if z < lo then lo else if hi < z then hi else z) else z) % (2 ^ (etOf q.vt).w : Nat) |>.toNat
    let float := fun (f : Fmt → Nat → Nat → FV → FV → FR) (q : VReq) (a b : Nat) =>
      (f (etOf q.vt).fmt q.mode (rngBits q.rng) ((etOf q.vt).fmt.decode a) ((etOf q.vt).fmt.decode b)).bits
    let fused := fun (flipA flipC : Bool) (q : VReq) (a b c : Nat) =>
      let d := (etOf q.vt).fmt.decode
      (fFma (etOf q.vt).fmt q.mode (rngBits q.rng) (if flipA then (d a).negate else d a) (d b) (if flipC then (d c).negate else d c)).bits
    let addend := fun (q : VReq) (o : Nat → Nat) (i : Nat) => match q.add with | some v => elemAt v.d (etOf q.vt).w i | none => o i
    let plain := fun (op : VOp) (ok : VReq → Prop) (val : VReq → Nat → Nat → Nat) => lands op ok VReq.merges fun q a b _ i => val q (a i) (b i)
    let fma := fun (op : VOp) (flipA flipC : Bool) =>
      lands op all (fun q => q.merges || q.add.isNone) fun q a b o i => fused flipA flipC q (a i) (b i) (addend q o i)
    let cmp := fun (op : VOp) (p : Int → Int → Bool) => ∀ (x : Strand) (q : VReq), q.op = op → isInt q →
      let y := x.apply (.vop q)
      let d := Fin.ofNat 4 q.d.val
      (∀ i, i < (etOf q.vt).n → y.ctx.k[d].d.getLsbD i =
        if q.active i then p (num q (q.o.elem (etOf q.vt).w i)) (num q (q.t.elem (etOf q.vt).w i)) else if q.mz then false else x.ctx.k[d].d.getLsbD i) ∧
      (∀ i, (etOf q.vt).n ≤ i → y.ctx.k[d].d.getLsbD i = false) ∧
      y.ctx.k[d].p = (q.poisoned || (q.merges && x.ctx.k[d].p)) ∧ y.ctx.v = x.ctx.v
    let wide := fun (op : VOp) (f : Int → Int → Int) (m : Nat) => ∀ (x : Strand) (q : VReq), q.op = op → q.mode ≠ 5 → isInt q →
      (wtOf q.vt).w = m * (etOf q.vt).w →
      let y := x.apply (.vop q)
      ∀ i, i < (etOf q.vt).n →
        let r := regPlus q.d (i % m)
        elemAt y.ctx.v[r].d (wtOf q.vt).w (i / m) =
          if q.active i then (f (num q (q.o.elem (etOf q.vt).w i)) (num q (q.t.elem (etOf q.vt).w i)) % (2 ^ (wtOf q.vt).w : Nat)).toNat
          else if q.mz then 0 else elemAt x.ctx.v[r].d (wtOf q.vt).w (i / m)
    plain .add isInt (fun q a b => fits q (num q a + num q b)) ∧
    plain .sub isInt (fun q a b => fits q (num q a - num q b)) ∧
    plain .mul isInt (fun q a b => fits q (num q a * num q b)) ∧
    plain .add isFp (float fAdd) ∧
    plain .sub isFp (float fun f m r a b => fAdd f m r a b.negate) ∧
    plain .mul isFp (float fMul) ∧
    plain .mulh isInt (fun q a b => (num q a * num q b / (2 ^ (etOf q.vt).w : Nat) % (2 ^ (etOf q.vt).w : Nat)).toNat) ∧
    fma .fma false false ∧ fma .fms false true ∧ fma .nfma true false ∧
    plain .min isInt (fun q a b => if num q a ≤ num q b then a else b) ∧
    plain .max isInt (fun q a b => if num q b ≤ num q a then a else b) ∧
    plain .and all (fun _ a b => a &&& b) ∧
    plain .or all (fun _ a b => a ||| b) ∧
    plain .xor all (fun _ a b => a ^^^ b) ∧
    plain .shl all (fun _ a c => a * 2 ^ c) ∧
    plain .shr all (fun _ a c => a / 2 ^ c) ∧
    plain .sar all (fun q a c => (intOf (etOf q.vt).w true a / (2 ^ c : Nat) % (2 ^ (etOf q.vt).w : Nat)).toNat) ∧
    lands .perm all VReq.merges (fun q a b _ i => a (b i % (etOf q.vt).n)) ∧
    lands .shuf all VReq.merges (fun q a _ _ i => a (i ^^^ (q.t.scalar.toNat % (etOf q.vt).n))) ∧
    lands .bcast all VReq.merges (fun q a _ _ _ => a (q.t.scalar.toNat % (etOf q.vt).n)) ∧
    lands .slide all VReq.merges (fun q a _ _ i =>
      let j : Int := (i : Int) + q.t.scalar.toInt
      if 0 ≤ j ∧ j < (etOf q.vt).n then a j.toNat
      else match q.add with
        | some v => elemAt v.d (etOf q.vt).w (j % ((etOf q.vt).n : Int)).toNat
        | none => 0) ∧
    lands .iota all VReq.merges (fun q _ _ _ i => q.o.scalar.toNat + i * q.t.scalar.toNat) ∧
    lands .mmov all VReq.merges (fun q _ _ _ i => if q.o.elem 1 i = 1 then 2 ^ (etOf q.vt).w - 1 else 0) ∧
    (∀ (x : Strand) (q : VReq), q.op = .sel →
      let t := etOf q.vt
      let y := x.apply (.vop q)
      (∀ i, i < t.n → elemAt y.ctx.v[q.d].d t.w i = (if q.active i then q.t.elem t.w i else q.o.elem t.w i) % 2 ^ t.w) ∧
      y.ctx.v[q.d].p = q.poisoned ∧ others x y q.d) ∧
    wide .wadd (· + ·) 2 ∧ wide .wadd (· + ·) 4 ∧ wide .wmul (· * ·) 2 ∧ wide .wmul (· * ·) 4 ∧
    cmp .cmpeq (fun a b => decide (a = b)) ∧ cmp .cmpne (fun a b => decide (a ≠ b)) ∧
    cmp .cmplt (fun a b => decide (a < b)) ∧ cmp .cmple (fun a b => decide (a ≤ b)) ∧
    (∀ (x : Strand) (q : VReq), q.op = .sum → isInt q →
      (x.apply (.vop q)).ctx.latch .vxS =
        { v := make 0 (BitVec.ofInt 64 (((List.range (etOf q.vt).n).filter q.active).map fun i => num q (q.o.elem (etOf q.vt).w i)).sum), p := q.poisoned }))

/-- For every vector operation: a set prefix field that the operation does not admit makes the word illegal, whatever its
guard; with admitted fields and a true guard, types that the operation does not permit raise the vector-type fault,
whose packet carries ET, WT and the operation code. In both cases exec answers the state in which the strand took that
fault and nothing of the operation happened. -/
def Obligations.VectorPrefixAndTypeFaults : Prop :=
  let bad := fun (op : VOp) (d src : Fin 8) (h : Hdr) (i : Instr) => ∀ s : State,
    (prefixOk op (activePrefix s) = false → exec i s = .next (s.faultWord causeIllegal)) ∧
    (prefixOk op (activePrefix s) = true → guardTrue s.ctx h.guard = true → vecTypeOk op s.ctx.vt (activePrefix s) d src = false →
      exec i s = .next (s.faultVecType (s.word.toNat / 2 ^ 14 % 64)))
  (∀ h d o t, bad .add d 0 h (.vxAdd h d o t)) ∧
  (∀ h d o t, bad .sub d 0 h (.vxSub h d o t)) ∧
  (∀ h d o t, bad .mul d 0 h (.vxMul h d o t)) ∧
  (∀ h d o t, bad .mulh d 0 h (.vxMulh h d o t)) ∧
  (∀ h d o t, bad .fma d 0 h (.vxFma h d o t)) ∧
  (∀ h d o t, bad .fms d 0 h (.vxFms h d o t)) ∧
  (∀ h d o t, bad .nfma d 0 h (.vxNfma h d o t)) ∧
  (∀ h d o t, bad .min d 0 h (.vxMin h d o t)) ∧
  (∀ h d o t, bad .max d 0 h (.vxMax h d o t)) ∧
  (∀ h d o t, bad .and d 0 h (.vxAnd h d o t)) ∧
  (∀ h d o t, bad .or d 0 h (.vxOr h d o t)) ∧
  (∀ h d o t, bad .xor d 0 h (.vxXor h d o t)) ∧
  (∀ h d o t, bad .shl d 0 h (.vxShl h d o t)) ∧
  (∀ h d o t, bad .shr d 0 h (.vxShr h d o t)) ∧
  (∀ h d o t, bad .sar d 0 h (.vxSar h d o t)) ∧
  (∀ h d o t, bad .sel d 0 h (.vxSel h d o t)) ∧
  (∀ h d o t, bad .wadd d 0 h (.vxWadd h d o t)) ∧
  (∀ h d o t, bad .wmul d 0 h (.vxWmul h d o t)) ∧
  (∀ h d o t, bad .perm d 0 h (.vxPerm h d o t)) ∧
  (∀ h d o t, bad .sacc d 0 h (.vxSacc h d o t)) ∧
  (∀ h (d : Fin 4) o t, bad .cmpeq (kDest d) 0 h (.vxCmpeq h d o t)) ∧
  (∀ h (d : Fin 4) o t, bad .cmpne (kDest d) 0 h (.vxCmpne h d o t)) ∧
  (∀ h (d : Fin 4) o t, bad .cmplt (kDest d) 0 h (.vxCmplt h d o t)) ∧
  (∀ h (d : Fin 4) o t, bad .cmple (kDest d) 0 h (.vxCmple h d o t)) ∧
  (∀ h d o, bad .abs d 0 h (.vxAbs h d o)) ∧
  (∀ h d o, bad .neg d 0 h (.vxNeg h d o)) ∧
  (∀ h d o, bad .cvt d 0 h (.vxCvt h d o)) ∧
  (∀ h d o, bad .exp2 d 0 h (.vxExp2 h d o)) ∧
  (∀ h d o, bad .log2 d 0 h (.vxLog2 h d o)) ∧
  (∀ h d o, bad .rcp d 0 h (.vxRcp h d o)) ∧
  (∀ h d o, bad .rsq d 0 h (.vxRsq h d o)) ∧
  (∀ h d o, bad .tanh d 0 h (.vxTanh h d o)) ∧
  (∀ h o, bad .sum 0 0 h (.vxSum h o)) ∧
  (∀ h o, bad .maxr 0 0 h (.vxMaxr h o)) ∧
  (∀ h o, bad .minr 0 0 h (.vxMinr h o)) ∧
  (∀ h d o t, bad .shuf d 0 h (.vxShuf h d o t)) ∧
  (∀ h d o t, bad .bcast d 0 h (.vxBcast h d o t)) ∧
  (∀ h d o t, bad .slide d 0 h (.vxSlide h d o t)) ∧
  (∀ h d o t, bad .sexp d 0 h (.vxSexp h d o t)) ∧
  (∀ h d o t, bad .iota d 0 h (.vxIota h d o t)) ∧
  (∀ h d o, bad .narrow d o h (.vxNarrow h d o)) ∧
  (∀ h d o q, bad .decq d 0 h (.vxDecq h d o q)) ∧
  (∀ h d o q, bad .encq d 0 h (.vxEncq h d o q)) ∧
  (∀ h o, bad .popcm 0 0 h (.vxPopcm h o)) ∧
  (∀ h d o, bad .mmov d 0 h (.vxMmov h d o))

namespace Sys2Proof.Claims

open Sys2Proof.Machine

/-- An access of the executing word passes the checks of R169, waits on nothing, and is to these flat bytes: whatever
follows it goes on with them (R169-R176, R192, R296). -/
def Reaches (s : State) (a : Reg) (n align : Nat) (store scalar : Bool) (ps : List (Nat × Nat)) (t : State) : Prop :=
  ∀ k : Acc → State → State, access s a n align store scalar k = k (.mem ps) t

/-- The same for an instruction that accesses `n` bytes at each of some addresses; `steer` is the mark of the register that steers
them (R141, R213). -/
def ReachesAll (s : State) (a : Reg) (steer : Bool) (xs : List Int) (n : Nat) (store : Bool) (ps : List (Nat × Nat)) (t : State) : Prop :=
  ∀ k : Acc → State → State, accessElems s a steer xs n store k = k (.mem ps) t

/-- The same for a read of 64 aligned bytes that acquires no declared set: a descriptor or a launch header (R296). -/
def ReachesHeader (s : State) (a : Reg) (ps : List (Nat × Nat)) (t : State) : Prop :=
  ∀ k : Acc → State → State, accessWith s a 64 64 false false false k = k (.mem ps) t

/-- Of the 8 results to source ports whose windows may be open, `n` are free (R332). -/
def WindowFree (s : State) (n : Nat) : Prop := openResults s.me.ctx.flights + n ≤ 8

/-- The strand's task holds no atomic set, and the store buffer has room for the lines of some pieces (R197, R299). -/
def MayStore (s : State) (ps : List (Nat × Nat)) : Prop := s.heldSets s.cur = 0 ∧ s.me.bufferedLines (piecesLines ps) ≤ 32

/-- A load of some flat bytes in flight under its lookahead: `acts` says what it writes when it lands, from the bytes as
the strand reads them and whether any of their words is poisoned; poison also sets the pending error (R183, R212). -/
def loaded (u : FUnit) (la : BitVec 4) (port : Bool) (kind : LoadKind) (a : Reg) (ps : List (Nat × Nat))
    (acts : Nat → Bool → List Wr) (s : State) : State :=
  let r := s.readPieces ps
  (r.2.2.launchVar u la (.bytes kind a.v) s.me.ceiling 17 port true
    (acts (ofLE r.1) r.2.1 ++ if r.2.1 then [.pe s.ctx.pc a.v] else [])).push (arrivalEvent s.cur s.me.seq a.v)

end Sys2Proof.Claims

/-- For ls.ld8s, ld8u, ld16s, ld16u, ld32s, ld32u, ld64 and ldp, every lane and lookahead: where the guard holds, the source
delivers the address, fewer than 8 result windows are open and the access of 1, 1, 2, 2, 4, 4, 8 or 16 naturally aligned
bytes reaches flat bytes of memory, exec answers the next state in which a read with that lookahead is in flight and
will write its lane: the little-endian value sign- or zero-extended to 64 bits with tag 0, or for ldp bits 79:64 as the
tag, which is 0xFFFF when bits 127:80 are not zero. A poisoned byte marks the value and adds the pending error. -/
def Obligations.ScalarLoadsInFlight : Prop :=
  let load := fun (C : Hdr → BitVec 4 → Fin 4 → CSrc → Instr) (op : Fin 8) (n : Nat) (f : Nat → Reg80) =>
    ∀ h la l c s s1 s2 a ps, guardTrue s.ctx h.guard = true → ReadsC s c a s1 → WindowFree s1 1 →
      Reaches s1 a n n false (decide (n ≠ 16)) ps s2 →
      exec (C h la l c) s = .next (loaded .ls la true (.lane op l) a ps (fun v p => [.latch (laneLatch l) { v := f v, p := p }]) s2)
  load .lsLd8s 0 1 (fun v => make 0 ((BitVec.ofNat 8 v).signExtend 64)) ∧
  load .lsLd8u 1 1 (fun v => make 0 (BitVec.ofNat 64 (v % 2 ^ 8))) ∧
  load .lsLd16s 2 2 (fun v => make 0 ((BitVec.ofNat 16 v).signExtend 64)) ∧
  load .lsLd16u 3 2 (fun v => make 0 (BitVec.ofNat 64 (v % 2 ^ 16))) ∧
  load .lsLd32s 4 4 (fun v => make 0 ((BitVec.ofNat 32 v).signExtend 64)) ∧
  load .lsLd32u 5 4 (fun v => make 0 (BitVec.ofNat 64 (v % 2 ^ 32))) ∧
  load .lsLd64 6 8 (fun v => make 0 (BitVec.ofNat 64 v)) ∧
  load .lsLdp 7 16 (fun v => make (if v / 2 ^ 80 = 0 then BitVec.ofNat 16 (v / 2 ^ 64) else 0xFFFF) (BitVec.ofNat 64 v))

/-- For ls.st8, st16, st32, st64 and stp, every lookahead: where the guard holds, the source delivers the address, the
access of 1, 2, 4, 8 or 16 naturally aligned bytes reaches flat bytes of memory, the task holds no set and the store
buffer has room, exec answers the next state in which exactly these bytes are entered as stores of the open chunk and
ls.d is consumed: the low bytes of Val(ls.d), little-endian; for stp Val in bytes 0-7, Tag in bytes 8-9 and zeros in
bytes 10-15. A poisoned ls.d marks them. Every byte of memory reads as before. -/
def Obligations.ScalarStoresBuffered : Prop :=
  let store := fun (C : Hdr → BitVec 4 → CSrc → Instr) (n : Nat) (f : Reg → List Byte) =>
    ∀ h la c s s1 s2 a ps, guardTrue s.ctx h.guard = true → ReadsC s c a s1 →
      Reaches s1 a n n true (decide (n ≠ 16)) ps s2 → MayStore s2 ps →
      exec (C h la c) s = .next ((s2.writePieces ps (f (s1.ctx.latch .lsD)) (s1.ctx.latch .lsD).p).consume .lsD)
  store .lsSt8 1 (fun d => leBytes 1 d.val.toNat) ∧
  store .lsSt16 2 (fun d => leBytes 2 d.val.toNat) ∧
  store .lsSt32 4 (fun d => leBytes 4 d.val.toNat) ∧
  store .lsSt64 8 (fun d => leBytes 8 d.val.toNat) ∧
  store .lsStp 16 (fun d => leBytes 8 d.val.toNat ++ leBytes 2 d.tag.toNat ++ List.replicate 6 0)

/-- vld and vst access 512 bytes and kld and kst 128 bytes at a multiple of 128. vlds and vsts access element i at s + i ×
S64(Val(g23)), vgth and vsct at s + x_i × (w / 8) with x_i the element of v7, each of n elements of w / 8 bytes, where w
is at least 8. Where the guard holds, the source delivers the base, the accesses reach flat bytes, a load of a vector
register finds room in the shadow pool and a store has room and no held set, exec answers the next state: a load is in
flight under its lookahead and will write the register or mask from the bytes in order; a store has entered the
register's bytes, in rising element order, in the store buffer. -/
def Obligations.VectorMemoryResults : Prop :=
  let strides := fun (s : State) (a : Reg) => (List.range (etOf s.ctx.vt).n).map fun (i : Nat) =>
    (a.val.toNat : Int) + (i : Int) * (s.ctx.greg 23).val.toInt
  let indices := fun (s : State) (a : Reg) => (List.range (etOf s.ctx.vt).n).map fun (i : Nat) =>
    ((a.val.toNat + elemAt s.ctx.v[(7 : Fin 8)].d (etOf s.ctx.vt).w i * ((etOf s.ctx.vt).w / 8) : Nat) : Int)
  let vec := fun (n : Fin 8) (v : Nat) (p : Bool) => [Wr.v n { d := BitVec.ofNat 4096 v, p := p }]
  let gathers := fun (C : Hdr → BitVec 4 → Fin 8 → CSrc → Instr) (steer : State → Bool) (at_ : State → Reg → List Int) =>
    ∀ h la n c s s1 s2 a ps, guardTrue s.ctx h.guard = true → ReadsC s c a s1 → 8 ≤ (etOf s1.ctx.vt).w →
      ReachesAll s1 a (steer s1) (at_ s1 a) ((etOf s1.ctx.vt).w / 8) false ps s2 → PoolFree s2 [n] →
      exec (C h la n c) s = .next (loaded .vm la false (.vec n) a ps (vec n) (saved s2 [n]))
  let scatters := fun (C : Hdr → BitVec 4 → Fin 8 → CSrc → Instr) (steer : State → Bool) (at_ : State → Reg → List Int) =>
    ∀ h la n c s s1 s2 a ps, guardTrue s.ctx h.guard = true → ReadsC s c a s1 → 8 ≤ (etOf s1.ctx.vt).w →
      ReachesAll s1 a (steer s1) (at_ s1 a) ((etOf s1.ctx.vt).w / 8) true ps s2 → MayStore s2 ps →
      exec (C h la n c) s = .next (s2.writePieces ps (leBytes 512 s2.ctx.v[n].d.toNat) s2.ctx.v[n].p)
  (∀ h la n c s s1 s2 a ps, guardTrue s.ctx h.guard = true → ReadsC s c a s1 → Reaches s1 a 512 128 false false ps s2 →
    PoolFree s2 [n] → exec (.vld h la n c) s = .next (loaded .vm la false (.vec n) a ps (vec n) (saved s2 [n]))) ∧
  (∀ h la n c s s1 s2 a ps, guardTrue s.ctx h.guard = true → ReadsC s c a s1 → Reaches s1 a 512 128 true false ps s2 →
    MayStore s2 ps → exec (.vst h la n c) s = .next (s2.writePieces ps (leBytes 512 s2.ctx.v[n].d.toNat) s2.ctx.v[n].p)) ∧
  gathers .vlds (fun s => (s.ctx.greg 23).p) strides ∧ gathers .vgth (fun s => s.ctx.v[(7 : Fin 8)].p) indices ∧
  scatters .vsts (fun s => (s.ctx.greg 23).p) strides ∧ scatters .vsct (fun s => s.ctx.v[(7 : Fin 8)].p) indices ∧
  (∀ h la (n : Fin 4) c s s1 s2 a ps, guardTrue s.ctx h.guard = true → ReadsC s c a s1 → Reaches s1 a 128 128 false false ps s2 →
    exec (.kld h la n c) s = .next (loaded .vm la false (.mask n) a ps (fun v p => [.k n { d := BitVec.ofNat 1024 v, p := p }]) s2)) ∧
  (∀ h la (n : Fin 4) c s s1 s2 a ps, guardTrue s.ctx h.guard = true → ReadsC s c a s1 → Reaches s1 a 128 128 true false ps s2 →
    MayStore s2 ps → exec (.kst h la n c) s = .next (s2.writePieces ps (leBytes 128 s2.ctx.k[n].d.toNat) s2.ctx.k[n].p))

/-- For a pointer of class 0: a poisoned one faults poison; a qualifier other than 0 faults window; a user strand's access
to the task table faults privilege; an offset that is no multiple of the alignment faults misaligned; a last byte past
2^20, or a byte of the core's own replicated area (from the end of the private part to the share; it may be empty),
faults window, the first of these in this order. Otherwise, where no held range of the scoreboard meets the lines and
the strand's task has declared no set, the access is to the bytes of the core's own local store at that offset, split
where a line ends, and the state is unchanged. -/
def Obligations.LocalAccessChecks : Prop :=
  ∀ (s : State) (a : Reg) (n align : Nat) (store scalar : Bool) (k : Acc → State → State), classOf a.v = 0 → 0 < n → 0 < align →
    let off := offOf a.v
    let p := s.partOf s.myCk
    let share := 2 ^ 20 - p.shareBytes
    let area := s.privEnd (pidOf s.myCk)
    let touchesRep := area < share ∧ off < share ∧ area < off + n
    (a.p = true → access s a n align store scalar k = s.faultPoison a.v) ∧
    (a.p = false → qualOf a.v ≠ 0 → access s a n align store scalar k = s.faultAddr causeWindow a.v) ∧
    (a.p = false → qualOf a.v = 0 →
      (s.mode s.cur = .user → off < 64 * p.t → access s a n align store scalar k = s.faultAddr causePrivilege a.v) ∧
      (¬ (s.mode s.cur = .user ∧ off < 64 * p.t) →
        (off % align ≠ 0 → access s a n align store scalar k = s.faultAddr causeMisaligned a.v) ∧
        (off % align = 0 → 2 ^ 20 < off + n ∨ touchesRep → access s a n align store scalar k = s.faultAddr causeWindow a.v) ∧
        (off % align = 0 → off + n ≤ 2 ^ 20 → ¬ touchesRep →
          (s.core s.myCk).rangeHeld (off / 128) ((off + n - 1) / 128) = false → s.me.sets.toList.all Option.isNone = true →
          Reaches s a n align store scalar ((splitLines off n).map fun q => (localFlat s.myCk q.1, q.2)) s)))

/-- After a store of one piece is entered in the open chunk of the executing strand, the strand reads every byte of the
piece as stored and every byte outside the piece as it read it before, and memory itself reads as before at every
address. -/
def Obligations.StoreSeenByItsStrand : Prop :=
  ∀ (s : State) (w : SbWrite) (a : Nat),
    let t := s.noteWrite s.cur w
    (w.addr ≤ a → a < w.addr + w.data.length → t.readBytes t.cur a 1 = [w.data.getD (a - w.addr) 0]) ∧
    (a < w.addr ∨ w.addr + w.data.length ≤ a → t.readBytes t.cur a 1 = s.readBytes s.cur a 1) ∧
    memRead t.mem a = memRead s.mem a

/-- Where the guard holds and the source delivers its value: ls.pf of a pointer outside the rim and replicated windows
changes nothing further, and inside them only looks the page up; qs.bind of a 64-byte aligned descriptor that decodes,
with fewer than 8 engines of the core in use, loads the engine, empties its buffer and starts its delivery; qs.unbind
releases the engine and drops what it buffered; a write to a bound out-stream that is not exhausted stores the 8 bytes
of Val(src) at the position's address and advances the position, where the access reaches memory with room in the buffer
and no held set. -/
def Obligations.PrefetchAndStreamResults : Prop :=
  (∀ h c s s1 a, guardTrue s.ctx h.guard = true → ReadsC s c a s1 →
    (classOf a.v ≠ 3 → classOf a.v ≠ 4 → exec (.lsPf h c) s = .next s1) ∧
    (classOf a.v = 3 ∨ classOf a.v = 4 → qualOf a.v = 0 → offOf a.v < 2 ^ 55 →
      exec (.lsPf h c) s = .next (s1.translate s1.myCk (offOf a.v) (decide (classOf a.v = 4)) false).2)) ∧
  (∀ h (j : Fin 8) c s s1 s2 a ps b, guardTrue s.ctx h.guard = true → ReadsC s c a s1 → ReachesHeader s1 a ps s2 →
    let r := s2.readPieces ps
    let s3 := if r.2.1 then r.2.2.setPe a.v else r.2.2
    r.2.2.enginesUsed j < 8 → bindingOf r.1 = some b →
    exec (.qsBind h j c) s = .next (((s3.updCtx fun c => { c with binds := c.binds.set j (some b) }).updMe fun x =>
      { x with buffered := x.buffered.set j 0 }).pushOnce (.streamElementArrival s3.cur j))) ∧
  (∀ h (j : Fin 8) s, guardTrue s.ctx h.guard = true →
    exec (.qsUnbind h j) s = .next ((s.updCtx fun c => { c with binds := c.binds.set j none }).updMe fun x =>
      { x with buffered := x.buffered.set j 0, elem := none })) ∧
  (∀ h (j : Fin 8) c s s1 s2 r b a ps, guardTrue s.ctx h.guard = true → ReadsC s c r s1 → s1.ctx.binds[j] = some b →
    b.out = true → b.pos < b.total → b.pointer = some a → Reaches s1 { v := a, p := false } 8 8 true false ps s2 →
    let s3 := s2.updCtx fun c => { c with binds := c.binds.set j (some { b with pos := b.pos + 1 }) }
    MayStore s3 ps → exec (.qsWrite h j c) s = .next (s3.writePieces ps (leBytes 8 r.val.toNat) r.p))

namespace Sys2Proof.Claims

open Sys2Proof.Machine

/-- The executing strand holds its group's lease with a counted command left (R149). -/
def Leased (s : State) : Prop := s.holdsLease = true ∧ 0 < leftOf s.ctx.mxSt

/-- An effect may start at this bundle: whatever follows goes on in the state `t` (R195, R207). -/
def Starts (s t : State) : Prop := ∀ k : State → State, effectGate s k = k t

end Sys2Proof.Claims

/-- A bundle that has already been chosen as an effect goes on. Otherwise an open chunk that holds bundles ends first; with
an empty open chunk, a chunk that awaits its commit, an effect that is not complete, a committed word that has not acted
(R270) or a log that waits for room (R373) holds the bundle; and with none of these the bundle starts as an effect. -/
def Obligations.EffectsStartAlone : Prop :=
  ∀ s : State,
    (s.me.effIssue = true → Starts s s) ∧
    (s.me.effIssue = false →
      (s.me.chunk.len ≠ 0 → ∀ k, effectGate s k = s.endFirst) ∧
      (s.me.chunk.len = 0 →
        (s.me.await.isSome ∨ s.me.effect.isSome ∨ s.me.ctl ≠ [] ∨ s.logWaiting s.myCk = true → ∀ k, (effectGate s k).held = true) ∧
        (s.me.await = none → s.me.effect = none → s.me.ctl = [] → s.logWaiting s.myCk = false →
          Starts s (s.updMe fun x => { x with effIssue := true }))))

/-- Where the guard holds and the source delivers r: mx.lease of 1 to 64 by a strand that neither holds, has asked nor waits
for the lease, with a free result window, consumes mx.a and mx.b, opens its window, requests the lease when its chunk
commits, clears HELD and LEFT of mx.st and ends the chunk; otherwise it faults matrix operand. mx.free, mx.zero, mx.chk
and mx.inject of a strand that does not hold the lease with a command left fault no lease. With it, mx.free gives it up
when the chunk commits and leaves mx.st as it is (R394); mx.zero, mx.chk and (outside user mode, for an mx.a that names
a cell and bit of R163) mx.inject of a slot below 16 are one counted command (mx.chk where a result window is free), and
of a larger value fault matrix operand. mx.inject in user mode faults privilege. -/
def Obligations.MatrixLeaseResults : Prop :=
  let none_ := fun (s : State) => s.fault causeNoLease 0 []
  let counted := fun (s : State) (la : BitVec 4) (port : Bool) (c : MxCmd) =>
    ((((s.consumeAll [.mxA, .mxB]).launchVar .mx la .command 0 0 port false []).defer (.mx s.me.seq c)).countDown).close
  let slot := fun (i : Instr) (la : BitVec 4) (port : Bool) (s s1 : State) (r : Reg) (c : Fin 16 → MxCmd) =>
    (¬ Leased s1 → exec i s = .next (none_ s1)) ∧
    (Leased s1 → 16 ≤ r.val.toNat → exec i s = .next s1.faultMatrix) ∧
    (Leased s1 → r.val.toNat < 16 → (port = true → WindowFree s1 1) → exec i s = .next (counted s1 la port (c (Fin.ofNat 16 r.val.toNat))))
  (∀ h la c s s1 r, guardTrue s.ctx h.guard = true → ReadsC s c r s1 →
    let g := (s1.group (gkOf s1.myCk)).data
    let may := 1 ≤ r.val.toNat ∧ r.val.toNat ≤ 64 ∧ s1.holdsLease = false ∧ (∀ q ∈ g.requests, q.1 ≠ s1.cur) ∧
      ∀ f ∈ s1.me.ctx.flights, ∀ n, f.pend ≠ .lease n
    (may → WindowFree s1 1 →
      exec (.mxLease h la c) s = .next (((((s1.consumeAll [.mxA, .mxB]).launchVar .mx la (.lease r.val.toNat) s1.me.ceiling 1 true false []).defer
      (.lease s1.me.seq r.val.toNat)).write (.mxSt leaseMask 0)).close)) ∧
    (¬ may → exec (.mxLease h la c) s = .next s1.faultMatrix)) ∧
  (∀ h s, guardTrue s.ctx h.guard = true →
    (¬ Leased s → exec (.mxFree h) s = .next (none_ s)) ∧
    (Leased s → exec (.mxFree h) s = .next (((s.consumeAll [.mxA, .mxB]).defer .free).close))) ∧
  (∀ h la c s s1 r, guardTrue s.ctx h.guard = true → ReadsC s c r s1 →
    slot (.mxZero h la c) la false s s1 r .zero ∧ slot (.mxChk h la c) la true s s1 r .chk) ∧
  (∀ h la c s s1 r, guardTrue s.ctx h.guard = true → ReadsC s c r s1 →
    let a := (s.ctx.latch .mxA).val.toNat
    let cell := a < 2 ^ 21 ∧ (a / 2 ^ 15) % 2 = 0 ∧ (a / 2 ^ 7) % 2 = 0 ∧ (a / 2 ^ 8) % 128 ≤ 64 ∧ a % 128 ≤ 64
    (s.mode s.cur = .user → exec (.mxInject h la c) s = .next (s.faultWord causePrivilege)) ∧
    (s.mode s.cur ≠ .user → cell →
      slot (.mxInject h la c) la false s s1 r fun t => .inject t ((a / 2 ^ 8) % 128) (a % 128) (a / 2 ^ 16)) ∧
    (s.mode s.cur ≠ .user → ¬ cell → Leased s → exec (.mxInject h la c) s = .next s.faultMatrix))

/-- For the five forms of mx.lda and the six of mx.ldb: where the guard holds, the source delivers an unpoisoned pointer of
a class other than 5 and 0x7F, the strand holds the lease with a command left, the address and mx.b are multiples of
128, mx.b is from 128 to below 2^32, and the 64 rows of 128 bytes at s + r × Val(mx.b) reach flat bytes, exec answers
the next state in which both matrix latches are consumed, the read is in flight under its lookahead, the command with
its buffer, format, rows and mark acts when the chunk commits, LEFT has counted down and the chunk ends. Without the
lease the strand faults no lease. -/
def Obligations.MatrixLoadsIssued : Prop :=
  let load := fun (C : Hdr → BitVec 4 → CSrc → Instr) (b : Bool) (f : Fin 6) =>
    ∀ h la c s s1 s2 a ps, guardTrue s.ctx h.guard = true → ReadsC s c a s1 →
      (¬ Leased s1 → exec (C h la c) s = .next (s1.fault causeNoLease 0 [])) ∧
      (Leased s1 →
        let pitch := (s1.ctx.latch .mxB).val.toNat
        a.p = false → classOf a.v ≠ 5 → classOf a.v ≠ 0x7F → a.val.toNat % 128 = 0 → pitch % 128 = 0 → 128 ≤ pitch → pitch < 2 ^ 32 →
        ReachesAll s1 a (s1.ctx.latch .mxB).p ((List.range 64).map fun (r : Nat) => ((a.val.toNat + r * pitch : Nat) : Int)) 128 false ps s2 →
        let r := s2.readPieces ps
        let s3 := r.2.2
        exec (C h la c) s = .next (((((s3.consumeAll [.mxA, .mxB]).launchVar .mx la (.bytes (.rows b f) a.v) s3.me.ceiling 17 false true
          (if r.2.1 then [.pe s3.ctx.pc a.v] else [])).defer (.mx s3.me.seq (.load b f (rowsOf 64 r.1) r.2.1))).push
          (arrivalEvent s3.cur s3.me.seq a.v)).countDown.close))
  load .mxLdaBf16 false 0 ∧ load .mxLdaE4m3 false 1 ∧ load .mxLdaE5m2 false 2 ∧ load .mxLdaI8 false 3 ∧ load .mxLdaF32 false 4 ∧
  load .mxLdbBf16 true 0 ∧ load .mxLdbE4m3 true 1 ∧ load .mxLdbE5m2 true 2 ∧ load .mxLdbI8 true 3 ∧ load .mxLdbF32 true 4 ∧
  load .mxLdbQn4 true 5

/-- For the ten shapes of mx.mma and the two of mx.chain: where the guard holds and the source delivers the product word, a
strand without the lease faults no lease. With it, the command is accepted when the word has no bit above 8, its windows
are below the shape's counts, the buffers will hold the shape's formats (chain takes A from a source slot of mx.a below
16, other than the destination and not integer), and Z is set or the slot is unused or of the shape's kind. It then
consumes both latches, opens its window, acts when the chunk commits, counts LEFT down and ends the chunk. Any other
word faults matrix operand. -/
def Obligations.MatrixProductsIssued : Prop :=
  let prod := fun (C : Hdr → BitVec 4 → CSrc → Instr) (i : Fin 12) (fa : Option (Fin 6)) (fb : Fin 6) (aw bw : Nat) (kind : SlotKind) =>
    ∀ h la c s s1 r, guardTrue s.ctx h.guard = true → ReadsC s c r s1 →
      let w := r.val.toNat
      let t : Fin 16 := Fin.ofNat 16 w
      let sv := (s1.ctx.latch .mxA).val.toNat
      let ok := w < 2 ^ 9 ∧ (w / 32) % 4 < aw ∧ (w / 128) % 4 < bw ∧ s1.bufFmt true = fb ∧
        (match fa with
         | some f => s1.bufFmt false = f
         | none => sv < 16 ∧ Fin.ofNat 16 sv ≠ t ∧ s1.slotKind (Fin.ofNat 16 sv) ≠ .i) ∧
        (w.testBit 4 = true ∨ s1.slotKind t = .n ∨ s1.slotKind t = kind)
      (¬ Leased s1 → exec (C h la c) s = .next (s1.fault causeNoLease 0 [])) ∧
      (Leased s1 → ¬ ok → exec (C h la c) s = .next s1.faultMatrix) ∧
      (Leased s1 → ok → exec (C h la c) s = .next ((((s1.consumeAll [.mxA, .mxB]).launchVar .mx la .command 0 0 false false []).defer
        (.mx s1.me.seq (.product i t (w.testBit 4) (Fin.ofNat 4 (w / 32)) (Fin.ofNat 4 (w / 128))
          (if fa.isSome then none else some (Fin.ofNat 16 sv))))).countDown.close))
  prod .mxMmaM64n64k32Bf16 0 (some 0) 0 2 2 .f ∧
  prod .mxMmaM32n64k32Bf16 1 (some 0) 0 2 2 .f ∧
  prod .mxMmaM16n64k32Bf16 2 (some 0) 0 2 2 .f ∧
  prod .mxMmaM64n64k64E4m3 3 (some 1) 1 2 2 .f ∧
  prod .mxMmaM64n64k64E5m2 4 (some 2) 2 2 2 .f ∧
  prod .mxMmaM64n64k64Mix8 5 (some 1) 2 2 2 .f ∧
  prod .mxMmaM64n64k64I8 6 (some 3) 3 2 2 .i ∧
  prod .mxMmaM64n64k64Qn4 7 (some 0) 5 1 4 .f ∧
  prod .mxMmaM16n64k64Qn4 8 (some 0) 5 1 4 .f ∧
  prod .mxMmaM64n64k8F32 9 (some 4) 4 4 4 .f ∧
  prod .mxChainBf16 10 none 0 2 2 .f ∧
  prod .mxChainE4m3 11 none 1 1 2 .f

/-- Where the guard holds, the source delivers r and the strand holds the lease with a command left: mx.drain of a value
below 32, with an unpoisoned untagged destination in mx.a and an unpoisoned pitch in mx.b that are multiples of 128, the
pitch at least 256, all 64 rows of 256 bytes inside the strand's own store, an effect that may start, a free result
window and fewer than 32 ranges held, takes the range of lines from the first to the last byte, consumes both latches,
opens its window, and drains slot r[3:0] to that place (clearing it with r[4]) when the chunk commits; LEFT counts down
and the chunk ends. mx.drainv of a value below 512 with Val(mx.a) below 8, for whose register the shadow pool has a
copy, consumes both latches, opens its read window, counts LEFT and the lease down, and appends slot r[3:0], row pair
r[8:4] and that register to the arrivals of the group's array. -/
def Obligations.MatrixDrainsIssued : Prop :=
  (∀ h la c s s1 s2 r, guardTrue s.ctx h.guard = true → ReadsC s c r s1 → Leased s1 →
    let d := s1.ctx.latch .mxA
    let pitch := (s1.ctx.latch .mxB).val.toNat
    let a := d.val.toNat
    r.val.toNat < 32 → d.tag = 0 → d.p = false → (s1.ctx.latch .mxB).p = false → a % 128 = 0 → pitch % 128 = 0 → 256 ≤ pitch →
    (∀ i < 64, s1.checkLocal s1.myCk (decide (s1.mode s1.cur = .user)) (a + i * pitch) 256 = .ok (.tile s1.myCk (a + i * pitch))) →
    Starts s1 s2 → WindowFree s2 1 → (s2.core s2.myCk).ranges.length < 32 →
    let s3 := s2.updCore s2.myCk fun c => { c with ranges := c.ranges ++
      [{ lo := a / 128, hi := (a + 63 * pitch + 255) / 128, owner := 2 ^ 40 + s2.me.seq * 16 + strandNo s2.cur }] }
    exec (.mxDrain h la c) s = .next (((((s3.asEffect.consumeAll [.mxA, .mxB]).launchVar .mx la .command 0 0 true false []).defer
      (.mx s2.me.seq (.drain (Fin.ofNat 16 r.val.toNat) (r.val.getLsbD 4) (localFlat s2.myCk a) pitch))).countDown).close)) ∧
  (∀ h la c s s1 r, guardTrue s.ctx h.guard = true → ReadsC s c r s1 → Leased s1 →
    let n := (s1.ctx.latch .mxA).val.toNat
    r.val.toNat < 512 → n < 8 → PoolFree s1 [Fin.ofNat 8 n] →
    let s0 := saved s1 [Fin.ofNat 8 n]
    let s2 := ((s0.consumeAll [.mxA, .mxB]).launchVar .mx la .command 0 0 false true []).countDown
    let cmd := MxCmd.drainv (Fin.ofNat 16 r.val.toNat) (Fin.ofNat 32 (r.val.toNat / 16)) (Fin.ofNat 8 n)
    let s3 := s2.updGroup (gkOf s0.myCk) fun g =>
      { g with arriving := g.arriving ++ [{ sid := s0.cur, seq := s0.me.seq, cmd := cmd }], data := { g.data with leaseLeft := g.data.leaseLeft - 1 } }
    exec (.mxDrainv h la c) s = .next ((s3.updMe fun x => { x with chunk := { x.chunk with drainvs := x.chunk.drainvs + 1 } }).pushOnce
      (.mxCommandAccept (gkOf s0.myCk))))

/-- For the 14 atomics and the 4 reductions: where the guard holds, the source delivers an unpoisoned pointer of a class
other than 4, 5 and 0x7F, the effect may start, the naturally aligned access of 4 or 8 bytes reaches the core's own
store, a result window is free (not asked of a reduction) and the task holds no set, exec answers the next state in
which the location, read as one little-endian number m, has been replaced by the value of Table 9-4 (cas64 by ls.d only
where m is at.o), marked as R227 says, at.o (for cas64 ls.d too) is consumed, and at.r is in flight with the old
content, sign-extended for add32, min32 and max32; a reduction writes no result. A poisoned old content marks at.r and
sets the pending error. -/
def Obligations.LocalAtomicResults : Prop :=
  let atomic := fun (C : Hdr → BitVec 4 → CSrc → Instr) (n : Nat) (red : Bool) (new : Nat → BitVec 64 → BitVec 64 → Option Nat)
      (result : Nat → BitVec 64) (mark : Reg → Reg → Bool → Bool) (ls : List Latch) =>
    ∀ h la c s s1 s2 s3 a flat rest, guardTrue s.ctx h.guard = true → ReadsC s c a s1 → Starts s1 s2 → a.p = false →
      classOf a.v ≠ 4 → classOf a.v ≠ 5 → classOf a.v ≠ 0x7F → Reaches s2 a n n true false ((flat, n) :: rest) s3 →
      (red = false → WindowFree s3 1) → s3.heldSets s3.cur = 0 → isLocalFlat flat = true → ckOfFlat flat = s3.myCk →
      let o := s1.ctx.latch .atO
      let x := s1.ctx.latch .lsD
      let t := s3.sense (some s3.myCk) (flat / 128)
      let m := t.load flat n
      let p := t.marked flat
      let s4 := match new m o.val x.val with
        | some v => t.placeNum (some t.cur) flat n v (mark o x p)
        | none => t
      exec (C h la c) s = .next (((s4.asEffect.launchVar .at la .none 0 0 (!red) false
        (if red then [] else .latch .atR (mk0 (result m) p) :: if p then [.pe t.ctx.pc a.v] else [])).push
        (.variableResultLand t.cur t.me.seq)).consumeAll ls)
  let both := fun (o _ : Reg) (p : Bool) => o.p || p
  let sext := fun m => (BitVec.ofNat 32 m).signExtend 64
  let zext := fun m => BitVec.ofNat 64 m
  let lo := fun (o : BitVec 64) => o.toNat % 2 ^ 32
  let signed := fun m => (BitVec.ofNat 32 m).toInt
  let add32 := fun m (o _ : BitVec 64) => some ((m + lo o) % 2 ^ 32)
  let add64 := fun m (o _ : BitVec 64) => some ((m + o.toNat) % 2 ^ 64)
  let fadd32 := fun m (o _ : BitVec 64) => some (fAdd fp32 0 0 (fp32.decode m) (fp32.decode (lo o))).bits
  let fadd16 := fun m (o _ : BitVec 64) => some (fAdd fp32 0 0 (fp32.decode m) (bf16.decode (o.toNat % 2 ^ 16))).bits
  atomic .atAdd32 4 false add32 sext both [.atO] ∧
  atomic .atAdd64 8 false add64 zext both [.atO] ∧
  atomic .atFadd32 4 false fadd32 zext both [.atO] ∧
  atomic .atFadd16b 4 false fadd16 zext both [.atO] ∧
  atomic .atMin32 4 false (fun m o _ => some (if signed m ≤ signed (lo o) then m else lo o)) sext both [.atO] ∧
  atomic .atMax32 4 false (fun m o _ => some (if signed (lo o) ≤ signed m then m else lo o)) sext both [.atO] ∧
  atomic .atMinu32 4 false (fun m o _ => some (min m (lo o))) zext both [.atO] ∧
  atomic .atMaxu32 4 false (fun m o _ => some (max m (lo o))) zext both [.atO] ∧
  atomic .atAnd64 8 false (fun m o _ => some (m &&& o.toNat)) zext both [.atO] ∧
  atomic .atOr64 8 false (fun m o _ => some (m ||| o.toNat)) zext both [.atO] ∧
  atomic .atXor64 8 false (fun m o _ => some (m ^^^ o.toNat)) zext both [.atO] ∧
  atomic .atSwp64 8 false (fun _ o _ => some o.toNat) zext (fun o _ _ => o.p) [.atO] ∧
  atomic .atCas64 8 false (fun m o x => if m = o.toNat then some x.toNat else none) zext (fun _ x _ => x.p) [.atO, .lsD] ∧
  atomic .atFinc 8 false (fun m _ _ => some ((m + 1) % 2 ^ 64)) zext (fun _ _ p => p) [.atO] ∧
  atomic .atRedAdd32 4 true add32 sext both [.atO] ∧
  atomic .atRedAdd64 8 true add64 zext both [.atO] ∧
  atomic .atRedFadd32 4 true fadd32 zext both [.atO] ∧
  atomic .atRedFadd16b 4 true fadd16 zext both [.atO]

/-- Where the guard holds and the source delivers the base: at.aset of a poisoned base faults poison; of a length 0 or above
2^20, or of a set that is held, faults set operation; a class other than 0 to 3 or a qualifier other than 0 faults
window; a byte at or past its window's limit (for class 0, past 2^20) faults window; a strand with no task faults no
task; otherwise the set is declared with its base and length and at.o is consumed. at.tok in user mode faults privilege;
where the task holds no set, the effect may start and a result window is free, it consumes at.o and waits for the
stash's answer. -/
def Obligations.SetDeclarationAndTokenResults : Prop :=
  (∀ h (n : Fin 8) c s s1 a, guardTrue s.ctx h.guard = true → ReadsC s c a s1 →
    let len := (s1.ctx.latch .atO).val.toNat
    let lenOk := 1 ≤ len ∧ len ≤ 2 ^ 20 ∧ (s1.heldSets s1.cur).testBit n.val = false
    let clsOk := classOf a.v ≤ 3 ∧ qualOf a.v = 0
    (a.p = true → exec (.atAset h n c) s = .next (s1.faultPoison a.v)) ∧
    (a.p = false → ¬ lenOk → exec (.atAset h n c) s = .next (s1.faultAddr causeSetOp a.v)) ∧
    (a.p = false → lenOk → ¬ clsOk → exec (.atAset h n c) s = .next (s1.faultAddr causeWindow a.v)) ∧
    (classOf a.v = 0 → s1.pastLimit a.v len = decide (2 ^ 20 < offOf a.v + len)) ∧
    (a.p = false → lenOk → clsOk → s1.pastLimit a.v len = true → exec (.atAset h n c) s = .next (s1.faultAddr causeWindow a.v)) ∧
    (a.p = false → lenOk → clsOk → s1.pastLimit a.v len = false →
      (s1.me.task = none → exec (.atAset h n c) s = .next (s1.faultAddr causeNoTask a.v)) ∧
      (s1.me.task ≠ none → exec (.atAset h n c) s = .next ((s1.updMe fun x =>
        { x with sets := x.sets.set n (some { base := a.v, len := len }) }).consume .atO)))) ∧
  (∀ h la s s1, guardTrue s.ctx h.guard = true →
    (s.mode s.cur = .user → exec (.atTok h la) s = .next (s.faultWord causePrivilege)) ∧
    (s.mode s.cur ≠ .user → s.heldSets s.cur = 0 → Starts s s1 → WindowFree s1 1 →
      exec (.atTok h la) s = .next (((s1.asWaiting.consume .atO).launchVar .at la .token s1.me.ceiling 6 true false []).push
        (.variableResultLand s1.cur s1.me.seq))))

namespace Sys2Proof.Claims

open Sys2Proof.Machine

/-- The strand may send a remote effect message: it has a token, and room in its window of serials (R219, R233). -/
def MaySend (s : State) : Prop := s.me.tok ≠ 0 ∧ s.me.distance < 2 ^ 31 - 2 ^ 16 ∧ s.me.outstanding < 2 ^ 16

/-- A remote effect message of the executing word set out, its window open under its lookahead (R207, R232). -/
def sent (u : FUnit) (la : BitVec 4) (pend : Pend) (port : Bool) (w : Owner) (op : RemoteOp) (s : State) : State :=
  (s.asEffect.launchVar u la pend 0 0 port false []).sendRemote s.cur w op s.me.seq s.ctx.pc s.second

end Sys2Proof.Claims

/-- For ce.copy, copy2d, mcast, redb, redf, copyq and copyb in each of the 4 classes: where the guard holds, the effect may
start, the operands pass the checks of R237 with some runs and targets and touch no declared set, and the task holds no
set: with fewer than 16 commands in the FIFO, fewer than 16 unpopped of the strand's and room for its ranges among 32,
exec answers the next state in which the command stands last in the FIFO under the next command number, with the five
operands, the strand's next count, its runs and targets; its ranges are held; the engine will look at it; the five
operand latches are consumed. Without room the bundle is held, waiting for the engine, or for the scoreboard where only
its ranges find no place (R192). An operand that fails a check faults with its cause, or poison. -/
def Obligations.EnginePushesAccepted : Prop :=
  let push := fun (C : Hdr → Fin 4 → Instr) (op : Nat) =>
    ∀ h (q : Fin 4) s s1, guardTrue s.ctx h.guard = true → Starts s s1 →
      let a : CeArgs := { op := op, prio := q.val, s := s.ctx.latch .ceS, d := s.ctx.latch .ceD, n := s.ctx.latch .ceN,
                          b := s.ctx.latch .ceB, m := s.ctx.latch .ceM }
      (∀ cause p, s1.cePlan a = .bad cause p →
        exec (C h q) s = .next (if cause = causePoison then s1.faultPoison p else s1.faultAddr cause p)) ∧
      (∀ runs ts, s1.cePlan a = .ok runs ts → s1.ceSetBad op runs ts = false → s1.heldSets s1.cur = 0 →
        let c := s1.core s1.myCk
        let rs := s1.ceRanges op c.nextCmd runs ts
        let room := c.fifo.length < 16 ∧ s1.me.ceOut.length + s1.me.ceDone.length < 16 ∧ c.ranges.length + rs.length ≤ 32
        let cmd : CeCmd := { id := c.nextCmd, sid := s1.cur, num := s1.me.ceCount + 1, op := op, prio := q.val, s := a.s.v, d := a.d.v,
                             n := a.n.v, b := a.b.v, m := a.m.v, mMark := a.m.p, runs := runs, targets := ts, started := false,
                             total := 0, next := 0, acked := [], outstanding := [], cause := 0, poisoned := false,
                             messaged := false, server := false, buf := [], pushSn := none }
        let s2 := s1.updCore s1.myCk fun c => { c with fifo := c.fifo ++ [cmd], nextCmd := c.nextCmd + 1, ranges := c.ranges ++ rs }
        let s3 := s2.updMe fun x => { x with ceCount := x.ceCount + 1, ceOut := x.ceOut ++ [cmd.id] }.stepped 1 (x.ceCount + 1)
        (room → exec (C h q) s = .next ((s3.pushOnce (.ceCommandStart s2.myCk)).consumeAll [.ceS, .ceD, .ceN, .ceB, .ceM])) ∧
        (¬ room →
          let full := ¬ (c.fifo.length < 16 ∧ s1.me.ceOut.length + s1.me.ceDone.length < 16)
          exec (C h q) s = .next (s1.hold .stalledLA (if full then .engine else .scoreboard) s1.me.ceiling)))
  push .ceCopy 0 ∧ push .ceCopy2d 1 ∧ push .ceMcast 2 ∧ push .ceRedb 3 ∧ push .ceRedf 4 ∧ push .ceCopyq 5 ∧ push .ceCopyb 6

/-- Where the guard holds, the source delivers an unpoisoned handle of a queue of the partition, the effect may start, two
result windows are free and the task holds no set: sq.push (to inbox 15 only from a supervisor strand) of a queue at the
strand's own core pushes Val(sq.d) with its mark and puts sq.st in flight (with sq.r zero where the queue was full);
sq.pop takes and sq.peek reads its head (an inbox only of the strand's own core) and puts sq.r and sq.st in flight. A
pop of a stage queue outside user mode claims the record that sq.d names, which must be free; the claim ends unless the
pop adopts a task into it. A queue elsewhere gets the operation as a remote effect message, where the strand may send
one. Both sq latches are consumed. The model's own readings: a peek that adopts takes its element (log 51), an accepted
push leaves sq.r alone (log 52), and windows end in turn (log 67). -/
def Obligations.QueuePushAndPopResults : Prop :=
  let at_ := fun (s : State) (a : Reg) (ck q i : Nat) => a.p = false ∧ s.queueHandle (pidOf s.myCk) a.v = some (ck, q, i)
  (∀ h la c s s1 s2 a ck q i, guardTrue s.ctx h.guard = true → ReadsC s c a s1 → Starts s1 s2 → at_ s2 a ck q i →
    ¬ (q = 1 ∧ i = 15 ∧ s2.mode s2.cur ≠ .supervisor) → s2.heldSets s2.cur = 0 → WindowFree s2 2 →
    let d := s2.ctx.latch .sqD
    (s2.queueLocal ck q i = true →
      let r := s2.pushAt ck q i d.val d.p
      exec (.sqPush h la c) s = .next (r.2.sqLocal la true
        ((if r.1.code = qFull then [.latch .sqR (mk0 0 false)] else []) ++ [.sqSt (queueStatus r.1.code (replyOcc r.1) 0)]))) ∧
    (s2.queueLocal ck q i = false → MaySend s2 →
      exec (.sqPush h la c) s = .next ((sent .sq la .remote true (s2.queueOwner ck q i) (.push ck q i d.val d.p) s2).consumeAll [.sqD, .sqH]))) ∧
  (∀ (take : Bool) h la c s s1 s2 a ck q i, guardTrue s.ctx h.guard = true → ReadsC s c a s1 → Starts s1 s2 → at_ s2 a ck q i →
    (q = 1 → ck = s2.myCk) → s2.heldSets s2.cur = 0 → WindowFree s2 2 → (s2.queueLocal ck q i = false → MaySend s2) →
    let I : Instr := if take then .sqPop h la c else .sqPeek h la c
    let user := decide (s2.mode s2.cur = .user)
    let done := fun (s3 : State) (claim : Option (Nat × Nat)) =>
      if s2.queueLocal ck q i then
        let r := s3.popAt ck q i take user claim
        let s4 := if r.1.code < 8 then r.2.lapse s2.myCk (claim.map Prod.snd) else r.2
        s4.sqLocal la true [.latch .sqR (mk0 r.1.value r.1.mark), .sqSt (queueStatus (r.1.code % 8) (replyOcc r.1) (replyKind r.1))]
      else (sent .sq la .remote true (s3.queueOwner ck q i) (.pop ck q i take user claim) s3).consumeAll [.sqD, .sqH]
    (q = 1 ∨ user = true → exec I s = .next (done s2 none)) ∧
    (q ≠ 1 → user = false →
      let j := (s2.ctx.latch .sqD).val.toNat
      (s2.me.ownClaim s2.myCk j = true → exec I s = .next (done s2 (some (s2.myCk, j)))) ∧
      (s2.me.ownClaim s2.myCk j = false →
        (j < (s2.partOf s2.myCk).t → s2.recOpen s2.myCk j = true →
          exec I s = .next (done (s2.updCore s2.myCk fun c => { c with claims := c.claims ++ [j] }) (some (s2.myCk, j)))) ∧
        ((s2.partOf s2.myCk).t ≤ j ∨ s2.recOpen s2.myCk j = false →
          exec I s = .next (s2.faultAddr causeTask (s2.ctx.latch .sqD).v)))))

/-- Where the guard holds, the effect may start, sq.h is an unpoisoned handle of a queue of the partition that the operation
may name, the task holds no set and two result windows are free (one for pushw): the strand waits with the bound n × 256
cycles, or its ceiling when n is 0 or the bound is above it; both sq latches are consumed. A popw of a stage queue
outside user mode names a record in sq.d: one that an earlier issue of the strand claimed, or one below T that is open,
which is claimed; any other faults task. For a queue of its own core the strand joins the queue's waiters, oldest first,
and looks at once. For a queue elsewhere, where it may send, one try is sent; the request of an earlier issue of the
same try that is still outstanding is taken over instead, and an answer to the same try that has come already completes
the wait at once. -/
def Obligations.QueueWaitResults : Prop :=
  ∀ (push : Bool) h la (n : BitVec 10) s s1 ck q i, guardTrue s.ctx h.guard = true → Starts s s1 →
    let hd := s1.ctx.latch .sqH
    let d := s1.ctx.latch .sqD
    let user := decide (s1.mode s1.cur = .user)
    hd.p = false → s1.queueHandle (pidOf s1.myCk) hd.v = some (ck, q, i) →
    (if push then ¬ (q = 1 ∧ i = 15 ∧ s1.mode s1.cur ≠ .supervisor) else (q = 1 → ck = s1.myCk)) →
    s1.heldSets s1.cur = 0 → WindowFree s1 (if push then 1 else 2) → (s1.queueLocal ck q i = false → MaySend s1) →
    let lim := if n = 0 then s1.me.ceiling else min (n.toNat * 256) s1.me.ceiling
    let I : Instr := if push then .sqPushw h la n else .sqPopw h la n
    let waits := fun (claim : Option Nat) (s0 : State) =>
      let s2 := (s0.asWaiting.launchVar .sq la (.queue push hd.v d.val d.p user claim) lim 12 true false []).consumeAll [.sqD, .sqH]
      let op : RemoteOp := if push then .push ck q i d.val d.p else .pop ck q i true user (claim.map fun j => (s1.myCk, j))
      let try_ := fun (s2 : State) => s2.sendRemote s1.cur (s1.queueOwner ck q i) op s1.me.seq s1.ctx.pc s1.second
      (s1.queueLocal ck q i = true → exec I s = .next ((s2.joinWaiters ck q i s1.cur).push (.variableResultLand s1.cur s1.me.seq))) ∧
      (s1.queueLocal ck q i = false →
        (s1.me.tryReply = none → s1.me.orphan op = none → exec I s = .next (try_ (s2.updMe fun x => { x with queueSeen := (0, 0) }))) ∧
        (∀ old, s1.me.tryReply = none → s1.me.orphan op = some old → exec I s = .next (s2.updMe fun x => x.adoptReq old.seq)) ∧
        (∀ r, s1.me.tryReply = some (op, r) →
          exec I s = .next ((s2.updMe fun x => { x with tryReply := none }).arrive s1.cur s1.me.seq (queueWrites r push))) ∧
        (∀ o r, s1.me.tryReply = some (o, r) → o ≠ op → exec I s = .next (try_ s2)))
    (push = true ∨ q = 1 ∨ user = true → waits none s1) ∧
    (push = false → q ≠ 1 → user = false →
      let j := d.val.toNat
      (s1.me.ownClaim s1.myCk j = true → waits (some j) s1) ∧
      (s1.me.ownClaim s1.myCk j = false → j < (s1.partOf s1.myCk).t → s1.recOpen s1.myCk j = true →
        waits (some j) (s1.updCore s1.myCk fun c => { c with claims := c.claims ++ [j] })) ∧
      (s1.me.ownClaim s1.myCk j = false → (s1.partOf s1.myCk).t ≤ j ∨ s1.recOpen s1.myCk j = false → exec I s = .next (s1.faultAddr causeTask d.v)))

/-- In user mode the three words fault privilege. Elsewhere, where the guard holds and the effect may start: sq.rqpush of a
record index that is unpoisoned, below T, in state SAVED or READY and not queued sets the record's priority and state
READY and appends it to that priority, and otherwise faults task (poison if poisoned); sq.rqpop, with a free result
window, takes the head of the highest priority that is not empty and puts priority × 2^16 + index in flight to sq.r, or
2^63 when every queue is empty or the core is drained; sq.rqprio of an index below T with Val(sq.d) below 4 changes the
record's priority and moves it to that priority's tail if it is queued. That a poisoned index faults poison is the
model's reading (log 75). -/
def Obligations.ReadyQueueResults : Prop :=
  (∀ h la (n : Fin 4) c s, guardTrue s.ctx h.guard = true → s.mode s.cur = .user →
    exec (.sqRqpush h la n c) s = .next (s.faultWord causePrivilege) ∧ exec (.sqRqpop h la) s = .next (s.faultWord causePrivilege) ∧
    exec (.sqRqprio h la c) s = .next (s.faultWord causePrivilege)) ∧
  (∀ h la (n : Fin 4) c s s1 s2 a, guardTrue s.ctx h.guard = true → s.mode s.cur ≠ .user → ReadsC s c a s1 → Starts s1 s2 →
    let i := a.val.toNat
    let may := i < (s2.partOf s2.myCk).t ∧ (s2.recState s2.myCk i = recSaved ∨ s2.recState s2.myCk i = recReady) ∧
      (s2.core s2.myCk).rqHas i = false
    (a.p = true → exec (.sqRqpush h la n c) s = .next (s2.faultPoison a.v)) ∧
    (a.p = false → ¬ may → exec (.sqRqpush h la n c) s = .next (s2.faultAddr causeTask a.v)) ∧
    (a.p = false → may →
      exec (.sqRqpush h la n c) s = .next (((s2.setRec s2.myCk i 26 1 (n.val * 16 + recReady)).rqPush s2.myCk i n.val).sqLocal la false []))) ∧
  (∀ h la s s1, guardTrue s.ctx h.guard = true → s.mode s.cur ≠ .user → Starts s s1 → WindowFree s1 1 →
    let c := s1.core s1.myCk
    ((c.drained = true ∨ ∀ p < 4, c.rq.toList.getD p [] = []) →
      exec (.sqRqpop h la) s = .next (s1.sqLocal la true [.latch .sqR (mk0 (BitVec.ofNat 64 (2 ^ 63)) false)])) ∧
    (∀ p i rest, c.drained = false → p < 4 → c.rq.toList.getD p [] = i :: rest → (∀ p', p < p' → p' < 4 → c.rq.toList.getD p' [] = []) →
      exec (.sqRqpop h la) s = .next (((s1.updCore s1.myCk fun c => c.rqDrop p).pokePool (gkOf s1.myCk)).sqLocal la true
        [.latch .sqR (mk0 (BitVec.ofNat 64 (p * 2 ^ 16 + i)) false)]))) ∧
  (∀ h la c s s1 s2 a, guardTrue s.ctx h.guard = true → s.mode s.cur ≠ .user → ReadsC s c a s1 → Starts s1 s2 →
    let i := a.val.toNat
    let p := (s2.ctx.latch .sqD).val.toNat
    (a.p = true → exec (.sqRqprio h la c) s = .next (s2.faultPoison a.v)) ∧
    (a.p = false → (s2.partOf s2.myCk).t ≤ i → exec (.sqRqprio h la c) s = .next (s2.faultAddr causeTask a.v)) ∧
    (a.p = false → i < (s2.partOf s2.myCk).t → 4 ≤ p → exec (.sqRqprio h la c) s = .next (s2.faultAddr causeTask (s2.ctx.latch .sqD).v)) ∧
    (a.p = false → i < (s2.partOf s2.myCk).t → p < 4 →
      let s3 := s2.setRecPrio s2.myCk i p
      exec (.sqRqprio h la c) s = .next ((if (s3.core s3.myCk).rqHas i then s3.updCore s3.myCk fun c => c.rqMove i p else s3).sqLocal la false [])))

/-- Where the guard holds: sq.spawn of a 64-byte header that reaches memory unpoisoned and is legal, with a free result
window, no held set and the right to send, sends it to the distributor of the strand's region and consumes the sq
latches. sq.dec of an unpoisoned task handle sends a decrement of that record, inside the core without an identity.
sq.done of a strand without a task faults no task; with one not yet ending, once the strand is quiet with an empty open
chunk, no pending error, no command at the engine and no failed one uncollected, the record is ENDING, and if nothing is
deferred and nothing outstanding the task is finished and the strand does not go on. While the task holds a set,
sq.spawn and sq.dec are deferred: with NDEF below DCAP the word, its source and sq.d and sq.h are written as deferred
entry NDEF of the undo log (Table 11-7), NDEF counts up and the latches are consumed, with nothing sent; with NDEF at
DCAP they fault undo overflow. That the marks of the operands stand beside the entry is the model's choice (log 93). -/
def Obligations.SpawnDecDoneResults : Prop :=
  (∀ h la c s s1 s2 s3 a ps, guardTrue s.ctx h.guard = true → ReadsC s c a s1 → Starts s1 s2 →
    a.p = false → (classOf a.v = 0 ∨ (classOf a.v = 1 ∧ qualOf a.v = 0) ∨ classOf a.v = 2 ∨ classOf a.v = 3) →
    ReachesHeader s2 a ps s3 →
    let r := s3.readPieces ps
    r.2.1 = false → s3.hdrOk (pidOf s3.myCk) r.1 (s3.gxOf s3.myCk) (s3.gyOf s3.myCk) (seatOf s3.myCk) = true →
    let s4 := r.2.2
    s4.heldSets s4.cur = 0 → WindowFree s4 1 → MaySend s4 →
    exec (.sqSpawn h la c) s = .next ((sent .sq la .remote true (.group (gkOf (s4.supCore (pidOf s4.myCk) (s4.rkOf s4.myCk))))
      (.spawn r.1 s4.myCk) s4).consumeAll [.sqD, .sqH])) ∧
  (∀ h la c s s1 s2 a ck i, guardTrue s.ctx h.guard = true → ReadsC s c a s1 → Starts s1 s2 → a.p = false →
    s2.taskHandle (pidOf s2.myCk) a.v = some (ck, i) → s2.heldSets s2.cur = 0 →
    (ck = s2.myCk → exec (.sqDec h la c) s = .next (((s2.asEffect.launchVar .sq la .remote 0 0 false false []).sendLocal s2.cur
      (.dec ck i) s2.me.seq s2.ctx.pc s2.second).consumeAll [.sqD, .sqH])) ∧
    (ck ≠ s2.myCk → MaySend s2 → exec (.sqDec h la c) s = .next ((sent .sq la .remote false (.group (gkOf ck)) (.dec ck i) s2).consumeAll [.sqD, .sqH]))) ∧
  (
    let deferred := fun (I : Instr) (a : Reg) (s s2 s3 : State) => s2.heldSets s2.cur ≠ 0 → s2.me.task ≠ none → Starts s2 s3 →
      ∀ i, s2.me.task = some i →
        let u := s3.undoAt s3.myCk i
        let ndef := s3.load (localFlat s3.myCk (64 * i + 30)) 2
        let e := u + 64 + 144 * s3.load (u + 4) 4 + 96 * ndef
        let d := s3.ctx.latch .sqD
        let hd := s3.ctx.latch .sqH
        let entry := leBytes 4 s3.word.toNat ++ List.replicate 12 0 ++ addrBytes a.v ++ addrBytes d.v ++ addrBytes hd.v ++ List.replicate 50 0
        let s4 := s3.place none { addr := e, data := entry, mark := false }
        (s3.load (u + 8) 4 ≤ ndef → exec I s = .next (s3.faultAddr causeUndo a.v)) ∧
        (ndef < s3.load (u + 8) 4 → exec I s = .next
          ((({ s4 with deferMarks := noteMarks s4.deferMarks (e + 16) [a.p, d.p, hd.p] }).placeNum none (localFlat s3.myCk (64 * i + 30)) 2 (ndef + 1)
            false).consumeAll [.sqD, .sqH]))
    (∀ h la c s s1 s2 s3 s5 a ps, guardTrue s.ctx h.guard = true → ReadsC s c a s1 → Starts s1 s2 →
      a.p = false → (classOf a.v = 0 ∨ (classOf a.v = 1 ∧ qualOf a.v = 0) ∨ classOf a.v = 2 ∨ classOf a.v = 3) → ReachesHeader s2 a ps s3 →
      let r := s3.readPieces ps
      r.2.1 = false → s3.hdrOk (pidOf s3.myCk) r.1 (s3.gxOf s3.myCk) (s3.gyOf s3.myCk) (seatOf s3.myCk) = true →
      deferred (.sqSpawn h la c) a s r.2.2 s5) ∧
    (∀ h la c s s1 s2 s3 a ck i, guardTrue s.ctx h.guard = true → ReadsC s c a s1 → Starts s1 s2 → a.p = false →
      s2.taskHandle (pidOf s2.myCk) a.v = some (ck, i) → deferred (.sqDec h la c) a s s2 s3)) ∧
  (∀ h s, guardTrue s.ctx h.guard = true →
    (s.me.task = none → exec (.sqDone h) s = .next (s.faultAddr causeNoTask 0)) ∧
    (∀ i, s.me.task = some i → s.recState s.myCk i ≠ recEnding → s.me.chunk.len = 0 → s.me.quiet = true → s.ctx.pe.set = false →
      s.me.ceOut = [] → (∀ e ∈ s.me.ceDone, bitsAt e.1 23 16 = 0) →
      let s1 := (s.setRecState s.myCk i recEnding).updMe fun x => { x with donePhase := 0 }
      s1.me.effect = none → s1.me.reqs = [] → s1.recField s1.myCk i 30 2 = 0 → s1.me.ceOut = [] →
      exec (.sqDone h) s = .next { s1.finishTask s1.cur i with held := true }))

/-- Where the guard holds, the source delivers an unpoisoned handle of barrier i of core ck, and the effect may start:
sy.binit of the own core arms it with the counts and auto bit of sy.a where R272 permits, and faults barrier otherwise;
sy.inval resets it. sy.arrive and sy.arrivb count one arrival, and the bytes of sy.b (below 2^32), at the own core at
once with its status in flight to sy.r, elsewhere by a message. sy.test puts p1 and the status in flight; sy.wait waits
for phase sy.b with the bound of sy.l. sy.mon of a byte of memory arms that slot on its line; sy.unmon clears the slots
of its mask; sy.mwait waits with the bound of sy.l. Every word consumes sy.a, sy.b and sy.l. Result windows are free and
the task holds no set where the word needs it. Where the guard holds, the effect may start, the task holds no set and
(for vx.xchg) no prefix field is set and the shadow pool has room: the strand joins the strands of its number in the
group. sy.gbar consumes the sy latches and waits; vx.xchg waits and its chunk ends with this bundle. While fewer than
four have joined, the group remembers them. The fourth removes the entry and completes all: every waiting gbar result
arrives, or each participant's destination gets slice j from seat j. -/
def Obligations.BarrierMonitorAndJoinResults : Prop :=
  (
    let at_ := fun (s : State) (a : Reg) (ck i : Nat) => a.p = false ∧ s.barrierHandle (pidOf s.myCk) a.v = some (ck, i)
    let all : List Latch := [.syA, .syB, .syL]
    let bound := fun (s : State) => if (s.ctx.latch .syL).val.toNat = 0 then s.me.ceiling else min ((s.ctx.latch .syL).val.toNat * 256) s.me.ceiling
    (∀ h la c s s1 s2 a ck i, guardTrue s.ctx h.guard = true → ReadsC s c a s1 → Starts s1 s2 → at_ s2 a ck i →
      let w := (s2.ctx.latch .syA).val
      let b := s2.barrier ck i
      let may := ¬ (b.st = .armed ∧ (b.arrA ≠ 0 ∨ b.arrB ≠ 0)) ∧ bitsAt w 47 0 ≠ 0 ∧ bitsAt w 63 49 = 0
      let p := (s2.ctx.latch .syB).val
      let n := p.toNat
      let armed : Barrier := { b with expA := BitVec.ofNat 16 w.toNat, expB := BitVec.ofNat 32 (bitsAt w 47 16), auto := w.getLsbD 48,
                                      arrA := 0, arrB := 0, cause := 0, st := .armed }
      let counted := fun (m : Nat) =>
        let s3 := s2.countBarrier ck i 1 m
        s3.syLocal la true [.latch .syR (mk0 (s3.barrier ck i).status false)]
      (ck = s2.myCk →
        (may → exec (.syBinit h la c) s = .next ((s2.putBarrier ck i armed).syLocal la false [])) ∧
        (¬ may → exec (.syBinit h la c) s = .next (s2.faultAddr causeBarrier a.v)) ∧
        exec (.syInval h la c) s = .next ((s2.putBarrier ck i { b with st := .uninit, arrA := 0, arrB := 0, cause := 0 }).syLocal la false []) ∧
        (WindowFree s2 1 → exec (.syArrive h la c) s = .next (counted 0) ∧ (n < 2 ^ 32 → exec (.syArrivb h la c) s = .next (counted n))) ∧
        (2 ≤ n → exec (.syTest h la c) s = .next (s2.faultAddr causeBarrier a.v)) ∧
        (n < 2 → WindowFree s2 1 →
          exec (.syTest h la c) s = .next (s2.syLocal la true
            [.pbit 1 (b.phase != p.getLsbD 0 && !decide (b.st = .poison)), .latch .syR (mk0 b.status false)]) ∧
          (s2.heldSets s2.cur = 0 → exec (.syWait h la c) s = .next (((s2.asWaiting.launchVar .sy la (.barrier a.v i (p.getLsbD 0)) (bound s2) 9
            true false []).consumeAll all).push (.variableResultLand s2.cur s2.me.seq))))) ∧
      (ck ≠ s2.myCk →
        exec (.syBinit h la c) s = .next (s2.faultAddr causeBarrier a.v) ∧
        (s2.heldSets s2.cur = 0 → WindowFree s2 1 → MaySend s2 →
          exec (.syArrive h la c) s = .next ((sent .sy la .remote true (.group (gkOf ck)) (.arrive ck i none) s2).consumeAll all) ∧
          (n < 2 ^ 32 → exec (.syArrivb h la c) s =
            .next ((sent .sy la .remote true (.group (gkOf ck)) (.arrive ck i (some n)) s2).consumeAll all))))) ∧
    (∀ h la (n : Fin 4) c s s1 s2 a p f m rest s3, guardTrue s.ctx h.guard = true → ReadsC s c a s1 → Starts s1 s2 →
      a.p = false → classOf a.v ≤ 3 → qualOf a.v = 0 → s2.checkAccess s2.myCk (s2.mode s2.cur) a.v 1 1 = .ok p →
      s2.resolve s2.myCk 1 false p = (.mem ((f, m) :: rest), s3) →
      exec (.syMon h la n c) s = .next ((s3.updMe fun x =>
        { x with mons := x.mons.set n { line := f / 128, ptr := a.v, armed := true, fired := false } }).syLocal la false [])) ∧
    (∀ h la (mk : BitVec 4) s s1, guardTrue s.ctx h.guard = true → Starts s s1 →
      exec (.syUnmon h la mk) s = .next ((s1.updMe fun x =>
        { x with mons := x.mons.mapIdx fun j m => if mk.getLsbD j then Monitor.off else m }).syLocal la false []) ∧
      (s1.heldSets s1.cur = 0 → WindowFree s1 1 →
        exec (.syMwait h la) s = .next ((((s1.asWaiting.launchVar .sy la .monitor (bound s1) 10 true false []).consumeAll all).updMe fun x =>
          { x with syl := (s1.ctx.latch .syL).val.toNat }).push (.variableResultLand s1.cur s1.me.seq))))) ∧
  (∀ h la s s1, guardTrue s.ctx h.guard = true → Starts s s1 → s1.heldSets s1.cur = 0 →
    let gk := gkOf s1.myCk
    let n := strandNo s1.cur
    let joined := insertNat (((s1.group gk).data.gbar.find n).getD []) s1.cur
    let s2 := (s1.asWaiting.launchVar .sy la .gbar s1.me.ceiling 11 false false []).consumeAll [.syA, .syB, .syL]
    (joined.length ≠ 4 → exec (.syGbar h la) s = .next (s2.updData gk fun g => { g with gbar := Store.put g.gbar n joined })) ∧
    (joined.length = 4 → exec (.syGbar h la) s = .next ((s2.gbarFlights joined).foldl (fun s p => s.arrive p.1 p.2 [])
      (s2.updData gk fun g => { g with gbar := Store.del g.gbar n })))) ∧
  (∀ h (d o : Fin 8) s s1,
    (prefixSets (activePrefix s) = true → exec (.vxXchg h d o) s = .next (s.faultWord causeIllegal)) ∧
    (prefixSets (activePrefix s) = false → guardTrue s.ctx h.guard = true → Starts s s1 → s1.heldSets s1.cur = 0 → PoolFree s1 [d] →
      let s2 := saved s1 [d]
      let gk := gkOf s2.myCk
      let n := strandNo s2.cur
      let joined := insertNat (((s2.group gk).data.xchg.find n).getD []) s2.cur
      let s3 := (s2.asWaiting.launch .vx 1 false (.xchg d s2.ctx.v[o]) s2.me.ceiling 2 []).updMe fun x => { x with closes := true }
      (joined.length ≠ 4 → exec (.vxXchg h d o) s = .next (s3.updData gk fun g => { g with xchg := Store.put g.xchg n joined })) ∧
      (joined.length = 4 → exec (.vxXchg h d o) s = .next (s3.completeExchange gk n joined))))

/-- Where the guard holds: br and call with an immediate go to pc + d, in pairs and modulo 2^64; with a port to its
unpoisoned value (a port that is itself an immediate is a displacement); jmp to pc + Val. call also writes pc + 1 with
tag 0 to g22. ret goes to Val(g22), faults misaligned if g22 has a tag, and poison if it is poisoned. A poisoned target
faults poison. nop leaves the state as it is; ipf only asks for the cache lines of its la + 1 pairs that the group's
cache does not hold (of an engine completion as its target it asks nothing: a hint pops none). What a target that cannot
be read gives is the model's reading (log 54). -/
def Obligations.ControlTransferResults : Prop :=
  let go := fun (s : State) (t : BitVec 64) => s.updMe fun x => { x with branch := some t }
  let link := fun (s : State) => s.write (.g 22 { v := make 0 (s.ctx.pc + 1), p := false })
  let target := fun (s : State) (c : CSrc) (r : Reg) => match c with
    | .imm i => s.ctx.pc + i.signExtend 64
    | _ => r.val
  let ask := fun (s : State) (la : BitVec 4) (t : BitVec 64) =>
    (((List.range (la.toNat + 1)).map fun i => (t + BitVec.ofNat 64 i).toNat / 16).eraseDups).foldl (fun u l =>
      if (u.group (gkOf s.myCk)).icache.any fun e => e.1 == l then u else u.askFill u.myCk l) s
  (∀ h (d : BitVec 11) s, guardTrue s.ctx h.guard = true →
    (∀ la : BitVec 4, exec (.ctIpf h la .ceC) s = .next s ∧ exec (.ctIpf h la .sqR) s = .next (ask s la (s.ctx.latch .sqR).val)) ∧
    exec (.ctBr h d) s = .next (go s (s.ctx.pc + d.signExtend 64)) ∧ exec (.ctCall h d) s = .next (go (link s) (s.ctx.pc + d.signExtend 64)) ∧
    exec (.ctNop h) s = .next s ∧
    (let r := s.ctx.greg 22
     (r.p = true → exec (.ctRet h) s = .next (s.faultPoison r.v)) ∧
     (r.p = false → r.tag ≠ 0 → exec (.ctRet h) s = .next (s.faultAddr causeMisaligned r.v)) ∧
     (r.p = false → r.tag = 0 → exec (.ctRet h) s = .next (go s r.val)))) ∧
  (∀ h c s s1 r, guardTrue s.ctx h.guard = true → ReadsC s c r s1 →
    (r.p = true → exec (.ctBrAbs h c) s = .next (s1.faultPoison r.v) ∧ exec (.ctCallAbs h c) s = .next (s1.faultPoison r.v) ∧
      exec (.ctJmp h c) s = .next (s1.faultPoison r.v)) ∧
    (r.p = false → exec (.ctBrAbs h c) s = .next (go s1 (target s1 c r)) ∧ exec (.ctCallAbs h c) s = .next (go (link s1) (target s1 c r)) ∧
      exec (.ctJmp h c) s = .next (go s1 (s1.ctx.pc + r.val))) ∧
    (c ≠ .ceC → c ≠ .sqR → s1.me.st ≠ .frozen → ∀ la : BitVec 4, exec (.ctIpf h la c) s = .next (ask s1 la (target s1 c r))))

/-- Where the guard holds: ct.chunk ends the chunk with this bundle. ct.yield also stops the strand when the chunk has
committed, unless it is strand 0 or a supervisor strand. ct.halt does so too, but on strand 0 faults halt. ct.trap ends
an open chunk first, waits for a chunk that awaits its commit, an effect without its place or a committed word that has
not acted, and then faults trap with its operand's 8 bytes. ct.efence ends an open chunk first, waits until every chunk,
effect, request and access of the strand is over (array commands, a lease request and sr.pfence are none, R214), then
faults poison with the pending error's address and pc if one is set, and otherwise ends the chunk. -/
def Obligations.ChunkEndResults : Prop :=
  let close := fun (s : State) => s.updMe fun x => { x with closes := true }
  let stop := fun (s : State) (b : Bool) => close (s.updMe fun x => { x with chunk := { x.chunk with deferred := x.chunk.deferred ++ [.selfStop b] } })
  ∀ h s, guardTrue s.ctx h.guard = true →
    exec (.ctChunk h) s = .next (close s) ∧
    (strandNo s.cur = 0 ∨ s.mode s.cur = .supervisor → exec (.ctYield h) s = .next (close s)) ∧
    (strandNo s.cur ≠ 0 → s.mode s.cur ≠ .supervisor → exec (.ctYield h) s = .next (stop s false)) ∧
    (strandNo s.cur = 0 → exec (.ctHalt h) s = .next (s.fault causeHalt 0 [])) ∧
    (strandNo s.cur ≠ 0 → exec (.ctHalt h) s = .next (stop s true)) ∧
    (∀ c s1 r, ReadsC s c r s1 →
      (s1.me.chunk.len ≠ 0 → exec (.ctTrap h c) s = .next s1.endFirst) ∧
      (s1.me.chunk.len = 0 → (s1.me.await.isSome ∨ s1.me.effect.isSome ∨ s1.me.ctl ≠ []) →
        exec (.ctTrap h c) s = .next (s1.hold .stalledLA .chunkAwait 0)) ∧
      (s1.me.chunk.len = 0 → s1.me.await = none → s1.me.effect = none → s1.me.ctl = [] → exec (.ctTrap h c) s = .next (s1.fault causeTrap 0 (leBytes 8 r.val.toNat)))) ∧
    (let quiet := s.me.await = none ∧ s.me.effect = none ∧ s.me.reqs = [] ∧ ∀ f ∈ s.me.ctx.flights,
        f.arrived = true ∨ f.pend = .pfence ∨ f.pend = .command ∨ ∃ n, f.pend = .lease n
     (s.me.chunk.len ≠ 0 → exec (.ctEfence h) s = .next s.endFirst) ∧
     (s.me.chunk.len = 0 → ¬ quiet → exec (.ctEfence h) s = .next (s.hold .stalledLA .fence s.me.ceiling)) ∧
     (s.me.chunk.len = 0 → quiet → s.ctx.pe.set = true →
       exec (.ctEfence h) s = .next (s.fault causePoison 0 (addrBytes s.ctx.pe.addr ++ leBytes 8 s.ctx.pe.pc.toNat))) ∧
     (s.me.chunk.len = 0 → quiet → s.ctx.pe.set = false → exec (.ctEfence h) s = .next (close s)))

/-- In user mode the first four fault privilege, and ct.resume does so in every mode but supervisor. Elsewhere, where the
guard holds and the source delivers an unpoisoned operand that its rule permits (sstop: a strand 1 to 15 other than the
issuer; sgo: no bit outside its fields, target not 0, an index below T and 0 without the new bit; ssave and sload: an
untagged multiple of 16 whose image lies above the task table in the private part of the store; resume: a context image
in the system window), exec answers the next state in which the word, with its operand and the strand's next number,
acts at the commit of this chunk, which this bundle ends. Strand 15 of a core whose reduction server runs may not be the
target of sstop, sgo or sload (privilege). Other operands fault strand, or window. -/
def Obligations.StrandControlResults : Prop :=
  let acts := fun (s : State) (dp : Nat) (r : Reg) =>
    let s1 := s.updMe fun x => { x with chunk := { x.chunk with deferred := x.chunk.deferred ++ [.strand dp r.v s.me.seq s.ctx.pc s.second] } }
    (s1.updMe fun x => { x with seq := x.seq + 1 }).updMe fun x => { x with closes := true }
  let serves := fun (s : State) => (s.core s.myCk).redpin.getLsbD 63 = true
  ∀ h c s, guardTrue s.ctx h.guard = true →
    (s.mode s.cur = .user → ∀ i ∈ [Instr.ctSstop h c, .ctSgo h c, .ctSsave h c, .ctSload h c], exec i s = .next (s.faultWord causePrivilege)) ∧
    (s.mode s.cur ≠ .supervisor → exec (.ctResume h c) s = .next (s.faultWord causePrivilege)) ∧
    (s.mode s.cur ≠ .user → ∀ s1 r, ReadsC s c r s1 → r.p = false →
      let v := r.val.toNat
      let stop := 1 ≤ v ∧ v < 16 ∧ v ≠ strandNo s1.cur
      let go := v < 2 ^ 26 ∧ (v / 32) % 2 ^ 11 = 0 ∧ v % 16 ≠ 0 ∧ (v.testBit 4 = false → v / 2 ^ 16 = 0) ∧ v / 2 ^ 16 < (s1.partOf s1.myCk).t
      let image := r.tag = 0 ∧ v % 16 = 0 ∧ 64 * (s1.partOf s1.myCk).t ≤ v / 256 * 256
      let room := s1.privRange (pidOf s1.myCk) (v / 256 * 256) 8192 = true
      (¬ stop → exec (.ctSstop h c) s = .next (s1.faultAddr causeStrand r.v)) ∧
      (stop → v = 15 → serves s1 → exec (.ctSstop h c) s = .next (s1.faultAddr causePrivilege r.v)) ∧
      (stop → ¬ (v = 15 ∧ serves s1) → exec (.ctSstop h c) s = .next (acts s1 0x0B r)) ∧
      (¬ go → exec (.ctSgo h c) s = .next (s1.faultAddr causeStrand r.v)) ∧
      (go → v % 16 = 15 → serves s1 → exec (.ctSgo h c) s = .next (s1.faultAddr causePrivilege r.v)) ∧
      (go → ¬ (v % 16 = 15 ∧ serves s1) → exec (.ctSgo h c) s = .next (acts s1 0x0C r)) ∧
      (∀ i ∈ [Instr.ctSsave h c, .ctSload h c],
        (¬ image → exec i s = .next (s1.faultAddr causeStrand r.v)) ∧ (image → ¬ room → exec i s = .next (s1.faultAddr causeWindow r.v))) ∧
      (image → room → exec (.ctSsave h c) s = .next (acts s1 0x0D r)) ∧
      (image → room → v / 16 % 16 = 15 → serves s1 → exec (.ctSload h c) s = .next (s1.faultAddr causePrivilege r.v)) ∧
      (image → room → ¬ (v / 16 % 16 = 15 ∧ serves s1) → exec (.ctSload h c) s = .next (acts s1 0x0E r)) ∧
      (s.mode s.cur = .supervisor → s1.imagePtr (pidOf s1.myCk) r.v = none → exec (.ctResume h c) s = .next (s1.faultAddr causeStrand r.v)) ∧
      (s.mode s.cur = .supervisor → ∀ sid, s1.imagePtr (pidOf s1.myCk) r.v = some sid → exec (.ctResume h c) s = .next (acts s1 0x0F r)))

/-- Where the guard holds and the source delivers a: a user strand may write wcl, chl and fx, the alarm and rng; any other
register faults privilege in user mode. tok, sn, floor, ag, slips, trp, trc and fltc take a write in kernel and
supervisor mode. A value that breaks the register's limit raises the reserved-field fault with the register's number and
writes nothing; any other value is due as the bundle ends (trp, trc and fltc at once). Registers that nothing writes
fault privilege. The alarm's value may not have bit 63, and it looks at the time. redpin takes a legal value in kernel
and supervisor mode when no reduction is in progress (any phase but idle: the model's reading, log 89) and, to set EN
first, strand 15 is idle; otherwise it faults reduction busy. -/
def Obligations.SystemRegisterWrites : Prop :=
  ∀ h c s s1 a, guardTrue s.ctx h.guard = true → ReadsC s c a s1 →
    let w := a.val
    let bad := fun (r : Nat) => s1.fault causeReserved 0 [BitVec.ofNat 8 r]
    let lands := fun (r : Fin 21) (ok : Bool) => exec (.srWrite h r c) s = .next (if ok then s1.write (.sysw r w) else bad r.val)
    let now := fun (r : Fin 21) (ok : Bool) (t : State) => exec (.srWrite h r c) s = .next (if ok then t else bad r.val)
    lands 3 (wclOk w) ∧ lands 4 (chlOk w) ∧ lands 12 (fxOk w) ∧
    (s.mode s.cur ≠ .user →
      lands 5 (decide (w.toNat < 2 ^ 40)) ∧ lands 6 (decide (w.toNat < 2 ^ 32)) ∧ lands 7 (decide (w.toNat < 2 ^ 32)) ∧ lands 8 true ∧
      lands 14 (decide (w.toNat < 2 ^ 32)) ∧
      now 9 (decide (bitsAt w 62 41 = 0 ∧ bitsAt w 31 24 = 0 ∧ (w.getLsbD 63 = true → bitsAt w 23 0 = 0)))
        (s1.updCore s1.myCk fun c => { c with trp := w }) ∧
      now 10 (decide (bitsAt w 31 24 = 0)) (s1.updCore s1.myCk fun c => { c with trc := w }) ∧
      now 20 (decide (w.toNat < 2 ^ 32)) (s1.updCore s1.myCk fun c => { c with disc := w.setWidth 32 })) ∧
    (s.mode s.cur = .user → ∀ r ∈ [(5 : Fin 21), 6, 7, 8, 9, 10, 14, 20], exec (.srWrite h r c) s = .next (s.faultWord causePrivilege)) ∧
    (∀ r ∈ [(0 : Fin 21), 1, 2, 11, 13, 15, 16, 17, 18, 19], exec (.srWrite h r c) s = .next (s.faultWord causePrivilege)) ∧
    exec (.writeAlarm h c) s = .next (if w.getLsbD 63 then bad 2 else (s1.write (.sysw 2 w)).pushOnce (.alarmFire s1.cur)) ∧
    exec (.writeRng h c) s = .next (s1.write (.sysw 13 w)) ∧
    (s.mode s.cur = .user → exec (.writeRedpin h c) s = .next (s.faultWord causePrivilege)) ∧
    (s.mode s.cur ≠ .user →
      let core := s1.core s1.myCk
      let busy := core.red.phase ≠ .idle ∨
        (w.getLsbD 63 = true ∧ core.redpin.getLsbD 63 = false ∧ (s1.strand (sidOf s1.myCk 15)).st ≠ .idle)
      (redpinOk w = false → exec (.writeRedpin h c) s = .next (bad 11)) ∧
      (redpinOk w = true → busy → exec (.writeRedpin h c) s = .next (s1.fault causeRedBusy 0 [])) ∧
      (redpinOk w = true → ¬ busy → exec (.writeRedpin h c) s = .next (s1.setRedpin s1.myCk w)))

/-- In user mode the three words fault privilege. Elsewhere, where the guard holds: sr.tlbinv of an immediate (all entries)
or of an unpoisoned pointer of class 3 or 4 with qualifier 0 (its page) ends an open chunk first, waits for one that
awaits its commit, and then sends an invalidation to every region of the partition and opens its window; another class
faults window. sr.pfence opens a window that waits, and ends the chunk. sr.ackfloor of an image in the private part of
the own store sets the image's floor to its serial and tells every owner that holds an entry of its token, if the image
has not changed since its last durable boundary; otherwise it does nothing but open and close its window. -/
def Obligations.TranslationControlResults : Prop :=
  let note := fun (s : State) (la : BitVec 4) => (s.launchVar .sr la .none 0 0 false false []).push (.variableResultLand s.cur s.me.seq)
  ∀ h la c s, guardTrue s.ctx h.guard = true →
    (s.mode s.cur = .user → exec (.srTlbinv h la c) s = .next (s.faultWord causePrivilege) ∧
      exec (.srPfence h la) s = .next (s.faultWord causePrivilege) ∧ exec (.srAckfloor h la c) s = .next (s.faultWord causePrivilege)) ∧
    (s.mode s.cur ≠ .user →
      exec (.srPfence h la) s = .next (((s.launchVar .sr la .pfence s.me.ceiling 16 false false []).push
        (.variableResultLand s.cur s.me.seq)).updMe fun x => { x with closes := true }) ∧
      (∀ s1 a, ReadsC s c a s1 →
        let all := ∃ i, c = .imm i
        let page := (classOf a.v = 3 ∨ classOf a.v = 4) ∧ qualOf a.v = 0
        let what := if classOf a.v = 4 then offOf a.v + 2 ^ 64 else offOf a.v
        let flush := fun (t : Option Nat) => note ((s1.partRegions (pidOf s1.myCk)).foldl
          (fun s rk => s.push (.tlbInvalidationArrival rk (pidOf s1.myCk) t (s.cur, s.me.seq)))
          (s1.updMe fun x => { x with tlbinvOut := x.tlbinvOut ++ (s1.partRegions (pidOf s1.myCk)).map fun rk => (x.seq, rk) })) la
        (¬ all → a.p = true → exec (.srTlbinv h la c) s = .next (s1.faultPoison a.v)) ∧
        (¬ all → a.p = false → ¬ page → exec (.srTlbinv h la c) s = .next (s1.faultAddr causeWindow a.v)) ∧
        (all ∨ (a.p = false ∧ page) →
          (s1.me.chunk.len ≠ 0 → exec (.srTlbinv h la c) s = .next s1.endFirst) ∧
          (s1.me.chunk.len = 0 → s1.me.await.isSome = true → exec (.srTlbinv h la c) s = .next (s1.hold .stalledLA .chunkAwait 0)) ∧
          (s1.me.chunk.len = 0 → s1.me.await = none →
            (all → exec (.srTlbinv h la c) s = .next (flush none)) ∧ (¬ all → exec (.srTlbinv h la c) s = .next (flush (some what))))) ∧
        (a.p = true → exec (.srAckfloor h la c) s = .next (s1.faultPoison a.v)) ∧
        (∀ off, a.p = false → s1.checkAccess s1.myCk (s1.mode s1.cur) a.v 8192 64 = .ok (.tile s1.myCk off) →
          s1.privRange (pidOf s1.myCk) off 8192 = true →
          let f := localFlat s1.myCk off
          (s1.unchanged s1.myCk off 8192 = false → exec (.srAckfloor h la c) s = .next (note s1 la)) ∧
          (s1.unchanged s1.myCk off 8192 = true → exec (.srAckfloor h la c) s = .next (note
            ((s1.placeNum (some s1.cur) (f + 5204) 4 (s1.load (f + 5200) 4) false).floorToAll (pidOf s1.myCk) (s1.load (f + 5192) 8) (s1.load (f + 5200) 4)) la)))))

/-- FIXED_RESULT_VISIBLE lets what can land land. VARIABLE_RESULT_LAND of a result that has arrived, or whose request is
unanswered, changes nothing; an answered read or plain result arrives, a read in another core that is being migrated
being held there (R408); at.tok takes the stash's oldest record, and asks for a refill where there is none; sy.wait
arrives when its barrier has left phase P or is poisoned, with p1 and the status; sr.pfence arrives when no earlier
invalidation is outstanding. TRANSLATION_WALK of a read first takes one of its region's 64 walker places, which walks of
one page share, and is tried again; with a place it gives the place back, reads the entries, and the answered read
arrives, or a walk that failed raises the late fault with the cause and the address of the access. A result that needs
no walk goes the same way (the model's choice, log 61). -/
def Obligations.ResultEventsComplete : Prop :=
  ∀ (sid seq : Nat) (s : State),
    exec (.fixedResultVisible sid) s = .next (s.updStrand sid Strand.land) ∧
    (∀ f, (s.strand sid).flight seq = some f →
      (f.arrived = true → exec (.variableResultLand sid seq) s = .next s) ∧
      (f.arrived = false →
        (f.pend = .none ∨ (∃ k a, f.pend = .bytes k a) → (s.strand sid).asks seq = true →
          exec (.variableResultLand sid seq) s = .next s) ∧
        (f.pend = .none → (s.strand sid).asks seq = false → exec (.variableResultLand sid seq) s = .next (s.arrive sid seq [])) ∧
        (∀ k a, f.pend = .bytes k a → (s.strand sid).asks seq = false → exec (.variableResultLand sid seq) s =
          .next (if s.readHeld (ckOf sid) a then s.pushOnce (.variableResultLand sid seq) else s.arrive sid seq [])) ∧
        (f.pend = .token →
          (s.takeToken sid = none → exec (.variableResultLand sid seq) s = .next (s.askToken (ckOf sid))) ∧
          (∀ t s1, s.takeToken sid = some (t, s1) → exec (.variableResultLand sid seq) s = .next (s1.arrive sid seq
            [.latch .atR (mk0 (t.token.setWidth 64) false), .sysw 5 (t.token.setWidth 64), .sysw 6 (t.sn.setWidth 64), .sysw 7 (t.floor.setWidth 64)]))) ∧
        (∀ a i p, f.pend = .barrier a i p →
          let b := s.barrier (ckOf sid) i
          (b.phase = p → b.st ≠ .poison → exec (.variableResultLand sid seq) s = .next s) ∧
          (b.phase ≠ p ∨ b.st = .poison → exec (.variableResultLand sid seq) s = .next (s.arrive sid f.seq
            [.pbit 1 (b.phase != p && !decide (b.st = .poison)), .latch .syR (mk0 b.status false)]))) ∧
        (f.pend = .pfence →
          ((∀ p ∈ (s.strand sid).tlbinvOut, seq < p.1) → exec (.variableResultLand sid seq) s = .next (s.arrive sid seq [])) ∧
          (∀ p ∈ (s.strand sid).tlbinvOut, p.1 ≤ seq → exec (.variableResultLand sid seq) s = .next s)))) ∧
    (∀ f p, (s.strand sid).flight seq = some f → walkPage (pidOf (ckOf sid)) f = some p →
      let rk := s.rkOf (ckOf sid)
      let ws := (s.region rk).walks
      let mine := fun (w : Nat × Nat × Nat) => w.1 == sid && w.2.1 == seq
      let pages := (ws.map fun w => w.2.2).eraseDups
      (ws.any mine = false → exec (.translationWalk sid seq) s = .next
        ((if pages.contains p ∨ pages.length < 64 then s.updRegion rk fun r => { r with walks := r.walks ++ [(sid, seq, p)] } else s).pushOnce
          (.translationWalk sid seq))) ∧
      (ws.any mine = true →
        let s1 := (s.updRegion rk fun r => { r with walks := r.walks.filter fun w => !mine w }).senseWalk (ckOf sid) (p % 2 ^ 40 / 2 * 65536)
        ∀ f1, (s1.strand sid).flight seq = some f1 → f1.arrived = false →
          (∀ k a, f1.pend = .bytes k a → (s1.strand sid).asks seq = false → exec (.translationWalk sid seq) s =
            .next (if s1.readHeld (ckOf sid) a then s1.pushOnce (.variableResultLand sid seq) else s1.arrive sid seq [])) ∧
          (∀ c a, f1.pend = .walk (some c) a →
            exec (.translationWalk sid seq) s = .next (s1.freezeLate sid seq c 0 f1.pc f1.second 0 (addrBytes a)))))

/-- CE_PUSH_ACCEPT, EFFECT_ISSUE and FENCE_CHECK wake the strand if it waits for the engine, for an effect (or the end of
its task), or for a fence; an effect whose chunk met a full cache is tried again 2 us after it did (R229).
STREAM_ELEMENT_ARRIVAL of a bound name adds one element, up to 512, and wakes a strand that waits for it. WAIT_EXPIRED
does nothing to a strand that does not wait under a bound; before the bound, with a queue try that has succeeded on its
way, or with the wake due, it is due again; at the bound of a wait for a result other than a monitor it raises the wait
fault that names the result, a lease request or a queue try being withdrawn, and at the bound of another wait than for a
context or a set the wait fault at the bundle. QUEUE_RETRY tries again 2 us after the answer. ALARM_FIRE before the
deadline is due again, and at it sets FIRED and lets a monitor look. The model's own readings: the wake comes before an
expiry of one cycle (log 70); a lease request and a queue try are withdrawn with their expiry (logs 50 and 53). -/
def Obligations.WaitEventsComplete : Prop :=
  let wakes := fun (s : State) (sid : Nat) (w : Why) => if (s.strand sid).why = w then s.wake sid else s
  ∀ (sid : Nat) (s : State),
    exec (.cePushAccept sid) s = .next (wakes s sid .engine) ∧
    (let again := (s.strand sid).farBusy.any fun p => decide (s.now < p.2 + 2000)
     (again = true → (s.strand sid).why = .effect → exec (.effectIssue sid) s = .next (s.pushOnce (.effectIssue sid))) ∧
     (again = false ∨ (s.strand sid).why ≠ .effect → exec (.effectIssue sid) s = .next (wakes (wakes s sid .effect) sid .done))) ∧
    exec (.fenceCheck sid) s = .next (wakes s sid .fence) ∧
    (∀ (j : Fin 8) b, (s.strand sid).ctx.binds[j] = some b →
      exec (.streamElementArrival sid j) s = .next (wakes (s.setStrand sid
        { s.strand sid with buffered := (s.strand sid).buffered.set j (min 512 ((s.strand sid).buffered[j] + 1)) }) sid (.stream j))) ∧
    (let x := s.strand sid
     (x.st.waits = false ∨ x.bounded = false → exec (.waitExpired sid) s = .next s) ∧
     (x.st.waits = true → x.bounded = true →
       (s.cyc (ckOf sid) < x.since + x.bound ∨ s.tryTaken sid = true ∨ s.wakeDue sid = true →
         exec (.waitExpired sid) s = .next (s.pushOnce (.waitExpired sid))) ∧
       (x.since + x.bound ≤ s.cyc (ckOf sid) → s.tryTaken sid = false → s.wakeDue sid = false →
         (∀ f, x.waitedFlight = some f → f.pend ≠ .monitor →
           let s1 := match f.pend with
             | .lease _ => s.dropLeaseRequest sid f.seq
             | .queue _ _ _ _ _ _ => s.dropTry sid f.seq
             | _ => s
           let e := s.flightExpiry sid f
           exec (.waitExpired sid) s = .next (s1.freezeLate sid f.seq causeWait e.1 f.pc f.second 0 e.2)) ∧
         (x.waitedFlight = none → x.why ≠ .context → (∀ n, x.why ≠ .set n) →
           let e := s.heldExpiry sid
           exec (.waitExpired sid) s = .next (s.freeze sid causeWait e.1 x.ctx.pc x.ctx.second 0 e.2))))) ∧
    (let waiting := fun (f : Flight) => !f.arrived && (match f.pend with | .queue _ _ _ _ _ _ => true | _ => false)
     let x := s.strand sid
     ∀ f push h v m u c ck q i, x.ctx.flights.find? waiting = some f → f.pend = .queue push h v m u c → x.asks f.seq = false →
      (s.now < x.retryAt → exec (.queueRetry sid) s = .next (s.pushOnce (.queueRetry sid))) ∧
      (x.retryAt ≤ s.now → x.tok ≠ 0 → x.distance < 2 ^ 31 - 2 ^ 16 → s.queueHandle (pidOf (ckOf sid)) h = some (ck, q, i) →
        exec (.queueRetry sid) s = .next (s.sendRemote sid (s.queueOwner ck q i)
          (if push then .push ck q i v m else .pop ck q i true u (c.map fun j => (ckOf sid, j))) f.seq f.pc f.second))) ∧
    (let x := s.strand sid
     let d := bitsAt x.alarm 62 0
     (x.alarm.getLsbD 63 = true ∨ d = 0 → exec (.alarmFire sid) s = .next s) ∧
     (x.alarm.getLsbD 63 = false → d ≠ 0 →
       (s.regionTime (s.rkOf (ckOf sid)) < d → exec (.alarmFire sid) s = .next (s.pushOnce (.alarmFire sid))) ∧
       (d ≤ s.regionTime (s.rkOf (ckOf sid)) → exec (.alarmFire sid) s = .next ((s.setStrand sid { x with alarm := x.alarm ||| BitVec.ofNat 64 (2 ^ 63) }).pokeMonitor sid))))

/-- For a chunk that awaits commit and may commit: WEIR_COMMIT_REQUEST outside a replay, of a chunk with two or more slices,
starts to prepare; with at most one it is asked again while the slice, the log or the group holds it, is squashed where
an intervening write may have met its signatures, and otherwise asks a slice elsewhere by a message or commits at its
own. WEIR_PREPARE takes the next slice in key order: held, it is asked again; met there by a write, the chunk is
squashed; otherwise a slice elsewhere is asked by a message, and the own group's slice keeps the chunk's write signature
and the next one follows; after the last the chunk commits, or is squashed where a write met it. CHUNK_LENGTH_REACHED
ends a chunk of a ready strand that has its full length. -/
def Obligations.CommitEventsComplete : Prop :=
  ∀ (sid : Nat) (s : State),
    (∀ c k, (s.strand sid).await = some (c, k) → (s.strand sid).mayCommit k = true →
      (s.replaying (ckOf sid) = false →
        (2 ≤ k.slices.length → exec (.weirCommitRequest sid) s = .next (s.pushOnce (.weirPrepare sid))) ∧
        (k.slices.length < 2 →
          let held := s.commitHeld sid k (k.slices.map Prod.fst)
          (held = true → exec (.weirCommitRequest sid) s = .next (s.pushOnce (.weirCommitRequest sid))) ∧
          (held = false → s.chunkMeets sid k = true → exec (.weirCommitRequest sid) s = .next (s.squashAwait sid)) ∧
          (held = false → s.chunkMeets sid k = false →
            (k.farSlices sid = [] → exec (.weirCommitRequest sid) s = .next (s.commitAwait sid)) ∧
            (∀ r l, k.farSlices sid = r :: l → exec (.weirCommitRequest sid) s = .next (s.askSlice sid c k r))))) ∧
      (s.nextSlice k = none →
        (s.chunkMeets sid k = true → exec (.weirPrepare sid) s = .next (s.squashAwait sid)) ∧
        (s.chunkMeets sid k = false → exec (.weirPrepare sid) s = .next (s.commitAwait sid))) ∧
      (∀ r, s.nextSlice k = some r →
        (s.commitHeld sid k [r] = true → exec (.weirPrepare sid) s = .next (s.pushOnce (.weirPrepare sid))) ∧
        (s.commitHeld sid k [r] = false → s.meetsAt sid r k = true → exec (.weirPrepare sid) s = .next (s.squashAwait sid)) ∧
        (s.commitHeld sid k [r] = false → s.meetsAt sid r k = false →
          (r ≠ gkOf (ckOf sid) → exec (.weirPrepare sid) s = .next (s.askSlice sid c k r)) ∧
          (r = gkOf (ckOf sid) →
            let s1 := s.updOwner (ownerOfRef r) fun o => { o with slice := { o.slice with prep := o.slice.prep ++ [(sid, k.wsig)] } }
            exec (.weirPrepare sid) s = .next ((s1.updStrand sid fun x =>
              { x with await := x.await.map fun p => (p.1, { p.2 with prepared := p.2.prepared ++ [r] }) }).pushOnce (.weirPrepare sid)))))) ∧
    (let x := s.strand sid
     let full := x.st = .ready ∧ x.chunk.limit ≤ x.chunk.len
     (full → exec (.chunkLengthReached sid) s = .next ((s.setStrand sid { x with closes := true }).tryEndChunk sid)) ∧
     (¬ full → exec (.chunkLengthReached sid) s = .next s))

/-- STRAND_CONTROL_ACT of a strand without a committed word wakes it if it waits for that. Otherwise the oldest word acts,
and the event is due again while words are left. sstop stops its target. sgo with NEW starts an idle target on a READY
task that was never saved; without NEW it resumes a stopped one that is neither wounded nor being killed, and wakes one
that waits for a monitor. ssave of a stopped or stopping target first holds the image's 64 lines, where a place is free;
when the target is stopped with nothing outstanding, its image is written, its lease freed, its record SAVED with the
image's place, and the target idle. sload into an idle target of a valid image of a SAVED task, whose lines nothing
holds, gives the target the image, stopped, its record RUNNING. resume of a frozen strand's image resumes it. Where a
condition fails, sgo with NEW, ssave and sload raise the late strand fault. -/
def Obligations.StrandControlActs : Prop :=
  ∀ (sid : Nat) (s : State),
    let x := s.strand sid
    let ck := ckOf sid
    (x.ctl = [] → exec (.strandControlAct sid) s = .next (if x.why = .context then s.wake sid else s)) ∧
    (∀ w r, x.ctl = w :: r →
      let v := (valOf w.w).toNat
      let acts := fun (t : State) =>
        exec (.strandControlAct sid) s = .next (if (t.strand sid).ctl = [] then t else t.pushOnce (.strandControlAct sid))
      let late := acts ((s.dropControl sid).freeze sid causeStrand 0 w.fpc w.second 0 (addrBytes w.w))
      (let t := sidOf ck (v % 16)
       let y := s.strand t
       (w.dp = 0x0B → acts ((s.controlDone sid).stop t)) ∧
       (w.dp = 0x0C → v.testBit 4 = true →
         (y.st = .idle ∧ s.recState ck (v / 2 ^ 16) = recReady ∧ s.recField ck (v / 2 ^ 16) 52 4 = 0 →
           acts ((s.controlDone sid).startTask t (v / 2 ^ 16))) ∧
         (¬ (y.st = .idle ∧ s.recState ck (v / 2 ^ 16) = recReady ∧ s.recField ck (v / 2 ^ 16) 52 4 = 0) → late)) ∧
       (w.dp = 0x0C → v.testBit 4 = false →
         (y.st = .stopped → y.wounded = false → y.killing = false → acts ((s.controlDone sid).reenter t y.recorded)) ∧
         (y.st = .waitMonitor → acts (((s.controlDone sid).updStrand t fun y => { y with sgoWake := true }).pokeMonitor t)))) ∧
      (let o := v / 256 * 256
       let t := sidOf ck (v / 16 % 16)
       let y := s.strand t
       (w.dp = 0x0D → x.saving = none →
         (y.st ≠ .stopped → y.stopping = false → late) ∧
         (y.st = .stopped ∨ y.stopping = true → (s.core ck).ranges.length < 32 → acts ((((s.updCore ck fun c =>
           { c with ranges := c.ranges ++ [{ lo := o / 128, hi := (o + 8191) / 128, owner := 2 ^ 60 + sid }] }).updStrand sid fun x =>
             { x with saving := some (false, t, o) })).pushOnce (.strandControlAct sid)))) ∧
       (w.dp = 0x0D → x.saving ≠ none → y.st = .frozen → late) ∧
       (w.dp = 0x0D → x.saving ≠ none → y.st = .stopped → y.ceOut = [] → y.reqs = [] → y.await = none → y.effect = none → s.hasJobs t = false →
         let s0 := s.senseStrand t
         let s1 := s0.place none { addr := localFlat ck o, data := s0.savedImage t, mark := false }
         let s2 := s1.updCore ck fun c => { c with tmSeen := max c.tmSeen (s0.strand t).lastTm }
         let s3 := ((s2.freeLeaseOf t).dropRequests t).updStrand t Strand.saved
         acts (State.controlDone (match (s0.strand t).task with
           | some i => (s3.setRecState ck i recSaved).setRec ck i 52 4 o
           | none => s3) sid)) ∧
       (w.dp = 0x0E → (s.core ck).rangeHeld (o / 128) ((o + 8191) / 128) = false →
         let s1 := s.senseAll (some ck) (localFlat ck o) 8192
         let b := memReadList s1.mem (localFlat ck o) 8192
         let i := fieldAt b 7936 2
         let fits := (s1.strand t).st = .idle ∧ i < (s1.partOf ck).t ∧ s1.recState ck i = recSaved ∧ (fieldAt b 7939 1).testBit 1 = true ∧
           imageOk b = true
         (¬ fits → acts ((s1.dropControl sid).freeze sid causeStrand 0 w.fpc w.second 0 (addrBytes w.w))) ∧
         (fits →
           let s0 := s1.parkedWakes t
           let fs := imageFlights b (s0.strand t).seq (256 * fieldAt b 5212 4)
           let z := (s0.strand t).ofImage b fs
           let s2 := s0.setStrand t { z with
             st := .stopped, recorded := (SState.ofCode (fieldAt b 7938 1)).getD .ready, why := if z.tok = 0 then .token else .none, task := some i,
             mons := s0.imageMons ck b, ceDone := imageDone b, closes := false, endChunk := false, serialLeft := 0, serialRun := none, waitLog := [],
             farBusy := none, lastTm := (s0.core ck).tmSeen }
           let s3 := (s2.setRec ck i 52 4 0).setRecState ck i recRunning
           let s4 := fs.foldl (fun s f => if f.arrived then s else match f.pend with
             | .lease n => s.requestLease t f.seq n
             | _ => s.push (.variableResultLand t f.seq)) s3
           acts ((if z.alarm ≠ 0 then s4.pushOnce (.alarmFire t) else s4).controlDone sid)))) ∧
      (∀ t, w.dp = 0x0F → s.imagePtr (pidOf ck) w.w = some t → (s.strand t).killing = false → acts ((s.controlDone sid).resume t)))

/-- DEBUG_RESUME of a frozen strand that is not being killed puts it back into the state it froze in, its end-chunk mark set
where the command asks for it. DEBUG_STEP of a frozen strand for which a step was asked begins it; of a frozen one whose
stepped bundle's chunk has committed, with nothing awaiting, it ends the step; where that chunk was squashed the bundle
is issued again. SYSTEM_WINDOW_STORE of a legal word is applied at its register, and another raises the late fault of
its cause. WRITE_FAULT_RING_BASE sets a legal base of a region in use, and raises the reserved-field fault for any
other. ERROR_FCLR clears a unit's filter for the cycle too and ERROR_CCLR its three counts. FAULT_RING_DELIVER writes
the oldest waiting packet and then TAIL while the ring has room and the core takes it, goes on with the next, and is due
again otherwise. When a step ends, and that a step whose bundle was squashed issues it again, is the model's choice (log
72). -/
def Obligations.SupervisorCommandsAct : Prop :=
  ∀ (sid : Nat) (s : State),
    (∀ e : Bool, (s.strand sid).killing = false → (s.strand sid).st = .frozen →
      exec (.debugResume sid e) s =
        .next ((s.updStrand sid fun x => { x with endChunk := e || x.endChunk }).reenter sid (s.strand sid).frozenFrom)) ∧
    (let x := s.strand sid
     x.killing = false → x.st = .frozen →
      (x.stepping = false → x.stepAsked = true →
        exec (.debugStep sid) s = .next ((s.setStrand sid { x with stepAsked := false, stepKind := 0, stepVal := 0 }).beginStep sid)) ∧
      (x.stepping = true → x.await = none → x.effect = none → x.stepAt ≤ x.committed →
        exec (.debugStep sid) s = .next (s.setStrand sid { x with stepping := false })) ∧
      (x.stepping = true → x.await = none → x.effect = none → x.committed < x.stepAt →
        exec (.debugStep sid) s = .next (s.beginStep sid))) ∧
    (∀ st r, s.sysRef (pidOf (ckOf sid)) st.qq (st.off / 8 * 8) = some r →
      let s1 := s.senseSys r
      let w := mergeWord (s1.sysRead r) (st.off % 8) st.data
      (s1.sysBad r w = none → exec (.systemWindowStore sid st) s = .next (s1.sysApply (pidOf (ckOf sid)) r w)) ∧
      (s1.sysBad r w = some causeReserved → exec (.systemWindowStore sid st) s =
        .next (s1.freeze sid causeReserved 0 (BitVec.ofNat 64 st.fpc) st.second 0 (leBytes 8 st.off))) ∧
      (∀ c, s1.sysBad r w = some c → c ≠ causeReserved → exec (.systemWindowStore sid st) s =
        .next (s1.freeze sid c 0 (BitVec.ofNat 64 st.fpc) st.second 0
          (addrBytes (make (BitVec.ofNat 16 (0x7F00 + st.qq)) (BitVec.ofNat 64 st.off)))))) ∧
    (∀ rk w,
      (∀ pid, (s.region rk).pid = some pid → s.ringOk rk w = true → exec (.writeFaultRingBase sid rk w) s =
        .next ((s.updRegion rk fun r => { r with ringBase := w }).pushOnce (.faultRingDeliver pid rk))) ∧
      (s.ringOk rk w = false → exec (.writeFaultRingBase sid rk w) s =
        .next (s.freeze sid causeReserved 0 (s.strand sid).ctx.pc false 0 (leBytes 8 (rk * 2 ^ 20 + 0x810))))) ∧
    (∀ u, exec (.errorFclr u) s = .next (s.updErr u fun e => { e with filter := 0, clearedAt := some (s.region (unitSite u).1).cyc }) ∧
      exec (.errorCclr u) s = .next (s.updErr u fun e => { e with unc := 0, rep := 0, scat := 0 })) ∧
    (∀ pid rk b l h f, (s.region rk).waiting = b :: l → s.ringOf pid rk = some (h, f) →
      let tail := s.load h 4
      let full := f ≤ (tail + 2 ^ 32 - s.load (h + 8) 4) % 2 ^ 32
      let sup := s.supCore pid rk
      (full ∨ s.coreHeld sup = true → exec (.faultRingDeliver pid rk) s = .next (s.pushOnce (.faultRingDeliver pid rk))) ∧
      (¬ full → s.coreHeld sup = false → exec (.faultRingDeliver pid rk) s = .next
        ((((s.updRegion rk fun x => { x with waiting := l }).ringWrite sup (h + 64 + 64 * (tail % f)) b).ringWrite sup h (leBytes 4 (tail + 1))).deliverPackets
          pid rk l.length)))

/-- SLIP of a ready strand whose pair is not cached makes it wait, counts a slip unless it resumes one, and asks for the
line unless the group asked already; FETCH_FILL_ARRIVAL senses and fills the line and lets every strand of the group
look; FETCH_RETRY_TIMEOUT asks again after 64 us and faults fetch after 8 sends. A word that decodes to nothing faults
illegal. DROOP_STRETCH lengthens the period and counts it; SUPPLY_RECOVERY ends it. TIME_REFERENCE_PULSE before its time
is due again and at it corrects the region's time; TIME_REFERENCE_LOST is reported once, after 64 us without a pulse.
SELF_TEST stores, for the regions of a report of any length in turn, what is live and measures the ageing.
BOUNDARY_FLIT_CROSSING sends the next flit unless 6 are held and may take the oldest. LINK_FLIT_CRC_ERROR changes
nothing that software sees. What gives way in a full cache, and which move of a link comes next, are free values (logs 7
and 3). -/
def Obligations.FetchAndClockEventsComplete : Prop :=
  ∀ (sid : Nat) (s : State),
    (let x := s.strand sid
     let gk := gkOf (ckOf sid)
     ((s.group gk).pairAt x.ctx.pc ≠ none → exec (.slip sid) s = .next s) ∧
     (x.st ≠ .ready → exec (.slip sid) s = .next s) ∧
     (x.st = .ready → (s.group gk).pairAt x.ctx.pc = none →
       let slipped := fun n => .next ((((s.enterWait sid .slip .fetch 0).updStrand sid fun y =>
         { y with slips := y.slips + n, fetchSends := 1, retryAt := s.now + 64000 }).askFill (ckOf sid) (x.ctx.pc.toNat / 16)).pushOnce
         (.fetchRetryTimeout sid))
       ((∀ n, x.carry ≠ some (.slip, n)) → exec (.slip sid) s = slipped 1) ∧
       (∀ n, x.carry = some (.slip, n) → exec (.slip sid) s = slipped 0)) ∧
     (x.st ≠ .slip → exec (.fetchRetryTimeout sid) s = .next s) ∧
     (x.st = .slip →
       (s.now < x.retryAt → exec (.fetchRetryTimeout sid) s = .next (s.pushOnce (.fetchRetryTimeout sid))) ∧
       (x.retryAt ≤ s.now → 8 ≤ x.fetchSends → exec (.fetchRetryTimeout sid) s =
         .next (s.freeze sid causeFetch 2 x.ctx.pc false 0 (leBytes 8 x.ctx.pc.toNat))) ∧
       (x.retryAt ≤ s.now → x.fetchSends < 8 → exec (.fetchRetryTimeout sid) s =
         .next (((s.setStrand sid { x with fetchSends := x.fetchSends + 1, retryAt := s.now + 64000 }).askFill
           (ckOf sid) (x.ctx.pc.toNat / 16)).pushOnce (.fetchRetryTimeout sid))))) ∧
    (∀ ck line,
      (s.agenda.any (fun e => match e with
          | .fetchFillArrival c l => gkOf c == gkOf ck && l == line
          | _ => false) = true → s.askFill ck line = s) ∧
      (s.agenda.any (fun e => match e with
          | .fetchFillArrival c l => gkOf c == gkOf ck && l == line
          | _ => false) = false → s.askFill ck line = s.push (.fetchFillArrival ck line))) ∧
    (∀ ck line,
      let gk := gkOf ck
      let s0 := s.senseCode ck line
      let ps := s0.codeLine (pidOf ck) line
      let s1 := if ps = [] then s0 else s0.updGroup gk fun g => { g with icache := addLine g.icache line ps (Config.evict s0.steps) }
      exec (.fetchFillArrival ck line) s = .next (((groupCores gk).flatMap coreStrands).foldl (fun s sid => s.filled (pidOf ck) line sid) s1)) ∧
    exec .illegalWord s = .next (s.faultWord causeIllegal) ∧
    (∀ rk, exec (.droopStretch rk) s =
        .next ((s.updRegion rk fun r => { r with stretched := true, stretches := r.stretches + 1 }).pushOnce (.supplyRecovery rk)) ∧
      exec (.supplyRecovery rk) s = .next (s.updRegion rk fun r => { r with stretched := false, calm := r.cyc + 64 }) ∧
      (∀ t, (s.now < t → exec (.timeReferencePulse rk t) s = .next (s.pushOnce (.timeReferencePulse rk t))) ∧
        (t ≤ s.now → exec (.timeReferencePulse rk t) s = .next (((s.updRegion rk fun r => { r with pulse := s.now, lost := false }).pushOnce
          (.timeReferencePulse rk (t + 1000))).pushOnce (.timeReferenceLost rk)))) ∧
      ((s.region rk).lost = true → exec (.timeReferenceLost rk) s = .next s) ∧
      ((s.region rk).lost = false → s.now < (s.region rk).pulse + 64000 → exec (.timeReferenceLost rk) s = .next (s.pushOnce (.timeReferenceLost rk))) ∧
      (∀ pid, (s.region rk).lost = false → (s.region rk).pulse + 64000 ≤ s.now → (s.region rk).pid = some pid →
        let s1 := s.updRegion rk fun r => { r with lost := true }
        exec (.timeReferenceLost rk) s = .next (s1.report 0x41 0 (s.supCore pid rk) [BitVec.ofNat 8 rk])) ∧
      exec (.selfTest { regions := [] }) s = .next s ∧
      (∀ (t : RegionTest) (ts : List RegionTest), exec (.selfTest { regions := t :: ts }) s =
        exec (.selfTest { regions := ts }) ((s.updRegion t.region fun r => r.tested t).measureAgeing t.region t.counts))) ∧
    (∀ n, exec (.linkFlitCrcError n) s = .next s ∧
      ∃ t u, exec (.boundaryFlitCrossing n) s = .next t ∧ (t = u ∨ t = u.pushOnce (.boundaryFlitCrossing n)) ∧
        ((∃ l, u = { s.bump with links := s.links.put n l } ∧ (l = (s.link n).send (s.linkCycle n) ∨ l = (s.link n).arrive)) ∨
         (∃ f, (s.link n).ripe (s.linkCycle n) = some f ∧ u = s.bump.takeFlit n f) ∨ ((s.link n).ripe (s.linkCycle n) = none ∧ u = s.bump)))

/-- LEASE_GRANT of a free lease gives it to the next request with its count, and the strand's mx.st gets HELD and LEFT; with
a holder, or no request, it changes nothing. LEASE_IDLE_LIMIT ends the lease of a holder that has issued nothing for
4,096 cycles while requests wait, setting IDLEX in its mx.st; before that it is due again. MX_COMMAND_ACCEPT outside a
replay moves the next command to the queue of 8, counts the lease down if it is the holder's, issued after the grant's
word, and no drainv, logs the order, and ends the window of a product, zero or inject. MX_COMMAND_EXECUTE of a live
array carries out the command at the head of the queue. -/
def Obligations.ArrayEventsComplete : Prop :=
  ∀ (gk : Nat) (s : State),
    (let g := (s.group gk).data
     (g.holder ≠ none ∨ s.nextRequest gk = none → exec (.leaseGrant gk) s = .next s) ∧
     (∀ sid seq n, g.holder = none → s.nextRequest gk = some (sid, seq, n) →
       let s1 := s.updData gk fun g =>
         { g with holder := some sid, leaseLeft := n, leaseSeq := seq, idleSince := s.cyc (ckOf sid),
                  requests := g.requests.filter fun q => decide (q.1 ≠ sid) }
       exec (.leaseGrant gk) s =
         .next (((s1.updStrand sid fun x => x.setMxSt (leaseMask ||| idlexBit) (heldWith n)).arrive sid seq []).pushOnce (.leaseIdleLimit gk))) ∧
     (g.holder = none ∨ g.requests = [] → exec (.leaseIdleLimit gk) s = .next s) ∧
     (∀ sid, g.holder = some sid → g.requests ≠ [] →
       (g.idleSince + 4096 ≤ s.cyc (ckOf sid) → exec (.leaseIdleLimit gk) s =
         .next ((s.endLease gk).updStrand sid fun x => x.setMxSt leaseMask idlexBit)) ∧
       (s.cyc (ckOf sid) < g.idleSince + 4096 → exec (.leaseIdleLimit gk) s = .next (s.pushOnce (.leaseIdleLimit gk))))) ∧
    (∀ i j, s.loggedJob gk = none → s.nextJob none (s.group gk).arriving 0 = some i → (s.group gk).arriving[i]? = some j →
      (8 ≤ (s.group gk).queue.length → exec (.mxCommandAccept gk) s = .next s) ∧
      ((s.group gk).queue.length < 8 →
        let d := fun (g : Group) => if j.cmd.isDrainv = false ∧ g.data.holder = some j.sid ∧ g.data.leaseSeq < j.seq then
          { g.data with leaseLeft := g.data.leaseLeft - 1 } else g.data
        let s1 := s.updGroup gk fun g => { g with arriving := g.arriving.eraseIdx i, queue := g.queue ++ [j], data := d g }
        let s2 := (s1.leaseCheck gk).logRec (gk * 4) (.arrayOrder (seatOf (ckOf j.sid)) j.seq)
        let s3 := (if j.cmd.endsAtAccept then s2.arrive j.sid j.seq [] else s2).pushOnce (.mxCommandExecute gk)
        exec (.mxCommandAccept gk) s = .next (if (s3.group gk).arriving = [] then s3 else s3.pushOnce (.mxCommandAccept gk)))) ∧
    ((s.group gk).queue = [] → exec (.mxCommandExecute gk) s = .next s) ∧
    (∀ j r, (s.group gk).queue = j :: r → (s.group gk).arrayLive = true →
      let s1 := ((s.senseArray gk).updGroup gk fun g => { g with queue := r }).runJob gk j
      let s2 := if r = [] then s1 else s1.pushOnce (.mxCommandExecute gk)
      exec (.mxCommandExecute gk) s = .next (if (s2.group gk).arriving = [] then s2 else s2.pushOnce (.mxCommandAccept gk)))

/-- CE_COMMAND_START sends the next message of the command that is sending, or takes the next command of the FIFO.
CE_LINE_DELIVERY and CE_REDUCE_LINE of a line whose delivery is outstanding reach its owner, and an answered one changes
nothing. CE_POISON_NOTICE poisons the barrier. COPYQ_MESSAGE_PUSH of a command whose lines are all acknowledged without
error sends its message once, under the serial that was set aside for it, or waits until the engine may send.
CE_COMMAND_COMPLETE of a command with nothing outstanding leaves the engine, posts its element, releases its ranges and
lets the next start. REDUCTION_TAKE takes the next contribution while strand 15 is not frozen; after a resume it repeats
a send that failed; a downward sum is stored, counted and sent on; a round ends, and the server is reset, once its sends
are acknowledged. How the server's command enters the FIFO is the model's choice (log 90). -/
def Obligations.EngineEventsComplete : Prop :=
  ∀ (ck : Nat) (s : State),
    (let c := s.core ck
     (∀ x, (c.running.find? fun x => !x.sentAll) = some x → exec (.ceCommandStart ck) s =
       .next (((s.ceSendNext ck x).ceCheck ck x.id).pushOnce (.ceCommandStart ck))) ∧
     ((c.running.find? fun x => !x.sentAll) = none → c.fifo = [] → exec (.ceCommandStart ck) s = .next s) ∧
     (∀ x rest, (c.running.find? fun x => !x.sentAll) = none → c.fifo = x :: rest → exec (.ceCommandStart ck) s =
       .next ((((s.setCore ck { c with fifo := rest, running := c.running ++ [{ x with started := true, total := x.sends }] }).ceCheck ck x.id).retry
         ck).pushOnce (.ceCommandStart ck)))) ∧
    (∀ cmd line,
      (s.lineRequest ck cmd line = none → exec (.ceLineDelivery ck cmd line) s = .next s ∧ exec (.ceReduceLine ck cmd line) s = .next s) ∧
      (∀ q, s.lineRequest ck cmd line = some q → exec (.ceLineDelivery ck cmd line) s = .next (s.receive q.msg (.ceLineDelivery ck cmd line)) ∧
        exec (.ceReduceLine ck cmd line) s = .next (s.receive q.msg (.ceReduceLine ck cmd line)))) ∧
    (∀ bar, exec (.cePoisonNotice ck bar) s = .next (s.putBarrier ck bar { s.barrier ck bar with st := .poison, cause := 2 })) ∧
    (∀ id c, s.cmdOf ck id = some c → c.sentAll = true → c.outstanding = [] →
      (c.messaged = false → c.cause = 0 → ∀ t q i, s.queueHandle (pidOf ck) c.b = some (t, q, i) →
        let home := s.queueHome t q i
        let s1 := s.updCmd ck id fun c => { c with messaged := true }
        let may := (s.core ck).eMaySend && (decide (home = ck) || !s.logWaiting ck)
        (may = true → exec (.copyqMessagePush ck id) s = .next (State.ceSent ck id
          (s1.engineSendUnder ck c.pushSn (.group (gkOf home)) (decide (home = ck)) (.push t q i (valOf c.m) c.mMark) 0 false))) ∧
        (may = false → exec (.copyqMessagePush ck id) s = .next (s.pushOnce (.copyqMessagePush ck id)))) ∧
      (let s1 := (s.updCore ck fun k => { k with running := k.running.filter fun x => x.id != id }).sendNotices ck c
       (c.server = false → exec (.ceCommandComplete ck id) s =
         .next (((s1.updStrand c.sid fun x => x.postCmd c).releaseRange ck id).pushOnce (.ceCommandStart ck))) ∧
       (c.server = true → exec (.ceCommandComplete ck id) s =
         .next (((s1.serverDone ck c).releaseRange ck id).pushOnce (.ceCommandStart ck))))) ∧
    (∀ q r, (s.core ck).serves = true → (s.strand (sidOf ck 15)).st ≠ .frozen → (s.core ck).red.phase = .idle ∨ (s.core ck).red.phase = .gathering →
      (s.core ck).redIn = q :: r → exec (.reductionTake ck) s = .next (s.redTake ck q r)) ∧
    (∀ data marks bar off,
      let s1 := (s.placeMarked (some ck) (localFlat ck off) (bytesOf32 data) marks).countBarrier ck bar 0 (4 * data.length)
      exec (.reductionDownwardReceive ck data marks bar off) s =
        .next (if (s.core ck).serves = true ∧ (s.core ck).red.phase = .up then s1.redDown ck off (4 * data.length) else s1)) ∧
    (let r := (s.core ck).red
     ((s.core ck).serves = true → (s.strand (sidOf ck 15)).st ≠ .frozen → r.phase = .up →
       exec (.reductionTake ck) s = .next (if r.upFailed then s.redUp ck else s)) ∧
     ((s.core ck).serves = true → (s.strand (sidOf ck 15)).st ≠ .frozen → r.phase = .down →
       let s1 := if r.upFailed then s.redUp ck else s
       exec (.reductionTake ck) s = .next (if r.downFailed then s1.redDown ck r.off r.len else s1)) ∧
     (r.phase = .down → r.settled = true → exec (.reductionRoundEnd ck) s =
       .next ((s.updCore ck fun c => { c with red := RedState.reset }).pushOnce (.reductionTake ck))) ∧
     (r.phase ≠ .down ∨ r.settled = false → exec (.reductionRoundEnd ck) s = .next s))

/-- A message for another module leaves; one for an owner without a place, or that the fabric loses, changes nothing; one at
an old place is answered moved; one whose router fetches the entry is tried again. Otherwise, at any owner of this
module (a group or a rim channel), it waits while the owner holds it. A message without a token is applied inside its
core. One with a token first retires the entries below its floor; an entry answers it; without one, a message below the
floor is discarded, one that asks for a commit is decided, one that finds the cache or the log full is answered busy,
and any other executes: a result or refusal is kept, logged and sent; a busy one is only sent. An access of another
module waits while its owner is held or logs; then one below its floor is discarded, one that some owner answered is
answered again, one that finds no room is busy, one whose checks fail is refused, and any other executes once, kept
under a key of its own and, at a core, answered once it is logged. FLOOR_NOTICE retires the token's entries below the
floor. CASCADE_NUMBERING appends a replicated store to the order and tells every region; CASCADE_APPLY applies a
region's next store, and the writer's own region ends its window. That the first group keeps a refusal, and which
messages the fabric loses or delays, are the model's (logs 56 and 6). -/
def Obligations.RemoteExecutionComplete : Prop :=
  (∀ (m : Msg) (s : State),
    let again := Instr.remoteEffectMessage m
    let out := exec again s
    (∀ n, m.owner = .module n → out = .next { s with outbox := s.outbox ++ [(Config.valsenPort n, m)] }) ∧
    ((∀ n, m.owner ≠ .module n) →
      (s.ownerState m.owner = 3 ∨ s.ownerGone m.owner = true → out = .next s) ∧
      (s.ownerState m.owner ≠ 3 → s.ownerGone m.owner = false →
        (m.tok ≠ 0 → s.routerFetches m.origin m.owner = true → out = .next (s.pushOnce again)) ∧
        (m.tok ≠ 0 → s.routerFetches m.origin m.owner = false →
          (s.reach m.origin m.owner = .moved → out = .next (s.sendReply m 0 (.replyMoved m.origin m.seq))) ∧
          (s.reach m.origin m.owner = .lost → out = .next s)) ∧
        (m.tok = 0 ∨ (s.routerFetches m.origin m.owner = false ∧ s.reach m.origin m.owner = .here) →
          let waits := s.localHeld m || s.opMoving m.op || s.opYields m.op
          (waits = true → out = .next (s.waitAt m again)) ∧
          (waits = false → m.tok = 0 → out = .next (s.runLocal m)) ∧
          (waits = false → m.tok ≠ 0 →
            let pid := s.msgPid m
            let s1 := (s.senseOwner m.owner 6).updOwner m.owner fun o => o.retire pid m.tok m.floor
            let result := fun (r : Reply) (t : State) => t.sendReply m (max 16 r.old.length) (.replyResult m.origin m.seq r)
            let refusal := fun (c : Nat) (n : Nat) (t : State) => t.sendReply m n (.replyRefuse m.origin m.seq c)
            let busy := fun (t : State) => t.sendReply m 0 (.replyBusy m.origin m.seq)
            (∀ e, (s1.owner m.owner).entryOf pid m.tok m.sn = some e →
              (e.kind = .result → out = .next (result e.reply s1)) ∧
              (∀ c, e.kind = .refuse c → out = .next (refusal c (max 16 e.reply.old.length) s1))) ∧
            ((s1.owner m.owner).entryOf pid m.tok m.sn = none →
              (snBefore m.sn m.floor = true → out = .next s1) ∧
              (snBefore m.sn m.floor = false → asksCommit m.op = true →
                out = .next (s1.decideCommit ((originStrand m.origin).getD 0) m again)) ∧
              (snBefore m.sn m.floor = false → asksCommit m.op = false →
                let full := (s1.owner m.owner).full pid m.tok || s1.opLogFull m.op
                (full = true → out = .next (busy s1)) ∧
                (full = false → ∀ s2,
                  (s1.execOp m = (.busy, s2) → out = .next (busy s2)) ∧
                  (∀ r, s1.execOp m = (.done r, s2) →
                    out = .next (result r ((s2.updOwner m.owner fun o => o.keep pid m.tok m.sn .result r).logIncoming m r))) ∧
                  (∀ c, s1.execOp m = (.refuse c, s2) →
                    out = .next (refusal c 0 ((s2.updOwner m.owner fun o => o.keep pid m.tok m.sn (.refuse c) ackReply).logIncoming m ackReply))))))))))) ∧
  (∀ (acc : ModAccess) (s : State),
    let key := modulePid acc.fromModule
    let tok := BitVec.ofNat 40 acc.tok
    let sn := BitVec.ofNat 32 acc.sn
    let floor := BitVec.ofNat 32 acc.floor
    let out := exec (.remoteModuleAccess acc) s
    let answered := fun (w : Owner) (ck : Option Nat) (run : State → Res) =>
      let s1 := s.updOwner w fun o => o.retire key tok floor
      let full := (s1.owner w).full key tok || ck.any fun c => (s1.core c).logFull
      (snBefore sn floor = true → out = .next s1) ∧
      (snBefore sn floor = false → ∀ e, s1.modEntry acc = some e → out = .next (s1.answerModule acc e.kind.answer e.reply)) ∧
      (snBefore sn floor = false → s1.modEntry acc = none →
        (full = true → out = .next (s1.answerModule acc .busy ackReply)) ∧
        (full = false → out = run s1))
    (∀ c, s.modAll acc.peer acc acc.offs = .error c →
      let w := Owner.group (acc.peer * 2 ^ 22)
      ((s.part acc.peer).live = false → out = .next (s.answerModule acc (.refuse c) ackReply)) ∧
      ((s.part acc.peer).live = true → answered w none fun s1 =>
        .next ((s1.updOwner w fun o => o.keep key tok sn (.refuse c) ackReply).answerModule acc (.refuse c) ackReply))) ∧
    (∀ ps, s.modAll acc.peer acc acc.offs = .ok ps →
      let a := (ps.headD (0, 0)).1
      let w := ownerOfFlat a
      let kept := fun (s1 : State) =>
        (s1.runAccess acc ps).2.updOwner w fun o => (o.retire key tok floor).keep key tok sn .result (s1.runAccess acc ps).1
      (s.accessWaits a = true → out = .next (s.pushOnce (.remoteModuleAccess acc))) ∧
      (s.accessWaits a = false → isLocalFlat a = false → answered w none fun s1 =>
        .next ((kept s1).answerModule acc .result (s1.runAccess acc ps).1)) ∧
      (s.accessWaits a = false → isLocalFlat a = true → answered w (some (ckOfFlat a)) fun s1 =>
        .next (((kept s1).logRec (ckOfFlat a) (.incoming (accessMsg acc w) (s1.runAccess acc ps).1)).pushOnce (.remoteModuleAccess acc))))) ∧
  (∀ (w : Owner) (tok floor : Nat) (s : State),
    exec (.floorNotice w tok floor) s = .next (s.updOwner w fun o => o.retire (tok / 2 ^ 40) (BitVec.ofNat 40 tok) (BitVec.ofNat 32 floor))) ∧
  (∀ (pid rk : Nat) (st : ReplStore) (s : State),
    exec (.cascadeNumbering pid st) s = .next ((s.partRegions pid).foldl (fun s rk => s.pushOnce (.cascadeApply pid rk))
      (s.updPart pid fun p => { p with cascLog := p.cascLog ++ [st] })) ∧
    ((s.part pid).cascLog[(s.region rk).cascN]? = none → exec (.cascadeApply pid rk) s = .next s) ∧
    ((s.part pid).cascLog[(s.region rk).cascN]? = some st →
      let n := (s.region rk).cascN
      let s1 := (s.applyRepl pid rk st).updRegion rk fun r => { r with cascN := n + 1 }
      exec (.cascadeApply pid rk) s = .next ((if s.rkOf (ckOf st.sid) = rk then s1.arrive st.sid st.seq [] else s1).pushOnce (.cascadeApply pid rk))))

/-- Every event of a request that is not outstanding changes nothing. A result, once the owner's log has sent it, reaches
its strand, engine or host queue; a refusal refuses the request. A busy answer notes its time, starts the 2 us retry and
the 512 us limit and asks for an early boundary; the retry sends again after 2 us; the limit refuses the request, while
no send is on its way. Moved sends again. RETRANSMIT_TIMEOUT before 64 us is due again; then a request to a group that
is held is sent again without counting, and another is sent again up to 8 sends and then refused with no reply. A stash
refill is asked for once and its answer joins the stash; an invalidation drops the entries of its page in its region,
restarts the walks there, removes the mark that its own word left for the region, and lets each fence the sender waits
for look. -/
def Obligations.RequesterEventsComplete : Prop :=
  (∀ (o : Origin) (seq : Nat) (s : State), s.request o seq = none → ∀ r c,
    ∀ i ∈ [Instr.replyResult o seq r, .replyRefuse o seq c, .replyBusy o seq, .replyMoved o seq, .busyRetryTimer o seq, .ownerBusyLimit o seq,
        .retransmitTimeout o seq], exec i s = .next s) ∧
  (∀ (o : Origin) (seq : Nat) (q : Req) (s : State), s.request o seq = some q →
    let refusedBy := fun (s : State) (c : Nat) => match o with
      | .strand sid => s.strandRefused sid q c
      | .engine ck => s.engineReplied ck seq (some (engineCause (match q.msg.owner with | .module _ => true | _ => false) c)) ackReply
      | .host h => s.hostReplied h seq true
    (∀ r c, s.replyWaits q = true → exec (.replyResult o seq r) s = .next (s.pushOnce (.replyResult o seq r)) ∧
      exec (.replyRefuse o seq c) s = .next (s.pushOnce (.replyRefuse o seq c))) ∧
    (∀ r c, s.replyWaits q = false →
      exec (.replyResult o seq r) s = .next (match o with
        | .strand sid => s.strandReplied sid q r
        | .engine ck => s.engineReplied ck seq none r
        | .host h => s.hostReplied h seq false) ∧
      exec (.replyRefuse o seq c) s = .next (refusedBy s c)) ∧
    exec (.replyBusy o seq) s = .next ((((s.updReq o seq fun q => { q with last := s.now, busySince := some (q.busySince.getD s.now) }).pushOnce
      (.busyRetryTimer o seq)).pushOnce (.ownerBusyLimit o seq)).askEarly o) ∧
    exec (.replyMoved o seq) s = .next (s.resend o q) ∧
    exec (.busyRetryTimer o seq) s = .next (if s.now < q.last + 2000 then s.pushOnce (.busyRetryTimer o seq) else s.resend o q) ∧
    (q.busySince = none → exec (.ownerBusyLimit o seq) s = .next s) ∧
    (∀ t, q.busySince = some t →
      (t + 512000 ≤ s.now ∧ Instr.busyRetryTimer o seq ∈ s.agenda →
        exec (.ownerBusyLimit o seq) s = .next (({ s with agenda := s.agenda.erase (.busyRetryTimer o seq) } : State).refused o seq causeOwnerBusy)) ∧
      (¬ (t + 512000 ≤ s.now ∧ Instr.busyRetryTimer o seq ∈ s.agenda) → exec (.ownerBusyLimit o seq) s = .next (s.pushOnce (.ownerBusyLimit o seq)))) ∧
    (s.now < q.last + 64000 → exec (.retransmitTimeout o seq) s = .next (s.pushOnce (.retransmitTimeout o seq))) ∧
    (q.last + 64000 ≤ s.now →
      let st := s.ownerState q.msg.owner
      (st = 1 ∨ st = 2 → exec (.retransmitTimeout o seq) s = .next (s.resend o q)) ∧
      (st ≠ 1 → st ≠ 2 → q.sends < 8 → exec (.retransmitTimeout o seq) s =
        .next ((s.updReq o seq fun q => { q with sends := q.sends + 1 }).resend o q)) ∧
      (st ≠ 1 → st ≠ 2 → 8 ≤ q.sends → exec (.retransmitTimeout o seq) s = .next (refusedBy s causeNoReply)))) ∧
  (∀ (ck : Nat) (t : TokRec) (s : State),
    exec (.stashRefillAnswer ck t) s = .next (((s.updCore ck fun c =>
      { c with stash := c.stash ++ [t], refilling := false, got := c.got ++ [t] }).askToken ck).serveStash ck) ∧
    ((s.core ck).refilling = false → exec (.stashRefillRequest ck) s = .next (s.serveStash ck)) ∧
    ((s.core ck).refilling = true → (s.region (s.rkOf ck)).asking.contains ck = false → (∀ t, Instr.stashRefillAnswer ck t ∉ s.agenda) →
      exec (.stashRefillRequest ck) s = .next ((s.updRegion (s.rkOf ck) fun r => { r with asking := r.asking ++ [ck] }).serveTokens (s.rkOf ck)))) ∧
  (∀ (rk pid : Nat) (off : Option Nat) (sid seq : Nat) (s : State),
    let keep := fun (l : List TlbEntry) => l.filter fun e => !dropsEntry pid off e
    let here := (s.partCores pid).filter fun ck => s.rkOf ck = rk
    let s1 := here.foldl (fun s ck => s.updCore ck fun c => { c with tlb := keep c.tlb }) s
    let s2 := (s1.partGroups pid).foldl (fun s gk => if s.rkOfG gk = rk then s.updGroup gk fun g => { g with tlb := keep g.tlb } else s) s1
    let s3 := s2.updRegion rk fun r => { r with tlb := keep r.tlb }
    let s4 := ((here.flatMap coreStrands).foldl State.restartWalks s3).updStrand sid fun x =>
      { x with tlbinvOut := x.tlbinvOut.filter fun p => p != (seq, rk) }
    exec (.tlbInvalidationArrival rk pid off (sid, seq)) s = .next (((s4.strand sid).ctx.flights.filter fun f => !f.arrived && decide (f.pend = .pfence)).foldl
      (fun s f => s.pushOnce (.variableResultLand sid f.seq)) s4))

/-- SET_ACQUIRE_REQUEST at its home: a set that the task holds already, or that overlaps none of another task's while one of
the 512 entries is free, is granted; with the table full it is asked for again; where it overlaps, it waits, and if the
task is older than every holder each is wounded. SET_GRANT to a task that asks sets the set's bit in its record and
wakes the strand; a task that neither asks nor holds it gives the set back. SET_RELEASE removes the set's entry and
decides every waiting request again, the oldest first, logged at the core that held it. WOUND_ROLLBACK of the task it
was sent for, with sets and no strand or on a settled strand, writes its log back and gives its sets back; when all are
released the task starts again: READY in its queue with its identity, or on its strand; an unsettled strand is stopped
first. DEBUG_KILL of a settled strand being killed, with no engine command or array command left, ends its task, or
without one leaves it idle; a running strand is stopped first. Where the core is held by a move, each is due again. That
a core logs these actions is the model's choice (log 29). -/
def Obligations.SetsAndWoundsComplete : Prop :=
  (∀ (q : SetReq) (s : State),
    let w := q.home
    let s1 := s.senseOwner w 7
    let o := s1.owner w
    let others := o.waiters.filter fun p => !sameSet p q
    let others' := fun (o : OwnerData) => { o with waiters := others }
    let held := o.heldReqs.any fun h => sameSet h q
    let free := (List.range 512).find? fun e => (o.locks.find e).isNone
    (held = true → exec (.setAcquireRequest q) s = .next ((s1.updOwner w others').grantSet w q)) ∧
    (held = false → o.holders q = [] →
      (free = none → exec (.setAcquireRequest q) s = .next (s.pushOnce (.setAcquireRequest q))) ∧
      (∀ e, free = some e → exec (.setAcquireRequest q) s =
        .next ((s1.updOwner w fun o => { o with locks := o.locks.put e q, waiters := others }).grantSet w q))) ∧
    (held = false → o.holders q ≠ [] →
      let s2 := s1.updOwner w fun o => { o with waiters := others ++ [q] }
      (((o.holders q).all fun h => reqOlder q h) = true →
        exec (.setAcquireRequest q) s = .next ((o.holders q).foldl (fun s h => s.woundHolder w h) s2)) ∧
      (((o.holders q).all fun h => reqOlder q h) = false → exec (.setAcquireRequest q) s = .next s2))) ∧
  (∀ (sid : Nat) (n : Fin 8) (s : State),
    (s.coreHeld (ckOf sid) = true → exec (.setGrant sid n) s = .next (s.pushOnce (.setGrant sid n))) ∧
    (s.coreHeld (ckOf sid) = false →
      (∀ q, ((s.strand sid).asking.find? fun q => q.set == n) = some q →
        let s1 := (s.setRec q.core q.record 27 1 (s.recSets q.core q.record ||| 2 ^ n.val)).updStrand sid fun y =>
          { y with asking := y.asking.filter fun p => p.set != n }
        exec (.setGrant sid n) s = .next (if (s1.strand sid).why = .set n then s1.wake sid else s1)) ∧
      (∀ i, ((s.strand sid).asking.find? fun q => q.set == n) = none → (s.strand sid).task = some i →
        (s.recSets (ckOf sid) i).testBit n.val = false →
        exec (.setGrant sid n) s = .next (s.push (.setRelease (s.setHome sid n) (ckOf sid) (i, s.stampOf (ckOf sid) i) n))))) ∧
  (∀ (w : Owner) (ck i : Nat) (st : Nat × Nat) (n : Fin 8) (s : State),
    let freed := (s.updOwner w fun o => { o with locks := o.locks.filter fun h => !(requestOf h.2 ck i st && h.2.set == n) }).redecide w
    (s.lockCore w ck i st n = none → exec (.setRelease w ck (i, st) n) s = .next freed) ∧
    (∀ c, s.lockCore w ck i st n = some c →
      (s.coreHeld c = true → exec (.setRelease w ck (i, st) n) s = .next (s.pushOnce (.setRelease w ck (i, st) n))) ∧
      (s.coreHeld c = false → exec (.setRelease w ck (i, st) n) s = .next (freed.logHardware c (.release w ck i st n))))) ∧
  (∀ (ck i : Nat) (st : Nat × Nat) (s : State),
    let again := fun (s : State) => s.pushOnce (.woundRollback ck (i, st))
    (s.coreHeld ck = true → exec (.woundRollback ck (i, st)) s = .next (again s)) ∧
    (s.coreHeld ck = false → s.stampOf ck i ≠ st → exec (.woundRollback ck (i, st)) s = .next s) ∧
    (s.coreHeld ck = false → s.stampOf ck i = st → s.recState ck i ≠ recEnding → s.recState ck i ≠ recFree → s.recState ck i ≠ recPending →
      let s1 := s.takeBack ck i
      let ends := exec (.woundRollback ck (i, st)) s =
        .next (if (s1.locksOf ck i).isEmpty then (s1.woundEnds ck i).logHardware ck (.wound ck i) else again s1)
      (s.runner ck i = none → s.recSets ck i ≠ 0 → ends) ∧
      (∀ sid, s.runner ck i = some sid → (s.strand sid).killing = false →
        let x := s.strand sid
        (x.settled = true → ends) ∧
        (x.settled = false → exec (.woundRollback ck (i, st)) s = .next (again ((s.setStrand sid { x with wounded := true }).stop sid)))))) ∧
  (∀ (ck i : Nat) (s : State),
    let s0 := s.setRec ck i 27 1 0
    (∀ sid, s.runner ck i = some sid → s.woundEnds ck i =
      (s0.keepIdentity ck i (s.strand sid).sn.toNat (s.strand sid).floor.toNat).restartTask sid i) ∧
    (s.runner ck i = none →
      let ctx := s.recField ck i 52 4
      let im := localFlat ck ctx
      let s2 := if ctx = 0 then s0 else s0.keepIdentity ck i (s.load (im + 5200) 4) (s.load (im + 5204) 4)
      let s3 := (s2.setRec ck i 52 4 0).setRecState ck i recReady
      s.woundEnds ck i = if (s3.core ck).rqHas i then s3 else s3.rqAppend ck i)) ∧
  (∀ (sid : Nat) (s : State),
    let x := s.strand sid
    let ck := ckOf sid
    (x.killing = true → s.coreHeld ck = true → exec (.debugKill sid) s = .next (s.pushOnce (.debugKill sid))) ∧
    (x.killing = true → s.coreHeld ck = false → x.st ≠ .idle → x.st ≠ .stopped → x.st ≠ .frozen →
      exec (.debugKill sid) s = .next ((s.stop sid).pushOnce (.debugKill sid))) ∧
    (x.killing = true → s.coreHeld ck = false → x.settled = true → x.ceOut = [] → s.hasJobs sid = false →
      (∀ i, x.task = some i → exec (.debugKill sid) s = .next (((s.rollback ck i).finishTask sid i).logHardware ck (.kill sid))) ∧
      (x.task = none → exec (.debugKill sid) s = .next ((((s.idleStrand sid).noteDone sid).retry ck).logHardware ck (.kill sid)))))

/-- In a region of a partition that no pre-emption asks to yield, LAUNCH_EXPANSION first places the first held task that can
be placed, which is then held no more. With none, it takes the next work item of the oldest launch: a home in another
region (or none) is passed over; at a home here the task takes its record there, or, where it cannot, is held from now
on, and LAUNCH_STALLED will look at it. The launch's next item and its count at that home rise by one, and a launch
without items left is gone. LAUNCH_STALLED reports each task held for 1 ms that was not reported, once, and is due again
while one remains unreported. SLUICE_GOVERNOR_TICK before its time is due again; at its time it is due 1 us later, and
where an enabled stage is over HI with room below MAXC and another is under LO with more than MINC, the highest core of
the second that no move holds joins the first and is told in its inbox 15. That the core logs it is the model's choice
(log 29). -/
def Obligations.LaunchAndGovernorComplete : Prop :=
  (∀ (pid rk : Nat) (s : State), (s.region rk).pid = some pid → (s.part pid).preempt = none →
    let r := s.region rk
    (∀ pre h post s1, r.held = pre ++ h :: post → (∀ g ∈ pre, s.placeTask g.hdr g.wid g.core g.record g.age = none) →
      s.placeTask h.hdr h.wid h.core h.record h.age = some s1 →
      exec (.launchExpansion pid rk) s = .next ((s1.updRegion rk fun x => { x with held := pre ++ post }).pushOnce (.launchExpansion pid rk))) ∧
    ((∀ g ∈ r.held, s.placeTask g.hdr g.wid g.core g.record g.age = none) → ∀ l rest, r.launches = l :: rest →
      let w := hdrWork l.hdr l.next
      let keep := fun (l : Launch) (x : Region) => { x with launches := if hdrTasks l.hdr ≤ l.next then rest else l :: rest }
      let home := s.hdrHome pid l.hdr l.ox l.oy l.oseat w
      (home = none ∨ (∃ ck, home = some ck ∧ s.rkOf ck ≠ rk) → exec (.launchExpansion pid rk) s =
        .next ((s.updRegion rk (keep { l with next := l.next + 1 })).pushOnce (.launchExpansion pid rk))) ∧
      (∀ ck, home = some ck → s.rkOf ck = rk →
        let j := l.counts.getD ck 0
        let i := hdrRbase l.hdr + j
        let l1 : Launch := { l with next := l.next + 1, counts := l.counts.put ck (j + 1) }
        (∀ s1, s.placeTask l.hdr (BitVec.ofNat 64 w) ck i l.age = some s1 →
          exec (.launchExpansion pid rk) s = .next ((s1.updRegion rk (keep l1)).pushOnce (.launchExpansion pid rk))) ∧
        (s.placeTask l.hdr (BitVec.ofNat 64 w) ck i l.age = none →
          let h : HeldTask := { hdr := l.hdr, wid := BitVec.ofNat 64 w, core := ck, record := i, age := l.age, since := s.now, told := false }
          exec (.launchExpansion pid rk) s = .next ((((s.updRegion rk (keep l1)).updRegion rk fun x =>
            { x with held := x.held ++ [h] }).pushOnce (.launchStalled pid rk)).pushOnce (.launchExpansion pid rk)))))) ∧
  (∀ (pid rk : Nat) (s : State), (s.region rk).pid = some pid →
    let held := (s.region rk).held
    let due := fun (h : HeldTask) => !h.told && decide (h.since + 1000000 ≤ s.now)
    let s1 := (held.filter due).foldl (fun s h => s.report 0x40 0 (s.supCore pid rk) (leBytes 3 (lcoreOf h.core) ++ leBytes 2 h.record)) s
    let hs := held.map fun h => { h with told := h.told || due h }
    let s2 := s1.updRegion rk fun x => { x with held := hs }
    ((∃ h ∈ hs, h.told = false) → exec (.launchStalled pid rk) s = .next (s2.pushOnce (.launchStalled pid rk))) ∧
    ((∀ h ∈ hs, h.told = true) → exec (.launchStalled pid rk) s = .next s2)) ∧
  (∀ (rk pid : Nat) (s : State), (s.region rk).pid = some pid →
    let r := s.region rk
    (s.now < r.govAt → exec (.sluiceGovernorTick rk) s = .next (s.pushOnce (.sluiceGovernorTick rk))) ∧
    (r.govAt ≤ s.now →
      let s1 := (s.updRegion rk fun r => { r with govAt := r.govAt + 1000 }).pushOnce (.sluiceGovernorTick rk)
      (r.reassign = none → exec (.sluiceGovernorTick rk) s = .next s1) ∧
      (∀ rcv don c, r.reassign = some (rcv, don) →
        ((s1.region rk).stages.getD don Stage.reset).cores.foldl (fun m c => max m (c + 1)) 0 = c + 1 →
        (s1.coreHeld c = true → exec (.sluiceGovernorTick rk) s = .next s1) ∧
        (s1.coreHeld c = false →
          let s2 := s1.updRegion rk fun r => { r with
            stages := (r.stages.alter don fun st => { st with cores := st.cores.filter fun d => d != c }).alter rcv fun st =>
              { st with cores := insertNat st.cores c } }
          exec (.sluiceGovernorTick rk) s = .next
            ((s2.qPush c 1 15 { val := BitVec.ofNat 64 rcv, mark := false, task := none }).2.logHardware c
              (.push c 1 15 (BitVec.ofNat 64 rcv) false))))))

/-- MODULE_START of a module that has not started, with firmware whose signature verifies, stores the digest of every image
and starts the clocks, and with any other raises mailbox code 0xFF. On a started module PARTITION_CREATE answers the
code of the first check that fails, or code 2 where no number is free, and otherwise creates the partition under a free
number; ATTESTATION_REQUEST stores the report with the signature over its digest and raises code 1. DOMAIN_AGREEMENT,
with a peer from every other module of the partition's domain, marks the partition agreed where all have its mask,
number and world, and otherwise raises mailbox code 3 (the code is the model's choice, log 62). PARTITION_DESTROY ends
its events, clears its stores, records and channels, and releases its regions, its number and what is saved of it.
RIM_CHANNEL_WORLD_SET of a channel into which no page table maps sets its world, and zeroes one that leaves the secure
world. The mailbox counts an interrupt with each code. SHAKE256 and Ed448 are taken from outside the spec (log 8), and
which free number a partition gets is the model's (log 74). -/
def Obligations.PartitionsComplete : Prop :=
  ∀ (s : State),
    let mailed := fun (code : BitVec 8) (t : State) =>
      ({ t with igfel := { t.igfel with mailbox := code, mailRaised := t.igfel.mailRaised + 1 } } : State)
    (∀ images, s.igfel.started = false →
      (bootOk images = false → exec (.moduleStart images) s = .next (mailed 0xFF s)) ∧
      (bootOk images = true → exec (.moduleStart images) s = .next ({ s with igfel :=
        { s.igfel with started := true, log := images.map fun i => (i.kind, shake256 i.bytes) } } : State).startClocks)) ∧
    (∀ desc sig, s.igfel.started = true →
      (∀ c, s.createCode desc sig = some c → exec (.partitionCreate desc sig) s = .next (mailed (BitVec.ofNat 8 c) s)) ∧
      (s.createCode desc sig = none → s.freePids = [] → exec (.partitionCreate desc sig) s = .next (mailed 2 s)) ∧
      (s.createCode desc sig = none → s.freePids ≠ [] →
        ∃ pid ∈ s.freePids, exec (.partitionCreate desc sig) s = .next (s.createPart pid desc).bump)) ∧
    (∀ pid peers,
      let p := s.part pid
      p.live = true → p.dmask ≠ 0 → (∀ m < 8, p.dmask.getLsbD m = true → m ≠ p.dmod → ∃ q ∈ peers, q.dmod = m) →
      let agrees := ∀ q ∈ peers, q.dmask = p.dmask ∧ q.dpeer = p.dpeer ∧ q.secure = p.secure
      (agrees → exec (.domainAgreement { pid := pid, peers := peers }) s = .next (s.updPart pid fun p => { p with agreed := true })) ∧
      (¬ agrees → exec (.domainAgreement { pid := pid, peers := peers }) s = .next (mailed 3 s))) ∧
    (∀ pid,
      let s1 := ((((s.dropEvents pid).clearStores pid).clearRecords pid).clearChannels pid).releaseRegions pid
      exec (.partitionDestroy pid) s = .next { s1 with parts := s1.parts.del pid, saved := s.saved.filter fun q => q.2.pid != pid }) ∧
    (∀ (c : Fin 24) (secure : Bool), s.channelMapped c.val = false →
      let leaves := (s.channel c.val).secure = true ∧ secure = false
      (leaves → exec (.rimChannelWorldSet c secure) s = .next ((s.zeroChannel c.val).updChannel c.val fun x => { x with secure := false })) ∧
      (¬ leaves → exec (.rimChannelWorldSet c secure) s = .next (s.updChannel c.val fun x => { x with secure := secure }))) ∧
    (∀ nonce pid, s.igfel.started = true →
      let b := s.reportHead nonce pid
      let sig := ed448Sign Config.identitySecret (leBytes 64 (shake256 (b.take (239 + 80 * s.igfel.log.length))).toNat)
      exec (.attestationRequest nonce pid) s =
        .next (mailed 1 { s with igfel := { s.igfel with report := b ++ sig, reportRaised := s.igfel.reportRaised + 1 } }))

/-- PREEMPT_REQUEST of a live partition without one, for a save area that lies whole in rim memory of the partition's world,
opens the request with its save and its 200 us of grace. PREEMPT_SAVE within the grace, once no region has an unblocked
strand, stops every strand, and is due again; once every strand has stopped and every group is drained, it saves the
partition to the area. PREEMPT_GRACE_EXPIRY after 200 us without the stop withdraws the request, tells the host the
first region that was not blocked, and lets every region expand launches again. PARTITION_RESTORE of what an area holds,
into a rectangle on the wafer whose regions can each take their groups and whose base latency is at most 255, restores
it there; a rectangle off the wafer, a partition that still lives uninterrupted or a latency above 255 is refused with
its first region, and a region that cannot take its part with its own number; an interrupted partition gives its regions
up first (R384). The layout of the area, the rim images that a restore needs and what a pre-emption waits for are the
model's choices (logs 57, 58 and 74). -/
def Obligations.PreemptionAndRestoreComplete : Prop :=
  ∀ (s : State),
    let refused := fun (rk : Option Nat) (t : State) =>
      ({ t with igfel := { t.igfel with refusal := rk, mailRaised := t.igfel.mailRaised + 1 } } : State)
    (∀ pid,
      let p := s.part pid
      (∀ area, p.live = true → p.preempt = none → s.ofWorld p.secure area (s.saveBytes pid) = true →
        exec (.preemptRequest pid area) s = .next (((s.setPart pid
          { p with preempt := some { area := area, since := s.now, stopping := false, stopped := [] } }).pushOnce (.preemptSave pid)).pushOnce
            (.preemptGraceExpiry pid))) ∧
      (∀ q, p.preempt = some q →
        (q.stopping = false → s.now < q.since + 200000 → s.firstUnblocked pid = none →
          exec (.preemptSave pid) s = .next ((s.stopAll pid q).pushOnce (.preemptSave pid))) ∧
        (q.stopping = false → ¬ (s.now < q.since + 200000 ∧ s.firstUnblocked pid = none) →
          exec (.preemptSave pid) s = .next (s.pushOnce (.preemptSave pid))) ∧
        (q.stopping = true → s.allStopped pid = true → (∀ gk ∈ s.partGroups pid, s.groupDrained gk = true) →
          exec (.preemptSave pid) s = .next (s.savePart pid q)) ∧
        (q.stopping = false → s.now < q.since + 200000 → exec (.preemptGraceExpiry pid) s = .next (s.pushOnce (.preemptGraceExpiry pid))) ∧
        (q.stopping = false → q.since + 200000 ≤ s.now →
          let s1 := refused (s.firstUnblocked pid) (s.updPart pid fun p => { p with preempt := none })
          exec (.preemptGraceExpiry pid) s = .next ((s.partRegions pid).foldl (fun s rk => s.pushOnce (.launchExpansion pid rk)) s1)))) ∧
    (∀ area rx ry v, s.saved.find area = some v →
      let rks := rectRegions rx ry v.part.wr v.part.hr
      let beside := (s.part v.pid).live && !s.interrupted v.pid
      (12 < rx + v.part.wr ∨ 12 < ry + v.part.hr ∨ beside = true →
        exec (.partitionRestore area rx ry) s = .next (refused (some (ry * 12 + rx)) s)) ∧
      (rx + v.part.wr ≤ 12 → ry + v.part.hr ≤ 12 → beside = false →
        let s1 := if (s.part v.pid).live then s.wipePart v.pid else s
        (∀ rk, s1.restorePlans v (rks.mapIdx fun j rk => (j, rk)) = .error rk →
          exec (.partitionRestore area rx ry) s = .next (refused (some rk) s)) ∧
        (∀ plans, s1.restorePlans v (rks.mapIdx fun j rk => (j, rk)) = .ok plans →
          let w := s1.grade.width
          let sites := (rks.zip plans).flatMap fun q => q.2.1.mapIdx fun i g => (q.1 * 36 + g.1, (q.1 % 12) * w + i % w, (q.1 / 12) * 4 + i / w)
          let b := s1.latencyBase v.part.h sites
          (255 < b → exec (.partitionRestore area rx ry) s = .next (refused (some (ry * 12 + rx)) s)) ∧
          (b ≤ 255 → exec (.partitionRestore area rx ry) s = .next (s1.restorePart v rx ry plans b)))))

/-- HOST_DOORBELL sets the ring up as BAR0 has it, where the queue runs no command and the size is a power of two from 16 to
4,096, moves HEAD and takes the next command; HOST_QUEUE_RESUME of a halted queue skips the command that halted it. For
the command that a queue runs, legal and of its world: a launch of a header that is legal starts it and is done, and an
illegal or poisoned one halts with 3; a copy sends its next line, and finishes when all is sent; a signal writes its 8
bytes, in host memory at once or in the partition by a message; a wait polls: before its time it is due again, and when
its condition holds it is done, otherwise it is due 1 us later; after its limit it halts with 5. An illegal launch halts
with 1. The queue's token, the set-up by the doorbell, the start values and the codes that no rule names are the model's
choices (logs 20, 21, 74). -/
def Obligations.HostEventsComplete : Prop :=
  ∀ (q : Fin 8) (s : State),
    (∀ base size world head,
      exec (.hostDoorbell q { base := base, size := size, world := world, head := head }) s = .next ((s.updHostq q.val fun h =>
        { h.setUp base size world with head := head % (h.setUp base size world).size }).nextHostCmd q.val)) ∧
    (let h := s.hostq q.val
     (h.status = 0 → exec (.hostQueueResume q) s = .next s) ∧
     (h.status ≠ 0 → exec (.hostQueueResume q) s = .next ((s.setHostq q.val { h with status := 0, ring := (h.ring + 1) % h.size }).nextHostCmd q.val))) ∧
    (∀ r, (s.hostq q.val).run = some r →
      let op := hcOp r.cmd
      let pid := hcPart r.cmd
      let may := hcOk r.cmd = true ∧ s.hcWorld (s.hostq q.val) r.cmd = true
      (op = 1 → hcOk r.cmd = false → exec (.hostCmdLaunch q) s = .next (s.hostHalt q.val 1)) ∧
      (op = 1 → may → (s.part pid).preempt = none → ∀ ps, s.hostPieces pid (hcA r.cmd) 64 false = some ps →
        let b := s.hostRead pid ps
        let bad := b.2.1.any id || !s.hdrOk pid b.1 (s.gx0 pid) (s.gy0 pid) 0
        (bad = true → exec (.hostCmdLaunch q) s = .next (b.2.2.hostHalt q.val 3)) ∧
        (bad = false → exec (.hostCmdLaunch q) s = .next ((b.2.2.acceptLaunch pid b.1 (s.gx0 pid) (s.gy0 pid) 0).hostDone q.val))) ∧
      (op = 2 → may →
        (r.code ≠ 0 ∨ hcC r.cmd ≤ r.sent → exec (.hostCmdCopy q) s = .next (s.hostFinish q.val r)) ∧
        (r.code = 0 → r.sent < hcC r.cmd → exec (.hostCmdCopy q) s = .next ((s.copyNext q.val r).pushOnce (.hostCmdCopy q)))) ∧
      (op = 3 → may →
        (hcHost r.cmd = true → exec (.hostCmdSignal q) s =
          .next ((s.pokeList (hostFlat (valOf (hcA r.cmd)).toNat) (leBytes 8 (hcC r.cmd))).hostDone q.val)) ∧
        (hcHost r.cmd = false → r.sent ≠ 0 → exec (.hostCmdSignal q) s = .next (s.hostFinish q.val r)) ∧
        (∀ a n rest, hcHost r.cmd = false → r.sent = 0 → s.hostPieces pid (hcA r.cmd) 8 true = some ((a, n) :: rest) →
          exec (.hostCmdSignal q) s = .next (s.hostSend q.val r a (leBytes 8 (hcC r.cmd)) [false] 8))) ∧
      (op = 4 → may →
        exec (.hostCmdWait q) s = .next ((s.pushOnce (.hostWaitPoll q)).pushOnce (.hostWaitLimit q)) ∧
        (s.now < r.pollAt → exec (.hostWaitPoll q) s = .next (s.pushOnce (.hostWaitPoll q))) ∧
        (r.pollAt ≤ s.now → (s.part pid).live = true → ∀ ps, s.hostPieces pid (hcA r.cmd) 8 false = some ps →
          let b := s.hostRead pid ps
          (hcHolds r.cmd (ofLE b.1) = true → exec (.hostWaitPoll q) s = .next (b.2.2.hostDone q.val)) ∧
          (hcHolds r.cmd (ofLE b.1) = false → exec (.hostWaitPoll q) s =
            .next ((b.2.2.updHostq q.val fun h => { h with run := some { r with pollAt := r.pollAt + 1000 } }).pushOnce (.hostWaitPoll q)))) ∧
        (s.now < r.since + hcTmo r.cmd → exec (.hostWaitLimit q) s = .next (s.pushOnce (.hostWaitLimit q))) ∧
        (r.since + hcTmo r.cmd ≤ s.now → exec (.hostWaitLimit q) s = .next (s.hostHalt q.val 5))))

/-- SCRUB_TICK of a stopped scrub does nothing, before 2^SCRUB cycles is due again, and then checks the next column groups
of its unit and is due again; RIM_SCRUB likewise checks the next line of its channel. WATCHDOG_FIRE of a core that has
not failed notes which strands are ready and which results are past due; one ready or past due, or a core with a ready
strand that offered no slot, for 2^WD cycles is a core-fatal fault, and otherwise it is due again. BOUNDARY_START waits
while the group is blocked or nothing is due, and then stops the strands under the next number; BOUNDARY_RECORD waits
until the group is quiet, and then records it and lets it go on; BOUNDARY_APPLY journals and writes the lines of a seat
in its image and acknowledges, and the fourth makes the boundary durable; that trims the logs and raises the floors;
BOUNDARY_ABANDON gives up after 2 ms of quiescing, naming the core that did not quiesce, and BOUNDARY_RETRY starts anew
250 us later. While an array or a core of the group fails or cannot be reached, none becomes durable. LOG_RECORD
appends, and asks for a boundary when the log fills or many lines have changed. What a quiet group is, the number of the
first snapshot and the steps' order are the model's readings (logs 26, 73, 76). -/
def Obligations.ErrorAndBoundaryEventsComplete : Prop :=
  (∀ (u : ErrUnit) (s : State),
    let x := s.unit (unitKey u)
    (x.err.scrub = 0 → exec (.scrubTick u) s = .next s) ∧
    (x.err.scrub ≠ 0 → (s.region (unitSite u).1).cyc < x.scrubAt + 2 ^ x.err.scrub → exec (.scrubTick u) s = .next (s.pushOnce (.scrubTick u))) ∧
    (x.err.scrub ≠ 0 → x.scrubAt + 2 ^ x.err.scrub ≤ (s.region (unitSite u).1).cyc →
      exec (.scrubTick u) s = .next (((s.updUnit (unitKey u) fun y =>
        { y with scrubs := y.scrubs + 1, scrubAt := y.scrubAt + 2 ^ y.err.scrub }).scrubUnit u x.scrubs).pushOnce (.scrubTick u)))) ∧
  (∀ (c : Fin 24) (s : State),
    let n := (s.channel c.val).scrubAt
    (s.now < rimDue n → exec (.rimScrub c) s = .next (s.pushOnce (.rimScrub c))) ∧
    (rimDue n ≤ s.now →
      let s2 := s.scrubLine c.val (c.val * 2 ^ 29 + n % 2 ^ 29)
      exec (.rimScrub c) s = .next ((s2.updChannel c.val fun x =>
        { x with scrubAt := n + 1, rpass := if (n + 1) % 2 ^ 29 = 0 then x.rpass + 1 else x.rpass }).pushOnce (.rimScrub c)))) ∧
  (∀ (ck : Nat) (s : State),
    let c := s.core ck
    let n := 2 ^ (s.unit (unitKey (.core c.physPlace))).wd
    let now := s.cyc ck
    let s1 := ((coreStrands ck).foldl State.watchStrand s).updCore ck fun c =>
      { c with watchFrom := sinceWhen ((coreStrands ck).any s.canIssue) c.watchFrom now }
    let late := heldFor (s1.core ck).watchFrom n now = true ∨
      ∃ sid ∈ coreStrands ck, heldFor (s1.strand sid).readyFrom n now = true ∨ heldFor (s1.strand sid).dueFrom n now = true
    c.fatal = false →
      (late → exec (.watchdogFire ck) s = .next (s1.coreFatal c.physPlace 3 9 0)) ∧
      (¬ late → exec (.watchdogFire ck) s = .next (s1.pushOnce (.watchdogFire ck)))) ∧
  (∀ (gk : Nat) (s : State),
    let g := s.group gk
    (¬ ((s.part (pidOfG gk)).live = true ∧ g.entry.state ≠ 3) → exec (.boundaryStart gk) s = .next s) ∧
    ((s.part (pidOfG gk)).live = true → g.entry.state ≠ 3 →
      (s.boundaryBlocked gk = true ∨ s.boundaryDue gk = false → exec (.boundaryStart gk) s = .next (s.pushOnce (.boundaryStart gk))) ∧
      (s.boundaryBlocked gk = false → s.boundaryDue gk = true →
        let b : Boundary := { e := g.nextE, stage := .quiesce, snap := none, since := s.now, stopped := [], logs := [], toks := [], out := [],
                              acks := [], journal := [] }
        exec (.boundaryStart gk) s = .next ((((s.setGroup gk { g with boundary := some b }).stopForBoundary gk).pushOnce (.boundaryRecord gk)).pushOnce
          (.boundaryAbandon gk)))) ∧
    (g.boundary = none → ∀ seat, exec (.boundaryRecord gk) s = .next s ∧ exec (.boundaryApply gk seat) s = .next s ∧
      exec (.boundaryDurable gk) s = .next s ∧ exec (.boundaryAbandon gk) s = .next s) ∧
    (∀ b, g.boundary = some b →
      (b.stage = .quiesce → s.groupQuiet gk = false →
        exec (.boundaryRecord gk) s = .next ((s.stopForBoundary gk).pushOnce (.boundaryRecord gk))) ∧
      (b.stage = .quiesce → s.groupQuiet gk = true →
        let s1 := (groupStrands gk).foldl (fun s sid => s.boundaryFence b.stopped sid) ((s.senseChanged gk).senseRecord gk)
        let b1 := { b with stage := .transfer, snap := some (s1.snapshot gk b.e b.stopped), out := (groupCores gk).flatMap s1.changedLines,
                           logs := (groupCores gk).map fun ck => (s1.core ck).log.length,
                           toks := (groupCores gk).map fun ck => ((s1.core ck).got.length, (s1.core ck).gave) }
        let s2 := ((s1.afterRecord gk).updGroup gk fun g => { g with boundary := some b1 }).resumeAll b.stopped
        exec (.boundaryRecord gk) s = .next ((List.finRange 4).foldl (fun s i => s.push (.boundaryApply gk i)) s2)) ∧
      (∀ seat : Fin 4, b.stage = .transfer → b.acks.contains seat.val = false →
        let mine := b.out.filter fun p => decide (p.1 = seat.val)
        let at_ := fun (l : Nat) => imageFlat (gk * 4 + seat.val) (128 * l)
        let js := mine.map fun p => (at_ p.2.1, (s.lineAt (at_ p.2.1)).1, (s.lineAt (at_ p.2.1)).2)
        let s2 := (mine.foldl (fun s p => s.putLine (at_ p.2.1) p.2.2.1 p.2.2.2) s).updGroup gk fun g =>
          { g with boundary := some { b with acks := seat.val :: b.acks, journal := b.journal ++ js } }
        exec (.boundaryApply gk seat) s = .next (if b.acks.length = 3 then s2.push (.boundaryDurable gk) else s2)) ∧
      (b.acks.length < 4 ∨ s.failing gk = true → exec (.boundaryDurable gk) s = .next s) ∧
      (b.stage = .transfer → exec (.boundaryRecord gk) s = .next s ∧ exec (.boundaryAbandon gk) s = .next s) ∧
      (∀ snap, b.snap = some snap → 4 ≤ b.acks.length → s.failing gk = false →
        let s1 := s.updGroup gk fun g =>
          { g with boundary := none, durable := some snap, nextE := b.e + 1, nextBoundary := s.now + (s.part (pidOfG gk)).ival * 250000 }
        let s2 := (groupCores gk).foldl (fun s ck => s.updCore ck fun c => c.trimmed (b.logs.getD (seatOf ck) 0) (b.toks.getD (seatOf ck) (0, 0))) s1
        let s3 := snap.cores.foldl State.engineFloor (snap.strands.foldl State.strandFloor s2)
        exec (.boundaryDurable gk) s = .next (((groupCores gk).foldl State.retryCore s3).pushOnce (.boundaryStart gk))) ∧
      (b.stage = .quiesce → s.now < b.since + 2000000 → exec (.boundaryAbandon gk) s = .next (s.pushOnce (.boundaryAbandon gk))) ∧
      (b.stage = .quiesce → b.since + 2000000 ≤ s.now →
        let who := (s.unquiet gk).getD (gk * 4)
        let s1 := (s.updGroup gk fun g => { g with boundary := none, nextBoundary := s.now + 250000 }).resumeAll b.stopped
        let s2 := (groupCores gk).foldl (fun s ck => s.updCore ck fun c => { c with early := false }) s1
        exec (.boundaryAbandon gk) s =
          .next ((s2.report 0x49 0 who (leBytes 4 b.e ++ leBytes 3 (lcoreOf who))).pushOnce (.boundaryRetry gk)))) ∧
    exec (.boundaryRetry gk) s = .next (if s.now < g.nextBoundary then s.pushOnce (.boundaryRetry gk) else s.pushOnce (.boundaryStart gk))) ∧
  (∀ (ck : Nat) (r : LogRec) (s : State),
    let s1 := s.updCore ck fun c => c.recorded r
    exec (.logRecord ck r) s = .next ((if (s1.core ck).wantsBoundary then s1.askBoundary ck else s1).retryCore ck))

/-- RECOVERY_START of a group of a live partition that is not interrupted, and GROUP_UNREACHABLE for it as an unreachable
one, first fence what failed, end a Basin retirement of the group and discard its boundary. Without a durable boundary,
or with a core whose copy was lost, the job is interrupted for reason 1; otherwise a recovery is open, the group is
restored at the place that Basin chooses, and without a place that is reported and the job interrupted for the reason
found. RECOVERY_REPLAY of a recovering group in STATE 2 applies what its logs name next, and finishes the recovery when
they are exhausted, else is due again. In a change of the entry, a router of the partition that has not done so records
the pending entry in phase 1 and makes it current in phase 2, its own router then moving the group; a phase in which
every router has answered ends. ROUTER_ACK_TIMEOUT before 50 us is due again, and then gives the router up; its group,
or the group that a recovery takes to its place, is unreachable, and one without a group is no spare any more. An entry
of a live partition with a double error has been fetched anew, and messages for the group pass its router again. The
forward window ends at its time, after which the old place answers moved. The order of these steps and what a router
does with 16 entries pending are the model's choices (logs 73 and 91). -/
def Obligations.RecoveryAndRoutersComplete : Prop :=
  ∀ (gk : Nat) (s : State),
    let g := s.group gk
    ((s.part (pidOfG gk)).live = true → g.entry.state ≠ 3 → ∀ w,
      let answers := fun (t : State) => exec (.recoveryStart gk w) s = .next t ∧ (w = .unreachable → exec (.groupUnreachable gk) s = .next t)
      let lost := ∃ ck ∈ groupCores gk, (s.core ck).copyLost ≠ 0
      let s1 := ((s.fence gk w).replaceBasin gk).discardBoundary gk (failCode w)
      (g.durable = none ∨ lost → answers (s1.interrupt gk 1)) ∧
      (∀ d, g.durable = some d → ¬ lost →
        let s2 := if g.recovery.isSome then s1 else s1.openRecovery gk w
        (∀ n, s2.choosePlace gk = .error n → answers ((s2.report 0x4E 0 (gk * 4) [BitVec.ofNat 8 (s.rkOfG gk)]).interrupt gk n)) ∧
        (∀ p, s2.choosePlace gk = .ok p → answers (s2.recoverAt gk w d p)))) ∧
    (∀ v, g.recovery = some v → g.entry.state = 2 →
      let s1 := (groupCores gk).foldl (fun s ck => s.replayCore ck (s.core ck).replay.length) s
      (s1.replayDone gk = true → exec (.recoveryReplay gk) s = .next (s1.finishRecovery gk v)) ∧
      (s1.replayDone gk = false → exec (.recoveryReplay gk) s = .next (s1.pushOnce (.recoveryReplay gk)))) ∧
    (∀ pid router b, g.rebind = some b → (s.routers pid).contains router = true →
      (b.phase2 = false → b.pending.contains router = false → exec (.routerEntryPending pid router gk) s =
        .next (if 16 ≤ s.pendingAt pid router then s.push (.routerEntryPending pid router gk) else (s.updGroup gk fun g => { g with rebind := some { b with pending := b.pending ++ [router] } }).phaseEnds gk)) ∧
      (b.phase2 = true → b.committed.contains router = false →
        let b1 := { b with committed := b.committed ++ [router] }
        let s1 := s.updGroup gk fun g => { g with rebind := some b1, stale := g.stale.filter fun p => p.1 != router }
        exec (.routerEntryCommit pid router gk) s = .next ((if router = b.entry.router then s1.ownCommit gk b1 else s1).phaseEnds gk)) ∧
      ((if b.phase2 then b.committed else b.pending).contains router = false → b.lost.contains router = false →
        (s.now < b.since + 50000 → exec (.routerAckTimeout pid router gk) s = .next (s.pushOnce (.routerAckTimeout pid router gk))) ∧
        (b.since + 50000 ≤ s.now →
          let s1 := (s.updGroup gk fun g => { g with rebind := some { b with lost := b.lost ++ [router] } }).phaseEnds gk
          let home := b.basin = none ∧ router = b.entry.router
          (home → exec (.routerAckTimeout pid router gk) s = .next (s1.push (.groupUnreachable gk))) ∧
          (∀ k, ¬ home → s1.groupOfKey pid router = some k → exec (.routerAckTimeout pid router gk) s = .next (s1.push (.groupUnreachable k))) ∧
          (¬ home → s1.groupOfKey pid router = none → exec (.routerAckTimeout pid router gk) s = .next (s1.updRegion (router / 36) fun r =>
            { r with unreach := if r.unreach.contains (router % 36) then r.unreach else r.unreach ++ [router % 36],
                     spares := r.spares.filter fun g => g != router % 36 }))))) ∧
    (∀ pid router, (s.part pid).live = true → exec (.routerEntryDoubleError pid router gk) s =
      .next (s.updGroup gk fun g => { g with
        stale := g.stale.filter fun p => p.1 != router, fetching := g.fetching.filter fun r => r != router })) ∧
    (g.forwarding = true →
      (s.now < g.forwardUntil → exec (.forwardWindowExpiry gk) s = .next (s.pushOnce (.forwardWindowExpiry gk))) ∧
      (g.forwardUntil ≤ s.now → exec (.forwardWindowExpiry gk) s = .next (s.setGroup gk { g with forwarding := false, moved := true })))

/-- STRAND_SWAP at a double-seated core exchanges the two strands where the swap may take place, and the next possible swap
(if there is one) is considered. A Basin command that comes out of order, or names a core that is not of its region,
ends with that error and no other effect. Otherwise: drain marks the core drained; stop stops its strands, and ends when
the core is still, which fences them as a boundary does, else is due again; migrate to a spare position of the core's
group, outside a boundary, copies the live span and holds requests to the core; remap-prepare of that same target starts
phase 1 for it, and remap-commit with a change open starts phase 2; boundary-now asks for a boundary; fail ends and
starts the recovery of the core's group; return makes a position of a group in service, or a group out of service, a
spare, and counts a retired position of another group again, where the policy, the self-test and the tables allow it,
and otherwise ends with error 2. A target that is no spare ends migrate with error 2 and releases what was held. Which
swap comes next, and what a sequence that fails leaves, are the model's choices (log 73). -/
def Obligations.SwapsAndBasinCommandsComplete : Prop :=
  (∀ (ck inn out : Nat) (s : State), (s.core ck).dbl = true →
    let s1 := if (s.swaps ck).contains (inn, out) = true then s.updCore ck fun c =>
        { c with parked := out :: c.parked.filter fun n => n != inn,
                 swapBase := (inn, (s.strand (sidOf ck inn)).committed) :: c.swapBase.filter fun p => p.1 != out && p.1 != inn }
      else s
    ∃ p, (p ∈ s1.swaps ck ∨ s1.swaps ck = [] ∧ p = (inn, out)) ∧
      exec (.strandSwap ck inn out) s = .next (s1.bump.pushOnce (.strandSwap ck p.1 p.2))) ∧
  (∀ (c : BasinCmd) (s : State),
    (∀ p ∈ [(Instr.basinDrain c, 1), (.basinStop c, 2), (.basinMigrate c, 3), (.basinRemapPrepare c, 4), (.basinRemapCommit c, 5),
        (.basinBoundaryNow c, 7), (.basinFail c, 8)], ∀ e, s.basinError c p.2 = some e → exec p.1 s = .next (s.basinFinish c p.2 e 0)) ∧
    (s.basinError c 1 = none → exec (.basinDrain c) s = .next ((s.updCore c.core fun k => { k with drained := true }).basinFinish c 1 0 0)) ∧
    (s.basinError c 2 = none →
      let live := (coreStrands c.core).filter fun sid => !(s.strand sid).st.still && !(s.strand sid).stopping
      let s1 := (live.foldl State.stop s).updCore c.core fun k =>
        { k with basinStopped := k.basinStopped ++ live.filter fun sid => !k.basinStopped.contains sid }
      (s1.coreStill c.core = true → exec (.basinStop c) s = .next ((s1.stopFence c.core).basinFinish c 2 0 0)) ∧
      (s1.coreStill c.core = false → exec (.basinStop c) s = .next (s1.pushOnce (.basinStop c)))) ∧
    (s.basinError c 3 = none →
      (s.spareTarget c = false → exec (.basinMigrate c) s =
        .next (((s.updCore c.core fun k => { k with moving := false }).basinFinish c 3 2 0).releaseHeld (gkOf c.core))) ∧
      (s.spareTarget c = true → (s.group (gkOf c.core)).boundary ≠ none → exec (.basinMigrate c) s = .next (s.pushOnce (.basinMigrate c))) ∧
      (s.spareTarget c = true → (s.group (gkOf c.core)).boundary = none →
        let s1 := ((s.leaveUnit c.core).updCore c.core fun k => { k with moving := true }).updRegion c.region fun r =>
          { r with basin := { r.basin with target := (c.group, c.pos) } }
        exec (.basinMigrate c) s = .next (s1.basinFinish c 3 0 (s1.core c.core).liveSpan))) ∧
    (s.basinError c 4 = none → s.spareTarget c = true → (s.region c.region).basin.target = (c.group, c.pos) →
      let e := (s.group (gkOf c.core)).entry
      let ps := e.pos.setIfInBounds (seatOf c.core) c.pos
      exec (.basinRemapPrepare c) s = .next (s.startRebind (gkOf c.core) { e with ver := e.ver + 1, dbl := dblBits ps, pos := ps } (some c.core))) ∧
    (s.basinError c 5 = none → (s.group (gkOf c.core)).rebind ≠ none → exec (.basinRemapCommit c) s = .next (s.startCommit (gkOf c.core))) ∧
    (let r := s.region c.region
     let ok := Config.returnAllowed c.region c.group c.pos
     (∀ gk, s.groupOfKey (pidOf c.core) (c.region * 36 + c.group) = some gk →
       (ok = true → s.posReturns c gk = true → exec (.basinReturn c) s = .next ((s.setRegion c.region { r with
         sparePos := r.sparePos ++ [(c.group, c.pos)], retired := r.retired.filter fun x => x != (c.group, c.pos) }).basinFinish c 6 0 0)) ∧
       (ok = false ∨ s.posReturns c gk = false → exec (.basinReturn c) s = .next (s.basinFinish c 6 2 0))) ∧
     (s.groupOfKey (pidOf c.core) (c.region * 36 + c.group) = none →
       let tested := r.retired.contains (c.group, c.pos) && (r.groupLive c.group).testBit c.pos
       (ok = true → tested = true → exec (.basinReturn c) s = .next ((s.setRegion c.region { r with
         retired := r.retired.filter fun x => x != (c.group, c.pos) }).basinFinish c 6 0 0)) ∧
       (ok = true → tested = false → r.groupReturns c.group = true → exec (.basinReturn c) s = .next ((s.setRegion c.region { r with
         spares := r.spares ++ [c.group], outGroups := r.outGroups.filter fun g => g != c.group }).basinFinish c 6 0 0)) ∧
       (ok = false ∨ (tested = false ∧ r.groupReturns c.group = false) → exec (.basinReturn c) s = .next (s.basinFinish c 6 2 0)))) ∧
    (s.basinError c 7 = none → exec (.basinBoundaryNow c) s = .next ((s.askBoundary c.core).basinFinish c 7 0 0)) ∧
    (s.basinError c 8 = none → exec (.basinFail c) s = .next ((s.basinFinish c 8 0 0).recover (gkOf c.core) (.failCommand c.core))))

/-- One or two words of every family, each written out by the spec bit by bit beside its assembly text, decode to that
instruction with its operands: moves and long immediates, ia, vpfx, vset and vx, mx, ls, qs, at, ce, sq, sy, ct and sr.
The word of mx.mma with a slot that exists decodes; vpfx outside a prefixed pair is still a word of its own here, and
the pair form is the issue's rule. -/
def Obligations.DecodesSpecWords : Prop :=
  let h : Hdr := { lone := false, guard := 0 }
  decodeWord 0x40392001 = some (.ldi { lone := true, guard := 0 } 9 1) ∧
  decodeWord 0x00B93345 = some (.ldih h 9 0x2345) ∧
  decodeWord 0x00003680 = some (.mov h 3 (.sr 0)) ∧
  decodeWord 0x0007F005 = some (.movIaO h (.g 5)) ∧
  decodeWord 0x00040ABC = some (.iaAddC h (.imm 700)) ∧
  decodeWord 0x802781C7 = some (.iaCmplt h 2 (.g 3) (.imm 7)) ∧
  decodeWord 0x8049E245 = some (.iaPand h 4 4 5) ∧
  decodeWord 0x0013F63A = some (.vpfx { mask := 3, mz := false, rm := 1, x := true, v4 := 5, sat := false }) ∧
  decodeWord 0x00130801 = some (.vset h (.imm 1)) ∧
  decodeWord 0x8191152B = some (.vxFma h 1 (.v 2) (.v 3)) ∧
  decodeWord 0x0014D813 = some (.mxMmaM64n64k32Bf16 h 0 (.imm 0x13)) ∧
  decodeWord 0x03D40840 = some (.mxLease h 15 (.imm 64)) ∧
  decodeWord 0x02198004 = some (.lsLd64 h 8 0 (.g 4)) ∧
  decodeWord 0x009A4009 = some (.lsStp h 2 (.g 9)) ∧
  decodeWord 0x00302003 = some (.qsBind h 2 (.g 3)) ∧
  decodeWord 0x019C1004 = some (.atAdd64 h 6 (.g 4)) ∧
  decodeWord 0x00216800 = some (.ceCopyq h 2) ∧
  decodeWord 0x00E41005 = some (.sqPop h 3 (.g 5)) ∧
  decodeWord 0x00280005 = some (.syBinit h 0 (.g 5)) ∧
  decodeWord 0x002C0FFB = some (.ctBr h (-5)) ∧
  decodeWord 0x282C6800 = some (.ctHalt { lone := false, guard := 10 }) ∧
  decodeWord 0x00348005 = some (.srWrite h 8 (.g 5)) ∧
  decodeWord 0x00342004 = some (.writeAlarm h (.g 4)) ∧
  decodeWord 0x00F7D007 = some (.srTlbinv h 3 (.g 7))

/-- For every instruction that is well formed and has a word, at every value of its guard, its lone bit, its lookahead, its
sources, registers and immediates: the decoder reads that word as the same instruction. So no field of an encoding is
dropped or shared by two operands, and no two well-formed instructions have one word. -/
def Obligations.AllWordsRoundTrip : Prop :=
  (∀ (i : Instr) (w : Word32), i.wf = true → encode i = some w → decodeWord w = some i) ∧
  (∀ (i j : Instr) (w : Word32), i.wf = true → j.wf = true → encode i = some w → encode j = some w → i = j)

/-- Where nothing can happen only time passes. A chosen event leaves the agenda, disturbed cells fall, and exec runs it,
unless its fabric loses it. A chosen core offers its slot to its next ready strand: where no chunk must end first and
serial mode waits for nothing, a pair that the group's cache does not hold is a slip; otherwise the strand's stored
words are sensed, and a lone word that decodes to i is run by exec of i and the bundle is then finished; a word that is
none, that the pair's form makes illegal, or that triggers its bundle's other unit again, is the illegal word. Of a pair
that decodes to c and a, exec of c runs first, and a pair whose first word is held back ends there. A second word that
names no stream then runs on the state c leaves; one that names streams reads its elements on the state without c's
writes, and runs on the state c leaves with those elements. Where it is held back, it is run again on the state without
c's writes, which is what the bundle leaves if it is held back there too; otherwise the bundle waits as a whole.
Finishing the bundle moves the pc to the branch or past the bundle. Beside it the dispatchers' tables are sensed, and a
word that the step writes is whole again (with no disturbed cell both change nothing). The model's choice, not the
spec's: which candidate goes and which message is lost are free (logs 3, 6, 11), the word an illegal pair's packet
carries and a strand that resumes at a second word (logs 41, 42), and when a failing word is sensed (log 65). -/
def Obligations.StepRunsDecodedBundle : Prop :=
  ∀ (s : State),
    (s.tick.chosen = none → step s = .next s.tick) ∧
    ((∀ u, (s.unit u).flips = []) → s.senseTables = s ∧ ∀ t : State, (∀ u, (t.unit u).flips = []) → s.renewed t = t) ∧
    (∀ (n : Nat) (e : Instr), s.tick.chosen = some (.event n) → s.tick.agenda[n]? = some e →
      let s0 := ({ s.tick with agenda := s.tick.agenda.eraseIdx n } : State).disturb.senseTables
      let lost := s.tick.losable e && Config.lost s.tick.steps
      (lost = false → step s = thenState (exec e s0) fun t => .next (s0.renewed t)) ∧ (lost = true → step s = .next (s0.afterLoss e))) ∧
    (∀ (ck sid : Nat), s.tick.chosen = some (.core ck) → s.tick.nextStrand ck = some sid →
      let sb := s.tick.senseTables
      let s0 := { sb.updCore (ckOf sid) fun c => { c with watchFrom := none } with cur := sid, held := false }
      let x := s0.strand sid
      x.closes = false → x.endChunk = false → (x.serialLeft = 0 ∨ (x.await = none ∧ x.effect = none ∧ x.ctl = [])) →
      ((s0.group (gkOf (ckOf sid))).pairAt x.ctx.pc = none → step s = thenState (exec (.slip sid) s0) fun t => .next (sb.renewed t)) ∧
      (∀ pair, (s0.group (gkOf (ckOf sid))).pairAt x.ctx.pc = some pair →
        let b := bundleOf pair x.ctx.second
        let s1 := s0.senseStrand sid
        let ends := fun (r : Res) => thenState r fun t => .next (sb.renewed (t.finishBundle s0 (b.next x.ctx.pc)))
        let illegal := fun (w : Word32) (second : Bool) => step s = ends (exec .illegalWord { s1 with word := w, second := second })
        (∀ w second i, b = .one w second → decodeWord w = some i → step s = ends (exec i { s1 with word := w, second := second })) ∧
        (∀ w second, b = .one w second → decodeWord w = none → illegal w second) ∧
        (∀ w second, b = .bad w second → illegal w second) ∧
        (∀ wc wa, b = .two wc wa → decodeWord wc = none → illegal wc false) ∧
        (∀ wc wa c, b = .two wc wa → decodeWord wc = some c → (decodeWord wa = none ∨ sameUnit wc wa = true) → illegal wa true) ∧
        (∀ wc wa c a sc, b = .two wc wa → decodeWord wc = some c → decodeWord wa = some a → sameUnit wc wa = false →
          exec c { s1 with word := wc, second := false } = .next sc →
          (sc.held = true → step s = ends (.next sc)) ∧
          (sc.held = false →
            let base := (s1.afterPops sc.me.popped).updMe fun x => { x with prefixed := sc.me.prefixed, popped := [] }
            let alone := exec a { base with word := wa, second := true }
            let finish := fun (sa : State) =>
              (sa.held = false → step s = ends (.next sa)) ∧
              (sa.held = true → ∀ r, alone = .next r → (r.held = true → step s = ends (.next r)) ∧
                (r.held = false → step s = ends (.next (if sa.me.st.waits then s1.holdAs sa else sa))))
            (namesStream wa = false → ∀ sa, exec a { sc with word := wa, second := true } = .next sa → finish sa) ∧
            (namesStream wa = true → ∀ sr, alone = .next sr →
              (sr.held = true → step s = ends (.next sr)) ∧
              (sr.held = false →
                let es := sr.me.popped.map fun e => { e with kept := decide (rebinds s1.ctx c = some e.j) }
                ∀ sa, exec a { (sc.updMe fun x => { x with given := es }) with word := wa, second := true } = .next sa → finish sa))))))

/-- For every state, exec of every instruction of the opcode table answers a next state, and so does a step: an illegal
word, a fault, a wait and an event that comes too late are all next states of the machine, and no behaviour of the
device is left without one. -/
def Obligations.EveryStepAnswers : Prop :=
  (∀ (i : Instr) (s : State), ∃ t, exec i s = .next t) ∧ (∀ s : State, ∃ t, step s = .next t)

namespace Sys2Proof.Claims

open Sys2Proof.Machine

/-- The operation of a vector word, `vx.xchg` apart (Table 5-3). -/
def vecOpOf (i : Instr) : Option VOp :=
  match i with
  | .vxAdd _ _ _ _ => some .add
  | .vxSub _ _ _ _ => some .sub
  | .vxMul _ _ _ _ => some .mul
  | .vxMulh _ _ _ _ => some .mulh
  | .vxFma _ _ _ _ => some .fma
  | .vxFms _ _ _ _ => some .fms
  | .vxNfma _ _ _ _ => some .nfma
  | .vxMin _ _ _ _ => some .min
  | .vxMax _ _ _ _ => some .max
  | .vxAbs _ _ _ => some .abs
  | .vxNeg _ _ _ => some .neg
  | .vxAnd _ _ _ _ => some .and
  | .vxOr _ _ _ _ => some .or
  | .vxXor _ _ _ _ => some .xor
  | .vxShl _ _ _ _ => some .shl
  | .vxShr _ _ _ _ => some .shr
  | .vxSar _ _ _ _ => some .sar
  | .vxCmpeq _ _ _ _ => some .cmpeq
  | .vxCmpne _ _ _ _ => some .cmpne
  | .vxCmplt _ _ _ _ => some .cmplt
  | .vxCmple _ _ _ _ => some .cmple
  | .vxSel _ _ _ _ => some .sel
  | .vxCvt _ _ _ => some .cvt
  | .vxWadd _ _ _ _ => some .wadd
  | .vxWmul _ _ _ _ => some .wmul
  | .vxNarrow _ _ _ => some .narrow
  | .vxSum _ _ => some .sum
  | .vxMaxr _ _ => some .maxr
  | .vxMinr _ _ => some .minr
  | .vxPerm _ _ _ _ => some .perm
  | .vxShuf _ _ _ _ => some .shuf
  | .vxBcast _ _ _ _ => some .bcast
  | .vxSlide _ _ _ _ => some .slide
  | .vxSexp _ _ _ _ => some .sexp
  | .vxSacc _ _ _ _ => some .sacc
  | .vxDecq _ _ _ _ => some .decq
  | .vxEncq _ _ _ _ => some .encq
  | .vxExp2 _ _ _ => some .exp2
  | .vxLog2 _ _ _ => some .log2
  | .vxRcp _ _ _ => some .rcp
  | .vxRsq _ _ _ => some .rsq
  | .vxTanh _ _ _ => some .tanh
  | .vxPopcm _ _ => some .popcm
  | .vxIota _ _ _ _ => some .iota
  | .vxMmov _ _ _ => some .mmov
  | _ => none

/-- Whether a word is a vector operation that does not admit the prefix in force (R117): one of its fields, or for `vx.sel` the
want of a mask; `vx.xchg` admits no field at all (R135). -/
def prefixRefused (i : Instr) (p : Prefix) : Bool :=
  match i, vecOpOf i with
  | .vxXchg _ _ _, _ => prefixSets p
  | _, some op => !prefixOk op p
  | _, none => false

end Sys2Proof.Claims

/-- For every instruction with a word but vpfx, and every state in which the word's guard, read from bits [29:26], is false:
exec answers the very same state, in which no stream is read, nothing is triggered, no operand latch consumed, no window
opened and no chunk ended. The one exception is a vector word whose prefix in force sets a field that its operation does
not admit (or none, for vx.sel, which needs a mask; any, for vx.xchg): it raises the illegal-word fault, and no other
vector word does. -/
def Obligations.FalseGuardDoesNothing : Prop :=
  ∀ (i : Instr) (w : Word32) (s : State), encode i = some w → (∀ p, i ≠ .vpfx p) → guardTrue s.ctx (w.extractLsb' 26 4) = false →
    exec i s = .next (if prefixRefused i (activePrefix s) then s.faultWord causeIllegal else s)

namespace Sys2Proof.Claims

open Sys2Proof.Machine

/-- No cell of any store is disturbed and no channel lists an upset: reading then corrects nothing (R351, R361). -/
def Undisturbed (s : State) : Prop := (∀ u, (s.unit u).flips = []) ∧ ∀ c, (s.channel c).upsets = []

/-- The bytes that a word deferred by a task holding a set writes: the next deferred entry of the task's undo log, and the
count of them in its record (R299, R300). -/
def DeferStores (s : State) (a : Nat) : Prop :=
  ∃ i, s.me.task = some i ∧ s.heldSets s.cur ≠ 0 ∧
    let r := localFlat s.myCk (64 * i + 30)
    let e := s.undoAt s.myCk i + 64 + 144 * s.load (s.undoAt s.myCk i + 4) 4 + 96 * s.load r 2
    ((r ≤ a ∧ a < r + 2) ∨ (e ≤ a ∧ a < e + 96))

/-- The state in which an effect runs: its strand is marked as issuing one (R206). -/
def asIssuing (s : State) : State := if s.me.effIssue then s else s.updMe fun x => { x with effIssue := true }

/-- The operation and the source of an atomic (Table 9-3). -/
def atomicOf : Instr → Option (AtOp × CSrc)
  | .atAdd32 _ _ c => some (.add32, c)
  | .atAdd64 _ _ c => some (.add64, c)
  | .atFadd32 _ _ c => some (.fadd32, c)
  | .atFadd16b _ _ c => some (.fadd16b, c)
  | .atMin32 _ _ c => some (.min32, c)
  | .atMax32 _ _ c => some (.max32, c)
  | .atMinu32 _ _ c => some (.minu32, c)
  | .atMaxu32 _ _ c => some (.maxu32, c)
  | .atAnd64 _ _ c => some (.and64, c)
  | .atOr64 _ _ c => some (.or64, c)
  | .atXor64 _ _ c => some (.xor64, c)
  | .atSwp64 _ _ c => some (.swp64, c)
  | .atCas64 _ _ c => some (.cas64, c)
  | .atFinc _ _ c => some (.finc, c)
  | .atRedAdd32 _ _ c => some (.add32, c)
  | .atRedAdd64 _ _ c => some (.add64, c)
  | .atRedFadd32 _ _ c => some (.fadd32, c)
  | .atRedFadd16b _ _ c => some (.fadd16b, c)
  | _ => none

/-- The bytes that an atomic on the strand's own core writes at its issue: the addressed word, where the pointer read from the
source resolves to it, and, for a task that holds the word's set, the next entry of the undo log and its count (R222, R299). -/
def AtomicStores (op : AtOp) (c : CSrc) (s : State) (a : Nat) : Prop :=
  ∃ r s1 p ps s3, (∀ k : Reg → State → State, readC s c k = k r s1) ∧
    (asIssuing s1).checkAccess (asIssuing s1).myCk ((asIssuing s1).mode (asIssuing s1).cur) r.v (atSize op) (atSize op) = .ok p ∧
    (asIssuing s1).resolve (asIssuing s1).myCk (atSize op) true p = (.mem ps, s3) ∧
    let flat := (ps.headD (0, 0)).1
    let x := s3.ctx.latch .atO
    let y := s3.ctx.latch .lsD
    let m := (s3.atomicAt (some s3.cur) op flat x.val y.val (operandMark op x y)).2.2
    isLocalFlat flat = true ∧ ckOfFlat flat = s.myCk ∧
    ((flat ≤ a ∧ a < flat + atSize op) ∨
      ∃ i, s.me.task = some i ∧ s.heldSets s.cur ≠ 0 ∧
        let u := m.undoAt s.myCk i
        ((u ≤ a ∧ a < u + 4) ∨ (u + 64 + 144 * m.load u 4 ≤ a ∧ a < u + 64 + 144 * m.load u 4 + 144)))

/-- The byte of STATE and PRIO of the task record that the source names (R286). -/
def RecordByte (c : CSrc) (s : State) (a : Nat) : Prop :=
  ∃ r s1, (∀ k : Reg → State → State, readC s c k = k r s1) ∧ a = recFlat s.myCk r.val.toNat + 26

/-- The bytes that a pop or peek writes which adopts the task at the queue's head: the STATE byte of the record at its home, and
the 64 bytes of the claimed record (R292). -/
def AdoptStores (c : CSrc) (s : State) (a : Nat) : Prop :=
  ∃ r s1 ck q i e rest home n, (∀ k : Reg → State → State, readC s c k = k r s1) ∧
    (asIssuing s1).queueHandle (pidOf (asIssuing s1).myCk) r.v = some (ck, q, i) ∧
    ((asIssuing s1).queueAt ck q i).map Queue.elems = some (e :: rest) ∧ e.task = some (home, n) ∧
    (a = recFlat home n + 26 ∨
      let j := ((asIssuing s1).ctx.latch .sqD).val.toNat
      recFlat s.myCk j ≤ a ∧ a < recFlat s.myCk j + 64)

/-- The four bytes of FLOOR in the image that `sr.ackfloor` names (R231). -/
def FloorStores (c : CSrc) (s : State) (a : Nat) : Prop :=
  ∃ r s1 off, (∀ k : Reg → State → State, readC s c k = k r s1) ∧
    s1.checkAccess s1.myCk (s1.mode s1.cur) r.v 8192 64 = .ok (.tile s1.myCk off) ∧
    localFlat s.myCk off + 5204 ≤ a ∧ a < localFlat s.myCk off + 5208

/-- The bytes that a word writes at its issue, beside a deferred entry: none, but for an atomic, a pop or peek, `sq.rqpush`,
`sq.rqprio` and `sr.ackfloor`. A store's bytes wait in the chunk and reach memory at its commit. -/
def WordStores (i : Instr) (s : State) (a : Nat) : Prop :=
  match i, atomicOf i with
  | _, some (op, c) => AtomicStores op c s a
  | .sqPop _ _ c, _ => AdoptStores c s a
  | .sqPeek _ _ c, _ => AdoptStores c s a
  | .sqRqpush _ _ _ c, _ => RecordByte c s a
  | .sqRqprio _ _ c, _ => RecordByte c s a
  | .srAckfloor _ _ c, _ => FloorStores c s a
  | _, none => False

/-- The words of which more than their own unit may change at issue: the two that join the strands of a group, the two waits of
a queue, whose earlier reply may land at once, and the end of a task. -/
def joinsOthers : Instr → Bool
  | .vxXchg .. => true
  | .syGbar .. => true
  | .sqPopw .. => true
  | .sqPushw .. => true
  | .sqDone .. => true
  | _ => false

/-- The words that write memory at their issue, and so may squash another strand's open chunk (R196, R225). -/
def writesAtIssue (i : Instr) : Bool :=
  match i, atomicOf i with
  | _, some _ => true
  | .sqPop .., _ => true
  | .sqPeek .., _ => true
  | .sqRqpush .., _ => true
  | .sqRqprio .., _ => true
  | .srAckfloor .., _ => true
  | _, none => false

/-- The operand latches of the unit that a word names (Table 2-3, Table 2-4): its AU or its DU. -/
def wordLatches (w : Word32) : List Latch :=
  if isA w then
    match (unpackA w).au.toNat with
    | 0 => [.iaO]
    | 1 => [.ibO]
    | 2 => [.faO]
    | _ => []
  else
    match (unpackC w).du.toNat with
    | 1 => [.iaO]
    | 2 => [.ibO]
    | 3 => [.faO]
    | 5 => [.mxA, .mxB]
    | 6 => [.lsD]
    | 7 => [.atO, .lsD]
    | 8 => [.ceS, .ceD, .ceN, .ceB, .ceM]
    | 9 => [.sqD, .sqH]
    | 10 => [.syA, .syB, .syL]
    | _ => []

end Sys2Proof.Claims

/-- First, for every word of AU 0, 1 or 2 or of DU 1, 2 or 3, with any guard and sources, where exec answers a next state
and the bundle is not held back or frozen (where it reads a stream: with no disturbed cell, R351): every byte of memory
and every other strand's context are as before; so are the strand's own general registers, predicates, pc, vt, vector
and mask registers, mx.st, sq.st, fx and every latch of another unit. Second, for every word of every unit but vx.xchg,
sy.gbar, sq.popw, sq.pushw and sq.done, under no disturbed cell and memory in canonical form: every byte reads as before
but those of an entry that a task holding a set defers (count and entry), an atomic's addressed word and undo entry (the
address computed as exec does, from the source read and resolved), the record of a task that a pop or peek adopts, the
record byte of sq.rqpush and sq.rqprio, and the FLOOR field of sr.ackfloor; the same own registers are as before, and
every latch but the operand latches of the word's unit; other strands' contexts are as before where no set is held and
the word is none of those that write at issue (they may squash another strand). -/
def Obligations.WordsFrame : Prop :=
  (∀ (i : Instr) (w : Word32) (s t : State), encode i = some w →
    (if isA w then (w.toNat / 2 ^ 23) % 8 ≤ 2 else 1 ≤ (w.toNat / 2 ^ 18) % 16 ∧ (w.toNat / 2 ^ 18) % 16 ≤ 3) →
    ((if isA w then namesStream w = false else w.toNat % 2 ^ 12 / 8 ≠ 192) ∨
      ((∀ u, (s.unit u).flips = []) ∧ ∀ c, (s.channel c).upsets = [])) →
    exec i s = .next t → t.held = false →
    (∀ a, memRead t.mem a = memRead s.mem a) ∧
    (∀ sid, sid ≠ s.cur → (t.strand sid).ctx = (s.strand sid).ctx) ∧
    (let c := s.ctx
     let d := t.ctx
     d.g = c.g ∧ d.pw = c.pw ∧ d.pc = c.pc ∧ d.second = c.second ∧ d.vt = c.vt ∧ d.v = c.v ∧ d.k = c.k ∧ d.mxSt = c.mxSt ∧ d.sqSt = c.sqSt ∧
     d.fx = c.fx ∧ ∀ l : Latch, l ≠ .iaO → l ≠ .ibO → l ≠ .faO → d.latch l = c.latch l)) ∧
  (∀ (i : Instr) (w : Word32) (s t : State), encode i = some w → joinsOthers i = false → Undisturbed s → Memory.wf s.mem = true →
    exec i s = .next t → t.held = false →
    (∀ a, ¬DeferStores s a → ¬WordStores i s a → memRead t.mem a = memRead s.mem a) ∧
    (writesAtIssue i = false → s.heldSets s.cur = 0 → ∀ sid, sid ≠ s.cur → (t.strand sid).ctx = (s.strand sid).ctx) ∧
    (let c := s.ctx
     let d := t.ctx
     d.g = c.g ∧ d.pw = c.pw ∧ d.pc = c.pc ∧ d.second = c.second ∧ d.vt = c.vt ∧ d.v = c.v ∧ d.k = c.k ∧ d.mxSt = c.mxSt ∧ d.sqSt = c.sqSt ∧
     d.fx = c.fx ∧ ∀ l : Latch, l ∉ wordLatches w → d.latch l = c.latch l))

/-- From every state in which memory lists its addresses strictly rising with no byte at its default value, and the marked
words strictly rising, a step (any instruction of any strand, any event, and time alone) leads to a state in which they
still do. So two memories with the same contents are the same data, and every byte has one value and one mark. -/
def Obligations.StepKeepsMemoryForm : Prop :=
  ∀ s t : State, Safety.MemForm s → step s = .next t → Safety.MemForm t

/-- In every bank of the eight arrays, with B row blocks: the logical rows and the physical rows of the bank correspond one
to one. For any two disturbed cells of data rows of one bank, in physical rows less than B apart and, where they lie in
one row, less than 16 places apart: if the words that they belong to have the same column and lie in the same row block,
then they are one and the same cell. So a pattern within 16 consecutive cells of each of up to B consecutive physical
rows flips at most one cell of any word and touches at most one word of any column group. -/
def Obligations.DisturbedCellsSpread : Prop :=
  (∀ a r : Nat, a < 8 → r < (arrayShape a).2 →
    physRow (blocksOf a) r < (arrayShape a).2 ∧ logicalRow (blocksOf a) (physRow (blocksOf a) r) = r ∧
    logicalRow (blocksOf a) r < (arrayShape a).2 ∧ physRow (blocksOf a) (logicalRow (blocksOf a) r) = r) ∧
  (∀ d e : Disturbance, disturbanceFits d = true → disturbanceFits e = true → d.unit_ = e.unit_ → d.array = e.array → d.bank = e.bank →
    d.par = false → e.par = false →
    d.row < e.row + blocksOf d.array → e.row < d.row + blocksOf d.array →
    (d.row = e.row → d.cell < e.cell + 16 ∧ e.cell < d.cell + 16) →
    (cellAt d).row / 32 = (cellAt e).row / 32 → (cellAt d).col = (cellAt e).col →
    cellAt d = cellAt e ∧ d.row = e.row ∧ d.cell = e.cell)

/-- At reset, for every strand, core, region, group, channel, unit and partition number: the strand is idle, fx, vt, mx.st,
sq.st, tok, sn, floor, alarm and slips are 0, chl.LEN is 256 and wcl.CEIL 0x01_0000; redpin, trp, trc and fltc are 0 and
no queue slot of an engine is in use; FMAX is 1600, DRIFT and STRETCHES 0, RECOV, DISCARD and the error counts 0, RIMIMG
16 and Basin not busy; a router entry's VER, STATE and DBL are 0; SCRUB is 12 and WD 16; no partition is live, tm is 0,
the controller has not started, and memory is in its canonical form. That no byte of memory is listed is the model's
choice (log 2). -/
def Obligations.ResetState : Prop :=
  (∀ sid, let x := State.reset.strand sid
    x.st = .idle ∧ x.ctx.fx = 0 ∧ x.ctx.vt = 0 ∧ x.ctx.mxSt = 0 ∧ x.ctx.sqSt = 0 ∧ x.tok = 0 ∧ x.sn = 0 ∧ x.floor = 0 ∧ x.alarm = 0 ∧ x.slips = 0 ∧
    x.chl = 256 ∧ x.wcl = 0x10000) ∧
  (∀ ck, let c := State.reset.core ck
    c.redpin = 0 ∧ c.trp = 0 ∧ c.trc = 0 ∧ c.disc = 0 ∧ c.fifo = [] ∧ c.running = []) ∧
  (∀ rk, let r := State.reset.region rk
    r.fmax = 1600 ∧ r.drift = 0 ∧ r.stretches = 0 ∧ r.recov = 0 ∧ r.discard = 0 ∧ r.corr = 0 ∧ r.unc = 0 ∧ r.fatal = 0 ∧ r.rimimg = 16 ∧
    r.basin.busy = false) ∧
  (∀ gk, let e := (State.reset.group gk).entry; e.ver = 0 ∧ e.state = 0 ∧ e.dbl = 0) ∧
  (∀ c, let x := State.reset.channel c; x.rcorr = 0 ∧ x.runc = 0 ∧ x.rlast = 0 ∧ x.rpass = 0) ∧
  (∀ u, let x := State.reset.unit u; x.err.scrub = 12 ∧ x.wd = 16 ∧ x.err.unc = 0 ∧ x.err.rep = 0 ∧ x.err.scat = 0 ∧ x.err.filter = 0) ∧
  (∀ pid, (State.reset.part pid).live = false) ∧
  State.reset.now = 0 ∧ State.reset.igfel.started = false ∧ State.reset.mem = [] ∧ Safety.MemForm State.reset
end

