-- ==== Sys2Proof/Laws/Encoding.lean ====
section
/-! SUPPORT. Laws of the encodings: the fields of a packed word, and every source code read back. -/

namespace Sys2Proof.Laws

/-! ## Fields of a packed word (R41, R46) -/

theorem packC_bit31 (c : CWord) : (packC c).getLsbD 31 = false := by
  simp only [packC, BitVec.getLsbD_append]; simp

theorem packA_bit31 (a : AWord) : (packA a).getLsbD 31 = true := by
  simp only [packA, BitVec.getLsbD_append]; simp

theorem unpackC_packC (c : CWord) : unpackC (packC c) = c := by
  obtain ⟨l, g, la, du, dp, is⟩ := c
  simp only [unpackC, packC, CWord.mk.injEq]
  refine ⟨?_, ?_, ?_, ?_, ?_, ?_⟩
  · simp only [BitVec.getLsbD_append]; simp
  all_goals
    ext i hi
    simp only [BitVec.getElem_extractLsb', BitVec.getLsbD_append]
    (repeat' split) <;> first | omega | (rw [← BitVec.getLsbD_eq_getElem]; congr 1; omega)

theorem unpackA_packA (a : AWord) : unpackA (packA a) = a := by
  obtain ⟨l, g, au, d, op, os, ts⟩ := a
  simp only [unpackA, packA, AWord.mk.injEq]
  refine ⟨?_, ?_, ?_, ?_, ?_, ?_, ?_⟩
  · simp only [BitVec.getLsbD_append]; simp
  all_goals
    ext i hi
    simp only [BitVec.getElem_extractLsb', BitVec.getLsbD_append]
    (repeat' split) <;> first | omega | (rw [← BitVec.getLsbD_eq_getElem]; congr 1; omega)

/-! ## Sources (Tables 2-5 and 2-7) -/

theorem imm_bits {n : Nat} (v : BitVec n) : (1#1 ++ v).extractLsb' 0 n = v := by
  ext i hi
  simp [BitVec.getElem_extractLsb', BitVec.getLsbD_append, hi]

theorem imm_flag {n : Nat} (v : BitVec n) : (1#1 ++ v).getLsbD n = true := by
  simp [BitVec.getLsbD_append]

theorem csrcOf_csrcBits (s : CSrc) : csrcOf (csrcBits s) = some s := by
  cases s with
  | imm v => simp [csrcOf, csrcBits, imm_bits v, imm_flag v]
  | g n => revert n; decide
  | ls n => revert n; decide
  | q n => revert n; decide
  | sr n => revert n; decide
  | _ => rfl

theorem portOf_csrcBits (s : CSrc) (h : s.port = true) : portOf (csrcBits s) = some s := by
  cases s with
  | imm v => simp [CSrc.port] at h
  | g n => revert n; decide
  | ls n => revert n; decide
  | q n => revert n; decide
  | sr n => revert n; decide
  | _ => rfl

theorem asrcOf_asrcBits (s : ASrc) : asrcOf (asrcBits s) = some s := by
  cases s with
  | imm c => revert c; decide
  | g n => revert n; decide
  | ls n => revert n; decide
  | q n => revert n; decide
  | v n => revert n; decide
  | _ => rfl

theorem vregOf_vregCode (n : Fin 8) : vregOf (vregCode n) = some n := by revert n; decide

theorem predOf_predCode (n : Fin 32) : predOf (predCode n) = some n := by revert n; decide

theorem low4Of_code (n : Fin 4) : low4Of (BitVec.ofNat 7 (64 + n.val)) = some n := by revert n; decide

theorem prefixOf_prefixBits (p : Prefix) : prefixOf (prefixBits p) = some p := by
  obtain ⟨m, mz, rm, x, v4, sat⟩ := p
  revert m rm v4
  cases mz <;> cases x <;> cases sat <;> decide

end Sys2Proof.Laws
end

