-- ==== Sys2Proof/Laws/State.lean ====
section
/-! SUPPORT. What each update of the state leaves in each field: one lemma for each field of each update. -/

namespace Sys2Proof.Laws

open Sys2Proof.Machine

/-! `State.setStrand` -/

@[simp] theorem setStrand_grade (s : State) (sid : Nat) (x : Strand) : (s.setStrand sid x).grade = s.grade := rfl
@[simp] theorem setStrand_fused (s : State) (sid : Nat) (x : Strand) : (s.setStrand sid x).fused = s.fused := rfl
@[simp] theorem setStrand_mem (s : State) (sid : Nat) (x : Strand) : (s.setStrand sid x).mem = s.mem := rfl
@[simp] theorem setStrand_poison (s : State) (sid : Nat) (x : Strand) : (s.setStrand sid x).poison = s.poison := rfl
@[simp] theorem setStrand_deferMarks (s : State) (sid : Nat) (x : Strand) : (s.setStrand sid x).deferMarks = s.deferMarks := rfl
@[simp] theorem setStrand_strands (s : State) (sid : Nat) (x : Strand) : (s.setStrand sid x).strands = s.strands.put sid x := rfl
@[simp] theorem setStrand_cores (s : State) (sid : Nat) (x : Strand) : (s.setStrand sid x).cores = s.cores := rfl
@[simp] theorem setStrand_groups (s : State) (sid : Nat) (x : Strand) : (s.setStrand sid x).groups = s.groups := rfl
@[simp] theorem setStrand_regions (s : State) (sid : Nat) (x : Strand) : (s.setStrand sid x).regions = s.regions := rfl
@[simp] theorem setStrand_channels (s : State) (sid : Nat) (x : Strand) : (s.setStrand sid x).channels = s.channels := rfl
@[simp] theorem setStrand_units (s : State) (sid : Nat) (x : Strand) : (s.setStrand sid x).units = s.units := rfl
@[simp] theorem setStrand_links (s : State) (sid : Nat) (x : Strand) : (s.setStrand sid x).links = s.links := rfl
@[simp] theorem setStrand_parts (s : State) (sid : Nat) (x : Strand) : (s.setStrand sid x).parts = s.parts := rfl
@[simp] theorem setStrand_saved (s : State) (sid : Nat) (x : Strand) : (s.setStrand sid x).saved = s.saved := rfl
@[simp] theorem setStrand_queues (s : State) (sid : Nat) (x : Strand) : (s.setStrand sid x).queues = s.queues := rfl
@[simp] theorem setStrand_igfel (s : State) (sid : Nat) (x : Strand) : (s.setStrand sid x).igfel = s.igfel := rfl
@[simp] theorem setStrand_outbox (s : State) (sid : Nat) (x : Strand) : (s.setStrand sid x).outbox = s.outbox := rfl
@[simp] theorem setStrand_answers (s : State) (sid : Nat) (x : Strand) : (s.setStrand sid x).answers = s.answers := rfl
@[simp] theorem setStrand_agenda (s : State) (sid : Nat) (x : Strand) : (s.setStrand sid x).agenda = s.agenda := rfl
@[simp] theorem setStrand_now (s : State) (sid : Nat) (x : Strand) : (s.setStrand sid x).now = s.now := rfl
@[simp] theorem setStrand_steps (s : State) (sid : Nat) (x : Strand) : (s.setStrand sid x).steps = s.steps := rfl
@[simp] theorem setStrand_fresh (s : State) (sid : Nat) (x : Strand) : (s.setStrand sid x).fresh = s.fresh := rfl
@[simp] theorem setStrand_cur (s : State) (sid : Nat) (x : Strand) : (s.setStrand sid x).cur = s.cur := rfl
@[simp] theorem setStrand_word (s : State) (sid : Nat) (x : Strand) : (s.setStrand sid x).word = s.word := rfl
@[simp] theorem setStrand_second (s : State) (sid : Nat) (x : Strand) : (s.setStrand sid x).second = s.second := rfl
@[simp] theorem setStrand_held (s : State) (sid : Nat) (x : Strand) : (s.setStrand sid x).held = s.held := rfl

/-! `State.setCore` -/

@[simp] theorem setCore_grade (s : State) (ck : Nat) (x : Core) : (s.setCore ck x).grade = s.grade := rfl
@[simp] theorem setCore_fused (s : State) (ck : Nat) (x : Core) : (s.setCore ck x).fused = s.fused := rfl
@[simp] theorem setCore_mem (s : State) (ck : Nat) (x : Core) : (s.setCore ck x).mem = s.mem := rfl
@[simp] theorem setCore_poison (s : State) (ck : Nat) (x : Core) : (s.setCore ck x).poison = s.poison := rfl
@[simp] theorem setCore_deferMarks (s : State) (ck : Nat) (x : Core) : (s.setCore ck x).deferMarks = s.deferMarks := rfl
@[simp] theorem setCore_strands (s : State) (ck : Nat) (x : Core) : (s.setCore ck x).strands = s.strands := rfl
@[simp] theorem setCore_cores (s : State) (ck : Nat) (x : Core) : (s.setCore ck x).cores = s.cores.put ck x := rfl
@[simp] theorem setCore_groups (s : State) (ck : Nat) (x : Core) : (s.setCore ck x).groups = s.groups := rfl
@[simp] theorem setCore_regions (s : State) (ck : Nat) (x : Core) : (s.setCore ck x).regions = s.regions := rfl
@[simp] theorem setCore_channels (s : State) (ck : Nat) (x : Core) : (s.setCore ck x).channels = s.channels := rfl
@[simp] theorem setCore_units (s : State) (ck : Nat) (x : Core) : (s.setCore ck x).units = s.units := rfl
@[simp] theorem setCore_links (s : State) (ck : Nat) (x : Core) : (s.setCore ck x).links = s.links := rfl
@[simp] theorem setCore_parts (s : State) (ck : Nat) (x : Core) : (s.setCore ck x).parts = s.parts := rfl
@[simp] theorem setCore_saved (s : State) (ck : Nat) (x : Core) : (s.setCore ck x).saved = s.saved := rfl
@[simp] theorem setCore_queues (s : State) (ck : Nat) (x : Core) : (s.setCore ck x).queues = s.queues := rfl
@[simp] theorem setCore_igfel (s : State) (ck : Nat) (x : Core) : (s.setCore ck x).igfel = s.igfel := rfl
@[simp] theorem setCore_outbox (s : State) (ck : Nat) (x : Core) : (s.setCore ck x).outbox = s.outbox := rfl
@[simp] theorem setCore_answers (s : State) (ck : Nat) (x : Core) : (s.setCore ck x).answers = s.answers := rfl
@[simp] theorem setCore_agenda (s : State) (ck : Nat) (x : Core) : (s.setCore ck x).agenda = s.agenda := rfl
@[simp] theorem setCore_now (s : State) (ck : Nat) (x : Core) : (s.setCore ck x).now = s.now := rfl
@[simp] theorem setCore_steps (s : State) (ck : Nat) (x : Core) : (s.setCore ck x).steps = s.steps := rfl
@[simp] theorem setCore_fresh (s : State) (ck : Nat) (x : Core) : (s.setCore ck x).fresh = s.fresh := rfl
@[simp] theorem setCore_cur (s : State) (ck : Nat) (x : Core) : (s.setCore ck x).cur = s.cur := rfl
@[simp] theorem setCore_word (s : State) (ck : Nat) (x : Core) : (s.setCore ck x).word = s.word := rfl
@[simp] theorem setCore_second (s : State) (ck : Nat) (x : Core) : (s.setCore ck x).second = s.second := rfl
@[simp] theorem setCore_held (s : State) (ck : Nat) (x : Core) : (s.setCore ck x).held = s.held := rfl

/-! `State.setGroup` -/

@[simp] theorem setGroup_grade (s : State) (gk : Nat) (x : Group) : (s.setGroup gk x).grade = s.grade := rfl
@[simp] theorem setGroup_fused (s : State) (gk : Nat) (x : Group) : (s.setGroup gk x).fused = s.fused := rfl
@[simp] theorem setGroup_mem (s : State) (gk : Nat) (x : Group) : (s.setGroup gk x).mem = s.mem := rfl
@[simp] theorem setGroup_poison (s : State) (gk : Nat) (x : Group) : (s.setGroup gk x).poison = s.poison := rfl
@[simp] theorem setGroup_deferMarks (s : State) (gk : Nat) (x : Group) : (s.setGroup gk x).deferMarks = s.deferMarks := rfl
@[simp] theorem setGroup_strands (s : State) (gk : Nat) (x : Group) : (s.setGroup gk x).strands = s.strands := rfl
@[simp] theorem setGroup_cores (s : State) (gk : Nat) (x : Group) : (s.setGroup gk x).cores = s.cores := rfl
@[simp] theorem setGroup_groups (s : State) (gk : Nat) (x : Group) : (s.setGroup gk x).groups = s.groups.put gk x := rfl
@[simp] theorem setGroup_regions (s : State) (gk : Nat) (x : Group) : (s.setGroup gk x).regions = s.regions := rfl
@[simp] theorem setGroup_channels (s : State) (gk : Nat) (x : Group) : (s.setGroup gk x).channels = s.channels := rfl
@[simp] theorem setGroup_units (s : State) (gk : Nat) (x : Group) : (s.setGroup gk x).units = s.units := rfl
@[simp] theorem setGroup_links (s : State) (gk : Nat) (x : Group) : (s.setGroup gk x).links = s.links := rfl
@[simp] theorem setGroup_parts (s : State) (gk : Nat) (x : Group) : (s.setGroup gk x).parts = s.parts := rfl
@[simp] theorem setGroup_saved (s : State) (gk : Nat) (x : Group) : (s.setGroup gk x).saved = s.saved := rfl
@[simp] theorem setGroup_queues (s : State) (gk : Nat) (x : Group) : (s.setGroup gk x).queues = s.queues := rfl
@[simp] theorem setGroup_igfel (s : State) (gk : Nat) (x : Group) : (s.setGroup gk x).igfel = s.igfel := rfl
@[simp] theorem setGroup_outbox (s : State) (gk : Nat) (x : Group) : (s.setGroup gk x).outbox = s.outbox := rfl
@[simp] theorem setGroup_answers (s : State) (gk : Nat) (x : Group) : (s.setGroup gk x).answers = s.answers := rfl
@[simp] theorem setGroup_agenda (s : State) (gk : Nat) (x : Group) : (s.setGroup gk x).agenda = s.agenda := rfl
@[simp] theorem setGroup_now (s : State) (gk : Nat) (x : Group) : (s.setGroup gk x).now = s.now := rfl
@[simp] theorem setGroup_steps (s : State) (gk : Nat) (x : Group) : (s.setGroup gk x).steps = s.steps := rfl
@[simp] theorem setGroup_fresh (s : State) (gk : Nat) (x : Group) : (s.setGroup gk x).fresh = s.fresh := rfl
@[simp] theorem setGroup_cur (s : State) (gk : Nat) (x : Group) : (s.setGroup gk x).cur = s.cur := rfl
@[simp] theorem setGroup_word (s : State) (gk : Nat) (x : Group) : (s.setGroup gk x).word = s.word := rfl
@[simp] theorem setGroup_second (s : State) (gk : Nat) (x : Group) : (s.setGroup gk x).second = s.second := rfl
@[simp] theorem setGroup_held (s : State) (gk : Nat) (x : Group) : (s.setGroup gk x).held = s.held := rfl

/-! `State.setRegion` -/

@[simp] theorem setRegion_grade (s : State) (rk : Nat) (x : Region) : (s.setRegion rk x).grade = s.grade := rfl
@[simp] theorem setRegion_fused (s : State) (rk : Nat) (x : Region) : (s.setRegion rk x).fused = s.fused := rfl
@[simp] theorem setRegion_mem (s : State) (rk : Nat) (x : Region) : (s.setRegion rk x).mem = s.mem := rfl
@[simp] theorem setRegion_poison (s : State) (rk : Nat) (x : Region) : (s.setRegion rk x).poison = s.poison := rfl
@[simp] theorem setRegion_deferMarks (s : State) (rk : Nat) (x : Region) : (s.setRegion rk x).deferMarks = s.deferMarks := rfl
@[simp] theorem setRegion_strands (s : State) (rk : Nat) (x : Region) : (s.setRegion rk x).strands = s.strands := rfl
@[simp] theorem setRegion_cores (s : State) (rk : Nat) (x : Region) : (s.setRegion rk x).cores = s.cores := rfl
@[simp] theorem setRegion_groups (s : State) (rk : Nat) (x : Region) : (s.setRegion rk x).groups = s.groups := rfl
@[simp] theorem setRegion_regions (s : State) (rk : Nat) (x : Region) : (s.setRegion rk x).regions = s.regions.put rk x := rfl
@[simp] theorem setRegion_channels (s : State) (rk : Nat) (x : Region) : (s.setRegion rk x).channels = s.channels := rfl
@[simp] theorem setRegion_units (s : State) (rk : Nat) (x : Region) : (s.setRegion rk x).units = s.units := rfl
@[simp] theorem setRegion_links (s : State) (rk : Nat) (x : Region) : (s.setRegion rk x).links = s.links := rfl
@[simp] theorem setRegion_parts (s : State) (rk : Nat) (x : Region) : (s.setRegion rk x).parts = s.parts := rfl
@[simp] theorem setRegion_saved (s : State) (rk : Nat) (x : Region) : (s.setRegion rk x).saved = s.saved := rfl
@[simp] theorem setRegion_queues (s : State) (rk : Nat) (x : Region) : (s.setRegion rk x).queues = s.queues := rfl
@[simp] theorem setRegion_igfel (s : State) (rk : Nat) (x : Region) : (s.setRegion rk x).igfel = s.igfel := rfl
@[simp] theorem setRegion_outbox (s : State) (rk : Nat) (x : Region) : (s.setRegion rk x).outbox = s.outbox := rfl
@[simp] theorem setRegion_answers (s : State) (rk : Nat) (x : Region) : (s.setRegion rk x).answers = s.answers := rfl
@[simp] theorem setRegion_agenda (s : State) (rk : Nat) (x : Region) : (s.setRegion rk x).agenda = s.agenda := rfl
@[simp] theorem setRegion_now (s : State) (rk : Nat) (x : Region) : (s.setRegion rk x).now = s.now := rfl
@[simp] theorem setRegion_steps (s : State) (rk : Nat) (x : Region) : (s.setRegion rk x).steps = s.steps := rfl
@[simp] theorem setRegion_fresh (s : State) (rk : Nat) (x : Region) : (s.setRegion rk x).fresh = s.fresh := rfl
@[simp] theorem setRegion_cur (s : State) (rk : Nat) (x : Region) : (s.setRegion rk x).cur = s.cur := rfl
@[simp] theorem setRegion_word (s : State) (rk : Nat) (x : Region) : (s.setRegion rk x).word = s.word := rfl
@[simp] theorem setRegion_second (s : State) (rk : Nat) (x : Region) : (s.setRegion rk x).second = s.second := rfl
@[simp] theorem setRegion_held (s : State) (rk : Nat) (x : Region) : (s.setRegion rk x).held = s.held := rfl

/-! `State.setChannel` -/

@[simp] theorem setChannel_grade (s : State) (c : Nat) (x : Channel) : (s.setChannel c x).grade = s.grade := rfl
@[simp] theorem setChannel_fused (s : State) (c : Nat) (x : Channel) : (s.setChannel c x).fused = s.fused := rfl
@[simp] theorem setChannel_mem (s : State) (c : Nat) (x : Channel) : (s.setChannel c x).mem = s.mem := rfl
@[simp] theorem setChannel_poison (s : State) (c : Nat) (x : Channel) : (s.setChannel c x).poison = s.poison := rfl
@[simp] theorem setChannel_deferMarks (s : State) (c : Nat) (x : Channel) : (s.setChannel c x).deferMarks = s.deferMarks := rfl
@[simp] theorem setChannel_strands (s : State) (c : Nat) (x : Channel) : (s.setChannel c x).strands = s.strands := rfl
@[simp] theorem setChannel_cores (s : State) (c : Nat) (x : Channel) : (s.setChannel c x).cores = s.cores := rfl
@[simp] theorem setChannel_groups (s : State) (c : Nat) (x : Channel) : (s.setChannel c x).groups = s.groups := rfl
@[simp] theorem setChannel_regions (s : State) (c : Nat) (x : Channel) : (s.setChannel c x).regions = s.regions := rfl
@[simp] theorem setChannel_channels (s : State) (c : Nat) (x : Channel) : (s.setChannel c x).channels = s.channels.put c x := rfl
@[simp] theorem setChannel_units (s : State) (c : Nat) (x : Channel) : (s.setChannel c x).units = s.units := rfl
@[simp] theorem setChannel_links (s : State) (c : Nat) (x : Channel) : (s.setChannel c x).links = s.links := rfl
@[simp] theorem setChannel_parts (s : State) (c : Nat) (x : Channel) : (s.setChannel c x).parts = s.parts := rfl
@[simp] theorem setChannel_saved (s : State) (c : Nat) (x : Channel) : (s.setChannel c x).saved = s.saved := rfl
@[simp] theorem setChannel_queues (s : State) (c : Nat) (x : Channel) : (s.setChannel c x).queues = s.queues := rfl
@[simp] theorem setChannel_igfel (s : State) (c : Nat) (x : Channel) : (s.setChannel c x).igfel = s.igfel := rfl
@[simp] theorem setChannel_outbox (s : State) (c : Nat) (x : Channel) : (s.setChannel c x).outbox = s.outbox := rfl
@[simp] theorem setChannel_answers (s : State) (c : Nat) (x : Channel) : (s.setChannel c x).answers = s.answers := rfl
@[simp] theorem setChannel_agenda (s : State) (c : Nat) (x : Channel) : (s.setChannel c x).agenda = s.agenda := rfl
@[simp] theorem setChannel_now (s : State) (c : Nat) (x : Channel) : (s.setChannel c x).now = s.now := rfl
@[simp] theorem setChannel_steps (s : State) (c : Nat) (x : Channel) : (s.setChannel c x).steps = s.steps := rfl
@[simp] theorem setChannel_fresh (s : State) (c : Nat) (x : Channel) : (s.setChannel c x).fresh = s.fresh := rfl
@[simp] theorem setChannel_cur (s : State) (c : Nat) (x : Channel) : (s.setChannel c x).cur = s.cur := rfl
@[simp] theorem setChannel_word (s : State) (c : Nat) (x : Channel) : (s.setChannel c x).word = s.word := rfl
@[simp] theorem setChannel_second (s : State) (c : Nat) (x : Channel) : (s.setChannel c x).second = s.second := rfl
@[simp] theorem setChannel_held (s : State) (c : Nat) (x : Channel) : (s.setChannel c x).held = s.held := rfl

/-! `State.setPart` -/

@[simp] theorem setPart_grade (s : State) (p : Nat) (x : Part) : (s.setPart p x).grade = s.grade := rfl
@[simp] theorem setPart_fused (s : State) (p : Nat) (x : Part) : (s.setPart p x).fused = s.fused := rfl
@[simp] theorem setPart_mem (s : State) (p : Nat) (x : Part) : (s.setPart p x).mem = s.mem := rfl
@[simp] theorem setPart_poison (s : State) (p : Nat) (x : Part) : (s.setPart p x).poison = s.poison := rfl
@[simp] theorem setPart_deferMarks (s : State) (p : Nat) (x : Part) : (s.setPart p x).deferMarks = s.deferMarks := rfl
@[simp] theorem setPart_strands (s : State) (p : Nat) (x : Part) : (s.setPart p x).strands = s.strands := rfl
@[simp] theorem setPart_cores (s : State) (p : Nat) (x : Part) : (s.setPart p x).cores = s.cores := rfl
@[simp] theorem setPart_groups (s : State) (p : Nat) (x : Part) : (s.setPart p x).groups = s.groups := rfl
@[simp] theorem setPart_regions (s : State) (p : Nat) (x : Part) : (s.setPart p x).regions = s.regions := rfl
@[simp] theorem setPart_channels (s : State) (p : Nat) (x : Part) : (s.setPart p x).channels = s.channels := rfl
@[simp] theorem setPart_units (s : State) (p : Nat) (x : Part) : (s.setPart p x).units = s.units := rfl
@[simp] theorem setPart_links (s : State) (p : Nat) (x : Part) : (s.setPart p x).links = s.links := rfl
@[simp] theorem setPart_parts (s : State) (p : Nat) (x : Part) : (s.setPart p x).parts = s.parts.put p x := rfl
@[simp] theorem setPart_saved (s : State) (p : Nat) (x : Part) : (s.setPart p x).saved = s.saved := rfl
@[simp] theorem setPart_queues (s : State) (p : Nat) (x : Part) : (s.setPart p x).queues = s.queues := rfl
@[simp] theorem setPart_igfel (s : State) (p : Nat) (x : Part) : (s.setPart p x).igfel = s.igfel := rfl
@[simp] theorem setPart_outbox (s : State) (p : Nat) (x : Part) : (s.setPart p x).outbox = s.outbox := rfl
@[simp] theorem setPart_answers (s : State) (p : Nat) (x : Part) : (s.setPart p x).answers = s.answers := rfl
@[simp] theorem setPart_agenda (s : State) (p : Nat) (x : Part) : (s.setPart p x).agenda = s.agenda := rfl
@[simp] theorem setPart_now (s : State) (p : Nat) (x : Part) : (s.setPart p x).now = s.now := rfl
@[simp] theorem setPart_steps (s : State) (p : Nat) (x : Part) : (s.setPart p x).steps = s.steps := rfl
@[simp] theorem setPart_fresh (s : State) (p : Nat) (x : Part) : (s.setPart p x).fresh = s.fresh := rfl
@[simp] theorem setPart_cur (s : State) (p : Nat) (x : Part) : (s.setPart p x).cur = s.cur := rfl
@[simp] theorem setPart_word (s : State) (p : Nat) (x : Part) : (s.setPart p x).word = s.word := rfl
@[simp] theorem setPart_second (s : State) (p : Nat) (x : Part) : (s.setPart p x).second = s.second := rfl
@[simp] theorem setPart_held (s : State) (p : Nat) (x : Part) : (s.setPart p x).held = s.held := rfl

/-! `State.setHostq` -/

@[simp] theorem setHostq_grade (s : State) (q : Nat) (x : HostQueue) : (s.setHostq q x).grade = s.grade := rfl
@[simp] theorem setHostq_fused (s : State) (q : Nat) (x : HostQueue) : (s.setHostq q x).fused = s.fused := rfl
@[simp] theorem setHostq_mem (s : State) (q : Nat) (x : HostQueue) : (s.setHostq q x).mem = s.mem := rfl
@[simp] theorem setHostq_poison (s : State) (q : Nat) (x : HostQueue) : (s.setHostq q x).poison = s.poison := rfl
@[simp] theorem setHostq_deferMarks (s : State) (q : Nat) (x : HostQueue) : (s.setHostq q x).deferMarks = s.deferMarks := rfl
@[simp] theorem setHostq_strands (s : State) (q : Nat) (x : HostQueue) : (s.setHostq q x).strands = s.strands := rfl
@[simp] theorem setHostq_cores (s : State) (q : Nat) (x : HostQueue) : (s.setHostq q x).cores = s.cores := rfl
@[simp] theorem setHostq_groups (s : State) (q : Nat) (x : HostQueue) : (s.setHostq q x).groups = s.groups := rfl
@[simp] theorem setHostq_regions (s : State) (q : Nat) (x : HostQueue) : (s.setHostq q x).regions = s.regions := rfl
@[simp] theorem setHostq_channels (s : State) (q : Nat) (x : HostQueue) : (s.setHostq q x).channels = s.channels := rfl
@[simp] theorem setHostq_units (s : State) (q : Nat) (x : HostQueue) : (s.setHostq q x).units = s.units := rfl
@[simp] theorem setHostq_links (s : State) (q : Nat) (x : HostQueue) : (s.setHostq q x).links = s.links := rfl
@[simp] theorem setHostq_parts (s : State) (q : Nat) (x : HostQueue) : (s.setHostq q x).parts = s.parts := rfl
@[simp] theorem setHostq_saved (s : State) (q : Nat) (x : HostQueue) : (s.setHostq q x).saved = s.saved := rfl
@[simp] theorem setHostq_queues (s : State) (q : Nat) (x : HostQueue) : (s.setHostq q x).queues = s.queues.put q x := rfl
@[simp] theorem setHostq_igfel (s : State) (q : Nat) (x : HostQueue) : (s.setHostq q x).igfel = s.igfel := rfl
@[simp] theorem setHostq_outbox (s : State) (q : Nat) (x : HostQueue) : (s.setHostq q x).outbox = s.outbox := rfl
@[simp] theorem setHostq_answers (s : State) (q : Nat) (x : HostQueue) : (s.setHostq q x).answers = s.answers := rfl
@[simp] theorem setHostq_agenda (s : State) (q : Nat) (x : HostQueue) : (s.setHostq q x).agenda = s.agenda := rfl
@[simp] theorem setHostq_now (s : State) (q : Nat) (x : HostQueue) : (s.setHostq q x).now = s.now := rfl
@[simp] theorem setHostq_steps (s : State) (q : Nat) (x : HostQueue) : (s.setHostq q x).steps = s.steps := rfl
@[simp] theorem setHostq_fresh (s : State) (q : Nat) (x : HostQueue) : (s.setHostq q x).fresh = s.fresh := rfl
@[simp] theorem setHostq_cur (s : State) (q : Nat) (x : HostQueue) : (s.setHostq q x).cur = s.cur := rfl
@[simp] theorem setHostq_word (s : State) (q : Nat) (x : HostQueue) : (s.setHostq q x).word = s.word := rfl
@[simp] theorem setHostq_second (s : State) (q : Nat) (x : HostQueue) : (s.setHostq q x).second = s.second := rfl
@[simp] theorem setHostq_held (s : State) (q : Nat) (x : HostQueue) : (s.setHostq q x).held = s.held := rfl

/-! `State.updUnit` -/

@[simp] theorem updUnit_grade (s : State) (u : Nat) (f : SramUnit → SramUnit) : (s.updUnit u f).grade = s.grade := rfl
@[simp] theorem updUnit_fused (s : State) (u : Nat) (f : SramUnit → SramUnit) : (s.updUnit u f).fused = s.fused := rfl
@[simp] theorem updUnit_mem (s : State) (u : Nat) (f : SramUnit → SramUnit) : (s.updUnit u f).mem = s.mem := rfl
@[simp] theorem updUnit_poison (s : State) (u : Nat) (f : SramUnit → SramUnit) : (s.updUnit u f).poison = s.poison := rfl
@[simp] theorem updUnit_deferMarks (s : State) (u : Nat) (f : SramUnit → SramUnit) : (s.updUnit u f).deferMarks = s.deferMarks := rfl
@[simp] theorem updUnit_strands (s : State) (u : Nat) (f : SramUnit → SramUnit) : (s.updUnit u f).strands = s.strands := rfl
@[simp] theorem updUnit_cores (s : State) (u : Nat) (f : SramUnit → SramUnit) : (s.updUnit u f).cores = s.cores := rfl
@[simp] theorem updUnit_groups (s : State) (u : Nat) (f : SramUnit → SramUnit) : (s.updUnit u f).groups = s.groups := rfl
@[simp] theorem updUnit_regions (s : State) (u : Nat) (f : SramUnit → SramUnit) : (s.updUnit u f).regions = s.regions := rfl
@[simp] theorem updUnit_channels (s : State) (u : Nat) (f : SramUnit → SramUnit) : (s.updUnit u f).channels = s.channels := rfl
@[simp] theorem updUnit_units (s : State) (u : Nat) (f : SramUnit → SramUnit) : (s.updUnit u f).units = s.units.put u (f (s.unit u)) := rfl
@[simp] theorem updUnit_links (s : State) (u : Nat) (f : SramUnit → SramUnit) : (s.updUnit u f).links = s.links := rfl
@[simp] theorem updUnit_parts (s : State) (u : Nat) (f : SramUnit → SramUnit) : (s.updUnit u f).parts = s.parts := rfl
@[simp] theorem updUnit_saved (s : State) (u : Nat) (f : SramUnit → SramUnit) : (s.updUnit u f).saved = s.saved := rfl
@[simp] theorem updUnit_queues (s : State) (u : Nat) (f : SramUnit → SramUnit) : (s.updUnit u f).queues = s.queues := rfl
@[simp] theorem updUnit_igfel (s : State) (u : Nat) (f : SramUnit → SramUnit) : (s.updUnit u f).igfel = s.igfel := rfl
@[simp] theorem updUnit_outbox (s : State) (u : Nat) (f : SramUnit → SramUnit) : (s.updUnit u f).outbox = s.outbox := rfl
@[simp] theorem updUnit_answers (s : State) (u : Nat) (f : SramUnit → SramUnit) : (s.updUnit u f).answers = s.answers := rfl
@[simp] theorem updUnit_agenda (s : State) (u : Nat) (f : SramUnit → SramUnit) : (s.updUnit u f).agenda = s.agenda := rfl
@[simp] theorem updUnit_now (s : State) (u : Nat) (f : SramUnit → SramUnit) : (s.updUnit u f).now = s.now := rfl
@[simp] theorem updUnit_steps (s : State) (u : Nat) (f : SramUnit → SramUnit) : (s.updUnit u f).steps = s.steps := rfl
@[simp] theorem updUnit_fresh (s : State) (u : Nat) (f : SramUnit → SramUnit) : (s.updUnit u f).fresh = s.fresh := rfl
@[simp] theorem updUnit_cur (s : State) (u : Nat) (f : SramUnit → SramUnit) : (s.updUnit u f).cur = s.cur := rfl
@[simp] theorem updUnit_word (s : State) (u : Nat) (f : SramUnit → SramUnit) : (s.updUnit u f).word = s.word := rfl
@[simp] theorem updUnit_second (s : State) (u : Nat) (f : SramUnit → SramUnit) : (s.updUnit u f).second = s.second := rfl
@[simp] theorem updUnit_held (s : State) (u : Nat) (f : SramUnit → SramUnit) : (s.updUnit u f).held = s.held := rfl

/-! `State.updStrand` -/

@[simp] theorem updStrand_grade (s : State) (sid : Nat) (f : Strand → Strand) : (s.updStrand sid f).grade = s.grade := rfl
@[simp] theorem updStrand_fused (s : State) (sid : Nat) (f : Strand → Strand) : (s.updStrand sid f).fused = s.fused := rfl
@[simp] theorem updStrand_mem (s : State) (sid : Nat) (f : Strand → Strand) : (s.updStrand sid f).mem = s.mem := rfl
@[simp] theorem updStrand_poison (s : State) (sid : Nat) (f : Strand → Strand) : (s.updStrand sid f).poison = s.poison := rfl
@[simp] theorem updStrand_deferMarks (s : State) (sid : Nat) (f : Strand → Strand) : (s.updStrand sid f).deferMarks = s.deferMarks := rfl
@[simp] theorem updStrand_strands (s : State) (sid : Nat) (f : Strand → Strand) : (s.updStrand sid f).strands = s.strands.put sid (f (s.strand sid)) := rfl
@[simp] theorem updStrand_cores (s : State) (sid : Nat) (f : Strand → Strand) : (s.updStrand sid f).cores = s.cores := rfl
@[simp] theorem updStrand_groups (s : State) (sid : Nat) (f : Strand → Strand) : (s.updStrand sid f).groups = s.groups := rfl
@[simp] theorem updStrand_regions (s : State) (sid : Nat) (f : Strand → Strand) : (s.updStrand sid f).regions = s.regions := rfl
@[simp] theorem updStrand_channels (s : State) (sid : Nat) (f : Strand → Strand) : (s.updStrand sid f).channels = s.channels := rfl
@[simp] theorem updStrand_units (s : State) (sid : Nat) (f : Strand → Strand) : (s.updStrand sid f).units = s.units := rfl
@[simp] theorem updStrand_links (s : State) (sid : Nat) (f : Strand → Strand) : (s.updStrand sid f).links = s.links := rfl
@[simp] theorem updStrand_parts (s : State) (sid : Nat) (f : Strand → Strand) : (s.updStrand sid f).parts = s.parts := rfl
@[simp] theorem updStrand_saved (s : State) (sid : Nat) (f : Strand → Strand) : (s.updStrand sid f).saved = s.saved := rfl
@[simp] theorem updStrand_queues (s : State) (sid : Nat) (f : Strand → Strand) : (s.updStrand sid f).queues = s.queues := rfl
@[simp] theorem updStrand_igfel (s : State) (sid : Nat) (f : Strand → Strand) : (s.updStrand sid f).igfel = s.igfel := rfl
@[simp] theorem updStrand_outbox (s : State) (sid : Nat) (f : Strand → Strand) : (s.updStrand sid f).outbox = s.outbox := rfl
@[simp] theorem updStrand_answers (s : State) (sid : Nat) (f : Strand → Strand) : (s.updStrand sid f).answers = s.answers := rfl
@[simp] theorem updStrand_agenda (s : State) (sid : Nat) (f : Strand → Strand) : (s.updStrand sid f).agenda = s.agenda := rfl
@[simp] theorem updStrand_now (s : State) (sid : Nat) (f : Strand → Strand) : (s.updStrand sid f).now = s.now := rfl
@[simp] theorem updStrand_steps (s : State) (sid : Nat) (f : Strand → Strand) : (s.updStrand sid f).steps = s.steps := rfl
@[simp] theorem updStrand_fresh (s : State) (sid : Nat) (f : Strand → Strand) : (s.updStrand sid f).fresh = s.fresh := rfl
@[simp] theorem updStrand_cur (s : State) (sid : Nat) (f : Strand → Strand) : (s.updStrand sid f).cur = s.cur := rfl
@[simp] theorem updStrand_word (s : State) (sid : Nat) (f : Strand → Strand) : (s.updStrand sid f).word = s.word := rfl
@[simp] theorem updStrand_second (s : State) (sid : Nat) (f : Strand → Strand) : (s.updStrand sid f).second = s.second := rfl
@[simp] theorem updStrand_held (s : State) (sid : Nat) (f : Strand → Strand) : (s.updStrand sid f).held = s.held := rfl

/-! `State.updCore` -/

@[simp] theorem updCore_grade (s : State) (ck : Nat) (f : Core → Core) : (s.updCore ck f).grade = s.grade := rfl
@[simp] theorem updCore_fused (s : State) (ck : Nat) (f : Core → Core) : (s.updCore ck f).fused = s.fused := rfl
@[simp] theorem updCore_mem (s : State) (ck : Nat) (f : Core → Core) : (s.updCore ck f).mem = s.mem := rfl
@[simp] theorem updCore_poison (s : State) (ck : Nat) (f : Core → Core) : (s.updCore ck f).poison = s.poison := rfl
@[simp] theorem updCore_deferMarks (s : State) (ck : Nat) (f : Core → Core) : (s.updCore ck f).deferMarks = s.deferMarks := rfl
@[simp] theorem updCore_strands (s : State) (ck : Nat) (f : Core → Core) : (s.updCore ck f).strands = s.strands := rfl
@[simp] theorem updCore_cores (s : State) (ck : Nat) (f : Core → Core) : (s.updCore ck f).cores = s.cores.put ck (f (s.core ck)) := rfl
@[simp] theorem updCore_groups (s : State) (ck : Nat) (f : Core → Core) : (s.updCore ck f).groups = s.groups := rfl
@[simp] theorem updCore_regions (s : State) (ck : Nat) (f : Core → Core) : (s.updCore ck f).regions = s.regions := rfl
@[simp] theorem updCore_channels (s : State) (ck : Nat) (f : Core → Core) : (s.updCore ck f).channels = s.channels := rfl
@[simp] theorem updCore_units (s : State) (ck : Nat) (f : Core → Core) : (s.updCore ck f).units = s.units := rfl
@[simp] theorem updCore_links (s : State) (ck : Nat) (f : Core → Core) : (s.updCore ck f).links = s.links := rfl
@[simp] theorem updCore_parts (s : State) (ck : Nat) (f : Core → Core) : (s.updCore ck f).parts = s.parts := rfl
@[simp] theorem updCore_saved (s : State) (ck : Nat) (f : Core → Core) : (s.updCore ck f).saved = s.saved := rfl
@[simp] theorem updCore_queues (s : State) (ck : Nat) (f : Core → Core) : (s.updCore ck f).queues = s.queues := rfl
@[simp] theorem updCore_igfel (s : State) (ck : Nat) (f : Core → Core) : (s.updCore ck f).igfel = s.igfel := rfl
@[simp] theorem updCore_outbox (s : State) (ck : Nat) (f : Core → Core) : (s.updCore ck f).outbox = s.outbox := rfl
@[simp] theorem updCore_answers (s : State) (ck : Nat) (f : Core → Core) : (s.updCore ck f).answers = s.answers := rfl
@[simp] theorem updCore_agenda (s : State) (ck : Nat) (f : Core → Core) : (s.updCore ck f).agenda = s.agenda := rfl
@[simp] theorem updCore_now (s : State) (ck : Nat) (f : Core → Core) : (s.updCore ck f).now = s.now := rfl
@[simp] theorem updCore_steps (s : State) (ck : Nat) (f : Core → Core) : (s.updCore ck f).steps = s.steps := rfl
@[simp] theorem updCore_fresh (s : State) (ck : Nat) (f : Core → Core) : (s.updCore ck f).fresh = s.fresh := rfl
@[simp] theorem updCore_cur (s : State) (ck : Nat) (f : Core → Core) : (s.updCore ck f).cur = s.cur := rfl
@[simp] theorem updCore_word (s : State) (ck : Nat) (f : Core → Core) : (s.updCore ck f).word = s.word := rfl
@[simp] theorem updCore_second (s : State) (ck : Nat) (f : Core → Core) : (s.updCore ck f).second = s.second := rfl
@[simp] theorem updCore_held (s : State) (ck : Nat) (f : Core → Core) : (s.updCore ck f).held = s.held := rfl

/-! `State.updGroup` -/

@[simp] theorem updGroup_grade (s : State) (gk : Nat) (f : Group → Group) : (s.updGroup gk f).grade = s.grade := rfl
@[simp] theorem updGroup_fused (s : State) (gk : Nat) (f : Group → Group) : (s.updGroup gk f).fused = s.fused := rfl
@[simp] theorem updGroup_mem (s : State) (gk : Nat) (f : Group → Group) : (s.updGroup gk f).mem = s.mem := rfl
@[simp] theorem updGroup_poison (s : State) (gk : Nat) (f : Group → Group) : (s.updGroup gk f).poison = s.poison := rfl
@[simp] theorem updGroup_deferMarks (s : State) (gk : Nat) (f : Group → Group) : (s.updGroup gk f).deferMarks = s.deferMarks := rfl
@[simp] theorem updGroup_strands (s : State) (gk : Nat) (f : Group → Group) : (s.updGroup gk f).strands = s.strands := rfl
@[simp] theorem updGroup_cores (s : State) (gk : Nat) (f : Group → Group) : (s.updGroup gk f).cores = s.cores := rfl
@[simp] theorem updGroup_groups (s : State) (gk : Nat) (f : Group → Group) : (s.updGroup gk f).groups = s.groups.put gk (f (s.group gk)) := rfl
@[simp] theorem updGroup_regions (s : State) (gk : Nat) (f : Group → Group) : (s.updGroup gk f).regions = s.regions := rfl
@[simp] theorem updGroup_channels (s : State) (gk : Nat) (f : Group → Group) : (s.updGroup gk f).channels = s.channels := rfl
@[simp] theorem updGroup_units (s : State) (gk : Nat) (f : Group → Group) : (s.updGroup gk f).units = s.units := rfl
@[simp] theorem updGroup_links (s : State) (gk : Nat) (f : Group → Group) : (s.updGroup gk f).links = s.links := rfl
@[simp] theorem updGroup_parts (s : State) (gk : Nat) (f : Group → Group) : (s.updGroup gk f).parts = s.parts := rfl
@[simp] theorem updGroup_saved (s : State) (gk : Nat) (f : Group → Group) : (s.updGroup gk f).saved = s.saved := rfl
@[simp] theorem updGroup_queues (s : State) (gk : Nat) (f : Group → Group) : (s.updGroup gk f).queues = s.queues := rfl
@[simp] theorem updGroup_igfel (s : State) (gk : Nat) (f : Group → Group) : (s.updGroup gk f).igfel = s.igfel := rfl
@[simp] theorem updGroup_outbox (s : State) (gk : Nat) (f : Group → Group) : (s.updGroup gk f).outbox = s.outbox := rfl
@[simp] theorem updGroup_answers (s : State) (gk : Nat) (f : Group → Group) : (s.updGroup gk f).answers = s.answers := rfl
@[simp] theorem updGroup_agenda (s : State) (gk : Nat) (f : Group → Group) : (s.updGroup gk f).agenda = s.agenda := rfl
@[simp] theorem updGroup_now (s : State) (gk : Nat) (f : Group → Group) : (s.updGroup gk f).now = s.now := rfl
@[simp] theorem updGroup_steps (s : State) (gk : Nat) (f : Group → Group) : (s.updGroup gk f).steps = s.steps := rfl
@[simp] theorem updGroup_fresh (s : State) (gk : Nat) (f : Group → Group) : (s.updGroup gk f).fresh = s.fresh := rfl
@[simp] theorem updGroup_cur (s : State) (gk : Nat) (f : Group → Group) : (s.updGroup gk f).cur = s.cur := rfl
@[simp] theorem updGroup_word (s : State) (gk : Nat) (f : Group → Group) : (s.updGroup gk f).word = s.word := rfl
@[simp] theorem updGroup_second (s : State) (gk : Nat) (f : Group → Group) : (s.updGroup gk f).second = s.second := rfl
@[simp] theorem updGroup_held (s : State) (gk : Nat) (f : Group → Group) : (s.updGroup gk f).held = s.held := rfl

/-! `State.updData` -/

@[simp] theorem updData_grade (s : State) (gk : Nat) (f : GroupData → GroupData) : (s.updData gk f).grade = s.grade := rfl
@[simp] theorem updData_fused (s : State) (gk : Nat) (f : GroupData → GroupData) : (s.updData gk f).fused = s.fused := rfl
@[simp] theorem updData_mem (s : State) (gk : Nat) (f : GroupData → GroupData) : (s.updData gk f).mem = s.mem := rfl
@[simp] theorem updData_poison (s : State) (gk : Nat) (f : GroupData → GroupData) : (s.updData gk f).poison = s.poison := rfl
@[simp] theorem updData_deferMarks (s : State) (gk : Nat) (f : GroupData → GroupData) : (s.updData gk f).deferMarks = s.deferMarks := rfl
@[simp] theorem updData_strands (s : State) (gk : Nat) (f : GroupData → GroupData) : (s.updData gk f).strands = s.strands := rfl
@[simp] theorem updData_cores (s : State) (gk : Nat) (f : GroupData → GroupData) : (s.updData gk f).cores = s.cores := rfl
@[simp] theorem updData_regions (s : State) (gk : Nat) (f : GroupData → GroupData) : (s.updData gk f).regions = s.regions := rfl
@[simp] theorem updData_channels (s : State) (gk : Nat) (f : GroupData → GroupData) : (s.updData gk f).channels = s.channels := rfl
@[simp] theorem updData_units (s : State) (gk : Nat) (f : GroupData → GroupData) : (s.updData gk f).units = s.units := rfl
@[simp] theorem updData_links (s : State) (gk : Nat) (f : GroupData → GroupData) : (s.updData gk f).links = s.links := rfl
@[simp] theorem updData_parts (s : State) (gk : Nat) (f : GroupData → GroupData) : (s.updData gk f).parts = s.parts := rfl
@[simp] theorem updData_saved (s : State) (gk : Nat) (f : GroupData → GroupData) : (s.updData gk f).saved = s.saved := rfl
@[simp] theorem updData_queues (s : State) (gk : Nat) (f : GroupData → GroupData) : (s.updData gk f).queues = s.queues := rfl
@[simp] theorem updData_igfel (s : State) (gk : Nat) (f : GroupData → GroupData) : (s.updData gk f).igfel = s.igfel := rfl
@[simp] theorem updData_outbox (s : State) (gk : Nat) (f : GroupData → GroupData) : (s.updData gk f).outbox = s.outbox := rfl
@[simp] theorem updData_answers (s : State) (gk : Nat) (f : GroupData → GroupData) : (s.updData gk f).answers = s.answers := rfl
@[simp] theorem updData_agenda (s : State) (gk : Nat) (f : GroupData → GroupData) : (s.updData gk f).agenda = s.agenda := rfl
@[simp] theorem updData_now (s : State) (gk : Nat) (f : GroupData → GroupData) : (s.updData gk f).now = s.now := rfl
@[simp] theorem updData_steps (s : State) (gk : Nat) (f : GroupData → GroupData) : (s.updData gk f).steps = s.steps := rfl
@[simp] theorem updData_fresh (s : State) (gk : Nat) (f : GroupData → GroupData) : (s.updData gk f).fresh = s.fresh := rfl
@[simp] theorem updData_cur (s : State) (gk : Nat) (f : GroupData → GroupData) : (s.updData gk f).cur = s.cur := rfl
@[simp] theorem updData_word (s : State) (gk : Nat) (f : GroupData → GroupData) : (s.updData gk f).word = s.word := rfl
@[simp] theorem updData_second (s : State) (gk : Nat) (f : GroupData → GroupData) : (s.updData gk f).second = s.second := rfl
@[simp] theorem updData_held (s : State) (gk : Nat) (f : GroupData → GroupData) : (s.updData gk f).held = s.held := rfl

/-! `State.updRegion` -/

@[simp] theorem updRegion_grade (s : State) (rk : Nat) (f : Region → Region) : (s.updRegion rk f).grade = s.grade := rfl
@[simp] theorem updRegion_fused (s : State) (rk : Nat) (f : Region → Region) : (s.updRegion rk f).fused = s.fused := rfl
@[simp] theorem updRegion_mem (s : State) (rk : Nat) (f : Region → Region) : (s.updRegion rk f).mem = s.mem := rfl
@[simp] theorem updRegion_poison (s : State) (rk : Nat) (f : Region → Region) : (s.updRegion rk f).poison = s.poison := rfl
@[simp] theorem updRegion_deferMarks (s : State) (rk : Nat) (f : Region → Region) : (s.updRegion rk f).deferMarks = s.deferMarks := rfl
@[simp] theorem updRegion_strands (s : State) (rk : Nat) (f : Region → Region) : (s.updRegion rk f).strands = s.strands := rfl
@[simp] theorem updRegion_cores (s : State) (rk : Nat) (f : Region → Region) : (s.updRegion rk f).cores = s.cores := rfl
@[simp] theorem updRegion_groups (s : State) (rk : Nat) (f : Region → Region) : (s.updRegion rk f).groups = s.groups := rfl
@[simp] theorem updRegion_regions (s : State) (rk : Nat) (f : Region → Region) : (s.updRegion rk f).regions = s.regions.put rk (f (s.region rk)) := rfl
@[simp] theorem updRegion_channels (s : State) (rk : Nat) (f : Region → Region) : (s.updRegion rk f).channels = s.channels := rfl
@[simp] theorem updRegion_units (s : State) (rk : Nat) (f : Region → Region) : (s.updRegion rk f).units = s.units := rfl
@[simp] theorem updRegion_links (s : State) (rk : Nat) (f : Region → Region) : (s.updRegion rk f).links = s.links := rfl
@[simp] theorem updRegion_parts (s : State) (rk : Nat) (f : Region → Region) : (s.updRegion rk f).parts = s.parts := rfl
@[simp] theorem updRegion_saved (s : State) (rk : Nat) (f : Region → Region) : (s.updRegion rk f).saved = s.saved := rfl
@[simp] theorem updRegion_queues (s : State) (rk : Nat) (f : Region → Region) : (s.updRegion rk f).queues = s.queues := rfl
@[simp] theorem updRegion_igfel (s : State) (rk : Nat) (f : Region → Region) : (s.updRegion rk f).igfel = s.igfel := rfl
@[simp] theorem updRegion_outbox (s : State) (rk : Nat) (f : Region → Region) : (s.updRegion rk f).outbox = s.outbox := rfl
@[simp] theorem updRegion_answers (s : State) (rk : Nat) (f : Region → Region) : (s.updRegion rk f).answers = s.answers := rfl
@[simp] theorem updRegion_agenda (s : State) (rk : Nat) (f : Region → Region) : (s.updRegion rk f).agenda = s.agenda := rfl
@[simp] theorem updRegion_now (s : State) (rk : Nat) (f : Region → Region) : (s.updRegion rk f).now = s.now := rfl
@[simp] theorem updRegion_steps (s : State) (rk : Nat) (f : Region → Region) : (s.updRegion rk f).steps = s.steps := rfl
@[simp] theorem updRegion_fresh (s : State) (rk : Nat) (f : Region → Region) : (s.updRegion rk f).fresh = s.fresh := rfl
@[simp] theorem updRegion_cur (s : State) (rk : Nat) (f : Region → Region) : (s.updRegion rk f).cur = s.cur := rfl
@[simp] theorem updRegion_word (s : State) (rk : Nat) (f : Region → Region) : (s.updRegion rk f).word = s.word := rfl
@[simp] theorem updRegion_second (s : State) (rk : Nat) (f : Region → Region) : (s.updRegion rk f).second = s.second := rfl
@[simp] theorem updRegion_held (s : State) (rk : Nat) (f : Region → Region) : (s.updRegion rk f).held = s.held := rfl

/-! `State.updChannel` -/

@[simp] theorem updChannel_grade (s : State) (c : Nat) (f : Channel → Channel) : (s.updChannel c f).grade = s.grade := rfl
@[simp] theorem updChannel_fused (s : State) (c : Nat) (f : Channel → Channel) : (s.updChannel c f).fused = s.fused := rfl
@[simp] theorem updChannel_mem (s : State) (c : Nat) (f : Channel → Channel) : (s.updChannel c f).mem = s.mem := rfl
@[simp] theorem updChannel_poison (s : State) (c : Nat) (f : Channel → Channel) : (s.updChannel c f).poison = s.poison := rfl
@[simp] theorem updChannel_deferMarks (s : State) (c : Nat) (f : Channel → Channel) : (s.updChannel c f).deferMarks = s.deferMarks := rfl
@[simp] theorem updChannel_strands (s : State) (c : Nat) (f : Channel → Channel) : (s.updChannel c f).strands = s.strands := rfl
@[simp] theorem updChannel_cores (s : State) (c : Nat) (f : Channel → Channel) : (s.updChannel c f).cores = s.cores := rfl
@[simp] theorem updChannel_groups (s : State) (c : Nat) (f : Channel → Channel) : (s.updChannel c f).groups = s.groups := rfl
@[simp] theorem updChannel_regions (s : State) (c : Nat) (f : Channel → Channel) : (s.updChannel c f).regions = s.regions := rfl
@[simp] theorem updChannel_channels (s : State) (c : Nat) (f : Channel → Channel) : (s.updChannel c f).channels = s.channels.put c (f (s.channel c)) := rfl
@[simp] theorem updChannel_units (s : State) (c : Nat) (f : Channel → Channel) : (s.updChannel c f).units = s.units := rfl
@[simp] theorem updChannel_links (s : State) (c : Nat) (f : Channel → Channel) : (s.updChannel c f).links = s.links := rfl
@[simp] theorem updChannel_parts (s : State) (c : Nat) (f : Channel → Channel) : (s.updChannel c f).parts = s.parts := rfl
@[simp] theorem updChannel_saved (s : State) (c : Nat) (f : Channel → Channel) : (s.updChannel c f).saved = s.saved := rfl
@[simp] theorem updChannel_queues (s : State) (c : Nat) (f : Channel → Channel) : (s.updChannel c f).queues = s.queues := rfl
@[simp] theorem updChannel_igfel (s : State) (c : Nat) (f : Channel → Channel) : (s.updChannel c f).igfel = s.igfel := rfl
@[simp] theorem updChannel_outbox (s : State) (c : Nat) (f : Channel → Channel) : (s.updChannel c f).outbox = s.outbox := rfl
@[simp] theorem updChannel_answers (s : State) (c : Nat) (f : Channel → Channel) : (s.updChannel c f).answers = s.answers := rfl
@[simp] theorem updChannel_agenda (s : State) (c : Nat) (f : Channel → Channel) : (s.updChannel c f).agenda = s.agenda := rfl
@[simp] theorem updChannel_now (s : State) (c : Nat) (f : Channel → Channel) : (s.updChannel c f).now = s.now := rfl
@[simp] theorem updChannel_steps (s : State) (c : Nat) (f : Channel → Channel) : (s.updChannel c f).steps = s.steps := rfl
@[simp] theorem updChannel_fresh (s : State) (c : Nat) (f : Channel → Channel) : (s.updChannel c f).fresh = s.fresh := rfl
@[simp] theorem updChannel_cur (s : State) (c : Nat) (f : Channel → Channel) : (s.updChannel c f).cur = s.cur := rfl
@[simp] theorem updChannel_word (s : State) (c : Nat) (f : Channel → Channel) : (s.updChannel c f).word = s.word := rfl
@[simp] theorem updChannel_second (s : State) (c : Nat) (f : Channel → Channel) : (s.updChannel c f).second = s.second := rfl
@[simp] theorem updChannel_held (s : State) (c : Nat) (f : Channel → Channel) : (s.updChannel c f).held = s.held := rfl

/-! `State.updPart` -/

@[simp] theorem updPart_grade (s : State) (p : Nat) (f : Part → Part) : (s.updPart p f).grade = s.grade := rfl
@[simp] theorem updPart_fused (s : State) (p : Nat) (f : Part → Part) : (s.updPart p f).fused = s.fused := rfl
@[simp] theorem updPart_mem (s : State) (p : Nat) (f : Part → Part) : (s.updPart p f).mem = s.mem := rfl
@[simp] theorem updPart_poison (s : State) (p : Nat) (f : Part → Part) : (s.updPart p f).poison = s.poison := rfl
@[simp] theorem updPart_deferMarks (s : State) (p : Nat) (f : Part → Part) : (s.updPart p f).deferMarks = s.deferMarks := rfl
@[simp] theorem updPart_strands (s : State) (p : Nat) (f : Part → Part) : (s.updPart p f).strands = s.strands := rfl
@[simp] theorem updPart_cores (s : State) (p : Nat) (f : Part → Part) : (s.updPart p f).cores = s.cores := rfl
@[simp] theorem updPart_groups (s : State) (p : Nat) (f : Part → Part) : (s.updPart p f).groups = s.groups := rfl
@[simp] theorem updPart_regions (s : State) (p : Nat) (f : Part → Part) : (s.updPart p f).regions = s.regions := rfl
@[simp] theorem updPart_channels (s : State) (p : Nat) (f : Part → Part) : (s.updPart p f).channels = s.channels := rfl
@[simp] theorem updPart_units (s : State) (p : Nat) (f : Part → Part) : (s.updPart p f).units = s.units := rfl
@[simp] theorem updPart_links (s : State) (p : Nat) (f : Part → Part) : (s.updPart p f).links = s.links := rfl
@[simp] theorem updPart_parts (s : State) (p : Nat) (f : Part → Part) : (s.updPart p f).parts = s.parts.put p (f (s.part p)) := rfl
@[simp] theorem updPart_saved (s : State) (p : Nat) (f : Part → Part) : (s.updPart p f).saved = s.saved := rfl
@[simp] theorem updPart_queues (s : State) (p : Nat) (f : Part → Part) : (s.updPart p f).queues = s.queues := rfl
@[simp] theorem updPart_igfel (s : State) (p : Nat) (f : Part → Part) : (s.updPart p f).igfel = s.igfel := rfl
@[simp] theorem updPart_outbox (s : State) (p : Nat) (f : Part → Part) : (s.updPart p f).outbox = s.outbox := rfl
@[simp] theorem updPart_answers (s : State) (p : Nat) (f : Part → Part) : (s.updPart p f).answers = s.answers := rfl
@[simp] theorem updPart_agenda (s : State) (p : Nat) (f : Part → Part) : (s.updPart p f).agenda = s.agenda := rfl
@[simp] theorem updPart_now (s : State) (p : Nat) (f : Part → Part) : (s.updPart p f).now = s.now := rfl
@[simp] theorem updPart_steps (s : State) (p : Nat) (f : Part → Part) : (s.updPart p f).steps = s.steps := rfl
@[simp] theorem updPart_fresh (s : State) (p : Nat) (f : Part → Part) : (s.updPart p f).fresh = s.fresh := rfl
@[simp] theorem updPart_cur (s : State) (p : Nat) (f : Part → Part) : (s.updPart p f).cur = s.cur := rfl
@[simp] theorem updPart_word (s : State) (p : Nat) (f : Part → Part) : (s.updPart p f).word = s.word := rfl
@[simp] theorem updPart_second (s : State) (p : Nat) (f : Part → Part) : (s.updPart p f).second = s.second := rfl
@[simp] theorem updPart_held (s : State) (p : Nat) (f : Part → Part) : (s.updPart p f).held = s.held := rfl

/-! `State.updHostq` -/

@[simp] theorem updHostq_grade (s : State) (q : Nat) (f : HostQueue → HostQueue) : (s.updHostq q f).grade = s.grade := rfl
@[simp] theorem updHostq_fused (s : State) (q : Nat) (f : HostQueue → HostQueue) : (s.updHostq q f).fused = s.fused := rfl
@[simp] theorem updHostq_mem (s : State) (q : Nat) (f : HostQueue → HostQueue) : (s.updHostq q f).mem = s.mem := rfl
@[simp] theorem updHostq_poison (s : State) (q : Nat) (f : HostQueue → HostQueue) : (s.updHostq q f).poison = s.poison := rfl
@[simp] theorem updHostq_deferMarks (s : State) (q : Nat) (f : HostQueue → HostQueue) : (s.updHostq q f).deferMarks = s.deferMarks := rfl
@[simp] theorem updHostq_strands (s : State) (q : Nat) (f : HostQueue → HostQueue) : (s.updHostq q f).strands = s.strands := rfl
@[simp] theorem updHostq_cores (s : State) (q : Nat) (f : HostQueue → HostQueue) : (s.updHostq q f).cores = s.cores := rfl
@[simp] theorem updHostq_groups (s : State) (q : Nat) (f : HostQueue → HostQueue) : (s.updHostq q f).groups = s.groups := rfl
@[simp] theorem updHostq_regions (s : State) (q : Nat) (f : HostQueue → HostQueue) : (s.updHostq q f).regions = s.regions := rfl
@[simp] theorem updHostq_channels (s : State) (q : Nat) (f : HostQueue → HostQueue) : (s.updHostq q f).channels = s.channels := rfl
@[simp] theorem updHostq_units (s : State) (q : Nat) (f : HostQueue → HostQueue) : (s.updHostq q f).units = s.units := rfl
@[simp] theorem updHostq_links (s : State) (q : Nat) (f : HostQueue → HostQueue) : (s.updHostq q f).links = s.links := rfl
@[simp] theorem updHostq_parts (s : State) (q : Nat) (f : HostQueue → HostQueue) : (s.updHostq q f).parts = s.parts := rfl
@[simp] theorem updHostq_saved (s : State) (q : Nat) (f : HostQueue → HostQueue) : (s.updHostq q f).saved = s.saved := rfl
@[simp] theorem updHostq_queues (s : State) (q : Nat) (f : HostQueue → HostQueue) : (s.updHostq q f).queues = s.queues.put q (f (s.hostq q)) := rfl
@[simp] theorem updHostq_igfel (s : State) (q : Nat) (f : HostQueue → HostQueue) : (s.updHostq q f).igfel = s.igfel := rfl
@[simp] theorem updHostq_outbox (s : State) (q : Nat) (f : HostQueue → HostQueue) : (s.updHostq q f).outbox = s.outbox := rfl
@[simp] theorem updHostq_answers (s : State) (q : Nat) (f : HostQueue → HostQueue) : (s.updHostq q f).answers = s.answers := rfl
@[simp] theorem updHostq_agenda (s : State) (q : Nat) (f : HostQueue → HostQueue) : (s.updHostq q f).agenda = s.agenda := rfl
@[simp] theorem updHostq_now (s : State) (q : Nat) (f : HostQueue → HostQueue) : (s.updHostq q f).now = s.now := rfl
@[simp] theorem updHostq_steps (s : State) (q : Nat) (f : HostQueue → HostQueue) : (s.updHostq q f).steps = s.steps := rfl
@[simp] theorem updHostq_fresh (s : State) (q : Nat) (f : HostQueue → HostQueue) : (s.updHostq q f).fresh = s.fresh := rfl
@[simp] theorem updHostq_cur (s : State) (q : Nat) (f : HostQueue → HostQueue) : (s.updHostq q f).cur = s.cur := rfl
@[simp] theorem updHostq_word (s : State) (q : Nat) (f : HostQueue → HostQueue) : (s.updHostq q f).word = s.word := rfl
@[simp] theorem updHostq_second (s : State) (q : Nat) (f : HostQueue → HostQueue) : (s.updHostq q f).second = s.second := rfl
@[simp] theorem updHostq_held (s : State) (q : Nat) (f : HostQueue → HostQueue) : (s.updHostq q f).held = s.held := rfl

/-! `State.push` -/

@[simp] theorem push_grade (s : State) (e : Instr) : (s.push e).grade = s.grade := rfl
@[simp] theorem push_fused (s : State) (e : Instr) : (s.push e).fused = s.fused := rfl
@[simp] theorem push_mem (s : State) (e : Instr) : (s.push e).mem = s.mem := rfl
@[simp] theorem push_poison (s : State) (e : Instr) : (s.push e).poison = s.poison := rfl
@[simp] theorem push_deferMarks (s : State) (e : Instr) : (s.push e).deferMarks = s.deferMarks := rfl
@[simp] theorem push_strands (s : State) (e : Instr) : (s.push e).strands = s.strands := rfl
@[simp] theorem push_cores (s : State) (e : Instr) : (s.push e).cores = s.cores := rfl
@[simp] theorem push_groups (s : State) (e : Instr) : (s.push e).groups = s.groups := rfl
@[simp] theorem push_regions (s : State) (e : Instr) : (s.push e).regions = s.regions := rfl
@[simp] theorem push_channels (s : State) (e : Instr) : (s.push e).channels = s.channels := rfl
@[simp] theorem push_units (s : State) (e : Instr) : (s.push e).units = s.units := rfl
@[simp] theorem push_links (s : State) (e : Instr) : (s.push e).links = s.links := rfl
@[simp] theorem push_parts (s : State) (e : Instr) : (s.push e).parts = s.parts := rfl
@[simp] theorem push_saved (s : State) (e : Instr) : (s.push e).saved = s.saved := rfl
@[simp] theorem push_queues (s : State) (e : Instr) : (s.push e).queues = s.queues := rfl
@[simp] theorem push_igfel (s : State) (e : Instr) : (s.push e).igfel = s.igfel := rfl
@[simp] theorem push_outbox (s : State) (e : Instr) : (s.push e).outbox = s.outbox := rfl
@[simp] theorem push_answers (s : State) (e : Instr) : (s.push e).answers = s.answers := rfl
@[simp] theorem push_agenda (s : State) (e : Instr) : (s.push e).agenda = s.agenda ++ [e] := rfl
@[simp] theorem push_now (s : State) (e : Instr) : (s.push e).now = s.now := rfl
@[simp] theorem push_steps (s : State) (e : Instr) : (s.push e).steps = s.steps := rfl
@[simp] theorem push_fresh (s : State) (e : Instr) : (s.push e).fresh = s.fresh := rfl
@[simp] theorem push_cur (s : State) (e : Instr) : (s.push e).cur = s.cur := rfl
@[simp] theorem push_word (s : State) (e : Instr) : (s.push e).word = s.word := rfl
@[simp] theorem push_second (s : State) (e : Instr) : (s.push e).second = s.second := rfl
@[simp] theorem push_held (s : State) (e : Instr) : (s.push e).held = s.held := rfl

/-! `State.bump` -/

@[simp] theorem bump_grade (s : State) : (s.bump).grade = s.grade := rfl
@[simp] theorem bump_fused (s : State) : (s.bump).fused = s.fused := rfl
@[simp] theorem bump_mem (s : State) : (s.bump).mem = s.mem := rfl
@[simp] theorem bump_poison (s : State) : (s.bump).poison = s.poison := rfl
@[simp] theorem bump_deferMarks (s : State) : (s.bump).deferMarks = s.deferMarks := rfl
@[simp] theorem bump_strands (s : State) : (s.bump).strands = s.strands := rfl
@[simp] theorem bump_cores (s : State) : (s.bump).cores = s.cores := rfl
@[simp] theorem bump_groups (s : State) : (s.bump).groups = s.groups := rfl
@[simp] theorem bump_regions (s : State) : (s.bump).regions = s.regions := rfl
@[simp] theorem bump_channels (s : State) : (s.bump).channels = s.channels := rfl
@[simp] theorem bump_units (s : State) : (s.bump).units = s.units := rfl
@[simp] theorem bump_links (s : State) : (s.bump).links = s.links := rfl
@[simp] theorem bump_parts (s : State) : (s.bump).parts = s.parts := rfl
@[simp] theorem bump_saved (s : State) : (s.bump).saved = s.saved := rfl
@[simp] theorem bump_queues (s : State) : (s.bump).queues = s.queues := rfl
@[simp] theorem bump_igfel (s : State) : (s.bump).igfel = s.igfel := rfl
@[simp] theorem bump_outbox (s : State) : (s.bump).outbox = s.outbox := rfl
@[simp] theorem bump_answers (s : State) : (s.bump).answers = s.answers := rfl
@[simp] theorem bump_agenda (s : State) : (s.bump).agenda = s.agenda := rfl
@[simp] theorem bump_now (s : State) : (s.bump).now = s.now := rfl
@[simp] theorem bump_steps (s : State) : (s.bump).steps = s.steps := rfl
@[simp] theorem bump_fresh (s : State)  : (s.bump).fresh = s.fresh + 1 := rfl
@[simp] theorem bump_cur (s : State) : (s.bump).cur = s.cur := rfl
@[simp] theorem bump_word (s : State) : (s.bump).word = s.word := rfl
@[simp] theorem bump_second (s : State) : (s.bump).second = s.second := rfl
@[simp] theorem bump_held (s : State) : (s.bump).held = s.held := rfl

/-! `State.updMe` -/

@[simp] theorem updMe_grade (s : State) (f : Strand → Strand) : (s.updMe f).grade = s.grade := rfl
@[simp] theorem updMe_fused (s : State) (f : Strand → Strand) : (s.updMe f).fused = s.fused := rfl
@[simp] theorem updMe_mem (s : State) (f : Strand → Strand) : (s.updMe f).mem = s.mem := rfl
@[simp] theorem updMe_poison (s : State) (f : Strand → Strand) : (s.updMe f).poison = s.poison := rfl
@[simp] theorem updMe_deferMarks (s : State) (f : Strand → Strand) : (s.updMe f).deferMarks = s.deferMarks := rfl
@[simp] theorem updMe_strands (s : State) (f : Strand → Strand) : (s.updMe f).strands = s.strands.put s.cur (f s.me) := rfl
@[simp] theorem updMe_cores (s : State) (f : Strand → Strand) : (s.updMe f).cores = s.cores := rfl
@[simp] theorem updMe_groups (s : State) (f : Strand → Strand) : (s.updMe f).groups = s.groups := rfl
@[simp] theorem updMe_regions (s : State) (f : Strand → Strand) : (s.updMe f).regions = s.regions := rfl
@[simp] theorem updMe_channels (s : State) (f : Strand → Strand) : (s.updMe f).channels = s.channels := rfl
@[simp] theorem updMe_units (s : State) (f : Strand → Strand) : (s.updMe f).units = s.units := rfl
@[simp] theorem updMe_links (s : State) (f : Strand → Strand) : (s.updMe f).links = s.links := rfl
@[simp] theorem updMe_parts (s : State) (f : Strand → Strand) : (s.updMe f).parts = s.parts := rfl
@[simp] theorem updMe_saved (s : State) (f : Strand → Strand) : (s.updMe f).saved = s.saved := rfl
@[simp] theorem updMe_queues (s : State) (f : Strand → Strand) : (s.updMe f).queues = s.queues := rfl
@[simp] theorem updMe_igfel (s : State) (f : Strand → Strand) : (s.updMe f).igfel = s.igfel := rfl
@[simp] theorem updMe_outbox (s : State) (f : Strand → Strand) : (s.updMe f).outbox = s.outbox := rfl
@[simp] theorem updMe_answers (s : State) (f : Strand → Strand) : (s.updMe f).answers = s.answers := rfl
@[simp] theorem updMe_agenda (s : State) (f : Strand → Strand) : (s.updMe f).agenda = s.agenda := rfl
@[simp] theorem updMe_now (s : State) (f : Strand → Strand) : (s.updMe f).now = s.now := rfl
@[simp] theorem updMe_steps (s : State) (f : Strand → Strand) : (s.updMe f).steps = s.steps := rfl
@[simp] theorem updMe_fresh (s : State) (f : Strand → Strand) : (s.updMe f).fresh = s.fresh := rfl
@[simp] theorem updMe_cur (s : State) (f : Strand → Strand) : (s.updMe f).cur = s.cur := rfl
@[simp] theorem updMe_word (s : State) (f : Strand → Strand) : (s.updMe f).word = s.word := rfl
@[simp] theorem updMe_second (s : State) (f : Strand → Strand) : (s.updMe f).second = s.second := rfl
@[simp] theorem updMe_held (s : State) (f : Strand → Strand) : (s.updMe f).held = s.held := rfl

/-! `State.updCtx` -/

@[simp] theorem updCtx_grade (s : State) (f : Ctx → Ctx) : (s.updCtx f).grade = s.grade := rfl
@[simp] theorem updCtx_fused (s : State) (f : Ctx → Ctx) : (s.updCtx f).fused = s.fused := rfl
@[simp] theorem updCtx_mem (s : State) (f : Ctx → Ctx) : (s.updCtx f).mem = s.mem := rfl
@[simp] theorem updCtx_poison (s : State) (f : Ctx → Ctx) : (s.updCtx f).poison = s.poison := rfl
@[simp] theorem updCtx_deferMarks (s : State) (f : Ctx → Ctx) : (s.updCtx f).deferMarks = s.deferMarks := rfl
@[simp] theorem updCtx_cores (s : State) (f : Ctx → Ctx) : (s.updCtx f).cores = s.cores := rfl
@[simp] theorem updCtx_groups (s : State) (f : Ctx → Ctx) : (s.updCtx f).groups = s.groups := rfl
@[simp] theorem updCtx_regions (s : State) (f : Ctx → Ctx) : (s.updCtx f).regions = s.regions := rfl
@[simp] theorem updCtx_channels (s : State) (f : Ctx → Ctx) : (s.updCtx f).channels = s.channels := rfl
@[simp] theorem updCtx_units (s : State) (f : Ctx → Ctx) : (s.updCtx f).units = s.units := rfl
@[simp] theorem updCtx_links (s : State) (f : Ctx → Ctx) : (s.updCtx f).links = s.links := rfl
@[simp] theorem updCtx_parts (s : State) (f : Ctx → Ctx) : (s.updCtx f).parts = s.parts := rfl
@[simp] theorem updCtx_saved (s : State) (f : Ctx → Ctx) : (s.updCtx f).saved = s.saved := rfl
@[simp] theorem updCtx_queues (s : State) (f : Ctx → Ctx) : (s.updCtx f).queues = s.queues := rfl
@[simp] theorem updCtx_igfel (s : State) (f : Ctx → Ctx) : (s.updCtx f).igfel = s.igfel := rfl
@[simp] theorem updCtx_outbox (s : State) (f : Ctx → Ctx) : (s.updCtx f).outbox = s.outbox := rfl
@[simp] theorem updCtx_answers (s : State) (f : Ctx → Ctx) : (s.updCtx f).answers = s.answers := rfl
@[simp] theorem updCtx_agenda (s : State) (f : Ctx → Ctx) : (s.updCtx f).agenda = s.agenda := rfl
@[simp] theorem updCtx_now (s : State) (f : Ctx → Ctx) : (s.updCtx f).now = s.now := rfl
@[simp] theorem updCtx_steps (s : State) (f : Ctx → Ctx) : (s.updCtx f).steps = s.steps := rfl
@[simp] theorem updCtx_fresh (s : State) (f : Ctx → Ctx) : (s.updCtx f).fresh = s.fresh := rfl
@[simp] theorem updCtx_cur (s : State) (f : Ctx → Ctx) : (s.updCtx f).cur = s.cur := rfl
@[simp] theorem updCtx_word (s : State) (f : Ctx → Ctx) : (s.updCtx f).word = s.word := rfl
@[simp] theorem updCtx_second (s : State) (f : Ctx → Ctx) : (s.updCtx f).second = s.second := rfl
@[simp] theorem updCtx_held (s : State) (f : Ctx → Ctx) : (s.updCtx f).held = s.held := rfl

/-! `State.pushOnce` -/

@[simp] theorem pushOnce_grade (s : State) (e : Instr) : (s.pushOnce e).grade = s.grade := by
  unfold State.pushOnce; split <;> rfl
@[simp] theorem pushOnce_fused (s : State) (e : Instr) : (s.pushOnce e).fused = s.fused := by
  unfold State.pushOnce; split <;> rfl
@[simp] theorem pushOnce_mem (s : State) (e : Instr) : (s.pushOnce e).mem = s.mem := by
  unfold State.pushOnce; split <;> rfl
@[simp] theorem pushOnce_poison (s : State) (e : Instr) : (s.pushOnce e).poison = s.poison := by
  unfold State.pushOnce; split <;> rfl
@[simp] theorem pushOnce_deferMarks (s : State) (e : Instr) : (s.pushOnce e).deferMarks = s.deferMarks := by
  unfold State.pushOnce; split <;> rfl
@[simp] theorem pushOnce_strands (s : State) (e : Instr) : (s.pushOnce e).strands = s.strands := by
  unfold State.pushOnce; split <;> rfl
@[simp] theorem pushOnce_cores (s : State) (e : Instr) : (s.pushOnce e).cores = s.cores := by
  unfold State.pushOnce; split <;> rfl
@[simp] theorem pushOnce_groups (s : State) (e : Instr) : (s.pushOnce e).groups = s.groups := by
  unfold State.pushOnce; split <;> rfl
@[simp] theorem pushOnce_regions (s : State) (e : Instr) : (s.pushOnce e).regions = s.regions := by
  unfold State.pushOnce; split <;> rfl
@[simp] theorem pushOnce_channels (s : State) (e : Instr) : (s.pushOnce e).channels = s.channels := by
  unfold State.pushOnce; split <;> rfl
@[simp] theorem pushOnce_units (s : State) (e : Instr) : (s.pushOnce e).units = s.units := by
  unfold State.pushOnce; split <;> rfl
@[simp] theorem pushOnce_links (s : State) (e : Instr) : (s.pushOnce e).links = s.links := by
  unfold State.pushOnce; split <;> rfl
@[simp] theorem pushOnce_parts (s : State) (e : Instr) : (s.pushOnce e).parts = s.parts := by
  unfold State.pushOnce; split <;> rfl
@[simp] theorem pushOnce_saved (s : State) (e : Instr) : (s.pushOnce e).saved = s.saved := by
  unfold State.pushOnce; split <;> rfl
@[simp] theorem pushOnce_queues (s : State) (e : Instr) : (s.pushOnce e).queues = s.queues := by
  unfold State.pushOnce; split <;> rfl
@[simp] theorem pushOnce_igfel (s : State) (e : Instr) : (s.pushOnce e).igfel = s.igfel := by
  unfold State.pushOnce; split <;> rfl
@[simp] theorem pushOnce_outbox (s : State) (e : Instr) : (s.pushOnce e).outbox = s.outbox := by
  unfold State.pushOnce; split <;> rfl
@[simp] theorem pushOnce_answers (s : State) (e : Instr) : (s.pushOnce e).answers = s.answers := by
  unfold State.pushOnce; split <;> rfl
@[simp] theorem pushOnce_now (s : State) (e : Instr) : (s.pushOnce e).now = s.now := by
  unfold State.pushOnce; split <;> rfl
@[simp] theorem pushOnce_steps (s : State) (e : Instr) : (s.pushOnce e).steps = s.steps := by
  unfold State.pushOnce; split <;> rfl
@[simp] theorem pushOnce_fresh (s : State) (e : Instr) : (s.pushOnce e).fresh = s.fresh := by
  unfold State.pushOnce; split <;> rfl
@[simp] theorem pushOnce_cur (s : State) (e : Instr) : (s.pushOnce e).cur = s.cur := by
  unfold State.pushOnce; split <;> rfl
@[simp] theorem pushOnce_word (s : State) (e : Instr) : (s.pushOnce e).word = s.word := by
  unfold State.pushOnce; split <;> rfl
@[simp] theorem pushOnce_second (s : State) (e : Instr) : (s.pushOnce e).second = s.second := by
  unfold State.pushOnce; split <;> rfl
@[simp] theorem pushOnce_held (s : State) (e : Instr) : (s.pushOnce e).held = s.held := by
  unfold State.pushOnce; split <;> rfl

/-! ## Records -/

theorem find_put_self {β : Type} (m : Store β) (k : Nat) (b : β) : (Store.put m k b).find k = some b := by
  induction m with
  | nil => simp [Store.put, Store.find]
  | cons p r ih =>
    obtain ⟨j, c⟩ := p
    unfold Store.put
    split
    · simp [Store.find]
    · split
      · simp [Store.find]
      · simp [Store.find, *]

theorem find_put_other {β : Type} (m : Store β) (k j : Nat) (b : β) (h : j ≠ k) :
    (Store.put m k b).find j = m.find j := by
  induction m with
  | nil => simp [Store.put, Store.find, h]
  | cons p r ih =>
    obtain ⟨i, c⟩ := p
    unfold Store.put
    split
    · subst_vars; simp [Store.find, h]
    · split
      · simp only [Store.find, h, if_false]
        split
        · rename_i h1 h2
          split
          · omega
          · split
            · rfl
            · omega
        · rfl
      · simp only [Store.find, ih]

@[simp] theorem setStrand_strand (s : State) (sid : Nat) (x : Strand) : (s.setStrand sid x).strand sid = x := by
  simp [State.strand, Store.getD, find_put_self]

theorem setStrand_strand_other (s : State) (sid j : Nat) (x : Strand) (h : j ≠ sid) :
    (s.setStrand sid x).strand j = s.strand j := by
  simp [State.strand, Store.getD, find_put_other _ _ _ _ h]

@[simp] theorem setCore_core (s : State) (ck : Nat) (x : Core) : (s.setCore ck x).core ck = x := by
  simp [State.core, Store.getD, find_put_self]

theorem setCore_core_other (s : State) (ck j : Nat) (x : Core) (h : j ≠ ck) : (s.setCore ck x).core j = s.core j := by
  simp [State.core, Store.getD, find_put_other _ _ _ _ h]

@[simp] theorem setGroup_group (s : State) (gk : Nat) (x : Group) : (s.setGroup gk x).group gk = x := by
  simp [State.group, Store.getD, find_put_self]

theorem setGroup_group_other (s : State) (gk j : Nat) (x : Group) (h : j ≠ gk) : (s.setGroup gk x).group j = s.group j := by
  simp [State.group, Store.getD, find_put_other _ _ _ _ h]

@[simp] theorem setRegion_region (s : State) (rk : Nat) (x : Region) : (s.setRegion rk x).region rk = x := by
  simp [State.region, Store.getD, find_put_self]

@[simp] theorem setChannel_channel (s : State) (c : Nat) (x : Channel) : (s.setChannel c x).channel c = x := by
  simp [State.channel, Store.getD, find_put_self]

@[simp] theorem setPart_part (s : State) (p : Nat) (x : Part) : (s.setPart p x).part p = x := by
  simp [State.part, Store.getD, find_put_self]

@[simp] theorem setHostq_hostq (s : State) (q : Nat) (x : HostQueue) : (s.setHostq q x).hostq q = x := by
  simp [State.hostq, Store.getD, find_put_self]

@[simp] theorem updStrand_strand (s : State) (sid : Nat) (f : Strand → Strand) :
    (s.updStrand sid f).strand sid = f (s.strand sid) := by simp [State.updStrand]

theorem updStrand_strand_other (s : State) (sid j : Nat) (f : Strand → Strand) (h : j ≠ sid) :
    (s.updStrand sid f).strand j = s.strand j := by simp [State.updStrand, setStrand_strand_other _ _ _ _ h]

@[simp] theorem updMe_me (s : State) (f : Strand → Strand) : (s.updMe f).me = f s.me := by
  show ((s.updStrand s.cur f).strand s.cur) = _
  simp [State.me]

@[simp] theorem updCtx_ctx (s : State) (f : Ctx → Ctx) : (s.updCtx f).ctx = f s.ctx := by
  show ((s.updCtx f).me).ctx = _
  simp [State.updCtx, State.ctx]

/-! ## Contexts -/

theorem idx_injective (a b : Latch) (h : a.idx = b.idx) : a = b := by
  revert h; cases a <;> cases b <;> decide

@[simp] theorem latch_setLatch (c : Ctx) (l : Latch) (r : Reg) : (c.setLatch l r).latch l = r := by
  simp [Ctx.latch, Ctx.setLatch]

theorem latch_setLatch_other (c : Ctx) (l m : Latch) (r : Reg) (h : m ≠ l) : (c.setLatch l r).latch m = c.latch m := by
  have : l.idx.val ≠ m.idx.val := fun e => h (idx_injective m l (Fin.ext e.symm))
  simp [Ctx.latch, Ctx.setLatch, this]

@[simp] theorem greg_setG (c : Ctx) (n : Fin 24) (r : Reg) : (c.setG n r).greg n = r := by simp [Ctx.greg, Ctx.setG]

theorem greg_setG_other (c : Ctx) (n m : Fin 24) (r : Reg) (h : m ≠ n) : (c.setG n r).greg m = c.greg m := by
  have : n.val ≠ m.val := fun e => h (Fin.ext e.symm)
  simp [Ctx.greg, Ctx.setG, this]

@[simp] theorem setPred_zero (c : Ctx) (b : Bool) : c.setPred 0 b = c := rfl

@[simp] theorem pred_zero (c : Ctx) : c.pred 0 = true := rfl

end Sys2Proof.Laws
end

