-- ==== Sys2Proof/Laws/Gates.lean ====
section
/-! SUPPORT. What the gates through which every instruction word goes can do: each lemma lists all the ways in which a gate ends, so
that a proof cites it and unfolds nothing. -/

namespace Sys2Proof.Laws

open Sys2Proof.Machine

/-! ## Guards and modes -/

/-- A guard that is true runs the word. -/
theorem guarded_of_true {h : Hdr} {s : State} (k : State → State) (hg : guardTrue s.ctx h.guard = true) : guarded h s k = k s := if_pos hg

/-- A guard that is false leaves the state as it is (R40). -/
theorem guarded_of_false {h : Hdr} {s : State} (k : State → State) (hg : guardTrue s.ctx h.guard = false) : guarded h s k = s := by
  simp [guarded, hg]

/-- A guarded word does nothing, or runs. -/
theorem guarded_cases (h : Hdr) (s : State) (k : State → State) :
    (guardTrue s.ctx h.guard = true ∧ guarded h s k = k s) ∨ (guardTrue s.ctx h.guard = false ∧ guarded h s k = s) := by
  cases hg : guardTrue s.ctx h.guard
  · exact .inr ⟨rfl, guarded_of_false k hg⟩
  · exact .inl ⟨rfl, guarded_of_true k hg⟩

/-- What a guarded word keeps follows from what the word keeps. -/
theorem guarded_keeps {α : Type} (f : State → α) (h : Hdr) (s : State) (k : State → State) (hk : f (k s) = f s) :
    f (guarded h s k) = f s := by
  obtain ⟨-, e⟩ | ⟨-, e⟩ := guarded_cases h s k <;> rw [e]
  exact hk

/-- The guard that names p0 is true: p0 reads 1 (R29, R40). -/
theorem guardTrue_zero (c : Ctx) : guardTrue c 0 = true := rfl

/-- A word of kernel and supervisor strands runs outside user mode, and faults privilege in it (R52). -/
theorem needKernel_cases (s : State) (k : State → State) :
    (s.mode s.cur ≠ .user ∧ needKernel s k = k s) ∨ (s.mode s.cur = .user ∧ needKernel s k = s.faultWord causePrivilege) := by
  by_cases hm : s.mode s.cur = .user
  · exact .inr ⟨hm, if_pos hm⟩
  · exact .inl ⟨hm, if_neg hm⟩

/-- A word of supervisor strands runs in supervisor mode, and faults privilege elsewhere (R52). -/
theorem needSupervisor_cases (s : State) (k : State → State) :
    (s.mode s.cur = .supervisor ∧ needSupervisor s k = k s) ∨
      (s.mode s.cur ≠ .supervisor ∧ needSupervisor s k = s.faultWord causePrivilege) := by
  by_cases hm : s.mode s.cur = .supervisor
  · exact .inl ⟨hm, if_pos hm⟩
  · exact .inr ⟨hm, if_neg hm⟩

/-! ## The effect gate -/

/-- All that the effect gate can do (R195, R207): run the word as its bundle's effect already; hold the bundle so that the open chunk
ends first; hold it until the earlier chunks have committed; or run it as a chunk of its own. -/
theorem effectGate_cases (s : State) (k : State → State) :
    (s.me.effIssue = true ∧ effectGate s k = k s) ∨
    (s.me.chunk.len ≠ 0 ∧ effectGate s k = s.endFirst) ∨
    ((s.me.await.isSome ∨ s.me.effect.isSome ∨ s.me.ctl ≠ [] ∨ s.logWaiting s.myCk) ∧
      effectGate s k = (s.hold .stalledLA .effect 0).pushOnce (.effectIssue s.cur)) ∨
    (s.me.chunk.len = 0 ∧ s.me.await = none ∧ s.me.effect = none ∧ s.me.ctl = [] ∧ s.logWaiting s.myCk = false ∧
      effectGate s k = k (s.updMe fun x => { x with effIssue := true })) := by
  by_cases h1 : s.me.effIssue = true
  · exact .inl ⟨h1, if_pos h1⟩
  · by_cases h2 : s.me.chunk.len = 0
    · by_cases h3 : s.me.await.isSome ∨ s.me.effect.isSome ∨ s.me.ctl ≠ [] ∨ s.logWaiting s.myCk
      · exact .inr (.inr (.inl ⟨h3, by unfold effectGate; rw [if_neg h1, if_neg (by simp [h2]), if_pos h3]⟩))
      · refine .inr (.inr (.inr ⟨h2, ?_, ?_, ?_, ?_, by unfold effectGate; rw [if_neg h1, if_neg (by simp [h2]), if_neg h3]⟩)) <;> simp_all
    · exact .inr (.inl ⟨h2, by simp [effectGate, h1, h2]⟩)

/-- A bundle that holds nothing back runs an effect. -/
theorem effectGate_runs (s : State) (k : State → State) (h1 : s.me.effIssue = false) (h2 : s.me.chunk.len = 0) (h3 : s.me.await = none)
    (h4 : s.me.effect = none) (h5 : s.me.ctl = []) (h6 : s.logWaiting s.myCk = false) :
    effectGate s k = k (s.updMe fun x => { x with effIssue := true }) := by
  simp [effectGate, h1, h2, h3, h4, h5, h6]

/-- A bundle that the effect gate ends first is held and does not change its context. -/
theorem endFirst_held (s : State) : s.endFirst.held = true := rfl

/-- A bundle that waits is held. -/
theorem hold_held (s : State) (st : SState) (why : Why) (lim : Nat) : (s.hold st why lim).held = true := rfl

/-! ## Result windows -/

/-- A trigger of `n` results to source ports runs where as many windows are free (R332). -/
theorem windowGate_free (s : State) (n : Nat) (k : State → State) (h : openResults s.me.ctx.flights + n ≤ 8) : windowGate s n k = k s := by
  simp [windowGate, h]

/-- The gate runs the word, or holds the bundle until the oldest result has landed. -/
theorem windowGate_cases (s : State) (n : Nat) (k : State → State) :
    windowGate s n k = k s ∨ ∃ g ∈ s.me.ctx.flights, windowGate s n k = s.hold .stalledLA (.ninth g.seq) g.lim := by
  simp only [windowGate]
  split
  · exact .inl rfl
  · split
    · exact .inr ⟨_, List.mem_of_find?_eq_some ‹_›, rfl⟩
    · exact .inl rfl

/-! ## Remote requests -/

/-- All that the gate of remote requests can do (R219, R220, R233): fault for want of a token, wait for room, or run. -/
theorem remoteGate_cases (s : State) (k : State → State) :
    (s.me.tok = 0 ∧ remoteGate s k = s.fault causeNoToken 0 []) ∨
    ((2 ^ 31 - 2 ^ 16 ≤ s.me.distance ∨ 2 ^ 16 ≤ s.me.outstanding) ∧ remoteGate s k = s.hold .stalledLA .serial 0) ∨
    (s.me.tok ≠ 0 ∧ s.me.distance < 2 ^ 31 - 2 ^ 16 ∧ s.me.outstanding < 2 ^ 16 ∧ remoteGate s k = k s) := by
  by_cases h1 : s.me.tok = 0
  · exact .inl ⟨h1, if_pos h1⟩
  · by_cases h2 : 2 ^ 31 - 2 ^ 16 ≤ s.me.distance ∨ 2 ^ 16 ≤ s.me.outstanding
    · exact .inr (.inl ⟨h2, by rw [remoteGate, if_neg h1, if_pos h2]⟩)
    · exact .inr (.inr ⟨h1, by omega, by omega, by rw [remoteGate, if_neg h1, if_neg h2]⟩)

/-! ## Sources -/

/-- A source that is neither a pop nor an effect reads a value and leaves the state as it is (Table 2-5). -/
def plainC : CSrc → Bool
  | .ceC | .sqR | .q _ | .sr _ => false
  | _ => true

/-- A plain source is read at once. -/
theorem readC_plain (s : State) (src : CSrc) (h : plainC src = true) : ∃ r : Reg, ∀ k : Reg → State → State, readC s src k = k r s := by
  cases src <;> first | exact ⟨_, fun _ => rfl⟩ | cases h

/-- A source of an A-word that is neither a stream nor a vector register reads a value and leaves the state as it is (Table 2-7). -/
def plainA : ASrc → Bool
  | .q _ | .v _ => false
  | _ => true

/-- A plain source of an A-word is read at once. -/
theorem readA_plain (s : State) (src : ASrc) (h : plainA src = true) : ∃ r : Reg, ∀ k : Reg → State → State, readA s src k = k r s := by
  cases src <;> first | exact ⟨_, fun _ => rfl⟩ | cases h

/-! ## The end of a stream -/

/-- A pop of an unbound stream, against its direction or past its end faults, and takes nothing (R191). -/
theorem takePosition_faults (s : State) (j : Fin 8) (out : Bool) (n : Nat) (k : Acc → Reg80 → State → State) :
    (s.ctx.binds[j] = none → takePosition s j out n k = s.faultStream 3 j) ∧
    (∀ b, s.ctx.binds[j] = some b → b.out ≠ out → takePosition s j out n k = s.faultStream 4 j) ∧
    (∀ b, s.ctx.binds[j] = some b → b.out = out → b.total ≤ b.pos → takePosition s j out n k = s.faultStream 5 j) := by
  refine ⟨fun h => ?_, fun b h ho => ?_, fun b h ho ht => ?_⟩ <;> simp only [takePosition, h]
  · simp [ho]
  · simp [ho, ht]

end Sys2Proof.Laws
end

