-- ==== Sys2Proof/Laws/Memory.lean ====
section
/-! SUPPORT. Laws of sparse tables, of memory in canonical form and of poison marks: every operation keeps the form, a read
after a write gives what was written, and a write leaves every other byte alone. -/

namespace Sys2Proof.Laws

open Sys2Proof.Machine Sys2Proof.Safety

/-! ## Tables: keys strictly rising -/

theorem rises_weaken {β : Type} (m : Store β) (a b : Nat) (hab : a ≤ b) (h : Store.risesFrom b m = true) :
    Store.risesFrom a m = true := by
  cases m with
  | nil => rfl
  | cons p r => simp only [Store.risesFrom, Bool.and_eq_true, decide_eq_true_eq] at h ⊢; exact ⟨by omega, h.2⟩

theorem rises_put {β : Type} (m : Store β) (lo k : Nat) (b : β) (hk : lo ≤ k) (h : Store.risesFrom lo m = true) :
    Store.risesFrom lo (Store.put m k b) = true := by
  induction m generalizing lo with
  | nil => simp [Store.put, Store.risesFrom, hk]
  | cons p r ih =>
    obtain ⟨j, c⟩ := p
    simp only [Store.risesFrom, Bool.and_eq_true, decide_eq_true_eq] at h
    unfold Store.put
    split
    · subst_vars; simp [Store.risesFrom, h]
    · split
      · simp only [Store.risesFrom, Bool.and_eq_true, decide_eq_true_eq]; exact ⟨hk, by omega, h.2⟩
      · simp only [Store.risesFrom, Bool.and_eq_true, decide_eq_true_eq]; exact ⟨h.1, ih _ (by omega) h.2⟩

theorem rises_del {β : Type} (m : Store β) (lo k : Nat) (h : Store.risesFrom lo m = true) :
    Store.risesFrom lo (Store.del m k) = true := by
  induction m generalizing lo with
  | nil => rfl
  | cons p r ih =>
    obtain ⟨j, c⟩ := p
    simp only [Store.risesFrom, Bool.and_eq_true, decide_eq_true_eq] at h
    unfold Store.del
    split
    · exact rises_weaken _ _ _ (by omega) h.2
    · split
      · simp [Store.risesFrom, h]
      · simp only [Store.risesFrom, Bool.and_eq_true, decide_eq_true_eq]; exact ⟨h.1, ih _ h.2⟩

theorem rises_filter {β : Type} (m : Store β) (lo : Nat) (q : Nat × β → Bool) (h : Store.risesFrom lo m = true) :
    Store.risesFrom lo (m.filter q) = true := by
  induction m generalizing lo with
  | nil => rfl
  | cons p r ih =>
    simp only [Store.risesFrom, Bool.and_eq_true, decide_eq_true_eq] at h
    simp only [List.filter]
    split
    · simp only [Store.risesFrom, Bool.and_eq_true, decide_eq_true_eq]; exact ⟨h.1, ih _ h.2⟩
    · exact rises_weaken _ _ _ (by omega) (ih _ h.2)

theorem rises_mapAll {β : Type} (m : Store β) (lo : Nat) (f : Nat → β → β) (h : Store.risesFrom lo m = true) :
    Store.risesFrom lo (m.mapAll f) = true := by
  induction m generalizing lo with
  | nil => rfl
  | cons p r ih =>
    simp only [Store.risesFrom, Bool.and_eq_true, decide_eq_true_eq] at h
    simp only [Store.mapAll, List.map, Store.risesFrom, Bool.and_eq_true, decide_eq_true_eq]
    exact ⟨h.1, ih _ h.2⟩

theorem put_wf {β : Type} (m : Store β) (k : Nat) (b : β) (h : Store.wf m = true) : Store.wf (Store.put m k b) = true :=
  rises_put m 0 k b (Nat.zero_le k) h

theorem del_wf {β : Type} (m : Store β) (k : Nat) (h : Store.wf m = true) : Store.wf (Store.del m k) = true :=
  rises_del m 0 k h

theorem filter_wf {β : Type} (m : Store β) (q : Nat × β → Bool) (h : Store.wf m = true) : Store.wf (m.filter q) = true :=
  rises_filter m 0 q h

theorem mapAll_wf {β : Type} (m : Store β) (f : Nat → β → β) (h : Store.wf m = true) : Store.wf (m.mapAll f) = true :=
  rises_mapAll m 0 f h

theorem alter_wf {β : Type} (m : Store β) (k : Nat) (f : β → β) (h : Store.wf m = true) : Store.wf (m.alter k f) = true := by
  unfold Store.alter
  split
  · exact put_wf _ _ _ h
  · exact h

/-- A key below the first of a rising table is not listed. -/
theorem find_below {β : Type} (m : Store β) (lo k : Nat) (h : Store.risesFrom lo m = true) (hk : k < lo) : m.find k = none := by
  cases m with
  | nil => rfl
  | cons p r =>
    obtain ⟨j, c⟩ := p
    simp only [Store.risesFrom, Bool.and_eq_true, decide_eq_true_eq] at h
    simp only [Store.find]
    rw [if_neg (by omega), if_pos (by omega)]

theorem find_del_self {β : Type} (m : Store β) (lo k : Nat) (h : Store.risesFrom lo m = true) : (Store.del m k).find k = none := by
  induction m generalizing lo with
  | nil => rfl
  | cons p r ih =>
    obtain ⟨j, c⟩ := p
    simp only [Store.risesFrom, Bool.and_eq_true, decide_eq_true_eq] at h
    unfold Store.del
    split
    · exact find_below _ _ _ h.2 (by omega)
    · split
      · rename_i h1 h2; simp [Store.find, h1, h2]
      · rename_i h1 h2; simp only [Store.find, h1, h2, if_false]; exact ih _ h.2

theorem find_del_other {β : Type} (m : Store β) (lo k j : Nat) (h : Store.risesFrom lo m = true) (hj : j ≠ k) :
    (Store.del m k).find j = m.find j := by
  induction m generalizing lo with
  | nil => rfl
  | cons p r ih =>
    obtain ⟨i, c⟩ := p
    simp only [Store.risesFrom, Bool.and_eq_true, decide_eq_true_eq] at h
    unfold Store.del
    split
    · subst_vars
      simp only [Store.find, hj, if_false]
      split
      · exact find_below _ _ _ h.2 (by omega)
      · rfl
    · split
      · rfl
      · simp only [Store.find, ih _ h.2]

/-! ## Memory -/

theorem put_all (m : List Host.Cell) (k : Nat) (b : Byte) (h : (m.all fun c => c.2 != memDefault) = true) (hb : b ≠ memDefault) :
    ((Store.put m k b).all fun c => c.2 != memDefault) = true := by
  induction m with
  | nil => simp [Store.put, hb]
  | cons p r ih =>
    obtain ⟨j, c⟩ := p
    simp only [List.all_cons, Bool.and_eq_true] at h
    unfold Store.put
    split
    · simp [hb]; simpa using h.2
    · split
      · simp only [List.all_cons, Bool.and_eq_true]; exact ⟨by simp [hb], h⟩
      · simp only [List.all_cons, Bool.and_eq_true]; exact ⟨h.1, ih h.2⟩

theorem del_all (m : List Host.Cell) (k : Nat) (h : (m.all fun c => c.2 != memDefault) = true) :
    ((Store.del m k).all fun c => c.2 != memDefault) = true := by
  induction m with
  | nil => rfl
  | cons p r ih =>
    obtain ⟨j, c⟩ := p
    simp only [List.all_cons, Bool.and_eq_true] at h
    unfold Store.del
    split
    · exact h.2
    · split
      · simp only [List.all_cons, Bool.and_eq_true]; exact h
      · simp only [List.all_cons, Bool.and_eq_true]; exact ⟨h.1, ih h.2⟩

theorem filter_all (m : List Host.Cell) (q : Host.Cell → Bool) (h : (m.all fun c => c.2 != memDefault) = true) :
    ((m.filter q).all fun c => c.2 != memDefault) = true := by
  rw [List.all_eq_true] at h ⊢
  exact fun x hx => h x (List.mem_filter.mp hx).1

theorem memory_wf_iff (m : List Host.Cell) :
    Memory.wf m = true ↔ Store.wf m = true ∧ (m.all fun c => c.2 != memDefault) = true := by
  simp only [Memory.wf, Bool.and_eq_true]

/-- The empty memory has the canonical form. -/
theorem memory_wf_nil : Memory.wf [] = true := rfl

/-- Writing a byte keeps the canonical form. -/
theorem memWrite_wf (m : List Host.Cell) (a : Nat) (b : Byte) (h : Memory.wf m = true) : Memory.wf (memWrite m a b) = true := by
  rw [memory_wf_iff] at h ⊢
  unfold memWrite
  split
  · exact ⟨del_wf _ _ h.1, del_all _ _ h.2⟩
  · rename_i hb; exact ⟨put_wf _ _ _ h.1, put_all _ _ _ h.2 hb⟩

/-- Writing bytes keeps the canonical form. -/
theorem memWriteList_wf (m : List Host.Cell) (a : Nat) (l : List Byte) (h : Memory.wf m = true) :
    Memory.wf (memWriteList m a l) = true := by
  induction l generalizing m a with
  | nil => exact h
  | cons b r ih => exact ih _ _ (memWrite_wf _ _ _ h)

/-- Removing cells keeps the canonical form. -/
theorem memFilter_wf (m : List Host.Cell) (q : Host.Cell → Bool) (h : Memory.wf m = true) : Memory.wf (m.filter q) = true := by
  rw [memory_wf_iff] at h ⊢
  exact ⟨filter_wf _ _ h.1, filter_all _ _ h.2⟩

/-- Writing cells one by one keeps the canonical form. -/
theorem memWriteCells_wf (l : List Host.Cell) (m : List Host.Cell) (h : Memory.wf m = true) :
    Memory.wf (l.foldl (fun m c => memWrite m c.1 c.2) m) = true := by
  induction l generalizing m with
  | nil => exact h
  | cons c r ih => exact ih _ (memWrite_wf _ _ _ h)

/-- A byte reads as it was last written. -/
theorem memRead_memWrite_self (m : List Host.Cell) (a : Nat) (b : Byte) (h : Memory.wf m = true) :
    memRead (memWrite m a b) a = b := by
  rw [memory_wf_iff] at h
  unfold memWrite memRead Store.getD
  split
  · rename_i hb; rw [find_del_self _ _ _ h.1, hb]; rfl
  · rw [find_put_self]; rfl

/-- A write leaves every other byte as it was. -/
theorem memRead_memWrite_other (m : List Host.Cell) (a j : Nat) (b : Byte) (h : Memory.wf m = true) (hj : j ≠ a) :
    memRead (memWrite m a b) j = memRead m j := by
  rw [memory_wf_iff] at h
  unfold memWrite memRead Store.getD
  split
  · rw [find_del_other _ _ _ _ h.1 hj]
  · rw [find_put_other _ _ _ _ hj]

/-- A write of several bytes leaves every byte outside them as it was. -/
theorem memRead_memWriteList_other (l : List Byte) (m : List Host.Cell) (a j : Nat) (h : Memory.wf m = true)
    (hj : j < a ∨ a + l.length ≤ j) : memRead (memWriteList m a l) j = memRead m j := by
  induction l generalizing m a with
  | nil => rfl
  | cons b r ih =>
    simp only [List.length_cons] at hj
    show memRead (memWriteList (memWrite m a b) (a + 1) r) j = _
    rw [ih _ _ (memWrite_wf _ _ _ h) (by omega), memRead_memWrite_other _ _ _ _ h (by omega)]

/-- Reading where bytes were written gives them back. -/
theorem memReadList_memWriteList (l : List Byte) (m : List Host.Cell) (a : Nat) (h : Memory.wf m = true) :
    memReadList (memWriteList m a l) a l.length = l := by
  induction l generalizing m a with
  | nil => rfl
  | cons b r ih =>
    show memRead (memWriteList (memWrite m a b) (a + 1) r) a :: memReadList (memWriteList (memWrite m a b) (a + 1) r) (a + 1) r.length = _
    rw [ih _ _ (memWrite_wf _ _ _ h), memRead_memWriteList_other _ _ _ _ (memWrite_wf _ _ _ h) (by omega), memRead_memWrite_self _ _ _ h]

/-! ## Rising lists of numbers: poison marks -/

theorem list_rises_weaken (l : List Nat) (a b : Nat) (hab : a ≤ b) (h : risesFrom b l = true) : risesFrom a l = true := by
  cases l with
  | nil => rfl
  | cons n r => simp only [risesFrom, Bool.and_eq_true, decide_eq_true_eq] at h ⊢; exact ⟨by omega, h.2⟩

theorem insertNat_rises (l : List Nat) (lo n : Nat) (hn : lo ≤ n) (h : risesFrom lo l = true) : risesFrom lo (insertNat l n) = true := by
  induction l generalizing lo with
  | nil => simp [insertNat, risesFrom, hn]
  | cons m r ih =>
    simp only [risesFrom, Bool.and_eq_true, decide_eq_true_eq] at h
    unfold insertNat
    split
    · simp [risesFrom, h]
    · split
      · simp only [risesFrom, Bool.and_eq_true, decide_eq_true_eq]; exact ⟨hn, by omega, h.2⟩
      · simp only [risesFrom, Bool.and_eq_true, decide_eq_true_eq]; exact ⟨h.1, ih _ (by omega) h.2⟩

theorem eraseNat_rises (l : List Nat) (lo n : Nat) (h : risesFrom lo l = true) : risesFrom lo (eraseNat l n) = true := by
  induction l generalizing lo with
  | nil => rfl
  | cons m r ih =>
    simp only [risesFrom, Bool.and_eq_true, decide_eq_true_eq] at h
    unfold eraseNat
    split
    · exact list_rises_weaken _ _ _ (by omega) h.2
    · split
      · simp [risesFrom, h]
      · simp only [risesFrom, Bool.and_eq_true, decide_eq_true_eq]; exact ⟨h.1, ih _ h.2⟩

theorem filterNat_rises (l : List Nat) (lo : Nat) (q : Nat → Bool) (h : risesFrom lo l = true) : risesFrom lo (l.filter q) = true := by
  induction l generalizing lo with
  | nil => rfl
  | cons m r ih =>
    simp only [risesFrom, Bool.and_eq_true, decide_eq_true_eq] at h
    simp only [List.filter]
    split
    · simp only [risesFrom, Bool.and_eq_true, decide_eq_true_eq]; exact ⟨h.1, ih _ h.2⟩
    · exact list_rises_weaken _ _ _ (by omega) (ih _ h.2)

theorem setMark_rises (l : List Nat) (w : Nat) (m : Bool) (h : risesFrom 0 l = true) : risesFrom 0 (setMark l w m) = true := by
  unfold setMark
  split
  · exact insertNat_rises _ _ _ (Nat.zero_le _) h
  · exact eraseNat_rises _ _ _ h

theorem foldl_rises {α : Type} (l : List α) (f : List Nat → α → List Nat) (p : List Nat)
    (hf : ∀ p x, risesFrom 0 p = true → risesFrom 0 (f p x) = true) (h : risesFrom 0 p = true) : risesFrom 0 (l.foldl f p) = true := by
  induction l generalizing p with
  | nil => exact h
  | cons x r ih => exact ih _ (hf _ _ h)

theorem writeMarks_rises (p : List Nat) (a n : Nat) (m : Bool) (h : risesFrom 0 p = true) : risesFrom 0 (writeMarks p a n m) = true :=
  foldl_rises _ _ _ (fun _ _ hq => setMark_rises _ _ _ hq) h

end Sys2Proof.Laws
end

