-- ==== Sys2Proof/Laws/PerInstr.lean ====
section
/-! SUPPORT. What holds of each instruction as syntax: decoding its word gives it back (R41, R46, R52). -/

set_option Elab.async false

namespace Sys2Proof.Laws.RoundTrip

/-- Decoding the word of a well-formed instruction gives the instruction back; an event has no word. -/
def Statement (i : Instr) : Prop := i.wf = true → ∀ w, encode i = some w → decodeWord w = some i

theorem decodeC (c : CWord) (i : Instr) (h : i.wf = true → parseC c = some i) (he : encode i = some (packC c) := by rfl) : Statement i := by
  intro hw w hx
  rw [he] at hx
  cases hx
  unfold decodeWord
  rw [packC_bit31, unpackC_packC]
  simp [h hw, Option.filter, hw]

theorem decodeA (a : AWord) (i : Instr) (h : i.wf = true → parseA a = some i) (he : encode i = some (packA a) := by rfl) : Statement i := by
  intro hw w hx
  rw [he] at hx
  cases hx
  unfold decodeWord
  rw [packA_bit31, unpackA_packA]
  simp [h hw, Option.filter, hw]

theorem noWord (i : Instr) (h : encode i = none) : Statement i := fun _ w hx => by simp [h] at hx

theorem high_bits {m n : Nat} (u : BitVec m) (v : BitVec n) : (u ++ v).extractLsb' n m = u := by
  ext i hi
  simp only [BitVec.getElem_extractLsb', BitVec.getLsbD_append]
  rw [if_neg (by omega), ← BitVec.getLsbD_eq_getElem]; congr 1; omega

theorem low_bits {m n : Nat} (u : BitVec m) (v : BitVec n) : (u ++ v).extractLsb' 0 n = v := by
  ext i hi
  simp only [BitVec.getElem_extractLsb', BitVec.getLsbD_append]
  rw [if_pos (by omega), ← BitVec.getLsbD_eq_getElem]; congr 1; omega

theorem parse_mov (h : Hdr) (d : Fin 24) (s : CSrc) (hs : s ≠ .ceC) :
    parseC ⟨h.lone, h.guard, 0#4, 0#4, BitVec.ofNat 6 d.val, csrcBits s⟩ = some (.mov h d s) := by
  have hd : d.val % 64 = d.val := by omega
  simp [parseC, parseG, noLa, csrcOf_csrcBits, hs, hd]

theorem parse_pop (h : Hdr) (d : Fin 24) :
    parseC ⟨h.lone, h.guard, 0#4, 0#4, BitVec.ofNat 6 d.val, csrcBits .ceC⟩ = some (.ceCPop h d) := by
  have hd : d.val % 64 = d.val := by omega
  simp [parseC, parseG, noLa, csrcOf_csrcBits, hd]

theorem parse_popw (h : Hdr) (la : BitVec 4) (n : BitVec 10) :
    parseC ⟨h.lone, h.guard, la, 9#4, 3#6, 2#2 ++ n⟩ = some (.sqPopw h la n) := by
  show (if (2#2 ++ n).extractLsb' 10 2 = 2#2 then some (Instr.sqPopw h la ((2#2 ++ n).extractLsb' 0 10)) else none) = _
  rw [high_bits, low_bits]; rfl

theorem parse_pushw (h : Hdr) (la : BitVec 4) (n : BitVec 10) :
    parseC ⟨h.lone, h.guard, la, 9#4, 4#6, 2#2 ++ n⟩ = some (.sqPushw h la n) := by
  show (if (2#2 ++ n).extractLsb' 10 2 = 2#2 then some (Instr.sqPushw h la ((2#2 ++ n).extractLsb' 0 10)) else none) = _
  rw [high_bits, low_bits]; rfl

theorem parse_unmon (h : Hdr) (la mk : BitVec 4) :
    parseC ⟨h.lone, h.guard, la, 10#4, 10#6, 128#8 ++ mk⟩ = some (.syUnmon h la mk) := by
  show (if (128#8 ++ mk).extractLsb' 4 8 = 128#8 then some (Instr.syUnmon h la ((128#8 ++ mk).extractLsb' 0 4)) else none) = _
  rw [high_bits, low_bits]; rfl

theorem parse_br (h : Hdr) (disp : BitVec 11) :
    parseC ⟨h.lone, h.guard, 0#4, 11#4, 0#6, 1#1 ++ disp⟩ = some (.ctBr h disp) := by
  show (if (1#1 ++ disp).getLsbD 11 = true then some (Instr.ctBr h ((1#1 ++ disp).extractLsb' 0 11))
    else (csrcOf (1#1 ++ disp)).map fun s => Instr.ctBrAbs h s) = _
  rw [imm_flag, imm_bits]; rfl

theorem parse_call (h : Hdr) (disp : BitVec 11) :
    parseC ⟨h.lone, h.guard, 0#4, 11#4, 1#6, 1#1 ++ disp⟩ = some (.ctCall h disp) := by
  show (if (1#1 ++ disp).getLsbD 11 = true then some (Instr.ctCall h ((1#1 ++ disp).extractLsb' 0 11))
    else (csrcOf (1#1 ++ disp)).map fun s => Instr.ctCallAbs h s) = _
  rw [imm_flag, imm_bits]; rfl

theorem port_flag (s : CSrc) (hp : s.port = true) : (csrcBits s).getLsbD 11 = false := by
  cases s with
  | imm v => simp [CSrc.port] at hp
  | g n => revert n; decide
  | ls n => revert n; decide
  | q n => revert n; decide
  | sr n => revert n; decide
  | _ => rfl

theorem parse_brAbs (h : Hdr) (s : CSrc) (hp : s.port = true) :
    parseC ⟨h.lone, h.guard, 0#4, 11#4, 0#6, csrcBits s⟩ = some (.ctBrAbs h s) := by
  show (if (csrcBits s).getLsbD 11 = true then some (Instr.ctBr h ((csrcBits s).extractLsb' 0 11))
    else (csrcOf (csrcBits s)).map fun s => Instr.ctBrAbs h s) = _
  rw [port_flag s hp, csrcOf_csrcBits]; rfl

theorem parse_callAbs (h : Hdr) (s : CSrc) (hp : s.port = true) :
    parseC ⟨h.lone, h.guard, 0#4, 11#4, 1#6, csrcBits s⟩ = some (.ctCallAbs h s) := by
  show (if (csrcBits s).getLsbD 11 = true then some (Instr.ctCall h ((csrcBits s).extractLsb' 0 11))
    else (csrcOf (csrcBits s)).map fun s => Instr.ctCallAbs h s) = _
  rw [port_flag s hp, csrcOf_csrcBits]; rfl

theorem parse_unbind (h : Hdr) (j : Fin 8) :
    parseC ⟨h.lone, h.guard, 0#4, 12#4, 8#6, BitVec.ofNat 12 (2048 + j.val)⟩ = some (.qsUnbind h j) := by
  rcases j with ⟨_ | _ | _ | _ | _ | _ | _ | _ | _, hn⟩
  all_goals first | exact absurd hn (by omega) | simp [parseC, parseQs, noLa]

theorem parse_sr (h : Hdr) (r : Fin 21) (s : CSrc) (hr : ¬r = 2 ∧ ¬r = 11 ∧ ¬r = 13) :
    parseC ⟨h.lone, h.guard, 0#4, 13#4, BitVec.ofNat 6 r.val, csrcBits s⟩ = some (.srWrite h r s) := by
  have e : srOf r.val = some r := by simp [srOf]
  have hm : (BitVec.ofNat 6 r.val).toNat = r.val := by have := r.isLt; simp; omega
  show parseSr _ = _
  unfold parseSr
  simp only [hm]
  split <;> rename_i hx
  · exact absurd (Fin.ext hx) hr.1
  · exact absurd (Fin.ext hx) hr.2.1
  · exact absurd (Fin.ext hx) hr.2.2
  · omega
  · omega
  · omega
  · rw [e, csrcOf_csrcBits]; rfl

theorem ofNat3_toNat (d : Fin 4) : (BitVec.ofNat 3 d.val).toNat = d.val := by revert d; decide

theorem halves (imm : BitVec 16) : imm.extractLsb' 12 4 ++ imm.extractLsb' 0 12 = imm := by
  ext i hi
  simp only [BitVec.getElem_append, BitVec.getElem_extractLsb']
  split
  · rw [← BitVec.getLsbD_eq_getElem]; congr 1; omega
  · rw [← BitVec.getLsbD_eq_getElem]; congr 1; omega

theorem parseLi_low (h : Hdr) (r : Fin 24) (imm : BitVec 16) :
    parseC ⟨h.lone, h.guard, imm.extractLsb' 12 4, 14#4, BitVec.ofNat 6 (2 * r.val + 0), imm.extractLsb' 0 12⟩ = some (.ldi h r imm) := by
  have hr : ((BitVec.ofNat 6 (2 * r.val + 0)).extractLsb' 1 5).toNat = r.val := by revert r; decide
  have hb : (BitVec.ofNat 6 (2 * r.val + 0)).getLsbD 0 = false := by revert r; decide
  show parseLi _ = _
  unfold parseLi
  simp only [hr, hb, halves]
  simp

theorem parseLi_high (h : Hdr) (r : Fin 24) (imm : BitVec 16) :
    parseC ⟨h.lone, h.guard, imm.extractLsb' 12 4, 14#4, BitVec.ofNat 6 (2 * r.val + 1), imm.extractLsb' 0 12⟩ = some (.ldih h r imm) := by
  have hr : ((BitVec.ofNat 6 (2 * r.val + 1)).extractLsb' 1 5).toNat = r.val := by revert r; decide
  have hb : (BitVec.ofNat 6 (2 * r.val + 1)).getLsbD 0 = true := by revert r; decide
  show parseLi _ = _
  unfold parseLi
  simp only [hr, hb, halves]
  simp

theorem bits3_toNat (d : Fin 8) : (bits3 d).toNat = d.val := by revert d; decide

theorem mov (h : Hdr) (d : Fin 24) (s : CSrc) : Statement (.mov h d s) :=
  decodeC ⟨h.lone, h.guard, 0#4, 0#4, (BitVec.ofNat 6 d.val), csrcBits s⟩ _ (by intro hw; exact parse_mov h d s (by simp_all [Instr.wf]))
theorem movPw (h : Hdr) (s : CSrc) : Statement (.movPw h s) :=
  decodeC ⟨h.lone, h.guard, 0#4, 0#4, 24#6, csrcBits s⟩ _ (by intro hw; simp [parseC, parseG, noLa, csrcOf_csrcBits])
theorem movVt (h : Hdr) (s : CSrc) : Statement (.movVt h s) :=
  decodeC ⟨h.lone, h.guard, 0#4, 0#4, 25#6, csrcBits s⟩ _ (by intro hw; simp [parseC, parseG, noLa, csrcOf_csrcBits])
theorem ceCPop (h : Hdr) (d : Fin 24) : Statement (.ceCPop h d) :=
  decodeC ⟨h.lone, h.guard, 0#4, 0#4, (BitVec.ofNat 6 d.val), csrcBits .ceC⟩ _ (by intro hw; exact parse_pop h d)
theorem ldi (h : Hdr) (r : Fin 24) (imm : BitVec 16) : Statement (.ldi h r imm) :=
  decodeC ⟨h.lone, h.guard, imm.extractLsb' 12 4, 14#4, BitVec.ofNat 6 (2 * r.val + 0), imm.extractLsb' 0 12⟩ _ (by intro hw; exact parseLi_low h r imm)
theorem ldih (h : Hdr) (r : Fin 24) (imm : BitVec 16) : Statement (.ldih h r imm) :=
  decodeC ⟨h.lone, h.guard, imm.extractLsb' 12 4, 14#4, BitVec.ofNat 6 (2 * r.val + 1), imm.extractLsb' 0 12⟩ _ (by intro hw; exact parseLi_high h r imm)
theorem movIaO (h : Hdr) (s : CSrc) : Statement (.movIaO h s) :=
  decodeC ⟨h.lone, h.guard, 0#4, 1#4, 63#6, csrcBits s⟩ _ (by intro hw; show (csrcOf (csrcBits s)).map (fun s => Instr.movIaO h s) = some (.movIaO h s); rw [csrcOf_csrcBits]; rfl)
theorem movIbO (h : Hdr) (s : CSrc) : Statement (.movIbO h s) :=
  decodeC ⟨h.lone, h.guard, 0#4, 2#4, 63#6, csrcBits s⟩ _ (by intro hw; show (csrcOf (csrcBits s)).map (fun s => Instr.movIbO h s) = some (.movIbO h s); rw [csrcOf_csrcBits]; rfl)
theorem movFaO (h : Hdr) (s : CSrc) : Statement (.movFaO h s) :=
  decodeC ⟨h.lone, h.guard, 0#4, 3#4, 63#6, csrcBits s⟩ _ (by intro hw; show (csrcOf (csrcBits s)).map (fun s => Instr.movFaO h s) = some (.movFaO h s); rw [csrcOf_csrcBits]; rfl)
theorem iaAdd (h : Hdr) (o : ASrc) (t : ASrc) : Statement (.iaAdd h o t) :=
  decodeA ⟨h.lone, h.guard, 0#3, 0#3, 0#6, (asrcBits o), (asrcBits t)⟩ _ (by intro hw; show (asrcOf (asrcBits o)).bind (fun o => (asrcOf (asrcBits t)).map (fun t => Instr.iaAdd h o t)) = some (.iaAdd h o t); simp only [asrcOf_asrcBits, Option.bind_some, Option.map_some])
theorem iaAddC (h : Hdr) (s : CSrc) : Statement (.iaAddC h s) :=
  decodeC ⟨h.lone, h.guard, 0#4, 1#4, 0#6, csrcBits s⟩ _ (by intro hw; show (csrcOf (csrcBits s)).map (fun s => Instr.iaAddC h s) = some (.iaAddC h s); rw [csrcOf_csrcBits]; rfl)
theorem iaSub (h : Hdr) (o : ASrc) (t : ASrc) : Statement (.iaSub h o t) :=
  decodeA ⟨h.lone, h.guard, 0#3, 0#3, 1#6, (asrcBits o), (asrcBits t)⟩ _ (by intro hw; show (asrcOf (asrcBits o)).bind (fun o => (asrcOf (asrcBits t)).map (fun t => Instr.iaSub h o t)) = some (.iaSub h o t); simp only [asrcOf_asrcBits, Option.bind_some, Option.map_some])
theorem iaSubC (h : Hdr) (s : CSrc) : Statement (.iaSubC h s) :=
  decodeC ⟨h.lone, h.guard, 0#4, 1#4, 1#6, csrcBits s⟩ _ (by intro hw; show (csrcOf (csrcBits s)).map (fun s => Instr.iaSubC h s) = some (.iaSubC h s); rw [csrcOf_csrcBits]; rfl)
theorem iaAnd (h : Hdr) (o : ASrc) (t : ASrc) : Statement (.iaAnd h o t) :=
  decodeA ⟨h.lone, h.guard, 0#3, 0#3, 2#6, (asrcBits o), (asrcBits t)⟩ _ (by intro hw; show (asrcOf (asrcBits o)).bind (fun o => (asrcOf (asrcBits t)).map (fun t => Instr.iaAnd h o t)) = some (.iaAnd h o t); simp only [asrcOf_asrcBits, Option.bind_some, Option.map_some])
theorem iaAndC (h : Hdr) (s : CSrc) : Statement (.iaAndC h s) :=
  decodeC ⟨h.lone, h.guard, 0#4, 1#4, 2#6, csrcBits s⟩ _ (by intro hw; show (csrcOf (csrcBits s)).map (fun s => Instr.iaAndC h s) = some (.iaAndC h s); rw [csrcOf_csrcBits]; rfl)
theorem iaOr (h : Hdr) (o : ASrc) (t : ASrc) : Statement (.iaOr h o t) :=
  decodeA ⟨h.lone, h.guard, 0#3, 0#3, 3#6, (asrcBits o), (asrcBits t)⟩ _ (by intro hw; show (asrcOf (asrcBits o)).bind (fun o => (asrcOf (asrcBits t)).map (fun t => Instr.iaOr h o t)) = some (.iaOr h o t); simp only [asrcOf_asrcBits, Option.bind_some, Option.map_some])
theorem iaOrC (h : Hdr) (s : CSrc) : Statement (.iaOrC h s) :=
  decodeC ⟨h.lone, h.guard, 0#4, 1#4, 3#6, csrcBits s⟩ _ (by intro hw; show (csrcOf (csrcBits s)).map (fun s => Instr.iaOrC h s) = some (.iaOrC h s); rw [csrcOf_csrcBits]; rfl)
theorem iaXor (h : Hdr) (o : ASrc) (t : ASrc) : Statement (.iaXor h o t) :=
  decodeA ⟨h.lone, h.guard, 0#3, 0#3, 4#6, (asrcBits o), (asrcBits t)⟩ _ (by intro hw; show (asrcOf (asrcBits o)).bind (fun o => (asrcOf (asrcBits t)).map (fun t => Instr.iaXor h o t)) = some (.iaXor h o t); simp only [asrcOf_asrcBits, Option.bind_some, Option.map_some])
theorem iaXorC (h : Hdr) (s : CSrc) : Statement (.iaXorC h s) :=
  decodeC ⟨h.lone, h.guard, 0#4, 1#4, 4#6, csrcBits s⟩ _ (by intro hw; show (csrcOf (csrcBits s)).map (fun s => Instr.iaXorC h s) = some (.iaXorC h s); rw [csrcOf_csrcBits]; rfl)
theorem iaAndn (h : Hdr) (o : ASrc) (t : ASrc) : Statement (.iaAndn h o t) :=
  decodeA ⟨h.lone, h.guard, 0#3, 0#3, 5#6, (asrcBits o), (asrcBits t)⟩ _ (by intro hw; show (asrcOf (asrcBits o)).bind (fun o => (asrcOf (asrcBits t)).map (fun t => Instr.iaAndn h o t)) = some (.iaAndn h o t); simp only [asrcOf_asrcBits, Option.bind_some, Option.map_some])
theorem iaAndnC (h : Hdr) (s : CSrc) : Statement (.iaAndnC h s) :=
  decodeC ⟨h.lone, h.guard, 0#4, 1#4, 5#6, csrcBits s⟩ _ (by intro hw; show (csrcOf (csrcBits s)).map (fun s => Instr.iaAndnC h s) = some (.iaAndnC h s); rw [csrcOf_csrcBits]; rfl)
theorem iaShl (h : Hdr) (o : ASrc) (t : ASrc) : Statement (.iaShl h o t) :=
  decodeA ⟨h.lone, h.guard, 0#3, 0#3, 6#6, (asrcBits o), (asrcBits t)⟩ _ (by intro hw; show (asrcOf (asrcBits o)).bind (fun o => (asrcOf (asrcBits t)).map (fun t => Instr.iaShl h o t)) = some (.iaShl h o t); simp only [asrcOf_asrcBits, Option.bind_some, Option.map_some])
theorem iaShlC (h : Hdr) (s : CSrc) : Statement (.iaShlC h s) :=
  decodeC ⟨h.lone, h.guard, 0#4, 1#4, 6#6, csrcBits s⟩ _ (by intro hw; show (csrcOf (csrcBits s)).map (fun s => Instr.iaShlC h s) = some (.iaShlC h s); rw [csrcOf_csrcBits]; rfl)
theorem iaShr (h : Hdr) (o : ASrc) (t : ASrc) : Statement (.iaShr h o t) :=
  decodeA ⟨h.lone, h.guard, 0#3, 0#3, 7#6, (asrcBits o), (asrcBits t)⟩ _ (by intro hw; show (asrcOf (asrcBits o)).bind (fun o => (asrcOf (asrcBits t)).map (fun t => Instr.iaShr h o t)) = some (.iaShr h o t); simp only [asrcOf_asrcBits, Option.bind_some, Option.map_some])
theorem iaShrC (h : Hdr) (s : CSrc) : Statement (.iaShrC h s) :=
  decodeC ⟨h.lone, h.guard, 0#4, 1#4, 7#6, csrcBits s⟩ _ (by intro hw; show (csrcOf (csrcBits s)).map (fun s => Instr.iaShrC h s) = some (.iaShrC h s); rw [csrcOf_csrcBits]; rfl)
theorem iaSar (h : Hdr) (o : ASrc) (t : ASrc) : Statement (.iaSar h o t) :=
  decodeA ⟨h.lone, h.guard, 0#3, 0#3, 8#6, (asrcBits o), (asrcBits t)⟩ _ (by intro hw; show (asrcOf (asrcBits o)).bind (fun o => (asrcOf (asrcBits t)).map (fun t => Instr.iaSar h o t)) = some (.iaSar h o t); simp only [asrcOf_asrcBits, Option.bind_some, Option.map_some])
theorem iaSarC (h : Hdr) (s : CSrc) : Statement (.iaSarC h s) :=
  decodeC ⟨h.lone, h.guard, 0#4, 1#4, 8#6, csrcBits s⟩ _ (by intro hw; show (csrcOf (csrcBits s)).map (fun s => Instr.iaSarC h s) = some (.iaSarC h s); rw [csrcOf_csrcBits]; rfl)
theorem iaRotl (h : Hdr) (o : ASrc) (t : ASrc) : Statement (.iaRotl h o t) :=
  decodeA ⟨h.lone, h.guard, 0#3, 0#3, 9#6, (asrcBits o), (asrcBits t)⟩ _ (by intro hw; show (asrcOf (asrcBits o)).bind (fun o => (asrcOf (asrcBits t)).map (fun t => Instr.iaRotl h o t)) = some (.iaRotl h o t); simp only [asrcOf_asrcBits, Option.bind_some, Option.map_some])
theorem iaRotlC (h : Hdr) (s : CSrc) : Statement (.iaRotlC h s) :=
  decodeC ⟨h.lone, h.guard, 0#4, 1#4, 9#6, csrcBits s⟩ _ (by intro hw; show (csrcOf (csrcBits s)).map (fun s => Instr.iaRotlC h s) = some (.iaRotlC h s); rw [csrcOf_csrcBits]; rfl)
theorem iaMin (h : Hdr) (o : ASrc) (t : ASrc) : Statement (.iaMin h o t) :=
  decodeA ⟨h.lone, h.guard, 0#3, 0#3, 10#6, (asrcBits o), (asrcBits t)⟩ _ (by intro hw; show (asrcOf (asrcBits o)).bind (fun o => (asrcOf (asrcBits t)).map (fun t => Instr.iaMin h o t)) = some (.iaMin h o t); simp only [asrcOf_asrcBits, Option.bind_some, Option.map_some])
theorem iaMinC (h : Hdr) (s : CSrc) : Statement (.iaMinC h s) :=
  decodeC ⟨h.lone, h.guard, 0#4, 1#4, 10#6, csrcBits s⟩ _ (by intro hw; show (csrcOf (csrcBits s)).map (fun s => Instr.iaMinC h s) = some (.iaMinC h s); rw [csrcOf_csrcBits]; rfl)
theorem iaMax (h : Hdr) (o : ASrc) (t : ASrc) : Statement (.iaMax h o t) :=
  decodeA ⟨h.lone, h.guard, 0#3, 0#3, 11#6, (asrcBits o), (asrcBits t)⟩ _ (by intro hw; show (asrcOf (asrcBits o)).bind (fun o => (asrcOf (asrcBits t)).map (fun t => Instr.iaMax h o t)) = some (.iaMax h o t); simp only [asrcOf_asrcBits, Option.bind_some, Option.map_some])
theorem iaMaxC (h : Hdr) (s : CSrc) : Statement (.iaMaxC h s) :=
  decodeC ⟨h.lone, h.guard, 0#4, 1#4, 11#6, csrcBits s⟩ _ (by intro hw; show (csrcOf (csrcBits s)).map (fun s => Instr.iaMaxC h s) = some (.iaMaxC h s); rw [csrcOf_csrcBits]; rfl)
theorem iaMinu (h : Hdr) (o : ASrc) (t : ASrc) : Statement (.iaMinu h o t) :=
  decodeA ⟨h.lone, h.guard, 0#3, 0#3, 12#6, (asrcBits o), (asrcBits t)⟩ _ (by intro hw; show (asrcOf (asrcBits o)).bind (fun o => (asrcOf (asrcBits t)).map (fun t => Instr.iaMinu h o t)) = some (.iaMinu h o t); simp only [asrcOf_asrcBits, Option.bind_some, Option.map_some])
theorem iaMinuC (h : Hdr) (s : CSrc) : Statement (.iaMinuC h s) :=
  decodeC ⟨h.lone, h.guard, 0#4, 1#4, 12#6, csrcBits s⟩ _ (by intro hw; show (csrcOf (csrcBits s)).map (fun s => Instr.iaMinuC h s) = some (.iaMinuC h s); rw [csrcOf_csrcBits]; rfl)
theorem iaMaxu (h : Hdr) (o : ASrc) (t : ASrc) : Statement (.iaMaxu h o t) :=
  decodeA ⟨h.lone, h.guard, 0#3, 0#3, 13#6, (asrcBits o), (asrcBits t)⟩ _ (by intro hw; show (asrcOf (asrcBits o)).bind (fun o => (asrcOf (asrcBits t)).map (fun t => Instr.iaMaxu h o t)) = some (.iaMaxu h o t); simp only [asrcOf_asrcBits, Option.bind_some, Option.map_some])
theorem iaMaxuC (h : Hdr) (s : CSrc) : Statement (.iaMaxuC h s) :=
  decodeC ⟨h.lone, h.guard, 0#4, 1#4, 13#6, csrcBits s⟩ _ (by intro hw; show (csrcOf (csrcBits s)).map (fun s => Instr.iaMaxuC h s) = some (.iaMaxuC h s); rw [csrcOf_csrcBits]; rfl)
theorem iaLea1 (h : Hdr) (o : ASrc) (t : ASrc) : Statement (.iaLea1 h o t) :=
  decodeA ⟨h.lone, h.guard, 0#3, 0#3, 14#6, (asrcBits o), (asrcBits t)⟩ _ (by intro hw; show (asrcOf (asrcBits o)).bind (fun o => (asrcOf (asrcBits t)).map (fun t => Instr.iaLea1 h o t)) = some (.iaLea1 h o t); simp only [asrcOf_asrcBits, Option.bind_some, Option.map_some])
theorem iaLea1C (h : Hdr) (s : CSrc) : Statement (.iaLea1C h s) :=
  decodeC ⟨h.lone, h.guard, 0#4, 1#4, 14#6, csrcBits s⟩ _ (by intro hw; show (csrcOf (csrcBits s)).map (fun s => Instr.iaLea1C h s) = some (.iaLea1C h s); rw [csrcOf_csrcBits]; rfl)
theorem iaLea2 (h : Hdr) (o : ASrc) (t : ASrc) : Statement (.iaLea2 h o t) :=
  decodeA ⟨h.lone, h.guard, 0#3, 0#3, 15#6, (asrcBits o), (asrcBits t)⟩ _ (by intro hw; show (asrcOf (asrcBits o)).bind (fun o => (asrcOf (asrcBits t)).map (fun t => Instr.iaLea2 h o t)) = some (.iaLea2 h o t); simp only [asrcOf_asrcBits, Option.bind_some, Option.map_some])
theorem iaLea2C (h : Hdr) (s : CSrc) : Statement (.iaLea2C h s) :=
  decodeC ⟨h.lone, h.guard, 0#4, 1#4, 15#6, csrcBits s⟩ _ (by intro hw; show (csrcOf (csrcBits s)).map (fun s => Instr.iaLea2C h s) = some (.iaLea2C h s); rw [csrcOf_csrcBits]; rfl)
theorem iaLea4 (h : Hdr) (o : ASrc) (t : ASrc) : Statement (.iaLea4 h o t) :=
  decodeA ⟨h.lone, h.guard, 0#3, 0#3, 16#6, (asrcBits o), (asrcBits t)⟩ _ (by intro hw; show (asrcOf (asrcBits o)).bind (fun o => (asrcOf (asrcBits t)).map (fun t => Instr.iaLea4 h o t)) = some (.iaLea4 h o t); simp only [asrcOf_asrcBits, Option.bind_some, Option.map_some])
theorem iaLea4C (h : Hdr) (s : CSrc) : Statement (.iaLea4C h s) :=
  decodeC ⟨h.lone, h.guard, 0#4, 1#4, 16#6, csrcBits s⟩ _ (by intro hw; show (csrcOf (csrcBits s)).map (fun s => Instr.iaLea4C h s) = some (.iaLea4C h s); rw [csrcOf_csrcBits]; rfl)
theorem iaLea8 (h : Hdr) (o : ASrc) (t : ASrc) : Statement (.iaLea8 h o t) :=
  decodeA ⟨h.lone, h.guard, 0#3, 0#3, 17#6, (asrcBits o), (asrcBits t)⟩ _ (by intro hw; show (asrcOf (asrcBits o)).bind (fun o => (asrcOf (asrcBits t)).map (fun t => Instr.iaLea8 h o t)) = some (.iaLea8 h o t); simp only [asrcOf_asrcBits, Option.bind_some, Option.map_some])
theorem iaLea8C (h : Hdr) (s : CSrc) : Statement (.iaLea8C h s) :=
  decodeC ⟨h.lone, h.guard, 0#4, 1#4, 17#6, csrcBits s⟩ _ (by intro hw; show (csrcOf (csrcBits s)).map (fun s => Instr.iaLea8C h s) = some (.iaLea8C h s); rw [csrcOf_csrcBits]; rfl)
theorem iaSext8 (h : Hdr) (o : ASrc) : Statement (.iaSext8 h o) :=
  decodeA ⟨h.lone, h.guard, 0#3, 0#3, 18#6, (asrcBits o), 64#7⟩ _ (by intro hw; simp [parseA, parseAIa, asrcOf_asrcBits])
theorem iaSext8C (h : Hdr) : Statement (.iaSext8C h) :=
  decodeC ⟨h.lone, h.guard, 0#4, 1#4, 18#6, 2048#12⟩ _ (by intro hw; rfl)
theorem iaSext16 (h : Hdr) (o : ASrc) : Statement (.iaSext16 h o) :=
  decodeA ⟨h.lone, h.guard, 0#3, 0#3, 19#6, (asrcBits o), 64#7⟩ _ (by intro hw; simp [parseA, parseAIa, asrcOf_asrcBits])
theorem iaSext16C (h : Hdr) : Statement (.iaSext16C h) :=
  decodeC ⟨h.lone, h.guard, 0#4, 1#4, 19#6, 2048#12⟩ _ (by intro hw; rfl)
theorem iaSext32 (h : Hdr) (o : ASrc) : Statement (.iaSext32 h o) :=
  decodeA ⟨h.lone, h.guard, 0#3, 0#3, 20#6, (asrcBits o), 64#7⟩ _ (by intro hw; simp [parseA, parseAIa, asrcOf_asrcBits])
theorem iaSext32C (h : Hdr) : Statement (.iaSext32C h) :=
  decodeC ⟨h.lone, h.guard, 0#4, 1#4, 20#6, 2048#12⟩ _ (by intro hw; rfl)
theorem iaZext8 (h : Hdr) (o : ASrc) : Statement (.iaZext8 h o) :=
  decodeA ⟨h.lone, h.guard, 0#3, 0#3, 21#6, (asrcBits o), 64#7⟩ _ (by intro hw; simp [parseA, parseAIa, asrcOf_asrcBits])
theorem iaZext8C (h : Hdr) : Statement (.iaZext8C h) :=
  decodeC ⟨h.lone, h.guard, 0#4, 1#4, 21#6, 2048#12⟩ _ (by intro hw; rfl)
theorem iaZext16 (h : Hdr) (o : ASrc) : Statement (.iaZext16 h o) :=
  decodeA ⟨h.lone, h.guard, 0#3, 0#3, 22#6, (asrcBits o), 64#7⟩ _ (by intro hw; simp [parseA, parseAIa, asrcOf_asrcBits])
theorem iaZext16C (h : Hdr) : Statement (.iaZext16C h) :=
  decodeC ⟨h.lone, h.guard, 0#4, 1#4, 22#6, 2048#12⟩ _ (by intro hw; rfl)
theorem iaZext32 (h : Hdr) (o : ASrc) : Statement (.iaZext32 h o) :=
  decodeA ⟨h.lone, h.guard, 0#3, 0#3, 23#6, (asrcBits o), 64#7⟩ _ (by intro hw; simp [parseA, parseAIa, asrcOf_asrcBits])
theorem iaZext32C (h : Hdr) : Statement (.iaZext32C h) :=
  decodeC ⟨h.lone, h.guard, 0#4, 1#4, 23#6, 2048#12⟩ _ (by intro hw; rfl)
theorem iaClz (h : Hdr) (o : ASrc) : Statement (.iaClz h o) :=
  decodeA ⟨h.lone, h.guard, 0#3, 0#3, 24#6, (asrcBits o), 64#7⟩ _ (by intro hw; simp [parseA, parseAIa, asrcOf_asrcBits])
theorem iaClzC (h : Hdr) : Statement (.iaClzC h) :=
  decodeC ⟨h.lone, h.guard, 0#4, 1#4, 24#6, 2048#12⟩ _ (by intro hw; rfl)
theorem iaCtz (h : Hdr) (o : ASrc) : Statement (.iaCtz h o) :=
  decodeA ⟨h.lone, h.guard, 0#3, 0#3, 25#6, (asrcBits o), 64#7⟩ _ (by intro hw; simp [parseA, parseAIa, asrcOf_asrcBits])
theorem iaCtzC (h : Hdr) : Statement (.iaCtzC h) :=
  decodeC ⟨h.lone, h.guard, 0#4, 1#4, 25#6, 2048#12⟩ _ (by intro hw; rfl)
theorem iaPopc (h : Hdr) (o : ASrc) : Statement (.iaPopc h o) :=
  decodeA ⟨h.lone, h.guard, 0#3, 0#3, 26#6, (asrcBits o), 64#7⟩ _ (by intro hw; simp [parseA, parseAIa, asrcOf_asrcBits])
theorem iaPopcC (h : Hdr) : Statement (.iaPopcC h) :=
  decodeC ⟨h.lone, h.guard, 0#4, 1#4, 26#6, 2048#12⟩ _ (by intro hw; rfl)
theorem iaBswap (h : Hdr) (o : ASrc) : Statement (.iaBswap h o) :=
  decodeA ⟨h.lone, h.guard, 0#3, 0#3, 27#6, (asrcBits o), 64#7⟩ _ (by intro hw; simp [parseA, parseAIa, asrcOf_asrcBits])
theorem iaBswapC (h : Hdr) : Statement (.iaBswapC h) :=
  decodeC ⟨h.lone, h.guard, 0#4, 1#4, 27#6, 2048#12⟩ _ (by intro hw; rfl)
theorem iaCmpeq (h : Hdr) (d : Fin 8) (o : ASrc) (t : ASrc) : Statement (.iaCmpeq h d o t) :=
  decodeA ⟨h.lone, h.guard, 0#3, (bits3 d), 28#6, (asrcBits o), (asrcBits t)⟩ _ (by intro hw; show (asrcOf (asrcBits o)).bind (fun o => (asrcOf (asrcBits t)).map (fun t => Instr.iaCmpeq h ⟨(bits3 d).toNat, (bits3 d).isLt⟩ o t)) = some (.iaCmpeq h d o t); simp only [asrcOf_asrcBits, Option.bind_some, Option.map_some, bits3_toNat])
theorem iaCmpeqC (h : Hdr) (s : CSrc) : Statement (.iaCmpeqC h s) :=
  decodeC ⟨h.lone, h.guard, 0#4, 1#4, 28#6, csrcBits s⟩ _ (by intro hw; show (csrcOf (csrcBits s)).map (fun s => Instr.iaCmpeqC h s) = some (.iaCmpeqC h s); rw [csrcOf_csrcBits]; rfl)
theorem iaCmpne (h : Hdr) (d : Fin 8) (o : ASrc) (t : ASrc) : Statement (.iaCmpne h d o t) :=
  decodeA ⟨h.lone, h.guard, 0#3, (bits3 d), 29#6, (asrcBits o), (asrcBits t)⟩ _ (by intro hw; show (asrcOf (asrcBits o)).bind (fun o => (asrcOf (asrcBits t)).map (fun t => Instr.iaCmpne h ⟨(bits3 d).toNat, (bits3 d).isLt⟩ o t)) = some (.iaCmpne h d o t); simp only [asrcOf_asrcBits, Option.bind_some, Option.map_some, bits3_toNat])
theorem iaCmpneC (h : Hdr) (s : CSrc) : Statement (.iaCmpneC h s) :=
  decodeC ⟨h.lone, h.guard, 0#4, 1#4, 29#6, csrcBits s⟩ _ (by intro hw; show (csrcOf (csrcBits s)).map (fun s => Instr.iaCmpneC h s) = some (.iaCmpneC h s); rw [csrcOf_csrcBits]; rfl)
theorem iaCmplt (h : Hdr) (d : Fin 8) (o : ASrc) (t : ASrc) : Statement (.iaCmplt h d o t) :=
  decodeA ⟨h.lone, h.guard, 0#3, (bits3 d), 30#6, (asrcBits o), (asrcBits t)⟩ _ (by intro hw; show (asrcOf (asrcBits o)).bind (fun o => (asrcOf (asrcBits t)).map (fun t => Instr.iaCmplt h ⟨(bits3 d).toNat, (bits3 d).isLt⟩ o t)) = some (.iaCmplt h d o t); simp only [asrcOf_asrcBits, Option.bind_some, Option.map_some, bits3_toNat])
theorem iaCmpltC (h : Hdr) (s : CSrc) : Statement (.iaCmpltC h s) :=
  decodeC ⟨h.lone, h.guard, 0#4, 1#4, 30#6, csrcBits s⟩ _ (by intro hw; show (csrcOf (csrcBits s)).map (fun s => Instr.iaCmpltC h s) = some (.iaCmpltC h s); rw [csrcOf_csrcBits]; rfl)
theorem iaCmpltu (h : Hdr) (d : Fin 8) (o : ASrc) (t : ASrc) : Statement (.iaCmpltu h d o t) :=
  decodeA ⟨h.lone, h.guard, 0#3, (bits3 d), 31#6, (asrcBits o), (asrcBits t)⟩ _ (by intro hw; show (asrcOf (asrcBits o)).bind (fun o => (asrcOf (asrcBits t)).map (fun t => Instr.iaCmpltu h ⟨(bits3 d).toNat, (bits3 d).isLt⟩ o t)) = some (.iaCmpltu h d o t); simp only [asrcOf_asrcBits, Option.bind_some, Option.map_some, bits3_toNat])
theorem iaCmpltuC (h : Hdr) (s : CSrc) : Statement (.iaCmpltuC h s) :=
  decodeC ⟨h.lone, h.guard, 0#4, 1#4, 31#6, csrcBits s⟩ _ (by intro hw; show (csrcOf (csrcBits s)).map (fun s => Instr.iaCmpltuC h s) = some (.iaCmpltuC h s); rw [csrcOf_csrcBits]; rfl)
theorem iaCmple (h : Hdr) (d : Fin 8) (o : ASrc) (t : ASrc) : Statement (.iaCmple h d o t) :=
  decodeA ⟨h.lone, h.guard, 0#3, (bits3 d), 32#6, (asrcBits o), (asrcBits t)⟩ _ (by intro hw; show (asrcOf (asrcBits o)).bind (fun o => (asrcOf (asrcBits t)).map (fun t => Instr.iaCmple h ⟨(bits3 d).toNat, (bits3 d).isLt⟩ o t)) = some (.iaCmple h d o t); simp only [asrcOf_asrcBits, Option.bind_some, Option.map_some, bits3_toNat])
theorem iaCmpleC (h : Hdr) (s : CSrc) : Statement (.iaCmpleC h s) :=
  decodeC ⟨h.lone, h.guard, 0#4, 1#4, 32#6, csrcBits s⟩ _ (by intro hw; show (csrcOf (csrcBits s)).map (fun s => Instr.iaCmpleC h s) = some (.iaCmpleC h s); rw [csrcOf_csrcBits]; rfl)
theorem iaCmpleu (h : Hdr) (d : Fin 8) (o : ASrc) (t : ASrc) : Statement (.iaCmpleu h d o t) :=
  decodeA ⟨h.lone, h.guard, 0#3, (bits3 d), 33#6, (asrcBits o), (asrcBits t)⟩ _ (by intro hw; show (asrcOf (asrcBits o)).bind (fun o => (asrcOf (asrcBits t)).map (fun t => Instr.iaCmpleu h ⟨(bits3 d).toNat, (bits3 d).isLt⟩ o t)) = some (.iaCmpleu h d o t); simp only [asrcOf_asrcBits, Option.bind_some, Option.map_some, bits3_toNat])
theorem iaCmpleuC (h : Hdr) (s : CSrc) : Statement (.iaCmpleuC h s) :=
  decodeC ⟨h.lone, h.guard, 0#4, 1#4, 33#6, csrcBits s⟩ _ (by intro hw; show (csrcOf (csrcBits s)).map (fun s => Instr.iaCmpleuC h s) = some (.iaCmpleuC h s); rw [csrcOf_csrcBits]; rfl)
theorem iaSel (h : Hdr) (o : ASrc) (t : ASrc) : Statement (.iaSel h o t) :=
  decodeA ⟨h.lone, h.guard, 0#3, 0#3, 34#6, (asrcBits o), (asrcBits t)⟩ _ (by intro hw; show (asrcOf (asrcBits o)).bind (fun o => (asrcOf (asrcBits t)).map (fun t => Instr.iaSel h o t)) = some (.iaSel h o t); simp only [asrcOf_asrcBits, Option.bind_some, Option.map_some])
theorem iaSelC (h : Hdr) (s : CSrc) : Statement (.iaSelC h s) :=
  decodeC ⟨h.lone, h.guard, 0#4, 1#4, 34#6, csrcBits s⟩ _ (by intro hw; show (csrcOf (csrcBits s)).map (fun s => Instr.iaSelC h s) = some (.iaSelC h s); rw [csrcOf_csrcBits]; rfl)
theorem iaSettag (h : Hdr) (o : ASrc) (t : ASrc) : Statement (.iaSettag h o t) :=
  decodeA ⟨h.lone, h.guard, 0#3, 0#3, 35#6, (asrcBits o), (asrcBits t)⟩ _ (by intro hw; show (asrcOf (asrcBits o)).bind (fun o => (asrcOf (asrcBits t)).map (fun t => Instr.iaSettag h o t)) = some (.iaSettag h o t); simp only [asrcOf_asrcBits, Option.bind_some, Option.map_some])
theorem iaSettagC (h : Hdr) (s : CSrc) : Statement (.iaSettagC h s) :=
  decodeC ⟨h.lone, h.guard, 0#4, 1#4, 35#6, csrcBits s⟩ _ (by intro hw; show (csrcOf (csrcBits s)).map (fun s => Instr.iaSettagC h s) = some (.iaSettagC h s); rw [csrcOf_csrcBits]; rfl)
theorem iaGettag (h : Hdr) (o : ASrc) : Statement (.iaGettag h o) :=
  decodeA ⟨h.lone, h.guard, 0#3, 0#3, 36#6, (asrcBits o), 64#7⟩ _ (by intro hw; simp [parseA, parseAIa, asrcOf_asrcBits])
theorem iaGettagC (h : Hdr) : Statement (.iaGettagC h) :=
  decodeC ⟨h.lone, h.guard, 0#4, 1#4, 36#6, 2048#12⟩ _ (by intro hw; rfl)
theorem iaTile (h : Hdr) (o : ASrc) (t : ASrc) : Statement (.iaTile h o t) :=
  decodeA ⟨h.lone, h.guard, 0#3, 0#3, 37#6, (asrcBits o), (asrcBits t)⟩ _ (by intro hw; show (asrcOf (asrcBits o)).bind (fun o => (asrcOf (asrcBits t)).map (fun t => Instr.iaTile h o t)) = some (.iaTile h o t); simp only [asrcOf_asrcBits, Option.bind_some, Option.map_some])
theorem iaTileC (h : Hdr) (s : CSrc) : Statement (.iaTileC h s) :=
  decodeC ⟨h.lone, h.guard, 0#4, 1#4, 37#6, csrcBits s⟩ _ (by intro hw; show (csrcOf (csrcBits s)).map (fun s => Instr.iaTileC h s) = some (.iaTileC h s); rw [csrcOf_csrcBits]; rfl)
theorem iaGown (h : Hdr) (o : ASrc) (t : ASrc) : Statement (.iaGown h o t) :=
  decodeA ⟨h.lone, h.guard, 0#3, 0#3, 38#6, (asrcBits o), (asrcBits t)⟩ _ (by intro hw; show (asrcOf (asrcBits o)).bind (fun o => (asrcOf (asrcBits t)).map (fun t => Instr.iaGown h o t)) = some (.iaGown h o t); simp only [asrcOf_asrcBits, Option.bind_some, Option.map_some])
theorem iaGownC (h : Hdr) (s : CSrc) : Statement (.iaGownC h s) :=
  decodeC ⟨h.lone, h.guard, 0#4, 1#4, 38#6, csrcBits s⟩ _ (by intro hw; show (csrcOf (csrcBits s)).map (fun s => Instr.iaGownC h s) = some (.iaGownC h s); rw [csrcOf_csrcBits]; rfl)
theorem iaPand (h : Hdr) (d : Fin 8) (o : Fin 32) (t : Fin 32) : Statement (.iaPand h d o t) :=
  decodeA ⟨h.lone, h.guard, 0#3, (bits3 d), 39#6, (predCode o), (predCode t)⟩ _ (by intro hw; simp [parseA, parseAIa, predOf_predCode, bits3_toNat])
theorem iaPor (h : Hdr) (d : Fin 8) (o : Fin 32) (t : Fin 32) : Statement (.iaPor h d o t) :=
  decodeA ⟨h.lone, h.guard, 0#3, (bits3 d), 40#6, (predCode o), (predCode t)⟩ _ (by intro hw; simp [parseA, parseAIa, predOf_predCode, bits3_toNat])
theorem iaPxor (h : Hdr) (d : Fin 8) (o : Fin 32) (t : Fin 32) : Statement (.iaPxor h d o t) :=
  decodeA ⟨h.lone, h.guard, 0#3, (bits3 d), 41#6, (predCode o), (predCode t)⟩ _ (by intro hw; simp [parseA, parseAIa, predOf_predCode, bits3_toNat])
theorem iaPnot (h : Hdr) (d : Fin 8) (o : Fin 32) : Statement (.iaPnot h d o) :=
  decodeA ⟨h.lone, h.guard, 0#3, (bits3 d), 42#6, (predCode o), 64#7⟩ _ (by intro hw; simp [parseA, parseAIa, predOf_predCode, bits3_toNat])
theorem iaPset (h : Hdr) (d : Fin 8) : Statement (.iaPset h d) :=
  decodeA ⟨h.lone, h.guard, 0#3, (bits3 d), 43#6, 64#7, 64#7⟩ _ (by intro hw; simp [parseA, parseAIa, bits3_toNat])
theorem iaPclr (h : Hdr) (d : Fin 8) : Statement (.iaPclr h d) :=
  decodeA ⟨h.lone, h.guard, 0#3, (bits3 d), 44#6, 64#7, 64#7⟩ _ (by intro hw; simp [parseA, parseAIa, bits3_toNat])
theorem ibMul (h : Hdr) (o : ASrc) (t : ASrc) : Statement (.ibMul h o t) :=
  decodeA ⟨h.lone, h.guard, 1#3, 0#3, 0#6, (asrcBits o), (asrcBits t)⟩ _ (by intro hw; show (asrcOf (asrcBits o)).bind (fun o => (asrcOf (asrcBits t)).map (fun t => Instr.ibMul h o t)) = some (.ibMul h o t); simp only [asrcOf_asrcBits, Option.bind_some, Option.map_some])
theorem ibMulC (h : Hdr) (s : CSrc) : Statement (.ibMulC h s) :=
  decodeC ⟨h.lone, h.guard, 0#4, 2#4, 0#6, csrcBits s⟩ _ (by intro hw; show (csrcOf (csrcBits s)).map (fun s => Instr.ibMulC h s) = some (.ibMulC h s); rw [csrcOf_csrcBits]; rfl)
theorem ibMulh (h : Hdr) (o : ASrc) (t : ASrc) : Statement (.ibMulh h o t) :=
  decodeA ⟨h.lone, h.guard, 1#3, 0#3, 1#6, (asrcBits o), (asrcBits t)⟩ _ (by intro hw; show (asrcOf (asrcBits o)).bind (fun o => (asrcOf (asrcBits t)).map (fun t => Instr.ibMulh h o t)) = some (.ibMulh h o t); simp only [asrcOf_asrcBits, Option.bind_some, Option.map_some])
theorem ibMulhC (h : Hdr) (s : CSrc) : Statement (.ibMulhC h s) :=
  decodeC ⟨h.lone, h.guard, 0#4, 2#4, 1#6, csrcBits s⟩ _ (by intro hw; show (csrcOf (csrcBits s)).map (fun s => Instr.ibMulhC h s) = some (.ibMulhC h s); rw [csrcOf_csrcBits]; rfl)
theorem ibMulhu (h : Hdr) (o : ASrc) (t : ASrc) : Statement (.ibMulhu h o t) :=
  decodeA ⟨h.lone, h.guard, 1#3, 0#3, 2#6, (asrcBits o), (asrcBits t)⟩ _ (by intro hw; show (asrcOf (asrcBits o)).bind (fun o => (asrcOf (asrcBits t)).map (fun t => Instr.ibMulhu h o t)) = some (.ibMulhu h o t); simp only [asrcOf_asrcBits, Option.bind_some, Option.map_some])
theorem ibMulhuC (h : Hdr) (s : CSrc) : Statement (.ibMulhuC h s) :=
  decodeC ⟨h.lone, h.guard, 0#4, 2#4, 2#6, csrcBits s⟩ _ (by intro hw; show (csrcOf (csrcBits s)).map (fun s => Instr.ibMulhuC h s) = some (.ibMulhuC h s); rw [csrcOf_csrcBits]; rfl)
theorem ibDiv (h : Hdr) (o : ASrc) (t : ASrc) : Statement (.ibDiv h o t) :=
  decodeA ⟨h.lone, h.guard, 1#3, 0#3, 3#6, (asrcBits o), (asrcBits t)⟩ _ (by intro hw; show (asrcOf (asrcBits o)).bind (fun o => (asrcOf (asrcBits t)).map (fun t => Instr.ibDiv h o t)) = some (.ibDiv h o t); simp only [asrcOf_asrcBits, Option.bind_some, Option.map_some])
theorem ibDivC (h : Hdr) (s : CSrc) : Statement (.ibDivC h s) :=
  decodeC ⟨h.lone, h.guard, 0#4, 2#4, 3#6, csrcBits s⟩ _ (by intro hw; show (csrcOf (csrcBits s)).map (fun s => Instr.ibDivC h s) = some (.ibDivC h s); rw [csrcOf_csrcBits]; rfl)
theorem ibDivu (h : Hdr) (o : ASrc) (t : ASrc) : Statement (.ibDivu h o t) :=
  decodeA ⟨h.lone, h.guard, 1#3, 0#3, 4#6, (asrcBits o), (asrcBits t)⟩ _ (by intro hw; show (asrcOf (asrcBits o)).bind (fun o => (asrcOf (asrcBits t)).map (fun t => Instr.ibDivu h o t)) = some (.ibDivu h o t); simp only [asrcOf_asrcBits, Option.bind_some, Option.map_some])
theorem ibDivuC (h : Hdr) (s : CSrc) : Statement (.ibDivuC h s) :=
  decodeC ⟨h.lone, h.guard, 0#4, 2#4, 4#6, csrcBits s⟩ _ (by intro hw; show (csrcOf (csrcBits s)).map (fun s => Instr.ibDivuC h s) = some (.ibDivuC h s); rw [csrcOf_csrcBits]; rfl)
theorem ibRem (h : Hdr) (o : ASrc) (t : ASrc) : Statement (.ibRem h o t) :=
  decodeA ⟨h.lone, h.guard, 1#3, 0#3, 5#6, (asrcBits o), (asrcBits t)⟩ _ (by intro hw; show (asrcOf (asrcBits o)).bind (fun o => (asrcOf (asrcBits t)).map (fun t => Instr.ibRem h o t)) = some (.ibRem h o t); simp only [asrcOf_asrcBits, Option.bind_some, Option.map_some])
theorem ibRemC (h : Hdr) (s : CSrc) : Statement (.ibRemC h s) :=
  decodeC ⟨h.lone, h.guard, 0#4, 2#4, 5#6, csrcBits s⟩ _ (by intro hw; show (csrcOf (csrcBits s)).map (fun s => Instr.ibRemC h s) = some (.ibRemC h s); rw [csrcOf_csrcBits]; rfl)
theorem ibRemu (h : Hdr) (o : ASrc) (t : ASrc) : Statement (.ibRemu h o t) :=
  decodeA ⟨h.lone, h.guard, 1#3, 0#3, 6#6, (asrcBits o), (asrcBits t)⟩ _ (by intro hw; show (asrcOf (asrcBits o)).bind (fun o => (asrcOf (asrcBits t)).map (fun t => Instr.ibRemu h o t)) = some (.ibRemu h o t); simp only [asrcOf_asrcBits, Option.bind_some, Option.map_some])
theorem ibRemuC (h : Hdr) (s : CSrc) : Statement (.ibRemuC h s) :=
  decodeC ⟨h.lone, h.guard, 0#4, 2#4, 6#6, csrcBits s⟩ _ (by intro hw; show (csrcOf (csrcBits s)).map (fun s => Instr.ibRemuC h s) = some (.ibRemuC h s); rw [csrcOf_csrcBits]; rfl)
theorem ibMulacc (h : Hdr) (o : ASrc) (t : ASrc) : Statement (.ibMulacc h o t) :=
  decodeA ⟨h.lone, h.guard, 1#3, 0#3, 7#6, (asrcBits o), (asrcBits t)⟩ _ (by intro hw; show (asrcOf (asrcBits o)).bind (fun o => (asrcOf (asrcBits t)).map (fun t => Instr.ibMulacc h o t)) = some (.ibMulacc h o t); simp only [asrcOf_asrcBits, Option.bind_some, Option.map_some])
theorem ibMulaccC (h : Hdr) (s : CSrc) : Statement (.ibMulaccC h s) :=
  decodeC ⟨h.lone, h.guard, 0#4, 2#4, 7#6, csrcBits s⟩ _ (by intro hw; show (csrcOf (csrcBits s)).map (fun s => Instr.ibMulaccC h s) = some (.ibMulaccC h s); rw [csrcOf_csrcBits]; rfl)
theorem ibCrc32c (h : Hdr) (o : ASrc) (t : ASrc) : Statement (.ibCrc32c h o t) :=
  decodeA ⟨h.lone, h.guard, 1#3, 0#3, 8#6, (asrcBits o), (asrcBits t)⟩ _ (by intro hw; show (asrcOf (asrcBits o)).bind (fun o => (asrcOf (asrcBits t)).map (fun t => Instr.ibCrc32c h o t)) = some (.ibCrc32c h o t); simp only [asrcOf_asrcBits, Option.bind_some, Option.map_some])
theorem ibCrc32cC (h : Hdr) (s : CSrc) : Statement (.ibCrc32cC h s) :=
  decodeC ⟨h.lone, h.guard, 0#4, 2#4, 8#6, csrcBits s⟩ _ (by intro hw; show (csrcOf (csrcBits s)).map (fun s => Instr.ibCrc32cC h s) = some (.ibCrc32cC h s); rw [csrcOf_csrcBits]; rfl)
theorem faFadd (h : Hdr) (o : ASrc) (t : ASrc) : Statement (.faFadd h o t) :=
  decodeA ⟨h.lone, h.guard, 2#3, 0#3, 0#6, (asrcBits o), (asrcBits t)⟩ _ (by intro hw; show (asrcOf (asrcBits o)).bind (fun o => (asrcOf (asrcBits t)).map (fun t => Instr.faFadd h o t)) = some (.faFadd h o t); simp only [asrcOf_asrcBits, Option.bind_some, Option.map_some])
theorem faFaddC (h : Hdr) (s : CSrc) : Statement (.faFaddC h s) :=
  decodeC ⟨h.lone, h.guard, 0#4, 3#4, 0#6, csrcBits s⟩ _ (by intro hw; show (csrcOf (csrcBits s)).map (fun s => Instr.faFaddC h s) = some (.faFaddC h s); rw [csrcOf_csrcBits]; rfl)
theorem faFsub (h : Hdr) (o : ASrc) (t : ASrc) : Statement (.faFsub h o t) :=
  decodeA ⟨h.lone, h.guard, 2#3, 0#3, 1#6, (asrcBits o), (asrcBits t)⟩ _ (by intro hw; show (asrcOf (asrcBits o)).bind (fun o => (asrcOf (asrcBits t)).map (fun t => Instr.faFsub h o t)) = some (.faFsub h o t); simp only [asrcOf_asrcBits, Option.bind_some, Option.map_some])
theorem faFsubC (h : Hdr) (s : CSrc) : Statement (.faFsubC h s) :=
  decodeC ⟨h.lone, h.guard, 0#4, 3#4, 1#6, csrcBits s⟩ _ (by intro hw; show (csrcOf (csrcBits s)).map (fun s => Instr.faFsubC h s) = some (.faFsubC h s); rw [csrcOf_csrcBits]; rfl)
theorem faFmul (h : Hdr) (o : ASrc) (t : ASrc) : Statement (.faFmul h o t) :=
  decodeA ⟨h.lone, h.guard, 2#3, 0#3, 2#6, (asrcBits o), (asrcBits t)⟩ _ (by intro hw; show (asrcOf (asrcBits o)).bind (fun o => (asrcOf (asrcBits t)).map (fun t => Instr.faFmul h o t)) = some (.faFmul h o t); simp only [asrcOf_asrcBits, Option.bind_some, Option.map_some])
theorem faFmulC (h : Hdr) (s : CSrc) : Statement (.faFmulC h s) :=
  decodeC ⟨h.lone, h.guard, 0#4, 3#4, 2#6, csrcBits s⟩ _ (by intro hw; show (csrcOf (csrcBits s)).map (fun s => Instr.faFmulC h s) = some (.faFmulC h s); rw [csrcOf_csrcBits]; rfl)
theorem faFma (h : Hdr) (o : ASrc) (t : ASrc) : Statement (.faFma h o t) :=
  decodeA ⟨h.lone, h.guard, 2#3, 0#3, 3#6, (asrcBits o), (asrcBits t)⟩ _ (by intro hw; show (asrcOf (asrcBits o)).bind (fun o => (asrcOf (asrcBits t)).map (fun t => Instr.faFma h o t)) = some (.faFma h o t); simp only [asrcOf_asrcBits, Option.bind_some, Option.map_some])
theorem faFmaC (h : Hdr) (s : CSrc) : Statement (.faFmaC h s) :=
  decodeC ⟨h.lone, h.guard, 0#4, 3#4, 3#6, csrcBits s⟩ _ (by intro hw; show (csrcOf (csrcBits s)).map (fun s => Instr.faFmaC h s) = some (.faFmaC h s); rw [csrcOf_csrcBits]; rfl)
theorem faFmin (h : Hdr) (o : ASrc) (t : ASrc) : Statement (.faFmin h o t) :=
  decodeA ⟨h.lone, h.guard, 2#3, 0#3, 4#6, (asrcBits o), (asrcBits t)⟩ _ (by intro hw; show (asrcOf (asrcBits o)).bind (fun o => (asrcOf (asrcBits t)).map (fun t => Instr.faFmin h o t)) = some (.faFmin h o t); simp only [asrcOf_asrcBits, Option.bind_some, Option.map_some])
theorem faFminC (h : Hdr) (s : CSrc) : Statement (.faFminC h s) :=
  decodeC ⟨h.lone, h.guard, 0#4, 3#4, 4#6, csrcBits s⟩ _ (by intro hw; show (csrcOf (csrcBits s)).map (fun s => Instr.faFminC h s) = some (.faFminC h s); rw [csrcOf_csrcBits]; rfl)
theorem faFmax (h : Hdr) (o : ASrc) (t : ASrc) : Statement (.faFmax h o t) :=
  decodeA ⟨h.lone, h.guard, 2#3, 0#3, 5#6, (asrcBits o), (asrcBits t)⟩ _ (by intro hw; show (asrcOf (asrcBits o)).bind (fun o => (asrcOf (asrcBits t)).map (fun t => Instr.faFmax h o t)) = some (.faFmax h o t); simp only [asrcOf_asrcBits, Option.bind_some, Option.map_some])
theorem faFmaxC (h : Hdr) (s : CSrc) : Statement (.faFmaxC h s) :=
  decodeC ⟨h.lone, h.guard, 0#4, 3#4, 5#6, csrcBits s⟩ _ (by intro hw; show (csrcOf (csrcBits s)).map (fun s => Instr.faFmaxC h s) = some (.faFmaxC h s); rw [csrcOf_csrcBits]; rfl)
theorem faFabs (h : Hdr) (o : ASrc) : Statement (.faFabs h o) :=
  decodeA ⟨h.lone, h.guard, 2#3, 0#3, 6#6, (asrcBits o), 64#7⟩ _ (by intro hw; simp [parseA, parseAFa, asrcOf_asrcBits])
theorem faFabsC (h : Hdr) : Statement (.faFabsC h) :=
  decodeC ⟨h.lone, h.guard, 0#4, 3#4, 6#6, 2048#12⟩ _ (by intro hw; rfl)
theorem faFneg (h : Hdr) (o : ASrc) : Statement (.faFneg h o) :=
  decodeA ⟨h.lone, h.guard, 2#3, 0#3, 7#6, (asrcBits o), 64#7⟩ _ (by intro hw; simp [parseA, parseAFa, asrcOf_asrcBits])
theorem faFnegC (h : Hdr) : Statement (.faFnegC h) :=
  decodeC ⟨h.lone, h.guard, 0#4, 3#4, 7#6, 2048#12⟩ _ (by intro hw; rfl)
theorem faFcmpeq (h : Hdr) (d : Fin 8) (o : ASrc) (t : ASrc) : Statement (.faFcmpeq h d o t) :=
  decodeA ⟨h.lone, h.guard, 2#3, (bits3 d), 8#6, (asrcBits o), (asrcBits t)⟩ _ (by intro hw; show (asrcOf (asrcBits o)).bind (fun o => (asrcOf (asrcBits t)).map (fun t => Instr.faFcmpeq h ⟨(bits3 d).toNat, (bits3 d).isLt⟩ o t)) = some (.faFcmpeq h d o t); simp only [asrcOf_asrcBits, Option.bind_some, Option.map_some, bits3_toNat])
theorem faFcmpeqC (h : Hdr) (s : CSrc) : Statement (.faFcmpeqC h s) :=
  decodeC ⟨h.lone, h.guard, 0#4, 3#4, 8#6, csrcBits s⟩ _ (by intro hw; show (csrcOf (csrcBits s)).map (fun s => Instr.faFcmpeqC h s) = some (.faFcmpeqC h s); rw [csrcOf_csrcBits]; rfl)
theorem faFcmplt (h : Hdr) (d : Fin 8) (o : ASrc) (t : ASrc) : Statement (.faFcmplt h d o t) :=
  decodeA ⟨h.lone, h.guard, 2#3, (bits3 d), 9#6, (asrcBits o), (asrcBits t)⟩ _ (by intro hw; show (asrcOf (asrcBits o)).bind (fun o => (asrcOf (asrcBits t)).map (fun t => Instr.faFcmplt h ⟨(bits3 d).toNat, (bits3 d).isLt⟩ o t)) = some (.faFcmplt h d o t); simp only [asrcOf_asrcBits, Option.bind_some, Option.map_some, bits3_toNat])
theorem faFcmpltC (h : Hdr) (s : CSrc) : Statement (.faFcmpltC h s) :=
  decodeC ⟨h.lone, h.guard, 0#4, 3#4, 9#6, csrcBits s⟩ _ (by intro hw; show (csrcOf (csrcBits s)).map (fun s => Instr.faFcmpltC h s) = some (.faFcmpltC h s); rw [csrcOf_csrcBits]; rfl)
theorem faFcmple (h : Hdr) (d : Fin 8) (o : ASrc) (t : ASrc) : Statement (.faFcmple h d o t) :=
  decodeA ⟨h.lone, h.guard, 2#3, (bits3 d), 10#6, (asrcBits o), (asrcBits t)⟩ _ (by intro hw; show (asrcOf (asrcBits o)).bind (fun o => (asrcOf (asrcBits t)).map (fun t => Instr.faFcmple h ⟨(bits3 d).toNat, (bits3 d).isLt⟩ o t)) = some (.faFcmple h d o t); simp only [asrcOf_asrcBits, Option.bind_some, Option.map_some, bits3_toNat])
theorem faFcmpleC (h : Hdr) (s : CSrc) : Statement (.faFcmpleC h s) :=
  decodeC ⟨h.lone, h.guard, 0#4, 3#4, 10#6, csrcBits s⟩ _ (by intro hw; show (csrcOf (csrcBits s)).map (fun s => Instr.faFcmpleC h s) = some (.faFcmpleC h s); rw [csrcOf_csrcBits]; rfl)
theorem faFcmpun (h : Hdr) (d : Fin 8) (o : ASrc) (t : ASrc) : Statement (.faFcmpun h d o t) :=
  decodeA ⟨h.lone, h.guard, 2#3, (bits3 d), 11#6, (asrcBits o), (asrcBits t)⟩ _ (by intro hw; show (asrcOf (asrcBits o)).bind (fun o => (asrcOf (asrcBits t)).map (fun t => Instr.faFcmpun h ⟨(bits3 d).toNat, (bits3 d).isLt⟩ o t)) = some (.faFcmpun h d o t); simp only [asrcOf_asrcBits, Option.bind_some, Option.map_some, bits3_toNat])
theorem faFcmpunC (h : Hdr) (s : CSrc) : Statement (.faFcmpunC h s) :=
  decodeC ⟨h.lone, h.guard, 0#4, 3#4, 11#6, csrcBits s⟩ _ (by intro hw; show (csrcOf (csrcBits s)).map (fun s => Instr.faFcmpunC h s) = some (.faFcmpunC h s); rw [csrcOf_csrcBits]; rfl)
theorem faFdiv (h : Hdr) (o : ASrc) (t : ASrc) : Statement (.faFdiv h o t) :=
  decodeA ⟨h.lone, h.guard, 2#3, 0#3, 12#6, (asrcBits o), (asrcBits t)⟩ _ (by intro hw; show (asrcOf (asrcBits o)).bind (fun o => (asrcOf (asrcBits t)).map (fun t => Instr.faFdiv h o t)) = some (.faFdiv h o t); simp only [asrcOf_asrcBits, Option.bind_some, Option.map_some])
theorem faFdivC (h : Hdr) (s : CSrc) : Statement (.faFdivC h s) :=
  decodeC ⟨h.lone, h.guard, 0#4, 3#4, 12#6, csrcBits s⟩ _ (by intro hw; show (csrcOf (csrcBits s)).map (fun s => Instr.faFdivC h s) = some (.faFdivC h s); rw [csrcOf_csrcBits]; rfl)
theorem faFsqrt (h : Hdr) (o : ASrc) : Statement (.faFsqrt h o) :=
  decodeA ⟨h.lone, h.guard, 2#3, 0#3, 13#6, (asrcBits o), 64#7⟩ _ (by intro hw; simp [parseA, parseAFa, asrcOf_asrcBits])
theorem faFsqrtC (h : Hdr) : Statement (.faFsqrtC h) :=
  decodeC ⟨h.lone, h.guard, 0#4, 3#4, 13#6, 2048#12⟩ _ (by intro hw; rfl)
theorem faFrcp (h : Hdr) (o : ASrc) : Statement (.faFrcp h o) :=
  decodeA ⟨h.lone, h.guard, 2#3, 0#3, 14#6, (asrcBits o), 64#7⟩ _ (by intro hw; simp [parseA, parseAFa, asrcOf_asrcBits])
theorem faFrcpC (h : Hdr) : Statement (.faFrcpC h) :=
  decodeC ⟨h.lone, h.guard, 0#4, 3#4, 14#6, 2048#12⟩ _ (by intro hw; rfl)
theorem faFrsq (h : Hdr) (o : ASrc) : Statement (.faFrsq h o) :=
  decodeA ⟨h.lone, h.guard, 2#3, 0#3, 15#6, (asrcBits o), 64#7⟩ _ (by intro hw; simp [parseA, parseAFa, asrcOf_asrcBits])
theorem faFrsqC (h : Hdr) : Statement (.faFrsqC h) :=
  decodeC ⟨h.lone, h.guard, 0#4, 3#4, 15#6, 2048#12⟩ _ (by intro hw; rfl)
theorem faCvtif (h : Hdr) (o : ASrc) (t : ASrc) : Statement (.faCvtif h o t) :=
  decodeA ⟨h.lone, h.guard, 2#3, 0#3, 16#6, (asrcBits o), (asrcBits t)⟩ _ (by intro hw; show (asrcOf (asrcBits o)).bind (fun o => (asrcOf (asrcBits t)).map (fun t => Instr.faCvtif h o t)) = some (.faCvtif h o t); simp only [asrcOf_asrcBits, Option.bind_some, Option.map_some])
theorem faCvtifC (h : Hdr) (s : CSrc) : Statement (.faCvtifC h s) :=
  decodeC ⟨h.lone, h.guard, 0#4, 3#4, 16#6, csrcBits s⟩ _ (by intro hw; show (csrcOf (csrcBits s)).map (fun s => Instr.faCvtifC h s) = some (.faCvtifC h s); rw [csrcOf_csrcBits]; rfl)
theorem faCvtfi (h : Hdr) (o : ASrc) (t : ASrc) : Statement (.faCvtfi h o t) :=
  decodeA ⟨h.lone, h.guard, 2#3, 0#3, 17#6, (asrcBits o), (asrcBits t)⟩ _ (by intro hw; show (asrcOf (asrcBits o)).bind (fun o => (asrcOf (asrcBits t)).map (fun t => Instr.faCvtfi h o t)) = some (.faCvtfi h o t); simp only [asrcOf_asrcBits, Option.bind_some, Option.map_some])
theorem faCvtfiC (h : Hdr) (s : CSrc) : Statement (.faCvtfiC h s) :=
  decodeC ⟨h.lone, h.guard, 0#4, 3#4, 17#6, csrcBits s⟩ _ (by intro hw; show (csrcOf (csrcBits s)).map (fun s => Instr.faCvtfiC h s) = some (.faCvtfiC h s); rw [csrcOf_csrcBits]; rfl)
theorem faTobf16 (h : Hdr) (o : ASrc) : Statement (.faTobf16 h o) :=
  decodeA ⟨h.lone, h.guard, 2#3, 0#3, 18#6, (asrcBits o), 64#7⟩ _ (by intro hw; simp [parseA, parseAFa, asrcOf_asrcBits])
theorem faTobf16C (h : Hdr) : Statement (.faTobf16C h) :=
  decodeC ⟨h.lone, h.guard, 0#4, 3#4, 18#6, 2048#12⟩ _ (by intro hw; rfl)
theorem faFrombf16 (h : Hdr) (o : ASrc) : Statement (.faFrombf16 h o) :=
  decodeA ⟨h.lone, h.guard, 2#3, 0#3, 19#6, (asrcBits o), 64#7⟩ _ (by intro hw; simp [parseA, parseAFa, asrcOf_asrcBits])
theorem faFrombf16C (h : Hdr) : Statement (.faFrombf16C h) :=
  decodeC ⟨h.lone, h.guard, 0#4, 3#4, 19#6, 2048#12⟩ _ (by intro hw; rfl)
theorem faToe4m3 (h : Hdr) (o : ASrc) : Statement (.faToe4m3 h o) :=
  decodeA ⟨h.lone, h.guard, 2#3, 0#3, 20#6, (asrcBits o), 64#7⟩ _ (by intro hw; simp [parseA, parseAFa, asrcOf_asrcBits])
theorem faToe4m3C (h : Hdr) : Statement (.faToe4m3C h) :=
  decodeC ⟨h.lone, h.guard, 0#4, 3#4, 20#6, 2048#12⟩ _ (by intro hw; rfl)
theorem faFromqn4 (h : Hdr) (o : ASrc) : Statement (.faFromqn4 h o) :=
  decodeA ⟨h.lone, h.guard, 2#3, 0#3, 21#6, (asrcBits o), 64#7⟩ _ (by intro hw; simp [parseA, parseAFa, asrcOf_asrcBits])
theorem faFromqn4C (h : Hdr) : Statement (.faFromqn4C h) :=
  decodeC ⟨h.lone, h.guard, 0#4, 3#4, 21#6, 2048#12⟩ _ (by intro hw; rfl)
theorem faScl (h : Hdr) (o : ASrc) (t : ASrc) : Statement (.faScl h o t) :=
  decodeA ⟨h.lone, h.guard, 2#3, 0#3, 22#6, (asrcBits o), (asrcBits t)⟩ _ (by intro hw; show (asrcOf (asrcBits o)).bind (fun o => (asrcOf (asrcBits t)).map (fun t => Instr.faScl h o t)) = some (.faScl h o t); simp only [asrcOf_asrcBits, Option.bind_some, Option.map_some])
theorem faSclC (h : Hdr) (s : CSrc) : Statement (.faSclC h s) :=
  decodeC ⟨h.lone, h.guard, 0#4, 3#4, 22#6, csrcBits s⟩ _ (by intro hw; show (csrcOf (csrcBits s)).map (fun s => Instr.faSclC h s) = some (.faSclC h s); rw [csrcOf_csrcBits]; rfl)
theorem vpfx (p : Prefix) : Statement (.vpfx p) :=
  decodeC ⟨false, 0#4, 0#4, 4#4, 63#6, prefixBits p⟩ _ (by intro hw; simp [parseC, parseVm, noLa, prefixOf_prefixBits])
theorem vxAdd (h : Hdr) (d : Fin 8) (o : ASrc) (t : ASrc) : Statement (.vxAdd h d o t) :=
  decodeA ⟨h.lone, h.guard, 3#3, (bits3 d), 0#6, (asrcBits o), (asrcBits t)⟩ _ (by intro hw; show (asrcOf (asrcBits o)).bind (fun o => (asrcOf (asrcBits t)).map (fun t => Instr.vxAdd h ⟨(bits3 d).toNat, (bits3 d).isLt⟩ o t)) = some (.vxAdd h d o t); simp only [asrcOf_asrcBits, Option.bind_some, Option.map_some, bits3_toNat])
theorem vxSub (h : Hdr) (d : Fin 8) (o : ASrc) (t : ASrc) : Statement (.vxSub h d o t) :=
  decodeA ⟨h.lone, h.guard, 3#3, (bits3 d), 1#6, (asrcBits o), (asrcBits t)⟩ _ (by intro hw; show (asrcOf (asrcBits o)).bind (fun o => (asrcOf (asrcBits t)).map (fun t => Instr.vxSub h ⟨(bits3 d).toNat, (bits3 d).isLt⟩ o t)) = some (.vxSub h d o t); simp only [asrcOf_asrcBits, Option.bind_some, Option.map_some, bits3_toNat])
theorem vxMul (h : Hdr) (d : Fin 8) (o : ASrc) (t : ASrc) : Statement (.vxMul h d o t) :=
  decodeA ⟨h.lone, h.guard, 3#3, (bits3 d), 2#6, (asrcBits o), (asrcBits t)⟩ _ (by intro hw; show (asrcOf (asrcBits o)).bind (fun o => (asrcOf (asrcBits t)).map (fun t => Instr.vxMul h ⟨(bits3 d).toNat, (bits3 d).isLt⟩ o t)) = some (.vxMul h d o t); simp only [asrcOf_asrcBits, Option.bind_some, Option.map_some, bits3_toNat])
theorem vxMulh (h : Hdr) (d : Fin 8) (o : ASrc) (t : ASrc) : Statement (.vxMulh h d o t) :=
  decodeA ⟨h.lone, h.guard, 3#3, (bits3 d), 3#6, (asrcBits o), (asrcBits t)⟩ _ (by intro hw; show (asrcOf (asrcBits o)).bind (fun o => (asrcOf (asrcBits t)).map (fun t => Instr.vxMulh h ⟨(bits3 d).toNat, (bits3 d).isLt⟩ o t)) = some (.vxMulh h d o t); simp only [asrcOf_asrcBits, Option.bind_some, Option.map_some, bits3_toNat])
theorem vxFma (h : Hdr) (d : Fin 8) (o : ASrc) (t : ASrc) : Statement (.vxFma h d o t) :=
  decodeA ⟨h.lone, h.guard, 3#3, (bits3 d), 4#6, (asrcBits o), (asrcBits t)⟩ _ (by intro hw; show (asrcOf (asrcBits o)).bind (fun o => (asrcOf (asrcBits t)).map (fun t => Instr.vxFma h ⟨(bits3 d).toNat, (bits3 d).isLt⟩ o t)) = some (.vxFma h d o t); simp only [asrcOf_asrcBits, Option.bind_some, Option.map_some, bits3_toNat])
theorem vxFms (h : Hdr) (d : Fin 8) (o : ASrc) (t : ASrc) : Statement (.vxFms h d o t) :=
  decodeA ⟨h.lone, h.guard, 3#3, (bits3 d), 5#6, (asrcBits o), (asrcBits t)⟩ _ (by intro hw; show (asrcOf (asrcBits o)).bind (fun o => (asrcOf (asrcBits t)).map (fun t => Instr.vxFms h ⟨(bits3 d).toNat, (bits3 d).isLt⟩ o t)) = some (.vxFms h d o t); simp only [asrcOf_asrcBits, Option.bind_some, Option.map_some, bits3_toNat])
theorem vxNfma (h : Hdr) (d : Fin 8) (o : ASrc) (t : ASrc) : Statement (.vxNfma h d o t) :=
  decodeA ⟨h.lone, h.guard, 3#3, (bits3 d), 6#6, (asrcBits o), (asrcBits t)⟩ _ (by intro hw; show (asrcOf (asrcBits o)).bind (fun o => (asrcOf (asrcBits t)).map (fun t => Instr.vxNfma h ⟨(bits3 d).toNat, (bits3 d).isLt⟩ o t)) = some (.vxNfma h d o t); simp only [asrcOf_asrcBits, Option.bind_some, Option.map_some, bits3_toNat])
theorem vxMin (h : Hdr) (d : Fin 8) (o : ASrc) (t : ASrc) : Statement (.vxMin h d o t) :=
  decodeA ⟨h.lone, h.guard, 3#3, (bits3 d), 7#6, (asrcBits o), (asrcBits t)⟩ _ (by intro hw; show (asrcOf (asrcBits o)).bind (fun o => (asrcOf (asrcBits t)).map (fun t => Instr.vxMin h ⟨(bits3 d).toNat, (bits3 d).isLt⟩ o t)) = some (.vxMin h d o t); simp only [asrcOf_asrcBits, Option.bind_some, Option.map_some, bits3_toNat])
theorem vxMax (h : Hdr) (d : Fin 8) (o : ASrc) (t : ASrc) : Statement (.vxMax h d o t) :=
  decodeA ⟨h.lone, h.guard, 3#3, (bits3 d), 8#6, (asrcBits o), (asrcBits t)⟩ _ (by intro hw; show (asrcOf (asrcBits o)).bind (fun o => (asrcOf (asrcBits t)).map (fun t => Instr.vxMax h ⟨(bits3 d).toNat, (bits3 d).isLt⟩ o t)) = some (.vxMax h d o t); simp only [asrcOf_asrcBits, Option.bind_some, Option.map_some, bits3_toNat])
theorem vxAbs (h : Hdr) (d : Fin 8) (o : ASrc) : Statement (.vxAbs h d o) :=
  decodeA ⟨h.lone, h.guard, 3#3, (bits3 d), 9#6, (asrcBits o), 64#7⟩ _ (by intro hw; simp [parseA, parseAVx, asrcOf_asrcBits, bits3_toNat])
theorem vxNeg (h : Hdr) (d : Fin 8) (o : ASrc) : Statement (.vxNeg h d o) :=
  decodeA ⟨h.lone, h.guard, 3#3, (bits3 d), 10#6, (asrcBits o), 64#7⟩ _ (by intro hw; simp [parseA, parseAVx, asrcOf_asrcBits, bits3_toNat])
theorem vxAnd (h : Hdr) (d : Fin 8) (o : ASrc) (t : ASrc) : Statement (.vxAnd h d o t) :=
  decodeA ⟨h.lone, h.guard, 3#3, (bits3 d), 11#6, (asrcBits o), (asrcBits t)⟩ _ (by intro hw; show (asrcOf (asrcBits o)).bind (fun o => (asrcOf (asrcBits t)).map (fun t => Instr.vxAnd h ⟨(bits3 d).toNat, (bits3 d).isLt⟩ o t)) = some (.vxAnd h d o t); simp only [asrcOf_asrcBits, Option.bind_some, Option.map_some, bits3_toNat])
theorem vxOr (h : Hdr) (d : Fin 8) (o : ASrc) (t : ASrc) : Statement (.vxOr h d o t) :=
  decodeA ⟨h.lone, h.guard, 3#3, (bits3 d), 12#6, (asrcBits o), (asrcBits t)⟩ _ (by intro hw; show (asrcOf (asrcBits o)).bind (fun o => (asrcOf (asrcBits t)).map (fun t => Instr.vxOr h ⟨(bits3 d).toNat, (bits3 d).isLt⟩ o t)) = some (.vxOr h d o t); simp only [asrcOf_asrcBits, Option.bind_some, Option.map_some, bits3_toNat])
theorem vxXor (h : Hdr) (d : Fin 8) (o : ASrc) (t : ASrc) : Statement (.vxXor h d o t) :=
  decodeA ⟨h.lone, h.guard, 3#3, (bits3 d), 13#6, (asrcBits o), (asrcBits t)⟩ _ (by intro hw; show (asrcOf (asrcBits o)).bind (fun o => (asrcOf (asrcBits t)).map (fun t => Instr.vxXor h ⟨(bits3 d).toNat, (bits3 d).isLt⟩ o t)) = some (.vxXor h d o t); simp only [asrcOf_asrcBits, Option.bind_some, Option.map_some, bits3_toNat])
theorem vxShl (h : Hdr) (d : Fin 8) (o : ASrc) (t : ASrc) : Statement (.vxShl h d o t) :=
  decodeA ⟨h.lone, h.guard, 3#3, (bits3 d), 14#6, (asrcBits o), (asrcBits t)⟩ _ (by intro hw; show (asrcOf (asrcBits o)).bind (fun o => (asrcOf (asrcBits t)).map (fun t => Instr.vxShl h ⟨(bits3 d).toNat, (bits3 d).isLt⟩ o t)) = some (.vxShl h d o t); simp only [asrcOf_asrcBits, Option.bind_some, Option.map_some, bits3_toNat])
theorem vxShr (h : Hdr) (d : Fin 8) (o : ASrc) (t : ASrc) : Statement (.vxShr h d o t) :=
  decodeA ⟨h.lone, h.guard, 3#3, (bits3 d), 15#6, (asrcBits o), (asrcBits t)⟩ _ (by intro hw; show (asrcOf (asrcBits o)).bind (fun o => (asrcOf (asrcBits t)).map (fun t => Instr.vxShr h ⟨(bits3 d).toNat, (bits3 d).isLt⟩ o t)) = some (.vxShr h d o t); simp only [asrcOf_asrcBits, Option.bind_some, Option.map_some, bits3_toNat])
theorem vxSar (h : Hdr) (d : Fin 8) (o : ASrc) (t : ASrc) : Statement (.vxSar h d o t) :=
  decodeA ⟨h.lone, h.guard, 3#3, (bits3 d), 16#6, (asrcBits o), (asrcBits t)⟩ _ (by intro hw; show (asrcOf (asrcBits o)).bind (fun o => (asrcOf (asrcBits t)).map (fun t => Instr.vxSar h ⟨(bits3 d).toNat, (bits3 d).isLt⟩ o t)) = some (.vxSar h d o t); simp only [asrcOf_asrcBits, Option.bind_some, Option.map_some, bits3_toNat])
theorem vxCmpeq (h : Hdr) (d : Fin 4) (o : ASrc) (t : ASrc) : Statement (.vxCmpeq h d o t) :=
  decodeA ⟨h.lone, h.guard, 3#3, (BitVec.ofNat 3 d.val), 17#6, (asrcBits o), (asrcBits t)⟩ _ (by intro hw; simp [parseA, parseAVx, asrcOf_asrcBits]; exact ⟨by omega, Fin.ext (by simp; omega)⟩)
theorem vxCmpne (h : Hdr) (d : Fin 4) (o : ASrc) (t : ASrc) : Statement (.vxCmpne h d o t) :=
  decodeA ⟨h.lone, h.guard, 3#3, (BitVec.ofNat 3 d.val), 18#6, (asrcBits o), (asrcBits t)⟩ _ (by intro hw; simp [parseA, parseAVx, asrcOf_asrcBits]; exact ⟨by omega, Fin.ext (by simp; omega)⟩)
theorem vxCmplt (h : Hdr) (d : Fin 4) (o : ASrc) (t : ASrc) : Statement (.vxCmplt h d o t) :=
  decodeA ⟨h.lone, h.guard, 3#3, (BitVec.ofNat 3 d.val), 19#6, (asrcBits o), (asrcBits t)⟩ _ (by intro hw; simp [parseA, parseAVx, asrcOf_asrcBits]; exact ⟨by omega, Fin.ext (by simp; omega)⟩)
theorem vxCmple (h : Hdr) (d : Fin 4) (o : ASrc) (t : ASrc) : Statement (.vxCmple h d o t) :=
  decodeA ⟨h.lone, h.guard, 3#3, (BitVec.ofNat 3 d.val), 20#6, (asrcBits o), (asrcBits t)⟩ _ (by intro hw; simp [parseA, parseAVx, asrcOf_asrcBits]; exact ⟨by omega, Fin.ext (by simp; omega)⟩)
theorem vxSel (h : Hdr) (d : Fin 8) (o : ASrc) (t : ASrc) : Statement (.vxSel h d o t) :=
  decodeA ⟨h.lone, h.guard, 3#3, (bits3 d), 21#6, (asrcBits o), (asrcBits t)⟩ _ (by intro hw; show (asrcOf (asrcBits o)).bind (fun o => (asrcOf (asrcBits t)).map (fun t => Instr.vxSel h ⟨(bits3 d).toNat, (bits3 d).isLt⟩ o t)) = some (.vxSel h d o t); simp only [asrcOf_asrcBits, Option.bind_some, Option.map_some, bits3_toNat])
theorem vxCvt (h : Hdr) (d : Fin 8) (o : ASrc) : Statement (.vxCvt h d o) :=
  decodeA ⟨h.lone, h.guard, 3#3, (bits3 d), 22#6, (asrcBits o), 64#7⟩ _ (by intro hw; simp [parseA, parseAVx, asrcOf_asrcBits, bits3_toNat])
theorem vxWadd (h : Hdr) (d : Fin 8) (o : ASrc) (t : ASrc) : Statement (.vxWadd h d o t) :=
  decodeA ⟨h.lone, h.guard, 3#3, (bits3 d), 23#6, (asrcBits o), (asrcBits t)⟩ _ (by intro hw; show (asrcOf (asrcBits o)).bind (fun o => (asrcOf (asrcBits t)).map (fun t => Instr.vxWadd h ⟨(bits3 d).toNat, (bits3 d).isLt⟩ o t)) = some (.vxWadd h d o t); simp only [asrcOf_asrcBits, Option.bind_some, Option.map_some, bits3_toNat])
theorem vxWmul (h : Hdr) (d : Fin 8) (o : ASrc) (t : ASrc) : Statement (.vxWmul h d o t) :=
  decodeA ⟨h.lone, h.guard, 3#3, (bits3 d), 24#6, (asrcBits o), (asrcBits t)⟩ _ (by intro hw; show (asrcOf (asrcBits o)).bind (fun o => (asrcOf (asrcBits t)).map (fun t => Instr.vxWmul h ⟨(bits3 d).toNat, (bits3 d).isLt⟩ o t)) = some (.vxWmul h d o t); simp only [asrcOf_asrcBits, Option.bind_some, Option.map_some, bits3_toNat])
theorem vxNarrow (h : Hdr) (d : Fin 8) (o : Fin 8) : Statement (.vxNarrow h d o) :=
  decodeA ⟨h.lone, h.guard, 3#3, (bits3 d), 25#6, (vregCode o), 64#7⟩ _ (by intro hw; simp [parseA, parseAVx, vregOf_vregCode, bits3_toNat])
theorem vxSum (h : Hdr) (o : ASrc) : Statement (.vxSum h o) :=
  decodeA ⟨h.lone, h.guard, 3#3, 0#3, 26#6, (asrcBits o), 64#7⟩ _ (by intro hw; simp [parseA, parseAVx, asrcOf_asrcBits])
theorem vxMaxr (h : Hdr) (o : ASrc) : Statement (.vxMaxr h o) :=
  decodeA ⟨h.lone, h.guard, 3#3, 0#3, 27#6, (asrcBits o), 64#7⟩ _ (by intro hw; simp [parseA, parseAVx, asrcOf_asrcBits])
theorem vxMinr (h : Hdr) (o : ASrc) : Statement (.vxMinr h o) :=
  decodeA ⟨h.lone, h.guard, 3#3, 0#3, 28#6, (asrcBits o), 64#7⟩ _ (by intro hw; simp [parseA, parseAVx, asrcOf_asrcBits])
theorem vxPerm (h : Hdr) (d : Fin 8) (o : ASrc) (t : ASrc) : Statement (.vxPerm h d o t) :=
  decodeA ⟨h.lone, h.guard, 3#3, (bits3 d), 29#6, (asrcBits o), (asrcBits t)⟩ _ (by intro hw; show (asrcOf (asrcBits o)).bind (fun o => (asrcOf (asrcBits t)).map (fun t => Instr.vxPerm h ⟨(bits3 d).toNat, (bits3 d).isLt⟩ o t)) = some (.vxPerm h d o t); simp only [asrcOf_asrcBits, Option.bind_some, Option.map_some, bits3_toNat])
theorem vxShuf (h : Hdr) (d : Fin 8) (o : ASrc) (t : ASrc) : Statement (.vxShuf h d o t) :=
  decodeA ⟨h.lone, h.guard, 3#3, (bits3 d), 30#6, (asrcBits o), (asrcBits t)⟩ _ (by intro hw; show (asrcOf (asrcBits o)).bind (fun o => (asrcOf (asrcBits t)).map (fun t => Instr.vxShuf h ⟨(bits3 d).toNat, (bits3 d).isLt⟩ o t)) = some (.vxShuf h d o t); simp only [asrcOf_asrcBits, Option.bind_some, Option.map_some, bits3_toNat])
theorem vxBcast (h : Hdr) (d : Fin 8) (o : ASrc) (t : ASrc) : Statement (.vxBcast h d o t) :=
  decodeA ⟨h.lone, h.guard, 3#3, (bits3 d), 31#6, (asrcBits o), (asrcBits t)⟩ _ (by intro hw; show (asrcOf (asrcBits o)).bind (fun o => (asrcOf (asrcBits t)).map (fun t => Instr.vxBcast h ⟨(bits3 d).toNat, (bits3 d).isLt⟩ o t)) = some (.vxBcast h d o t); simp only [asrcOf_asrcBits, Option.bind_some, Option.map_some, bits3_toNat])
theorem vxSlide (h : Hdr) (d : Fin 8) (o : ASrc) (t : ASrc) : Statement (.vxSlide h d o t) :=
  decodeA ⟨h.lone, h.guard, 3#3, (bits3 d), 32#6, (asrcBits o), (asrcBits t)⟩ _ (by intro hw; show (asrcOf (asrcBits o)).bind (fun o => (asrcOf (asrcBits t)).map (fun t => Instr.vxSlide h ⟨(bits3 d).toNat, (bits3 d).isLt⟩ o t)) = some (.vxSlide h d o t); simp only [asrcOf_asrcBits, Option.bind_some, Option.map_some, bits3_toNat])
theorem vxXchg (h : Hdr) (d : Fin 8) (o : Fin 8) : Statement (.vxXchg h d o) :=
  decodeA ⟨h.lone, h.guard, 3#3, (bits3 d), 33#6, (vregCode o), 64#7⟩ _ (by intro hw; simp [parseA, parseAVx, vregOf_vregCode, bits3_toNat])
theorem vxSexp (h : Hdr) (d : Fin 8) (o : Fin 8) (t : ASrc) : Statement (.vxSexp h d o t) :=
  decodeA ⟨h.lone, h.guard, 3#3, (bits3 d), 34#6, (vregCode o), (asrcBits t)⟩ _ (by intro hw; simp [parseA, parseAVx, asrcOf_asrcBits, vregOf_vregCode, bits3_toNat])
theorem vxSacc (h : Hdr) (d : Fin 8) (o : ASrc) (t : ASrc) : Statement (.vxSacc h d o t) :=
  decodeA ⟨h.lone, h.guard, 3#3, (bits3 d), 35#6, (asrcBits o), (asrcBits t)⟩ _ (by intro hw; show (asrcOf (asrcBits o)).bind (fun o => (asrcOf (asrcBits t)).map (fun t => Instr.vxSacc h ⟨(bits3 d).toNat, (bits3 d).isLt⟩ o t)) = some (.vxSacc h d o t); simp only [asrcOf_asrcBits, Option.bind_some, Option.map_some, bits3_toNat])
theorem vxDecq (h : Hdr) (d : Fin 8) (o : Fin 8) (q : Fin 4) : Statement (.vxDecq h d o q) :=
  decodeA ⟨h.lone, h.guard, 3#3, (bits3 d), 36#6, (vregCode o), (BitVec.ofNat 7 (64 + q.val))⟩ _ (by intro hw; simp [parseA, parseAVx, vregOf_vregCode, low4Of_code, bits3_toNat])
theorem vxEncq (h : Hdr) (d : Fin 8) (o : Fin 8) (q : Fin 4) : Statement (.vxEncq h d o q) :=
  decodeA ⟨h.lone, h.guard, 3#3, (bits3 d), 37#6, (vregCode o), (BitVec.ofNat 7 (64 + q.val))⟩ _ (by intro hw; simp [parseA, parseAVx, vregOf_vregCode, low4Of_code, bits3_toNat])
theorem vxExp2 (h : Hdr) (d : Fin 8) (o : ASrc) : Statement (.vxExp2 h d o) :=
  decodeA ⟨h.lone, h.guard, 3#3, (bits3 d), 38#6, (asrcBits o), 64#7⟩ _ (by intro hw; simp [parseA, parseAVx, asrcOf_asrcBits, bits3_toNat])
theorem vxLog2 (h : Hdr) (d : Fin 8) (o : ASrc) : Statement (.vxLog2 h d o) :=
  decodeA ⟨h.lone, h.guard, 3#3, (bits3 d), 39#6, (asrcBits o), 64#7⟩ _ (by intro hw; simp [parseA, parseAVx, asrcOf_asrcBits, bits3_toNat])
theorem vxRcp (h : Hdr) (d : Fin 8) (o : ASrc) : Statement (.vxRcp h d o) :=
  decodeA ⟨h.lone, h.guard, 3#3, (bits3 d), 40#6, (asrcBits o), 64#7⟩ _ (by intro hw; simp [parseA, parseAVx, asrcOf_asrcBits, bits3_toNat])
theorem vxRsq (h : Hdr) (d : Fin 8) (o : ASrc) : Statement (.vxRsq h d o) :=
  decodeA ⟨h.lone, h.guard, 3#3, (bits3 d), 41#6, (asrcBits o), 64#7⟩ _ (by intro hw; simp [parseA, parseAVx, asrcOf_asrcBits, bits3_toNat])
theorem vxTanh (h : Hdr) (d : Fin 8) (o : ASrc) : Statement (.vxTanh h d o) :=
  decodeA ⟨h.lone, h.guard, 3#3, (bits3 d), 42#6, (asrcBits o), 64#7⟩ _ (by intro hw; simp [parseA, parseAVx, asrcOf_asrcBits, bits3_toNat])
theorem vxPopcm (h : Hdr) (o : Fin 4) : Statement (.vxPopcm h o) :=
  decodeA ⟨h.lone, h.guard, 3#3, 0#3, 43#6, (BitVec.ofNat 7 (64 + o.val)), 64#7⟩ _ (by intro hw; simp [parseA, parseAVx, low4Of_code])
theorem vxIota (h : Hdr) (d : Fin 8) (o : ASrc) (t : ASrc) : Statement (.vxIota h d o t) :=
  decodeA ⟨h.lone, h.guard, 3#3, (bits3 d), 44#6, (asrcBits o), (asrcBits t)⟩ _ (by intro hw; show (asrcOf (asrcBits o)).bind (fun o => (asrcOf (asrcBits t)).map (fun t => Instr.vxIota h ⟨(bits3 d).toNat, (bits3 d).isLt⟩ o t)) = some (.vxIota h d o t); simp only [asrcOf_asrcBits, Option.bind_some, Option.map_some, bits3_toNat])
theorem vxMmov (h : Hdr) (d : Fin 8) (o : Fin 4) : Statement (.vxMmov h d o) :=
  decodeA ⟨h.lone, h.guard, 3#3, (bits3 d), 45#6, (BitVec.ofNat 7 (64 + o.val)), 64#7⟩ _ (by intro hw; simp [parseA, parseAVx, low4Of_code, bits3_toNat])
theorem vld (h : Hdr) (la : BitVec 4) (n : Fin 8) (s : CSrc) : Statement (.vld h la n s) := by
  rcases n with ⟨_ | _ | _ | _ | _ | _ | _ | _ | _, hn⟩
  · exact decodeC ⟨h.lone, h.guard, la, 4#4, 0#6, csrcBits s⟩ _ (by intro hw; show Option.map _ (csrcOf (csrcBits s)) = _; rw [csrcOf_csrcBits]; rfl)
  · exact decodeC ⟨h.lone, h.guard, la, 4#4, 1#6, csrcBits s⟩ _ (by intro hw; show Option.map _ (csrcOf (csrcBits s)) = _; rw [csrcOf_csrcBits]; rfl)
  · exact decodeC ⟨h.lone, h.guard, la, 4#4, 2#6, csrcBits s⟩ _ (by intro hw; show Option.map _ (csrcOf (csrcBits s)) = _; rw [csrcOf_csrcBits]; rfl)
  · exact decodeC ⟨h.lone, h.guard, la, 4#4, 3#6, csrcBits s⟩ _ (by intro hw; show Option.map _ (csrcOf (csrcBits s)) = _; rw [csrcOf_csrcBits]; rfl)
  · exact decodeC ⟨h.lone, h.guard, la, 4#4, 4#6, csrcBits s⟩ _ (by intro hw; show Option.map _ (csrcOf (csrcBits s)) = _; rw [csrcOf_csrcBits]; rfl)
  · exact decodeC ⟨h.lone, h.guard, la, 4#4, 5#6, csrcBits s⟩ _ (by intro hw; show Option.map _ (csrcOf (csrcBits s)) = _; rw [csrcOf_csrcBits]; rfl)
  · exact decodeC ⟨h.lone, h.guard, la, 4#4, 6#6, csrcBits s⟩ _ (by intro hw; show Option.map _ (csrcOf (csrcBits s)) = _; rw [csrcOf_csrcBits]; rfl)
  · exact decodeC ⟨h.lone, h.guard, la, 4#4, 7#6, csrcBits s⟩ _ (by intro hw; show Option.map _ (csrcOf (csrcBits s)) = _; rw [csrcOf_csrcBits]; rfl)
  · exact absurd hn (by omega)
theorem vst (h : Hdr) (la : BitVec 4) (n : Fin 8) (s : CSrc) : Statement (.vst h la n s) := by
  rcases n with ⟨_ | _ | _ | _ | _ | _ | _ | _ | _, hn⟩
  · exact decodeC ⟨h.lone, h.guard, la, 4#4, 8#6, csrcBits s⟩ _ (by intro hw; show Option.map _ (csrcOf (csrcBits s)) = _; rw [csrcOf_csrcBits]; rfl)
  · exact decodeC ⟨h.lone, h.guard, la, 4#4, 9#6, csrcBits s⟩ _ (by intro hw; show Option.map _ (csrcOf (csrcBits s)) = _; rw [csrcOf_csrcBits]; rfl)
  · exact decodeC ⟨h.lone, h.guard, la, 4#4, 10#6, csrcBits s⟩ _ (by intro hw; show Option.map _ (csrcOf (csrcBits s)) = _; rw [csrcOf_csrcBits]; rfl)
  · exact decodeC ⟨h.lone, h.guard, la, 4#4, 11#6, csrcBits s⟩ _ (by intro hw; show Option.map _ (csrcOf (csrcBits s)) = _; rw [csrcOf_csrcBits]; rfl)
  · exact decodeC ⟨h.lone, h.guard, la, 4#4, 12#6, csrcBits s⟩ _ (by intro hw; show Option.map _ (csrcOf (csrcBits s)) = _; rw [csrcOf_csrcBits]; rfl)
  · exact decodeC ⟨h.lone, h.guard, la, 4#4, 13#6, csrcBits s⟩ _ (by intro hw; show Option.map _ (csrcOf (csrcBits s)) = _; rw [csrcOf_csrcBits]; rfl)
  · exact decodeC ⟨h.lone, h.guard, la, 4#4, 14#6, csrcBits s⟩ _ (by intro hw; show Option.map _ (csrcOf (csrcBits s)) = _; rw [csrcOf_csrcBits]; rfl)
  · exact decodeC ⟨h.lone, h.guard, la, 4#4, 15#6, csrcBits s⟩ _ (by intro hw; show Option.map _ (csrcOf (csrcBits s)) = _; rw [csrcOf_csrcBits]; rfl)
  · exact absurd hn (by omega)
theorem vlds (h : Hdr) (la : BitVec 4) (n : Fin 8) (s : CSrc) : Statement (.vlds h la n s) := by
  rcases n with ⟨_ | _ | _ | _ | _ | _ | _ | _ | _, hn⟩
  · exact decodeC ⟨h.lone, h.guard, la, 4#4, 16#6, csrcBits s⟩ _ (by intro hw; show Option.map _ (csrcOf (csrcBits s)) = _; rw [csrcOf_csrcBits]; rfl)
  · exact decodeC ⟨h.lone, h.guard, la, 4#4, 17#6, csrcBits s⟩ _ (by intro hw; show Option.map _ (csrcOf (csrcBits s)) = _; rw [csrcOf_csrcBits]; rfl)
  · exact decodeC ⟨h.lone, h.guard, la, 4#4, 18#6, csrcBits s⟩ _ (by intro hw; show Option.map _ (csrcOf (csrcBits s)) = _; rw [csrcOf_csrcBits]; rfl)
  · exact decodeC ⟨h.lone, h.guard, la, 4#4, 19#6, csrcBits s⟩ _ (by intro hw; show Option.map _ (csrcOf (csrcBits s)) = _; rw [csrcOf_csrcBits]; rfl)
  · exact decodeC ⟨h.lone, h.guard, la, 4#4, 20#6, csrcBits s⟩ _ (by intro hw; show Option.map _ (csrcOf (csrcBits s)) = _; rw [csrcOf_csrcBits]; rfl)
  · exact decodeC ⟨h.lone, h.guard, la, 4#4, 21#6, csrcBits s⟩ _ (by intro hw; show Option.map _ (csrcOf (csrcBits s)) = _; rw [csrcOf_csrcBits]; rfl)
  · exact decodeC ⟨h.lone, h.guard, la, 4#4, 22#6, csrcBits s⟩ _ (by intro hw; show Option.map _ (csrcOf (csrcBits s)) = _; rw [csrcOf_csrcBits]; rfl)
  · exact decodeC ⟨h.lone, h.guard, la, 4#4, 23#6, csrcBits s⟩ _ (by intro hw; show Option.map _ (csrcOf (csrcBits s)) = _; rw [csrcOf_csrcBits]; rfl)
  · exact absurd hn (by omega)
theorem vsts (h : Hdr) (la : BitVec 4) (n : Fin 8) (s : CSrc) : Statement (.vsts h la n s) := by
  rcases n with ⟨_ | _ | _ | _ | _ | _ | _ | _ | _, hn⟩
  · exact decodeC ⟨h.lone, h.guard, la, 4#4, 24#6, csrcBits s⟩ _ (by intro hw; show Option.map _ (csrcOf (csrcBits s)) = _; rw [csrcOf_csrcBits]; rfl)
  · exact decodeC ⟨h.lone, h.guard, la, 4#4, 25#6, csrcBits s⟩ _ (by intro hw; show Option.map _ (csrcOf (csrcBits s)) = _; rw [csrcOf_csrcBits]; rfl)
  · exact decodeC ⟨h.lone, h.guard, la, 4#4, 26#6, csrcBits s⟩ _ (by intro hw; show Option.map _ (csrcOf (csrcBits s)) = _; rw [csrcOf_csrcBits]; rfl)
  · exact decodeC ⟨h.lone, h.guard, la, 4#4, 27#6, csrcBits s⟩ _ (by intro hw; show Option.map _ (csrcOf (csrcBits s)) = _; rw [csrcOf_csrcBits]; rfl)
  · exact decodeC ⟨h.lone, h.guard, la, 4#4, 28#6, csrcBits s⟩ _ (by intro hw; show Option.map _ (csrcOf (csrcBits s)) = _; rw [csrcOf_csrcBits]; rfl)
  · exact decodeC ⟨h.lone, h.guard, la, 4#4, 29#6, csrcBits s⟩ _ (by intro hw; show Option.map _ (csrcOf (csrcBits s)) = _; rw [csrcOf_csrcBits]; rfl)
  · exact decodeC ⟨h.lone, h.guard, la, 4#4, 30#6, csrcBits s⟩ _ (by intro hw; show Option.map _ (csrcOf (csrcBits s)) = _; rw [csrcOf_csrcBits]; rfl)
  · exact decodeC ⟨h.lone, h.guard, la, 4#4, 31#6, csrcBits s⟩ _ (by intro hw; show Option.map _ (csrcOf (csrcBits s)) = _; rw [csrcOf_csrcBits]; rfl)
  · exact absurd hn (by omega)
theorem vgth (h : Hdr) (la : BitVec 4) (n : Fin 8) (s : CSrc) : Statement (.vgth h la n s) := by
  rcases n with ⟨_ | _ | _ | _ | _ | _ | _ | _ | _, hn⟩
  · exact decodeC ⟨h.lone, h.guard, la, 4#4, 32#6, csrcBits s⟩ _ (by intro hw; show Option.map _ (csrcOf (csrcBits s)) = _; rw [csrcOf_csrcBits]; rfl)
  · exact decodeC ⟨h.lone, h.guard, la, 4#4, 33#6, csrcBits s⟩ _ (by intro hw; show Option.map _ (csrcOf (csrcBits s)) = _; rw [csrcOf_csrcBits]; rfl)
  · exact decodeC ⟨h.lone, h.guard, la, 4#4, 34#6, csrcBits s⟩ _ (by intro hw; show Option.map _ (csrcOf (csrcBits s)) = _; rw [csrcOf_csrcBits]; rfl)
  · exact decodeC ⟨h.lone, h.guard, la, 4#4, 35#6, csrcBits s⟩ _ (by intro hw; show Option.map _ (csrcOf (csrcBits s)) = _; rw [csrcOf_csrcBits]; rfl)
  · exact decodeC ⟨h.lone, h.guard, la, 4#4, 36#6, csrcBits s⟩ _ (by intro hw; show Option.map _ (csrcOf (csrcBits s)) = _; rw [csrcOf_csrcBits]; rfl)
  · exact decodeC ⟨h.lone, h.guard, la, 4#4, 37#6, csrcBits s⟩ _ (by intro hw; show Option.map _ (csrcOf (csrcBits s)) = _; rw [csrcOf_csrcBits]; rfl)
  · exact decodeC ⟨h.lone, h.guard, la, 4#4, 38#6, csrcBits s⟩ _ (by intro hw; show Option.map _ (csrcOf (csrcBits s)) = _; rw [csrcOf_csrcBits]; rfl)
  · exact decodeC ⟨h.lone, h.guard, la, 4#4, 39#6, csrcBits s⟩ _ (by intro hw; show Option.map _ (csrcOf (csrcBits s)) = _; rw [csrcOf_csrcBits]; rfl)
  · exact absurd hn (by omega)
theorem vsct (h : Hdr) (la : BitVec 4) (n : Fin 8) (s : CSrc) : Statement (.vsct h la n s) := by
  rcases n with ⟨_ | _ | _ | _ | _ | _ | _ | _ | _, hn⟩
  · exact decodeC ⟨h.lone, h.guard, la, 4#4, 40#6, csrcBits s⟩ _ (by intro hw; show Option.map _ (csrcOf (csrcBits s)) = _; rw [csrcOf_csrcBits]; rfl)
  · exact decodeC ⟨h.lone, h.guard, la, 4#4, 41#6, csrcBits s⟩ _ (by intro hw; show Option.map _ (csrcOf (csrcBits s)) = _; rw [csrcOf_csrcBits]; rfl)
  · exact decodeC ⟨h.lone, h.guard, la, 4#4, 42#6, csrcBits s⟩ _ (by intro hw; show Option.map _ (csrcOf (csrcBits s)) = _; rw [csrcOf_csrcBits]; rfl)
  · exact decodeC ⟨h.lone, h.guard, la, 4#4, 43#6, csrcBits s⟩ _ (by intro hw; show Option.map _ (csrcOf (csrcBits s)) = _; rw [csrcOf_csrcBits]; rfl)
  · exact decodeC ⟨h.lone, h.guard, la, 4#4, 44#6, csrcBits s⟩ _ (by intro hw; show Option.map _ (csrcOf (csrcBits s)) = _; rw [csrcOf_csrcBits]; rfl)
  · exact decodeC ⟨h.lone, h.guard, la, 4#4, 45#6, csrcBits s⟩ _ (by intro hw; show Option.map _ (csrcOf (csrcBits s)) = _; rw [csrcOf_csrcBits]; rfl)
  · exact decodeC ⟨h.lone, h.guard, la, 4#4, 46#6, csrcBits s⟩ _ (by intro hw; show Option.map _ (csrcOf (csrcBits s)) = _; rw [csrcOf_csrcBits]; rfl)
  · exact decodeC ⟨h.lone, h.guard, la, 4#4, 47#6, csrcBits s⟩ _ (by intro hw; show Option.map _ (csrcOf (csrcBits s)) = _; rw [csrcOf_csrcBits]; rfl)
  · exact absurd hn (by omega)
theorem vset (h : Hdr) (s : CSrc) : Statement (.vset h s) :=
  decodeC ⟨h.lone, h.guard, 0#4, 4#4, 48#6, csrcBits s⟩ _ (by intro hw; show (csrcOf (csrcBits s)).map (fun s => Instr.vset h s) = some (.vset h s); rw [csrcOf_csrcBits]; rfl)
theorem kld (h : Hdr) (la : BitVec 4) (n : Fin 4) (s : CSrc) : Statement (.kld h la n s) := by
  rcases n with ⟨_ | _ | _ | _ | _, hn⟩
  · exact decodeC ⟨h.lone, h.guard, la, 4#4, 49#6, csrcBits s⟩ _ (by intro hw; show Option.map _ (csrcOf (csrcBits s)) = _; rw [csrcOf_csrcBits]; rfl)
  · exact decodeC ⟨h.lone, h.guard, la, 4#4, 50#6, csrcBits s⟩ _ (by intro hw; show Option.map _ (csrcOf (csrcBits s)) = _; rw [csrcOf_csrcBits]; rfl)
  · exact decodeC ⟨h.lone, h.guard, la, 4#4, 51#6, csrcBits s⟩ _ (by intro hw; show Option.map _ (csrcOf (csrcBits s)) = _; rw [csrcOf_csrcBits]; rfl)
  · exact decodeC ⟨h.lone, h.guard, la, 4#4, 52#6, csrcBits s⟩ _ (by intro hw; show Option.map _ (csrcOf (csrcBits s)) = _; rw [csrcOf_csrcBits]; rfl)
  · exact absurd hn (by omega)
theorem kst (h : Hdr) (la : BitVec 4) (n : Fin 4) (s : CSrc) : Statement (.kst h la n s) := by
  rcases n with ⟨_ | _ | _ | _ | _, hn⟩
  · exact decodeC ⟨h.lone, h.guard, la, 4#4, 53#6, csrcBits s⟩ _ (by intro hw; show Option.map _ (csrcOf (csrcBits s)) = _; rw [csrcOf_csrcBits]; rfl)
  · exact decodeC ⟨h.lone, h.guard, la, 4#4, 54#6, csrcBits s⟩ _ (by intro hw; show Option.map _ (csrcOf (csrcBits s)) = _; rw [csrcOf_csrcBits]; rfl)
  · exact decodeC ⟨h.lone, h.guard, la, 4#4, 55#6, csrcBits s⟩ _ (by intro hw; show Option.map _ (csrcOf (csrcBits s)) = _; rw [csrcOf_csrcBits]; rfl)
  · exact decodeC ⟨h.lone, h.guard, la, 4#4, 56#6, csrcBits s⟩ _ (by intro hw; show Option.map _ (csrcOf (csrcBits s)) = _; rw [csrcOf_csrcBits]; rfl)
  · exact absurd hn (by omega)
theorem mxLease (h : Hdr) (la : BitVec 4) (s : CSrc) : Statement (.mxLease h la s) :=
  decodeC ⟨h.lone, h.guard, la, 5#4, 0#6, csrcBits s⟩ _ (by intro hw; show (csrcOf (csrcBits s)).map (fun s => Instr.mxLease h la s) = some (.mxLease h la s); rw [csrcOf_csrcBits]; rfl)
theorem mxFree (h : Hdr) : Statement (.mxFree h) :=
  decodeC ⟨h.lone, h.guard, 0#4, 5#4, 1#6, 2048#12⟩ _ (by intro hw; rfl)
theorem mxLdaBf16 (h : Hdr) (la : BitVec 4) (s : CSrc) : Statement (.mxLdaBf16 h la s) :=
  decodeC ⟨h.lone, h.guard, la, 5#4, 2#6, csrcBits s⟩ _ (by intro hw; show (csrcOf (csrcBits s)).map (fun s => Instr.mxLdaBf16 h la s) = some (.mxLdaBf16 h la s); rw [csrcOf_csrcBits]; rfl)
theorem mxLdaE4m3 (h : Hdr) (la : BitVec 4) (s : CSrc) : Statement (.mxLdaE4m3 h la s) :=
  decodeC ⟨h.lone, h.guard, la, 5#4, 3#6, csrcBits s⟩ _ (by intro hw; show (csrcOf (csrcBits s)).map (fun s => Instr.mxLdaE4m3 h la s) = some (.mxLdaE4m3 h la s); rw [csrcOf_csrcBits]; rfl)
theorem mxLdaE5m2 (h : Hdr) (la : BitVec 4) (s : CSrc) : Statement (.mxLdaE5m2 h la s) :=
  decodeC ⟨h.lone, h.guard, la, 5#4, 4#6, csrcBits s⟩ _ (by intro hw; show (csrcOf (csrcBits s)).map (fun s => Instr.mxLdaE5m2 h la s) = some (.mxLdaE5m2 h la s); rw [csrcOf_csrcBits]; rfl)
theorem mxLdaI8 (h : Hdr) (la : BitVec 4) (s : CSrc) : Statement (.mxLdaI8 h la s) :=
  decodeC ⟨h.lone, h.guard, la, 5#4, 5#6, csrcBits s⟩ _ (by intro hw; show (csrcOf (csrcBits s)).map (fun s => Instr.mxLdaI8 h la s) = some (.mxLdaI8 h la s); rw [csrcOf_csrcBits]; rfl)
theorem mxLdaF32 (h : Hdr) (la : BitVec 4) (s : CSrc) : Statement (.mxLdaF32 h la s) :=
  decodeC ⟨h.lone, h.guard, la, 5#4, 6#6, csrcBits s⟩ _ (by intro hw; show (csrcOf (csrcBits s)).map (fun s => Instr.mxLdaF32 h la s) = some (.mxLdaF32 h la s); rw [csrcOf_csrcBits]; rfl)
theorem mxLdbBf16 (h : Hdr) (la : BitVec 4) (s : CSrc) : Statement (.mxLdbBf16 h la s) :=
  decodeC ⟨h.lone, h.guard, la, 5#4, 7#6, csrcBits s⟩ _ (by intro hw; show (csrcOf (csrcBits s)).map (fun s => Instr.mxLdbBf16 h la s) = some (.mxLdbBf16 h la s); rw [csrcOf_csrcBits]; rfl)
theorem mxLdbE4m3 (h : Hdr) (la : BitVec 4) (s : CSrc) : Statement (.mxLdbE4m3 h la s) :=
  decodeC ⟨h.lone, h.guard, la, 5#4, 8#6, csrcBits s⟩ _ (by intro hw; show (csrcOf (csrcBits s)).map (fun s => Instr.mxLdbE4m3 h la s) = some (.mxLdbE4m3 h la s); rw [csrcOf_csrcBits]; rfl)
theorem mxLdbE5m2 (h : Hdr) (la : BitVec 4) (s : CSrc) : Statement (.mxLdbE5m2 h la s) :=
  decodeC ⟨h.lone, h.guard, la, 5#4, 9#6, csrcBits s⟩ _ (by intro hw; show (csrcOf (csrcBits s)).map (fun s => Instr.mxLdbE5m2 h la s) = some (.mxLdbE5m2 h la s); rw [csrcOf_csrcBits]; rfl)
theorem mxLdbI8 (h : Hdr) (la : BitVec 4) (s : CSrc) : Statement (.mxLdbI8 h la s) :=
  decodeC ⟨h.lone, h.guard, la, 5#4, 10#6, csrcBits s⟩ _ (by intro hw; show (csrcOf (csrcBits s)).map (fun s => Instr.mxLdbI8 h la s) = some (.mxLdbI8 h la s); rw [csrcOf_csrcBits]; rfl)
theorem mxLdbF32 (h : Hdr) (la : BitVec 4) (s : CSrc) : Statement (.mxLdbF32 h la s) :=
  decodeC ⟨h.lone, h.guard, la, 5#4, 11#6, csrcBits s⟩ _ (by intro hw; show (csrcOf (csrcBits s)).map (fun s => Instr.mxLdbF32 h la s) = some (.mxLdbF32 h la s); rw [csrcOf_csrcBits]; rfl)
theorem mxLdbQn4 (h : Hdr) (la : BitVec 4) (s : CSrc) : Statement (.mxLdbQn4 h la s) :=
  decodeC ⟨h.lone, h.guard, la, 5#4, 12#6, csrcBits s⟩ _ (by intro hw; show (csrcOf (csrcBits s)).map (fun s => Instr.mxLdbQn4 h la s) = some (.mxLdbQn4 h la s); rw [csrcOf_csrcBits]; rfl)
theorem mxMmaM64n64k32Bf16 (h : Hdr) (la : BitVec 4) (s : CSrc) : Statement (.mxMmaM64n64k32Bf16 h la s) :=
  decodeC ⟨h.lone, h.guard, la, 5#4, 13#6, csrcBits s⟩ _ (by intro hw; show (csrcOf (csrcBits s)).map (fun s => Instr.mxMmaM64n64k32Bf16 h la s) = some (.mxMmaM64n64k32Bf16 h la s); rw [csrcOf_csrcBits]; rfl)
theorem mxMmaM32n64k32Bf16 (h : Hdr) (la : BitVec 4) (s : CSrc) : Statement (.mxMmaM32n64k32Bf16 h la s) :=
  decodeC ⟨h.lone, h.guard, la, 5#4, 14#6, csrcBits s⟩ _ (by intro hw; show (csrcOf (csrcBits s)).map (fun s => Instr.mxMmaM32n64k32Bf16 h la s) = some (.mxMmaM32n64k32Bf16 h la s); rw [csrcOf_csrcBits]; rfl)
theorem mxMmaM16n64k32Bf16 (h : Hdr) (la : BitVec 4) (s : CSrc) : Statement (.mxMmaM16n64k32Bf16 h la s) :=
  decodeC ⟨h.lone, h.guard, la, 5#4, 15#6, csrcBits s⟩ _ (by intro hw; show (csrcOf (csrcBits s)).map (fun s => Instr.mxMmaM16n64k32Bf16 h la s) = some (.mxMmaM16n64k32Bf16 h la s); rw [csrcOf_csrcBits]; rfl)
theorem mxMmaM64n64k64E4m3 (h : Hdr) (la : BitVec 4) (s : CSrc) : Statement (.mxMmaM64n64k64E4m3 h la s) :=
  decodeC ⟨h.lone, h.guard, la, 5#4, 16#6, csrcBits s⟩ _ (by intro hw; show (csrcOf (csrcBits s)).map (fun s => Instr.mxMmaM64n64k64E4m3 h la s) = some (.mxMmaM64n64k64E4m3 h la s); rw [csrcOf_csrcBits]; rfl)
theorem mxMmaM64n64k64E5m2 (h : Hdr) (la : BitVec 4) (s : CSrc) : Statement (.mxMmaM64n64k64E5m2 h la s) :=
  decodeC ⟨h.lone, h.guard, la, 5#4, 17#6, csrcBits s⟩ _ (by intro hw; show (csrcOf (csrcBits s)).map (fun s => Instr.mxMmaM64n64k64E5m2 h la s) = some (.mxMmaM64n64k64E5m2 h la s); rw [csrcOf_csrcBits]; rfl)
theorem mxMmaM64n64k64Mix8 (h : Hdr) (la : BitVec 4) (s : CSrc) : Statement (.mxMmaM64n64k64Mix8 h la s) :=
  decodeC ⟨h.lone, h.guard, la, 5#4, 18#6, csrcBits s⟩ _ (by intro hw; show (csrcOf (csrcBits s)).map (fun s => Instr.mxMmaM64n64k64Mix8 h la s) = some (.mxMmaM64n64k64Mix8 h la s); rw [csrcOf_csrcBits]; rfl)
theorem mxMmaM64n64k64I8 (h : Hdr) (la : BitVec 4) (s : CSrc) : Statement (.mxMmaM64n64k64I8 h la s) :=
  decodeC ⟨h.lone, h.guard, la, 5#4, 19#6, csrcBits s⟩ _ (by intro hw; show (csrcOf (csrcBits s)).map (fun s => Instr.mxMmaM64n64k64I8 h la s) = some (.mxMmaM64n64k64I8 h la s); rw [csrcOf_csrcBits]; rfl)
theorem mxMmaM64n64k64Qn4 (h : Hdr) (la : BitVec 4) (s : CSrc) : Statement (.mxMmaM64n64k64Qn4 h la s) :=
  decodeC ⟨h.lone, h.guard, la, 5#4, 20#6, csrcBits s⟩ _ (by intro hw; show (csrcOf (csrcBits s)).map (fun s => Instr.mxMmaM64n64k64Qn4 h la s) = some (.mxMmaM64n64k64Qn4 h la s); rw [csrcOf_csrcBits]; rfl)
theorem mxMmaM16n64k64Qn4 (h : Hdr) (la : BitVec 4) (s : CSrc) : Statement (.mxMmaM16n64k64Qn4 h la s) :=
  decodeC ⟨h.lone, h.guard, la, 5#4, 21#6, csrcBits s⟩ _ (by intro hw; show (csrcOf (csrcBits s)).map (fun s => Instr.mxMmaM16n64k64Qn4 h la s) = some (.mxMmaM16n64k64Qn4 h la s); rw [csrcOf_csrcBits]; rfl)
theorem mxMmaM64n64k8F32 (h : Hdr) (la : BitVec 4) (s : CSrc) : Statement (.mxMmaM64n64k8F32 h la s) :=
  decodeC ⟨h.lone, h.guard, la, 5#4, 22#6, csrcBits s⟩ _ (by intro hw; show (csrcOf (csrcBits s)).map (fun s => Instr.mxMmaM64n64k8F32 h la s) = some (.mxMmaM64n64k8F32 h la s); rw [csrcOf_csrcBits]; rfl)
theorem mxChainBf16 (h : Hdr) (la : BitVec 4) (s : CSrc) : Statement (.mxChainBf16 h la s) :=
  decodeC ⟨h.lone, h.guard, la, 5#4, 23#6, csrcBits s⟩ _ (by intro hw; show (csrcOf (csrcBits s)).map (fun s => Instr.mxChainBf16 h la s) = some (.mxChainBf16 h la s); rw [csrcOf_csrcBits]; rfl)
theorem mxChainE4m3 (h : Hdr) (la : BitVec 4) (s : CSrc) : Statement (.mxChainE4m3 h la s) :=
  decodeC ⟨h.lone, h.guard, la, 5#4, 24#6, csrcBits s⟩ _ (by intro hw; show (csrcOf (csrcBits s)).map (fun s => Instr.mxChainE4m3 h la s) = some (.mxChainE4m3 h la s); rw [csrcOf_csrcBits]; rfl)
theorem mxDrain (h : Hdr) (la : BitVec 4) (s : CSrc) : Statement (.mxDrain h la s) :=
  decodeC ⟨h.lone, h.guard, la, 5#4, 25#6, csrcBits s⟩ _ (by intro hw; show (csrcOf (csrcBits s)).map (fun s => Instr.mxDrain h la s) = some (.mxDrain h la s); rw [csrcOf_csrcBits]; rfl)
theorem mxDrainv (h : Hdr) (la : BitVec 4) (s : CSrc) : Statement (.mxDrainv h la s) :=
  decodeC ⟨h.lone, h.guard, la, 5#4, 26#6, csrcBits s⟩ _ (by intro hw; show (csrcOf (csrcBits s)).map (fun s => Instr.mxDrainv h la s) = some (.mxDrainv h la s); rw [csrcOf_csrcBits]; rfl)
theorem mxZero (h : Hdr) (la : BitVec 4) (s : CSrc) : Statement (.mxZero h la s) :=
  decodeC ⟨h.lone, h.guard, la, 5#4, 27#6, csrcBits s⟩ _ (by intro hw; show (csrcOf (csrcBits s)).map (fun s => Instr.mxZero h la s) = some (.mxZero h la s); rw [csrcOf_csrcBits]; rfl)
theorem mxChk (h : Hdr) (la : BitVec 4) (s : CSrc) : Statement (.mxChk h la s) :=
  decodeC ⟨h.lone, h.guard, la, 5#4, 28#6, csrcBits s⟩ _ (by intro hw; show (csrcOf (csrcBits s)).map (fun s => Instr.mxChk h la s) = some (.mxChk h la s); rw [csrcOf_csrcBits]; rfl)
theorem mxInject (h : Hdr) (la : BitVec 4) (s : CSrc) : Statement (.mxInject h la s) :=
  decodeC ⟨h.lone, h.guard, la, 5#4, 29#6, csrcBits s⟩ _ (by intro hw; show (csrcOf (csrcBits s)).map (fun s => Instr.mxInject h la s) = some (.mxInject h la s); rw [csrcOf_csrcBits]; rfl)
theorem movMxA (h : Hdr) (s : CSrc) : Statement (.movMxA h s) :=
  decodeC ⟨h.lone, h.guard, 0#4, 5#4, 30#6, csrcBits s⟩ _ (by intro hw; show (csrcOf (csrcBits s)).map (fun s => Instr.movMxA h s) = some (.movMxA h s); rw [csrcOf_csrcBits]; rfl)
theorem movMxB (h : Hdr) (s : CSrc) : Statement (.movMxB h s) :=
  decodeC ⟨h.lone, h.guard, 0#4, 5#4, 31#6, csrcBits s⟩ _ (by intro hw; show (csrcOf (csrcBits s)).map (fun s => Instr.movMxB h s) = some (.movMxB h s); rw [csrcOf_csrcBits]; rfl)
theorem lsLd8s (h : Hdr) (la : BitVec 4) (lane : Fin 4) (s : CSrc) : Statement (.lsLd8s h la lane s) := by
  rcases lane with ⟨_ | _ | _ | _ | _, hn⟩
  · exact decodeC ⟨h.lone, h.guard, la, 6#4, 0#6, csrcBits s⟩ _ (by intro hw; show Option.map _ (csrcOf (csrcBits s)) = _; rw [csrcOf_csrcBits]; rfl)
  · exact decodeC ⟨h.lone, h.guard, la, 6#4, 1#6, csrcBits s⟩ _ (by intro hw; show Option.map _ (csrcOf (csrcBits s)) = _; rw [csrcOf_csrcBits]; rfl)
  · exact decodeC ⟨h.lone, h.guard, la, 6#4, 2#6, csrcBits s⟩ _ (by intro hw; show Option.map _ (csrcOf (csrcBits s)) = _; rw [csrcOf_csrcBits]; rfl)
  · exact decodeC ⟨h.lone, h.guard, la, 6#4, 3#6, csrcBits s⟩ _ (by intro hw; show Option.map _ (csrcOf (csrcBits s)) = _; rw [csrcOf_csrcBits]; rfl)
  · exact absurd hn (by omega)
theorem lsLd8u (h : Hdr) (la : BitVec 4) (lane : Fin 4) (s : CSrc) : Statement (.lsLd8u h la lane s) := by
  rcases lane with ⟨_ | _ | _ | _ | _, hn⟩
  · exact decodeC ⟨h.lone, h.guard, la, 6#4, 4#6, csrcBits s⟩ _ (by intro hw; show Option.map _ (csrcOf (csrcBits s)) = _; rw [csrcOf_csrcBits]; rfl)
  · exact decodeC ⟨h.lone, h.guard, la, 6#4, 5#6, csrcBits s⟩ _ (by intro hw; show Option.map _ (csrcOf (csrcBits s)) = _; rw [csrcOf_csrcBits]; rfl)
  · exact decodeC ⟨h.lone, h.guard, la, 6#4, 6#6, csrcBits s⟩ _ (by intro hw; show Option.map _ (csrcOf (csrcBits s)) = _; rw [csrcOf_csrcBits]; rfl)
  · exact decodeC ⟨h.lone, h.guard, la, 6#4, 7#6, csrcBits s⟩ _ (by intro hw; show Option.map _ (csrcOf (csrcBits s)) = _; rw [csrcOf_csrcBits]; rfl)
  · exact absurd hn (by omega)
theorem lsLd16s (h : Hdr) (la : BitVec 4) (lane : Fin 4) (s : CSrc) : Statement (.lsLd16s h la lane s) := by
  rcases lane with ⟨_ | _ | _ | _ | _, hn⟩
  · exact decodeC ⟨h.lone, h.guard, la, 6#4, 8#6, csrcBits s⟩ _ (by intro hw; show Option.map _ (csrcOf (csrcBits s)) = _; rw [csrcOf_csrcBits]; rfl)
  · exact decodeC ⟨h.lone, h.guard, la, 6#4, 9#6, csrcBits s⟩ _ (by intro hw; show Option.map _ (csrcOf (csrcBits s)) = _; rw [csrcOf_csrcBits]; rfl)
  · exact decodeC ⟨h.lone, h.guard, la, 6#4, 10#6, csrcBits s⟩ _ (by intro hw; show Option.map _ (csrcOf (csrcBits s)) = _; rw [csrcOf_csrcBits]; rfl)
  · exact decodeC ⟨h.lone, h.guard, la, 6#4, 11#6, csrcBits s⟩ _ (by intro hw; show Option.map _ (csrcOf (csrcBits s)) = _; rw [csrcOf_csrcBits]; rfl)
  · exact absurd hn (by omega)
theorem lsLd16u (h : Hdr) (la : BitVec 4) (lane : Fin 4) (s : CSrc) : Statement (.lsLd16u h la lane s) := by
  rcases lane with ⟨_ | _ | _ | _ | _, hn⟩
  · exact decodeC ⟨h.lone, h.guard, la, 6#4, 12#6, csrcBits s⟩ _ (by intro hw; show Option.map _ (csrcOf (csrcBits s)) = _; rw [csrcOf_csrcBits]; rfl)
  · exact decodeC ⟨h.lone, h.guard, la, 6#4, 13#6, csrcBits s⟩ _ (by intro hw; show Option.map _ (csrcOf (csrcBits s)) = _; rw [csrcOf_csrcBits]; rfl)
  · exact decodeC ⟨h.lone, h.guard, la, 6#4, 14#6, csrcBits s⟩ _ (by intro hw; show Option.map _ (csrcOf (csrcBits s)) = _; rw [csrcOf_csrcBits]; rfl)
  · exact decodeC ⟨h.lone, h.guard, la, 6#4, 15#6, csrcBits s⟩ _ (by intro hw; show Option.map _ (csrcOf (csrcBits s)) = _; rw [csrcOf_csrcBits]; rfl)
  · exact absurd hn (by omega)
theorem lsLd32s (h : Hdr) (la : BitVec 4) (lane : Fin 4) (s : CSrc) : Statement (.lsLd32s h la lane s) := by
  rcases lane with ⟨_ | _ | _ | _ | _, hn⟩
  · exact decodeC ⟨h.lone, h.guard, la, 6#4, 16#6, csrcBits s⟩ _ (by intro hw; show Option.map _ (csrcOf (csrcBits s)) = _; rw [csrcOf_csrcBits]; rfl)
  · exact decodeC ⟨h.lone, h.guard, la, 6#4, 17#6, csrcBits s⟩ _ (by intro hw; show Option.map _ (csrcOf (csrcBits s)) = _; rw [csrcOf_csrcBits]; rfl)
  · exact decodeC ⟨h.lone, h.guard, la, 6#4, 18#6, csrcBits s⟩ _ (by intro hw; show Option.map _ (csrcOf (csrcBits s)) = _; rw [csrcOf_csrcBits]; rfl)
  · exact decodeC ⟨h.lone, h.guard, la, 6#4, 19#6, csrcBits s⟩ _ (by intro hw; show Option.map _ (csrcOf (csrcBits s)) = _; rw [csrcOf_csrcBits]; rfl)
  · exact absurd hn (by omega)
theorem lsLd32u (h : Hdr) (la : BitVec 4) (lane : Fin 4) (s : CSrc) : Statement (.lsLd32u h la lane s) := by
  rcases lane with ⟨_ | _ | _ | _ | _, hn⟩
  · exact decodeC ⟨h.lone, h.guard, la, 6#4, 20#6, csrcBits s⟩ _ (by intro hw; show Option.map _ (csrcOf (csrcBits s)) = _; rw [csrcOf_csrcBits]; rfl)
  · exact decodeC ⟨h.lone, h.guard, la, 6#4, 21#6, csrcBits s⟩ _ (by intro hw; show Option.map _ (csrcOf (csrcBits s)) = _; rw [csrcOf_csrcBits]; rfl)
  · exact decodeC ⟨h.lone, h.guard, la, 6#4, 22#6, csrcBits s⟩ _ (by intro hw; show Option.map _ (csrcOf (csrcBits s)) = _; rw [csrcOf_csrcBits]; rfl)
  · exact decodeC ⟨h.lone, h.guard, la, 6#4, 23#6, csrcBits s⟩ _ (by intro hw; show Option.map _ (csrcOf (csrcBits s)) = _; rw [csrcOf_csrcBits]; rfl)
  · exact absurd hn (by omega)
theorem lsLd64 (h : Hdr) (la : BitVec 4) (lane : Fin 4) (s : CSrc) : Statement (.lsLd64 h la lane s) := by
  rcases lane with ⟨_ | _ | _ | _ | _, hn⟩
  · exact decodeC ⟨h.lone, h.guard, la, 6#4, 24#6, csrcBits s⟩ _ (by intro hw; show Option.map _ (csrcOf (csrcBits s)) = _; rw [csrcOf_csrcBits]; rfl)
  · exact decodeC ⟨h.lone, h.guard, la, 6#4, 25#6, csrcBits s⟩ _ (by intro hw; show Option.map _ (csrcOf (csrcBits s)) = _; rw [csrcOf_csrcBits]; rfl)
  · exact decodeC ⟨h.lone, h.guard, la, 6#4, 26#6, csrcBits s⟩ _ (by intro hw; show Option.map _ (csrcOf (csrcBits s)) = _; rw [csrcOf_csrcBits]; rfl)
  · exact decodeC ⟨h.lone, h.guard, la, 6#4, 27#6, csrcBits s⟩ _ (by intro hw; show Option.map _ (csrcOf (csrcBits s)) = _; rw [csrcOf_csrcBits]; rfl)
  · exact absurd hn (by omega)
theorem lsLdp (h : Hdr) (la : BitVec 4) (lane : Fin 4) (s : CSrc) : Statement (.lsLdp h la lane s) := by
  rcases lane with ⟨_ | _ | _ | _ | _, hn⟩
  · exact decodeC ⟨h.lone, h.guard, la, 6#4, 28#6, csrcBits s⟩ _ (by intro hw; show Option.map _ (csrcOf (csrcBits s)) = _; rw [csrcOf_csrcBits]; rfl)
  · exact decodeC ⟨h.lone, h.guard, la, 6#4, 29#6, csrcBits s⟩ _ (by intro hw; show Option.map _ (csrcOf (csrcBits s)) = _; rw [csrcOf_csrcBits]; rfl)
  · exact decodeC ⟨h.lone, h.guard, la, 6#4, 30#6, csrcBits s⟩ _ (by intro hw; show Option.map _ (csrcOf (csrcBits s)) = _; rw [csrcOf_csrcBits]; rfl)
  · exact decodeC ⟨h.lone, h.guard, la, 6#4, 31#6, csrcBits s⟩ _ (by intro hw; show Option.map _ (csrcOf (csrcBits s)) = _; rw [csrcOf_csrcBits]; rfl)
  · exact absurd hn (by omega)
theorem lsSt8 (h : Hdr) (la : BitVec 4) (s : CSrc) : Statement (.lsSt8 h la s) :=
  decodeC ⟨h.lone, h.guard, la, 6#4, 32#6, csrcBits s⟩ _ (by intro hw; show (csrcOf (csrcBits s)).map (fun s => Instr.lsSt8 h la s) = some (.lsSt8 h la s); rw [csrcOf_csrcBits]; rfl)
theorem lsSt16 (h : Hdr) (la : BitVec 4) (s : CSrc) : Statement (.lsSt16 h la s) :=
  decodeC ⟨h.lone, h.guard, la, 6#4, 33#6, csrcBits s⟩ _ (by intro hw; show (csrcOf (csrcBits s)).map (fun s => Instr.lsSt16 h la s) = some (.lsSt16 h la s); rw [csrcOf_csrcBits]; rfl)
theorem lsSt32 (h : Hdr) (la : BitVec 4) (s : CSrc) : Statement (.lsSt32 h la s) :=
  decodeC ⟨h.lone, h.guard, la, 6#4, 34#6, csrcBits s⟩ _ (by intro hw; show (csrcOf (csrcBits s)).map (fun s => Instr.lsSt32 h la s) = some (.lsSt32 h la s); rw [csrcOf_csrcBits]; rfl)
theorem lsSt64 (h : Hdr) (la : BitVec 4) (s : CSrc) : Statement (.lsSt64 h la s) :=
  decodeC ⟨h.lone, h.guard, la, 6#4, 35#6, csrcBits s⟩ _ (by intro hw; show (csrcOf (csrcBits s)).map (fun s => Instr.lsSt64 h la s) = some (.lsSt64 h la s); rw [csrcOf_csrcBits]; rfl)
theorem lsStp (h : Hdr) (la : BitVec 4) (s : CSrc) : Statement (.lsStp h la s) :=
  decodeC ⟨h.lone, h.guard, la, 6#4, 36#6, csrcBits s⟩ _ (by intro hw; show (csrcOf (csrcBits s)).map (fun s => Instr.lsStp h la s) = some (.lsStp h la s); rw [csrcOf_csrcBits]; rfl)
theorem lsPf (h : Hdr) (s : CSrc) : Statement (.lsPf h s) :=
  decodeC ⟨h.lone, h.guard, 0#4, 6#4, 37#6, csrcBits s⟩ _ (by intro hw; show (csrcOf (csrcBits s)).map (fun s => Instr.lsPf h s) = some (.lsPf h s); rw [csrcOf_csrcBits]; rfl)
theorem movLsD (h : Hdr) (s : CSrc) : Statement (.movLsD h s) :=
  decodeC ⟨h.lone, h.guard, 0#4, 6#4, 40#6, csrcBits s⟩ _ (by intro hw; show (csrcOf (csrcBits s)).map (fun s => Instr.movLsD h s) = some (.movLsD h s); rw [csrcOf_csrcBits]; rfl)
theorem atAdd32 (h : Hdr) (la : BitVec 4) (s : CSrc) : Statement (.atAdd32 h la s) :=
  decodeC ⟨h.lone, h.guard, la, 7#4, 0#6, csrcBits s⟩ _ (by intro hw; show (csrcOf (csrcBits s)).map (fun s => Instr.atAdd32 h la s) = some (.atAdd32 h la s); rw [csrcOf_csrcBits]; rfl)
theorem atAdd64 (h : Hdr) (la : BitVec 4) (s : CSrc) : Statement (.atAdd64 h la s) :=
  decodeC ⟨h.lone, h.guard, la, 7#4, 1#6, csrcBits s⟩ _ (by intro hw; show (csrcOf (csrcBits s)).map (fun s => Instr.atAdd64 h la s) = some (.atAdd64 h la s); rw [csrcOf_csrcBits]; rfl)
theorem atFadd32 (h : Hdr) (la : BitVec 4) (s : CSrc) : Statement (.atFadd32 h la s) :=
  decodeC ⟨h.lone, h.guard, la, 7#4, 2#6, csrcBits s⟩ _ (by intro hw; show (csrcOf (csrcBits s)).map (fun s => Instr.atFadd32 h la s) = some (.atFadd32 h la s); rw [csrcOf_csrcBits]; rfl)
theorem atFadd16b (h : Hdr) (la : BitVec 4) (s : CSrc) : Statement (.atFadd16b h la s) :=
  decodeC ⟨h.lone, h.guard, la, 7#4, 3#6, csrcBits s⟩ _ (by intro hw; show (csrcOf (csrcBits s)).map (fun s => Instr.atFadd16b h la s) = some (.atFadd16b h la s); rw [csrcOf_csrcBits]; rfl)
theorem atMin32 (h : Hdr) (la : BitVec 4) (s : CSrc) : Statement (.atMin32 h la s) :=
  decodeC ⟨h.lone, h.guard, la, 7#4, 4#6, csrcBits s⟩ _ (by intro hw; show (csrcOf (csrcBits s)).map (fun s => Instr.atMin32 h la s) = some (.atMin32 h la s); rw [csrcOf_csrcBits]; rfl)
theorem atMax32 (h : Hdr) (la : BitVec 4) (s : CSrc) : Statement (.atMax32 h la s) :=
  decodeC ⟨h.lone, h.guard, la, 7#4, 5#6, csrcBits s⟩ _ (by intro hw; show (csrcOf (csrcBits s)).map (fun s => Instr.atMax32 h la s) = some (.atMax32 h la s); rw [csrcOf_csrcBits]; rfl)
theorem atMinu32 (h : Hdr) (la : BitVec 4) (s : CSrc) : Statement (.atMinu32 h la s) :=
  decodeC ⟨h.lone, h.guard, la, 7#4, 6#6, csrcBits s⟩ _ (by intro hw; show (csrcOf (csrcBits s)).map (fun s => Instr.atMinu32 h la s) = some (.atMinu32 h la s); rw [csrcOf_csrcBits]; rfl)
theorem atMaxu32 (h : Hdr) (la : BitVec 4) (s : CSrc) : Statement (.atMaxu32 h la s) :=
  decodeC ⟨h.lone, h.guard, la, 7#4, 7#6, csrcBits s⟩ _ (by intro hw; show (csrcOf (csrcBits s)).map (fun s => Instr.atMaxu32 h la s) = some (.atMaxu32 h la s); rw [csrcOf_csrcBits]; rfl)
theorem atAnd64 (h : Hdr) (la : BitVec 4) (s : CSrc) : Statement (.atAnd64 h la s) :=
  decodeC ⟨h.lone, h.guard, la, 7#4, 8#6, csrcBits s⟩ _ (by intro hw; show (csrcOf (csrcBits s)).map (fun s => Instr.atAnd64 h la s) = some (.atAnd64 h la s); rw [csrcOf_csrcBits]; rfl)
theorem atOr64 (h : Hdr) (la : BitVec 4) (s : CSrc) : Statement (.atOr64 h la s) :=
  decodeC ⟨h.lone, h.guard, la, 7#4, 9#6, csrcBits s⟩ _ (by intro hw; show (csrcOf (csrcBits s)).map (fun s => Instr.atOr64 h la s) = some (.atOr64 h la s); rw [csrcOf_csrcBits]; rfl)
theorem atXor64 (h : Hdr) (la : BitVec 4) (s : CSrc) : Statement (.atXor64 h la s) :=
  decodeC ⟨h.lone, h.guard, la, 7#4, 10#6, csrcBits s⟩ _ (by intro hw; show (csrcOf (csrcBits s)).map (fun s => Instr.atXor64 h la s) = some (.atXor64 h la s); rw [csrcOf_csrcBits]; rfl)
theorem atSwp64 (h : Hdr) (la : BitVec 4) (s : CSrc) : Statement (.atSwp64 h la s) :=
  decodeC ⟨h.lone, h.guard, la, 7#4, 11#6, csrcBits s⟩ _ (by intro hw; show (csrcOf (csrcBits s)).map (fun s => Instr.atSwp64 h la s) = some (.atSwp64 h la s); rw [csrcOf_csrcBits]; rfl)
theorem atCas64 (h : Hdr) (la : BitVec 4) (s : CSrc) : Statement (.atCas64 h la s) :=
  decodeC ⟨h.lone, h.guard, la, 7#4, 12#6, csrcBits s⟩ _ (by intro hw; show (csrcOf (csrcBits s)).map (fun s => Instr.atCas64 h la s) = some (.atCas64 h la s); rw [csrcOf_csrcBits]; rfl)
theorem atFinc (h : Hdr) (la : BitVec 4) (s : CSrc) : Statement (.atFinc h la s) :=
  decodeC ⟨h.lone, h.guard, la, 7#4, 13#6, csrcBits s⟩ _ (by intro hw; show (csrcOf (csrcBits s)).map (fun s => Instr.atFinc h la s) = some (.atFinc h la s); rw [csrcOf_csrcBits]; rfl)
theorem atRedAdd32 (h : Hdr) (la : BitVec 4) (s : CSrc) : Statement (.atRedAdd32 h la s) :=
  decodeC ⟨h.lone, h.guard, la, 7#4, 14#6, csrcBits s⟩ _ (by intro hw; show (csrcOf (csrcBits s)).map (fun s => Instr.atRedAdd32 h la s) = some (.atRedAdd32 h la s); rw [csrcOf_csrcBits]; rfl)
theorem atRedAdd64 (h : Hdr) (la : BitVec 4) (s : CSrc) : Statement (.atRedAdd64 h la s) :=
  decodeC ⟨h.lone, h.guard, la, 7#4, 15#6, csrcBits s⟩ _ (by intro hw; show (csrcOf (csrcBits s)).map (fun s => Instr.atRedAdd64 h la s) = some (.atRedAdd64 h la s); rw [csrcOf_csrcBits]; rfl)
theorem atRedFadd32 (h : Hdr) (la : BitVec 4) (s : CSrc) : Statement (.atRedFadd32 h la s) :=
  decodeC ⟨h.lone, h.guard, la, 7#4, 16#6, csrcBits s⟩ _ (by intro hw; show (csrcOf (csrcBits s)).map (fun s => Instr.atRedFadd32 h la s) = some (.atRedFadd32 h la s); rw [csrcOf_csrcBits]; rfl)
theorem atRedFadd16b (h : Hdr) (la : BitVec 4) (s : CSrc) : Statement (.atRedFadd16b h la s) :=
  decodeC ⟨h.lone, h.guard, la, 7#4, 17#6, csrcBits s⟩ _ (by intro hw; show (csrcOf (csrcBits s)).map (fun s => Instr.atRedFadd16b h la s) = some (.atRedFadd16b h la s); rw [csrcOf_csrcBits]; rfl)
theorem atAset (h : Hdr) (n : Fin 8) (s : CSrc) : Statement (.atAset h n s) := by
  rcases n with ⟨_ | _ | _ | _ | _ | _ | _ | _ | _, hn⟩
  · exact decodeC ⟨h.lone, h.guard, 0#4, 7#4, 18#6, csrcBits s⟩ _ (by intro hw; show Option.map _ (csrcOf (csrcBits s)) = _; rw [csrcOf_csrcBits]; rfl)
  · exact decodeC ⟨h.lone, h.guard, 0#4, 7#4, 19#6, csrcBits s⟩ _ (by intro hw; show Option.map _ (csrcOf (csrcBits s)) = _; rw [csrcOf_csrcBits]; rfl)
  · exact decodeC ⟨h.lone, h.guard, 0#4, 7#4, 20#6, csrcBits s⟩ _ (by intro hw; show Option.map _ (csrcOf (csrcBits s)) = _; rw [csrcOf_csrcBits]; rfl)
  · exact decodeC ⟨h.lone, h.guard, 0#4, 7#4, 21#6, csrcBits s⟩ _ (by intro hw; show Option.map _ (csrcOf (csrcBits s)) = _; rw [csrcOf_csrcBits]; rfl)
  · exact decodeC ⟨h.lone, h.guard, 0#4, 7#4, 22#6, csrcBits s⟩ _ (by intro hw; show Option.map _ (csrcOf (csrcBits s)) = _; rw [csrcOf_csrcBits]; rfl)
  · exact decodeC ⟨h.lone, h.guard, 0#4, 7#4, 23#6, csrcBits s⟩ _ (by intro hw; show Option.map _ (csrcOf (csrcBits s)) = _; rw [csrcOf_csrcBits]; rfl)
  · exact decodeC ⟨h.lone, h.guard, 0#4, 7#4, 24#6, csrcBits s⟩ _ (by intro hw; show Option.map _ (csrcOf (csrcBits s)) = _; rw [csrcOf_csrcBits]; rfl)
  · exact decodeC ⟨h.lone, h.guard, 0#4, 7#4, 25#6, csrcBits s⟩ _ (by intro hw; show Option.map _ (csrcOf (csrcBits s)) = _; rw [csrcOf_csrcBits]; rfl)
  · exact absurd hn (by omega)
theorem atTok (h : Hdr) (la : BitVec 4) : Statement (.atTok h la) :=
  decodeC ⟨h.lone, h.guard, la, 7#4, 26#6, 2048#12⟩ _ (by intro hw; rfl)
theorem movAtO (h : Hdr) (s : CSrc) : Statement (.movAtO h s) :=
  decodeC ⟨h.lone, h.guard, 0#4, 7#4, 27#6, csrcBits s⟩ _ (by intro hw; show (csrcOf (csrcBits s)).map (fun s => Instr.movAtO h s) = some (.movAtO h s); rw [csrcOf_csrcBits]; rfl)
theorem ceCopy (h : Hdr) (q : Fin 4) : Statement (.ceCopy h q) := by
  rcases q with ⟨_ | _ | _ | _ | _, hn⟩
  · exact decodeC ⟨h.lone, h.guard, 0#4, 8#4, 0#6, 2048#12⟩ _ (by intro hw; rfl)
  · exact decodeC ⟨h.lone, h.guard, 0#4, 8#4, 1#6, 2048#12⟩ _ (by intro hw; rfl)
  · exact decodeC ⟨h.lone, h.guard, 0#4, 8#4, 2#6, 2048#12⟩ _ (by intro hw; rfl)
  · exact decodeC ⟨h.lone, h.guard, 0#4, 8#4, 3#6, 2048#12⟩ _ (by intro hw; rfl)
  · exact absurd hn (by omega)
theorem ceCopy2d (h : Hdr) (q : Fin 4) : Statement (.ceCopy2d h q) := by
  rcases q with ⟨_ | _ | _ | _ | _, hn⟩
  · exact decodeC ⟨h.lone, h.guard, 0#4, 8#4, 4#6, 2048#12⟩ _ (by intro hw; rfl)
  · exact decodeC ⟨h.lone, h.guard, 0#4, 8#4, 5#6, 2048#12⟩ _ (by intro hw; rfl)
  · exact decodeC ⟨h.lone, h.guard, 0#4, 8#4, 6#6, 2048#12⟩ _ (by intro hw; rfl)
  · exact decodeC ⟨h.lone, h.guard, 0#4, 8#4, 7#6, 2048#12⟩ _ (by intro hw; rfl)
  · exact absurd hn (by omega)
theorem ceMcast (h : Hdr) (q : Fin 4) : Statement (.ceMcast h q) := by
  rcases q with ⟨_ | _ | _ | _ | _, hn⟩
  · exact decodeC ⟨h.lone, h.guard, 0#4, 8#4, 8#6, 2048#12⟩ _ (by intro hw; rfl)
  · exact decodeC ⟨h.lone, h.guard, 0#4, 8#4, 9#6, 2048#12⟩ _ (by intro hw; rfl)
  · exact decodeC ⟨h.lone, h.guard, 0#4, 8#4, 10#6, 2048#12⟩ _ (by intro hw; rfl)
  · exact decodeC ⟨h.lone, h.guard, 0#4, 8#4, 11#6, 2048#12⟩ _ (by intro hw; rfl)
  · exact absurd hn (by omega)
theorem ceRedb (h : Hdr) (q : Fin 4) : Statement (.ceRedb h q) := by
  rcases q with ⟨_ | _ | _ | _ | _, hn⟩
  · exact decodeC ⟨h.lone, h.guard, 0#4, 8#4, 12#6, 2048#12⟩ _ (by intro hw; rfl)
  · exact decodeC ⟨h.lone, h.guard, 0#4, 8#4, 13#6, 2048#12⟩ _ (by intro hw; rfl)
  · exact decodeC ⟨h.lone, h.guard, 0#4, 8#4, 14#6, 2048#12⟩ _ (by intro hw; rfl)
  · exact decodeC ⟨h.lone, h.guard, 0#4, 8#4, 15#6, 2048#12⟩ _ (by intro hw; rfl)
  · exact absurd hn (by omega)
theorem ceRedf (h : Hdr) (q : Fin 4) : Statement (.ceRedf h q) := by
  rcases q with ⟨_ | _ | _ | _ | _, hn⟩
  · exact decodeC ⟨h.lone, h.guard, 0#4, 8#4, 16#6, 2048#12⟩ _ (by intro hw; rfl)
  · exact decodeC ⟨h.lone, h.guard, 0#4, 8#4, 17#6, 2048#12⟩ _ (by intro hw; rfl)
  · exact decodeC ⟨h.lone, h.guard, 0#4, 8#4, 18#6, 2048#12⟩ _ (by intro hw; rfl)
  · exact decodeC ⟨h.lone, h.guard, 0#4, 8#4, 19#6, 2048#12⟩ _ (by intro hw; rfl)
  · exact absurd hn (by omega)
theorem ceCopyq (h : Hdr) (q : Fin 4) : Statement (.ceCopyq h q) := by
  rcases q with ⟨_ | _ | _ | _ | _, hn⟩
  · exact decodeC ⟨h.lone, h.guard, 0#4, 8#4, 20#6, 2048#12⟩ _ (by intro hw; rfl)
  · exact decodeC ⟨h.lone, h.guard, 0#4, 8#4, 21#6, 2048#12⟩ _ (by intro hw; rfl)
  · exact decodeC ⟨h.lone, h.guard, 0#4, 8#4, 22#6, 2048#12⟩ _ (by intro hw; rfl)
  · exact decodeC ⟨h.lone, h.guard, 0#4, 8#4, 23#6, 2048#12⟩ _ (by intro hw; rfl)
  · exact absurd hn (by omega)
theorem ceCopyb (h : Hdr) (q : Fin 4) : Statement (.ceCopyb h q) := by
  rcases q with ⟨_ | _ | _ | _ | _, hn⟩
  · exact decodeC ⟨h.lone, h.guard, 0#4, 8#4, 24#6, 2048#12⟩ _ (by intro hw; rfl)
  · exact decodeC ⟨h.lone, h.guard, 0#4, 8#4, 25#6, 2048#12⟩ _ (by intro hw; rfl)
  · exact decodeC ⟨h.lone, h.guard, 0#4, 8#4, 26#6, 2048#12⟩ _ (by intro hw; rfl)
  · exact decodeC ⟨h.lone, h.guard, 0#4, 8#4, 27#6, 2048#12⟩ _ (by intro hw; rfl)
  · exact absurd hn (by omega)
theorem movCeS (h : Hdr) (s : CSrc) : Statement (.movCeS h s) :=
  decodeC ⟨h.lone, h.guard, 0#4, 8#4, 28#6, csrcBits s⟩ _ (by intro hw; show (csrcOf (csrcBits s)).map (fun s => Instr.movCeS h s) = some (.movCeS h s); rw [csrcOf_csrcBits]; rfl)
theorem movCeD (h : Hdr) (s : CSrc) : Statement (.movCeD h s) :=
  decodeC ⟨h.lone, h.guard, 0#4, 8#4, 29#6, csrcBits s⟩ _ (by intro hw; show (csrcOf (csrcBits s)).map (fun s => Instr.movCeD h s) = some (.movCeD h s); rw [csrcOf_csrcBits]; rfl)
theorem movCeN (h : Hdr) (s : CSrc) : Statement (.movCeN h s) :=
  decodeC ⟨h.lone, h.guard, 0#4, 8#4, 30#6, csrcBits s⟩ _ (by intro hw; show (csrcOf (csrcBits s)).map (fun s => Instr.movCeN h s) = some (.movCeN h s); rw [csrcOf_csrcBits]; rfl)
theorem movCeB (h : Hdr) (s : CSrc) : Statement (.movCeB h s) :=
  decodeC ⟨h.lone, h.guard, 0#4, 8#4, 31#6, csrcBits s⟩ _ (by intro hw; show (csrcOf (csrcBits s)).map (fun s => Instr.movCeB h s) = some (.movCeB h s); rw [csrcOf_csrcBits]; rfl)
theorem movCeM (h : Hdr) (s : CSrc) : Statement (.movCeM h s) :=
  decodeC ⟨h.lone, h.guard, 0#4, 8#4, 32#6, csrcBits s⟩ _ (by intro hw; show (csrcOf (csrcBits s)).map (fun s => Instr.movCeM h s) = some (.movCeM h s); rw [csrcOf_csrcBits]; rfl)
theorem sqPush (h : Hdr) (la : BitVec 4) (s : CSrc) : Statement (.sqPush h la s) :=
  decodeC ⟨h.lone, h.guard, la, 9#4, 0#6, csrcBits s⟩ _ (by intro hw; show (portOf (csrcBits s)).map (fun s => Instr.sqPush h la s) = some (.sqPush h la s); rw [portOf_csrcBits s (by simp_all [Instr.wf])]; rfl)
theorem sqPop (h : Hdr) (la : BitVec 4) (s : CSrc) : Statement (.sqPop h la s) :=
  decodeC ⟨h.lone, h.guard, la, 9#4, 1#6, csrcBits s⟩ _ (by intro hw; show (portOf (csrcBits s)).map (fun s => Instr.sqPop h la s) = some (.sqPop h la s); rw [portOf_csrcBits s (by simp_all [Instr.wf])]; rfl)
theorem sqPeek (h : Hdr) (la : BitVec 4) (s : CSrc) : Statement (.sqPeek h la s) :=
  decodeC ⟨h.lone, h.guard, la, 9#4, 2#6, csrcBits s⟩ _ (by intro hw; show (portOf (csrcBits s)).map (fun s => Instr.sqPeek h la s) = some (.sqPeek h la s); rw [portOf_csrcBits s (by simp_all [Instr.wf])]; rfl)
theorem sqPopw (h : Hdr) (la : BitVec 4) (n : BitVec 10) : Statement (.sqPopw h la n) :=
  decodeC ⟨h.lone, h.guard, la, 9#4, 3#6, 2#2 ++ n⟩ _ (by intro hw; exact parse_popw h la n)
theorem sqPushw (h : Hdr) (la : BitVec 4) (n : BitVec 10) : Statement (.sqPushw h la n) :=
  decodeC ⟨h.lone, h.guard, la, 9#4, 4#6, 2#2 ++ n⟩ _ (by intro hw; exact parse_pushw h la n)
theorem sqRqpush (h : Hdr) (la : BitVec 4) (n : Fin 4) (s : CSrc) : Statement (.sqRqpush h la n s) := by
  rcases n with ⟨_ | _ | _ | _ | _, hn⟩
  · exact decodeC ⟨h.lone, h.guard, la, 9#4, 5#6, csrcBits s⟩ _ (by intro hw; show Option.map _ (csrcOf (csrcBits s)) = _; rw [csrcOf_csrcBits]; rfl)
  · exact decodeC ⟨h.lone, h.guard, la, 9#4, 6#6, csrcBits s⟩ _ (by intro hw; show Option.map _ (csrcOf (csrcBits s)) = _; rw [csrcOf_csrcBits]; rfl)
  · exact decodeC ⟨h.lone, h.guard, la, 9#4, 7#6, csrcBits s⟩ _ (by intro hw; show Option.map _ (csrcOf (csrcBits s)) = _; rw [csrcOf_csrcBits]; rfl)
  · exact decodeC ⟨h.lone, h.guard, la, 9#4, 8#6, csrcBits s⟩ _ (by intro hw; show Option.map _ (csrcOf (csrcBits s)) = _; rw [csrcOf_csrcBits]; rfl)
  · exact absurd hn (by omega)
theorem sqRqpop (h : Hdr) (la : BitVec 4) : Statement (.sqRqpop h la) :=
  decodeC ⟨h.lone, h.guard, la, 9#4, 9#6, 2048#12⟩ _ (by intro hw; rfl)
theorem sqRqprio (h : Hdr) (la : BitVec 4) (s : CSrc) : Statement (.sqRqprio h la s) :=
  decodeC ⟨h.lone, h.guard, la, 9#4, 10#6, csrcBits s⟩ _ (by intro hw; show (csrcOf (csrcBits s)).map (fun s => Instr.sqRqprio h la s) = some (.sqRqprio h la s); rw [csrcOf_csrcBits]; rfl)
theorem sqSpawn (h : Hdr) (la : BitVec 4) (s : CSrc) : Statement (.sqSpawn h la s) :=
  decodeC ⟨h.lone, h.guard, la, 9#4, 11#6, csrcBits s⟩ _ (by intro hw; show (csrcOf (csrcBits s)).map (fun s => Instr.sqSpawn h la s) = some (.sqSpawn h la s); rw [csrcOf_csrcBits]; rfl)
theorem sqDec (h : Hdr) (la : BitVec 4) (s : CSrc) : Statement (.sqDec h la s) :=
  decodeC ⟨h.lone, h.guard, la, 9#4, 12#6, csrcBits s⟩ _ (by intro hw; show (csrcOf (csrcBits s)).map (fun s => Instr.sqDec h la s) = some (.sqDec h la s); rw [csrcOf_csrcBits]; rfl)
theorem sqDone (h : Hdr) : Statement (.sqDone h) :=
  decodeC ⟨h.lone, h.guard, 0#4, 9#4, 13#6, 2048#12⟩ _ (by intro hw; rfl)
theorem movSqD (h : Hdr) (s : CSrc) : Statement (.movSqD h s) :=
  decodeC ⟨h.lone, h.guard, 0#4, 9#4, 14#6, csrcBits s⟩ _ (by intro hw; show (csrcOf (csrcBits s)).map (fun s => Instr.movSqD h s) = some (.movSqD h s); rw [csrcOf_csrcBits]; rfl)
theorem movSqH (h : Hdr) (s : CSrc) : Statement (.movSqH h s) :=
  decodeC ⟨h.lone, h.guard, 0#4, 9#4, 15#6, csrcBits s⟩ _ (by intro hw; show (csrcOf (csrcBits s)).map (fun s => Instr.movSqH h s) = some (.movSqH h s); rw [csrcOf_csrcBits]; rfl)
theorem syBinit (h : Hdr) (la : BitVec 4) (s : CSrc) : Statement (.syBinit h la s) :=
  decodeC ⟨h.lone, h.guard, la, 10#4, 0#6, csrcBits s⟩ _ (by intro hw; show (csrcOf (csrcBits s)).map (fun s => Instr.syBinit h la s) = some (.syBinit h la s); rw [csrcOf_csrcBits]; rfl)
theorem syArrive (h : Hdr) (la : BitVec 4) (s : CSrc) : Statement (.syArrive h la s) :=
  decodeC ⟨h.lone, h.guard, la, 10#4, 1#6, csrcBits s⟩ _ (by intro hw; show (csrcOf (csrcBits s)).map (fun s => Instr.syArrive h la s) = some (.syArrive h la s); rw [csrcOf_csrcBits]; rfl)
theorem syArrivb (h : Hdr) (la : BitVec 4) (s : CSrc) : Statement (.syArrivb h la s) :=
  decodeC ⟨h.lone, h.guard, la, 10#4, 2#6, csrcBits s⟩ _ (by intro hw; show (csrcOf (csrcBits s)).map (fun s => Instr.syArrivb h la s) = some (.syArrivb h la s); rw [csrcOf_csrcBits]; rfl)
theorem syWait (h : Hdr) (la : BitVec 4) (s : CSrc) : Statement (.syWait h la s) :=
  decodeC ⟨h.lone, h.guard, la, 10#4, 3#6, csrcBits s⟩ _ (by intro hw; show (csrcOf (csrcBits s)).map (fun s => Instr.syWait h la s) = some (.syWait h la s); rw [csrcOf_csrcBits]; rfl)
theorem syTest (h : Hdr) (la : BitVec 4) (s : CSrc) : Statement (.syTest h la s) :=
  decodeC ⟨h.lone, h.guard, la, 10#4, 4#6, csrcBits s⟩ _ (by intro hw; show (csrcOf (csrcBits s)).map (fun s => Instr.syTest h la s) = some (.syTest h la s); rw [csrcOf_csrcBits]; rfl)
theorem syInval (h : Hdr) (la : BitVec 4) (s : CSrc) : Statement (.syInval h la s) :=
  decodeC ⟨h.lone, h.guard, la, 10#4, 5#6, csrcBits s⟩ _ (by intro hw; show (csrcOf (csrcBits s)).map (fun s => Instr.syInval h la s) = some (.syInval h la s); rw [csrcOf_csrcBits]; rfl)
theorem syMon (h : Hdr) (la : BitVec 4) (n : Fin 4) (s : CSrc) : Statement (.syMon h la n s) := by
  rcases n with ⟨_ | _ | _ | _ | _, hn⟩
  · exact decodeC ⟨h.lone, h.guard, la, 10#4, 6#6, csrcBits s⟩ _ (by intro hw; show Option.map _ (csrcOf (csrcBits s)) = _; rw [csrcOf_csrcBits]; rfl)
  · exact decodeC ⟨h.lone, h.guard, la, 10#4, 7#6, csrcBits s⟩ _ (by intro hw; show Option.map _ (csrcOf (csrcBits s)) = _; rw [csrcOf_csrcBits]; rfl)
  · exact decodeC ⟨h.lone, h.guard, la, 10#4, 8#6, csrcBits s⟩ _ (by intro hw; show Option.map _ (csrcOf (csrcBits s)) = _; rw [csrcOf_csrcBits]; rfl)
  · exact decodeC ⟨h.lone, h.guard, la, 10#4, 9#6, csrcBits s⟩ _ (by intro hw; show Option.map _ (csrcOf (csrcBits s)) = _; rw [csrcOf_csrcBits]; rfl)
  · exact absurd hn (by omega)
theorem syUnmon (h : Hdr) (la : BitVec 4) (mk : BitVec 4) : Statement (.syUnmon h la mk) :=
  decodeC ⟨h.lone, h.guard, la, 10#4, 10#6, 128#8 ++ mk⟩ _ (by intro hw; exact parse_unmon h la mk)
theorem syMwait (h : Hdr) (la : BitVec 4) : Statement (.syMwait h la) :=
  decodeC ⟨h.lone, h.guard, la, 10#4, 11#6, 2048#12⟩ _ (by intro hw; rfl)
theorem syGbar (h : Hdr) (la : BitVec 4) : Statement (.syGbar h la) :=
  decodeC ⟨h.lone, h.guard, la, 10#4, 12#6, 2048#12⟩ _ (by intro hw; rfl)
theorem movSyA (h : Hdr) (s : CSrc) : Statement (.movSyA h s) :=
  decodeC ⟨h.lone, h.guard, 0#4, 10#4, 13#6, csrcBits s⟩ _ (by intro hw; show (csrcOf (csrcBits s)).map (fun s => Instr.movSyA h s) = some (.movSyA h s); rw [csrcOf_csrcBits]; rfl)
theorem movSyB (h : Hdr) (s : CSrc) : Statement (.movSyB h s) :=
  decodeC ⟨h.lone, h.guard, 0#4, 10#4, 14#6, csrcBits s⟩ _ (by intro hw; show (csrcOf (csrcBits s)).map (fun s => Instr.movSyB h s) = some (.movSyB h s); rw [csrcOf_csrcBits]; rfl)
theorem movSyL (h : Hdr) (s : CSrc) : Statement (.movSyL h s) :=
  decodeC ⟨h.lone, h.guard, 0#4, 10#4, 15#6, csrcBits s⟩ _ (by intro hw; show (csrcOf (csrcBits s)).map (fun s => Instr.movSyL h s) = some (.movSyL h s); rw [csrcOf_csrcBits]; rfl)
theorem ctBr (h : Hdr) (disp : BitVec 11) : Statement (.ctBr h disp) :=
  decodeC ⟨h.lone, h.guard, 0#4, 11#4, 0#6, 1#1 ++ disp⟩ _ (by intro hw; exact parse_br h disp)
theorem ctBrAbs (h : Hdr) (s : CSrc) : Statement (.ctBrAbs h s) :=
  decodeC ⟨h.lone, h.guard, 0#4, 11#4, 0#6, csrcBits s⟩ _ (by intro hw; exact parse_brAbs h s (by simp_all [Instr.wf]))
theorem ctCall (h : Hdr) (disp : BitVec 11) : Statement (.ctCall h disp) :=
  decodeC ⟨h.lone, h.guard, 0#4, 11#4, 1#6, 1#1 ++ disp⟩ _ (by intro hw; exact parse_call h disp)
theorem ctCallAbs (h : Hdr) (s : CSrc) : Statement (.ctCallAbs h s) :=
  decodeC ⟨h.lone, h.guard, 0#4, 11#4, 1#6, csrcBits s⟩ _ (by intro hw; exact parse_callAbs h s (by simp_all [Instr.wf]))
theorem ctRet (h : Hdr) : Statement (.ctRet h) :=
  decodeC ⟨h.lone, h.guard, 0#4, 11#4, 2#6, 27#12⟩ _ (by intro hw; rfl)
theorem ctJmp (h : Hdr) (s : CSrc) : Statement (.ctJmp h s) :=
  decodeC ⟨h.lone, h.guard, 0#4, 11#4, 3#6, csrcBits s⟩ _ (by intro hw; show (portOf (csrcBits s)).map (fun s => Instr.ctJmp h s) = some (.ctJmp h s); rw [portOf_csrcBits s (by simp_all [Instr.wf])]; rfl)
theorem ctChunk (h : Hdr) : Statement (.ctChunk h) :=
  decodeC ⟨h.lone, h.guard, 0#4, 11#4, 4#6, 2048#12⟩ _ (by intro hw; rfl)
theorem ctYield (h : Hdr) : Statement (.ctYield h) :=
  decodeC ⟨h.lone, h.guard, 0#4, 11#4, 5#6, 2048#12⟩ _ (by intro hw; rfl)
theorem ctHalt (h : Hdr) : Statement (.ctHalt h) :=
  decodeC ⟨h.lone, h.guard, 0#4, 11#4, 6#6, 2048#12⟩ _ (by intro hw; rfl)
theorem ctTrap (h : Hdr) (s : CSrc) : Statement (.ctTrap h s) :=
  decodeC ⟨h.lone, h.guard, 0#4, 11#4, 7#6, csrcBits s⟩ _ (by intro hw; show (csrcOf (csrcBits s)).map (fun s => Instr.ctTrap h s) = some (.ctTrap h s); rw [csrcOf_csrcBits]; rfl)
theorem ctNop (h : Hdr) : Statement (.ctNop h) :=
  decodeC ⟨h.lone, h.guard, 0#4, 11#4, 8#6, 2048#12⟩ _ (by intro hw; rfl)
theorem ctIpf (h : Hdr) (la : BitVec 4) (s : CSrc) : Statement (.ctIpf h la s) :=
  decodeC ⟨h.lone, h.guard, la, 11#4, 9#6, csrcBits s⟩ _ (by intro hw; show (csrcOf (csrcBits s)).map (fun s => Instr.ctIpf h la s) = some (.ctIpf h la s); rw [csrcOf_csrcBits]; rfl)
theorem ctEfence (h : Hdr) : Statement (.ctEfence h) :=
  decodeC ⟨h.lone, h.guard, 0#4, 11#4, 10#6, 2048#12⟩ _ (by intro hw; rfl)
theorem ctSstop (h : Hdr) (s : CSrc) : Statement (.ctSstop h s) :=
  decodeC ⟨h.lone, h.guard, 0#4, 11#4, 11#6, csrcBits s⟩ _ (by intro hw; show (csrcOf (csrcBits s)).map (fun s => Instr.ctSstop h s) = some (.ctSstop h s); rw [csrcOf_csrcBits]; rfl)
theorem ctSgo (h : Hdr) (s : CSrc) : Statement (.ctSgo h s) :=
  decodeC ⟨h.lone, h.guard, 0#4, 11#4, 12#6, csrcBits s⟩ _ (by intro hw; show (csrcOf (csrcBits s)).map (fun s => Instr.ctSgo h s) = some (.ctSgo h s); rw [csrcOf_csrcBits]; rfl)
theorem ctSsave (h : Hdr) (s : CSrc) : Statement (.ctSsave h s) :=
  decodeC ⟨h.lone, h.guard, 0#4, 11#4, 13#6, csrcBits s⟩ _ (by intro hw; show (csrcOf (csrcBits s)).map (fun s => Instr.ctSsave h s) = some (.ctSsave h s); rw [csrcOf_csrcBits]; rfl)
theorem ctSload (h : Hdr) (s : CSrc) : Statement (.ctSload h s) :=
  decodeC ⟨h.lone, h.guard, 0#4, 11#4, 14#6, csrcBits s⟩ _ (by intro hw; show (csrcOf (csrcBits s)).map (fun s => Instr.ctSload h s) = some (.ctSload h s); rw [csrcOf_csrcBits]; rfl)
theorem ctResume (h : Hdr) (s : CSrc) : Statement (.ctResume h s) :=
  decodeC ⟨h.lone, h.guard, 0#4, 11#4, 15#6, csrcBits s⟩ _ (by intro hw; show (csrcOf (csrcBits s)).map (fun s => Instr.ctResume h s) = some (.ctResume h s); rw [csrcOf_csrcBits]; rfl)
theorem qsBind (h : Hdr) (n : Fin 8) (s : CSrc) : Statement (.qsBind h n s) := by
  rcases n with ⟨_ | _ | _ | _ | _ | _ | _ | _ | _, hn⟩
  · exact decodeC ⟨h.lone, h.guard, 0#4, 12#4, 0#6, csrcBits s⟩ _ (by intro hw; show Option.map _ (csrcOf (csrcBits s)) = _; rw [csrcOf_csrcBits]; rfl)
  · exact decodeC ⟨h.lone, h.guard, 0#4, 12#4, 1#6, csrcBits s⟩ _ (by intro hw; show Option.map _ (csrcOf (csrcBits s)) = _; rw [csrcOf_csrcBits]; rfl)
  · exact decodeC ⟨h.lone, h.guard, 0#4, 12#4, 2#6, csrcBits s⟩ _ (by intro hw; show Option.map _ (csrcOf (csrcBits s)) = _; rw [csrcOf_csrcBits]; rfl)
  · exact decodeC ⟨h.lone, h.guard, 0#4, 12#4, 3#6, csrcBits s⟩ _ (by intro hw; show Option.map _ (csrcOf (csrcBits s)) = _; rw [csrcOf_csrcBits]; rfl)
  · exact decodeC ⟨h.lone, h.guard, 0#4, 12#4, 4#6, csrcBits s⟩ _ (by intro hw; show Option.map _ (csrcOf (csrcBits s)) = _; rw [csrcOf_csrcBits]; rfl)
  · exact decodeC ⟨h.lone, h.guard, 0#4, 12#4, 5#6, csrcBits s⟩ _ (by intro hw; show Option.map _ (csrcOf (csrcBits s)) = _; rw [csrcOf_csrcBits]; rfl)
  · exact decodeC ⟨h.lone, h.guard, 0#4, 12#4, 6#6, csrcBits s⟩ _ (by intro hw; show Option.map _ (csrcOf (csrcBits s)) = _; rw [csrcOf_csrcBits]; rfl)
  · exact decodeC ⟨h.lone, h.guard, 0#4, 12#4, 7#6, csrcBits s⟩ _ (by intro hw; show Option.map _ (csrcOf (csrcBits s)) = _; rw [csrcOf_csrcBits]; rfl)
  · exact absurd hn (by omega)
theorem qsUnbind (h : Hdr) (j : Fin 8) : Statement (.qsUnbind h j) :=
  decodeC ⟨h.lone, h.guard, 0#4, 12#4, 8#6, BitVec.ofNat 12 (2048 + j.val)⟩ _ (by intro hw; exact parse_unbind h j)
theorem qsWrite (h : Hdr) (n : Fin 8) (s : CSrc) : Statement (.qsWrite h n s) := by
  rcases n with ⟨_ | _ | _ | _ | _ | _ | _ | _ | _, hn⟩
  · exact decodeC ⟨h.lone, h.guard, 0#4, 12#4, 16#6, csrcBits s⟩ _ (by intro hw; show Option.map _ (csrcOf (csrcBits s)) = _; rw [csrcOf_csrcBits]; rfl)
  · exact decodeC ⟨h.lone, h.guard, 0#4, 12#4, 17#6, csrcBits s⟩ _ (by intro hw; show Option.map _ (csrcOf (csrcBits s)) = _; rw [csrcOf_csrcBits]; rfl)
  · exact decodeC ⟨h.lone, h.guard, 0#4, 12#4, 18#6, csrcBits s⟩ _ (by intro hw; show Option.map _ (csrcOf (csrcBits s)) = _; rw [csrcOf_csrcBits]; rfl)
  · exact decodeC ⟨h.lone, h.guard, 0#4, 12#4, 19#6, csrcBits s⟩ _ (by intro hw; show Option.map _ (csrcOf (csrcBits s)) = _; rw [csrcOf_csrcBits]; rfl)
  · exact decodeC ⟨h.lone, h.guard, 0#4, 12#4, 20#6, csrcBits s⟩ _ (by intro hw; show Option.map _ (csrcOf (csrcBits s)) = _; rw [csrcOf_csrcBits]; rfl)
  · exact decodeC ⟨h.lone, h.guard, 0#4, 12#4, 21#6, csrcBits s⟩ _ (by intro hw; show Option.map _ (csrcOf (csrcBits s)) = _; rw [csrcOf_csrcBits]; rfl)
  · exact decodeC ⟨h.lone, h.guard, 0#4, 12#4, 22#6, csrcBits s⟩ _ (by intro hw; show Option.map _ (csrcOf (csrcBits s)) = _; rw [csrcOf_csrcBits]; rfl)
  · exact decodeC ⟨h.lone, h.guard, 0#4, 12#4, 23#6, csrcBits s⟩ _ (by intro hw; show Option.map _ (csrcOf (csrcBits s)) = _; rw [csrcOf_csrcBits]; rfl)
  · exact absurd hn (by omega)
theorem srWrite (h : Hdr) (r : Fin 21) (s : CSrc) : Statement (.srWrite h r s) :=
  decodeC ⟨h.lone, h.guard, 0#4, 13#4, (BitVec.ofNat 6 r.val), csrcBits s⟩ _ (by intro hw; exact parse_sr h r s (by simp_all [Instr.wf]))
theorem writeAlarm (h : Hdr) (s : CSrc) : Statement (.writeAlarm h s) :=
  decodeC ⟨h.lone, h.guard, 0#4, 13#4, 2#6, csrcBits s⟩ _ (by intro hw; show (csrcOf (csrcBits s)).map (fun s => Instr.writeAlarm h s) = some (.writeAlarm h s); rw [csrcOf_csrcBits]; rfl)
theorem writeRedpin (h : Hdr) (s : CSrc) : Statement (.writeRedpin h s) :=
  decodeC ⟨h.lone, h.guard, 0#4, 13#4, 11#6, csrcBits s⟩ _ (by intro hw; show (csrcOf (csrcBits s)).map (fun s => Instr.writeRedpin h s) = some (.writeRedpin h s); rw [csrcOf_csrcBits]; rfl)
theorem writeRng (h : Hdr) (s : CSrc) : Statement (.writeRng h s) :=
  decodeC ⟨h.lone, h.guard, 0#4, 13#4, 13#6, csrcBits s⟩ _ (by intro hw; show (csrcOf (csrcBits s)).map (fun s => Instr.writeRng h s) = some (.writeRng h s); rw [csrcOf_csrcBits]; rfl)
theorem srTlbinv (h : Hdr) (la : BitVec 4) (s : CSrc) : Statement (.srTlbinv h la s) :=
  decodeC ⟨h.lone, h.guard, la, 13#4, 61#6, csrcBits s⟩ _ (by intro hw; show (csrcOf (csrcBits s)).map (fun s => Instr.srTlbinv h la s) = some (.srTlbinv h la s); rw [csrcOf_csrcBits]; rfl)
theorem srPfence (h : Hdr) (la : BitVec 4) : Statement (.srPfence h la) :=
  decodeC ⟨h.lone, h.guard, la, 13#4, 62#6, 2048#12⟩ _ (by intro hw; rfl)
theorem srAckfloor (h : Hdr) (la : BitVec 4) (s : CSrc) : Statement (.srAckfloor h la s) :=
  decodeC ⟨h.lone, h.guard, la, 13#4, 63#6, csrcBits s⟩ _ (by intro hw; show (csrcOf (csrcBits s)).map (fun s => Instr.srAckfloor h la s) = some (.srAckfloor h la s); rw [csrcOf_csrcBits]; rfl)
theorem illegalWord  : Statement (.illegalWord) := noWord _ rfl
theorem fixedResultVisible (sid : Nat) : Statement (.fixedResultVisible sid) := noWord _ rfl
theorem variableResultLand (sid seq : Nat) : Statement (.variableResultLand sid seq) := noWord _ rfl
theorem leaseGrant (gk : Nat) : Statement (.leaseGrant gk) := noWord _ rfl
theorem leaseIdleLimit (gk : Nat) : Statement (.leaseIdleLimit gk) := noWord _ rfl
theorem mxCommandAccept (gk : Nat) : Statement (.mxCommandAccept gk) := noWord _ rfl
theorem mxCommandExecute (gk : Nat) : Statement (.mxCommandExecute gk) := noWord _ rfl
theorem cePushAccept (sid : Nat) : Statement (.cePushAccept sid) := noWord _ rfl
theorem ceCommandStart (ck : Nat) : Statement (.ceCommandStart ck) := noWord _ rfl
theorem ceLineDelivery (ck cmd line : Nat) : Statement (.ceLineDelivery ck cmd line) := noWord _ rfl
theorem ceReduceLine (ck cmd line : Nat) : Statement (.ceReduceLine ck cmd line) := noWord _ rfl
theorem cePoisonNotice (ck bar : Nat) : Statement (.cePoisonNotice ck bar) := noWord _ rfl
theorem copyqMessagePush (ck cmd : Nat) : Statement (.copyqMessagePush ck cmd) := noWord _ rfl
theorem ceCommandComplete (ck cmd : Nat) : Statement (.ceCommandComplete ck cmd) := noWord _ rfl
theorem strandControlAct (sid : Nat) : Statement (.strandControlAct sid) := noWord _ rfl
theorem streamElementArrival (sid : Nat) (j : Fin 8) : Statement (.streamElementArrival sid j) := noWord _ rfl
theorem chunkLengthReached (sid : Nat) : Statement (.chunkLengthReached sid) := noWord _ rfl
theorem weirCommitRequest (sid : Nat) : Statement (.weirCommitRequest sid) := noWord _ rfl
theorem weirPrepare (sid : Nat) : Statement (.weirPrepare sid) := noWord _ rfl
theorem effectIssue (sid : Nat) : Statement (.effectIssue sid) := noWord _ rfl
theorem fenceCheck (sid : Nat) : Statement (.fenceCheck sid) := noWord _ rfl
theorem translationWalk (sid seq : Nat) : Statement (.translationWalk sid seq) := noWord _ rfl
theorem tlbInvalidationArrival (rk pid : Nat) (off : Option Nat) (src : Nat × Nat) : Statement (.tlbInvalidationArrival rk pid off src) := noWord _ rfl
theorem cascadeNumbering (pid : Nat) (st : ReplStore) : Statement (.cascadeNumbering pid st) := noWord _ rfl
theorem cascadeApply (pid rk : Nat) : Statement (.cascadeApply pid rk) := noWord _ rfl
theorem remoteModuleAccess (acc : ModAccess) : Statement (.remoteModuleAccess acc) := noWord _ rfl
theorem remoteEffectMessage (m : Msg) : Statement (.remoteEffectMessage m) := noWord _ rfl
theorem replyResult (o : Origin) (seq : Nat) (r : Reply) : Statement (.replyResult o seq r) := noWord _ rfl
theorem replyBusy (o : Origin) (seq : Nat) : Statement (.replyBusy o seq) := noWord _ rfl
theorem replyMoved (o : Origin) (seq : Nat) : Statement (.replyMoved o seq) := noWord _ rfl
theorem replyRefuse (o : Origin) (seq : Nat) (cause : Nat) : Statement (.replyRefuse o seq cause) := noWord _ rfl
theorem retransmitTimeout (o : Origin) (seq : Nat) : Statement (.retransmitTimeout o seq) := noWord _ rfl
theorem busyRetryTimer (o : Origin) (seq : Nat) : Statement (.busyRetryTimer o seq) := noWord _ rfl
theorem ownerBusyLimit (o : Origin) (seq : Nat) : Statement (.ownerBusyLimit o seq) := noWord _ rfl
theorem floorNotice (w : Owner) (tok floor : Nat) : Statement (.floorNotice w tok floor) := noWord _ rfl
theorem stashRefillRequest (ck : Nat) : Statement (.stashRefillRequest ck) := noWord _ rfl
theorem stashRefillAnswer (ck : Nat) (rec : TokRec) : Statement (.stashRefillAnswer ck rec) := noWord _ rfl
theorem reductionTake (ck : Nat) : Statement (.reductionTake ck) := noWord _ rfl
theorem reductionDownwardReceive (ck : Nat) (data : List (BitVec 32)) (marks : List Bool) (bar off : Nat) : Statement (.reductionDownwardReceive ck data marks bar off) := noWord _ rfl
theorem reductionRoundEnd (ck : Nat) : Statement (.reductionRoundEnd ck) := noWord _ rfl
theorem launchExpansion (pid rk : Nat) : Statement (.launchExpansion pid rk) := noWord _ rfl
theorem launchStalled (pid rk : Nat) : Statement (.launchStalled pid rk) := noWord _ rfl
theorem waitExpired (sid : Nat) : Statement (.waitExpired sid) := noWord _ rfl
theorem queueRetry (sid : Nat) : Statement (.queueRetry sid) := noWord _ rfl
theorem sluiceGovernorTick (rk : Nat) : Statement (.sluiceGovernorTick rk) := noWord _ rfl
theorem setAcquireRequest (q : SetReq) : Statement (.setAcquireRequest q) := noWord _ rfl
theorem setGrant (sid : Nat) (set : Fin 8) : Statement (.setGrant sid set) := noWord _ rfl
theorem woundRollback (ck : Nat) (run : Nat × Nat × Nat) : Statement (.woundRollback ck run) := noWord _ rfl
theorem setRelease (w : Owner) (ck : Nat) (run : Nat × Nat × Nat) (set : Fin 8) : Statement (.setRelease w ck run set) := noWord _ rfl
theorem droopStretch (rk : Nat) : Statement (.droopStretch rk) := noWord _ rfl
theorem supplyRecovery (rk : Nat) : Statement (.supplyRecovery rk) := noWord _ rfl
theorem timeReferencePulse (rk t : Nat) : Statement (.timeReferencePulse rk t) := noWord _ rfl
theorem timeReferenceLost (rk : Nat) : Statement (.timeReferenceLost rk) := noWord _ rfl
theorem alarmFire (sid : Nat) : Statement (.alarmFire sid) := noWord _ rfl
theorem boundaryFlitCrossing (link : Nat) : Statement (.boundaryFlitCrossing link) := noWord _ rfl
theorem linkFlitCrcError (link : Nat) : Statement (.linkFlitCrcError link) := noWord _ rfl
theorem slip (sid : Nat) : Statement (.slip sid) := noWord _ rfl
theorem fetchFillArrival (ck line : Nat) : Statement (.fetchFillArrival ck line) := noWord _ rfl
theorem fetchRetryTimeout (sid : Nat) : Statement (.fetchRetryTimeout sid) := noWord _ rfl
theorem moduleStart (images : List FirmwareImage) : Statement (.moduleStart images) := noWord _ rfl
theorem selfTest (rep : SelfTestReport) : Statement (.selfTest rep) := noWord _ rfl
theorem partitionCreate (desc sig : List (BitVec 8)) : Statement (.partitionCreate desc sig) := noWord _ rfl
theorem domainAgreement (d : DomainJoin) : Statement (.domainAgreement d) := noWord _ rfl
theorem faultRingDeliver (pid rk : Nat) : Statement (.faultRingDeliver pid rk) := noWord _ rfl
theorem writeFaultRingBase (sid rk : Nat) (w : BitVec 64) : Statement (.writeFaultRingBase sid rk w) := noWord _ rfl
theorem systemWindowStore (sid : Nat) (st : SysStore) : Statement (.systemWindowStore sid st) := noWord _ rfl
theorem debugResume (sid : Nat) (endChunk : Bool) : Statement (.debugResume sid endChunk) := noWord _ rfl
theorem debugStep (sid : Nat) : Statement (.debugStep sid) := noWord _ rfl
theorem debugKill (sid : Nat) : Statement (.debugKill sid) := noWord _ rfl
theorem preemptRequest (pid area : Nat) : Statement (.preemptRequest pid area) := noWord _ rfl
theorem preemptSave (pid : Nat) : Statement (.preemptSave pid) := noWord _ rfl
theorem preemptGraceExpiry (pid : Nat) : Statement (.preemptGraceExpiry pid) := noWord _ rfl
theorem partitionRestore (area rx ry : Nat) : Statement (.partitionRestore area rx ry) := noWord _ rfl
theorem hostDoorbell (q : Fin 8) (bell : HostBell) : Statement (.hostDoorbell q bell) := noWord _ rfl
theorem hostCmdLaunch (q : Fin 8) : Statement (.hostCmdLaunch q) := noWord _ rfl
theorem hostCmdCopy (q : Fin 8) : Statement (.hostCmdCopy q) := noWord _ rfl
theorem hostCmdSignal (q : Fin 8) : Statement (.hostCmdSignal q) := noWord _ rfl
theorem hostCmdWait (q : Fin 8) : Statement (.hostCmdWait q) := noWord _ rfl
theorem hostWaitPoll (q : Fin 8) : Statement (.hostWaitPoll q) := noWord _ rfl
theorem hostWaitLimit (q : Fin 8) : Statement (.hostWaitLimit q) := noWord _ rfl
theorem hostQueueResume (q : Fin 8) : Statement (.hostQueueResume q) := noWord _ rfl
theorem attestationRequest (nonce : List (BitVec 8)) (pid : Option Nat) : Statement (.attestationRequest nonce pid) := noWord _ rfl
theorem scrubTick (u : ErrUnit) : Statement (.scrubTick u) := noWord _ rfl
theorem errorFclr (u : ErrUnit) : Statement (.errorFclr u) := noWord _ rfl
theorem errorCclr (u : ErrUnit) : Statement (.errorCclr u) := noWord _ rfl
theorem watchdogFire (ck : Nat) : Statement (.watchdogFire ck) := noWord _ rfl
theorem rimScrub (c : Fin 24) : Statement (.rimScrub c) := noWord _ rfl
theorem boundaryStart (gk : Nat) : Statement (.boundaryStart gk) := noWord _ rfl
theorem boundaryRecord (gk : Nat) : Statement (.boundaryRecord gk) := noWord _ rfl
theorem boundaryApply (gk : Nat) (seat : Fin 4) : Statement (.boundaryApply gk seat) := noWord _ rfl
theorem boundaryDurable (gk : Nat) : Statement (.boundaryDurable gk) := noWord _ rfl
theorem boundaryAbandon (gk : Nat) : Statement (.boundaryAbandon gk) := noWord _ rfl
theorem boundaryRetry (gk : Nat) : Statement (.boundaryRetry gk) := noWord _ rfl
theorem logRecord (ck : Nat) (r : LogRec) : Statement (.logRecord ck r) := noWord _ rfl
theorem recoveryStart (gk : Nat) (why : FailReason) : Statement (.recoveryStart gk why) := noWord _ rfl
theorem recoveryReplay (gk : Nat) : Statement (.recoveryReplay gk) := noWord _ rfl
theorem routerEntryPending (pid router gk : Nat) : Statement (.routerEntryPending pid router gk) := noWord _ rfl
theorem routerEntryCommit (pid router gk : Nat) : Statement (.routerEntryCommit pid router gk) := noWord _ rfl
theorem routerAckTimeout (pid router gk : Nat) : Statement (.routerAckTimeout pid router gk) := noWord _ rfl
theorem routerEntryDoubleError (pid router gk : Nat) : Statement (.routerEntryDoubleError pid router gk) := noWord _ rfl
theorem forwardWindowExpiry (gk : Nat) : Statement (.forwardWindowExpiry gk) := noWord _ rfl
theorem strandSwap (ck inn out : Nat) : Statement (.strandSwap ck inn out) := noWord _ rfl
theorem groupUnreachable (gk : Nat) : Statement (.groupUnreachable gk) := noWord _ rfl
theorem basinDrain (c : BasinCmd) : Statement (.basinDrain c) := noWord _ rfl
theorem basinStop (c : BasinCmd) : Statement (.basinStop c) := noWord _ rfl
theorem basinMigrate (c : BasinCmd) : Statement (.basinMigrate c) := noWord _ rfl
theorem basinRemapPrepare (c : BasinCmd) : Statement (.basinRemapPrepare c) := noWord _ rfl
theorem basinRemapCommit (c : BasinCmd) : Statement (.basinRemapCommit c) := noWord _ rfl
theorem basinReturn (c : BasinCmd) : Statement (.basinReturn c) := noWord _ rfl
theorem basinBoundaryNow (c : BasinCmd) : Statement (.basinBoundaryNow c) := noWord _ rfl
theorem basinFail (c : BasinCmd) : Statement (.basinFail c) := noWord _ rfl
theorem partitionDestroy (pid : Nat) : Statement (.partitionDestroy pid) := noWord _ rfl
theorem rimChannelWorldSet (c : Fin 24) (secure : Bool) : Statement (.rimChannelWorldSet c secure) := noWord _ rfl

end Sys2Proof.Laws.RoundTrip
end

