-- ==== Sys2Proof/Tests/Slice0.lean ====
section
/-! SUPPORT. Tests on fixed values: ill-formed terms, words written out from the encodings of the spec, small effects, and a
witness for the hypotheses of each obligation. -/

set_option Elab.async false
set_option maxRecDepth 20000
set_option exponentiation.threshold 5000

open Sys2Proof Sys2Proof.Machine Sys2Proof.Claims

namespace Sys2Proof.Tests

/-- An unguarded word with L = 0. -/
def h0 : Hdr := { lone := false, guard := 0 }

/-- An unguarded lone word. -/
def hL : Hdr := { lone := true, guard := 0 }

/-! ## Ill-formed terms, one for each check -/

/-- G = 1000 is illegal (R40). -/
theorem test_wf_guard : Instr.wf (.iaAddC { lone := false, guard := 8 } (.g 1)) = false := by decide
/-- A scalar unit may not name v0-v7, as O or as T (R48). -/
theorem test_wf_vector_source : Instr.wf (.iaAdd h0 (.v 1) (.g 1)) = false ∧ Instr.wf (.iaAdd h0 (.g 1) (.v 1)) = false := by
  decide
/-- Nor may a unary scalar operation (R48). -/
theorem test_wf_vector_unary : Instr.wf (.iaClz h0 (.v 0)) = false := by decide
/-- A predicate operation with D = 0 is illegal (R99). -/
theorem test_wf_predicate_zero : Instr.wf (.iaPand h0 0 1 2) = false := by decide
/-- The scalar source of a shuffle may not be a vector register (R122). -/
theorem test_wf_shuffle : Instr.wf (.vxShuf h0 0 (.v 1) (.v 2)) = false := by decide
/-- MZ = 1 with no mask is illegal (R117). -/
theorem test_wf_prefix : Instr.wf (.vpfx { mask := 0, mz := true, rm := 0, x := false, v4 := 0, sat := false }) = false := by decide
/-- `ce.c` is popped by its own move only (R247). -/
theorem test_wf_mov_cec : Instr.wf (.mov h0 1 .ceC) = false := by decide
/-- A port where the word takes no immediate (R286). -/
theorem test_wf_port : Instr.wf (.sqPush h0 0 (.imm 3)) = false ∧ Instr.wf (.ctJmp h0 (.imm 3)) = false := by decide
/-- The limits of the matrix immediates (R147, R152). -/
theorem test_wf_matrix_imm : Instr.wf (.mxLease h0 0 (.imm 0)) = false ∧ Instr.wf (.mxLease h0 0 (.imm 65)) = false ∧
    Instr.wf (.mxZero h0 0 (.imm 16)) = false ∧ Instr.wf (.mxDrain h0 0 (.imm 32)) = false ∧
    Instr.wf (.mxDrainv h0 0 (.imm 512)) = false := by decide
/-- A product names only the windows its shape has (R153). -/
theorem test_wf_product_imm : Instr.wf (.mxMmaM64n64k32Bf16 h0 0 (.imm 0x40)) = false ∧
    Instr.wf (.mxMmaM64n64k32Bf16 h0 0 (.imm 0x33)) = true := by decide
/-- `ct.trap` takes a code below 1,024, `sr.tlbinv` an immediate of 0 only (R270, R334). -/
theorem test_wf_trap_tlbinv : Instr.wf (.ctTrap h0 (.imm 1024)) = false ∧ Instr.wf (.srTlbinv h0 0 (.imm 1)) = false := by decide
/-- A system register that has its own word is not written by the general one (R322). -/
theorem test_wf_sr_write : Instr.wf (.srWrite h0 2 (.g 1)) = false := by decide

/-! ## Words of the spec's encodings -/

theorem test_decode_moves : decodeWord 0x40392001 = some (.ldi hL 9 1) ∧ decodeWord 0x00B93345 = some (.ldih h0 9 0x2345) ∧
    decodeWord 0x00006693 = some (.mov h0 6 (.sr 19)) ∧ decodeWord 0x0007F005 = some (.movIaO h0 (.g 5)) := by decide
theorem test_decode_ia : decodeWord 0x00040ABC = some (.iaAddC h0 (.imm 700)) ∧
    decodeWord 0x802781C7 = some (.iaCmplt h0 2 (.g 3) (.imm 7)) ∧ decodeWord 0x8049E245 = some (.iaPand h0 4 4 5) ∧
    decodeWord 0x80040B82 = some (.iaLea4 h0 (.g 23) (.g 2)) := by decide
theorem test_decode_vector : decodeWord 0x0013F63A =
      some (.vpfx { mask := 3, mz := false, rm := 1, x := true, v4 := 5, sat := false }) ∧
    decodeWord 0x8191152B = some (.vxFma h0 1 (.v 2) (.v 3)) ∧ decodeWord 0x8194D540 = some (.vxCmplt h0 1 (.v 2) (.imm 0)) ∧
    decodeWord 0x00130801 = some (.vset h0 (.imm 1)) := by decide
theorem test_decode_matrix : decodeWord 0x0014D8A3 = some (.mxMmaM64n64k32Bf16 h0 0 (.imm 0xA3)) ∧
    decodeWord 0x00D42004 = some (.mxLdaBf16 h0 3 (.g 4)) ∧ decodeWord 0x03D40840 = some (.mxLease h0 15 (.imm 64)) := by decide
theorem test_decode_load_store : decodeWord 0x02198004 = some (.lsLd64 h0 8 0 (.g 4)) ∧ decodeWord 0x001A0004 = some (.lsSt8 h0 0 (.g 4)) ∧
    decodeWord 0x001A8FFF = some (.movLsD h0 (.imm (-1))) ∧ decodeWord 0x001A5004 = some (.lsPf h0 (.g 4)) ∧
    decodeWord 0x00315001 = some (.qsWrite h0 5 (.g 1)) := by decide
theorem test_decode_atomics_engine : decodeWord 0x401DB005 = some (.movAtO hL (.g 5)) ∧
    decodeWord 0x011CC008 = some (.atCas64 h0 4 (.g 8)) ∧ decodeWord 0x001D4004 = some (.atAset h0 2 (.g 4)) ∧
    decodeWord 0x0021C003 = some (.movCeS h0 (.g 3)) ∧ decodeWord 0x00216800 = some (.ceCopyq h0 2) := by decide
theorem test_decode_queues : decodeWord 0x00A40005 = some (.sqPush h0 2 (.g 5)) ∧ decodeWord 0x00243864 = some (.sqPopw h0 0 100) ∧
    decodeWord 0x00247813 = some (.sqRqpush h0 0 2 (.imm 19)) ∧ decodeWord 0x0124B006 = some (.sqSpawn h0 4 (.g 6)) ∧
    decodeWord 0x00A4C009 = some (.sqDec h0 2 (.g 9)) ∧ decodeWord 0x0024D800 = some (.sqDone h0) := by decide
theorem test_decode_sync : decodeWord 0x00A81005 = some (.syArrive h0 2 (.g 5)) ∧ decodeWord 0x00287007 = some (.syMon h0 0 1 (.g 7)) ∧
    decodeWord 0x0028E003 = some (.movSyB h0 (.g 3)) := by decide
theorem test_decode_control : decodeWord 0x002C1814 = some (.ctCall h0 20) ∧ decodeWord 0x002CF002 = some (.ctResume h0 (.g 2)) ∧
    decodeWord 0x00EC980C = some (.ctIpf h0 3 (.imm 12)) ∧ decodeWord 0x002CA800 = some (.ctEfence h0) ∧
    decodeWord 0x002C4800 = some (.ctChunk h0) := by decide
theorem test_decode_system : decodeWord 0x00342004 = some (.writeAlarm h0 (.g 4)) ∧ decodeWord 0x00348005 = some (.srWrite h0 8 (.g 5)) ∧
    decodeWord 0x00F7D007 = some (.srTlbinv h0 3 (.g 7)) := by decide

/-- A lone word guarded by G = 5. -/
def hT : Hdr := { lone := true, guard := 5 }

/-! Each word row of spec/opcode_table.json: its fixed bits with L = 1, G = 5 and the operand fields filled in, against its
constructor with those operands. -/

theorem test_decode_all_other : ([(0x54018005, .movPw hT (.g 5)),
    (0x54019005, .movVt hT (.g 5)),
    (0x5407F005, .movIaO hT (.g 5)),
    (0x540BF005, .movIbO hT (.g 5)),
    (0x540FF005, .movFaO hT (.g 5)),
    (0x5415E005, .movMxA hT (.g 5)),
    (0x5415F005, .movMxB hT (.g 5)),
    (0x541A8005, .movLsD hT (.g 5)),
    (0x541DB005, .movAtO hT (.g 5)),
    (0x5421C005, .movCeS hT (.g 5)),
    (0x5421D005, .movCeD hT (.g 5)),
    (0x5421E005, .movCeN hT (.g 5)),
    (0x5421F005, .movCeB hT (.g 5)),
    (0x54220005, .movCeM hT (.g 5)),
    (0x5424E005, .movSqD hT (.g 5)),
    (0x5424F005, .movSqH hT (.g 5)),
    (0x5428D005, .movSyA hT (.g 5)),
    (0x5428E005, .movSyB hT (.g 5)),
    (0x5428F005, .movSyL hT (.g 5)),
    (0x55902005, .vld hT 6 2 (.g 5)),
    (0x5590A005, .vst hT 6 2 (.g 5)),
    (0x55912005, .vlds hT 6 2 (.g 5)),
    (0x5591A005, .vsts hT 6 2 (.g 5)),
    (0x55922005, .vgth hT 6 2 (.g 5)),
    (0x5592A005, .vsct hT 6 2 (.g 5)),
    (0x54130005, .vset hT (.g 5)),
    (0x54342005, .writeAlarm hT (.g 5)),
    (0x5434B005, .writeRedpin hT (.g 5)),
    (0x5434D005, .writeRng hT (.g 5))] : List (Word32 × Instr)).all
      (fun p => decide (decodeWord p.1 = some p.2)) = true := by decide
theorem test_decode_all_ce : ([(0x54003400, .ceCPop hT 3),
    (0x54202800, .ceCopy hT 2),
    (0x54206800, .ceCopy2d hT 2),
    (0x5420A800, .ceMcast hT 2),
    (0x5420E800, .ceRedb hT 2),
    (0x54212800, .ceRedf hT 2),
    (0x54216800, .ceCopyq hT 2),
    (0x5421A800, .ceCopyb hT 2)] : List (Word32 × Instr)).all
      (fun p => decide (decodeWord p.1 = some p.2)) = true := by decide
theorem test_decode_all_ia_1 : ([(0xD4000187, .iaAdd hT (.g 3) (.g 7)),
    (0x54040005, .iaAddC hT (.g 5)),
    (0xD4004187, .iaSub hT (.g 3) (.g 7)),
    (0x54041005, .iaSubC hT (.g 5)),
    (0xD4008187, .iaAnd hT (.g 3) (.g 7)),
    (0x54042005, .iaAndC hT (.g 5)),
    (0xD400C187, .iaOr hT (.g 3) (.g 7)),
    (0x54043005, .iaOrC hT (.g 5)),
    (0xD4010187, .iaXor hT (.g 3) (.g 7)),
    (0x54044005, .iaXorC hT (.g 5)),
    (0xD4014187, .iaAndn hT (.g 3) (.g 7)),
    (0x54045005, .iaAndnC hT (.g 5)),
    (0xD4018187, .iaShl hT (.g 3) (.g 7)),
    (0x54046005, .iaShlC hT (.g 5)),
    (0xD401C187, .iaShr hT (.g 3) (.g 7)),
    (0x54047005, .iaShrC hT (.g 5)),
    (0xD4020187, .iaSar hT (.g 3) (.g 7)),
    (0x54048005, .iaSarC hT (.g 5)),
    (0xD4024187, .iaRotl hT (.g 3) (.g 7)),
    (0x54049005, .iaRotlC hT (.g 5)),
    (0xD4028187, .iaMin hT (.g 3) (.g 7)),
    (0x5404A005, .iaMinC hT (.g 5)),
    (0xD402C187, .iaMax hT (.g 3) (.g 7)),
    (0x5404B005, .iaMaxC hT (.g 5)),
    (0xD4030187, .iaMinu hT (.g 3) (.g 7)),
    (0x5404C005, .iaMinuC hT (.g 5)),
    (0xD4034187, .iaMaxu hT (.g 3) (.g 7)),
    (0x5404D005, .iaMaxuC hT (.g 5)),
    (0xD4038187, .iaLea1 hT (.g 3) (.g 7)),
    (0x5404E005, .iaLea1C hT (.g 5)),
    (0xD403C187, .iaLea2 hT (.g 3) (.g 7)),
    (0x5404F005, .iaLea2C hT (.g 5)),
    (0xD4040187, .iaLea4 hT (.g 3) (.g 7)),
    (0x54050005, .iaLea4C hT (.g 5)),
    (0xD4044187, .iaLea8 hT (.g 3) (.g 7)),
    (0x54051005, .iaLea8C hT (.g 5)),
    (0xD40481C0, .iaSext8 hT (.g 3)),
    (0x54052800, .iaSext8C hT),
    (0xD404C1C0, .iaSext16 hT (.g 3)),
    (0x54053800, .iaSext16C hT)] : List (Word32 × Instr)).all
      (fun p => decide (decodeWord p.1 = some p.2)) = true := by decide
theorem test_decode_all_ia_2 : ([(0xD40501C0, .iaSext32 hT (.g 3)),
    (0x54054800, .iaSext32C hT),
    (0xD40541C0, .iaZext8 hT (.g 3)),
    (0x54055800, .iaZext8C hT),
    (0xD40581C0, .iaZext16 hT (.g 3)),
    (0x54056800, .iaZext16C hT),
    (0xD405C1C0, .iaZext32 hT (.g 3)),
    (0x54057800, .iaZext32C hT),
    (0xD40601C0, .iaClz hT (.g 3)),
    (0x54058800, .iaClzC hT),
    (0xD40641C0, .iaCtz hT (.g 3)),
    (0x54059800, .iaCtzC hT),
    (0xD40681C0, .iaPopc hT (.g 3)),
    (0x5405A800, .iaPopcC hT),
    (0xD406C1C0, .iaBswap hT (.g 3)),
    (0x5405B800, .iaBswapC hT),
    (0xD4370187, .iaCmpeq hT 3 (.g 3) (.g 7)),
    (0x5405C005, .iaCmpeqC hT (.g 5)),
    (0xD4374187, .iaCmpne hT 3 (.g 3) (.g 7)),
    (0x5405D005, .iaCmpneC hT (.g 5)),
    (0xD4378187, .iaCmplt hT 3 (.g 3) (.g 7)),
    (0x5405E005, .iaCmpltC hT (.g 5)),
    (0xD437C187, .iaCmpltu hT 3 (.g 3) (.g 7)),
    (0x5405F005, .iaCmpltuC hT (.g 5)),
    (0xD4380187, .iaCmple hT 3 (.g 3) (.g 7)),
    (0x54060005, .iaCmpleC hT (.g 5)),
    (0xD4384187, .iaCmpleu hT 3 (.g 3) (.g 7)),
    (0x54061005, .iaCmpleuC hT (.g 5)),
    (0xD4088187, .iaSel hT (.g 3) (.g 7)),
    (0x54062005, .iaSelC hT (.g 5)),
    (0xD408C187, .iaSettag hT (.g 3) (.g 7)),
    (0x54063005, .iaSettagC hT (.g 5)),
    (0xD40901C0, .iaGettag hT (.g 3)),
    (0x54064800, .iaGettagC hT),
    (0xD4094187, .iaTile hT (.g 3) (.g 7)),
    (0x54065005, .iaTileC hT (.g 5)),
    (0xD4098187, .iaGown hT (.g 3) (.g 7)),
    (0x54066005, .iaGownC hT (.g 5)),
    (0xD439E0C2, .iaPand hT 3 1 2),
    (0xD43A20C2, .iaPor hT 3 1 2)] : List (Word32 × Instr)).all
      (fun p => decide (decodeWord p.1 = some p.2)) = true := by decide
theorem test_decode_all_ia_3 : ([(0xD43A60C2, .iaPxor hT 3 1 2),
    (0xD43AA0C0, .iaPnot hT 3 1),
    (0xD43AE040, .iaPset hT 3),
    (0xD43B2040, .iaPclr hT 3)] : List (Word32 × Instr)).all
      (fun p => decide (decodeWord p.1 = some p.2)) = true := by decide
theorem test_decode_all_ib : ([(0xD4800187, .ibMul hT (.g 3) (.g 7)),
    (0x54080005, .ibMulC hT (.g 5)),
    (0xD4804187, .ibMulh hT (.g 3) (.g 7)),
    (0x54081005, .ibMulhC hT (.g 5)),
    (0xD4808187, .ibMulhu hT (.g 3) (.g 7)),
    (0x54082005, .ibMulhuC hT (.g 5)),
    (0xD480C187, .ibDiv hT (.g 3) (.g 7)),
    (0x54083005, .ibDivC hT (.g 5)),
    (0xD4810187, .ibDivu hT (.g 3) (.g 7)),
    (0x54084005, .ibDivuC hT (.g 5)),
    (0xD4814187, .ibRem hT (.g 3) (.g 7)),
    (0x54085005, .ibRemC hT (.g 5)),
    (0xD4818187, .ibRemu hT (.g 3) (.g 7)),
    (0x54086005, .ibRemuC hT (.g 5)),
    (0xD481C187, .ibMulacc hT (.g 3) (.g 7)),
    (0x54087005, .ibMulaccC hT (.g 5)),
    (0xD4820187, .ibCrc32c hT (.g 3) (.g 7)),
    (0x54088005, .ibCrc32cC hT (.g 5))] : List (Word32 × Instr)).all
      (fun p => decide (decodeWord p.1 = some p.2)) = true := by decide
theorem test_decode_all_fa_1 : ([(0xD5000187, .faFadd hT (.g 3) (.g 7)),
    (0x540C0005, .faFaddC hT (.g 5)),
    (0xD5004187, .faFsub hT (.g 3) (.g 7)),
    (0x540C1005, .faFsubC hT (.g 5)),
    (0xD5008187, .faFmul hT (.g 3) (.g 7)),
    (0x540C2005, .faFmulC hT (.g 5)),
    (0xD500C187, .faFma hT (.g 3) (.g 7)),
    (0x540C3005, .faFmaC hT (.g 5)),
    (0xD5010187, .faFmin hT (.g 3) (.g 7)),
    (0x540C4005, .faFminC hT (.g 5)),
    (0xD5014187, .faFmax hT (.g 3) (.g 7)),
    (0x540C5005, .faFmaxC hT (.g 5)),
    (0xD50181C0, .faFabs hT (.g 3)),
    (0x540C6800, .faFabsC hT),
    (0xD501C1C0, .faFneg hT (.g 3)),
    (0x540C7800, .faFnegC hT),
    (0xD5320187, .faFcmpeq hT 3 (.g 3) (.g 7)),
    (0x540C8005, .faFcmpeqC hT (.g 5)),
    (0xD5324187, .faFcmplt hT 3 (.g 3) (.g 7)),
    (0x540C9005, .faFcmpltC hT (.g 5)),
    (0xD5328187, .faFcmple hT 3 (.g 3) (.g 7)),
    (0x540CA005, .faFcmpleC hT (.g 5)),
    (0xD532C187, .faFcmpun hT 3 (.g 3) (.g 7)),
    (0x540CB005, .faFcmpunC hT (.g 5)),
    (0xD5030187, .faFdiv hT (.g 3) (.g 7)),
    (0x540CC005, .faFdivC hT (.g 5)),
    (0xD50341C0, .faFsqrt hT (.g 3)),
    (0x540CD800, .faFsqrtC hT),
    (0xD50381C0, .faFrcp hT (.g 3)),
    (0x540CE800, .faFrcpC hT),
    (0xD503C1C0, .faFrsq hT (.g 3)),
    (0x540CF800, .faFrsqC hT),
    (0xD5040187, .faCvtif hT (.g 3) (.g 7)),
    (0x540D0005, .faCvtifC hT (.g 5)),
    (0xD5044187, .faCvtfi hT (.g 3) (.g 7)),
    (0x540D1005, .faCvtfiC hT (.g 5)),
    (0xD50481C0, .faTobf16 hT (.g 3)),
    (0x540D2800, .faTobf16C hT),
    (0xD504C1C0, .faFrombf16 hT (.g 3)),
    (0x540D3800, .faFrombf16C hT)] : List (Word32 × Instr)).all
      (fun p => decide (decodeWord p.1 = some p.2)) = true := by decide
theorem test_decode_all_fa_2 : ([(0xD50501C0, .faToe4m3 hT (.g 3)),
    (0x540D4800, .faToe4m3C hT),
    (0xD50541C0, .faFromqn4 hT (.g 3)),
    (0x540D5800, .faFromqn4C hT),
    (0xD5058187, .faScl hT (.g 3) (.g 7)),
    (0x540D6005, .faSclC hT (.g 5))] : List (Word32 × Instr)).all
      (fun p => decide (decodeWord p.1 = some p.2)) = true := by decide
theorem test_decode_all_vx_1 : ([(0xD5B00187, .vxAdd hT 3 (.g 3) (.g 7)),
    (0xD5B04187, .vxSub hT 3 (.g 3) (.g 7)),
    (0xD5B08187, .vxMul hT 3 (.g 3) (.g 7)),
    (0xD5B0C187, .vxMulh hT 3 (.g 3) (.g 7)),
    (0xD5B10187, .vxFma hT 3 (.g 3) (.g 7)),
    (0xD5B14187, .vxFms hT 3 (.g 3) (.g 7)),
    (0xD5B18187, .vxNfma hT 3 (.g 3) (.g 7)),
    (0xD5B1C187, .vxMin hT 3 (.g 3) (.g 7)),
    (0xD5B20187, .vxMax hT 3 (.g 3) (.g 7)),
    (0xD5B241C0, .vxAbs hT 3 (.g 3)),
    (0xD5B281C0, .vxNeg hT 3 (.g 3)),
    (0xD5B2C187, .vxAnd hT 3 (.g 3) (.g 7)),
    (0xD5B30187, .vxOr hT 3 (.g 3) (.g 7)),
    (0xD5B34187, .vxXor hT 3 (.g 3) (.g 7)),
    (0xD5B38187, .vxShl hT 3 (.g 3) (.g 7)),
    (0xD5B3C187, .vxShr hT 3 (.g 3) (.g 7)),
    (0xD5B40187, .vxSar hT 3 (.g 3) (.g 7)),
    (0xD5B44187, .vxCmpeq hT 3 (.g 3) (.g 7)),
    (0xD5B48187, .vxCmpne hT 3 (.g 3) (.g 7)),
    (0xD5B4C187, .vxCmplt hT 3 (.g 3) (.g 7)),
    (0xD5B50187, .vxCmple hT 3 (.g 3) (.g 7)),
    (0xD5B54187, .vxSel hT 3 (.g 3) (.g 7)),
    (0xD5B581C0, .vxCvt hT 3 (.g 3)),
    (0xD5B5C187, .vxWadd hT 3 (.g 3) (.g 7)),
    (0xD5B60187, .vxWmul hT 3 (.g 3) (.g 7)),
    (0xD5B654C0, .vxNarrow hT 3 1),
    (0xD58681C0, .vxSum hT (.g 3)),
    (0xD586C1C0, .vxMaxr hT (.g 3)),
    (0xD58701C0, .vxMinr hT (.g 3)),
    (0xD5B74187, .vxPerm hT 3 (.g 3) (.g 7)),
    (0xD5B78187, .vxShuf hT 3 (.g 3) (.g 7)),
    (0xD5B7C187, .vxBcast hT 3 (.g 3) (.g 7)),
    (0xD5B80187, .vxSlide hT 3 (.g 3) (.g 7)),
    (0xD5B854C0, .vxXchg hT 3 1),
    (0xD5B89487, .vxSexp hT 3 1 (.g 7)),
    (0xD5B8C187, .vxSacc hT 3 (.g 3) (.g 7)),
    (0xD5B914C2, .vxDecq hT 3 1 2),
    (0xD5B954C2, .vxEncq hT 3 1 2),
    (0xD5B981C0, .vxExp2 hT 3 (.g 3)),
    (0xD5B9C1C0, .vxLog2 hT 3 (.g 3))] : List (Word32 × Instr)).all
      (fun p => decide (decodeWord p.1 = some p.2)) = true := by decide
theorem test_decode_all_vx_2 : ([(0xD5BA01C0, .vxRcp hT 3 (.g 3)),
    (0xD5BA41C0, .vxRsq hT 3 (.g 3)),
    (0xD5BA81C0, .vxTanh hT 3 (.g 3)),
    (0xD58AE0C0, .vxPopcm hT 1),
    (0xD5BB0187, .vxIota hT 3 (.g 3) (.g 7)),
    (0xD5BB60C0, .vxMmov hT 3 1)] : List (Word32 × Instr)).all
      (fun p => decide (decodeWord p.1 = some p.2)) = true := by decide
theorem test_decode_all_mx : ([(0x55940005, .mxLease hT 6 (.g 5)),
    (0x54141800, .mxFree hT),
    (0x55942005, .mxLdaBf16 hT 6 (.g 5)),
    (0x55943005, .mxLdaE4m3 hT 6 (.g 5)),
    (0x55944005, .mxLdaE5m2 hT 6 (.g 5)),
    (0x55945005, .mxLdaI8 hT 6 (.g 5)),
    (0x55946005, .mxLdaF32 hT 6 (.g 5)),
    (0x55947005, .mxLdbBf16 hT 6 (.g 5)),
    (0x55948005, .mxLdbE4m3 hT 6 (.g 5)),
    (0x55949005, .mxLdbE5m2 hT 6 (.g 5)),
    (0x5594A005, .mxLdbI8 hT 6 (.g 5)),
    (0x5594B005, .mxLdbF32 hT 6 (.g 5)),
    (0x5594C005, .mxLdbQn4 hT 6 (.g 5)),
    (0x5594D005, .mxMmaM64n64k32Bf16 hT 6 (.g 5)),
    (0x5594E005, .mxMmaM32n64k32Bf16 hT 6 (.g 5)),
    (0x5594F005, .mxMmaM16n64k32Bf16 hT 6 (.g 5)),
    (0x55950005, .mxMmaM64n64k64E4m3 hT 6 (.g 5)),
    (0x55951005, .mxMmaM64n64k64E5m2 hT 6 (.g 5)),
    (0x55952005, .mxMmaM64n64k64Mix8 hT 6 (.g 5)),
    (0x55953005, .mxMmaM64n64k64I8 hT 6 (.g 5)),
    (0x55954005, .mxMmaM64n64k64Qn4 hT 6 (.g 5)),
    (0x55955005, .mxMmaM16n64k64Qn4 hT 6 (.g 5)),
    (0x55956005, .mxMmaM64n64k8F32 hT 6 (.g 5)),
    (0x55957005, .mxChainBf16 hT 6 (.g 5)),
    (0x55958005, .mxChainE4m3 hT 6 (.g 5)),
    (0x55959005, .mxDrain hT 6 (.g 5)),
    (0x5595A005, .mxDrainv hT 6 (.g 5)),
    (0x5595B005, .mxZero hT 6 (.g 5)),
    (0x5595C005, .mxChk hT 6 (.g 5)),
    (0x5595D005, .mxInject hT 6 (.g 5))] : List (Word32 × Instr)).all
      (fun p => decide (decodeWord p.1 = some p.2)) = true := by decide
theorem test_decode_all_ls : ([(0x55982005, .lsLd8s hT 6 2 (.g 5)),
    (0x55986005, .lsLd8u hT 6 2 (.g 5)),
    (0x5598A005, .lsLd16s hT 6 2 (.g 5)),
    (0x5598E005, .lsLd16u hT 6 2 (.g 5)),
    (0x55992005, .lsLd32s hT 6 2 (.g 5)),
    (0x55996005, .lsLd32u hT 6 2 (.g 5)),
    (0x5599A005, .lsLd64 hT 6 2 (.g 5)),
    (0x5599E005, .lsLdp hT 6 2 (.g 5)),
    (0x559A0005, .lsSt8 hT 6 (.g 5)),
    (0x559A1005, .lsSt16 hT 6 (.g 5)),
    (0x559A2005, .lsSt32 hT 6 (.g 5)),
    (0x559A3005, .lsSt64 hT 6 (.g 5)),
    (0x559A4005, .lsStp hT 6 (.g 5)),
    (0x541A5005, .lsPf hT (.g 5))] : List (Word32 × Instr)).all
      (fun p => decide (decodeWord p.1 = some p.2)) = true := by decide
theorem test_decode_all_at : ([(0x559C0005, .atAdd32 hT 6 (.g 5)),
    (0x559C1005, .atAdd64 hT 6 (.g 5)),
    (0x559C2005, .atFadd32 hT 6 (.g 5)),
    (0x559C3005, .atFadd16b hT 6 (.g 5)),
    (0x559C4005, .atMin32 hT 6 (.g 5)),
    (0x559C5005, .atMax32 hT 6 (.g 5)),
    (0x559C6005, .atMinu32 hT 6 (.g 5)),
    (0x559C7005, .atMaxu32 hT 6 (.g 5)),
    (0x559C8005, .atAnd64 hT 6 (.g 5)),
    (0x559C9005, .atOr64 hT 6 (.g 5)),
    (0x559CA005, .atXor64 hT 6 (.g 5)),
    (0x559CB005, .atSwp64 hT 6 (.g 5)),
    (0x559CC005, .atCas64 hT 6 (.g 5)),
    (0x559CD005, .atFinc hT 6 (.g 5)),
    (0x559CE005, .atRedAdd32 hT 6 (.g 5)),
    (0x559CF005, .atRedAdd64 hT 6 (.g 5)),
    (0x559D0005, .atRedFadd32 hT 6 (.g 5)),
    (0x559D1005, .atRedFadd16b hT 6 (.g 5)),
    (0x559DA800, .atTok hT 6)] : List (Word32 × Instr)).all
      (fun p => decide (decodeWord p.1 = some p.2)) = true := by decide
theorem test_decode_all_sq : ([(0x55A40005, .sqPush hT 6 (.g 5)),
    (0x55A41005, .sqPop hT 6 (.g 5)),
    (0x55A42005, .sqPeek hT 6 (.g 5)),
    (0x55A43802, .sqPopw hT 6 2),
    (0x55A44802, .sqPushw hT 6 2),
    (0x55A49800, .sqRqpop hT 6),
    (0x55A4A005, .sqRqprio hT 6 (.g 5)),
    (0x55A4B005, .sqSpawn hT 6 (.g 5)),
    (0x55A4C005, .sqDec hT 6 (.g 5)),
    (0x5424D800, .sqDone hT)] : List (Word32 × Instr)).all
      (fun p => decide (decodeWord p.1 = some p.2)) = true := by decide
theorem test_decode_all_sy : ([(0x55A80005, .syBinit hT 6 (.g 5)),
    (0x55A81005, .syArrive hT 6 (.g 5)),
    (0x55A82005, .syArrivb hT 6 (.g 5)),
    (0x55A83005, .syWait hT 6 (.g 5)),
    (0x55A84005, .syTest hT 6 (.g 5)),
    (0x55A85005, .syInval hT 6 (.g 5)),
    (0x55A8A809, .syUnmon hT 6 9),
    (0x55A8B800, .syMwait hT 6),
    (0x55A8C800, .syGbar hT 6)] : List (Word32 × Instr)).all
      (fun p => decide (decodeWord p.1 = some p.2)) = true := by decide
theorem test_decode_all_ct : ([(0x542C0864, .ctBr hT 100),
    (0x542C0005, .ctBrAbs hT (.g 5)),
    (0x542C1864, .ctCall hT 100),
    (0x542C1005, .ctCallAbs hT (.g 5)),
    (0x542C201B, .ctRet hT),
    (0x542C3005, .ctJmp hT (.g 5)),
    (0x542C4800, .ctChunk hT),
    (0x542C5800, .ctYield hT),
    (0x542C6800, .ctHalt hT),
    (0x542C7005, .ctTrap hT (.g 5)),
    (0x542C8800, .ctNop hT),
    (0x55AC9005, .ctIpf hT 6 (.g 5)),
    (0x542CA800, .ctEfence hT),
    (0x542CB005, .ctSstop hT (.g 5)),
    (0x542CC005, .ctSgo hT (.g 5)),
    (0x542CD005, .ctSsave hT (.g 5)),
    (0x542CE005, .ctSload hT (.g 5)),
    (0x542CF005, .ctResume hT (.g 5))] : List (Word32 × Instr)).all
      (fun p => decide (decodeWord p.1 = some p.2)) = true := by decide
theorem test_decode_all_qs : ([(0x54303005, .qsBind hT 3 (.g 5)),
    (0x54308803, .qsUnbind hT 3),
    (0x54313005, .qsWrite hT 3 (.g 5))] : List (Word32 × Instr)).all
      (fun p => decide (decodeWord p.1 = some p.2)) = true := by decide
theorem test_decode_all_sr : ([(0x55B7D005, .srTlbinv hT 6 (.g 5)),
    (0x55B7E800, .srPfence hT 6),
    (0x55B7F005, .srAckfloor hT 6 (.g 5))] : List (Word32 × Instr)).all
      (fun p => decide (decodeWord p.1 = some p.2)) = true := by decide

/-! ## Steps -/

/-- The state that a step leaves, where it leaves one. -/
noncomputable def after (s : State) : Option State :=
  match step s with
  | .next t => some t
  | _ => none

/-- The state after the first step of a reset machine that runs the word `w`. -/
noncomputable def ran (w : Nat) : Option State := after (State.reset.withFetchWord 32 w)

/-- `ldi g9, 1` writes its register in the one step. -/
theorem test_step_ldi : (ran 0x40392001).map (fun t => (t.strand 0).ctx.g[9].val) = some 1 := by decide
/-- `ia.add ia.o, 700` of a zero operand: ia.r is 700 in the next bundle (R31, R93). -/
theorem test_step_ia_add : (ran 0x00040ABC).map (fun t => ((t.strand 0).ctx.latch .iaR).val) = some 700 := by decide

/-- A strand whose g4 and g5 hold `a` and `b`. -/
def regs (a b : Reg80) : State :=
  State.reset.updCtx fun c => (c.setG 4 { v := a, p := false }).setG 5 { v := b, p := false }

/-- What an instruction puts in flight. -/
def acts (i : Instr) (s : State) : List (List Wr) :=
  match exec i s with
  | .next t => t.me.ctx.flights.map (·.acts)
  | _ => []

/-- The examples of R93: the tag follows O. -/
theorem test_lea8_keeps_tag : acts (.iaLea8 h0 (.g 4) (.g 5)) (regs (make 0x0200 0x1000) (make 0 0x10)) =
    [[.latch .iaR { v := make 0x0200 0x1080, p := false }]] := by decide
theorem test_add_takes_tag_of_o : acts (.iaAdd h0 (.g 5) (.g 4)) (regs (make 0x0200 0x1000) (make 0 0x10)) =
    [[.latch .iaR { v := make 0 0x1010, p := false }]] := by decide
/-- The example of R97. -/
theorem test_tile_pointer : acts (.iaTile h0 (.g 4) (.g 5)) (regs (make 0 0x400) (make 0 0x50E)) =
    [[.latch .iaR { v := make 0x0100 0x50E00400, p := false }]] := by decide
/-- The example of R98: line 18,433 of a full partition belongs to core 6,578. -/
theorem test_gown_example : acts (.iaGown h0 (.g 4) (.g 5)) (regs (make 0x0200 0x240080) (make 0 18432)) =
    [[.latch .iaR { v := make 0 6578, p := false }]] := by decide
/-- R93: a shift by 64 or more gives 0, a rotate reduces its count. -/
theorem test_shl_by_64 : acts (.iaShl h0 (.g 4) (.g 5)) (regs (make 0 3) (make 0 64)) = [[.latch .iaR (mk0 0 false)]] := by decide
theorem test_rotl_by_65 : acts (.iaRotl h0 (.g 4) (.g 5)) (regs (make 0 0x8000000000000001) (make 0 65)) =
    [[.latch .iaR (mk0 3 false)]] := by decide
/-- R101: division by 0, and the quotient that overflows. -/
theorem test_div_by_zero : acts (.ibDiv h0 (.g 4) (.g 5)) (regs (make 0 7) (make 0 0)) =
    [[.latch .ibR (mk0 0xFFFFFFFFFFFFFFFF false)]] := by decide
theorem test_div_overflow : acts (.ibDiv h0 (.g 4) (.g 5)) (regs (make 0 0x8000000000000000) (make 0 0xFFFFFFFFFFFFFFFF)) =
    [[.latch .ibR (mk0 0x8000000000000000 false)]] := by decide
/-- The published check value of CRC-32C over the nine bytes of R102's example, before its inversion. -/
theorem test_crc32c_check : vCrc (0x100000000 + vCrc 0xFFFFFFFF 0x3837363534333231) 0x39 =
    (~~~ (0xE3069283#32)).setWidth 64 := by
  decide
/-- The examples of R106: 2.5 rounds to even with NX. -/
theorem test_cvtfi_2_5 : acts (.faCvtfi h0 (.g 4) (.g 5)) (regs (make 0 0x30) (make 0 0x40200000)) =
    [[.latch .faR (mk0 2 false), .fx 1]] := by decide
/-- The first example of R108: 0.5 scaled by 127 gives 0.25. -/
theorem test_scl_half : acts (.faScl h0 (.g 4) (.g 5)) (regs (make 0 0x3F000000) (make 0 127)) =
    [[.latch .faR (mk0 0x3E800000 false)]] := by decide

/-! ## Worked values of the spec outside the instructions -/

/-- The filter positions of row key 0x0300_01A3 (R356). -/
theorem test_filter_bits : filterBits 0x030001A3 = [254, 911, 587] := by decide
/-- The router words of the programs of sections 19 and 20 (Table 15-5). -/
theorem test_router_words : (entryFor 0 0 #v[0, 1, 2, 3]).word = 0x0000000688000000 ∧
    (RouterEntry.word { entryFor 0 0 #v[0, 1, 4, 3] with ver := 3 }) = 0x0300000708000000 ∧
    (RouterEntry.word { entryFor 0 19 #v[0, 4, 2, 3] with ver := 1 }) = 0x01001306A0000000 := by decide

/-! ## Witnesses: states and operands that meet the hypotheses of the obligations, named after them -/

/-- A live partition of the whole module: strand `n` of its core 0 runs, as the supervisor, kernel (`n` = 0) or user strand. -/
def live (sup : Bool) (n : Nat) : State :=
  let s := State.reset.placeWord 0
  let s := s.updCore 0 fun c => { c with sup := sup }
  { (s.updStrand n fun _ => s.strand 0) with cur := n }

/-- The same with a register that all operands are read from. -/
def with4 (s : State) (r : Reg) : State := s.updCtx fun c => c.setG 4 r

/-- An unpoisoned register with tag 0. -/
def num (v : BitVec 64) : Reg := mk0 v false

theorem modes : (live true 0).mode 0 = .supervisor ∧ (live false 0).mode 0 = .kernel ∧ (live false 1).mode 1 = .user := by decide

theorem reads_c (s : State) (n : Fin 24) : ReadsC s (.g n) (s.ctx.greg n) s := fun _ => rfl
theorem reads_a (s : State) (n : Fin 24) : ReadsA s (.g n) (s.ctx.greg n) s := fun _ => rfl
theorem reads_v (s : State) (n : Fin 8) : ReadsV s (.v n) (.vec s.ctx.v[n]) s := fun _ => rfl

/-- Both forms of a scalar operation: an unguarded word whose sources are two registers, or one and the operand latch. -/
theorem witness_scalar_forms : ∃ (s : State) (a b : Reg), guardTrue s.ctx h0.guard = true ∧ ReadsA s (.g 4) a s ∧ ReadsA s (.g 5) b s ∧
    ReadsC s (.g 5) b s ∧ s.ctx.latch .iaO = a ∧ s.ctx.stale.getLsbD Latch.faO.idx.val = false ∧
    (s.consume .faO).ctx.stale.getLsbD Latch.faO.idx.val = true :=
  ⟨State.reset, State.reset.ctx.greg 4, State.reset.ctx.greg 5, by decide, reads_a _ 4, reads_a _ 5, reads_c _ 5, by decide, by decide, by decide⟩

/-- Every operation is admitted with its types under some `vt`, and most are refused under another. -/
theorem witness_vector_types :
    ([.add, .sub, .mul, .mulh, .fma, .fms, .nfma, .min, .max, .abs, .neg, .and, .or, .xor, .shl, .shr, .sar, .cmpeq, .cmpne, .cmplt,
      .cmple, .cvt, .wadd, .wmul, .narrow, .sum, .maxr, .minr, .perm, .shuf, .bcast, .slide, .sexp, .sacc, .decq, .encq, .exp2, .log2,
      .rcp, .rsq, .tanh, .popcm, .iota, .mmov] : List VOp).all (fun op => prefixOk op noPrefix &&
        (List.range 15).any fun e => (List.range 15).any fun w =>
        vtOk (BitVec.ofNat 64 (e + 128 * w)) && vecTypeOk op (BitVec.ofNat 64 (e + 128 * w)) noPrefix 0 0) = true := by decide
/-- `sel` needs a mask, which its prefix gives. -/
theorem witness_sel : prefixOk .sel { noPrefix with mask := 1 } = true ∧ prefixOk .sel noPrefix = false := by decide
theorem witness_vector_capture : ∃ s, Admits .add h0 s 0 0 ∧ PoolFree s (vecDests .add s.ctx.vt 0) ∧ ReadsV s (.v 1) (.vec s.ctx.v[1]) s :=
  ⟨live true 0, by unfold Admits; decide, by unfold PoolFree; decide, reads_v _ 1⟩
/-- A prefix field that an operation does not admit, and types that it does not permit. -/
theorem witness_vector_faults : (∃ s, prefixOk .and (activePrefix s) = false) ∧
    (∃ s, prefixOk .mulh (activePrefix s) = true ∧ guardTrue s.ctx h0.guard = true ∧ vecTypeOk .mulh s.ctx.vt (activePrefix s) 0 0 = false) :=
  ⟨⟨(live true 0).updMe fun x => { x with prefixed := some { noPrefix with sat := true } }, by decide⟩, ⟨live true 0, by decide⟩⟩
theorem witness_superscales : goodSuper 0x3F000000 = true ∧ goodSuper 1 = false := by decide

/-- Each size of scalar access, at the lowest and at the last bytes of the local store. -/
theorem witness_local_access : (∀ n ∈ [1, 2, 4, 8, 16], n ≠ 0) ∧
    Reaches (live true 0) (num 0) 1 1 false true [(localFlat 0 0, 1)] (live true 0) ∧
    Reaches (live true 0) (num 0xFFFFE) 2 2 true true [(localFlat 0 0xFFFFE, 2)] (live true 0) ∧
    Reaches (live true 0) (num 0x400) 4 4 false true [(localFlat 0 0x400, 4)] (live true 0) ∧
    Reaches (live true 0) (num 0xFFFF8) 8 8 true true [(localFlat 0 0xFFFF8, 8)] (live true 0) ∧
    Reaches (live true 0) (num 0x10) 16 16 false false [(localFlat 0 0x10, 16)] (live true 0) ∧
    WindowFree (live true 0) 1 ∧ MayStore (live true 0) [(localFlat 0 0x400, 8)] :=
  ⟨by decide, fun _ => rfl, fun _ => rfl, fun _ => rfl, fun _ => rfl, fun _ => rfl, by unfold WindowFree; decide, by unfold MayStore; decide⟩


/-- A vector access of 512 bytes, a mask, and the elements of a stride of 4 bytes and of indices that are all 0. -/
theorem witness_vector_access :
    let s := (live true 0).updCtx fun c => c.setG 23 (num 4)
    let strides := (List.range (etOf s.ctx.vt).n).map fun (i : Nat) => ((num 0x400).val.toNat : Int) + (i : Int) * (s.ctx.greg 23).val.toInt
    let indices := (List.range (etOf s.ctx.vt).n).map fun (i : Nat) =>
      (((num 0x400).val.toNat + elemAt s.ctx.v[(7 : Fin 8)].d (etOf s.ctx.vt).w i * ((etOf s.ctx.vt).w / 8) : Nat) : Int)
    ∃ ps qs rs, 8 ≤ (etOf s.ctx.vt).w ∧ PoolFree s [3] ∧
      Reaches s (num 0x400) 512 128 true false ps s ∧ MayStore s ps ∧
      Reaches s (num 0x400) 128 128 false false [(localFlat 0 0x400, 128)] s ∧
      ReachesAll s (num 0x400) (s.ctx.greg 23).p strides ((etOf s.ctx.vt).w / 8) true qs s ∧ MayStore s qs ∧
      ReachesAll s (num 0x400) s.ctx.v[(7 : Fin 8)].p indices ((etOf s.ctx.vt).w / 8) true rs s ∧ MayStore s rs :=
  ⟨_, _, _, by decide, by unfold PoolFree; decide, fun _ => rfl, by unfold MayStore; decide, fun _ => rfl, fun _ => rfl,
    by unfold MayStore; decide, fun _ => rfl, by unfold MayStore; decide⟩

/-- The executing strand's partition changed. -/
def withPart (s : State) (f : Part → Part) : State := { s with parts := s.parts.put 0 (f (s.part 0)) }

/-- Every clause of a class 0 access at a boundary: a qualifier, the task table in user mode, an unaligned offset, one byte past the
end, a byte of the replicated area, and the last bytes of the store. -/
theorem witness_local_checks : classOf (num 0).v = 0 ∧ qualOf (make 0x0001 0) ≠ 0 ∧
    (let s := withPart (live false 1) fun p => { p with t := 2 }
     s.mode s.cur = .user ∧ offOf (num 127).v < 64 * (s.partOf s.myCk).t ∧ ¬ offOf (num 128).v < 64 * (s.partOf s.myCk).t) ∧
    offOf (num 0x401).v % 8 ≠ 0 ∧ 2 ^ 20 < offOf (num 0xFFFF8).v + 16 ∧ offOf (num 0xFFFF8).v + 8 ≤ 2 ^ 20 ∧
    (let s := withPart (live true 0) fun p => { p with share := 1, h := 3, rs := 1 }
     let share := 2 ^ 20 - (s.partOf s.myCk).shareBytes
     s.privEnd (pidOf s.myCk) < share ∧ share - 1 < share ∧ s.privEnd (pidOf s.myCk) < share - 1 + 1) ∧
    ((live true 0).core (live true 0).myCk).rangeHeld 8191 8191 = false ∧ (live true 0).me.sets.toList.all Option.isNone = true := by decide
/-- A stored byte covers its address and no other. -/
theorem witness_store_seen : let w : SbWrite := { addr := 0x400, data := [7, 8], mark := false }
    (w.addr ≤ 0x401 ∧ 0x401 < w.addr + w.data.length) ∧ (0x3FF < w.addr ∨ w.addr + w.data.length ≤ 0x3FF) := by decide

/-- The descriptor of an out-stream of 8 doublewords at 0x800, as a bind reads it. -/
def descriptor : List Byte := leBytes 8 0x800 ++ List.replicate 2 0 ++ [1] ++ List.replicate 5 0 ++ leBytes 4 8 ++ leBytes 4 1 ++ leBytes 4 1 ++ leBytes 4 1 ++
  leBytes 8 8 ++ List.replicate 24 0
/-- What it binds. -/
def bound : Binding := { base := 0x800, tag := 0, out := true, counts := [8, 1, 1, 1], strides := [8, 0, 0, 0], pos := 0 }
theorem witness_prefetch : (classOf (num 0).v ≠ 3 ∧ classOf (num 0).v ≠ 4) ∧ classOf (make 0x0300 0x1000) = 3 ∧ classOf (make 0x0400 0x1000) = 4 ∧
    qualOf (make 0x0300 0x1000) = 0 ∧ offOf (make 0x0300 0x1000) < 2 ^ 55 := by decide
theorem witness_bind : let s := { live true 0 with mem := memWriteList [] (localFlat 0 0x400) descriptor }
    ReachesHeader s (num 0x400) [(localFlat 0 0x400, 64)] s ∧ (s.readPieces [(localFlat 0 0x400, 64)]).2.2.enginesUsed 0 < 8 ∧
    bindingOf (s.readPieces [(localFlat 0 0x400, 64)]).1 = some bound :=
  ⟨fun _ => rfl, by decide +kernel, by decide +kernel⟩
theorem witness_stream_write : let s := (live true 0).updCtx fun c => { c with binds := c.binds.set 2 (some bound) }
    let t := s.updCtx fun c => { c with binds := c.binds.set 2 (some { bound with pos := 1 }) }
    s.ctx.binds[(2 : Fin 8)] = some bound ∧ bound.out = true ∧ bound.pos < bound.total ∧ bound.pointer = some (make 0 0x800) ∧
    Reaches s { v := make 0 0x800, p := false } 8 8 true false [(localFlat 0 0x800, 8)] s ∧ MayStore t [(localFlat 0 0x800, 8)] :=
  ⟨by decide, by decide, by decide, by decide, fun _ => rfl, by unfold MayStore; decide⟩

/-- A bundle that may start as an effect, one that is held, one that first ends its chunk, and one that already is an effect. -/
theorem witness_effects : (live true 0).me.effIssue = false ∧ (live true 0).me.chunk.len = 0 ∧ (live true 0).me.await = none ∧
    (live true 0).me.effect = none ∧ (live true 0).logWaiting (live true 0).myCk = false ∧
    ((live true 0).updMe fun x => { x with effect := some 0 }).me.effect.isSome = true ∧
    ((live true 0).updMe fun x => { x with chunk := { x.chunk with len := 1 } }).me.chunk.len ≠ 0 ∧
    ((live true 0).updMe fun x => { x with effIssue := true }).me.effIssue = true := by decide
theorem starts_live : Starts (live true 0) ((live true 0).updMe fun x => { x with effIssue := true }) := fun _ => rfl

/-- The executing strand holds its group's lease with 5 commands left; its matrix latches hold `a` and `b`. -/
def leased (s : State) (a b : Reg) : State :=
  (s.updGroup 0 fun g => { g with data := { g.data with holder := some s.cur, leaseLeft := 5 } }).updCtx fun c =>
    { (c.setLatch .mxA a).setLatch .mxB b with mxSt := 5 <<< 48 }

theorem witness_lease : Leased (leased (live true 0) (num 0) (num 128)) ∧ ¬ Leased (live true 0) := by unfold Leased; decide
/-- A lease that may be asked for at both ends of its range, and one that may not. -/
theorem witness_lease_asked : let g := ((live true 0).group (gkOf (live true 0).myCk)).data
    g.holder ≠ some 0 ∧ g.requests = [] ∧ (live true 0).me.ctx.flights = [] ∧ (1 ≤ (num 64).val.toNat ∧ (num 64).val.toNat ≤ 64) ∧
    ¬ 1 ≤ (num 0).val.toNat ∧ ¬ (num 65).val.toNat ≤ 64 := by decide
/-- Slot 15 and 16; the cell (64, 64) of R163, and one past it; the modes of `mx.inject`. -/
theorem witness_slots : (num 15).val.toNat < 16 ∧ 16 ≤ (num 16).val.toNat ∧
    (let cell := fun (a : Nat) => a < 2 ^ 21 ∧ (a / 2 ^ 15) % 2 = 0 ∧ (a / 2 ^ 7) % 2 = 0 ∧ (a / 2 ^ 8) % 128 ≤ 64 ∧ a % 128 ≤ 64
     cell (31 * 65536 + 64 * 256 + 64) ∧ ¬ cell (64 * 256 + 65)) ∧
    WindowFree (leased (live true 0) (num 0) (num 128)) 1 ∧
    (live false 1).mode (live false 1).cur = .user ∧ (live true 0).mode (live true 0).cur ≠ .user := by unfold WindowFree; decide
/-- Rows of 128 bytes at a pitch of 128 that a leased strand loads. -/
theorem witness_matrix_load : let s := leased (live true 0) (num 0) (num 128)
    Leased s ∧ classOf (num 0x400).v ≠ 5 ∧ classOf (num 0x400).v ≠ 0x7F ∧ (num 0x400).val.toNat % 128 = 0 ∧
    (s.ctx.latch .mxB).val.toNat = 128 ∧ (s.ctx.latch .mxB).p = false :=
  ⟨by unfold Leased; decide, by decide, by decide, by decide, by decide, by decide⟩
set_option maxRecDepth 60000 in
theorem witness_matrix_rows : ∃ ps, ReachesAll (leased (live true 0) (num 0) (num 128)) (num 0x400) false
    ((List.range 64).map fun (r : Nat) => ((0x400 + r * 128 : Nat) : Int)) 128 false ps (leased (live true 0) (num 0) (num 128)) :=
  ⟨_, fun _ => rfl⟩
/-- An accepted product word of each buffer format and of `mx.chain`, and one that is not. -/
theorem witness_products : ∀ f : Fin 6,
    let s := (leased (live true 0) (num 1) (num 128)).updGroup 0 fun g =>
      { g with data := { g.data with bufA := { g.data.bufA with fmt := f }, bufB := { g.data.bufB with fmt := f } } }
    s.bufFmt true = f ∧ s.bufFmt false = f ∧ s.slotKind 0 = .n ∧ s.slotKind 1 ≠ .i ∧ (0x13 : Nat).testBit 4 = true ∧
    ¬ ((num 0x200).val.toNat < 2 ^ 9) ∧ ((0x1A0 : Nat) / 32) % 4 < 2 ∧ ((0xA0 : Nat) / 128) % 4 < 2 := by decide
theorem witness_drain : let s := leased (live true 0) (num 0x400) (num 256)
    Leased s ∧ (num 31).val.toNat < 32 ∧ (s.ctx.latch .mxA).tag = 0 ∧ (s.ctx.latch .mxA).p = false ∧ (s.ctx.latch .mxA).val.toNat % 128 = 0 ∧
    (s.ctx.latch .mxB).val.toNat % 128 = 0 ∧ 256 ≤ (s.ctx.latch .mxB).val.toNat ∧
    (∀ i < 64, s.checkLocal s.myCk (decide (s.mode s.cur = .user)) (0x400 + i * 256) 256 = .ok (.tile s.myCk (0x400 + i * 256))) ∧
    Starts s (s.updMe fun x => { x with effIssue := true }) ∧ WindowFree (s.updMe fun x => { x with effIssue := true }) 1 ∧
    (s.core s.myCk).ranges.length < 32 :=
  ⟨by unfold Leased; decide, by decide, by decide, by decide, by decide, by decide, by decide, by decide, fun _ => rfl,
    by unfold WindowFree; decide, by decide⟩
theorem witness_drainv : let s := leased (live true 0) (num 7) (num 0)
    Leased s ∧ (num 511).val.toNat < 512 ∧ (s.ctx.latch .mxA).val.toNat < 8 ∧ PoolFree s [7] := by unfold Leased PoolFree; decide

/-- A local atomic: the effect starts, its location is the strand's own, a window is free and no set is held. -/
theorem witness_atomic : let s := (live true 0).updMe fun x => { x with effIssue := true }
    Starts s s ∧ classOf (num 0x400).v ≠ 4 ∧ classOf (num 0x400).v ≠ 5 ∧ classOf (num 0x400).v ≠ 0x7F ∧
    Reaches s (num 0x400) 8 8 true false [(localFlat 0 0x400, 8)] s ∧ Reaches s (num 0x404) 4 4 true false [(localFlat 0 0x404, 4)] s ∧
    WindowFree s 1 ∧ s.heldSets s.cur = 0 ∧ isLocalFlat (localFlat 0 0x400) = true ∧ ckOfFlat (localFlat 0 0x400) = s.myCk :=
  ⟨fun _ => rfl, by decide, by decide, by decide, fun _ => rfl, fun _ => rfl, by unfold WindowFree; decide, by decide, by decide, by decide⟩
/-- The clauses of `at.aset`: lengths at both ends of their range and outside, a held set, a class and a qualifier that are not allowed,
a strand with no task, and one with a task. -/
theorem witness_aset : (1 ≤ (1 : Nat) ∧ 2 ^ 20 ≤ 2 ^ 20) ∧ ¬ 1 ≤ (0 : Nat) ∧ ¬ 2 ^ 20 + 1 ≤ 2 ^ 20 ∧
    ((live true 0).heldSets (live true 0).cur).testBit 0 = false ∧ classOf (make 0x0300 0) ≤ 3 ∧ ¬ classOf (make 0x0400 0) ≤ 3 ∧
    qualOf (make 0x0001 0) ≠ 0 ∧ (live true 0).checkAccess (live true 0).myCk .kernel (make 0 0x400) 256 1 = .ok (.tile 0 0x400) ∧
    (live true 0).me.task = none ∧ ((live true 0).updMe fun x => { x with task := some 3 }).me.task ≠ none := by decide
theorem witness_token : (live false 0).mode (live false 0).cur ≠ .user ∧ (live false 0).heldSets (live false 0).cur = 0 ∧
    Starts (live false 0) ((live false 0).updMe fun x => { x with effIssue := true }) ∧ WindowFree (live false 0) 1 ∧
    (live false 1).mode (live false 1).cur = .user :=
  ⟨by decide, by decide, fun _ => rfl, by unfold WindowFree; decide, by decide⟩
/-- The operands of a copy of 256 bytes from 0x1000 to 0x2000, its source poisoned or not. -/
def copyArgs (p : Bool) : CeArgs :=
  { op := 0, prio := 1, s := { num 0x1000 with p := p }, d := num 0x2000, n := num 256, b := num 0, m := num 0 }
theorem witness_push : (∃ runs ts, (live true 0).cePlan (copyArgs false) = .ok runs ts ∧ (live true 0).ceSetBad 0 runs ts = false) ∧
    (∃ cause p, (live true 0).cePlan (copyArgs true) = .bad cause p) ∧
    (let c := (live true 0).core (live true 0).myCk
     c.fifo.length < 16 ∧ (live true 0).me.ceOut.length + (live true 0).me.ceDone.length < 16 ∧ c.ranges = []) :=
  ⟨⟨_, _, rfl, by decide⟩, ⟨_, _, rfl⟩, by decide⟩
/-- No room: 16 unpopped commands; 32 ranges that are held. -/
theorem witness_push_full : ¬ ((live true 0).updMe fun x => { x with ceOut := List.replicate 16 0 }).me.ceOut.length + 0 < 16 ∧
    (((live true 0).updCore 0 fun c => { c with ranges := List.replicate 32 { lo := 0, hi := 0, owner := 0 } }).core 0).ranges.length = 32 := by
  decide

/-- A handle of inbox `i` and of barrier `i` of the core in seat `seat` of the partition's first group. -/
def inbox (seat i : Nat) : Reg := { v := make 0x0501 (BitVec.ofNat 64 (seat * 2 ^ 20 + i)), p := false }
def barrierAt (seat i : Nat) : Reg := { v := make 0x0500 (BitVec.ofNat 64 (seat * 2 ^ 20 + i)), p := false }
/-- The live strand with token 5. -/
def sender (sup : Bool) (n : Nat) : State := (live sup n).updMe fun x => { x with tok := 5 }
theorem starts_sender : Starts (sender false 1) ((sender false 1).updMe fun x => { x with effIssue := true }) := fun _ => rfl

/-- Inboxes of the strand's own core and of another, the supervisor's inbox, and a strand that may send. -/
theorem witness_queues : let s := sender false 1
    s.queueHandle (pidOf s.myCk) (inbox 0 3).v = some (0, 1, 3) ∧ s.queueLocal 0 1 3 = true ∧
    s.queueHandle (pidOf s.myCk) (inbox 1 15).v = some (1, 1, 15) ∧ s.queueLocal 1 1 15 = false ∧ s.mode s.cur ≠ .supervisor ∧
    (sender true 0).mode 0 = .supervisor ∧ MaySend s ∧ s.heldSets s.cur = 0 ∧ WindowFree s 2 ∧ s.mode s.cur = .user ∧
    s.me.tryReply = none ∧ s.me.orphan (.push 1 1 3 0 false) = none := by unfold MaySend WindowFree; decide
/-- The claims of a kernel pop: a free record below T, an index that is none, and a claim that the strand already holds. -/
theorem witness_claims : let s := withPart (sender false 0) fun p => { p with t := 4 }
    s.mode s.cur ≠ .user ∧ s.me.ownClaim s.myCk 3 = false ∧ 3 < (s.partOf s.myCk).t ∧ s.recOpen s.myCk 3 = true ∧ (s.partOf s.myCk).t ≤ 4 ∧
    (s.updCore 0 fun c => { c with claims := [3] }).recOpen 0 3 = false ∧
    (s.updMe fun x => { x with tryReply := some (.pop 1 3 0 true false (some (0, 3)), ackReply) }).me.ownClaim 0 3 = true := by decide
/-- The ready queue: a record that is saved and unqueued, one past T, an empty and a filled queue, and a drained core. -/
theorem witness_ready_queue : let s := (withPart (live false 0) fun p => { p with t := 4 }).poke (recFlat 0 3 + 26) 1 4
    s.mode s.cur ≠ .user ∧ 3 < (s.partOf s.myCk).t ∧ s.recState s.myCk 3 = recSaved ∧ (s.core s.myCk).rqHas 3 = false ∧
    ¬ 4 < (s.partOf s.myCk).t ∧ (s.core s.myCk).rq = #v[[], [], [], []] ∧ (s.core s.myCk).drained = false ∧
    ((s.rqPush 0 3 2).core 0).rq = #v[[], [], [3], []] := by decide
/-- A header of one field with map 0, width 1 and count 1: one task at each core of the sender's place. -/
def header : List Byte := List.replicate 18 0 ++ [1, 0, 1] ++ List.replicate 43 0
theorem witness_spawn : let s := { (withPart (sender false 1) fun p => { p with t := 4, sup := 3 }) with mem := memWriteList [] (localFlat 0 0x400) header }
    Starts s (s.updMe fun x => { x with effIssue := true }) ∧ classOf (num 0x400).v = 0 ∧ ReachesHeader s (num 0x400) [(localFlat 0 0x400, 64)] s ∧
    (s.readPieces [(localFlat 0 0x400, 64)]).2.1 = false ∧
    s.hdrOk (pidOf s.myCk) (s.readPieces [(localFlat 0 0x400, 64)]).1 (s.gxOf s.myCk) (s.gyOf s.myCk) (seatOf s.myCk) = true ∧
    s.heldSets s.cur = 0 ∧ WindowFree s 1 ∧ MaySend s :=
  ⟨fun _ => rfl, by decide, fun _ => rfl, by decide, by decide, by decide, by unfold WindowFree; decide, by unfold MaySend; decide⟩
/-- Task handles of the own core and of another. -/
theorem witness_dec : let s := withPart (sender false 1) fun p => { p with t := 4 }
    s.taskHandle (pidOf s.myCk) (make 0x0100 192) = some (0, 3) ∧ s.taskHandle (pidOf s.myCk) (make 0x0100 0x100040) = some (1, 1) ∧
    (0 = s.myCk) ∧ (1 ≠ s.myCk) := by decide
theorem witness_done : (live false 1).me.task = none ∧
    (let s := (withPart (live false 1) fun p => { p with t := 4 }).updMe fun x => { x with task := some 3 }
     s.me.task = some 3 ∧ s.recState s.myCk 3 ≠ recEnding ∧ s.me.chunk.len = 0 ∧ s.me.quiet = true ∧ s.ctx.pe.set = false ∧
     s.me.ceOut = [] ∧ s.me.ceDone = [] ∧
     (let s1 := (s.setRecState s.myCk 3 recEnding).updMe fun x => { x with donePhase := 0 }
      s1.me.effect = none ∧ s1.me.reqs = [] ∧ s1.recField s1.myCk 3 30 2 = 0 ∧ s1.me.ceOut = [])) := by decide
/-- Barriers of the own core and of another; counts that R272 permits and ones it does not; a phase below 2 and 2. -/
theorem witness_barriers : let s := sender false 1
    s.barrierHandle (pidOf s.myCk) (barrierAt 0 511).v = some (0, 511) ∧ s.barrierHandle (pidOf s.myCk) (barrierAt 1 0).v = some (1, 0) ∧
    ¬ ((s.barrier 0 511).st = .armed ∧ ((s.barrier 0 511).arrA ≠ 0 ∨ (s.barrier 0 511).arrB ≠ 0)) ∧
    (bitsAt (1 : BitVec 64) 47 0 ≠ 0 ∧ bitsAt (1 : BitVec 64) 63 49 = 0) ∧ bitsAt (0 : BitVec 64) 47 0 = 0 ∧
    (num 1).val.toNat < 2 ∧ 2 ≤ (num 2).val.toNat ∧ (num 0xFFFFFFFF).val.toNat < 2 ^ 32 := by decide
/-- A monitor on a byte of the own store. -/
theorem witness_monitor : let s := withPart (live false 1) fun p => { p with t := 4 }
    classOf (num 0x400).v ≤ 3 ∧ qualOf (num 0x400).v = 0 ∧ s.checkAccess s.myCk (s.mode s.cur) (num 0x400).v 1 1 = .ok (.tile 0 0x400) ∧
    (s.resolve s.myCk 1 false (.tile 0 0x400)).1 = .mem [(localFlat 0 0x400, 1)] := by decide
/-- A join of the first strand, and of the fourth. -/
theorem witness_joins : let s := live false 1
    (insertNat (((s.group (gkOf s.myCk)).data.gbar.find 1).getD []) s.cur).length = 1 ∧
    (insertNat [17, 33, 49] s.cur).length = 4 ∧ prefixSets (activePrefix s) = false ∧ PoolFree s [3] ∧
    prefixSets (activePrefix (s.updMe fun x => { x with prefixed := some { noPrefix with mask := 1 } })) = true := by unfold PoolFree; decide

/-- Branch targets: a poisoned g22, one with a tag, one without. -/
theorem witness_returns : (∃ s : State, (s.ctx.greg 22).p = true) ∧ (∃ s : State, (s.ctx.greg 22).p = false ∧ (s.ctx.greg 22).tag ≠ 0) ∧
    (live true 0).me.st ≠ .frozen ∧ ((live true 0).ctx.greg 22).p = false ∧ ((live true 0).ctx.greg 22).tag = 0 :=
  ⟨⟨State.reset.updCtx fun c => c.setG 22 { v := 0, p := true }, by decide⟩,
   ⟨State.reset.updCtx fun c => c.setG 22 { v := make 1 0, p := false }, by decide⟩, by decide⟩
/-- Chunks that end, strands that stop or may not, and the cases of `ct.trap` and `ct.efence`. -/
theorem witness_chunk_ends : strandNo (live true 1).cur ≠ 0 ∧ (live true 1).mode (live true 1).cur = .supervisor ∧
    strandNo (live false 0).cur = 0 ∧ (live false 1).mode (live false 1).cur ≠ .supervisor ∧
    ((live false 1).updMe fun x => { x with await := some (x.ctx, x.chunk) }).me.await.isSome = true ∧
    (let s := live false 1
     s.me.chunk.len = 0 ∧ s.me.await = none ∧ s.me.effect = none ∧ s.me.reqs = [] ∧ s.me.ctx.flights = [] ∧ s.ctx.pe.set = false) ∧
    ((live false 1).setPe 0).ctx.pe.set = true := by decide
/-- Operands of the strand-control words at the ends of their ranges, and just outside. -/
theorem witness_strand_control : let s := withPart (live false 0) fun p => { p with t := 4 }
    let go := fun (v : Nat) => v < 2 ^ 26 ∧ (v / 32) % 2 ^ 11 = 0 ∧ v % 16 ≠ 0 ∧ (v.testBit 4 = false → v / 2 ^ 16 = 0) ∧ v / 2 ^ 16 < (s.partOf s.myCk).t
    s.mode s.cur = .kernel ∧ (1 ≤ 15 ∧ 15 < 16 ∧ 15 ≠ strandNo s.cur) ∧ ¬ 16 < 16 ∧ go (3 * 65536 + 16 + 15) ∧ ¬ go (4 * 65536 + 16 + 1) ∧ ¬ go 16 ∧ go 1 ∧
    ((s.core s.myCk).redpin.getLsbD 63 = false) ∧
    ((num 0x4010).tag = 0 ∧ 0x4010 % 16 = 0 ∧ 64 * (s.partOf s.myCk).t ≤ 0x4010 / 256 * 256 ∧ s.privRange (pidOf s.myCk) 0x4000 8192 = true) ∧
    ¬ 64 * (s.partOf s.myCk).t ≤ 0 ∧ s.privRange (pidOf s.myCk) 0xFF000 8192 = false ∧
    (live true 0).imagePtr 0 (make 0x7F00 0x10000) = some 1 ∧ (live true 0).imagePtr 0 (make 0x7F00 8) = none := by decide
theorem witness_strand_control_served :
    ((((live false 0).updCore 0 fun c => { c with redpin := BitVec.ofNat 64 (2 ^ 63) }).core 0).redpin.getLsbD 63 = true) := by decide
/-- A legal and an illegal value of the limited registers, and a `redpin` that finds the server busy. -/
theorem witness_register_values : (wclOk 1 = true ∧ wclOk 0 = false ∧ chlOk 1024 = true ∧ chlOk 15 = false ∧ fxOk 0x500 = true ∧ fxOk 0x600 = false) ∧
    redpinOk 0 = true ∧ redpinOk 1 = false ∧ redpinOk 0x8001000100000000 = true ∧ ((live true 0).core 0).red.phase = .idle ∧
    (((live true 0).updStrand 15 fun x => { x with st := .ready }).strand (sidOf 0 15)).st ≠ .idle := by decide
/-- The operands of `sr.tlbinv`, and an image for `sr.ackfloor`, changed since its boundary or not. -/
theorem witness_translation_control : (live false 0).mode 0 ≠ .user ∧ (classOf (make 0x0400 0) = 4 ∧ qualOf (make 0x0400 0) = 0) ∧
    ¬ (classOf (make 0x0100 0) = 3 ∨ classOf (make 0x0100 0) = 4) ∧
    (let s := withPart (live false 0) fun p => { p with t := 4 }
     s.checkAccess s.myCk (s.mode s.cur) (make 0 0x4000) 8192 64 = .ok (.tile s.myCk 0x4000) ∧ s.privRange (pidOf s.myCk) 0x4000 8192 = true ∧
     s.unchanged s.myCk 0x4000 8192 = true ∧ (s.updCore 0 fun c => { c with changed := [0x80] }).unchanged 0 0x4000 8192 = false) := by decide

/-- A result in flight that waits for `p`. -/
def fl (p : Pend) (arrived : Bool) : Flight :=
  { unit := .ls, seq := 7, left := 3, arrived := arrived, pend := p, lim := 100, detail := 17, word := 0, pc := 0, second := false, port := false, acts := [] }
/-- The live strand with that result in flight. -/
def flying (p : Pend) (arrived : Bool) : State := (live false 1).updCtx fun c => { c with flights := [fl p arrived] }
/-- Results that have arrived, are asked for, or may arrive now; a token in the stash; a barrier of either phase; a fence. -/
theorem witness_results : ((flying .none true).strand 1).flight 7 = some (fl .none true) ∧ ((flying .none false).strand 1).asks 7 = false ∧
    (flying .token false).takeToken 1 = none ∧
    ((flying .token false).updCore 0 fun c => { c with stash := [{ token := 9, sn := 0, floor := 0 }] }).takeToken 1 ≠ none ∧
    ((flying (.barrier 0 3 false) false).barrier 0 3).phase = false ∧ ((flying (.barrier 0 3 false) false).barrier 0 3).st ≠ .poison ∧
    ((flying .pfence false).strand 1).tlbinvOut = [] ∧
    (∀ p ∈ (((flying .pfence false).updMe fun x => { x with tlbinvOut := [(6, 0)] }).strand 1).tlbinvOut, p.1 ≤ 7) := by decide
theorem witness_walks : let s := flying (.walk (some 2) (make 0x0300 0x20000)) false
    walkPage 0 (fl (.walk (some 2) (make 0x0300 0x20000)) false) = some 4 ∧ (s.region (s.rkOf 0)).walks = [] ∧
    ((s.updRegion 0 fun r => { r with walks := [(1, 7, 4)] }).region 0).walks.any (fun w => w.1 == 1 && w.2.1 == 7) = true := by decide
/-- A strand that waits under a bound, before it, at it, and with the wake due. -/
def waiting (st : SState) (why : Why) (p : Pend) : State :=
  (flying p false).updMe fun x => { x with st := st, why := why, since := 0, bound := 0, bounded := true }
theorem witness_waits : (let s := waiting .waitLease (.window 7) (.lease 5)
     (s.strand 1).st.waits = true ∧ (s.strand 1).bounded = true ∧ (s.strand 1).since + (s.strand 1).bound ≤ s.cyc (ckOf 1) ∧
     s.tryTaken 1 = false ∧ s.wakeDue 1 = false ∧ (s.strand 1).waitedFlight = some (fl (.lease 5) false) ∧
     ({ s with agenda := [.variableResultLand 1 7] } : State).wakeDue 1 = true ∧
     (s.updMe fun x => { x with bound := 9 }).cyc (ckOf 1) < 9) ∧
    (let s := waiting .stalledLA .engine (.lease 5)
     (s.strand 1).waitedFlight = none ∧ (s.strand 1).why ≠ .context ∧ ∀ n : Fin 8, (s.strand 1).why ≠ .set n) ∧
    ((waiting .stalledStream (.stream 2) .none).strand 1).why = .stream 2 := by decide
theorem witness_queue_retry : let s := (withPart (flying (.queue true (inbox 1 3).v 5 false true none) false) fun p => { p with t := 4 }).updMe fun x => { x with tok := 5 }
    (s.strand 1).asks 7 = false ∧ (s.strand 1).retryAt ≤ s.now ∧ (s.strand 1).tok ≠ 0 ∧ (s.strand 1).distance < 2 ^ 31 - 2 ^ 16 ∧
    s.queueHandle (pidOf (ckOf 1)) (inbox 1 3).v = some (1, 1, 3) ∧ s.now < (s.updMe fun x => { x with retryAt := 9 }).me.retryAt := by decide
theorem witness_alarm : let s := (live false 1).updMe fun x => { x with alarm := 5 }
    (s.strand 1).alarm.getLsbD 63 = false ∧ bitsAt (s.strand 1).alarm 62 0 ≠ 0 ∧ s.regionTime (s.rkOf (ckOf 1)) < bitsAt (s.strand 1).alarm 62 0 ∧
    bitsAt (s.strand 1).alarm 62 0 ≤ (s.updRegion 0 fun r => { r with copy := 5 }).regionTime 0 ∧ (live false 1).me.alarm = 0 := by decide
/-- A chunk of `n` slices that awaits its commit. -/
def awaiting (refs : List Nat) : State := (live false 1).updMe fun x => { x with await := some (x.ctx, { Chunk.empty with slices := refs.map fun r => (r, 1) }) }
theorem witness_commits : (∀ k ∈ [[], [0], [7], [0, 7]], let s := awaiting k
     ∃ p, (s.strand 1).await = some p ∧ (s.strand 1).mayCommit p.2 = true ∧ s.replaying (ckOf 1) = false ∧
       s.commitHeld 1 p.2 (p.2.slices.map Prod.fst) = false ∧ s.chunkMeets 1 p.2 = false ∧ p.2.slices.length = k.length) ∧
    (let s := awaiting [0, 7]
     ∀ p, (s.strand 1).await = some p → s.nextSlice p.2 = some 0 ∧ p.2.farSlices 1 = [7] ∧ s.meetsAt 1 0 p.2 = false) := by
  constructor
  · intro k hk; simp only [List.mem_cons, List.not_mem_nil, or_false] at hk
    rcases hk with rfl | rfl | rfl | rfl <;> exact ⟨_, rfl, by decide⟩
  · intro s p h; cases h; decide
/-- A chunk held by a group that recovers, one met by a write, and one of its full length. -/
theorem witness_commit_meets : (let s := (awaiting [0]).updGroup 0 fun g => { g with entry := { g.entry with state := 1 } }
     s.commitHeld 1 { Chunk.empty with slices := [(0, 1)] } [0] = true) ∧
    ((live false 1).updMe fun x => { x with chunk := { x.chunk with len := 1024, limit := 1024 } }).me.st = .ready ∧ (1024 : Nat) ≤ 1024 := by decide

/-- A strand whose oldest committed word is `dp` with operand `v`; strand 3 of its core is the target. -/
def committed (dp v : Nat) (y : Strand → Strand) : State :=
  ((withPart (live false 0) fun p => { p with t := 4 }).updMe fun x =>
    { x with ctl := [{ dp := dp, w := make 0 (BitVec.ofNat 64 v), seq := 0, fpc := 0, second := false }] }).updStrand 3 y
theorem witness_strand_acts : (live false 0).me.ctl = [] ∧
    (let s := (committed 0x0C (2 * 65536 + 16 + 3) id).poke (recFlat 0 2 + 26) 1 2
     (s.strand 3).st = .idle ∧ s.recState 0 2 = recReady ∧ s.recField 0 2 52 4 = 0 ∧ (0x20013 : Nat).testBit 4 = true) ∧
    (let s := committed 0x0C 3 fun y => { y with st := .stopped }
     (s.strand 3).st = .stopped ∧ (s.strand 3).wounded = false ∧ (s.strand 3).killing = false ∧ (3 : Nat).testBit 4 = false) ∧
    ((committed 0x0C 3 fun y => { y with st := .waitMonitor }).strand 3).st = .waitMonitor := by decide
theorem witness_saves : (let s := committed 0x0D 0x4030 fun y => { y with st := .stopped }
     (s.strand 0).saving = none ∧ (s.strand 3).st = .stopped ∧ (s.core 0).ranges.length < 32 ∧
     (s.strand 3).ceOut = [] ∧ (s.strand 3).reqs = [] ∧ (s.strand 3).await = none ∧ (s.strand 3).effect = none ∧ s.hasJobs 3 = false ∧
     (s.updMe fun x => { x with saving := some (false, 3, 0x4000) }).me.saving ≠ none) ∧
    (let s := committed 0x0D 0x4030 id
     (s.strand 3).st ≠ .stopped ∧ (s.strand 3).stopping = false) ∧
    ((committed 0x0E 0x4030 id).core 0).rangeHeld (0x4000 / 128) ((0x4000 + 8191) / 128) = false ∧
    (live true 0).imagePtr 0 (make 0x7F00 0x30000) = some 3 ∧ ((live true 0).strand 3).killing = false := by decide
/-- Supervisor commands on a frozen strand, one that is stepping, and one that is killed. -/
theorem witness_debug : let s := (live true 0).updStrand 3 fun x => { x with st := .frozen, stepAsked := true }
    let t := s.updStrand 3 fun x => { x with stepping := true }
    (s.strand 3).killing = false ∧ (s.strand 3).st = .frozen ∧ (s.strand 3).stepping = false ∧ (s.strand 3).stepAsked = true ∧
    (t.strand 3).stepping = true ∧ (t.strand 3).await = none ∧ (t.strand 3).effect = none ∧ (t.strand 3).stepAt ≤ (t.strand 3).committed ∧
    ((t.updStrand 3 fun x => { x with stepAt := 1 }).strand 3).committed < 1 := by decide
/-- A store that the window takes, one to a reserved field, one of another cause; a legal and an illegal ring base. -/
theorem witness_system_window : let s := live true 0
    (∃ r, s.sysRef 0 0 0x2000 = some r ∧ s.sysBad r 0 ≠ none ∧ s.sysBad r 0 ≠ some causeReserved) ∧
    (∃ r, (s.updStrand 3 fun x => { x with st := .frozen }).sysRef 0 0 0x32000 = some r ∧
      (s.updStrand 3 fun x => { x with st := .frozen }).sysBad r 0 = none ∧
      (s.updStrand 3 fun x => { x with st := .frozen }).sysBad r (BitVec.ofNat 64 (2 ^ 63)) = some causeReserved) ∧
    (s.region 0).pid = some 0 ∧ s.ringOk 0 0x1000010000 = true ∧ s.ringOk 0 1 = false := by
  refine ⟨⟨_, rfl, by decide⟩, ⟨_, rfl, by decide⟩, by decide⟩
theorem witness_fault_ring : let s := (live true 0).updRegion 0 fun r => { r with ringBase := 0x1000010000, waiting := [[7]] }
    (s.region 0).waiting = [[7]] ∧ s.ringOf 0 0 = some (localFlat (s.supCore 0 0) 0x10000, 16) ∧ s.coreHeld (s.supCore 0 0) = false ∧
    ¬ 16 ≤ (s.load (localFlat (s.supCore 0 0) 0x10000) 4 + 2 ^ 32 - s.load (localFlat (s.supCore 0 0) 0x10000 + 8) 4) % 2 ^ 32 ∧
    (let t := s.poke (localFlat (s.supCore 0 0) 0x10000) 4 16
     16 ≤ (t.load (localFlat (s.supCore 0 0) 0x10000) 4 + 2 ^ 32 - t.load (localFlat (s.supCore 0 0) 0x10000 + 8) 4) % 2 ^ 32) := by decide

/-- Zeros around the bytes `l`: every field outside them is zero. -/
theorem around_zero (a c i n : Nat) (l : List Byte) (h : i + n ≤ a ∨ a + l.length ≤ i) :
    ∃ m, ((List.replicate a 0#8 ++ (l ++ List.replicate c 0#8)).drop i).take n = List.replicate m 0#8 := by
  rcases h with h | h
  · refine ⟨n, ?_⟩
    rw [List.drop_append_of_le_length (by simp; omega), List.take_append_of_le_length (by simp; omega), List.drop_replicate, List.take_replicate]
    congr 1; omega
  · refine ⟨min n (c - (i - a - l.length)), ?_⟩
    rw [List.drop_append, List.drop_eq_nil_of_le (by simp; omega), List.nil_append, List.length_replicate, List.drop_append,
      List.drop_eq_nil_of_le (by omega), List.nil_append, List.drop_replicate, List.take_replicate]
theorem ofLE_zeros (m : Nat) : ofLE (List.replicate m 0#8) = 0 := by
  induction m with
  | zero => rfl
  | succ m ih => simp only [List.replicate_succ, ofLE, ih]; rfl
/-- An image that may be loaded: `chl` 16, `wcl` 1 and all else 0. -/
def image : List Byte := List.replicate 5208 0#8 ++ ([16, 0, 0, 0, 1, 0, 0, 0] ++ List.replicate 2976 0#8)
theorem image_field (i n : Nat) (h : i + n ≤ 5208 ∨ 5216 ≤ i) : fieldAt image i n = 0 := by
  obtain ⟨m, e⟩ := around_zero 5208 2976 i n [16, 0, 0, 0, 1, 0, 0, 0] h; rw [fieldAt, image, e, ofLE_zeros]
theorem image_zeroAt (i n : Nat) (h : i + n ≤ 5208 ∨ 5216 ≤ i) : zeroAt image i n = true := by
  obtain ⟨m, e⟩ := around_zero 5208 2976 i n [16, 0, 0, 0, 1, 0, 0, 0] h; rw [zeroAt, image, e]; simp
theorem witness_image : imageOk image = true := by
  have a : fieldAt image 5208 4 = 16 := by decide
  have b : fieldAt image 5212 4 = 1 := by decide
  simp [imageOk, image_zeroAt, image_field, a, b, List.range_succ]
  decide

/-- A slip: a pair that the cache holds or not, a resend before its time, at it, and after 8 sends. -/
theorem witness_slips : let s := live false 1
    (s.group (gkOf (ckOf 1))).pairAt (s.strand 1).ctx.pc ≠ none ∧ (s.group (gkOf (ckOf 1))).pairAt 16 = none ∧ (s.strand 1).st = .ready ∧
    (s.strand 1).carry = none ∧ (s.updMe fun x => { x with ctx := { x.ctx with pc := 16 } }).ctx.pc = 16 ∧
    (let t := s.updMe fun x => { x with st := .slip }
     (t.strand 1).st = .slip ∧ t.now < (t.updMe fun x => { x with retryAt := 1 }).me.retryAt ∧ (t.strand 1).retryAt ≤ t.now ∧
     (t.strand 1).fetchSends < 8 ∧ 8 ≤ (t.updMe fun x => { x with fetchSends := 8 }).me.fetchSends) := by decide
theorem witness_clock : let s := live false 1
    (s.region 0).lost = false ∧ s.now < (s.region 0).pulse + 64000 ∧ (s.region 0).pid = some 0 ∧ s.now < 1 ∧ (0 : Nat) ≤ s.now ∧
    ({ s with now := 64000 }.region 0).pulse + 64000 ≤ ({ s with now := 64000 } : State).now ∧
    ((s.updRegion 0 fun r => { r with lost := true }).region 0).lost = true := by decide
/-- The lease: a request with the group free, none, a holder that may keep it or has idled while another asks. -/
theorem witness_leases : let s := (live false 1).updData 0 fun g => { g with requests := [(1, 7, 5)] }
    (s.group 0).data.holder = none ∧ s.nextRequest 0 = some (1, 7, 5) ∧ (live false 1).nextRequest 0 = none ∧
    (let t := s.updData 0 fun g => { g with holder := some 2, idleSince := 0 }
     (t.group 0).data.holder = some 2 ∧ (t.group 0).data.requests ≠ [] ∧ t.cyc (ckOf 2) < (t.group 0).data.idleSince + 4096 ∧
     (let u := t.updRegion 0 fun r => { r with cyc := 4096 }
      (u.group 0).data.idleSince + 4096 ≤ u.cyc (ckOf 2))) := by decide
/-- The array: an arrival with room in the queue or none, a queue to execute, a live array. -/
def job : MxJob := { sid := 1, seq := 7, cmd := .zero 3 }
theorem witness_array : let s := (live false 1).updGroup 0 fun g => { g with arriving := [job] }
    s.loggedJob 0 = none ∧ s.nextJob none (s.group 0).arriving 0 = some 0 ∧ (s.group 0).arriving[0]? = some job ∧ (s.group 0).queue.length < 8 ∧
    8 ≤ ((s.updGroup 0 fun g => { g with queue := List.replicate 8 job }).group 0).queue.length ∧ (s.group 0).queue = [] ∧
    ((s.updGroup 0 fun g => { g with queue := [job] }).group 0).queue = [job] ∧
    ((s.updGroup 0 fun g => { g with queue := [job] }).group 0).arrayLive = true := by decide
/-- A command of the engine: waiting, sending, all sent, completed. -/
def command (started : Bool) (total next : Nat) : CeCmd :=
  { id := 4, sid := 1, num := 1, op := 5, prio := 0, s := 0, d := 0, n := 0, b := (inbox 0 3).v, m := 0, mMark := false, runs := [], targets := [],
    started := started, total := total, next := next, acked := [], outstanding := [], cause := 0, poisoned := false, messaged := false, pushSn := none,
    server := false, buf := [] }
def running (l : List CeCmd) (fifo : List CeCmd) : State := (live false 1).updCore 0 fun c => { c with running := l, fifo := fifo }
theorem witness_engine : ((running [command true 2 1] []).core 0).running.find? (fun x => !x.sentAll) = some (command true 2 1) ∧
    (((running [] []).core 0).running.find? (fun x => !x.sentAll) = none ∧ ((running [] []).core 0).fifo = []) ∧
    ((running [] [command false 0 0]).core 0).fifo = [command false 0 0] ∧
    (let s := running [command true 2 2] []
     s.cmdOf 0 4 = some (command true 2 2) ∧ (command true 2 2).sentAll = true ∧ (command true 2 2).outstanding = [] ∧
     (command true 2 2).messaged = false ∧ (command true 2 2).cause = 0 ∧ (s.core 0).eMaySend = true ∧
     s.queueHandle (pidOf 0) (command true 2 2).b = some (0, 1, 3) ∧ (command true 2 2).server = false ∧
     { command true 2 2 with server := true }.server = true) := by decide
/-- The reduction server: idle with a contribution waiting, sending up, and in the downward phase. -/
theorem witness_reduction : let s := (live false 0).updCore 0 fun c => { c with redpin := BitVec.ofNat 64 (2 ^ 63), redIn := [{ data := [], marks := [], cells := 0 }] }
    (s.core 0).serves = true ∧ (s.strand (sidOf 0 15)).st ≠ .frozen ∧ (s.core 0).red.phase = .idle ∧ (s.core 0).redIn ≠ [] ∧
    (let up := s.updCore 0 fun c => { c with red := { c.red with phase := .up } }
     (up.core 0).serves = true ∧ (up.core 0).red.phase = .up) ∧
    ((s.updCore 0 fun c => { c with red := { c.red with phase := .down } }).core 0).red.phase = .down ∧ (s.core 0).red.phase ≠ .down := by decide

/-- A remote effect message of strand 17 (core 1) to group 0: an arrival at barrier 2 of core 0. -/
def message : Msg := { origin := .strand 17, seq := 3, tok := 9, sn := 5, floor := 2, owner := .group 0, op := .arrive 0 2 none }
theorem witness_remote : let s := live false 1
    message.owner = .group 0 ∧ message.tok ≠ 0 ∧ s.ownerState message.owner ≠ 3 ∧ s.ownerGone message.owner = false ∧ s.localHeld message = false ∧
    s.opMoving message.op = false ∧ s.opYields message.op = false ∧ s.reach message.origin message.owner = .here ∧ asksCommit message.op = false ∧
    (s.owner message.owner).entryOf (s.msgPid message) message.tok message.sn = none ∧ snBefore message.sn message.floor = false ∧
    snBefore 1 message.floor = true ∧ (s.owner message.owner).full (s.msgPid message) message.tok = false ∧ s.opLogFull message.op = false := by decide
/-- An answered message, one refused, a full cache, and the three outcomes of an operation. -/
theorem witness_remote_entries :
    (let s := (live false 1).updOwner (.group 0) fun o => o.keep 0 9 5 .result ackReply
     ((s.owner (.group 0)).entryOf 0 9 5).map CacheEnt.kind = some .result) ∧
    (let s := (live false 1).updOwner (.group 0) fun o => o.keep 0 9 5 (.refuse 6) ackReply
     ((s.owner (.group 0)).entryOf 0 9 5).map CacheEnt.kind = some (.refuse 6)) ∧
    (((live false 1).updOwner (.group 0) fun o => { o with cache := List.replicate 64 { pid := 0, tok := 9, sn := 5, kind := .result, reply := ackReply } }).owner (.group 0)).full 0 9 = true := by
  decide
theorem witness_remote_outcomes : (∃ r t, (live false 1).execOp message = (.done r, t)) ∧
    (∃ t, (live false 1).execOp { message with op := .dec 0 3 } = (.busy, t)) ∧
    (∃ c t, ((live false 1).poke (recFlat 0 3 + 26) 1 4).execOp { message with op := .dec 0 3 } = (.refuse c, t)) :=
  ⟨⟨_, _, rfl⟩, ⟨_, rfl⟩, ⟨_, _, rfl⟩⟩

/-- An access of module 2's partition 4: 8 bytes of the rim, read. -/
def moduleRead (off : Nat) : ModAccess :=
  { fromModule := 2, peer := 0, tok := 9, sn := 5, floor := 2, tile := true, offs := [off], size := 8, write := none, atomic := none, add := false, marks := [] }
/-- An access that passes the checks and one that is refused, an answered one, and a cache with and without room. -/
theorem witness_module_access : let s := live false 1
    s.modEntry (moduleRead 0x80000) = none ∧ (s.part 0).live = true ∧ snBefore (BitVec.ofNat 32 5) (BitVec.ofNat 32 2) = false ∧
    (∃ c, s.modAll 0 (moduleRead 0x400) [0x400] = .error c) ∧ (∃ ps, (withPart s fun p => { p with agreed := true }).modAll 0 (moduleRead 0x80000) [0x80000] = .ok ps) ∧
    s.ownerHeld (.group 0) = false ∧ (s.owner (.group 0)).full (modulePid 2) 9 = false ∧
    (s.updGroup 0 fun g => { g with entry := { g.entry with state := 1 } }).ownerHeld (.group 0) = true ∧
    ((s.updOwner (.group 0) fun o => o.keep (modulePid 2) 9 5 .result ackReply).modEntry (moduleRead 0x80000)).isSome = true :=
  ⟨by decide, by decide, by decide, ⟨_, rfl⟩, ⟨_, rfl⟩, by decide, by decide, by decide, by decide⟩
/-- A replicated store that is next in its region's order, or not there yet. -/
theorem witness_cascade : let st : ReplStore := { sid := 1, seq := 7, places := [(0, 8)], data := [1, 2, 3, 4, 5, 6, 7, 8], poison := false }
    ((withPart (live false 1) fun p => { p with cascLog := [st] }).part 0).cascLog[((live false 1).region 0).cascN]? = some st ∧
    ((live false 1).part 0).cascLog[((live false 1).region 0).cascN]? = none := by decide
/-- A request outstanding, sent `n` times, last at time 0. -/
def request (n : Nat) (busy : Option Nat) : Req := { seq := 3, msg := { message with origin := .strand 1 }, sends := n, last := 0, busySince := busy, fpc := 0, second := false }
def asking (q : Req) : State := (live false 1).updMe fun x => { x with reqs := [q] }
theorem witness_requests : (live false 1).request (.strand 1) 3 = none ∧ (asking (request 1 none)).request (.strand 1) 3 = some (request 1 none) ∧
    (asking (request 1 none)).replyWaits (request 1 none) = false ∧ (request 1 none).busySince = none ∧ (request 1 (some 0)).busySince = some 0 ∧
    (let s := { asking (request 1 (some 0)) with now := 512000, agenda := [.busyRetryTimer (.strand 1) 3] }
     0 + 512000 ≤ s.now ∧ Instr.busyRetryTimer (.strand 1) 3 ∈ s.agenda) ∧ (asking (request 1 none)).now < 0 + 64000 ∧
    (let s := { asking (request 8 none) with now := 64000 }
     (request 8 none).last + 64000 ≤ s.now ∧ s.ownerState (.group 0) ≠ 1 ∧ s.ownerState (.group 0) ≠ 2 ∧ 8 ≤ (request 8 none).sends ∧ (request 7 none).sends < 8) ∧
    ((asking (request 1 none)).updGroup 0 fun g => { g with entry := { g.entry with state := 1 } }).ownerState (.group 0) = 1 := by decide
theorem witness_reply_waits : ((asking (request 1 none)).updCore 0 fun c => { c with sending := [.time 0 0] }).replyWaits (request 1 none) = true := by decide
theorem witness_refill : ((live false 1).core 0).refilling = false ∧ ((live false 1).region ((live false 1).rkOf 0)).asking.contains 0 = false ∧
    (live false 1).agenda = [] ∧ (((live false 1).updCore 0 fun c => { c with refilling := true }).core 0).refilling = true := by decide
/-- Requests for a set: free, held already, overlapping an older and a younger task's, with the table full. -/
def setReq (rec age : Nat) : SetReq := { sid := 1, core := 0, record := rec, age := age, token := 9, set := 2, lines := [8], home := .group 0 }
def locked (l : List SetReq) : State := (live false 1).updOwner (.group 0) fun o => { o with locks := l.mapIdx fun i q => (i, q) }
theorem witness_sets : (((locked [setReq 3 5]).owner (.group 0)).heldReqs.any fun h => sameSet h (setReq 3 5)) = true ∧
    (((locked []).owner (.group 0)).heldReqs.any fun h => sameSet h (setReq 3 5)) = false ∧ ((locked []).owner (.group 0)).holders (setReq 3 5) = [] ∧
    ((List.range 512).find? fun e => (((locked []).owner (.group 0)).locks.find e).isNone) = some 0 ∧
    ((locked [setReq 4 9]).owner (.group 0)).holders (setReq 3 5) ≠ [] ∧
    ((((locked [setReq 4 9]).owner (.group 0)).holders (setReq 3 5)).all fun h => reqOlder (setReq 3 5) h) = true ∧
    ((((locked [setReq 4 1]).owner (.group 0)).holders (setReq 3 5)).all fun h => reqOlder (setReq 3 5) h) = false := by decide
theorem witness_grants : let s := (live false 1).updMe fun x => { x with asking := [setReq 3 5], task := some 3 }
    s.coreHeld (ckOf 1) = false ∧ ((s.strand 1).asking.find? fun q => q.set == 2) = some (setReq 3 5) ∧
    ((s.updMe fun x => { x with asking := [] }).strand 1).asking.find? (fun q => q.set == 2) = none ∧ (s.strand 1).task = some 3 ∧
    (s.recSets (ckOf 1) 3).testBit 2 = false ∧ (live false 1).lockCore (.group 0) 0 3 (5, 9) 2 = none ∧
    (locked [setReq 3 5]).lockCore (.group 0) 0 3 (5, 9) 2 ≠ none := by decide
/-- A wounded task that no strand runs, one that a settled strand runs, and one that an unsettled strand runs. -/
theorem witness_wounds : let s := ((withPart (live false 1) fun p => { p with t := 4 }).poke (recFlat 0 3 + 26) 1 4).poke (recFlat 0 3 + 27) 1 4
    s.coreHeld 0 = false ∧ s.recState 0 3 ≠ recEnding ∧ s.recState 0 3 ≠ recFree ∧ s.recState 0 3 ≠ recPending ∧ s.runner 0 3 = none ∧ s.recSets 0 3 ≠ 0 ∧
    (let t := s.updStrand 5 fun x => { x with task := some 3, st := .frozen }
     t.runner 0 3 = some 5 ∧ (t.strand 5).killing = false ∧ (t.strand 5).settled = true ∧
     ((t.updStrand 5 fun x => { x with st := .ready }).strand 5).settled = false) := by decide
theorem witness_kills : let s := (live false 1).updStrand 5 fun x => { x with killing := true, st := .frozen }
    (s.strand 5).killing = true ∧ s.coreHeld (ckOf 5) = false ∧ (s.strand 5).settled = true ∧ (s.strand 5).ceOut = [] ∧ s.hasJobs 5 = false ∧
    (s.strand 5).task = none ∧ ((s.updStrand 5 fun x => { x with task := some 3 }).strand 5).task = some 3 ∧
    ((s.updStrand 5 fun x => { x with st := .ready }).strand 5).st ≠ .idle := by decide

/-- A launch of one task at the sender's core, a held task that can be placed now, and one that cannot. -/
def launching : State := (withPart (live true 0) fun p => { p with t := 4, sup := 3 }).updRegion 0 fun r =>
  { r with launches := [{ hdr := header, ox := 0, oy := 0, oseat := 0, age := 0, next := 0, counts := [] }] }
theorem witness_launches : (launching.region 0).pid = some 0 ∧ (launching.part 0).preempt = none ∧ (launching.region 0).held = [] ∧
    launching.hdrHome 0 header 0 0 0 (hdrWork header 0) = some 0 ∧ launching.rkOf 0 = 0 ∧
    (launching.placeTask header (BitVec.ofNat 64 (hdrWork header 0)) 0 (hdrRbase header) 0).isSome = true ∧
    (launching.updCore 0 fun c => { c with drained := true }).placeTask header (BitVec.ofNat 64 (hdrWork header 0)) 0 (hdrRbase header) 0 = none ∧
    launching.hdrHome 0 (List.replicate 64 0) 200 0 0 0 = none := by decide
/-- A held task before 1 ms, at 1 ms, and reported. -/
def heldTask (told : Bool) : HeldTask := { hdr := header, wid := 0, core := 0, record := 0, age := 0, since := 0, told := told }
theorem witness_held : ((launching.updRegion 0 fun r => { r with held := [heldTask false] }).region 0).held = [heldTask false] ∧ (heldTask false).told = false ∧
    (0 : Nat) + 1000000 ≤ ({ launching with now := 1000000 } : State).now ∧ launching.now < 0 + 1000000 ∧ (heldTask true).told = true := by decide
/-- The governor before its time and at it; stage 0 over HI with room and stage 1 under LO with a core to spare. -/
theorem witness_governor : let st := fun (n lo hi mn mx : Nat) (cs : List Nat) =>
      { Stage.reset with en := true, lo := lo, hi := hi, minc := mn, maxc := mx, cores := cs,
                         q := { Stage.reset.q with elems := List.replicate n { val := 0, mark := false, task := none } } }
    let r := { (live true 0).region 0 with stages := [(0, st 3 0 2 0 4 []), (1, st 0 1 2 0 4 [5])] }
    r.reassign = some (0, 1) ∧ ((live true 0).region 0).reassign = none ∧
    (r.stages.getD 1 Stage.reset).cores.foldl (fun m c => max m (c + 1)) 0 = 5 + 1 ∧ (live true 0).coreHeld 5 = false ∧
    ((live true 0).region 0).govAt ≤ (live true 0).now ∧ (live true 0).now < { (live true 0).region 0 with govAt := 1 }.govAt := by decide
/-- Firmware without a kernel image never starts; the module has or has not started; a descriptor of zeros is refused; numbers are free. -/
theorem witness_module_start : State.reset.igfel.started = false ∧ bootOk [] = false ∧
    (live true 0).createCode [] [] = some 1 ∧ (live true 0).freePids ≠ [] ∧ ({ State.reset with igfel := { State.reset.igfel with started := true } } : State).igfel.started = true := by
  decide
/-- A domain of two modules whose peer agrees or does not; a channel that leaves the secure world. -/
theorem witness_domains : let p := { (live true 0).part 0 with dmask := 3, dmod := 0, dpeer := 4 }
    p.live = true ∧ p.dmask ≠ 0 ∧ (∀ m < 8, p.dmask.getLsbD m = true → m ≠ p.dmod → m = 1) ∧ State.reset.channelMapped 3 = false ∧
    (((live true 0).updChannel 3 fun c => { c with secure := true }).channel 3).secure = true ∧ ((live true 0).channel 3).secure = false := by decide
/-- A pre-emption that may open, one in its grace, one stopping with all at rest, and the strand that does not yield. -/
theorem witness_preemption : let s := withPart (live true 0) fun p => { p with preempt := some { area := 0, since := 0, stopping := false, stopped := [] } }
    let t := withPart (live true 0) fun p => { p with preempt := some { area := 0, since := 0, stopping := true, stopped := [] } }
    ((live true 0).part 0).live = true ∧ ((live true 0).part 0).preempt = none ∧ s.now < 0 + 200000 ∧ 0 + 200000 ≤ ({ s with now := 200000 } : State).now ∧
    (t.updMe fun x => { x with st := .stopped }).allStopped 0 = true ∧ t.allStopped 0 = false := by decide
theorem witness_preempt_area : (live true 0).ofWorld ((live true 0).part 0).secure 0 ((live true 0).saveBytes 0) = true := by decide
theorem witness_drained : ∀ gk ∈ (live true 0).partGroups 0, (live true 0).groupDrained gk = true := by decide

/-- A host command of 64 bytes: operation, flags, partition, pointer A and C, comparison and time-out. -/
def hostCmd (op flags pid : Nat) (a : Reg80) (c : Nat) : List Byte :=
  leBytes 1 op ++ leBytes 1 flags ++ leBytes 1 pid ++ List.replicate 5 0 ++ leBytes 10 a.toNat ++ List.replicate 6 0 ++ List.replicate 16 0 ++
    leBytes 8 c ++ List.replicate 8 0 ++ leBytes 1 0 ++ List.replicate 3 0 ++ leBytes 4 1
def hosting (cmd : List Byte) : State := (live true 0).updHostq 0 fun h =>
  { h with run := some { cmd := cmd, since := 0, outstanding := [], code := 0, sent := 0, pollAt := 0 } }
/-- Every host command may run in the open partition; a misaligned launch may not; the pieces of a launch header and of a signal exist. -/
theorem witness_host : (∀ op ∈ [1, 2, 3, 4], hcOp (hostCmd op 0 0 (make 0x0100 0xFFFC0) 8) = op ∧ hcOk (hostCmd op 0 0 (make 0x0100 0xFFFC0) 8) = true ∧
      (live true 0).hcWorld ((live true 0).hostq 0) (hostCmd op 0 0 (make 0x0100 0xFFFC0) 8) = true) ∧
    hcOk (hostCmd 1 0 0 (make 0x0100 8) 8) = false ∧ ((live true 0).hostPieces 0 (make 0x0100 0xFFFC0) 64 false).isSome = true ∧
    ((live true 0).hostPieces 0 (make 0x0100 0xFFFC0) 8 true).isSome = true ∧ hcHost (hostCmd 3 2 0 0 8) = true ∧ hcHost (hostCmd 3 0 0 0 8) = false ∧
    ((live true 0).hostq 0).status = 0 ∧ (((live true 0).updHostq 0 fun h => { h with status := 5 }).hostq 0).status ≠ 0 ∧
    ((hosting (hostCmd 4 0 0 (make 0x0100 0xFFFC0) 8)).hostq 0).run.isSome = true ∧ hcTmo (hostCmd 4 0 0 0 8) = 1000 ∧
    hcHolds (hostCmd 4 0 0 0 0) 0 = true ∧ hcHolds (hostCmd 4 0 0 0 8) 0 = false := by decide
/-- A scrub that is stopped, not due, and due; a rim line that is due and the next that is not; a core that has not failed. -/
theorem witness_scrubs : let u := ErrUnit.core 0
    (((live true 0).updUnit (unitKey u) fun x => { x with err := { x.err with scrub := 0 } }).unit (unitKey u)).err.scrub = 0 ∧
    (let s := (live true 0).updUnit (unitKey u) fun x => { x with err := { x.err with scrub := 8 } }
     (s.unit (unitKey u)).err.scrub ≠ 0 ∧ (s.region (unitSite u).1).cyc < (s.unit (unitKey u)).scrubAt + 2 ^ 8 ∧
     (let t := s.updRegion 0 fun r => { r with cyc := 256 }
      (t.unit (unitKey u)).scrubAt + 2 ^ 8 ≤ (t.region (unitSite u).1).cyc)) ∧
    rimDue ((live true 0).channel 0).scrubAt ≤ (live true 0).now ∧ (live true 0).now < rimDue 1 ∧ ((live true 0).core 0).fatal = false := by decide
theorem witness_boundaries : let s := live true 0
    (s.part (pidOfG 0)).live = true ∧ (s.group 0).entry.state ≠ 3 ∧ s.boundaryBlocked 0 = false ∧ s.boundaryDue 0 = true ∧ (s.group 0).boundary = none ∧
    ({ s with groups := s.groups.put 0 { s.group 0 with nextBoundary := 9 } } : State).boundaryDue 0 = false := by decide
def boundaryAt (st : BStage) (acks : List Nat) : Boundary :=
  { e := 3, stage := st, snap := none, since := 0, stopped := [], logs := [], toks := [], out := [], acks := acks, journal := [] }
def bounding (st : BStage) (acks : List Nat) : State := (live true 0).updGroup 0 fun g => { g with boundary := some (boundaryAt st acks) }
/-- A boundary that quiesces, with the group quiet or not, its time within 2 ms or past, and one that transfers with 3 answers. -/
theorem witness_boundary_stages : ((bounding .quiesce []).group 0).boundary = some (boundaryAt .quiesce []) ∧ (bounding .quiesce []).groupQuiet 0 = false ∧
    ((bounding .quiesce []).updStrand 0 fun x => { x with st := .stopped }).groupQuiet 0 = true ∧ (bounding .quiesce []).now < 0 + 2000000 ∧
    0 + 2000000 ≤ ({ bounding .quiesce [] with now := 2000000 } : State).now ∧ (boundaryAt .transfer [0, 1, 2]).acks.contains 3 = false ∧
    (boundaryAt .transfer [0, 1, 2]).acks.length = 3 ∧ 4 ≤ (boundaryAt .transfer [0, 1, 2, 3]).acks.length ∧
    (∀ ck ∈ groupCores 0, ((bounding .transfer [0, 1, 2, 3]).core ck).fatal = false) := by decide
/-- A group without and with a durable boundary, with every copy in place or one lost; a place for it, and none. -/
theorem witness_recovery : ((live true 0).group 0).durable = none ∧ (∀ ck ∈ groupCores 0, ((live true 0).core ck).copyLost = 0) ∧
    (((live true 0).updGroup 0 fun g => { g with durable := some ((live true 0).snapshot 0 0 []) }).group 0).durable.isSome = true ∧
    (∃ n, ((live true 0).updRegion 0 fun r => { r with live := 0 }).choosePlace 0 = .error n) ∧ (∃ p, (live true 0).choosePlace 0 = .ok p) :=
  ⟨by decide, by decide, by decide, ⟨_, rfl⟩, ⟨_, rfl⟩⟩
/-- A recovering group whose logs are exhausted, or name a line still; a change of an entry in each phase, with a router to answer. -/
def changing (phase2 : Bool) (done : List Nat) : State := (live true 0).updGroup 0 fun g =>
  { g with rebind := some { entry := g.entry, old := g.entry, pending := done, committed := done, lost := [], phase2 := phase2, since := 0, basin := none } }
theorem witness_rebinds : (let s := (live true 0).updGroup 0 fun g => { g with recovery := some { seat := 0, since := 0, records := 0 }, entry := { g.entry with state := 2 } }
     (s.group 0).recovery = some { seat := 0, since := 0, records := 0 } ∧ (s.group 0).entry.state = 2 ∧ s.replayDone 0 = true ∧
     (s.updCore 0 fun c => { c with replay := [.arrayOrder 0 7] }).replayDone 0 = false) ∧
    ((changing false []).group 0).rebind.isSome = true ∧ ((changing false []).routers 0).contains 5 = true ∧ ([] : List Nat).contains 5 = false ∧
    (changing true []).now < 0 + 50000 ∧ 0 + 50000 ≤ ({ changing true [] with now := 50000 } : State).now ∧
    (changing true []).groupOfKey 0 0 = some 0 ∧
    (let s := (live true 0).updGroup 0 fun g => { g with forwarding := true, forwardUntil := 9 }
     (s.group 0).forwarding = true ∧ s.now < (s.group 0).forwardUntil ∧ (s.group 0).forwardUntil ≤ ({ s with now := 9 } : State).now) := by decide
theorem witness_swap : let s := (live true 0).updCore 0 fun c => { c with dbl := true, parked := [9] }
    (s.core 0).dbl = true ∧ ((s.updStrand 9 fun x => { x with st := .ready }).swaps 0).contains (9, 1) = true ∧ s.swaps 0 = [] := by decide
/-- Basin commands in and out of order, of another region's core, with a spare target and without, and on a still core. -/
def basinCmd (ck : Nat) : BasinCmd := { region := 0, core := ck, group := 0, pos := 4 }
def basinAt (next : Nat) : State := (live true 0).updRegion 0 fun r =>
  { r with basin := { r.basin with seqCore := some 0, seqNext := next, target := (0, 4) }, sparePos := [(0, 4)] }
theorem witness_basin : (live true 0).basinError (basinCmd 0) 1 = none ∧ (live true 0).basinError (basinCmd 0) 3 = some 3 ∧
    (live true 0).basinError (basinCmd (2 ^ 22)) 7 = some 1 ∧ (∀ n ∈ [2, 3, 4, 5], (basinAt n).basinError (basinCmd 0) n = none) ∧
    (basinAt 3).basinError (basinCmd 0) 7 = none ∧ (basinAt 3).basinError (basinCmd 0) 8 = none ∧ (basinAt 3).spareTarget (basinCmd 0) = true ∧
    (basinAt 3).spareTarget { basinCmd 0 with pos := 3 } = false ∧ ((basinAt 3).group 0).boundary = none ∧
    ((basinAt 3).region 0).basin.target = ((basinCmd 0).group, (basinCmd 0).pos) ∧ ((changing false []).group (gkOf 0)).rebind ≠ none ∧
    (((basinAt 3).updStrand 0 fun x => { x with st := .stopped }).coreStill 0 = true) ∧ (basinAt 3).coreStill 0 = false ∧
    (basinAt 3).groupOfKey (pidOf 0) 0 = some 0 ∧ (live true 0).posReturns (basinCmd 0) 0 = true ∧ (basinAt 3).posReturns (basinCmd 0) 0 = false ∧
    (live true 0).groupOfKey (pidOf 0) 35 = none ∧ ((live true 0).region 0).groupReturns 35 = true ∧
    (((live true 0).updRegion 0 fun r => { r with spares := [35] }).region 0).groupReturns 35 = false := by decide

/-- A false guard; a scalar word with no stream; memory in its form, with a step that follows. -/
theorem witness_false_guard : let h : Hdr := { lone := false, guard := 1 }
    encode (.iaAddC h (.imm 700)) = some 0x04040ABC ∧ guardTrue (live true 0).ctx ((0x04040ABC : Word32).extractLsb' 26 4) = false := by decide
theorem witness_scalar_frame : encode (.iaAdd h0 (.g 4) (.g 5)) = some 0x80000205 ∧ isA 0x80000205 = true ∧ namesStream 0x80000205 = false ∧
    ((0x80000205 : Word32).toNat / 2 ^ 23) % 8 ≤ 2 ∧ (∃ t, exec (.iaAdd h0 (.g 4) (.g 5)) (live true 0) = .next t ∧ t.held = false) :=
  ⟨by decide, by decide, by decide, by decide, _, rfl, rfl⟩
theorem witness_well_formed : (Instr.iaAdd h0 (.g 4) (.g 5)).wf = true := by decide
theorem witness_mem_form : Safety.MemForm (live true 0) ∧ ∃ t, step (live true 0) = .next t :=
  ⟨by unfold Safety.MemForm; decide, _, rfl⟩
/-- Two disturbed cells 15 places apart in one row of the local store. -/
def cell (n : Nat) : Disturbance := { unit_ := .core 0, array := 0, bank := 3, par := false, row := 0x1A3, cell := n }
theorem witness_cells : disturbanceFits (cell 0) = true ∧ disturbanceFits (cell 15) = true ∧ (cell 15).cell < (cell 0).cell + 16 := by decide
/-- Nothing to happen; an event on the agenda; a core whose strand issues; a lone word; a pair; a pair that is bad. -/
theorem witness_steps : State.reset.tick.chosen = none ∧
    ({ State.reset with agenda := [.fetchRetryTimeout 0] } : State).tick.chosen = some (.event 0) ∧
    (State.reset.withFetchWord 32 0x40392001).tick.chosen = some (.core 0) ∧ (State.reset.withFetchWord 32 0x40392001).tick.nextStrand 0 = some 0 ∧
    bundleOf 0x0000000040392001 false = .one 0x40392001 false ∧ bundleOf 0x8000020500040ABC false = .two 0x00040ABC 0x80000205 ∧
    sameUnit 0x00040ABC 0x80000205 = true := by decide

/-- A landing request of each kind of type, with an active and an inactive element, whose wide type is twice and four times as wide. -/
def vreq (op : VOp) (vt : BitVec 64) : VReq :=
  { op := op, d := 3, o := .vec (State.reset.ctx.v[1]), t := .vec (State.reset.ctx.v[2]), vt := vt, mask := some { d := 5, p := false },
    mz := false, rm := 0, add := none, sat := false, quart := 0, rng := 0 }
theorem witness_landing : ∃ a b c d : BitVec 64,
    (etOf a).kind = .i ∧ (wtOf a).w = 2 * (etOf a).w ∧ (etOf b).kind = .i ∧ (wtOf b).w = 4 * (etOf b).w ∧ (etOf c).kind ≠ .i ∧ vtOk d = true ∧
    (vreq .add a).mode ≠ 5 ∧ (vreq .add a).op = .add ∧ (vreq .add a).active 0 = true ∧ (vreq .add a).active 1 = false ∧ 0 < (etOf a).n :=
  ⟨BitVec.ofNat 64 (5 + 128 * 4), BitVec.ofNat 64 (6 + 128 * 4), BitVec.ofNat 64 0, 0, by decide⟩
/-- A user strand whose task 3 holds set 2, with room for `n` deferred entries in its undo log at 0x1000. -/
def deferring (n : Nat) : State :=
  ((((withPart (live false 1) fun p => { p with t := 4 }).poke (recFlat 0 3 + 27) 1 4).poke (localFlat 0 (64 * 3 + 48)) 4 0x1000).poke (localFlat 0 0x1008) 4 n).updMe
    fun x => { x with task := some 3, effIssue := true }
theorem witness_deferral : (∀ n ∈ [0, 1], (deferring n).heldSets (deferring n).cur ≠ 0 ∧ (deferring n).me.task = some 3 ∧ Starts (deferring n) (deferring n)) ∧
    (let s := deferring 1
     s.load (localFlat s.myCk (64 * 3 + 30)) 2 < s.load (s.undoAt s.myCk 3 + 8) 4) ∧
    (let s := deferring 0
     s.load (s.undoAt s.myCk 3 + 8) 4 ≤ s.load (localFlat s.myCk (64 * 3 + 30)) 2) := by
  refine ⟨?_, by decide, by decide⟩
  intro n hn; simp only [List.mem_cons, List.not_mem_nil, or_false] at hn
  rcases hn with rfl | rfl <;> exact ⟨by decide, by decide, fun _ => rfl⟩
/-- An effect that met a full cache, before and after 2 µs. -/
theorem witness_effect_again : let s := (live false 1).updMe fun x => { x with why := .effect, farBusy := some (0, 0) }
    (s.strand 1).why = .effect ∧ ((s.strand 1).farBusy.any fun p => decide (s.now < p.2 + 2000)) = true ∧
    (({ s with now := 2000 } : State).strand 1).farBusy.any (fun p => decide (2000 < p.2 + 2000)) = false := by decide
/-- Another module's access to rim memory that the tables map. -/
def mapped : State := ((withPart (live false 1) fun p => { p with agreed := true, ptroot := 0x10000 }).poke (rimFlat 0x10000) 8 0x20001).poke (rimFlat 0x20000) 8 7
def rimRead : ModAccess := { moduleRead 0x400 with tile := false }
theorem witness_module_rim : mapped.modAll 0 rimRead [0x400] = .ok [(rimFlat 0x400, 8)] ∧ isLocalFlat (rimFlat 0x400) = false ∧
    mapped.accessWaits (rimFlat 0x400) = false ∧ (mapped.owner (ownerOfFlat (rimFlat 0x400))).full (modulePid 2) 9 = false ∧
    mapped.modEntry rimRead = none := ⟨rfl, by decide, by decide, by decide, by decide⟩
/-- The stamp of a task, which a wound names, and another. -/
theorem witness_wound_stamp : (live false 1).stampOf 0 3 = (0, 0) ∧ (live false 1).stampOf 0 3 ≠ (1, 1) := by decide
/-- A server whose upward and downward sends failed, and a round whose sends have ended. -/
theorem witness_reduction_sends : let s := (live false 0).updCore 0 fun c => { c with redpin := BitVec.ofNat 64 (2 ^ 63), red := { c.red with phase := .up, upFailed := true } }
    (s.core 0).red.phase = .up ∧ (s.core 0).red.upFailed = true ∧
    (let t := s.updCore 0 fun c => { c with red := { c.red with phase := .down, upFailed := false, downFailed := true } }
     (t.core 0).red.phase = .down ∧ (t.core 0).red.downFailed = true) ∧
    (∃ r : RedState, r.phase = .down ∧ r.settled = true) ∧ (∃ r : RedState, r.phase = .down ∧ r.settled = false) :=
  ⟨by decide, by decide, by decide, ⟨{ RedState.reset with phase := .down, up := none, down := none }, by decide⟩,
   ⟨{ RedState.reset with phase := .down, down := some 3 }, by decide⟩⟩
/-- A slip that resumes. -/
theorem witness_slip_again : ((live false 1).updMe fun x => { x with carry := some (.slip, 9) }).me.carry = some (.slip, 9) := by decide
/-- A fill that is on its way already. -/
theorem witness_asked_fill : (({ live false 1 with agenda := [.fetchFillArrival 1 0] } : State).agenda.any fun e => match e with
      | .fetchFillArrival c l => gkOf c == gkOf 0 && l == 0
      | _ => false) = true := by decide
/-- A retired position that the self-test has passed, and one that is not retired. -/
theorem witness_retired : let s := (live true 0).updRegion 0 fun r => { r with retired := [(35, 1)] }
    (live true 0).groupOfKey (pidOf 0) 35 = none ∧ ((s.region 0).retired.contains (35, 1) && ((s.region 0).groupLive 35).testBit 1) = true ∧
    (((live true 0).region 0).retired.contains (35, 1)) = false := by decide
/-- A live partition whose number a save bears, and one that is not live. -/
theorem witness_beside : let s := live true 0
    ((s.part 0).live && !s.interrupted 0) = true ∧ ((s.part 5).live && !s.interrupted 5) = false := by decide
/-- A router with a place for a pending entry. -/
theorem witness_router_places : (changing false []).pendingAt 0 5 < 16 := by decide
/-- A copy that is lost. -/
theorem witness_copy_lost : ∃ ck ∈ groupCores 0, (((live true 0).updCore 0 fun c => { c with copyLost := 1 }).core ck).copyLost ≠ 0 := ⟨0, by decide, by decide⟩
/-- A prefix that a vector word does not admit, and one it does. -/
theorem witness_prefix_refused : prefixRefused (.vxAnd h0 1 (.v 1) (.v 2)) { noPrefix with sat := true } = true ∧
    prefixRefused (.vxAnd h0 1 (.v 1) (.v 2)) noPrefix = false ∧ prefixRefused (.vxXchg h0 1 2) { noPrefix with sat := true } = true ∧
    prefixRefused (.iaAdd h0 (.g 4) (.g 5)) { noPrefix with sat := true } = false := by decide
/-- Words of the frame: one that leaves memory alone, one that writes it at issue, one that joins others; a byte that an atomic writes. -/
theorem witness_words_frame : (joinsOthers (.vxAdd h0 1 (.v 1) (.v 2)) = false ∧ writesAtIssue (.vxAdd h0 1 (.v 1) (.v 2)) = false) ∧
    (joinsOthers (.atAdd64 h0 4 (.g 4)) = false ∧ writesAtIssue (.atAdd64 h0 4 (.g 4)) = true) ∧ joinsOthers (.syGbar h0 2) = true ∧
    Undisturbed (live true 0) ∧ Memory.wf (live true 0).mem = true ∧ (live true 0).heldSets (live true 0).cur = 0 ∧
    (∃ w t, encode (.vxAdd h0 1 (.v 1) (.v 2)) = some w ∧ exec (.vxAdd h0 1 (.v 1) (.v 2)) (live true 0) = .next t ∧ t.held = false) ∧
    (∃ w t, encode (.atAdd64 h0 4 (.g 4)) = some w ∧ exec (.atAdd64 h0 4 (.g 4)) (with4 ((live true 0).updMe fun x => { x with effIssue := true }) (num 0x400)) = .next t ∧
      t.held = false) :=
  ⟨by decide, by decide, by decide, ⟨fun _ => rfl, fun _ => rfl⟩, by decide, by decide, ⟨_, _, rfl, rfl, rfl⟩, ⟨_, _, rfl, rfl, rfl⟩⟩
set_option maxRecDepth 60000 in
/-- The bytes that the storing words of the frame write: an atomic's at both ends of its word, an adopted record, FLOOR, and a deferred entry. -/
theorem witness_stored_bytes : let s := with4 ((live true 0).updMe fun x => { x with effIssue := true }) (num 0x400)
    AtomicStores .add64 (.g 4) s (localFlat 0 0x400) ∧ AtomicStores .add64 (.g 4) s (localFlat 0 0x407) ∧
    RecordByte (.g 4) s (recFlat 0 0x400 + 26) ∧
    FloorStores (.g 4) (with4 (live true 0) (num 0x4000)) (localFlat 0 (0x4000 + 5204)) ∧
    DeferStores (deferring 1) (localFlat 0 (64 * 3 + 30)) ∧ DeferStores (deferring 1) ((deferring 1).undoAt 0 3 + 64) :=
  ⟨⟨num 0x400, _, .tile 0 0x400, [(localFlat 0 0x400, 8)], _, fun _ => rfl, by decide, rfl, by decide, by decide, .inl (by decide)⟩,
   ⟨num 0x400, _, .tile 0 0x400, [(localFlat 0 0x400, 8)], _, fun _ => rfl, by decide, rfl, by decide, by decide, .inl (by decide)⟩,
   ⟨_, _, fun _ => rfl, by decide⟩, ⟨_, _, 0x4000, fun _ => rfl, by decide, by decide, by decide⟩,
   ⟨3, by decide, by decide, .inl (by decide)⟩, ⟨3, by decide, by decide, .inr (by decide)⟩⟩

end Sys2Proof.Tests
end

section
/-! PROOFS. Every instruction answers a next state (O55), and every step keeps memory and its marks in their canonical form (O58).

Memory and its marks are written through few functions, which keep their form (`Laws`); all else builds on these. So each function of
the machine has one lemma, `MemForm.f` (of a state the form holds, so it holds after `f`), whose proof follows the body of `f` and cites the
lemmas of the functions that the body calls; a continuation is a hypothesis of the same kind. `KeepsForm` joins that to the claim that an
outcome is a next state, so one walk through the arms of `exec`, and one up to `step`, settles both. -/

namespace Sys2Proof.Safety

open Sys2Proof.Machine Sys2Proof.Laws

section
variable {s t : State} {α β : Type}

/-! ### Writes of memory and marks -/

theorem MemForm.mem (hs : MemForm s) : Memory.wf s.mem = true := hs.1

theorem MemForm.poison (hs : MemForm s) : risesFrom 0 s.poison = true := hs.2

theorem insertNats_rises {l : List α} {f : α → Nat} {p : List Nat} (hp : risesFrom 0 p = true) :
    risesFrom 0 (l.foldl (fun p i => insertNat p (f i)) p) = true :=
  foldl_rises _ _ _ (fun _ _ h => insertNat_rises _ _ _ (Nat.zero_le _) h) hp

/-- Nothing but memory and its marks decides the form. -/
theorem MemForm.update {grade fused deferMarks strands cores groups regions channels units links parts saved queues igfel outbox answers
    agenda now steps fresh cur word second held} (hs : MemForm s) :
    MemForm ⟨grade, fused, s.mem, s.poison, deferMarks, strands, cores, groups, regions, channels, units, links, parts, saved, queues,
      igfel, outbox, answers, agenda, now, steps, fresh, cur, word, second, held⟩ :=
  hs

theorem MemForm.filter {p : Host.Cell → Bool} {q : Nat → Bool} (hs : MemForm s) :
    MemForm { t with mem := s.mem.filter p, poison := s.poison.filter q } :=
  ⟨memFilter_wf _ _ hs.mem, filterNat_rises _ _ _ hs.poison⟩

theorem MemForm.poisonAll {l : List α} {f : α → Nat} (hs : MemForm s) :
    MemForm { s with poison := l.foldl (fun p i => insertNat p (f i)) s.poison } :=
  ⟨hs.mem, insertNats_rises hs.poison⟩

/-! ### Shapes of a body: branches, folds, answers beside a state -/

theorem MemForm.ite {c : Prop} {_ : Decidable c} (hs : MemForm s) (ht : MemForm t) : MemForm (if c then s else t) := by
  split
  · exact hs
  · exact ht

theorem MemForm.beside {x : α} (hs : MemForm s) : MemForm (x, s).2 := hs

theorem MemForm.ite_snd {c : Prop} {_ : Decidable c} {p q : α × State} (hp : MemForm p.2) (hq : MemForm q.2) :
    MemForm (if c then p else q).2 := by
  split
  · exact hp
  · exact hq

theorem MemForm.ite_thd {c : Prop} {_ : Decidable c} {p q : α × β × State} (hp : MemForm p.2.2) (hq : MemForm q.2.2) :
    MemForm (if c then p else q).2.2 := by
  split
  · exact hp
  · exact hq

theorem MemForm.foldl {l : List α} {f : State → α → State} (hs : MemForm s) (hf : ∀ {t x}, MemForm t → MemForm (f t x)) :
    MemForm (l.foldl f s) :=
  List.foldlRecOn l f hs fun _ ht _ _ => hf ht

theorem MemForm.foldl_fst {l : List α} {f : State × β → α → State × β} {p : State × β} (hp : MemForm p.1)
    (hf : ∀ {q x}, MemForm q.1 → MemForm (f q x).1) : MemForm (l.foldl f p).1 :=
  List.foldlRecOn (motive := fun q => MemForm q.1) l f hp fun _ hq _ _ => hf hq

theorem MemForm.foldl_snd {l : List α} {f : β × State → α → β × State} {p : β × State} (hp : MemForm p.2)
    (hf : ∀ {q x}, MemForm q.2 → MemForm (f q x).2) : MemForm (l.foldl f p).2 :=
  List.foldlRecOn (motive := fun q => MemForm q.2) l f hp fun _ hq _ _ => hf hq

theorem MemForm.of_snd {p : α × State} {x : α} (hp : MemForm p.2) (e : p = (x, t)) : MemForm t := by
  subst e; exact hp

theorem MemForm.getD {o : Option State} (hs : MemForm s) (ho : ∀ {t}, o = some t → MemForm t) : MemForm (o.getD s) := by
  cases o with
  | none => exact hs
  | some t => exact ho rfl

/-! ### Outcomes -/

/-- The outcome is a next state, in canonical form where the state before is. -/
def KeepsForm (s : State) (r : Res) : Prop := ∃ t, r = .next t ∧ (MemForm s → MemForm t)

theorem KeepsForm.next (h : MemForm s → MemForm t) : KeepsForm s (.next t) := ⟨t, rfl, h⟩

theorem KeepsForm.of {r : Res} (hr : KeepsForm t r) (ht : MemForm s → MemForm t) : KeepsForm s r := by
  obtain ⟨u, rfl, hu⟩ := hr
  exact .next fun hs => hu (ht hs)

theorem KeepsForm.thenState {r : Res} {f : State → Res} (hr : KeepsForm s r) (hf : ∀ {t}, (MemForm s → MemForm t) → KeepsForm s (f t)) :
    KeepsForm s (thenState r f) := by
  obtain ⟨t, rfl, ht⟩ := hr
  exact hf ht

theorem KeepsForm.ite {c : Prop} {_ : Decidable c} {r q : Res} (hr : KeepsForm s r) (hq : KeepsForm s q) : KeepsForm s (if c then r else q) := by
  split
  · exact hr
  · exact hq

/-! ### `Machine/Access` -/

theorem MemForm.setStrand {sid : Nat} {x : Strand} (hs : MemForm s) : MemForm (s.setStrand sid x) := hs

theorem MemForm.setCore {ck : Nat} {x : Core} (hs : MemForm s) : MemForm (s.setCore ck x) := hs

theorem MemForm.setGroup {gk : Nat} {x : Machine.Group} (hs : MemForm s) : MemForm (s.setGroup gk x) := hs

theorem MemForm.setRegion {rk : Nat} {x : Region} (hs : MemForm s) : MemForm (s.setRegion rk x) := hs

theorem MemForm.setChannel {c : Nat} {x : Channel} (hs : MemForm s) : MemForm (s.setChannel c x) := hs

theorem MemForm.setPart {p : Nat} {x : Machine.Part} (hs : MemForm s) : MemForm (s.setPart p x) := hs

theorem MemForm.updUnit {u : Nat} {f : SramUnit → SramUnit} (hs : MemForm s) : MemForm (s.updUnit u f) := hs

theorem MemForm.setHostq {q : Nat} {x : HostQueue} (hs : MemForm s) : MemForm (s.setHostq q x) := hs

theorem MemForm.updStrand {sid : Nat} {f : Strand → Strand} (hs : MemForm s) : MemForm (s.updStrand sid f) := hs.setStrand

theorem MemForm.updCore {ck : Nat} {f : Core → Core} (hs : MemForm s) : MemForm (s.updCore ck f) := hs.setCore

theorem MemForm.updGroup {gk : Nat} {f : Machine.Group → Machine.Group} (hs : MemForm s) : MemForm (s.updGroup gk f) := hs.setGroup

theorem MemForm.updData {gk : Nat} {f : GroupData → GroupData} (hs : MemForm s) : MemForm (s.updData gk f) := hs.updGroup

theorem MemForm.updRegion {rk : Nat} {f : Region → Region} (hs : MemForm s) : MemForm (s.updRegion rk f) := hs.setRegion

theorem MemForm.updChannel {c : Nat} {f : Channel → Channel} (hs : MemForm s) : MemForm (s.updChannel c f) := hs.setChannel

theorem MemForm.updPart {p : Nat} {f : Machine.Part → Machine.Part} (hs : MemForm s) : MemForm (s.updPart p f) := hs.setPart

theorem MemForm.updHostq {q : Nat} {f : HostQueue → HostQueue} (hs : MemForm s) : MemForm (s.updHostq q f) := hs.setHostq

theorem MemForm.push {e : Instr} (hs : MemForm s) : MemForm (s.push e) := hs

theorem MemForm.pushOnce {e : Instr} (hs : MemForm s) : MemForm (s.pushOnce e) := hs.ite hs.push

theorem MemForm.bump (hs : MemForm s) : MemForm s.bump := hs

theorem MemForm.updMe {f : Strand → Strand} (hs : MemForm s) : MemForm (s.updMe f) := hs.updStrand

theorem MemForm.updCtx {f : Ctx → Ctx} (hs : MemForm s) : MemForm (s.updCtx f) := hs.updMe

theorem MemForm.enter {way : List Nat} {n : Nat} {e : Instr} (hs : MemForm s) : MemForm (s.enter way n e) := by
  unfold State.enter
  split
  · exact hs.push
  · exact hs.update.pushOnce

theorem MemForm.sendMsg {m : Msg} {e : Instr} (hs : MemForm s) : MemForm (s.sendMsg m e) := hs.enter

theorem MemForm.sendReply {m : Msg} {n : Nat} {e : Instr} (hs : MemForm s) : MemForm (s.sendReply m n e) := hs.enter

theorem MemForm.keepEvents {p : Instr → Bool} (hs : MemForm s) : MemForm (s.keepEvents p) := by
  unfold State.keepEvents
  exact hs.update

theorem MemForm.updOwner {w : Owner} {f : OwnerData → OwnerData} (hs : MemForm s) : MemForm (s.updOwner w f) := by
  unfold State.updOwner
  split
  · exact hs.updData
  · exact hs.updChannel
  · exact hs

/-! ### `Machine/Memory` -/

theorem MemForm.poke {a n v : Nat} (hs : MemForm s) : MemForm (s.poke a n v) :=
  ⟨memWriteList_wf _ _ _ hs.mem, hs.poison⟩

theorem MemForm.pokeList {a : Nat} {l : List Byte} (hs : MemForm s) : MemForm (s.pokeList a l) :=
  ⟨memWriteList_wf _ _ _ hs.mem, hs.poison⟩

theorem MemForm.askBoundary {ck : Nat} (hs : MemForm s) : MemForm (s.askBoundary ck) := hs.updCore.pushOnce

theorem MemForm.noteChanged {line : Nat} (hs : MemForm s) : MemForm (s.noteChanged line) := .ite (hs.updCore.askBoundary.ite hs.updCore) hs

theorem MemForm.fireMonitors {writer : Option Nat} {line : Nat} (hs : MemForm s) : MemForm (s.fireMonitors writer line) := hs

theorem MemForm.recordAt {by_ : Option Nat} {w : Owner} {sig : BitVec 512} (hs : MemForm s) : MemForm (s.recordAt by_ w sig) := hs.updOwner

theorem MemForm.recordLines {by_ : Option Nat} {ls : List Nat} (hs : MemForm s) : MemForm (s.recordLines by_ ls) := hs.foldl fun hs => hs.recordAt

/-! ### `Machine/Packets` -/

theorem MemForm.sendPacket {pid rk : Nat} {b : List Byte} (hs : MemForm s) : MemForm (s.sendPacket pid rk b) := hs.updRegion.pushOnce

theorem MemForm.report {cause detail ck : Nat} {data : List Byte} (hs : MemForm s) : MemForm (s.report cause detail ck data) := hs.sendPacket

/-! ### `Machine/Sram` -/

theorem MemForm.unitReport {u : ErrUnit} {cause detail : Nat} {data : List Byte} (hs : MemForm s) : MemForm (s.unitReport u cause detail data) := by
  unfold State.unitReport
  split
  · exact hs.report
  · exact hs

theorem MemForm.logCorrected {u : ErrUnit} {key : Nat} (hs : MemForm s) : MemForm (s.logCorrected u key) := by
  unfold State.logCorrected
  exact hs.updRegion.updUnit.unitReport.ite (hs.updRegion.updUnit.unitReport.ite hs.updRegion.updUnit)

theorem MemForm.logUncorrectable {u : ErrUnit} {key col detail words : Nat} (hs : MemForm s) :
    MemForm (s.logUncorrectable u key col detail words) := by
  unfold State.logUncorrectable
  exact hs.updRegion.updUnit.unitReport

theorem MemForm.updSlot {gk t : Nat} {f : Slot → Slot} (hs : MemForm s) : MemForm (s.updSlot gk t f) := hs.updData

theorem MemForm.updBuf {gk : Nat} {b : Bool} {f : Buf → Buf} (hs : MemForm s) : MemForm (s.updBuf gk b f) := hs.updData

theorem MemForm.flipHeld {h : Held} {bit : Nat} (hs : MemForm s) : MemForm (s.flipHeld h bit) := by
  unfold State.flipHeld
  split
  · exact .ite ⟨hs.mem, setMark_rises _ _ _ hs.poison⟩ (hs.ite hs.poke)
  · exact hs.ite hs.updStrand
  · exact hs.ite hs.updStrand
  · exact hs.ite hs.updSlot
  · exact hs.ite hs.updSlot
  · exact hs.ite hs.updBuf
  · exact hs
  · exact hs

theorem MemForm.setWhole {h : Held} {m : Bool} (hs : MemForm s) : MemForm (s.setWhole h m) := by
  unfold State.setWhole
  split
  · exact hs.updStrand
  · exact hs.updStrand
  · exact hs.updSlot
  · exact hs.updSlot
  · exact hs.updBuf
  · exact hs

theorem MemForm.poisonOther {gk array n : Nat} (hs : MemForm s) : MemForm (s.poisonOther gk array n) := by
  unfold State.poisonOther
  refine .ite ?_ (hs.updData.ite hs)
  dsimp only
  split
  · exact hs.updCore
  · exact hs

theorem MemForm.poisonHeld {h : Held} (hs : MemForm s) : MemForm (s.poisonHeld h) := by
  unfold State.poisonHeld
  split
  · exact ⟨hs.mem, insertNat_rises _ _ _ (Nat.zero_le _) hs.poison⟩
  · exact hs.poisonOther.bump
  · exact hs.setWhole

theorem MemForm.flipMark {u : ErrUnit} {w : Cell} (hs : MemForm s) : MemForm (s.flipMark u w) := by
  unfold State.flipMark
  refine hs.flipHeld.ite (hs.setWhole.updUnit.ite (hs.ite ?_))
  split
  · exact hs.setWhole.updUnit
  · exact hs.updUnit

theorem MemForm.flipBit {u : ErrUnit} {w : Cell} {bit : Nat} (hs : MemForm s) : MemForm (s.flipBit u w bit) := hs.flipMark.ite hs.flipHeld

theorem MemForm.flipCell {u : ErrUnit} {c : Cell} (hs : MemForm s) : MemForm (s.flipCell u c) := .updUnit (hs.ite hs.flipBit)

theorem MemForm.strike {d : Disturbance} (hs : MemForm s) : MemForm (s.strike d) := hs.flipCell.ite hs

theorem MemForm.setDiff {u : ErrUnit} {w : Cell} {bs : List Nat} (hs : MemForm s) : MemForm (s.setDiff u w bs) := hs.updUnit

theorem MemForm.recompute {u : ErrUnit} {w : Cell} (hs : MemForm s) : MemForm (s.recompute u w) := hs.setDiff

theorem MemForm.condemn {u : ErrUnit} {w : Cell} {detail : Nat} {written : Option Cell} {ws : List Cell} (hs : MemForm s) :
    MemForm (s.condemn u w detail written ws) := by
  unfold State.condemn
  exact .logUncorrectable (.recompute (hs.foldl fun hs => .setDiff (hs.ite hs.poisonHeld.updUnit)))

theorem MemForm.rebuildAs {u : ErrUnit} {detail : Nat} {written : Bool} {w : Cell} (hs : MemForm s) :
    MemForm (s.rebuildAs u detail written w) :=
  hs.recompute.logCorrected.ite (.ite (.logCorrected (.setDiff (hs.ite (hs.foldl fun hs => hs.flipBit)))) hs.condemn)

theorem MemForm.rebuild {u : ErrUnit} {detail : Nat} {w : Cell} (hs : MemForm s) : MemForm (s.rebuild u detail w) := hs.rebuildAs

theorem MemForm.scrubGroup {u : ErrUnit} {w : Cell} (hs : MemForm s) : MemForm (s.scrubGroup u w) := by
  unfold State.scrubGroup
  dsimp only
  split
  · exact hs.rebuild
  · exact hs.rebuild.ite (hs.ite hs.condemn)

theorem MemForm.senseUnit {u : ErrUnit} {p : Held → Bool} (hs : MemForm s) : MemForm (s.senseUnit u p) := hs.foldl fun hs => hs.rebuild.ite hs

theorem MemForm.passDiff {u : ErrUnit} {w : Cell} (hs : MemForm s) : MemForm (s.passDiff u w) := hs.setDiff.setDiff

theorem MemForm.overwriteUnit {u : ErrUnit} {p : Held → Bool} (hs : MemForm s) :
    MemForm (s.overwriteUnit u p) :=
  hs.senseUnit.foldl fun hs => hs.passDiff.ite hs

theorem MemForm.senseGroup {gk array : Nat} (hs : MemForm s) : MemForm (s.senseGroup gk array) := by
  unfold State.senseGroup
  exact hs.ite (.bump (hs.foldl fun hs => hs.rebuild.ite hs))

theorem MemForm.senseOwner {w : Owner} {array : Nat} (hs : MemForm s) : MemForm (s.senseOwner w array) := by
  unfold State.senseOwner
  split
  · exact hs.senseGroup
  · exact hs

theorem MemForm.renewWord {s0 : State} {u : ErrUnit} {w : Cell} (hs : MemForm s) : MemForm (s0.renewWord s u w) := by
  unfold State.renewWord
  exact hs.ite (.passDiff (hs.rebuildAs.ite hs))

theorem MemForm.renewed {s0 : State} (hs : MemForm s) : MemForm (s0.renewed s) := hs.foldl fun hs => hs.ite (hs.foldl fun hs => hs.renewWord)

theorem MemForm.senseStrand {sid : Nat} (hs : MemForm s) : MemForm (s.senseStrand sid) := by
  unfold State.senseStrand
  exact hs.senseUnit.updStrand

theorem MemForm.senseArray {gk : Nat} (hs : MemForm s) : MemForm (s.senseArray gk) := hs.senseUnit

theorem MemForm.senseRecord {gk : Nat} (hs : MemForm s) : MemForm (s.senseRecord gk) := hs.senseUnit.foldl fun hs => hs.senseUnit

theorem MemForm.senseTables (hs : MemForm s) : MemForm s.senseTables := hs.foldl fun hs => hs.ite hs.senseUnit

theorem MemForm.sensePart {pid : Nat} (hs : MemForm s) : MemForm (s.sensePart pid) := by
  unfold State.sensePart
  exact hs.foldl fun hs => hs.senseUnit

theorem MemForm.renewUnit {u : ErrUnit} (hs : MemForm s) : MemForm (s.renewUnit u) := hs.overwriteUnit

theorem MemForm.renewRegion {rk : Nat} (hs : MemForm s) : MemForm (s.renewRegion rk) := hs.foldl fun hs => hs.renewUnit.ite hs

theorem MemForm.rimReport {c : Nat} {reader : Option Nat} {cause detail line : Nat} (hs : MemForm s) :
    MemForm (s.rimReport c reader cause detail line) := by
  unfold State.rimReport
  dsimp only
  split
  · exact hs.report
  · split
    · exact hs.report
    · exact hs

theorem MemForm.strikeRim {u : Nat × Nat × BitVec 8} (hs : MemForm s) : MemForm (s.strikeRim u) := hs.ite hs.updChannel

theorem MemForm.rebuildRim {line : Nat} {reader : Option Nat} {detail : Nat} (hs : MemForm s) :
    MemForm (s.rebuildRim line reader detail) :=
  hs.ite (hs.updChannel.updChannel.ite (.rimReport (.updChannel (.poisonAll (hs.updChannel.foldl fun hs => hs.pokeList)))))

theorem MemForm.sense {reader : Option Nat} {line : Nat} (hs : MemForm s) : MemForm (s.sense reader line) := by
  unfold State.sense
  split
  · exact hs.senseUnit
  · exact hs.rebuildRim
  · exact hs

theorem MemForm.overwrite {writer : Option Nat} {a n : Nat} (hs : MemForm s) : MemForm (s.overwrite writer a n) := by
  unfold State.overwrite
  split
  · exact hs.overwriteUnit
  · exact hs.updChannel.ite hs.rebuildRim
  · exact hs

theorem MemForm.senseAll {reader : Option Nat} {a n : Nat} (hs : MemForm s) : MemForm (s.senseAll reader a n) := hs.foldl fun hs => hs.sense

theorem MemForm.overwriteAll {writer : Option Nat} {a n : Nat} (hs : MemForm s) :
    MemForm (s.overwriteAll writer a n) :=
  hs.foldl fun hs => hs.overwrite

theorem MemForm.dropCodeLine {q : Nat × Nat} (hs : MemForm s) : MemForm (s.dropCodeLine q) := hs.updGroup

theorem MemForm.dropTlb {q : Nat × Nat × Nat} (hs : MemForm s) : MemForm (s.dropTlb q) := by
  unfold State.dropTlb
  split
  · exact hs.updCore
  · exact hs.updGroup
  · exact hs.updRegion

/-! ### `Machine/Ops` -/

theorem MemForm.wake {sid : Nat} (hs : MemForm s) : MemForm (s.wake sid) := hs.updStrand

theorem MemForm.retryStrand {sid : Nat} (hs : MemForm s) : MemForm (s.retryStrand sid) := by
  unfold State.retryStrand
  split
  · exact hs.pushOnce
  · exact hs.pushOnce
  · exact hs.pushOnce
  · exact hs.wake.ite hs

theorem MemForm.retryOthers {sid : Nat} (hs : MemForm s) : MemForm (s.retryOthers sid) := hs.foldl fun hs => hs.retryStrand

theorem MemForm.retry {ck : Nat} (hs : MemForm s) : MemForm (s.retry ck) := by
  unfold State.retry
  exact .ite (hs.foldl fun hs => hs.retryStrand) (.pushOnce (hs.foldl fun hs => hs.retryStrand))

theorem MemForm.giveBack {sid n : Nat} (hs : MemForm s) : MemForm (s.giveBack sid n) := hs.ite hs.updData

theorem MemForm.withdraw {sid : Nat} (hs : MemForm s) : MemForm (s.withdraw sid) := by
  unfold State.withdraw
  refine hs.ite (hs.foldl fun hs => hs.ite ?_)
  split
  · exact hs.updData
  · exact hs.updData
  · exact hs.updCore.updRegion.pushOnce.ite hs.updCore.updRegion
  · exact hs

theorem MemForm.unprepare {sid : Nat} {k : Chunk} (hs : MemForm s) : MemForm (s.unprepare sid k) := by
  unfold State.unprepare
  exact hs.foldl fun hs => hs.updOwner

theorem MemForm.unhold {sid : Nat} {k : Chunk} (hs : MemForm s) : MemForm (s.unhold sid k) := hs.foldl fun hs => hs.updOwner

theorem MemForm.squashConflict {sid : Nat} (hs : MemForm s) : MemForm (s.squashConflict sid) := by
  unfold State.squashConflict
  exact hs.giveBack.updStrand.wake.retry

theorem MemForm.undoAwait {sid : Nat} {k : Chunk} (hs : MemForm s) : MemForm (s.undoAwait sid k) := hs.giveBack.giveBack.unprepare.updStrand

theorem MemForm.squashAwait {sid : Nat} (hs : MemForm s) : MemForm (s.squashAwait sid) := by
  unfold State.squashAwait
  split
  · exact hs
  · exact .retry (.wake (hs.undoAwait.updStrand.pushOnce.ite hs.undoAwait.updStrand))

theorem MemForm.dropAwait {sid : Nat} (hs : MemForm s) : MemForm (s.dropAwait sid) := by
  unfold State.dropAwait
  split
  · exact hs
  · exact hs.withdraw.undoAwait.updStrand

theorem MemForm.squashOpen {sid : Nat} (hs : MemForm s) : MemForm (s.squashOpen sid) := by
  unfold State.squashOpen
  exact .updStrand (.giveBack (.withdraw (hs.dropAwait.ite hs)))

theorem MemForm.freeze {sid cause detail : Nat} {fpc : BitVec 64} {second : Bool} {serial : Nat} {data : List Byte} (hs : MemForm s) :
    MemForm (s.freeze sid cause detail fpc second serial data) := by
  unfold State.freeze
  exact hs.ite hs.squashOpen.retryOthers.updStrand.sendPacket

theorem MemForm.fault {cause detail : Nat} {data : List Byte} (hs : MemForm s) : MemForm (s.fault cause detail data) := by
  unfold State.fault
  exact hs.freeze.update

theorem MemForm.faultWord {cause : Nat} (hs : MemForm s) : MemForm (s.faultWord cause) := hs.fault

theorem MemForm.faultAddr {cause : Nat} {a : Reg80} (hs : MemForm s) : MemForm (s.faultAddr cause a) := hs.faultWord.ite hs.fault

theorem MemForm.enterWait {sid : Nat} {st : SState} {why : Why} {lim : Nat} (hs : MemForm s) : MemForm (s.enterWait sid st why lim) := by
  unfold State.enterWait
  exact hs.setStrand.pushOnce.ite hs.setStrand

theorem MemForm.stallIfOverdue {sid : Nat} (hs : MemForm s) : MemForm (s.stallIfOverdue sid) := by
  unfold State.stallIfOverdue
  split
  · exact hs.enterWait
  · exact hs

theorem MemForm.settle {sid : Nat} (hs : MemForm s) : MemForm (s.settle sid) := by
  unfold State.settle
  dsimp only
  split
  · exact hs.setStrand.ite hs.setStrand
  · exact hs.setStrand
  · exact hs.setStrand

theorem MemForm.pokeMonitor {sid : Nat} (hs : MemForm s) : MemForm (s.pokeMonitor sid) := by
  unfold State.pokeMonitor
  split
  · exact hs.pushOnce
  · exact hs

theorem MemForm.askCommit {sid : Nat} (hs : MemForm s) : MemForm (s.askCommit sid) := hs.pushOnce.ite hs

theorem MemForm.logRec {ck : Nat} {r : LogRec} (hs : MemForm s) : MemForm (s.logRec ck r) := hs.updCore.push

theorem MemForm.logWait {sid : Nat} (hs : MemForm s) : MemForm (s.logWait sid) := hs.ite (hs.updStrand.foldl fun hs => hs.logRec)

theorem MemForm.arrive {sid seq : Nat} {acts : List Wr} (hs : MemForm s) : MemForm (s.arrive sid seq acts) := by
  unfold State.arrive
  exact .retry (.askCommit (.settle (.updStrand (hs.logWait.ite hs))))

theorem MemForm.reenter {sid : Nat} {st : SState} (hs : MemForm s) : MemForm (s.reenter sid st) := by
  unfold State.reenter
  exact hs.setStrand.pushOnce.pushOnce.ite (hs.setStrand.pushOnce.pushOnce.ite (hs.setStrand.pushOnce.pushOnce.ite
    (hs.setStrand.stallIfOverdue.ite (hs.setStrand.stallIfOverdue.ite hs.setStrand))))

theorem MemForm.resume {sid : Nat} (hs : MemForm s) : MemForm (s.resume sid) := by
  unfold State.resume
  exact hs.reenter.ite hs

theorem MemForm.stopNow {sid : Nat} (hs : MemForm s) : MemForm (s.stopNow sid) := by
  unfold State.stopNow
  exact hs.squashOpen.retryOthers.updStrand

theorem MemForm.stop {sid : Nat} (hs : MemForm s) : MemForm (s.stop sid) := by
  unfold State.stop
  dsimp only
  split
  · exact hs
  · exact hs
  · exact hs
  · exact hs.setStrand.ite (hs.setStrand.pushOnce.ite hs.stopNow)

theorem MemForm.freezeLate {sid seq cause detail : Nat} {fpc : BitVec 64} {second : Bool} {serial : Nat} {data : List Byte} (hs : MemForm s) :
    MemForm (s.freezeLate sid seq cause detail fpc second serial data) := by
  unfold State.freezeLate
  refine .freeze ?_
  split
  · exact hs.dropAwait.ite hs
  · exact hs

theorem MemForm.launch {u : FUnit} {left : Nat} {arrived : Bool} {pend : Pend} {lim detail : Nat} {acts : List Wr} (hs : MemForm s) :
    MemForm (s.launch u left arrived pend lim detail acts) :=
  hs.updMe

theorem MemForm.launchVar {u : FUnit} {la : BitVec 4} {pend : Pend} {lim detail : Nat} {port read : Bool} {acts : List Wr} (hs : MemForm s) :
    MemForm (s.launchVar u la pend lim detail port read acts) :=
  hs.updMe

theorem MemForm.write {w : Wr} (hs : MemForm s) : MemForm (s.write w) := hs.launch

theorem MemForm.trigger {u : FUnit} {lat : Nat} {acts : List Wr} (hs : MemForm s) : MemForm (s.trigger u lat acts) := hs.launch

theorem MemForm.consume {l : Latch} (hs : MemForm s) : MemForm (s.consume l) := hs.ite hs.updCtx.bump

theorem MemForm.consumeAll {ls : List Latch} (hs : MemForm s) : MemForm (s.consumeAll ls) := hs.foldl fun hs => hs.consume

theorem MemForm.guarded {h : Hdr} {k : State → State} (hs : MemForm s) (hk : ∀ {t}, MemForm t → MemForm (k t)) :
    MemForm (guarded h s k) :=
  .ite (hk hs) hs

theorem MemForm.needKernel {k : State → State} (hs : MemForm s) (hk : ∀ {t}, MemForm t → MemForm (k t)) :
    MemForm (needKernel s k) :=
  hs.faultWord.ite (hk hs)

theorem MemForm.needSupervisor {k : State → State} (hs : MemForm s) (hk : ∀ {t}, MemForm t → MemForm (k t)) :
    MemForm (needSupervisor s k) :=
  .ite (hk hs) hs.faultWord

theorem MemForm.hold {st : SState} {why : Why} {lim : Nat} (hs : MemForm s) : MemForm (s.hold st why lim) := by
  unfold State.hold
  exact hs.enterWait.update

theorem MemForm.windowGate {n : Nat} {k : State → State} (hs : MemForm s) (hk : ∀ {t}, MemForm t → MemForm (k t)) : MemForm (windowGate s n k) := by
  unfold Machine.windowGate
  refine .ite (hk hs) ?_
  split
  · exact hs.hold
  · exact hk hs

theorem MemForm.endOldest {sid : Nat} (hs : MemForm s) : MemForm (s.endOldest sid) := by
  unfold State.endOldest
  dsimp only
  split
  · exact hs.setStrand
  · exact hs

theorem MemForm.logHardware {ck : Nat} {op : RemoteOp} (hs : MemForm s) : MemForm (s.logHardware ck op) := hs.logRec

theorem MemForm.endFirst (hs : MemForm s) : MemForm s.endFirst := by
  unfold State.endFirst
  exact hs.updMe.update

theorem MemForm.effectGate {k : State → State} (hs : MemForm s) (hk : ∀ {t}, MemForm t → MemForm (k t)) :
    MemForm (effectGate s k) :=
  .ite (hk hs) (hs.endFirst.ite (hs.hold.pushOnce.ite (hk hs.updMe)))

theorem MemForm.asEffect (hs : MemForm s) : MemForm s.asEffect := hs.updMe

theorem MemForm.asWaiting (hs : MemForm s) : MemForm s.asWaiting := hs.updMe

theorem MemForm.remoteGate {k : State → State} (hs : MemForm s) (hk : ∀ {t}, MemForm t → MemForm (k t)) :
    MemForm (remoteGate s k) :=
  hs.fault.ite (hs.hold.ite (hk hs))

theorem MemForm.sendOut {ck n : Nat} {m : Msg} {e : Instr} (hs : MemForm s) : MemForm (s.sendOut ck n m e) := by
  unfold State.sendOut
  split
  · dsimp only
    split
    · exact hs.push.push
    · exact hs.push
  · exact hs.sendMsg.push

theorem MemForm.sendUnder {sid : Nat} {sn : BitVec 32} {w : Owner} {op : RemoteOp} {seq : Nat} {fpc : BitVec 64} {second : Bool} (hs : MemForm s) :
    MemForm (s.sendUnder sid sn w op seq fpc second) := by
  unfold State.sendUnder
  exact hs.setStrand.sendOut

theorem MemForm.useSerial {sid : Nat} (hs : MemForm s) : MemForm (s.useSerial sid) := by
  unfold State.useSerial
  exact hs.setStrand.askBoundary.ite hs.setStrand

theorem MemForm.sendRemote {sid : Nat} {w : Owner} {op : RemoteOp} {seq : Nat} {fpc : BitVec 64} {second : Bool} (hs : MemForm s) :
    MemForm (s.sendRemote sid w op seq fpc second) :=
  hs.sendUnder.useSerial

theorem MemForm.sendCommit {sid : Nat} {c : Ctx} {k : Chunk} {ref : Nat} {op : RemoteOp} (hs : MemForm s) :
    MemForm (s.sendCommit sid c k ref op) := by
  unfold State.sendCommit
  exact hs.setStrand.sendUnder

theorem MemForm.noteRead {sid line : Nat} (hs : MemForm s) : MemForm (s.noteRead sid line) := by
  unfold State.noteRead
  exact hs.sense.updStrand.ite hs.sense.updStrand

theorem MemForm.noteWrite {sid : Nat} {w : SbWrite} (hs : MemForm s) :
    MemForm (s.noteWrite sid w) :=
  hs.updStrand.foldl fun hs => hs.updStrand.updStrand.ite hs.updStrand.updStrand

theorem MemForm.serialEnds (hs : MemForm s) : MemForm s.serialEnds := by
  unfold State.serialEnds
  exact hs.updMe.update

theorem MemForm.storeGate {lines : List Nat} {k : State → State} (hs : MemForm s) (hk : ∀ {t}, MemForm t → MemForm (k t)) :
    MemForm (storeGate s lines k) :=
  .ite (hk hs) (hs.endFirst.ite (hs.hold.ite (hs.serialEnds.ite (hk hs))))

theorem MemForm.privCheck {writer : Option Nat} {line : Nat} (hs : MemForm s) :
    MemForm (s.privCheck writer line) :=
  hs.ite (hs.foldl fun hs => hs.ite (hs.squashAwait.ite (hs.squashConflict.ite hs)))

theorem MemForm.putBytes {w : SbWrite} (hs : MemForm s) : MemForm (s.putBytes w) :=
  ⟨memWriteList_wf _ _ _ hs.mem, writeMarks_rises _ _ _ _ hs.poison⟩

theorem MemForm.wakeMonitors (hs : MemForm s) : MemForm s.wakeMonitors := hs.foldl fun hs => hs.pokeMonitor.ite hs

theorem MemForm.afterLines {writer : Option Nat} {ls : List Nat} (hs : MemForm s) :
    MemForm (s.afterLines writer ls) :=
  .wakeMonitors (hs.foldl fun hs => hs.noteChanged.privCheck.fireMonitors)

theorem MemForm.place {writer : Option Nat} {w : SbWrite} (hs : MemForm s) : MemForm (s.place writer w) := by
  unfold State.place
  exact hs.overwriteAll.putBytes.recordLines.afterLines

theorem MemForm.placeNum {writer : Option Nat} {a n v : Nat} {mark : Bool} (hs : MemForm s) : MemForm (s.placeNum writer a n v mark) := hs.place

theorem MemForm.askFill {ck line : Nat} (hs : MemForm s) : MemForm (s.askFill ck line) := hs.ite hs.push

/-! ### `Machine/Windows` -/

theorem MemForm.keepEntry {ck rk : Nat} {c : Prop} {_ : Decidable c} {e p : Except Nat Nat} {f : Core → Core} {g : Machine.Group → Machine.Group}
    {r : Region → Region} (hs : MemForm s) :
    MemForm (if c then (e, s) else (p, ((s.updCore ck f).updGroup (gkOf ck) g).updRegion rk r)).2 :=
  .ite_snd hs hs.updCore.updGroup.updRegion

theorem MemForm.translate {ck off : Nat} {rep store : Bool} (hs : MemForm s) : MemForm (s.translate ck off rep store).2 := by
  unfold State.translate
  dsimp only
  split
  · split
    · exact hs.keepEntry
    · exact hs
  · refine .ite_snd hs.bump.keepEntry (.bump ?_)
    split
    · exact hs.keepEntry
    · exact hs

theorem MemForm.translateAll {ck : Nat} {rep store : Bool} {ps : List (Nat × Nat)} (hs : MemForm s) :
    MemForm (s.translateAll ck rep store ps).2 := by
  induction ps generalizing s with
  | nil => exact hs
  | cons p r ih =>
    unfold State.translateAll
    split
    · exact hs.translate.of_snd ‹_›
    · have ht := ih (hs.translate.of_snd ‹_›)
      split <;> exact ht.of_snd ‹_›

theorem MemForm.resolve {ck n : Nat} {store : Bool} {p : Place} (hs : MemForm s) : MemForm (s.resolve ck n store p).2 := by
  unfold State.resolve
  split
  · exact hs
  · exact hs
  · split <;> exact (hs.translateAll.of_snd ‹_›)
  · split <;> exact (hs.translateAll.of_snd ‹_›)
  · exact hs
  · exact hs

theorem MemForm.resolveAll {ck n : Nat} {store : Bool} {ps : List Place} (hs : MemForm s) :
    MemForm (s.resolveAll ck n store ps).2 := by
  induction ps generalizing s with
  | nil => exact hs
  | cons p r ih =>
    cases r with
    | nil => exact hs.resolve
    | cons q r => exact ih hs.resolve

theorem MemForm.faultPoison {a : Reg80} (hs : MemForm s) : MemForm (s.faultPoison a) := hs.fault

theorem MemForm.conflictGate {src : Reg80} {k : State → State} (hs : MemForm s) (hk : ∀ {t}, MemForm t → MemForm (k t)) :
    MemForm (conflictGate s src k) :=
  .ite (hk hs) hs.faultAddr

theorem MemForm.askSet {q : SetReq} (hs : MemForm s) : MemForm (s.askSet q) := by
  unfold State.askSet
  exact .hold (hs.updMe.push.ite hs.updMe.sendRemote)

theorem MemForm.setGate {acc : Machine.Acc} {k : State → State} (hs : MemForm s) (hk : ∀ {t}, MemForm t → MemForm (k t)) :
    MemForm (setGate s acc k) := by
  unfold Machine.setGate
  split
  · refine .ite (hk hs) ?_
    dsimp only
    split
    · exact hk hs
    · exact hs.endFirst.ite (hs.hold.pushOnce.ite (hs.hold.ite (hs.askSet.ite (hs.remoteGate fun hs => hs.askSet))))
  · exact hk hs

theorem MemForm.accessPlaces {ps : List Place} {cls n : Nat} {store sets : Bool} {k : Machine.Acc → State → State} (hs : MemForm s)
    (hk : ∀ {x t}, MemForm t → MemForm (k x t)) :
    MemForm (accessPlaces s ps cls n store sets k) :=
  hs.hold.ite (.ite (hs.effectGate fun hs => hk hs.resolveAll) (.ite (hs.resolveAll.setGate fun hs => hk hs) (hk hs.resolveAll)))

theorem MemForm.accessWith {a : Reg} {n align : Nat} {store scalar sets : Bool} {k : Machine.Acc → State → State} (hs : MemForm s)
    (hk : ∀ {x t}, MemForm t → MemForm (k x t)) :
    MemForm (accessWith s a n align store scalar sets k) := by
  unfold Machine.accessWith
  refine hs.faultPoison.ite ?_
  split
  · exact hs.faultAddr
  · exact hs.faultAddr.ite (hs.accessPlaces hk)

theorem MemForm.access {a : Reg} {n align : Nat} {store scalar : Bool} {k : Machine.Acc → State → State} (hs : MemForm s)
    (hk : ∀ {x t}, MemForm t → MemForm (k x t)) :
    MemForm (access s a n align store scalar k) :=
  hs.accessWith hk

theorem MemForm.accessElems {base : Reg} {steer : Bool} {xs : List Int} {n : Nat} {store : Bool} {k : Machine.Acc → State → State}
    (hs : MemForm s) (hk : ∀ {x t}, MemForm t → MemForm (k x t)) :
    MemForm (accessElems s base steer xs n store k) := by
  unfold Machine.accessElems
  refine hs.faultPoison.ite ?_
  split
  · exact hs.faultAddr
  · exact hs.accessPlaces hk

theorem MemForm.setPe {a : Reg80} (hs : MemForm s) : MemForm (s.setPe a) := hs.updCtx

theorem MemForm.readPieces {ps : List (Nat × Nat)} (hs : MemForm s) : MemForm (s.readPieces ps).2.2 := by
  unfold State.readPieces
  exact hs.foldl fun hs => hs.foldl fun hs => hs.noteRead

theorem MemForm.writePieces {ps : List (Nat × Nat)} {data : List Byte} {mark : Bool} (hs : MemForm s) :
    MemForm (s.writePieces ps data mark) := by
  induction ps generalizing s data with
  | nil => exact hs
  | cons p r ih => exact ih hs.noteWrite

theorem MemForm.senseRepl {ck : Nat} {ps : List (Nat × Nat)} (hs : MemForm s) : MemForm (s.senseRepl ck ps) := hs.foldl fun hs => hs.sense

/-! ### `Machine/Operands` -/

theorem MemForm.logged {v : BitVec 64} (hs : MemForm s) : MemForm (s.logged v).2 := by
  unfold State.logged
  split
  · exact hs.updCore
  · exact hs.updMe

theorem MemForm.readSr {r : Fin 21} {k : Reg → State → State} (hs : MemForm s) (hk : ∀ {x t}, MemForm t → MemForm (k x t)) :
    MemForm (readSr s r k) := by
  unfold Machine.readSr
  dsimp only
  split
  · exact hk hs.bump.logged.updMe
  · exact hk hs.logged
  · exact hk hs
  · exact hk hs
  · exact hk hs
  · exact hk hs
  · exact hk hs
  · exact hk hs
  · exact hk hs
  · exact hk hs
  · exact hk hs
  · exact hk hs
  · exact hk hs
  · exact hk hs
  · exact hk hs
  · exact hk hs
  · exact hk hs
  · exact hk hs
  · exact hk hs
  · exact hk hs
  · exact hk hs

theorem MemForm.faultStream {detail : Nat} {j : Fin 8} (hs : MemForm s) : MemForm (s.faultStream detail j) := hs.fault

theorem MemForm.takePosition {j : Fin 8} {out : Bool} {n : Nat} {k : Machine.Acc → Reg80 → State → State} (hs : MemForm s)
    (hk : ∀ {x y t}, MemForm t → MemForm (k x y t)) :
    MemForm (takePosition s j out n k) := by
  unfold Machine.takePosition
  split
  · exact hs.faultStream
  · refine hs.faultStream.ite (hs.faultStream.ite ?_)
    split
    · exact hs.faultAddr
    · exact hs.access fun hs => hk hs.updCtx

theorem MemForm.deliverElem {a : Reg80} {ps : List (Nat × Nat)} {k : List Byte → Bool → State → State} (hs : MemForm s)
    (hk : ∀ {x y t}, MemForm t → MemForm (k x y t)) :
    MemForm (s.deliverElem a ps k) := by
  unfold State.deliverElem
  exact .ite (hk hs.readPieces.setPe) (hk hs.readPieces)

theorem MemForm.askElem {j : Fin 8} {m : Nat} {tile : Bool} {offs : List Nat} {n : Nat} (hs : MemForm s) :
    MemForm (s.askElem j m tile offs n) :=
  hs.remoteGate fun hs => .hold (hs.ite hs.sendRemote)

theorem MemForm.notePop {j : Fin 8} {b : Option Binding} {a : Reg80} {d : List Byte} {p : Bool} {ps : List (Nat × Nat)} (hs : MemForm s) :
    MemForm (s.notePop j b a d p ps) := by
  unfold State.notePop
  split
  · exact hs.updMe
  · exact hs

theorem MemForm.popGiven {e : Popped} (hs : MemForm s) : MemForm (s.popGiven e) := by
  unfold State.popGiven
  exact .ite (.ite (.setPe (.foldl (hs.ite hs.updCtx.updMe) fun hs => hs.foldl fun hs =>
    hs.noteRead)) (.foldl (hs.ite hs.updCtx.updMe) fun hs => hs.foldl fun hs =>
      hs.noteRead)) (.pushOnce (.ite (.setPe (.foldl (hs.ite hs.updCtx.updMe) fun hs => hs.foldl fun hs =>
        hs.noteRead)) (.foldl (hs.ite hs.updCtx.updMe) fun hs => hs.foldl fun hs => hs.noteRead)))

theorem MemForm.popStream {j : Fin 8} {n : Nat} {k : List Byte → Bool → State → State} (hs : MemForm s)
    (hk : ∀ {x y t}, MemForm t → MemForm (k x y t)) :
    MemForm (popStream s j n k) := by
  unfold Machine.popStream
  split
  · exact hk hs.updMe.popGiven
  · refine hs.takePosition fun hs => ?_
    split
    · split
      · exact .ite (hk (hs.updMe.notePop.setPe.ite hs.updMe.notePop)) hs.askElem
      · exact hs.askElem
    · exact hs.faultAddr
    · exact hs.faultAddr
    · exact hk (hs.notePop.setPe.ite hs.notePop)
    · exact hs.hold.pushOnce.ite (hs.updMe.pushOnce.deliverElem fun hs => hk hs.notePop)

theorem MemForm.popScalar {j : Fin 8} {k : Reg → State → State} (hs : MemForm s) (hk : ∀ {x t}, MemForm t → MemForm (k x t)) :
    MemForm (popScalar s j k) :=
  hs.popStream fun hs => hk hs

theorem MemForm.popCompletion {k : Reg → State → State} (hs : MemForm s) (hk : ∀ {x t}, MemForm t → MemForm (k x t)) :
    MemForm (popCompletion s k) := by
  unfold Machine.popCompletion
  refine hs.effectGate fun hs => hs.conflictGate fun hs => ?_
  split
  · exact hk hs.updMe
  · exact hs.fault.ite hs.hold

theorem MemForm.readC {src : CSrc} {k : Reg → State → State} (hs : MemForm s) (hk : ∀ {x t}, MemForm t → MemForm (k x t)) :
    MemForm (readC s src k) := by
  unfold Machine.readC
  split
  · exact hk hs
  · exact hk hs
  · exact hk hs
  · exact hk hs
  · exact hk hs
  · exact hk hs
  · exact hk hs
  · exact hk hs
  · exact hk hs
  · exact hk hs
  · exact hk hs
  · exact hk hs
  · exact hs.popCompletion hk
  · exact hk hs
  · exact hs.effectGate fun hs => hk hs
  · exact hk hs
  · exact hk hs
  · exact hs.popScalar hk
  · exact hs.readSr hk
  · exact hk hs

theorem MemForm.readA {src : ASrc} {k : Reg → State → State} (hs : MemForm s) (hk : ∀ {x t}, MemForm t → MemForm (k x t)) :
    MemForm (readA s src k) := by
  unfold Machine.readA
  split
  · exact hk hs
  · exact hk hs
  · exact hk hs
  · exact hk hs
  · exact hk hs
  · exact hk hs
  · exact hs.popScalar hk
  · exact hs.faultWord
  · exact hk hs

theorem MemForm.readV {src : ASrc} {k : VArg → State → State} (hs : MemForm s) (hk : ∀ {x t}, MemForm t → MemForm (k x t)) :
    MemForm (readV s src k) := by
  unfold Machine.readV
  split
  · exact hk hs
  · exact hs.popStream fun hs => hk hs
  · exact hs.readA fun hs => hk hs

/-! ### `Machine/Flags` -/

theorem MemForm.writeVt {r : Reg} (hs : MemForm s) : MemForm (writeVt r s) := hs.write.ite hs.fault

theorem MemForm.drawSr {mode : Nat} (hs : MemForm s) : MemForm (s.drawSr mode).2 := hs.updCtx.ite_snd hs

/-! ### `Machine/Transfer` -/

theorem MemForm.remoteOp {u : FUnit} {la : BitVec 4} {pend : Pend} {port : Bool} {w : Owner} {op : State → RemoteOp} (hs : MemForm s) :
    MemForm (s.remoteOp u la pend port w op) :=
  hs.remoteGate fun hs => hs.asEffect.launchVar.sendRemote

theorem MemForm.lateFault {u : FUnit} {la : BitVec 4} {a : Reg80} {cause : Nat} (hs : MemForm s) : MemForm (s.lateFault u la a cause) := by
  unfold State.lateFault
  exact .push (.launchVar (hs.asWaiting.ite hs))

theorem MemForm.loadOp {u : FUnit} {la : BitVec 4} {a : Reg80} {n : Nat} {kind : LoadKind} {acc : Machine.Acc} (hs : MemForm s) :
    MemForm (loadOp s u la a n kind acc) := by
  unfold Machine.loadOp
  dsimp only
  split
  · exact hs.readPieces.launchVar.push
  · exact hs.lateFault
  · exact hs.senseRepl.asEffect.launchVar.push
  · exact hs.remoteOp
  · exact hs.faultAddr

theorem MemForm.undoGate {tag : BitVec 16} {ps : List (Nat × Nat)} {offs : List Nat} {k : State → State} (hs : MemForm s)
    (hk : ∀ {t}, MemForm t → MemForm (k t)) :
    MemForm (undoGate s tag ps offs k) := by
  unfold Machine.undoGate
  split
  · exact hk hs
  · exact .ite (hk hs) (.ite (hk hs) (hs.faultAddr.ite (hk hs.updMe)))

theorem MemForm.deferGate {src : Reg} {extra : List Reg} {ls : List Latch} {k : State → State} (hs : MemForm s)
    (hk : ∀ {t}, MemForm t → MemForm (k t)) :
    MemForm (deferGate s src extra ls k) := by
  unfold Machine.deferGate
  split
  · exact hk hs
  · exact .ite (hk hs) (hs.effectGate fun hs => hs.faultAddr.ite hs.place.update.placeNum.consumeAll)

theorem MemForm.farStore {u : FUnit} {la : BitVec 4} {n : Nat} {data : List Byte} {mark : Bool} {acc : Machine.Acc} (hs : MemForm s) :
    MemForm (farStore s u la n data mark acc) := by
  unfold Machine.farStore
  split
  · exact hs.remoteOp
  · exact hs.remoteOp
  · exact hs

theorem MemForm.storeOp {u : FUnit} {la : BitVec 4} {a : Reg80} {n : Nat} {offs : List Nat} {data : List Byte} {mark : Bool} {src : Reg}
    {extra : List Reg} {ls : List Latch} {acc : Machine.Acc} (hs : MemForm s) :
    MemForm (storeOp s u la a n offs data mark src extra ls acc) := by
  unfold Machine.storeOp
  split
  · exact hs.undoGate fun hs => hs.storeGate fun hs => hs.writePieces
  · exact hs.lateFault
  · exact hs.deferGate fun hs => hs.farStore
  · exact hs.deferGate fun hs => hs.farStore
  · exact hs.faultAddr

/-! ### `Machine/Vector` -/

theorem MemForm.faultVecType {op : Nat} (hs : MemForm s) : MemForm (s.faultVecType op) := hs.fault

theorem MemForm.poolGate {ds : List (Fin 8)} {k : State → State} (hs : MemForm s) (hk : ∀ {t}, MemForm t → MemForm (k t)) :
    MemForm (poolGate s ds k) := by
  unfold Machine.poolGate
  exact hs.serialEnds.ite (.ite (hk hs.updMe) (hs.endFirst.ite hs.hold))

theorem MemForm.vecTrigger {op : VOp} {d : Fin 8} {a b : VArg} {p : Prefix} {quart : Nat} (hs : MemForm s) :
    MemForm (vecTrigger op d a b p quart s) := by
  unfold Machine.vecTrigger
  exact hs.updCtx.trigger

theorem MemForm.vecOp {op : VOp} {h : Hdr} {d src : Fin 8} {ops : State → (VArg → VArg → State → State) → State} {quart : Nat}
    {check : VArg → Bool} (hs : MemForm s)
    (hops : ∀ {t k}, MemForm t → (∀ {x y u}, MemForm u → MemForm (k x y u)) → MemForm (ops t k)) :
    MemForm (vecOp op h d src ops quart check s) :=
  hs.faultWord.ite (hs.guarded fun hs => hs.faultVecType.ite (hops hs fun hs => hs.fault.ite (hs.poolGate fun hs => hs.vecTrigger)))

theorem MemForm.two {o t : ASrc} {k : VArg → VArg → State → State} (hs : MemForm s) (hk : ∀ {x y t}, MemForm t → MemForm (k x y t)) :
    MemForm (two o t s k) :=
  hs.readV fun hs => hs.readV fun hs => hk hs

theorem MemForm.one {o : ASrc} {k : VArg → VArg → State → State} (hs : MemForm s) (hk : ∀ {x y t}, MemForm t → MemForm (k x y t)) :
    MemForm (one o s k) :=
  hs.readV fun hs => hk hs

theorem MemForm.vecScal {o t : ASrc} {k : VArg → VArg → State → State} (hs : MemForm s) (hk : ∀ {x y t}, MemForm t → MemForm (k x y t)) :
    MemForm (vecScal o t s k) :=
  hs.readV fun hs => hs.readA fun hs => hk hs

theorem MemForm.scals {o t : ASrc} {k : VArg → VArg → State → State} (hs : MemForm s) (hk : ∀ {x y t}, MemForm t → MemForm (k x y t)) :
    MemForm (scals o t s k) :=
  hs.readA fun hs => hs.readA fun hs => hk hs

theorem MemForm.reg1 {o : Fin 8} {k : VArg → VArg → State → State} (hs : MemForm s) (hk : ∀ {x y t}, MemForm t → MemForm (k x y t)) :
    MemForm (reg1 o s k) :=
  hk hs

theorem MemForm.msk1 {o : Fin 4} {k : VArg → VArg → State → State} (hs : MemForm s) (hk : ∀ {x y t}, MemForm t → MemForm (k x y t)) :
    MemForm (msk1 o s k) :=
  hk hs

theorem MemForm.group1 {o : Fin 8} {k : VArg → VArg → State → State} (hs : MemForm s) (hk : ∀ {x y t}, MemForm t → MemForm (k x y t)) :
    MemForm (group1 o s k) :=
  hk hs

theorem MemForm.regScal {o : Fin 8} {t : ASrc} {k : VArg → VArg → State → State} (hs : MemForm s) (hk : ∀ {x y t}, MemForm t → MemForm (k x y t)) :
    MemForm (regScal o t s k) :=
  hs.readA fun hs => hk hs

theorem MemForm.completeExchange {gk n : Nat} {sids : List Nat} (hs : MemForm s) : MemForm (s.completeExchange gk n sids) := by
  unfold State.completeExchange
  exact hs.updData.foldl fun hs => hs.updStrand.logWait

theorem execVxXchg_keepsForm {h : Hdr} {d o : Fin 8} : KeepsForm s (execVxXchg h d o s) :=
  .next fun hs => hs.faultWord.ite (hs.guarded fun hs => hs.effectGate fun hs => hs.conflictGate fun hs => hs.poolGate fun hs =>
    hs.asWaiting.launch.updMe.completeExchange.ite hs.asWaiting.launch.updMe.updData)

theorem MemForm.typed {k : State → State} (hs : MemForm s) (hk : ∀ {t}, MemForm t → MemForm (k t)) :
    MemForm (typed s k) :=
  hs.faultVecType.ite (hk hs)

theorem MemForm.loadElems {h : Hdr} {la : BitVec 4} {n : Fin 8} {c : CSrc} {idx : Bool} (hs : MemForm s) :
    MemForm (loadElems h la n c idx s) :=
  hs.guarded fun hs => hs.readC fun hs => hs.typed fun hs => hs.accessElems fun hs => hs.poolGate fun hs => hs.loadOp

theorem MemForm.storeElems {h : Hdr} {la : BitVec 4} {n : Fin 8} {c : CSrc} {idx : Bool} (hs : MemForm s) :
    MemForm (storeElems h la n c idx s) :=
  hs.guarded fun hs => hs.readC fun hs => hs.typed fun hs => hs.accessElems fun hs => hs.storeOp

theorem execVld_keepsForm {h : Hdr} {la : BitVec 4} {n : Fin 8} {c : CSrc} : KeepsForm s (execVld h la n c s) :=
  .next fun hs => hs.guarded fun hs => hs.readC fun hs => hs.access fun hs => hs.poolGate fun hs => hs.loadOp

/-! ### `Machine/Matrix` -/

theorem MemForm.needLease {k : State → State} (hs : MemForm s) (hk : ∀ {t}, MemForm t → MemForm (k t)) :
    MemForm (needLease s k) :=
  .ite (hk hs) hs.fault

theorem MemForm.faultMatrix (hs : MemForm s) : MemForm s.faultMatrix := hs.fault

theorem MemForm.consumeMx (hs : MemForm s) : MemForm s.consumeMx := hs.consumeAll

theorem MemForm.close (hs : MemForm s) : MemForm s.close := hs.updMe

theorem MemForm.defer {d : Deferred} (hs : MemForm s) : MemForm (s.defer d) := hs.updMe

theorem MemForm.countDown (hs : MemForm s) : MemForm s.countDown := by
  unfold State.countDown
  exact hs.ite hs.write.updData

theorem MemForm.sendMx {la : BitVec 4} {c : MxCmd} (hs : MemForm s) : MemForm (s.sendMx la c) := by
  unfold State.sendMx
  exact hs.consumeMx.launchVar.defer.countDown.close

theorem execMxLease_keepsForm {h : Hdr} {la : BitVec 4} {c : CSrc} : KeepsForm s (execMxLease h la c s) :=
  .next fun hs => hs.guarded fun hs => hs.readC fun hs => hs.faultMatrix.ite (hs.windowGate fun hs => hs.consumeMx.launchVar.defer.write.close)

theorem MemForm.mxLoadAcc {la : BitVec 4} {b : Bool} {f : Fin 6} {a : Reg80} {acc : Machine.Acc} (hs : MemForm s) :
    MemForm (mxLoadAcc la b f a acc s) := by
  unfold Machine.mxLoadAcc
  dsimp only
  split
  · exact hs.readPieces.consumeMx.launchVar.defer.push.countDown.close
  · exact hs.consumeMx.lateFault.countDown.close
  · exact hs.senseRepl.asEffect.consumeMx.launchVar.defer.push.countDown.close
  · exact hs.consumeMx.remoteOp.countDown.close
  · exact hs.faultMatrix

theorem MemForm.mxLoad {h : Hdr} {la : BitVec 4} {b : Bool} {f : Fin 6} {c : CSrc} (hs : MemForm s) :
    MemForm (mxLoad h la b f c s) :=
  hs.guarded fun hs => hs.readC fun hs => hs.needLease fun hs =>
    hs.faultPoison.ite (hs.faultMatrix.ite (hs.faultAddr.ite (hs.accessElems fun hs => hs.mxLoadAcc)))

theorem MemForm.mxProduct {h : Hdr} {la : BitVec 4} {i : Fin 12} {c : CSrc} (hs : MemForm s) :
    MemForm (mxProduct h la i c s) :=
  hs.guarded fun hs => hs.readC fun hs => hs.needLease fun hs => hs.faultMatrix.ite hs.sendMx

theorem execMxDrain_keepsForm {h : Hdr} {la : BitVec 4} {c : CSrc} : KeepsForm s (execMxDrain h la c s) := by
  refine .next fun hs => ?_
  refine hs.guarded fun hs => hs.readC fun hs => hs.needLease fun hs => hs.faultMatrix.ite (hs.faultPoison.ite (hs.faultAddr.ite ?_))
  dsimp only
  split
  · exact hs.faultAddr
  · exact hs.effectGate fun hs => hs.windowGate fun hs => hs.hold.ite hs.updCore.asEffect.consumeMx.launchVar.defer.countDown.close

theorem execMxDrainv_keepsForm {h : Hdr} {la : BitVec 4} {c : CSrc} : KeepsForm s (execMxDrainv h la c s) :=
  .next fun hs => hs.guarded fun hs => hs.readC fun hs => hs.needLease fun hs => hs.faultMatrix.ite (hs.poolGate fun hs =>
    hs.consumeMx.launchVar.countDown.updGroup.updMe.pushOnce)

theorem MemForm.mxSlot {h : Hdr} {la : BitVec 4} {c : CSrc} {f : Fin 16 → MxCmd} {port : Bool} (hs : MemForm s) :
    MemForm (mxSlot h la c f port s) :=
  hs.guarded fun hs => hs.readC fun hs => hs.needLease fun hs => hs.faultMatrix.ite (.ite (hs.windowGate fun hs =>
    hs.consumeMx.launchVar.defer.countDown.close) hs.consumeMx.launchVar.defer.countDown.close)

theorem execMxInject_keepsForm {h : Hdr} {la : BitVec 4} {c : CSrc} : KeepsForm s (execMxInject h la c s) :=
  .next fun hs => hs.guarded fun hs => hs.needKernel fun hs => .ite (hs.needLease fun hs => hs.faultMatrix) hs.mxSlot

/-! ### `Machine/ArrayEvents` -/

theorem MemForm.endLease {gk : Nat} (hs : MemForm s) : MemForm (s.endLease gk) := by
  unfold State.endLease
  split
  · exact hs
  · exact hs.updData.pushOnce

theorem MemForm.leaseCheck {gk : Nat} (hs : MemForm s) : MemForm (s.leaseCheck gk) := by
  unfold State.leaseCheck
  dsimp only
  split
  · exact hs.endLease.ite hs
  · exact hs

theorem MemForm.dropRequests {sid : Nat} (hs : MemForm s) : MemForm (s.dropRequests sid) := hs.updData

theorem MemForm.freeLeaseOf {sid : Nat} (hs : MemForm s) : MemForm (s.freeLeaseOf sid) := by
  unfold State.freeLeaseOf
  exact hs.endLease.ite hs

theorem MemForm.requestLease {sid seq n : Nat} (hs : MemForm s) : MemForm (s.requestLease sid seq n) := by
  unfold State.requestLease
  exact hs.updData.pushOnce.pushOnce

theorem execLeaseGrant_keepsForm {gk : Nat} : KeepsForm s (execLeaseGrant gk s) := by
  refine .next fun hs => ?_
  split
  · exact hs.updData.updStrand.arrive.pushOnce
  · exact hs

theorem execLeaseIdleLimit_keepsForm {gk : Nat} : KeepsForm s (execLeaseIdleLimit gk s) := by
  refine .next fun hs => ?_
  dsimp only
  split
  · exact hs.ite (hs.endLease.updStrand.ite hs.pushOnce)
  · exact hs

theorem MemForm.sendJob {sid seq : Nat} {c : MxCmd} (hs : MemForm s) : MemForm (s.sendJob sid seq c) := by
  unfold State.sendJob
  exact hs.updGroup.pushOnce

theorem MemForm.jobReplayed {gk : Nat} (hs : MemForm s) : MemForm (s.jobReplayed gk) := hs.updCore

theorem execMxCommandAccept_keepsForm {gk : Nat} : KeepsForm s (execMxCommandAccept gk s) := by
  refine .next fun hs => ?_
  dsimp only
  split
  · exact hs
  · split
    · exact hs
    · exact hs.ite (.ite (.pushOnce (.ite (.arrive (hs.updGroup.leaseCheck.jobReplayed.ite hs.updGroup.leaseCheck.logRec))
        (hs.updGroup.leaseCheck.jobReplayed.ite hs.updGroup.leaseCheck.logRec))) (.pushOnce (.pushOnce (.ite (.arrive
          (hs.updGroup.leaseCheck.jobReplayed.ite hs.updGroup.leaseCheck.logRec))
            (hs.updGroup.leaseCheck.jobReplayed.ite hs.updGroup.leaseCheck.logRec)))))

theorem MemForm.putSlot {gk t : Nat} {x : Slot} (hs : MemForm s) : MemForm (s.putSlot gk t x) := hs.updData

theorem MemForm.drainRows {sid : Nat} {t : Slot} {dest pitch : Nat} (hs : MemForm s) :
    MemForm (s.drainRows sid t dest pitch) :=
  hs.foldl fun hs => hs.place

theorem MemForm.releaseRange {ck owner : Nat} (hs : MemForm s) : MemForm (s.releaseRange ck owner) := hs.updCore.retry

theorem MemForm.runJob {gk : Nat} {j : MxJob} (hs : MemForm s) : MemForm (s.runJob gk j) := by
  unfold State.runJob
  dsimp only
  split
  · exact hs.updData
  · exact hs.putSlot
  · exact hs.drainRows.putSlot.releaseRange.arrive
  · exact hs.arrive
  · exact hs.putSlot
  · exact hs.putSlot.arrive
  · exact hs.putSlot

theorem execMxCommandExecute_keepsForm {gk : Nat} : KeepsForm s (execMxCommandExecute gk s) := by
  refine .next fun hs => ?_
  split
  · exact hs
  · exact hs.ite (.ite (hs.senseArray.updGroup.runJob.ite hs.senseArray.updGroup.runJob.pushOnce) (.pushOnce
      (hs.senseArray.updGroup.runJob.ite hs.senseArray.updGroup.runJob.pushOnce)))

/-! ### `Machine/Tasks` -/

theorem MemForm.setRec {ck i o n v : Nat} (hs : MemForm s) : MemForm (s.setRec ck i o n v) := hs.placeNum

theorem MemForm.setRecState {ck i st : Nat} (hs : MemForm s) : MemForm (s.setRecState ck i st) := hs.setRec

theorem MemForm.setRecPrio {ck i p : Nat} (hs : MemForm s) : MemForm (s.setRecPrio ck i p) := hs.setRec

theorem MemForm.recordFreed {ck : Nat} (hs : MemForm s) : MemForm (s.recordFreed ck) := hs.pushOnce.ite hs

theorem MemForm.freeRec {ck i : Nat} (hs : MemForm s) : MemForm (s.freeRec ck i) := hs.setRecState.recordFreed

theorem MemForm.pokeKernel {ck : Nat} (hs : MemForm s) : MemForm (s.pokeKernel ck) := hs.pokeMonitor

theorem MemForm.noteDone {sid : Nat} (hs : MemForm s) : MemForm (s.noteDone sid) := hs.updCore.pokeKernel

theorem MemForm.rqPush {ck i prio : Nat} (hs : MemForm s) : MemForm (s.rqPush ck i prio) := hs.updCore.pokeKernel

theorem MemForm.rqAppend {ck i : Nat} (hs : MemForm s) : MemForm (s.rqAppend ck i) := hs.rqPush

theorem MemForm.putQueue {ck qual idx : Nat} {q : Queue} (hs : MemForm s) : MemForm (s.putQueue ck qual idx q) := hs.updCore.ite hs.updRegion

theorem MemForm.pokeWaiters {q : Queue} (hs : MemForm s) : MemForm (s.pokeWaiters q) := by
  unfold State.pokeWaiters
  refine hs.foldl fun hs => ?_
  split
  · exact hs.pushOnce
  · exact hs

theorem MemForm.pokePool {gk : Nat} (hs : MemForm s) : MemForm (s.pokePool gk) := hs.foldl fun hs => hs.pokeWaiters

theorem MemForm.qPush {ck qual idx : Nat} {e : QElem} (hs : MemForm s) : MemForm (s.qPush ck qual idx e).2 := by
  unfold State.qPush
  split
  · exact hs
  · exact hs.putQueue.pokeWaiters.ite_snd (hs.ite_snd hs.putQueue.pokeWaiters)

theorem MemForm.qPop {ck qual idx : Nat} {take user : Bool} (hs : MemForm s) : MemForm (s.qPop ck qual idx take user).2.2 := by
  unfold State.qPop
  split
  · exact hs
  · split
    · exact hs
    · exact hs.ite_thd (hs.putQueue.pokeWaiters.pokePool.ite_thd hs)

theorem MemForm.adopt {home i ck claimed : Nat} (hs : MemForm s) : MemForm (s.adopt home i ck claimed) := by
  unfold State.adopt
  exact hs.freeRec.place.updCore

theorem MemForm.lapse {ck : Nat} {claimed : Option Nat} (hs : MemForm s) : MemForm (s.lapse ck claimed) := by
  unfold State.lapse
  split
  · exact hs
  · exact hs.updCore.recordFreed

theorem MemForm.pokeBarrier {ck i : Nat} (hs : MemForm s) : MemForm (s.pokeBarrier ck i) := by
  unfold State.pokeBarrier
  refine hs.foldl fun hs => ?_
  split
  · exact hs.pushOnce
  · exact hs

theorem MemForm.putBarrier {ck i : Nat} {b : Barrier} (hs : MemForm s) : MemForm (s.putBarrier ck i b) := hs.updCore.pokeBarrier

theorem MemForm.countBarrier {ck i a n : Nat} (hs : MemForm s) : MemForm (s.countBarrier ck i a n) := by
  unfold State.countBarrier
  exact hs.updCore.ite hs.putBarrier

theorem MemForm.askToken {ck : Nat} (hs : MemForm s) : MemForm (s.askToken ck) := hs.updCore.push.ite hs

theorem MemForm.serveTokens {rk : Nat} (hs : MemForm s) : MemForm (s.serveTokens rk) := by
  unfold State.serveTokens
  exact hs.setRegion.foldl fun hs => hs.push

theorem MemForm.returnToken {ck : Nat} {t : TokRec} (hs : MemForm s) :
    MemForm (s.returnToken ck t) :=
  hs.ite (hs.updCore.ite (hs.updCore.ite hs.updCore.updRegion.serveTokens))

theorem MemForm.bindTask {sid i : Nat} (hs : MemForm s) : MemForm (s.bindTask sid i) := by
  unfold State.bindTask
  exact hs.updStrand

theorem MemForm.takeToken {sid : Nat} {r : TokRec} (hs : MemForm s) (e : s.takeToken sid = some (r, t)) : MemForm t := by
  unfold State.takeToken at e
  split at e
  · cases e
  · cases e
    exact hs.updCore.askToken

theorem MemForm.setToken {sid : Nat} {t : TokRec} (hs : MemForm s) : MemForm (s.setToken sid t) := hs.updStrand

theorem MemForm.launchTask {sid i : Nat} (hs : MemForm s) : MemForm (s.launchTask sid i) := hs.bindTask.setRecState.updStrand

theorem MemForm.parkedWakes {sid : Nat} (hs : MemForm s) : MemForm (s.parkedWakes sid) := by
  unfold State.parkedWakes
  exact hs.updCore.ite hs

theorem MemForm.startTask {sid i : Nat} (hs : MemForm s) : MemForm (s.startTask sid i) := by
  unfold State.startTask
  refine hs.parkedWakes.setToken.launchTask.ite ?_
  split
  · exact (hs.parkedWakes.takeToken ‹_›).setToken.setRec.launchTask
  · exact hs.parkedWakes.setToken.bindTask.setRecState.enterWait

theorem MemForm.serveStash {ck : Nat} (hs : MemForm s) : MemForm (s.serveStash ck) := by
  unfold State.serveStash
  refine hs.foldl fun hs => ?_
  extract_lets x s1
  have hs1 : MemForm s1 := by
    unfold s1
    split
    · exact hs.pushOnce
    · exact hs
  split
  · refine .ite ?_ hs1
    split
    · exact (hs1.takeToken ‹_›).setToken.setRec.launchTask
    · exact hs1
  · exact hs1

/-! ### `Machine/Atomics` -/

theorem MemForm.atomicAt {writer : Option Nat} {op : AtOp} {flat : Nat} {o x : BitVec 64} {mark : Bool} (hs : MemForm s) :
    MemForm (s.atomicAt writer op flat o x mark).2.2 := by
  unfold State.atomicAt
  dsimp only
  split
  · exact hs.placeNum
  · exact hs

theorem MemForm.logLine {ck i : Nat} {ptr : Reg80} {line : List Byte} (hs : MemForm s) : MemForm (s.logLine ck i ptr line) := by
  unfold State.logLine
  exact hs.place.placeNum

theorem MemForm.atIssue {la : BitVec 4} {op : AtOp} {red : Bool} {a o x : Reg} {log : Bool} {acc : Machine.Acc} (hs : MemForm s) :
    MemForm (atIssue s la op red a o x log acc) := by
  unfold Machine.atIssue
  dsimp only
  split
  · refine .ite ?_ hs.remoteOp
    refine .push (.launchVar (.asEffect ?_))
    split
    · exact hs.sense.atomicAt.logLine.ite hs.sense.atomicAt
    · exact hs.sense.atomicAt
  · exact hs.lateFault
  · exact hs.remoteOp
  · exact hs.faultAddr

theorem MemForm.atSets {la : BitVec 4} {op : AtOp} {red : Bool} {a o x : Reg} {acc : Machine.Acc} (hs : MemForm s) :
    MemForm (atSets s la op red a o x acc) := by
  unfold Machine.atSets
  dsimp only
  split
  · exact hs.atIssue.consumeAll.ite (.ite (hs.atIssue.consumeAll.ite (hs.faultAddr.ite hs.atIssue.consumeAll)) (hs.deferGate fun hs =>
      hs.atIssue.consumeAll))
  · exact hs.deferGate fun hs => hs.atIssue.consumeAll

theorem MemForm.atRun {la : BitVec 4} {op : AtOp} {red : Bool} {a o x : Reg} (hs : MemForm s) : MemForm (atRun s la op red a o x) := by
  unfold Machine.atRun
  exact hs.effectGate fun hs => hs.faultPoison.ite (hs.faultAddr.ite (hs.access fun hs => hs.atSets.ite (hs.windowGate fun hs => hs.atSets)))

theorem MemForm.atTrigger {h : Hdr} {la : BitVec 4} {op : AtOp} {red : Bool} {c : CSrc} (hs : MemForm s) :
    MemForm (atTrigger h la op red c s) :=
  hs.guarded fun hs => hs.readC fun hs => hs.atRun

theorem execAtAset_keepsForm {h : Hdr} {n : Fin 8} {c : CSrc} : KeepsForm s (execAtAset h n c s) :=
  .next fun hs => hs.guarded fun hs => hs.readC fun hs => hs.faultPoison.ite (hs.faultAddr.ite (hs.faultAddr.ite (hs.faultAddr.ite
    (hs.faultAddr.ite hs.updMe.consume))))

theorem execAtTok_keepsForm {h : Hdr} {la : BitVec 4} : KeepsForm s (execAtTok h la s) :=
  .next fun hs => hs.guarded fun hs => hs.needKernel fun hs => hs.conflictGate fun hs => hs.effectGate fun hs => hs.windowGate fun hs =>
    hs.asWaiting.consume.launchVar.push

/-! ### `Machine/QueueOps` -/

theorem MemForm.pushAt {ck qual idx : Nat} {v : BitVec 64} {mark : Bool} (hs : MemForm s) : MemForm (s.pushAt ck qual idx v mark).2 := by
  unfold State.pushAt
  exact hs.qPush

theorem MemForm.popAt {ck qual idx : Nat} {take user : Bool} {claim : Option (Nat × Nat)} (hs : MemForm s) :
    MemForm (s.popAt ck qual idx take user claim).2 := by
  unfold State.popAt
  dsimp only
  split
  · split
    · exact hs.senseGroup.qPop.adopt
    · exact hs.senseGroup.qPop
  · exact hs.senseGroup.qPop

theorem MemForm.lapseFor {ck : Nat} {claim : Option Nat} {r : Reply} (hs : MemForm s) : MemForm (s.lapseFor ck claim r) := hs.ite hs.lapse

theorem MemForm.lapseOf {op : RemoteOp} {r : Reply} (hs : MemForm s) : MemForm (s.lapseOf op r) := by
  unfold State.lapseOf
  split
  · exact hs.lapseFor
  · exact hs

theorem MemForm.queueGate {h : Reg} {push : Bool} {k : Nat → Nat → Nat → State → State} (hs : MemForm s)
    (hk : ∀ {x y z t}, MemForm t → MemForm (k x y z t)) :
    MemForm (queueGate s h push k) := by
  unfold Machine.queueGate
  refine hs.faultPoison.ite ?_
  split
  · exact hs.faultAddr
  · exact .ite (hs.faultAddr.ite (hk hs)) (hs.faultAddr.ite (hk hs))

theorem MemForm.claimGate {qual : Nat} {k : Option Nat → State → State} (hs : MemForm s) (hk : ∀ {x t}, MemForm t → MemForm (k x t)) :
    MemForm (claimGate s qual k) :=
  .ite (hk hs) (.ite (hk hs) (hs.faultAddr.ite (hk hs.updCore)))

theorem MemForm.sqLocal {la : BitVec 4} {port : Bool} {ws : List Wr} (hs : MemForm s) :
    MemForm (s.sqLocal la port ws) :=
  hs.asEffect.launchVar.consumeAll.push

theorem MemForm.nearGate {ck qual idx : Nat} {k : State → State} (hs : MemForm s) (hk : ∀ {t}, MemForm t → MemForm (k t)) :
    MemForm (nearGate s ck qual idx k) :=
  .ite (hk hs) (hs.remoteGate hk)

theorem MemForm.pushIssue {la : BitVec 4} {ck qual idx : Nat} {d : Reg} (hs : MemForm s) :
    MemForm (pushIssue s la ck qual idx d) :=
  hs.pushAt.sqLocal.ite hs.remoteOp.consumeAll

theorem execSqPush_keepsForm {h : Hdr} {la : BitVec 4} {c : CSrc} : KeepsForm s (execSqPush h la c s) :=
  .next fun hs => hs.guarded fun hs => hs.readC fun hs => hs.effectGate fun hs => hs.queueGate fun hs => hs.deferGate fun hs =>
    hs.windowGate fun hs => hs.pushIssue

theorem MemForm.popTrigger {h : Hdr} {la : BitVec 4} {take : Bool} {c : CSrc} (hs : MemForm s) :
    MemForm (popTrigger h la take c s) :=
  hs.guarded fun hs => hs.readC fun hs => hs.effectGate fun hs => hs.conflictGate fun hs => hs.queueGate fun hs => hs.windowGate fun hs =>
    hs.nearGate fun hs => hs.claimGate fun hs => hs.popAt.lapseFor.sqLocal.ite hs.remoteOp.consumeAll

theorem MemForm.joinWaiters {ck qual idx sid : Nat} (hs : MemForm s) : MemForm (s.joinWaiters ck qual idx sid) := by
  unfold State.joinWaiters
  split
  · exact hs.putQueue
  · exact hs

theorem MemForm.leaveWaiters {ck qual idx sid : Nat} (hs : MemForm s) : MemForm (s.leaveWaiters ck qual idx sid) := by
  unfold State.leaveWaiters
  split
  · exact hs.putQueue.ite hs
  · exact hs

theorem MemForm.claimUnless {push : Bool} {q : Nat} {k : Option Nat → State → State} (hs : MemForm s)
    (hk : ∀ {x t}, MemForm t → MemForm (k x t)) : MemForm ((if push then fun k => k none s else Machine.claimGate s q) k) := by
  split
  · exact hk hs
  · exact hs.claimGate hk

theorem MemForm.queueWait {h : Hdr} {la : BitVec 4} {push : Bool} {n : BitVec 10} (hs : MemForm s) :
    MemForm (queueWait h la push n s) := by
  refine hs.guarded fun hs => hs.effectGate fun hs => hs.conflictGate fun hs => hs.queueGate fun hs => hs.windowGate fun hs =>
    hs.nearGate fun hs => hs.claimUnless fun hs => ?_
  have hw := hs.asWaiting
  refine .ite (hw.launchVar.consumeAll.joinWaiters.push) ?_
  dsimp only
  split
  · exact .ite hw.launchVar.consumeAll.updMe.arrive hw.launchVar.consumeAll.sendRemote
  · exact hw.launchVar.consumeAll.updMe
  · exact hw.launchVar.consumeAll.updMe.sendRemote

theorem MemForm.tryQueue {sid : Nat} {f : Flight} (hs : MemForm s) : MemForm (s.tryQueue sid f) := by
  unfold State.tryQueue
  split
  · split
    · exact hs.ite (hs.ite (.ite (hs.pushAt.leaveWaiters.arrive.ite hs) (hs.ite hs.popAt.leaveWaiters.lapseFor.arrive)))
    · exact hs
  · exact hs

theorem execSqRqpush_keepsForm {h : Hdr} {la : BitVec 4} {n : Fin 4} {c : CSrc} : KeepsForm s (execSqRqpush h la n c s) :=
  .next fun hs => hs.guarded fun hs => hs.needKernel fun hs => hs.readC fun hs => hs.effectGate fun hs =>
    hs.faultPoison.ite (hs.faultAddr.ite hs.setRec.rqPush.sqLocal)

theorem execSqRqpop_keepsForm {h : Hdr} {la : BitVec 4} : KeepsForm s (execSqRqpop h la s) := by
  refine .next fun hs => ?_
  refine hs.guarded fun hs => hs.needKernel fun hs => hs.effectGate fun hs => hs.windowGate fun hs => .sqLocal ?_
  split
  · exact hs.updCore.pokePool
  · exact hs

theorem execSqRqprio_keepsForm {h : Hdr} {la : BitVec 4} {c : CSrc} : KeepsForm s (execSqRqprio h la c s) :=
  .next fun hs => hs.guarded fun hs => hs.needKernel fun hs => hs.readC fun hs => hs.effectGate fun hs =>
    hs.faultPoison.ite (hs.faultAddr.ite (hs.faultAddr.ite (.sqLocal (hs.setRecPrio.updCore.ite hs.setRecPrio))))

theorem MemForm.spawnIssue {la : BitVec 4} {hdr : List Byte} (hs : MemForm s) : MemForm (spawnIssue s la hdr) := by
  unfold Machine.spawnIssue
  exact hs.remoteOp.consumeAll

theorem MemForm.spawnHeader {a : Reg} {k : List Byte → State → State} (hs : MemForm s) (hk : ∀ {x t}, MemForm t → MemForm (k x t)) :
    MemForm (spawnHeader s a k) := by
  unfold Machine.spawnHeader
  refine hs.faultAddr.ite (hs.accessWith fun hs => ?_)
  split
  · exact hs.faultPoison.ite (.ite (hk hs.readPieces) hs.faultAddr)
  · exact hs.faultAddr
  · exact hs.faultAddr

theorem execSqSpawn_keepsForm {h : Hdr} {la : BitVec 4} {c : CSrc} : KeepsForm s (execSqSpawn h la c s) :=
  .next fun hs => hs.guarded fun hs => hs.readC fun hs => hs.effectGate fun hs => hs.spawnHeader fun hs => hs.deferGate fun hs =>
    hs.windowGate fun hs => hs.spawnIssue

theorem MemForm.sendLocal {sid : Nat} {op : RemoteOp} {seq : Nat} {fpc : BitVec 64} {second : Bool} (hs : MemForm s) :
    MemForm (s.sendLocal sid op seq fpc second) := by
  unfold State.sendLocal
  exact hs.updStrand.push

theorem MemForm.decIssue {la : BitVec 4} {ck i : Nat} (hs : MemForm s) :
    MemForm (decIssue s la ck i) :=
  hs.asEffect.launchVar.sendLocal.consumeAll.ite hs.remoteOp.consumeAll

theorem execSqDec_keepsForm {h : Hdr} {la : BitVec 4} {c : CSrc} : KeepsForm s (execSqDec h la c s) := by
  refine .next fun hs => ?_
  refine hs.guarded fun hs => hs.readC fun hs => hs.effectGate fun hs => hs.faultPoison.ite ?_
  split
  · exact hs.faultAddr
  · exact hs.deferGate fun hs => hs.decIssue

/-! ### `Machine/Sync` -/

theorem MemForm.syLocal {la : BitVec 4} {port : Bool} {ws : List Wr} (hs : MemForm s) :
    MemForm (s.syLocal la port ws) :=
  hs.asEffect.launchVar.consumeAll.push

theorem MemForm.barrierGate {a : Reg} {own : Bool} {k : Nat → Nat → State → State} (hs : MemForm s)
    (hk : ∀ {x y t}, MemForm t → MemForm (k x y t)) :
    MemForm (barrierGate s a own k) := by
  unfold Machine.barrierGate
  refine hs.faultPoison.ite ?_
  split
  · exact hs.faultAddr
  · exact hs.faultAddr.ite (hk hs)

theorem execSyBinit_keepsForm {h : Hdr} {la : BitVec 4} {c : CSrc} : KeepsForm s (execSyBinit h la c s) :=
  .next fun hs => hs.guarded fun hs => hs.readC fun hs => hs.effectGate fun hs => hs.barrierGate fun hs => hs.putBarrier.syLocal.ite hs.faultAddr

theorem MemForm.arriveIssue {la : BitVec 4} {ck i : Nat} {n : Option Nat} (hs : MemForm s) :
    MemForm (arriveIssue s la ck i n) :=
  hs.countBarrier.syLocal.ite hs.remoteOp.consumeAll

theorem MemForm.arriveTrigger {h : Hdr} {la : BitVec 4} {bytes : Bool} {c : CSrc} (hs : MemForm s) :
    MemForm (arriveTrigger h la bytes c s) :=
  hs.guarded fun hs => hs.readC fun hs => hs.effectGate fun hs => hs.barrierGate fun hs => hs.faultAddr.ite (.ite (hs.windowGate fun hs =>
    hs.arriveIssue) (hs.deferGate fun hs => hs.windowGate fun hs => hs.arriveIssue))

theorem MemForm.phaseGate {a : Reg} {k : Bool → State → State} (hs : MemForm s) (hk : ∀ {x t}, MemForm t → MemForm (k x t)) :
    MemForm (phaseGate s a k) := by
  unfold Machine.phaseGate
  exact hs.faultAddr.ite (hk hs)

theorem execSyWait_keepsForm {h : Hdr} {la : BitVec 4} {c : CSrc} : KeepsForm s (execSyWait h la c s) :=
  .next fun hs => hs.guarded fun hs => hs.readC fun hs => hs.effectGate fun hs => hs.conflictGate fun hs => hs.barrierGate fun hs =>
    hs.phaseGate fun hs => hs.windowGate fun hs => hs.asWaiting.launchVar.consumeAll.push

theorem execSyTest_keepsForm {h : Hdr} {la : BitVec 4} {c : CSrc} : KeepsForm s (execSyTest h la c s) :=
  .next fun hs => hs.guarded fun hs => hs.readC fun hs => hs.effectGate fun hs => hs.barrierGate fun hs => hs.phaseGate fun hs =>
    hs.windowGate fun hs => hs.syLocal

theorem execSyInval_keepsForm {h : Hdr} {la : BitVec 4} {c : CSrc} : KeepsForm s (execSyInval h la c s) :=
  .next fun hs => hs.guarded fun hs => hs.readC fun hs => hs.effectGate fun hs => hs.barrierGate fun hs => hs.putBarrier.syLocal

theorem MemForm.tryBarrier {sid : Nat} {f : Flight} (hs : MemForm s) : MemForm (s.tryBarrier sid f) := by
  unfold State.tryBarrier
  split
  · exact hs.arrive.ite hs
  · exact hs

theorem execSyMon_keepsForm {h : Hdr} {la : BitVec 4} {n : Fin 4} {c : CSrc} : KeepsForm s (execSyMon h la n c s) := by
  refine .next fun hs => ?_
  refine hs.guarded fun hs => hs.readC fun hs => hs.effectGate fun hs => hs.faultPoison.ite (hs.faultAddr.ite ?_)
  split
  · exact hs.faultAddr
  · split
    · exact (hs.resolve.of_snd ‹_›).updMe.syLocal
    · exact (hs.resolve.of_snd ‹_›).lateFault.consumeAll
    · exact (hs.resolve.of_snd ‹_›).faultAddr

theorem MemForm.clearWake {sid : Nat} (hs : MemForm s) : MemForm (s.clearWake sid) := by
  unfold State.clearWake
  exact hs.updStrand.updCore.ite hs.updStrand

theorem MemForm.tryMonitor {sid : Nat} {f : Flight} {bound : Bool} (hs : MemForm s) : MemForm (s.tryMonitor sid f bound) := by
  unfold State.tryMonitor
  exact hs.ite hs.clearWake.arrive

theorem execSyMwait_keepsForm {h : Hdr} {la : BitVec 4} : KeepsForm s (execSyMwait h la s) :=
  .next fun hs => hs.guarded fun hs => hs.effectGate fun hs => hs.conflictGate fun hs => hs.windowGate fun hs =>
    hs.asWaiting.launchVar.consumeAll.updMe.push

theorem execSyGbar_keepsForm {h : Hdr} {la : BitVec 4} : KeepsForm s (execSyGbar h la s) :=
  .next fun hs => hs.guarded fun hs => hs.effectGate fun hs => hs.conflictGate fun hs =>
    .ite (hs.asWaiting.launchVar.consumeAll.updData.foldl fun hs => hs.arrive) hs.asWaiting.launchVar.consumeAll.updData

/-! ### `Machine/System` -/

theorem MemForm.updErr {u : ErrUnit} {f : ErrWords → ErrWords} (hs : MemForm s) : MemForm (s.updErr u f) := hs.updUnit

theorem MemForm.writeImage {sid : Nat} {b : List Byte} (hs : MemForm s) : MemForm (s.writeImage sid b) := by
  unfold State.writeImage
  exact hs.setStrand.pushOnce.ite hs.setStrand

theorem MemForm.clearFilter {u : ErrUnit} (hs : MemForm s) : MemForm (s.clearFilter u) := hs.updErr

theorem MemForm.clearCounts {u : ErrUnit} (hs : MemForm s) : MemForm (s.clearCounts u) := hs.updErr

theorem MemForm.askScrub {u : ErrUnit} (hs : MemForm s) : MemForm (s.askScrub u) := hs.ite hs.pushOnce

theorem MemForm.setRing {rk : Nat} {w : BitVec 64} (hs : MemForm s) : MemForm (s.setRing rk w) := by
  unfold State.setRing
  split
  · exact hs.updRegion.pushOnce
  · exact hs

theorem MemForm.basinCommand {rk : Nat} {w : BitVec 64} (hs : MemForm s) : MemForm (s.basinCommand rk w) := by
  unfold State.basinCommand
  split
  · exact hs
  · dsimp only
    split
    · exact hs.updRegion.push
    · exact hs.updRegion.push
    · exact .push (hs.updRegion.updCore.ite hs.updRegion)
    · exact hs.updRegion.push
    · exact hs.updRegion.push
    · exact hs.updRegion.push
    · exact hs.updRegion.push
    · exact hs.updRegion.push

theorem MemForm.debugCommand {sid : Nat} {w : BitVec 64} (hs : MemForm s) : MemForm (s.debugCommand sid w) := by
  unfold State.debugCommand
  dsimp only
  split
  · exact hs.ite hs.updStrand.resume
  · exact hs.updStrand.push
  · exact hs.updStrand.push
  · exact hs.updStrand

theorem MemForm.sysApply {pid : Nat} {r : SysRef} {w : BitVec 64} (hs : MemForm s) : MemForm (s.sysApply pid r w) := by
  unfold State.sysApply
  split
  · exact hs.writeImage
  · exact hs.debugCommand
  · exact .pokePool (hs.updCore.ite (hs.ite hs.updCore))
  · exact hs.putBarrier
  · exact .askScrub (.ite (.clearFilter (.ite (.clearCounts (.updErr (hs.updUnit.ite hs))) (.updErr (hs.updUnit.ite hs)))) (.ite (.clearCounts
      (.updErr (hs.updUnit.ite hs))) (.updErr (hs.updUnit.ite hs))))
  · exact hs.updUnit
  · exact hs.updData
  · exact hs.updData
  · exact hs.updData
  · exact hs.updData
  · exact hs.updData
  · exact hs.updRegion
  · exact hs.setRing
  · exact hs.basinCommand
  · exact hs

theorem MemForm.senseSys {r : SysRef} (hs : MemForm s) : MemForm (s.senseSys r) := by
  unfold State.senseSys
  split
  · exact hs.senseStrand
  · exact hs.senseArray
  · exact hs.senseArray
  · exact hs.senseArray
  · exact hs.senseGroup
  · exact hs

theorem MemForm.commitSys {sid : Nat} {st : SysStore} (hs : MemForm s) : MemForm (s.commitSys sid st) := by
  unfold State.commitSys
  dsimp only
  split
  · exact hs
  · split
    · exact hs.senseSys.sysApply
    · exact hs.senseSys.freeze

/-! ### `Machine/Control` -/

theorem MemForm.branchTo {t : BitVec 64} (hs : MemForm s) : MemForm (s.branchTo t) := hs.updMe

theorem MemForm.withTarget {c : CSrc} {k : BitVec 64 → State → State} (hs : MemForm s) (hk : ∀ {x t}, MemForm t → MemForm (k x t)) :
    MemForm (withTarget s c k) :=
  hs.readC fun hs => hs.faultPoison.ite (hk hs)

theorem MemForm.branchTrigger {h : Hdr} {c : CSrc} (hs : MemForm s) :
    MemForm (branchTrigger h c s) :=
  hs.guarded fun hs => hs.withTarget fun hs => hs.branchTo

theorem MemForm.callTrigger {h : Hdr} {c : CSrc} (hs : MemForm s) :
    MemForm (callTrigger h c s) :=
  hs.guarded fun hs => hs.withTarget fun hs => hs.write.branchTo

theorem MemForm.readHint {src : CSrc} {k : Reg → State → State} (hs : MemForm s) (hk : ∀ {x t}, MemForm t → MemForm (k x t)) :
    MemForm (readHint s src k) := by
  unfold Machine.readHint
  split
  · exact hs
  · exact hk hs
  · exact hs.ite (hs.readC hk)

theorem execCtIpf_keepsForm {h : Hdr} {la : BitVec 4} {c : CSrc} : KeepsForm s (execCtIpf h la c s) :=
  .next fun hs => hs.guarded fun hs => hs.readHint fun hs => hs.foldl fun hs => hs.ite hs.askFill

theorem execCtTrap_keepsForm {h : Hdr} {c : CSrc} : KeepsForm s (execCtTrap h c s) :=
  .next fun hs => hs.guarded fun hs => hs.readC fun hs => hs.endFirst.ite (hs.hold.ite hs.fault)

theorem MemForm.fenceGate {why : Why} {k : State → State} (hs : MemForm s) (hk : ∀ {t}, MemForm t → MemForm (k t)) :
    MemForm (fenceGate s why k) :=
  hs.endFirst.ite (hs.hold.ite (hs.fault.ite (hk hs)))

theorem MemForm.deferStrand {dp : Nat} {r : Reg} (hs : MemForm s) : MemForm (s.deferStrand dp r) := hs.defer.updMe.close

theorem MemForm.faultStrand {r : Reg} (hs : MemForm s) : MemForm (s.faultStrand r) := hs.faultAddr

theorem MemForm.serverGate {st : Nat} {r : Reg} {k : State → State} (hs : MemForm s) (hk : ∀ {t}, MemForm t → MemForm (k t)) :
    MemForm (serverGate s st r k) :=
  hs.faultAddr.ite (hk hs)

theorem execCtSstop_keepsForm {h : Hdr} {c : CSrc} : KeepsForm s (execCtSstop h c s) :=
  .next fun hs => hs.guarded fun hs => hs.needKernel fun hs => hs.readC fun hs =>
    hs.faultPoison.ite (hs.faultStrand.ite (hs.serverGate fun hs => hs.deferStrand))

theorem execCtSgo_keepsForm {h : Hdr} {c : CSrc} : KeepsForm s (execCtSgo h c s) :=
  .next fun hs => hs.guarded fun hs => hs.needKernel fun hs => hs.readC fun hs =>
    hs.faultPoison.ite (hs.faultStrand.ite (hs.serverGate fun hs => hs.deferStrand))

theorem MemForm.imageGate {r : Reg} {k : State → State} (hs : MemForm s) (hk : ∀ {t}, MemForm t → MemForm (k t)) : MemForm (imageGate s r k) := by
  unfold Machine.imageGate
  exact hs.faultPoison.ite (hs.faultStrand.ite (hs.faultAddr.ite (hk hs)))

theorem execCtSsave_keepsForm {h : Hdr} {c : CSrc} : KeepsForm s (execCtSsave h c s) :=
  .next fun hs => hs.guarded fun hs => hs.needKernel fun hs => hs.readC fun hs => hs.imageGate fun hs => hs.deferStrand

theorem execCtSload_keepsForm {h : Hdr} {c : CSrc} : KeepsForm s (execCtSload h c s) :=
  .next fun hs => hs.guarded fun hs => hs.needKernel fun hs => hs.readC fun hs => hs.imageGate fun hs => hs.serverGate fun hs => hs.deferStrand

theorem execCtResume_keepsForm {h : Hdr} {c : CSrc} : KeepsForm s (execCtResume h c s) := by
  refine .next fun hs => ?_
  refine hs.guarded fun hs => hs.needSupervisor fun hs => hs.readC fun hs => hs.faultPoison.ite ?_
  split
  · exact hs.faultStrand
  · exact hs.deferStrand

/-! ### `Machine/Commit` -/

theorem MemForm.commitStores {sid : Nat} {k : Chunk} (hs : MemForm s) : MemForm (s.commitStores sid k) := by
  unfold State.commitStores
  exact .afterLines (.foldl (hs.foldl fun hs => hs.overwriteAll.putBytes) fun hs => hs.recordAt)

theorem MemForm.commitFar {sid : Nat} {k : Chunk} {c : Ctx} (hs : MemForm s) : MemForm (s.commitFar sid k c) := by
  unfold State.commitFar
  exact hs.foldl fun hs => .ite (.foldl (hs.ite (hs.updOwner.ite hs.updOwner.sendCommit)) fun hs =>
    hs.ite hs.logRec) (hs.ite (hs.updOwner.ite hs.updOwner.sendCommit))

theorem MemForm.selfStop {sid : Nat} {halt : Bool} (hs : MemForm s) : MemForm (s.selfStop sid halt) := by
  unfold State.selfStop
  exact .pokeKernel (hs.updCore.updStrand.ite hs.updCore.stopNow.updStrand)

theorem MemForm.actDeferred {sid : Nat} {d : Deferred} (hs : MemForm s) : MemForm (s.actDeferred sid d) := by
  unfold State.actDeferred
  split
  · exact hs.sendJob
  · exact hs.requestLease
  · exact hs.freeLeaseOf
  · exact hs.updStrand.push
  · exact hs.selfStop
  · exact hs.commitSys
  · split
    · exact hs.logLine
    · exact hs

theorem MemForm.logChunk {sid : Nat} {k : Chunk} (hs : MemForm s) : MemForm (s.logChunk sid k) := by
  unfold State.logChunk
  exact hs.updStrand.ite (hs.foldl fun hs => hs.logRec)

theorem MemForm.replayChunk {sid : Nat} {k : Chunk} (hs : MemForm s) : MemForm (s.replayChunk sid k) := by
  unfold State.replayChunk
  exact hs.commitStores.unhold.updCore.updStrand

theorem MemForm.commitChunk {sid : Nat} {c : Ctx} {k : Chunk} (hs : MemForm s) : MemForm (s.commitChunk sid c k) := by
  unfold State.commitChunk
  exact .ite (.foldl (hs.replayChunk.ite hs.logChunk.commitStores.unhold.commitFar) fun hs =>
    hs.actDeferred) (.leaseCheck (.foldl (hs.replayChunk.ite hs.logChunk.commitStores.unhold.commitFar) fun hs => hs.actDeferred))

theorem MemForm.settleStop {sid : Nat} (hs : MemForm s) : MemForm (s.settleStop sid) := by
  unfold State.settleStop
  exact hs.ite (hs.pushOnce.ite hs.stopNow)

theorem MemForm.commitAwait {sid : Nat} (hs : MemForm s) : MemForm (s.commitAwait sid) := by
  unfold State.commitAwait
  split
  · exact hs
  · exact hs.updStrand.commitChunk.settleStop.retry

theorem MemForm.askSlice {sid : Nat} {c : Ctx} {k : Chunk} {ref : Nat} (hs : MemForm s) : MemForm (s.askSlice sid c k ref) := hs.ite hs.sendCommit

theorem MemForm.weirDecide {sid : Nat} (hs : MemForm s) : MemForm (s.weirDecide sid) := by
  unfold State.weirDecide
  dsimp only
  split
  · exact hs.settleStop
  · refine hs.ite (.ite (hs.pushOnce.ite hs.commitAwait) (hs.pushOnce.ite (hs.pushOnce.ite (hs.squashAwait.ite ?_))))
    split
    · exact hs.askSlice
    · exact hs.commitAwait

theorem MemForm.logAnswer {m : Msg} (hs : MemForm s) : MemForm (s.logAnswer m) := by
  unfold State.logAnswer
  split
  · exact hs.logRec
  · exact hs

theorem MemForm.acceptPrepare {sid ref : Nat} {k : Chunk} (hs : MemForm s) : MemForm (s.acceptPrepare sid ref k) := by
  unfold State.acceptPrepare
  exact hs.updOwner.updStrand

theorem execWeirPrepare_keepsForm {sid : Nat} : KeepsForm s (execWeirPrepare sid s) := by
  refine .next fun hs => ?_
  dsimp only
  split
  · exact hs
  · refine hs.ite ?_
    split
    · exact hs.squashAwait.ite hs.commitAwait
    · exact hs.pushOnce.ite (hs.squashAwait.ite (hs.askSlice.ite hs.acceptPrepare.pushOnce))

theorem MemForm.decideCommit {sid : Nat} {m : Msg} {again : Instr} (hs : MemForm s) : MemForm (s.decideCommit sid m again) := by
  unfold State.decideCommit
  dsimp only
  split
  · exact hs
  · exact hs.ite (hs.sendReply.ite (hs.pushOnce.ite (hs.squashAwait.ite (hs.commitAwait.push.ite hs.acceptPrepare.updOwner.logAnswer.push))))

theorem MemForm.drain {sid n : Nat} (hs : MemForm s) : MemForm (s.drain sid n) := by
  induction n generalizing s with
  | zero => exact hs
  | succ n ih => exact .ite hs (hs.stallIfOverdue.ite (ih hs.setStrand))

theorem MemForm.stallReady {sid : Nat} (hs : MemForm s) : MemForm (s.stallReady sid) := by
  unfold State.stallReady
  refine hs.ite ?_
  split
  · exact hs
  · exact hs.setStrand.ite hs.stallIfOverdue

theorem MemForm.awaitCommit {sid : Nat} (hs : MemForm s) : MemForm (s.awaitCommit sid) := by
  unfold State.awaitCommit
  exact .stallReady (.ite (.weirDecide (.ite (.enterWait (hs.setStrand.useSerial.ite hs.setStrand)) (hs.setStrand.useSerial.ite hs.setStrand)))
    (.pushOnce (.ite (.enterWait (hs.setStrand.useSerial.ite hs.setStrand)) (hs.setStrand.useSerial.ite hs.setStrand))))

theorem MemForm.tryEndChunk {sid : Nat} (hs : MemForm s) : MemForm (s.tryEndChunk sid) := by
  unfold State.tryEndChunk
  exact hs.drain.ite (hs.drain.updStrand.stallReady.ite (hs.drain.enterWait.ite (hs.drain.freeze.ite
    (hs.drain.enterWait.ite hs.drain.awaitCommit))))

theorem MemForm.finishHeld {before : State} (hs : MemForm s) : MemForm (s.finishHeld before) := by
  unfold State.finishHeld
  refine .ite ?_ (hs.updCore.update.updStrand.tryEndChunk.ite hs.updCore.update)
  split
  · exact hs.updCore.update.updStrand.endOldest
  · exact hs.updCore.update.updStrand

theorem MemForm.commitOwn {x y : Strand} (hs : MemForm s) : MemForm (s.commitOwn x y) := by
  unfold State.commitOwn
  exact .commitChunk (hs.setStrand.useSerial.ite hs.setStrand)

theorem MemForm.goOn {sid : Nat} {k : Chunk} (hs : MemForm s) : MemForm (s.goOn sid k) := by
  unfold State.goOn
  exact .ite (.tryEndChunk (hs.enterWait.ite hs)) (hs.enterWait.ite hs)

theorem MemForm.ownBusy {before : State} {sid : Nat} {k : Chunk} (hbefore : MemForm before) : MemForm (before.ownBusy sid k) := by
  unfold State.ownBusy
  exact hbefore.updStrand.freeze.ite hbefore.updStrand.askBoundary.enterWait.pushOnce

theorem MemForm.ownOr {before : State} {sid : Nat} {k : State} (hbefore : MemForm before) (hk : MemForm k) : MemForm (s.ownOr before sid k) := by
  unfold State.ownOr
  exact .ite (hbefore.enterWait.pushOnce.ite hk) (hbefore.enterWait.ite (hbefore.enterWait.pushOnce.ite (hbefore.ownBusy.ite hk)))

theorem MemForm.finishEffect {before : State} {x : Strand} (hs : MemForm s) (hbefore : MemForm before) :
    MemForm (s.finishEffect before x) :=
  hbefore.ownOr hs.commitOwn.goOn

theorem MemForm.finishSerial {before : State} {x : Strand} (hs : MemForm s) (hbefore : MemForm before) : MemForm (s.finishSerial before x) := by
  unfold State.finishSerial
  exact hbefore.ownOr (hs.setStrand.tryEndChunk.ite hs.commitOwn.goOn)

theorem MemForm.pauseStep {eff issued : Bool} (hs : MemForm s) : MemForm (s.pauseStep eff issued) := by
  unfold State.pauseStep
  exact hs.ite (hs.ite hs.setStrand)

theorem MemForm.endBundle {before : State} {next : BitVec 64 × Bool} (hs : MemForm s) (hbefore : MemForm before) :
    MemForm (s.endBundle before next) :=
  hs.finishHeld.ite (hbefore.freeze.ite (.ite (hs.updCore.finishEffect hbefore) (.ite (hs.updCore.finishSerial hbefore)
    (hs.updCore.setStrand.updStrand.tryEndChunk.ite hs.updCore.setStrand.stallReady))))

theorem MemForm.finishBundle {before : State} {next : BitVec 64 × Bool} (hs : MemForm s) (hbefore : MemForm before) :
    MemForm (s.finishBundle before next) :=
  .pauseStep (hs.endBundle hbefore)

/-! ### `Machine/Engine` -/

theorem MemForm.acceptPush {a : CeArgs} {runs : List CeRun} {ts : List Nat} (hs : MemForm s) (e : s.acceptPush a runs ts = some t) :
    MemForm t := by
  unfold State.acceptPush at e
  extract_lets c x rs at e
  split at e
  · cases e
  · cases e
    exact hs.updCore.updMe.pushOnce

theorem MemForm.cePush {h : Hdr} {op : Nat} {q : Fin 4} (hs : MemForm s) : MemForm (cePush h op q s) := by
  unfold Machine.cePush
  refine hs.guarded fun hs => hs.effectGate fun hs => ?_
  split
  · exact hs.faultPoison.ite hs.faultAddr
  · refine hs.faultAddr.ite (hs.deferGate fun hs => ?_)
    split
    · exact hs.hold
    · exact (hs.acceptPush ‹_›).consumeAll

/-! ### `Machine/LoadStore` -/

theorem MemForm.sysLoad {la : BitVec 4} {op : Fin 8} {lane : Fin 4} {a : Reg80} {qq off : Nat} (hs : MemForm s) :
    MemForm (sysLoad s la op lane a qq off) := by
  unfold Machine.sysLoad
  split
  · exact hs.faultAddr
  · exact hs.senseSys.bump.launchVar.push

theorem MemForm.sysStore {a : Reg80} {qq off : Nat} {d : List Byte} (hs : MemForm s) : MemForm (sysStore s a qq off d) := by
  unfold Machine.sysStore
  split
  · exact hs.faultAddr
  · dsimp only
    split
    · exact hs.senseSys.fault.ite hs.senseSys.faultAddr
    · exact hs.senseSys.updMe

theorem MemForm.loadScalar {h : Hdr} {la : BitVec 4} {op : Fin 8} {lane : Fin 4} {c : CSrc} (hs : MemForm s) :
    MemForm (loadScalar h la op lane c s) := by
  unfold Machine.loadScalar
  refine hs.guarded fun hs => hs.readC fun hs => hs.windowGate fun hs => hs.access fun hs => ?_
  split
  · exact hs.sysLoad
  · exact hs.loadOp

theorem MemForm.storeValue {la : BitVec 4} {n : Nat} {a d : Reg} (hs : MemForm s) : MemForm (storeValue s la n a d) := by
  unfold Machine.storeValue
  refine hs.access fun hs => ?_
  split
  · exact hs.sysStore.consume
  · exact hs.storeOp.consume

theorem MemForm.storeScalar {h : Hdr} {la : BitVec 4} {n : Nat} {c : CSrc} (hs : MemForm s) :
    MemForm (storeScalar h la n c s) :=
  hs.guarded fun hs => hs.readC fun hs => hs.storeValue

theorem MemForm.bindStream {j : Fin 8} {a : Reg80} {d : List Byte} {mark : Bool} (hs : MemForm s) : MemForm (bindStream s j a d mark) := by
  unfold Machine.bindStream
  refine hs.faultStream.ite ?_
  split
  · exact hs.faultStream
  · exact .pushOnce (.updMe (.updCtx (hs.setPe.ite hs)))

theorem execQsBind_keepsForm {h : Hdr} {j : Fin 8} {c : CSrc} : KeepsForm s (execQsBind h j c s) := by
  refine .next fun hs => ?_
  refine hs.guarded fun hs => hs.readC fun hs => hs.accessWith fun hs => ?_
  split
  · exact hs.readPieces.bindStream
  · exact hs.faultAddr
  · exact hs.senseRepl.bindStream
  · split
    · exact hs.updMe.bindStream.ite hs.askElem
    · exact hs.askElem
  · exact hs.faultAddr

theorem execQsWrite_keepsForm {h : Hdr} {j : Fin 8} {c : CSrc} : KeepsForm s (execQsWrite h j c s) :=
  .next fun hs => hs.guarded fun hs => hs.readC fun hs => hs.takePosition fun hs => hs.storeOp

/-! ### `Machine/SysRegs` -/

theorem MemForm.faultReg {r : Nat} (hs : MemForm s) : MemForm (s.faultReg r) := hs.fault

theorem MemForm.limited {r : Nat} {ok : Bool} {k : State → State} (hs : MemForm s) (hk : ∀ {t}, MemForm t → MemForm (k t)) :
    MemForm (limited s r ok k) :=
  .ite (hk hs) hs.faultReg

theorem MemForm.writeSr {r : Fin 21} {ok : Bool} {w : BitVec 64} (hs : MemForm s) : MemForm (s.writeSr r ok w) := hs.limited fun hs => hs.write

theorem MemForm.srGate {r : Fin 21} {k : State → State} (hs : MemForm s) (hk : ∀ {t}, MemForm t → MemForm (k t)) : MemForm (srGate s r k) := by
  unfold Machine.srGate
  split
  · exact hk hs
  · exact hk hs
  · exact hk hs
  · exact hs.needKernel hk
  · exact hs.needKernel hk
  · exact hs.needKernel hk
  · exact hs.needKernel hk
  · exact hs.needKernel hk
  · exact hs.needKernel hk
  · exact hs.needKernel hk
  · exact hs.needKernel hk
  · exact hs.faultWord

theorem execSrWrite_keepsForm {h : Hdr} {r : Fin 21} {c : CSrc} : KeepsForm s (execSrWrite h r c s) := by
  refine .next fun hs => ?_
  refine hs.guarded fun hs => hs.srGate fun hs => hs.readC fun hs => ?_
  dsimp only
  split
  · exact hs.writeSr
  · exact hs.writeSr
  · exact hs.writeSr
  · exact hs.writeSr
  · exact hs.writeSr
  · exact hs.writeSr
  · exact hs.limited fun hs => hs.updCore
  · exact hs.limited fun hs => hs.updCore
  · exact hs.writeSr
  · exact hs.writeSr
  · exact hs.limited fun hs => hs.updCore
  · exact hs.faultWord

theorem MemForm.askAlarm {sid : Nat} (hs : MemForm s) : MemForm (s.askAlarm sid) := hs.pushOnce

theorem execWriteAlarm_keepsForm {h : Hdr} {c : CSrc} : KeepsForm s (execWriteAlarm h c s) :=
  .next fun hs => hs.guarded fun hs => hs.readC fun hs => hs.limited fun hs => hs.write.askAlarm

theorem MemForm.setRedpin {ck : Nat} {w : BitVec 64} (hs : MemForm s) : MemForm (s.setRedpin ck w) := by
  unfold State.setRedpin
  exact .ite (.pushOnce (hs.updCore.ite hs.updCore.updStrand)) (hs.updCore.updStrand.ite hs.updCore)

theorem execWriteRedpin_keepsForm {h : Hdr} {c : CSrc} : KeepsForm s (execWriteRedpin h c s) :=
  .next fun hs => hs.guarded fun hs => hs.needKernel fun hs => hs.readC fun hs => hs.limited fun hs => hs.fault.ite hs.setRedpin

theorem MemForm.srLocal {la : BitVec 4} (hs : MemForm s) : MemForm (s.srLocal la) := hs.launchVar.push

theorem MemForm.invalidate {off : Option Nat} (hs : MemForm s) : MemForm (s.invalidate off) := by
  unfold State.invalidate
  exact hs.updMe.foldl fun hs => hs.push

theorem execSrTlbinv_keepsForm {h : Hdr} {la : BitVec 4} {c : CSrc} : KeepsForm s (execSrTlbinv h la c s) :=
  .next fun hs => hs.guarded fun hs => hs.needKernel fun hs => hs.readC fun hs =>
    hs.faultPoison.ite (hs.faultAddr.ite (hs.endFirst.ite (hs.hold.ite hs.invalidate.srLocal)))

theorem MemForm.floorToAll {pid tok floor : Nat} (hs : MemForm s) : MemForm (s.floorToAll pid tok floor) := by
  unfold State.floorToAll
  exact hs.foldl fun hs => hs.push

theorem execSrAckfloor_keepsForm {h : Hdr} {la : BitVec 4} {c : CSrc} : KeepsForm s (execSrAckfloor h la c s) := by
  refine .next fun hs => ?_
  refine hs.guarded fun hs => hs.needKernel fun hs => hs.readC fun hs => hs.faultPoison.ite ?_
  split
  · exact hs.faultAddr
  · exact hs.faultAddr.ite (hs.placeNum.floorToAll.srLocal.ite hs.srLocal)
  · exact hs.faultAddr

/-! ### `Machine/Done` -/

theorem MemForm.releaseStore {n : Nat} {a d : Reg} (hs : MemForm s) : MemForm (releaseStore s n a d) := hs.access fun hs => hs.farStore

theorem MemForm.releaseVector {dp : Nat} {a : Reg} (hs : MemForm s) : MemForm (releaseVector s dp a) := by
  unfold Machine.releaseVector
  exact .ite (hs.access fun hs => hs.farStore) (.ite (hs.accessElems fun hs => hs.farStore) (.ite (hs.accessElems fun hs =>
    hs.farStore) (hs.access fun hs => hs.farStore)))

theorem MemForm.releasePush {dp b : Nat} (hs : MemForm s) : MemForm (releasePush s dp b) := by
  unfold Machine.releasePush
  dsimp only
  split
  · exact hs.faultAddr
  · split
    · exact hs.hold
    · exact (hs.acceptPush ‹_›)

theorem MemForm.releaseQueue {dp b : Nat} (hs : MemForm s) : MemForm (releaseQueue s dp b) := by
  unfold Machine.releaseQueue
  dsimp only
  split
  · exact hs.queueGate fun hs => hs.pushIssue
  · exact hs.spawnHeader fun hs => hs.spawnIssue
  · split
    · exact hs.faultAddr
    · exact hs.decIssue

theorem MemForm.releaseArrive {dp b : Nat} (hs : MemForm s) : MemForm (releaseArrive s dp b) := hs.barrierGate fun hs => hs.arriveIssue

theorem MemForm.releaseEntry {b : Nat} (hs : MemForm s) : MemForm (releaseEntry s b) := by
  unfold Machine.releaseEntry
  dsimp only
  split
  · exact hs.releaseVector
  · exact hs.releaseStore
  · split
    · exact hs.access fun hs => hs.atIssue
    · exact hs
  · exact hs.releasePush
  · exact hs.releaseQueue
  · exact hs.releaseArrive
  · exact hs.releaseStore

theorem MemForm.releaseSets {sid i : Nat} (hs : MemForm s) : MemForm (s.releaseSets sid i) := by
  unfold State.releaseSets
  exact hs.ite (.setRec (hs.foldl fun hs => hs.push.ite hs))

theorem MemForm.idleStrand {sid : Nat} (hs : MemForm s) : MemForm (s.idleStrand sid) := by
  unfold State.idleStrand
  exact hs.freeLeaseOf.dropRequests.updStrand.ite hs.freeLeaseOf.dropRequests.updStrand.returnToken.serveStash.updStrand

theorem MemForm.finishTask {sid i : Nat} (hs : MemForm s) : MemForm (s.finishTask sid i) := hs.releaseSets.idleStrand.freeRec.noteDone.retry

theorem MemForm.endTask {i : Nat} (hs : MemForm s) : MemForm (s.endTask i) := by
  unfold State.endTask
  exact hs.hold.ite (.ite (hs.releaseEntry.ite hs.releaseEntry.setRec.updMe.hold.pushOnce) (hs.hold.ite hs.finishTask.update))

theorem execSqDone_keepsForm {h : Hdr} : KeepsForm s (execSqDone h s) := by
  refine .next fun hs => ?_
  refine hs.guarded fun hs => ?_
  split
  · exact hs.faultAddr
  · refine hs.endTask.ite (hs.fenceGate fun hs => hs.hold.ite ?_)
    split
    · exact hs.fault
    · exact hs.setRecState.updMe.endTask

/-! ### `Machine/StrandEvents` -/

theorem MemForm.tryToken {sid seq : Nat} (hs : MemForm s) : MemForm (s.tryToken sid seq) := by
  unfold State.tryToken
  split
  · exact hs.askToken
  · exact (hs.takeToken ‹_›).arrive

theorem MemForm.landResult {sid seq : Nat} (hs : MemForm s) : MemForm (s.landResult sid seq) := by
  unfold State.landResult
  dsimp only
  split
  · exact hs.arrive.ite hs
  · refine hs.ite ?_
    split
    · exact hs.ite hs.arrive
    · exact hs.ite (hs.pushOnce.ite hs.arrive)
    · exact hs.tryToken
    · exact hs.tryBarrier
    · exact hs.tryMonitor
    · exact hs.tryQueue
    · exact hs.arrive.ite hs
    · exact hs

theorem MemForm.endWalk {sid seq : Nat} (hs : MemForm s) : MemForm (s.endWalk sid seq) := by
  unfold State.endWalk
  split
  · split
    · exact hs.ite hs.freezeLate
    · exact hs.landResult
  · exact hs.landResult

theorem MemForm.senseWalk {ck off : Nat} (hs : MemForm s) : MemForm (s.senseWalk ck off) := by
  unfold State.senseWalk
  exact hs.senseAll.ite (hs.senseAll.senseAll.ite hs.senseAll.senseAll.senseAll)

theorem execTranslationWalk_keepsForm {sid seq : Nat} : KeepsForm s (execTranslationWalk sid seq s) := by
  refine .next fun hs => ?_
  dsimp only
  split
  · exact hs.updRegion.endWalk
  · exact hs.updRegion.senseWalk.endWalk.ite (.pushOnce (hs.updRegion.ite hs))

theorem MemForm.wakeIf {sid : Nat} {why : Why} (hs : MemForm s) : MemForm (s.wakeIf sid why) := hs.wake.ite hs

theorem execStreamElementArrival_keepsForm {sid : Nat} {j : Fin 8} : KeepsForm s (execStreamElementArrival sid j s) := by
  refine .next fun hs => ?_
  dsimp only
  split
  · exact hs.wakeIf
  · exact hs.setStrand.wakeIf

theorem MemForm.dropLeaseRequest {sid seq : Nat} (hs : MemForm s) : MemForm (s.dropLeaseRequest sid seq) := hs.updData

theorem MemForm.dropTry {sid seq : Nat} (hs : MemForm s) : MemForm (s.dropTry sid seq) := by
  unfold State.dropTry
  refine hs.keepEvents.updStrand.foldl fun hs => ?_
  split
  · exact hs.updGroup
  · exact hs

theorem MemForm.expireFlight {sid : Nat} {f : Flight} (hs : MemForm s) : MemForm (s.expireFlight sid f) := by
  unfold State.expireFlight
  refine hs.tryMonitor.ite (.freezeLate ?_)
  split
  · exact hs.dropLeaseRequest
  · exact hs.dropTry
  · exact hs

theorem MemForm.dropControl {sid : Nat} (hs : MemForm s) : MemForm (s.dropControl sid) := by
  unfold State.dropControl
  split
  · exact hs
  · exact hs.updStrand.updCore.retry.askCommit

theorem MemForm.expire {sid : Nat} (hs : MemForm s) : MemForm (s.expire sid) := by
  unfold State.expire
  dsimp only
  split
  · exact hs.expireFlight
  · refine .ite ?_ ?_
    · split
      · exact hs.dropControl.freeze
      · exact hs.wake
    · split
      · exact hs.freeze.updStrand
      · exact hs.freeze

theorem execQueueRetry_keepsForm {sid : Nat} : KeepsForm s (execQueueRetry sid s) := by
  refine .next fun hs => ?_
  dsimp only
  split
  · exact hs
  · refine hs.ite (hs.pushOnce.ite ?_)
    split
    · split
      · exact hs.sendRemote
      · exact hs
    · exact hs

theorem MemForm.controlFault {sid : Nat} {w : CtlWord} (hs : MemForm s) : MemForm (s.controlFault sid w) := hs.dropControl.freeze

theorem MemForm.controlDone {sid : Nat} (hs : MemForm s) : MemForm (s.controlDone sid) := by
  unfold State.controlDone
  exact hs.dropControl.wakeIf.ite hs.dropControl

theorem MemForm.actSgo {sid : Nat} {w : CtlWord} (hs : MemForm s) : MemForm (s.actSgo sid w) := by
  unfold State.actSgo
  exact .ite (hs.controlDone.startTask.ite hs.controlFault) (hs.controlDone.reenter.ite (hs.controlDone.updStrand.pokeMonitor.ite hs.controlDone))

theorem MemForm.holdImage {sid o : Nat} (hs : MemForm s) : MemForm (s.holdImage sid o) := hs.updCore

theorem MemForm.finishSave {sid t o : Nat} (hs : MemForm s) : MemForm (s.finishSave sid t o) := by
  unfold State.finishSave
  refine .controlDone ?_
  split
  · exact hs.senseStrand.place.updCore.freeLeaseOf.dropRequests.updStrand.setRecState.setRec
  · exact hs.senseStrand.place.updCore.freeLeaseOf.dropRequests.updStrand

theorem MemForm.actSave {sid : Nat} {w : CtlWord} (hs : MemForm s) :
    MemForm (s.actSave sid w) :=
  .ite (hs.controlFault.ite (hs.pushOnce.ite hs.holdImage.updStrand.pushOnce)) (hs.controlFault.ite (hs.pushOnce.ite hs.finishSave))

theorem MemForm.finishLoad {sid t : Nat} {b : List Byte} (hs : MemForm s) : MemForm (s.finishLoad sid t b) := by
  unfold State.finishLoad
  extract_lets s0 ck i y fs z s1 s2 s3
  have hs3 : MemForm s3 := by
    refine .foldl hs.parkedWakes.setStrand.setRec.setRecState fun hs => hs.ite ?_
    split
    · exact hs.requestLease
    · exact hs.push
  exact .controlDone (.ite hs3.pushOnce hs3)

theorem MemForm.actLoad {sid : Nat} {w : CtlWord} (hs : MemForm s) :
    MemForm (s.actLoad sid w) :=
  hs.pushOnce.ite (hs.senseAll.controlFault.ite hs.senseAll.finishLoad)

theorem MemForm.actControl {sid : Nat} {w : CtlWord} (hs : MemForm s) : MemForm (s.actControl sid w) := by
  unfold State.actControl
  split
  · exact hs.controlDone.stop
  · exact hs.actSgo
  · exact hs.actSave
  · exact hs.actLoad
  · dsimp only
    split
    · exact hs.controlDone.ite hs.controlDone.resume
    · exact hs.controlDone

theorem execStrandControlAct_keepsForm {sid : Nat} : KeepsForm s (execStrandControlAct sid s) := by
  refine .next fun hs => ?_
  split
  · exact hs.wakeIf
  · exact hs.actControl.ite hs.actControl.pushOnce

theorem MemForm.beginStep {sid : Nat} (hs : MemForm s) : MemForm (s.beginStep sid) := by
  unfold State.beginStep
  exact hs.updStrand.resume.updStrand.ite hs.updStrand.resume.pushOnce

theorem execDebugStep_keepsForm {sid : Nat} : KeepsForm s (execDebugStep sid s) :=
  .next fun hs => hs.ite (.ite (hs.setStrand.beginStep.ite hs.setStrand) (hs.pushOnce.ite (hs.beginStep.ite hs.setStrand)))

theorem MemForm.ringWrite {sup a : Nat} {b : List Byte} (hs : MemForm s) : MemForm (s.ringWrite sup a b) := hs.place.logHardware

theorem MemForm.deliverPackets {pid rk n : Nat} (hs : MemForm s) : MemForm (s.deliverPackets pid rk n) := by
  induction n generalizing s with
  | zero => exact hs
  | succ n ih =>
    unfold State.deliverPackets
    split
    · exact hs.pushOnce.ite (ih hs.updRegion.ringWrite.ringWrite)
    · exact hs

/-! ### `Machine/ClockEvents` -/

theorem execTimeReferenceLost_keepsForm {rk : Nat} : KeepsForm s (execTimeReferenceLost rk s) := by
  refine .next fun hs => ?_
  refine hs.ite (hs.pushOnce.ite ?_)
  dsimp only
  split
  · exact hs.updRegion.report
  · exact hs.updRegion

theorem MemForm.measureAgeing {rk : Nat} {counts : List Nat} (hs : MemForm s) : MemForm (s.measureAgeing rk counts) := by
  unfold State.measureAgeing
  dsimp only
  split
  · exact hs.setRegion.report.ite hs.setRegion
  · exact hs.setRegion

theorem MemForm.takeFlit {link : Nat} {f : Flit} (hs : MemForm s) : MemForm (s.takeFlit link f) := by
  unfold State.takeFlit
  exact hs.update.enter.ite hs.update

theorem MemForm.moveLink {link c : Nat} (hs : MemForm s) : MemForm (s.moveLink link c) := by
  unfold State.moveLink
  refine hs.update.ite (hs.update.ite ?_)
  split
  · exact hs.takeFlit
  · exact hs

/-! ### `Machine/TaskEvents` -/

theorem MemForm.grantSet {w : Owner} {q : SetReq} (hs : MemForm s) : MemForm (s.grantSet w q) := hs.push.ite hs

theorem MemForm.woundHolder {w : Owner} {h : SetReq} (hs : MemForm s) : MemForm (s.woundHolder w h) := hs.pushOnce.ite hs

theorem MemForm.decideSet {w : Owner} {q : SetReq} (hs : MemForm s) : MemForm (s.decideSet w q).2 := by
  unfold State.decideSet
  refine hs.senseOwner.updOwner.grantSet.ite_snd ?_
  split
  · split
    · exact hs.senseOwner
    · exact hs.senseOwner.updOwner.grantSet
  · exact .ite_snd (hs.senseOwner.updOwner.foldl fun hs => hs.woundHolder) hs.senseOwner.updOwner

theorem MemForm.redecide {w : Owner} (hs : MemForm s) : MemForm (s.redecide w) := hs.foldl fun hs => hs.decideSet

theorem MemForm.releaseAt {w : Owner} {ck rec_ : Nat} {st : Nat × Nat} {n : Fin 8} (hs : MemForm s) :
    MemForm (s.releaseAt w ck rec_ st n) :=
  hs.updOwner.redecide

theorem MemForm.releaseSet {w : Owner} {ck rec_ : Nat} {st : Nat × Nat} {n : Fin 8} (hs : MemForm s) : MemForm (s.releaseSet w ck rec_ st n) := by
  unfold State.releaseSet
  split
  · exact hs.pushOnce.ite hs.releaseAt.logHardware
  · exact hs.releaseAt

theorem execSetGrant_keepsForm {sid : Nat} {n : Fin 8} : KeepsForm s (execSetGrant sid n s) := by
  refine .next fun hs => ?_
  refine hs.pushOnce.ite ?_
  split
  · exact hs.setRec.updStrand.wakeIf
  · split
    · exact hs.ite hs.push
    · exact hs

theorem MemForm.dropSets {ck i : Nat} (hs : MemForm s) : MemForm (s.dropSets ck i) := by
  unfold State.dropSets
  exact .foldl (hs.foldl fun hs => hs.updOwner.ite hs) fun hs => hs.releaseSet

theorem MemForm.writeBack {ck i e : Nat} (hs : MemForm s) : MemForm (s.writeBack ck i e) := by
  unfold State.writeBack
  dsimp only
  split
  · exact .foldl_fst hs fun hs => hs.place
  · exact hs

theorem MemForm.takeBack {ck i : Nat} (hs : MemForm s) : MemForm (s.takeBack ck i) := by
  unfold State.takeBack
  exact .setRec (.dropSets (.placeNum (hs.foldl fun hs => hs.writeBack)))

theorem MemForm.rollback {ck i : Nat} (hs : MemForm s) : MemForm (s.rollback ck i) := hs.takeBack.setRec

theorem MemForm.keepIdentity {ck i sn floor : Nat} (hs : MemForm s) : MemForm (s.keepIdentity ck i sn floor) := by
  unfold State.keepIdentity
  exact hs.placeNum.placeNum

theorem MemForm.restartTask {sid i : Nat} (hs : MemForm s) : MemForm (s.restartTask sid i) := by
  unfold State.restartTask
  exact hs.bindTask.updStrand

theorem MemForm.woundEnds {ck rec_ : Nat} (hs : MemForm s) : MemForm (s.woundEnds ck rec_) := by
  unfold State.woundEnds
  dsimp only
  split
  · exact hs.setRec.keepIdentity.restartTask
  · exact .ite (.setRecState (.setRec (hs.setRec.ite hs.setRec.keepIdentity))) (.rqAppend (.setRecState (.setRec
      (hs.setRec.ite hs.setRec.keepIdentity))))

theorem MemForm.woundStep {ck rec_ : Nat} {st : Nat × Nat} (hs : MemForm s) : MemForm (s.woundStep ck rec_ st) := by
  unfold State.woundStep
  exact hs.takeBack.woundEnds.logHardware.ite hs.takeBack.pushOnce

theorem execWoundRollback_keepsForm {ck : Nat} {run : Nat × Nat × Nat} : KeepsForm s (execWoundRollback ck run s) := by
  refine .next fun hs => ?_
  refine hs.pushOnce.ite (hs.ite (hs.ite ?_))
  split
  · exact hs.woundStep
  · exact hs.ite (hs.setStrand.stop.pushOnce.ite hs.woundStep)

theorem MemForm.woundAgain {ck rec_ : Nat} (hs : MemForm s) : MemForm (s.woundAgain ck rec_) := by
  unfold State.woundAgain
  refine .woundEnds (.takeBack ?_)
  split
  · exact hs.update.squashOpen
  · exact hs.update

theorem MemForm.killEnds {sid : Nat} (hs : MemForm s) : MemForm (s.killEnds sid) := by
  unfold State.killEnds
  split
  · exact hs.rollback.finishTask
  · exact hs.idleStrand.noteDone.retry

theorem execDebugKill_keepsForm {sid : Nat} : KeepsForm s (execDebugKill sid s) :=
  .next fun hs => hs.ite (hs.pushOnce.ite (hs.setStrand.ite (hs.stop.pushOnce.ite (hs.pushOnce.ite hs.killEnds.logHardware))))

theorem MemForm.taskReady {ck i : Nat} (hs : MemForm s) (e : s.taskReady ck i = some t) : MemForm t := by
  unfold State.taskReady at e
  split at e
  · extract_lets r at e
    split at e
    · cases e
      exact hs.qPush
    · cases e
  · cases e
    exact hs.rqAppend

theorem MemForm.expandAt {ck i : Nat} {b : List Byte} (hs : MemForm s) (e : s.expandAt ck i b = some t) : MemForm t := by
  unfold State.expandAt at e
  extract_lets s1 at e
  split at e
  · exact MemForm.taskReady hs.place e
  · exact Option.some.inj e ▸ hs.place

theorem MemForm.placeTask {hdr : List Byte} {wid : BitVec 64} {ck i age : Nat} (hs : MemForm s)
    (e : s.placeTask hdr wid ck i age = some t) : MemForm t := by
  unfold State.placeTask at e
  extract_lets b at e
  split at e
  · cases e
  · obtain ⟨u, hu, rfl⟩ := Option.map_eq_some_iff.mp e
    exact (hs.expandAt hu).logHardware

theorem MemForm.expandHeld {rk : Nat} {before hs' : List HeldTask} (hs : MemForm s) (e : s.expandHeld rk before hs' = some t) :
    MemForm t := by
  induction hs' generalizing before with
  | nil => cases e
  | cons h r ih =>
    unfold State.expandHeld at e
    split at e
    · cases e
      exact (hs.placeTask ‹_›).updRegion
    · exact ih e

theorem MemForm.expandNext {pid rk : Nat} {l : Launch} {rest : List Launch} (hs : MemForm s) : MemForm (s.expandNext pid rk l rest) := by
  unfold State.expandNext
  dsimp only
  split
  · exact hs.updRegion
  · refine hs.updRegion.ite ?_
    split
    · exact (hs.placeTask ‹_›).updRegion
    · exact hs.updRegion.updRegion.pushOnce

theorem execLaunchExpansion_keepsForm {pid rk : Nat} : KeepsForm s (execLaunchExpansion pid rk s) := by
  refine .next fun hs => ?_
  refine hs.ite ?_
  split
  · exact (hs.expandHeld ‹_›).pushOnce
  · split
    · exact hs
    · exact hs.expandNext.pushOnce

theorem execLaunchStalled_keepsForm {pid rk : Nat} : KeepsForm s (execLaunchStalled pid rk s) :=
  .next fun hs => hs.ite (.ite (.pushOnce (.updRegion (hs.foldl fun hs => hs.report))) (.updRegion (hs.foldl fun hs => hs.report)))

theorem MemForm.moveCore {rk rcv don : Nat} (hs : MemForm s) : MemForm (s.moveCore rk rcv don) := by
  unfold State.moveCore
  split
  · exact hs
  · exact hs.ite hs.updRegion.qPush.logHardware

theorem execSluiceGovernorTick_keepsForm {rk : Nat} : KeepsForm s (execSluiceGovernorTick rk s) := by
  refine .next fun hs => ?_
  refine hs.ite (hs.pushOnce.ite ?_)
  dsimp only
  split
  · exact hs.updRegion.pushOnce.moveCore
  · exact hs.updRegion.pushOnce

/-! ### `Machine/EngineEvents` -/

theorem MemForm.ceSource {ck : Nat} {a : Reg80} {n : Nat} (hs : MemForm s) : MemForm (s.ceSource ck a n).2 := by
  unfold State.ceSource
  split
  · exact hs
  · split <;> exact (hs.resolve.of_snd ‹_›)

theorem MemForm.ceReadLine {ck : Nat} {c : CeCmd} {line : Nat} (hs : MemForm s) : MemForm (s.ceReadLine ck c line).2 := by
  unfold State.ceReadLine
  split
  · exact hs
  · exact hs.sense

theorem MemForm.ceOverlap {ck : Nat} {c : CeCmd} {flat : Nat} {d : List Byte} (hs : MemForm s) :
    MemForm (s.ceOverlap ck c flat d).2 :=
  hs.update.ite_snd hs

theorem MemForm.engineSendUnder {ck : Nat} {at_ : Option (BitVec 32)} {w : Owner} {here : Bool} {op : RemoteOp} {k : Nat} {read : Bool}
    (hs : MemForm s) :
    MemForm (s.engineSendUnder ck at_ w here op k read).2 := by
  unfold State.engineSendUnder
  exact .ite (hs.setCore.push.ite hs.setCore.sendOut) (.askBoundary (hs.setCore.push.ite hs.setCore.sendOut))

theorem MemForm.engineSend {ck : Nat} {w : Owner} {here : Bool} {op : RemoteOp} {k : Nat} {read : Bool} (hs : MemForm s) :
    MemForm (s.engineSend ck w here op k read).2 :=
  hs.engineSendUnder

theorem MemForm.updCmd {ck id : Nat} {f : CeCmd → CeCmd} (hs : MemForm s) : MemForm (s.updCmd ck id f) := hs.updCore

theorem MemForm.ceCheck {ck id : Nat} (hs : MemForm s) : MemForm (s.ceCheck ck id) := by
  unfold State.ceCheck
  split
  · exact hs
  · exact hs.ite (hs.pushOnce.ite hs.pushOnce)

theorem MemForm.ceFail {ck id cause : Nat} (hs : MemForm s) : MemForm (s.ceFail ck id cause) := hs.updCmd.ceCheck

theorem MemForm.ceSent {ck id : Nat} {r : Nat × State} (hr : MemForm r.2) : MemForm (State.ceSent ck id r) := hr.updCmd

theorem MemForm.ceAsk {ck : Nat} {c : CeCmd} {m : Nat} {tl : Bool} {k line : Nat} (hs : MemForm s) :
    MemForm (s.ceAsk ck c m tl k line) :=
  hs.ite hs.engineSend.ceSent

theorem MemForm.ceFetch {ck : Nat} {c : CeCmd} {k : Nat} {p : CeRun} (hs : MemForm s) : MemForm (s.ceFetch ck c k p).2 := by
  unfold State.ceFetch
  split
  · exact hs.ceSource.of_snd ‹_›
  · exact .updCmd (.foldl_snd (hs.ceSource.of_snd ‹_›) fun hs => hs.ceReadLine)
  · have ht := hs.ceSource.of_snd ‹_›
    exact .ite_snd ht (ht.foldl fun hs => hs.ceAsk)

theorem MemForm.ceDeliver {ck : Nat} {c : CeCmd} {k t : Nat} {r : CeRun} {src : List Byte} {marks : List Bool} (hs : MemForm s) :
    MemForm (s.ceDeliver ck c k t r src marks) := by
  unfold State.ceDeliver
  refine .ite ?_ ?_
  · split
    · exact hs.engineSend.ceSent
    · exact hs.ceFail
  · refine hs.engineSend.ceSent.ite (hs.ceOverlap.engineSend.ceSent.ite ?_)
    split
    · exact hs.ceFail
    · split
      · exact (hs.resolve.of_snd ‹_›).ceOverlap.engineSend.ceSent
      · exact (hs.resolve.of_snd ‹_›).engineSend.ceSent
      · exact (hs.resolve.of_snd ‹_›).ceFail

theorem MemForm.reservePush {ck : Nat} {c : CeCmd} (hs : MemForm s) : MemForm (s.reservePush ck c) := by
  unfold State.reservePush
  split
  · exact hs.ite hs.updCmd.updCore
  · exact hs

theorem MemForm.ceSendNext {ck : Nat} {c : CeCmd} (hs : MemForm s) : MemForm (s.ceSendNext ck c) := by
  unfold State.ceSendNext
  split
  · exact hs.ceFail
  · refine hs.ite ?_
    dsimp only
    split
    · exact (hs.ceFetch.of_snd ‹_›).ceFail
    · exact (hs.ceFetch.of_snd ‹_›)
    · exact (hs.ceFetch.of_snd ‹_›).updCmd.ceDeliver.reservePush.ite (hs.ceFetch.of_snd ‹_›).updCmd.ceDeliver

theorem execCeCommandStart_keepsForm {ck : Nat} : KeepsForm s (execCeCommandStart ck s) := by
  refine .next fun hs => ?_
  dsimp only
  split
  · exact hs.ceSendNext.ceCheck.pushOnce
  · split
    · exact hs
    · exact hs.setCore.ceCheck.retry.pushOnce

theorem MemForm.placeMarked {reader : Option Nat} {a : Nat} {d : List Byte} {marks : List Bool} (hs : MemForm s) :
    MemForm (s.placeMarked reader a d marks) := by
  unfold State.placeMarked
  exact .afterLines (.recordLines (hs.overwriteAll.foldl fun hs => hs.putBytes))

theorem MemForm.deliverLine {reader : Option Nat} {d : Delivery} (hs : MemForm s) : MemForm (s.deliverLine reader d) := by
  unfold State.deliverLine
  dsimp only
  split
  · exact .countBarrier (hs.overwriteAll.placeMarked.ite hs.overwriteAll.placeMarked)
  · exact hs.overwriteAll.placeMarked.ite hs.overwriteAll.placeMarked

theorem MemForm.poisonBarrier {ck i : Nat} (hs : MemForm s) : MemForm (s.poisonBarrier ck i) := hs.putBarrier

theorem execCopyqMessagePush_keepsForm {ck id : Nat} : KeepsForm s (execCopyqMessagePush ck id s) := by
  refine .next fun hs => ?_
  split
  · exact hs
  · refine hs.ite (hs.pushOnce.ite ?_)
    split
    · exact hs.updCmd.ceFail
    · exact hs.updCmd.engineSendUnder.ceSent

theorem MemForm.sendNotices {ck : Nat} {c : CeCmd} (hs : MemForm s) : MemForm (s.sendNotices ck c) := by
  unfold State.sendNotices
  split
  · exact hs
  · exact hs
  · exact .foldl (hs.foldl fun hs => hs.push.ite hs.engineSend) fun hs => hs.engineSend

theorem MemForm.serverSend {ck op off n : Nat} {d : Reg80} {targets : List Nat} {b : Reg80} (hs : MemForm s) :
    MemForm (s.serverSend ck op off n d targets b) := by
  unfold State.serverSend
  exact hs.setCore.pushOnce

theorem MemForm.redUp {ck : Nat} (hs : MemForm s) : MemForm (s.redUp ck) := by
  unfold State.redUp
  exact hs.serverSend

theorem MemForm.redDown {ck off n : Nat} (hs : MemForm s) : MemForm (s.redDown ck off n) := by
  unfold State.redDown
  exact hs.setCore.pushOnce.ite hs.setCore.serverSend

theorem MemForm.redFull {ck : Nat} (hs : MemForm s) : MemForm (s.redFull ck) := by
  unfold State.redFull
  exact hs.countBarrier.redDown.ite hs.updCore.redUp

theorem MemForm.redWait {ck : Nat} {on : Bool} (hs : MemForm s) : MemForm (s.redWait ck on) := by
  unfold State.redWait
  exact hs.updStrand.pushOnce.ite hs.updStrand

theorem MemForm.redTake {ck : Nat} {q : Contribution} {r : List Contribution} (hs : MemForm s) : MemForm (s.redTake ck q r) := by
  unfold State.redTake
  exact hs.setCore.pokePool.pushOnce.updCore.ite (.ite (.redFull (.redWait
    (hs.setCore.pokePool.pushOnce.placeMarked.updCore.redWait.ite hs.setCore.pokePool.pushOnce.placeMarked.updCore)))
      (hs.setCore.pokePool.pushOnce.placeMarked.updCore.redWait.ite hs.setCore.pokePool.pushOnce.placeMarked.updCore))

theorem execReductionTake_keepsForm {ck : Nat} : KeepsForm s (execReductionTake ck s) := by
  refine .next fun hs => ?_
  refine hs.ite ?_
  split
  · exact hs.redUp.ite hs
  · exact .ite (.redDown (hs.redUp.ite hs)) (hs.redUp.ite hs)
  · split
    · exact hs
    · exact hs.redTake

theorem MemForm.redReceive {ck : Nat} {data : List (BitVec 32)} {marks : List Bool} {bar off : Nat} (hs : MemForm s) :
    MemForm (s.redReceive ck data marks bar off) := by
  unfold State.redReceive
  exact hs.placeMarked.countBarrier.redDown.ite hs.placeMarked.countBarrier

theorem execReductionRoundEnd_keepsForm {ck : Nat} : KeepsForm s (execReductionRoundEnd ck s) := by
  refine .next fun hs => ?_
  split
  · exact hs.updCore.pushOnce.ite hs
  · exact hs

theorem MemForm.serverDone {ck : Nat} {c : CeCmd} (hs : MemForm s) : MemForm (s.serverDone ck c) := by
  unfold State.serverDone
  exact hs.ite (hs.updCore.freeze.ite (hs.updCore.pushOnce.ite hs.updCore))

theorem execCeCommandComplete_keepsForm {ck id : Nat} : KeepsForm s (execCeCommandComplete ck id s) := by
  refine .next fun hs => ?_
  split
  · exact hs
  · exact hs.ite (.pushOnce (.releaseRange (hs.updCore.sendNotices.serverDone.ite hs.updCore.sendNotices.updStrand)))

theorem MemForm.engineReplied {ck seq : Nat} {refused : Option Nat} {r : Reply} (hs : MemForm s) : MemForm (s.engineReplied ck seq refused r) := by
  unfold State.engineReplied
  split
  · exact hs
  · dsimp only
    split
    · exact .pushOnce (hs.updCore.ite hs.updCore.logRec)
    · split
      · exact .ceFail (.updCmd (.pushOnce (hs.updCore.ite hs.updCore.logRec)))
      · split
        · exact .ceCheck (.updCmd (.pushOnce (hs.updCore.ite hs.updCore.logRec)))
        · exact .ite (.ceCheck (.updCmd (.updCmd (.pushOnce (hs.updCore.ite hs.updCore.logRec))))) (.ceCheck (.updCmd (.updCmd (.pushOnce
            (hs.updCore.ite hs.updCore.logRec)))))

/-! ### `Machine/RemoteEvents` -/

theorem MemForm.updReqs {o : Origin} {f : List Req → List Req} (hs : MemForm s) : MemForm (s.updReqs o f) := by
  unfold State.updReqs
  split
  · exact hs.updStrand
  · exact hs.updCore
  · exact hs.updHostq

theorem MemForm.updReq {o : Origin} {seq : Nat} {f : Req → Req} (hs : MemForm s) : MemForm (s.updReq o seq f) := hs.updReqs

theorem MemForm.askEarly {o : Origin} (hs : MemForm s) : MemForm (s.askEarly o) := by
  unfold State.askEarly
  split
  · exact hs.askBoundary
  · exact hs.askBoundary
  · exact hs

theorem MemForm.decAt {ck i : Nat} (hs : MemForm s) : MemForm (s.decAt ck i).2 := by
  unfold State.decAt
  refine hs.ite_snd (hs.ite_snd (hs.setRec.ite_snd ?_))
  split
  · exact (hs.setRec.setRecState.taskReady ‹_›)
  · exact hs

theorem MemForm.inboxAt {ck : Nat} {data : List (BitVec 32)} {marks : List Bool} (hs : MemForm s) : MemForm (s.inboxAt ck data marks).2 := by
  unfold State.inboxAt
  exact hs.ite_snd (hs.ite_snd hs.setCore.pushOnce)

theorem MemForm.acceptLaunch {pid : Nat} {hdr : List Byte} {ox oy oseat : Nat} (hs : MemForm s) :
    MemForm (s.acceptLaunch pid hdr ox oy oseat) :=
  hs.foldl fun hs => hs.updRegion.pushOnce

theorem MemForm.numberStore {pid : Nat} {st : ReplStore} (hs : MemForm s) : MemForm (s.numberStore pid st) := hs.updPart.foldl fun hs => hs.pushOnce

theorem MemForm.execOp {m : Msg} (hs : MemForm s) : MemForm (s.execOp m).2 := by
  obtain ⟨_, _, _, _, _, _, op⟩ := m
  cases op with
  | atomic => exact hs.sense.atomicAt
  | push => exact hs.ite_snd hs.pushAt
  | pop => exact hs.popAt
  | dec => exact hs.decAt
  | arrive => exact hs.countBarrier
  | spawn => exact hs.acceptLaunch
  | acquire => exact hs.ite_snd hs.decideSet
  | deliver => exact hs.deliverLine
  | inbox => exact hs.inboxAt
  | down => exact hs.redReceive
  | poisonNotice => exact .beside hs.poisonBarrier
  | repl => exact .beside hs.numberStore
  | commit => exact hs
  | commitAt => exact hs
  | module => exact hs
  | expand => exact hs.getD fun e => hs.expandAt e
  | release => exact hs.releaseAt
  | wound => exact hs.woundAgain
  | kill => exact hs.squashOpen.killEnds

theorem MemForm.logIncoming {m : Msg} {r : Reply} (hs : MemForm s) : MemForm (s.logIncoming m r) := by
  unfold State.logIncoming
  split
  · exact hs.logRec
  · exact hs

theorem MemForm.runMessage {pid : Nat} {m : Msg} (hs : MemForm s) : MemForm (s.runMessage pid m) := by
  unfold State.runMessage
  split
  · exact (hs.execOp.of_snd ‹_›).sendReply
  · exact (hs.execOp.of_snd ‹_›).updOwner.logIncoming.sendReply
  · exact (hs.execOp.of_snd ‹_›).updOwner.logIncoming.sendReply

theorem MemForm.runLocal {m : Msg} (hs : MemForm s) : MemForm (s.runLocal m) := by
  unfold State.runLocal
  extract_lets turn s0 keep
  have hs0 : MemForm s0 := by
    unfold s0
    split
    · exact hs.updCore
    · exact hs
  split
  · exact (hs0.execOp.of_snd ‹_›).push
  · have ht := hs0.execOp.of_snd ‹_›
    exact .push (ht.ite ht.logIncoming)
  · have ht := hs0.execOp.of_snd ‹_›
    exact .push (ht.ite ht.logIncoming)

theorem MemForm.waitAt {m : Msg} {again : Instr} (hs : MemForm s) : MemForm (s.waitAt m again) := by
  unfold State.waitAt
  split
  · exact hs.updGroup.ite hs.pushOnce
  · exact hs.pushOnce

theorem MemForm.receiveHere {m : Msg} {again : Instr} (hs : MemForm s) : MemForm (s.receiveHere m again) := by
  unfold State.receiveHere
  refine hs.waitAt.ite (hs.runLocal.ite ?_)
  dsimp only
  split
  · exact hs.senseOwner.updOwner.sendReply
  · exact hs.senseOwner.updOwner.ite (hs.senseOwner.updOwner.decideCommit.ite
      (hs.senseOwner.updOwner.sendReply.ite hs.senseOwner.updOwner.runMessage))

theorem MemForm.receive {m : Msg} {again : Instr} (hs : MemForm s) : MemForm (s.receive m again) := by
  unfold State.receive
  split
  · exact hs.update
  · exact hs.ite (hs.pushOnce.ite (hs.sendReply.ite (hs.ite hs.receiveHere)))

theorem MemForm.lineArrives {ck cmd line : Nat} {again : Instr} (hs : MemForm s) : MemForm (s.lineArrives ck cmd line again) := by
  unfold State.lineArrives
  split
  · exact hs.receive
  · exact hs

theorem MemForm.tryAgain {sid : Nat} {r : Reply} (hs : MemForm s) : MemForm (s.tryAgain sid r) := hs.updStrand.pushOnce

theorem MemForm.queueReplied {sid seq : Nat} {op : RemoteOp} {push : Bool} {r : Reply} (hs : MemForm s) :
    MemForm (s.queueReplied sid seq op push r) := by
  unfold State.queueReplied
  dsimp only
  split
  · split
    · exact hs.tryAgain.ite hs.lapseOf.arrive
    · exact hs.lapseOf.arrive
  · exact hs.lapseOf.arrive.ite hs.lapseOf.updStrand

theorem MemForm.atomicReplied {sid seq : Nat} {red log : Bool} {r : Reply} (hs : MemForm s) : MemForm (s.atomicReplied sid seq red log r) := by
  unfold State.atomicReplied
  split
  · exact hs.arrive
  · refine .arrive ?_
    split
    · exact hs.logLine
    · exact hs

theorem MemForm.moduleReplied {sid seq : Nat} {acc : ModAccess} {r : Reply} (hs : MemForm s) : MemForm (s.moduleReplied sid seq acc r) := by
  unfold State.moduleReplied
  dsimp only
  split
  · exact hs.atomicReplied
  · split
    · split
      · exact hs.sendJob.arrive
      · exact hs.arrive
      · exact hs.arrive
    · split
      · exact hs.setStrand.wakeIf
      · exact hs.arrive

theorem MemForm.strandReplied {sid : Nat} {q : Req} {r : Reply} (hs : MemForm s) : MemForm (s.strandReplied sid q r) := by
  unfold State.strandReplied
  refine .retry ?_
  split
  · exact .atomicReplied (hs.updStrand.ite hs.updStrand.logRec)
  · exact .queueReplied (hs.updStrand.ite hs.updStrand.logRec)
  · exact .queueReplied (hs.updStrand.ite hs.updStrand.logRec)
  · exact .arrive (hs.updStrand.ite hs.updStrand.logRec)
  · exact .arrive (hs.updStrand.ite hs.updStrand.logRec)
  · exact hs.updStrand.ite hs.updStrand.logRec
  · exact hs.updStrand.ite hs.updStrand.logRec
  · exact .pushOnce (hs.updStrand.ite hs.updStrand.logRec)
  · exact hs.updStrand.ite hs.updStrand.logRec
  · exact .moduleReplied (hs.updStrand.ite hs.updStrand.logRec)
  · exact .arrive (hs.updStrand.ite hs.updStrand.logRec)

theorem MemForm.strandRefused {sid : Nat} {q : Req} {cause : Nat} (hs : MemForm s) : MemForm (s.strandRefused sid q cause) := by
  unfold State.strandRefused
  exact .ite (.retry (.lapseOf (.ite (hs.updStrand.dropAwait.ite hs.updStrand) (.arrive (hs.updStrand.dropAwait.ite hs.updStrand))))) (.retry
    (.freezeLate (.lapseOf (.ite (hs.updStrand.dropAwait.ite hs.updStrand) (.arrive (hs.updStrand.dropAwait.ite hs.updStrand))))))

theorem MemForm.hostReplied {q seq : Nat} {refused : Bool} (hs : MemForm s) : MemForm (s.hostReplied q seq refused) := by
  unfold State.hostReplied
  dsimp only
  split
  · exact hs.updHostq.pushOnce
  · exact hs.updHostq

theorem execReplyResult_keepsForm {o : Origin} {seq : Nat} {r : Reply} : KeepsForm s (execReplyResult o seq r s) := by
  refine .next fun hs => ?_
  split
  · exact hs
  · refine hs.pushOnce.ite ?_
    split
    · exact hs.strandReplied
    · exact hs.engineReplied
    · exact hs.hostReplied

theorem MemForm.refused {o : Origin} {seq cause : Nat} (hs : MemForm s) : MemForm (s.refused o seq cause) := by
  unfold State.refused
  split
  · exact hs
  · split
    · exact hs.strandRefused
    · exact hs.engineReplied
    · exact hs.hostReplied

theorem execReplyRefuse_keepsForm {o : Origin} {seq cause : Nat} : KeepsForm s (execReplyRefuse o seq cause s) := by
  refine .next fun hs => ?_
  split
  · exact hs
  · exact hs.pushOnce.ite hs.refused

theorem MemForm.resend {o : Origin} {q : Req} (hs : MemForm s) : MemForm (s.resend o q) := by
  unfold State.resend
  exact hs.updReq.sendMsg.ite hs.updReq.sendMsg.pushOnce

theorem MemForm.sendAgain {o : Origin} {q : Req} (hs : MemForm s) : MemForm (s.sendAgain o q) := hs.updReq.resend

theorem execReplyBusy_keepsForm {o : Origin} {seq : Nat} : KeepsForm s (execReplyBusy o seq s) := by
  refine .next fun hs => ?_
  split
  · exact hs
  · exact hs.updReq.pushOnce.pushOnce.askEarly

theorem execBusyRetryTimer_keepsForm {o : Origin} {seq : Nat} : KeepsForm s (execBusyRetryTimer o seq s) := by
  refine .next fun hs => ?_
  split
  · exact hs
  · exact hs.pushOnce.ite hs.resend

theorem execOwnerBusyLimit_keepsForm {o : Origin} {seq : Nat} : KeepsForm s (execOwnerBusyLimit o seq s) := by
  refine .next fun hs => ?_
  split
  · exact hs
  · split
    · exact hs
    · exact hs.update.refused.ite hs.pushOnce

theorem execReplyMoved_keepsForm {o : Origin} {seq : Nat} : KeepsForm s (execReplyMoved o seq s) := by
  refine .next fun hs => ?_
  split
  · exact hs
  · exact hs.resend

theorem execRetransmitTimeout_keepsForm {o : Origin} {seq : Nat} : KeepsForm s (execRetransmitTimeout o seq s) := by
  refine .next fun hs => ?_
  split
  · exact hs
  · exact hs.pushOnce.ite (hs.resend.ite (hs.refused.ite hs.updReq.resend))

theorem MemForm.sendFloors {pid : Nat} {tok : BitVec 40} {floor : BitVec 32} {reached : List Owner} (hs : MemForm s) :
    MemForm (s.sendFloors pid tok floor reached) := by
  unfold State.sendFloors
  exact hs.foldl fun hs => hs.push

theorem MemForm.restartWalks {sid : Nat} (hs : MemForm s) : MemForm (s.restartWalks sid) := by
  unfold State.restartWalks
  exact .retry (hs.ite (.ite (.wake (hs.dropAwait.pushOnce.ite hs.dropAwait)) (.ite (hs.squashOpen.wake.ite hs) hs)))

theorem execTlbInvalidationArrival_keepsForm {rk pid : Nat} {off : Option Nat}
    {src : Nat × Nat} : KeepsForm s (execTlbInvalidationArrival rk pid off src s) :=
  .next fun hs => .foldl (.updStrand (.foldl (.updRegion (.foldl (hs.foldl fun hs => hs.updCore) fun hs => hs.updGroup.ite hs)) fun hs =>
    hs.restartWalks)) fun hs => hs.pushOnce

theorem MemForm.applyRepl {pid rk : Nat} {st : ReplStore} (hs : MemForm s) : MemForm (s.applyRepl pid rk st) :=
  .foldl_fst hs fun hs => hs.place

theorem execCascadeApply_keepsForm {pid rk : Nat} : KeepsForm s (execCascadeApply pid rk s) := by
  refine .next fun hs => ?_
  dsimp only
  split
  · exact hs
  · exact .pushOnce (hs.applyRepl.updRegion.arrive.ite hs.applyRepl.updRegion)

theorem MemForm.putPieces {acc : ModAccess} {d : List Byte} {ps : List (Nat × Nat)} {o : Nat} (hs : MemForm s) :
    MemForm (s.putPieces acc d ps o) := by
  induction ps generalizing s o with
  | nil => exact hs
  | cons p r ih => exact ih (hs.overwriteAll.placeMarked.ite hs.overwriteAll.placeMarked)

theorem MemForm.runAccess {acc : ModAccess} {ps : List (Nat × Nat)} (hs : MemForm s) : MemForm (s.runAccess acc ps).2 := by
  unfold State.runAccess
  dsimp only
  split
  · exact .atomicAt (.ite (hs.foldl fun hs => hs.senseAll) hs)
  · dsimp only
    split
    · exact .ite (.poisonBarrier (.putPieces (.ite (hs.foldl fun hs =>
        hs.senseAll) hs))) (.countBarrier (.putPieces (.ite (hs.foldl fun hs => hs.senseAll) hs)))
    · exact .putPieces (.ite (hs.foldl fun hs => hs.senseAll) hs)
  · exact .ite (hs.foldl fun hs => hs.senseAll) hs

theorem MemForm.answerModule {acc : ModAccess} {k : ModAnswer} {r : Reply} (hs : MemForm s) : MemForm (s.answerModule acc k r) := hs

theorem MemForm.execAccess {acc : ModAccess} {w : Owner} {ps : List (Nat × Nat)} (hs : MemForm s) : MemForm (s.execAccess acc w ps).2 := by
  unfold State.execAccess
  exact hs.runAccess.updOwner

theorem MemForm.accessAt {acc : ModAccess} {w : Owner} {ck : Option Nat} {k : State → State} (hs : MemForm s)
    (hk : ∀ {t}, MemForm t → MemForm (k t)) :
    MemForm (s.accessAt acc w ck k) := by
  unfold State.accessAt
  refine hs.updOwner.ite ?_
  split
  · exact hs.updOwner.answerModule
  · exact hs.updOwner.answerModule.ite (hk hs.updOwner)

theorem execRemoteModuleAccess_keepsForm {acc : ModAccess} : KeepsForm s (execRemoteModuleAccess acc s) := by
  refine .next fun hs => ?_
  split
  · exact hs.answerModule.ite (hs.accessAt fun hs => hs.updOwner.answerModule)
  · exact hs.pushOnce.ite (hs.accessAt fun hs => hs.execAccess.logRec.pushOnce.ite hs.execAccess.answerModule)

/-! ### `Machine/Binding` -/

theorem MemForm.placeCores {gk : Nat} {e : RouterEntry} (hs : MemForm s) : MemForm (s.placeCores gk e) := hs.foldl fun hs => hs.updCore

theorem MemForm.noteExceed {pid : Nat} (hs : MemForm s) : MemForm (s.noteExceed pid) := hs.updPart.ite hs

theorem MemForm.dropEvents {pid : Nat} (hs : MemForm s) : MemForm (s.dropEvents pid) := hs.keepEvents

theorem MemForm.clearStores {pid : Nat} (hs : MemForm s) : MemForm (s.clearStores pid) :=
  .filter (hs.foldl fun hs => hs.renewRegion)

theorem MemForm.clearRecords {pid : Nat} (hs : MemForm s) : MemForm (s.clearRecords pid) := by
  unfold State.clearRecords
  exact hs.update

theorem MemForm.clearChannels {pid : Nat} (hs : MemForm s) : MemForm (s.clearChannels pid) := hs

theorem MemForm.releaseRegions {pid : Nat} (hs : MemForm s) : MemForm (s.releaseRegions pid) := hs

/-! ### `Machine/ErrorEvents` -/

theorem MemForm.freezeFatal {sid : Nat} (hs : MemForm s) : MemForm (s.freezeFatal sid) := by
  unfold State.freezeFatal
  exact hs.dropAwait.squashOpen.updStrand

theorem MemForm.coreDies {ck detail unit_ lane : Nat} (hs : MemForm s) : MemForm (s.coreDies ck detail unit_ lane) := by
  unfold State.coreDies
  exact .sendPacket (.updCore (hs.foldl fun hs => hs.freezeFatal))

theorem MemForm.coreFatal {place detail unit_ lane : Nat} (hs : MemForm s) : MemForm (s.coreFatal place detail unit_ lane) := by
  unfold State.coreFatal
  dsimp only
  split
  · exact hs
  · split
    · exact hs
    · exact .push (.updRegion (hs.foldl fun hs => hs.coreDies))

theorem MemForm.watchStrand {sid : Nat} (hs : MemForm s) : MemForm (s.watchStrand sid) := by
  unfold State.watchStrand
  exact hs.updStrand

theorem execWatchdogFire_keepsForm {ck : Nat} : KeepsForm s (execWatchdogFire ck s) :=
  .next fun hs => hs.ite (.ite (.coreFatal (.updCore (hs.foldl fun hs => hs.watchStrand))) (.pushOnce (.updCore (hs.foldl fun hs =>
    hs.watchStrand))))

theorem MemForm.disturb (hs : MemForm s) : MemForm s.disturb := by
  unfold State.disturb
  extract_lets s1 s2 s3 s4 s5 s6
  have hs2 : MemForm s2 := .foldl (hs.foldl fun hs => hs.strike) fun hs => hs.strikeRim
  have hs3 : MemForm s3 := by
    unfold s3
    split
    · exact hs2.dropCodeLine
    · exact hs2
  have hs4 : MemForm s4 := by
    unfold s4
    split
    · exact hs3.dropTlb
    · exact hs3
  have hs5 : MemForm s5 := by
    unfold s5
    split
    · exact hs4.coreFatal.ite hs4
    · exact hs4
  have hs6 : MemForm s6 := by
    unfold s6
    split
    · exact hs5.updGroup.pushOnce.ite hs5
    · exact hs5
  split
  · exact hs6.push
  · exact hs6

theorem MemForm.scrubUnit {u : ErrUnit} {n : Nat} (hs : MemForm s) : MemForm (s.scrubUnit u n) := hs.foldl fun hs => hs.scrubGroup

theorem MemForm.scrubLine {c line : Nat} (hs : MemForm s) : MemForm (s.scrubLine c line) := by
  unfold State.scrubLine
  exact .updChannel (hs.rebuildRim.rimReport.ite hs.rebuildRim)

/-! ### `Machine/Fetch` -/

theorem MemForm.senseCode {ck line : Nat} (hs : MemForm s) : MemForm (s.senseCode ck line) := hs.senseAll

theorem MemForm.freezeFetch {sid detail : Nat} (hs : MemForm s) : MemForm (s.freezeFetch sid detail) := by
  unfold State.freezeFetch
  exact hs.freeze

theorem MemForm.filled {pid line sid : Nat} (hs : MemForm s) : MemForm (s.filled pid line sid) := by
  unfold State.filled
  exact .ite (hs.wake.ite (hs.freezeFetch.ite hs)) hs

theorem execFetchRetryTimeout_keepsForm {sid : Nat} : KeepsForm s (execFetchRetryTimeout sid s) :=
  .next fun hs => hs.ite (hs.pushOnce.ite (hs.freezeFetch.ite hs.setStrand.askFill.pushOnce))

/-! ### `Machine/Partition` -/

theorem MemForm.seatDouble {ck : Nat} (hs : MemForm s) : MemForm (s.seatDouble ck) := by
  unfold State.seatDouble
  exact hs.updCore.pushOnce

theorem MemForm.mail {code : BitVec 8} (hs : MemForm s) : MemForm (s.mail code) := hs

theorem MemForm.refuseRegion {rk : Option Nat} (hs : MemForm s) : MemForm (s.refuseRegion rk) := hs

theorem MemForm.startClocks (hs : MemForm s) : MemForm s.startClocks := by
  unfold State.startClocks
  exact hs.update.foldl fun hs => hs.updRegion.measureAgeing

theorem MemForm.bindGroups {pid rk : Nat} (hs : MemForm s) : MemForm (s.bindGroups pid rk) := by
  unfold State.bindGroups
  refine hs.senseAll.foldl fun hs => ?_
  split
  · exact hs.setGroup.push
  · exact hs

theorem MemForm.startCore {pid ck : Nat} (hs : MemForm s) : MemForm (s.startCore pid ck) := by
  unfold State.startCore
  exact hs.setCore.placeCores.askToken.push

theorem MemForm.startStrand {pid ck n : Nat} (hs : MemForm s) : MemForm (s.startStrand pid ck n) := by
  unfold State.startStrand
  exact hs.ite hs.setStrand

theorem MemForm.createPart {pid : Nat} {d : List Byte} (hs : MemForm s) : MemForm (s.createPart pid d) := by
  unfold State.createPart
  exact .ite (.push (.foldl (.foldl (.foldl (.foldl (.setPart (.clearChannels (.clearRecords (.clearStores (.dropEvents
    (hs.foldl fun hs => hs.renewRegion)))))) fun hs => hs.setRegion.bindGroups.pushOnce) fun hs => hs.startCore) fun hs =>
      hs.foldl fun hs => hs.startStrand) fun hs => hs.updGroup)) (.foldl (.foldl (.foldl (.foldl (.setPart (.clearChannels (.clearRecords
        (.clearStores (.dropEvents (hs.foldl fun hs => hs.renewRegion)))))) fun hs => hs.setRegion.bindGroups.pushOnce) fun hs =>
          hs.startCore) fun hs => hs.foldl fun hs => hs.startStrand) fun hs => hs.updGroup)

theorem execPartitionCreate_keepsForm {desc sig : List (BitVec 8)} : KeepsForm s (execPartitionCreate desc sig s) := by
  refine .next fun hs => ?_
  refine hs.ite ?_
  split
  · exact hs.mail
  · exact hs.mail
  · exact hs.createPart.bump

theorem MemForm.wipePart {pid : Nat} (hs : MemForm s) : MemForm (s.wipePart pid) := by
  unfold State.wipePart
  exact hs.dropEvents.clearStores.clearRecords.clearChannels.releaseRegions.update

theorem MemForm.zeroChannel {c : Nat} (hs : MemForm s) : MemForm (s.zeroChannel c) := .updChannel hs.filter

/-! ### `Machine/Boundaries` -/

theorem MemForm.stopForBoundary {gk : Nat} (hs : MemForm s) : MemForm (s.stopForBoundary gk) := by
  unfold State.stopForBoundary
  exact .updGroup (hs.foldl fun hs => hs.stop)

theorem MemForm.resumeAll {sids : List Nat} (hs : MemForm s) : MemForm (s.resumeAll sids) := hs.foldl fun hs => hs.reenter.ite hs

theorem MemForm.putLine {a : Nat} {d : List Byte} {ms : List Bool} (hs : MemForm s) : MemForm (s.putLine a d ms) :=
  have ht := hs.overwriteAll
  ⟨memWriteList_wf _ _ _ ht.mem, foldl_rises _ _ _ (fun _ _ hp => setMark_rises _ _ _ hp) ht.poison⟩

theorem MemForm.boundaryFence {stopped : List Nat} {sid : Nat} (hs : MemForm s) : MemForm (s.boundaryFence stopped sid) := by
  unfold State.boundaryFence
  exact hs.ite (.freeze (hs.setStrand.ite hs))

theorem MemForm.senseChanged {gk : Nat} (hs : MemForm s) : MemForm (s.senseChanged gk) := hs.foldl fun hs => hs.foldl fun hs => hs.sense

theorem MemForm.afterRecord {gk : Nat} (hs : MemForm s) : MemForm (s.afterRecord gk) := by
  unfold State.afterRecord
  exact .foldl (hs.foldl fun hs => hs.updCore) fun hs => hs.updStrand

theorem execBoundaryRecord_keepsForm {gk : Nat} : KeepsForm s (execBoundaryRecord gk s) := by
  refine .next fun hs => ?_
  split
  · exact hs
  · exact hs.ite (hs.stopForBoundary.pushOnce.ite (.foldl (.resumeAll (.updGroup (.afterRecord
      (hs.senseChanged.senseRecord.foldl fun hs => hs.boundaryFence)))) fun hs => hs.push))

theorem execBoundaryApply_keepsForm {gk : Nat} {seat : Fin 4} : KeepsForm s (execBoundaryApply gk seat s) := by
  refine .next fun hs => ?_
  split
  · exact hs
  · exact hs.ite (.ite (.push (.updGroup (hs.foldl fun hs => hs.putLine))) (.updGroup (hs.foldl fun hs => hs.putLine)))

theorem MemForm.setFloor {ck : Nat} {tok : BitVec 40} {f : BitVec 32} (hs : MemForm s) : MemForm (s.setFloor ck tok f) := by
  unfold State.setFloor
  exact .updCore (hs.foldl fun hs => hs.updStrand.ite hs)

theorem MemForm.strandFloor {p : Nat × Strand} (hs : MemForm s) : MemForm (s.strandFloor p) := by
  unfold State.strandFloor
  exact hs.ite hs.setFloor.sendFloors

theorem MemForm.engineFloor {p : Nat × Core} (hs : MemForm s) : MemForm (s.engineFloor p) := by
  unfold State.engineFloor
  exact hs.updCore.sendFloors

theorem MemForm.retryCore {ck : Nat} (hs : MemForm s) : MemForm (s.retryCore ck) := .pushOnce (hs.retry.foldl fun hs => hs.askCommit)

theorem execBoundaryDurable_keepsForm {gk : Nat} : KeepsForm s (execBoundaryDurable gk s) := by
  refine .next fun hs => ?_
  split
  · exact hs
  · split
    · exact hs
    · exact hs.ite (.pushOnce (.foldl (.foldl (.foldl (hs.updGroup.foldl fun hs => hs.updCore) fun hs => hs.strandFloor) fun hs =>
        hs.engineFloor) fun hs => hs.retryCore))

theorem execBoundaryAbandon_keepsForm {gk : Nat} : KeepsForm s (execBoundaryAbandon gk s) := by
  refine .next fun hs => ?_
  split
  · exact hs
  · exact hs.ite (hs.pushOnce.ite (.pushOnce (.report (hs.updGroup.resumeAll.foldl fun hs => hs.updCore))))

/-! ### `Machine/Routers` -/

theorem MemForm.loseCopy {ck : Nat} (hs : MemForm s) : MemForm (s.loseCopy ck) := by
  unfold State.loseCopy
  exact hs.updCore.report.askBoundary

theorem MemForm.loseBuddyCopy {ck : Nat} (hs : MemForm s) : MemForm (s.loseBuddyCopy ck) := by
  unfold State.loseBuddyCopy
  split
  · exact hs.ite hs.loseCopy
  · exact hs

theorem MemForm.runHeld {e : Instr} (hs : MemForm s) : MemForm (s.runHeld e) := by
  unfold State.runHeld
  dsimp only
  split
  · exact hs.receiveHere
  · split
    · exact hs.receiveHere
    · exact hs
  · split
    · exact hs.receiveHere
    · exact hs
  · exact hs.pushOnce

theorem MemForm.releaseHeld {gk : Nat} (hs : MemForm s) : MemForm (s.releaseHeld gk) := hs.updGroup.foldl fun hs => hs.runHeld

theorem MemForm.basinEnds {rk err done : Nat} {seq : Option (Nat × Nat)} (hs : MemForm s) : MemForm (s.basinEnds rk err done seq) := hs.updRegion

theorem MemForm.askRouters {gk : Nat} {e : Nat → Instr} (hs : MemForm s) : MemForm (s.askRouters gk e) := by
  unfold State.askRouters
  exact hs.foldl fun hs => hs.push.pushOnce

theorem MemForm.startRebind {gk : Nat} {e : RouterEntry} {basin : Option Nat} (hs : MemForm s) : MemForm (s.startRebind gk e basin) := by
  unfold State.startRebind
  exact hs.updGroup.askRouters

theorem MemForm.startCommit {gk : Nat} (hs : MemForm s) : MemForm (s.startCommit gk) := by
  unfold State.startCommit
  exact hs.updGroup.askRouters

theorem MemForm.retireOld {ck : Nat} {b : Rebind} (hs : MemForm s) : MemForm (s.retireOld ck b) := by
  unfold State.retireOld
  exact hs.updRegion.updCore.releaseHeld.resumeAll.loseBuddyCopy.retryCore.pushOnce

theorem MemForm.ownCommit {gk : Nat} {b : Rebind} (hs : MemForm s) : MemForm (s.ownCommit gk b) := by
  unfold State.ownCommit
  dsimp only
  split
  · exact hs.updGroup.placeCores.noteExceed.pushOnce.retireOld
  · exact hs.updGroup.placeCores.noteExceed.pushOnce.updGroup.pushOnce

theorem MemForm.phaseEnds {gk : Nat} (hs : MemForm s) : MemForm (s.phaseEnds gk) := by
  unfold State.phaseEnds
  split
  · exact hs
  · refine hs.ite ?_
    dsimp only
    split
    · exact hs.startCommit
    · exact hs.updGroup
    · exact hs.basinEnds.ite hs.updGroup.basinEnds.updCore.releaseHeld
    · exact hs.updGroup.basinEnds.report

theorem execRouterEntryPending_keepsForm {pid router gk : Nat} : KeepsForm s (execRouterEntryPending pid router gk s) := by
  refine .next fun hs => ?_
  split
  · exact hs
  · exact hs.ite (hs.push.ite hs.updGroup.phaseEnds)

theorem execRouterEntryCommit_keepsForm {pid router gk : Nat} : KeepsForm s (execRouterEntryCommit pid router gk s) := by
  refine .next fun hs => ?_
  split
  · exact hs
  · exact hs.ite (.phaseEnds (hs.updGroup.ownCommit.ite hs.updGroup))

theorem execRouterAckTimeout_keepsForm {pid router gk : Nat} : KeepsForm s (execRouterAckTimeout pid router gk s) := by
  refine .next fun hs => ?_
  split
  · exact hs
  · refine hs.ite (hs.pushOnce.ite (hs.updGroup.phaseEnds.push.ite ?_))
    split
    · exact hs.updGroup.phaseEnds.push
    · exact hs.updGroup.phaseEnds.updRegion

/-! ### `Machine/Recovery` -/

theorem MemForm.fence {gk : Nat} {w : FailReason} (hs : MemForm s) : MemForm (s.fence gk w) := by
  unfold State.fence
  dsimp only
  split
  · exact hs.updRegion
  · exact hs.updRegion
  · exact hs.updGroup.updRegion
  · exact hs.updRegion

theorem MemForm.replaceBasin {gk : Nat} (hs : MemForm s) : MemForm (s.replaceBasin gk) := by
  unfold State.replaceBasin
  dsimp only
  split
  · exact hs.basinEnds.updRegion
  · exact hs.basinEnds
  · exact hs

theorem MemForm.discardBoundary {gk code : Nat} (hs : MemForm s) : MemForm (s.discardBoundary gk code) := by
  unfold State.discardBoundary
  split
  · exact hs
  · exact .report (.updRegion (.updGroup (hs.foldl fun hs => hs.putLine)))

theorem MemForm.interrupt {gk reason : Nat} (hs : MemForm s) : MemForm (s.interrupt gk reason) := by
  unfold State.interrupt
  exact .report (.foldl (hs.foldl fun hs => hs.freezeFatal) fun hs => hs.updGroup)

theorem MemForm.restoreStore {ck : Nat} (hs : MemForm s) : MemForm (s.restoreStore ck) := by
  unfold State.restoreStore
  extract_lets t lo im inside cells words
  have ht : MemForm t := by
    unfold t
    split
    · exact hs.senseUnit
    · exact hs
  exact ⟨memWriteCells_wf _ _ (memFilter_wf _ _ ht.mem), insertNats_rises (filterNat_rises _ _ _ ht.poison)⟩

theorem MemForm.renumber {gk sid : Nat} (hs : MemForm s) : MemForm (s.renumber gk sid) := by
  unfold State.renumber
  exact hs.updStrand

theorem MemForm.reask {ck n : Nat} {o : Origin} {q : Req} (hs : MemForm s) : MemForm (s.reask ck n o q) := by
  unfold State.reask
  split
  · exact hs.push
  · exact hs.sendAgain

theorem MemForm.restoreStrand {stopped : List Nat} {sid : Nat} {x : Strand} (hs : MemForm s) : MemForm (s.restoreStrand stopped sid x) := by
  unfold State.restoreStrand
  exact .foldl (.foldl (hs.setStrand.updStrand.reenter.ite hs.setStrand.updStrand) fun hs => hs.pushOnce) fun hs => hs.reask

theorem MemForm.restoreGroup {gk : Nat} {d : GroupSnap} (hs : MemForm s) : MemForm (s.restoreGroup gk d) := by
  unfold State.restoreGroup
  exact .foldl (.foldl (.foldl (.updRegion (.foldl (.setGroup (hs.keepEvents.foldl fun hs => hs.restoreStore.setCore)) fun hs =>
    hs.renumber)) fun hs => hs.pushOnce) fun hs => hs.restoreStrand) fun hs => .pushOnce (hs.foldl fun hs => hs.reask)

theorem MemForm.freshUnits {gk : Nat} (hs : MemForm s) : MemForm (s.freshUnits gk) := by
  unfold State.freshUnits
  exact hs.foldl fun hs => hs.renewUnit

theorem MemForm.loseCopies {gk : Nat} {w : FailReason} {e : RouterEntry} {p : NewPlace} {rim : List Nat} (hs : MemForm s) :
    MemForm (s.loseCopies gk w e p rim) := by
  unfold State.loseCopies
  exact .foldl (hs.foldl fun hs => hs.loseBuddyCopy) fun hs => hs.loseCopy

theorem MemForm.openRecovery {gk : Nat} {w : FailReason} (hs : MemForm s) : MemForm (s.openRecovery gk w) := by
  unfold State.openRecovery
  exact hs.updGroup.report

theorem MemForm.recoverAt {gk : Nat} {w : FailReason} {d : GroupSnap} {p : NewPlace} (hs : MemForm s) : MemForm (s.recoverAt gk w d p) := by
  unfold State.recoverAt
  exact .startRebind (.foldl (.updGroup (.loseCopies (.restoreGroup (.freshUnits (.foldl
    (hs.updRegion.updGroup.report.ite hs.updRegion.updGroup) fun hs => hs.report))))) fun hs => hs.seatDouble)

theorem MemForm.recover {gk : Nat} {w : FailReason} (hs : MemForm s) : MemForm (s.recover gk w) := by
  unfold State.recover
  refine hs.ite ?_
  dsimp only
  split
  · exact hs.fence.replaceBasin.discardBoundary.interrupt
  · exact hs.fence.replaceBasin.discardBoundary.interrupt
  · split
    · exact .interrupt (.report (hs.fence.replaceBasin.discardBoundary.ite hs.fence.replaceBasin.discardBoundary.openRecovery))
    · exact .recoverAt (hs.fence.replaceBasin.discardBoundary.ite hs.fence.replaceBasin.discardBoundary.openRecovery)

theorem MemForm.applyWrites {ws : List (Nat × List (BitVec 8) × Bool)} (hs : MemForm s) : MemForm (s.applyWrites ws) := hs.foldl fun hs => hs.place

theorem MemForm.replayIncoming {m : Msg} {r : Reply} (hs : MemForm s) : MemForm (s.replayIncoming m r) := by
  unfold State.replayIncoming
  dsimp only
  split
  · exact hs.applyWrites.ite hs.applyWrites.updOwner
  · split
    · exact hs.execAccess
    · exact hs
  · split <;> exact (hs.execOp.of_snd ‹_›).ite (hs.execOp.of_snd ‹_›).updOwner

theorem MemForm.replayCore {ck n : Nat} (hs : MemForm s) : MemForm (s.replayCore ck n) := by
  induction n generalizing s with
  | zero => exact hs
  | succ n ih =>
    unfold State.replayCore
    split
    · exact hs
    · exact ih hs.updCore.replayIncoming

theorem MemForm.finishRecovery {gk : Nat} {v : Recovery} (hs : MemForm s) : MemForm (s.finishRecovery gk v) := by
  unfold State.finishRecovery
  exact .pushOnce (.pushOnce (.pushOnce (.measureAgeing (.foldl (.foldl (.releaseHeld (.report (.updRegion (.updGroup (hs.foldl fun hs =>
    hs.updCore))))) fun hs => hs.updStrand) fun hs => hs.retryCore))))

theorem execRecoveryReplay_keepsForm {gk : Nat} : KeepsForm s (execRecoveryReplay gk s) := by
  refine .next fun hs => ?_
  dsimp only
  split
  · exact hs
  · exact hs.ite (.ite (.finishRecovery (hs.foldl fun hs => hs.replayCore)) (.pushOnce (hs.foldl fun hs => hs.replayCore)))

/-! ### `Machine/Basin` -/

theorem MemForm.basinFinish {c : BasinCmd} {cmd err done : Nat} (hs : MemForm s) : MemForm (s.basinFinish c cmd err done) := hs.basinEnds

theorem KeepsForm.basinRun {c : BasinCmd} {cmd : Nat} {act : State → State} (hact : ∀ {t}, MemForm t → MemForm (act t)) :
    KeepsForm s (s.basinRun c cmd act) := by
  refine .next fun hs => ?_
  split
  · exact hs.basinFinish
  · exact hact hs

theorem MemForm.stopFence {ck : Nat} (hs : MemForm s) : MemForm (s.stopFence ck) := by
  unfold State.stopFence
  exact hs.foldl fun hs => hs.boundaryFence

theorem execBasinStop_keepsForm {c : BasinCmd} : KeepsForm s (execBasinStop c s) := by
  refine .basinRun fun {t} hs => ?_
  have hstop (l : List Nat) : MemForm (l.foldl State.stop t) := hs.foldl fun hs => hs.stop
  exact .ite (hstop _).updCore.stopFence.basinFinish (hstop _).updCore.pushOnce

theorem MemForm.leaveUnit {ck : Nat} (hs : MemForm s) : MemForm (s.leaveUnit ck) := by
  unfold State.leaveUnit
  exact hs.senseUnit

theorem execBasinMigrate_keepsForm {c : BasinCmd} : KeepsForm s (execBasinMigrate c s) := by
  refine .basinRun fun hs => ?_
  exact hs.updCore.basinFinish.releaseHeld.ite (hs.pushOnce.ite hs.leaveUnit.updCore.updRegion.basinFinish)

theorem MemForm.basinGivesUp {c : BasinCmd} {cmd err : Nat} (hs : MemForm s) :
    MemForm (s.basinGivesUp c cmd err) :=
  hs.updCore.basinFinish.releaseHeld

theorem execBasinReturn_keepsForm {c : BasinCmd} : KeepsForm s (execBasinReturn c s) := by
  refine .next fun hs => ?_
  dsimp only
  split
  · exact hs.setRegion.basinFinish.ite hs.basinFinish
  · exact hs.setRegion.basinFinish.ite (hs.setRegion.basinFinish.ite hs.basinFinish)

/-! ### `Machine/Preempt` -/

theorem MemForm.stopAll {pid : Nat} {q : Preempt} (hs : MemForm s) : MemForm (s.stopAll pid q) := by
  unfold State.stopAll
  exact .updPart (hs.foldl fun hs => hs.stop)

theorem MemForm.writeSaveArea {pid area : Nat} (hs : MemForm s) : MemForm (s.writeSaveArea pid area) := by
  unfold State.writeSaveArea
  exact .foldl (.foldl (.foldl hs.filter fun hs => hs.foldl fun hs => hs.pokeList) fun hs => hs.pokeList.ite hs) fun hs => hs.pokeList

theorem MemForm.savePart {pid : Nat} {q : Preempt} (hs : MemForm s) : MemForm (s.savePart pid q) := by
  unfold State.savePart
  exact hs.sensePart.writeSaveArea.dropEvents.clearStores.clearRecords.releaseRegions.update

theorem execPreemptSave_keepsForm {pid : Nat} : KeepsForm s (execPreemptSave pid s) := by
  refine .next fun hs => ?_
  split
  · exact hs
  · exact .ite (hs.savePart.ite hs.pushOnce) (hs.stopAll.pushOnce.ite hs.pushOnce)

theorem execPreemptGraceExpiry_keepsForm {pid : Nat} : KeepsForm s (execPreemptGraceExpiry pid s) := by
  refine .next fun hs => ?_
  split
  · exact hs
  · exact hs.ite (hs.pushOnce.ite (hs.updPart.refuseRegion.foldl fun hs => hs.pushOnce))

theorem MemForm.restoredGroup {v : Saved} {gk rk i g : Nat} {ps : Vector Nat 4} (hs : MemForm s) : MemForm (s.restoredGroup v gk rk i g ps) := by
  unfold State.restoredGroup
  exact hs.setGroup.placeCores.push

theorem MemForm.restoredCore {ck : Nat} {c : Core} (hs : MemForm s) : MemForm (s.restoredCore ck c) := by
  unfold State.restoredCore
  exact hs.setCore

theorem MemForm.resumeSaved {v : Saved} {sid : Nat} (hs : MemForm s) : MemForm (s.resumeSaved v sid) := by
  unfold State.resumeSaved
  extract_lets s0 x s1 s2
  have hs2 : MemForm s2 := by
    have hs1 : MemForm s1 := hs.updStrand.foldl fun hs => hs.ite hs.sendAgain
    unfold s2
    split
    · exact hs1.pushOnce
    · exact hs1
  exact .ite hs2.reenter hs2

theorem MemForm.restorePart {v : Saved} {rx ry : Nat} {plans : List (List (Nat × Vector Nat 4) × List Nat)} {b : Nat} (hs : MemForm s) :
    MemForm (s.restorePart v rx ry plans b) := by
  unfold State.restorePart
  refine .foldl ?_ fun hs => hs.resumeSaved
  refine .foldl ?_ fun hs => hs.pushOnce.pushOnce.pushOnce.pushOnce
  refine .foldl ?_ fun hs => hs.seatDouble.ite hs
  refine .foldl (.foldl (.foldl ⟨memWriteCells_wf _ _ hs.mem, insertNats_rises hs.poison⟩ fun hs => hs.setRegion) fun hs =>
    hs.restoredCore) fun hs => hs.foldl fun hs => ?_
  split
  · exact hs.restoredGroup
  · exact hs

theorem execPartitionRestore_keepsForm {area rx ry : Nat} : KeepsForm s (execPartitionRestore area rx ry s) := by
  refine .next fun hs => ?_
  split
  · exact hs
  · refine hs.refuseRegion.ite ?_
    dsimp only
    split
    · exact hs.refuseRegion
    · exact hs.refuseRegion.ite (.restorePart (hs.wipePart.ite hs))

/-! ### `Machine/HostQueues` -/

theorem MemForm.hostRead {pid : Nat} {ps : List (Nat × Nat)} (hs : MemForm s) : MemForm (s.hostRead pid ps).2.2 := by
  unfold State.hostRead
  exact hs.foldl fun hs => hs.sense

theorem MemForm.nextHostCmd {q : Nat} (hs : MemForm s) : MemForm (s.nextHostCmd q) := by
  unfold State.nextHostCmd
  exact hs.ite hs.setHostq.push

theorem MemForm.settleHost {q : Nat} (hs : MemForm s) : MemForm (s.settleHost q) := by
  unfold State.settleHost
  exact hs.setHostq.sendFloors

theorem MemForm.hostDone {q : Nat} (hs : MemForm s) : MemForm (s.hostDone q) := by
  unfold State.hostDone
  exact hs.settleHost.setHostq.nextHostCmd

theorem MemForm.hostHalt {q code : Nat} (hs : MemForm s) : MemForm (s.hostHalt q code) := by
  unfold State.hostHalt
  exact hs.settleHost.setHostq

theorem MemForm.withHostCmd {q op : Nat} {k : HostRun → State → State} (hs : MemForm s) (hk : ∀ {x t}, MemForm t → MemForm (k x t)) :
    MemForm (s.withHostCmd q op k) := by
  unfold State.withHostCmd
  dsimp only
  split
  · exact hs
  · exact hs.ite (hs.hostHalt.ite (.ite (hs.hostHalt.ite hs) (hk hs)))

theorem execHostCmdLaunch_keepsForm {q : Fin 8} : KeepsForm s (execHostCmdLaunch q s) := by
  refine .next fun hs => ?_
  refine hs.withHostCmd fun hs => hs.pushOnce.ite ?_
  split
  · exact hs.hostHalt
  · exact hs.hostRead.hostHalt.ite hs.hostRead.acceptLaunch.hostDone

theorem MemForm.hostSend {q : Nat} {r : HostRun} {addr : Nat} {d : List Byte} {marks : List Bool} {n : Nat} (hs : MemForm s) :
    MemForm (s.hostSend q r addr d marks n) := by
  unfold State.hostSend
  exact hs.setHostq.sendMsg.push

theorem MemForm.hostFinish {q : Nat} {r : HostRun} (hs : MemForm s) : MemForm (s.hostFinish q r) := hs.ite (hs.hostHalt.ite hs.hostDone)

theorem MemForm.copyNext {q : Nat} {r : HostRun} (hs : MemForm s) : MemForm (s.copyNext q r) := by
  unfold State.copyNext
  dsimp only
  split
  · exact hs.hostRead.update.hostSend
  · exact hs.updHostq

theorem execHostCmdSignal_keepsForm {q : Fin 8} : KeepsForm s (execHostCmdSignal q s) := by
  refine .next fun hs => ?_
  refine hs.withHostCmd fun hs => hs.pokeList.hostDone.ite (hs.hostFinish.ite ?_)
  split
  · exact hs.hostSend
  · exact hs.hostHalt

theorem execHostWaitPoll_keepsForm {q : Fin 8} : KeepsForm s (execHostWaitPoll q s) := by
  refine .next fun hs => ?_
  refine hs.withHostCmd fun hs => hs.pushOnce.ite (hs.updHostq.pushOnce.ite ?_)
  split
  · exact hs.hostHalt
  · exact hs.hostRead.hostDone.ite hs.hostRead.updHostq.pushOnce

/-! ### `Machine/Scalar` -/

theorem MemForm.trigA {u : FUnit} {lo lr : Latch} {lat : Nat} {h : Hdr} {o t : ASrc} {f : Reg → Reg → Reg} (hs : MemForm s) :
    MemForm (trigA u lo lr lat h o t f s) :=
  hs.guarded fun hs => hs.readA fun hs => hs.readA fun hs => hs.consume.trigger

theorem MemForm.trigC {u : FUnit} {lo lr : Latch} {lat : Nat} {h : Hdr} {c : CSrc} {f : Reg → Reg → Reg} (hs : MemForm s) :
    MemForm (trigC u lo lr lat h c f s) :=
  hs.guarded fun hs => hs.readC fun hs => hs.consume.trigger

theorem MemForm.trigA1 {u : FUnit} {lo lr : Latch} {lat : Nat} {h : Hdr} {o : ASrc} {f : Reg → Reg} (hs : MemForm s) :
    MemForm (trigA1 u lo lr lat h o f s) :=
  hs.guarded fun hs => hs.readA fun hs => hs.consume.trigger

theorem MemForm.trigC1 {u : FUnit} {lo lr : Latch} {lat : Nat} {h : Hdr} {f : Reg → Reg} (hs : MemForm s) :
    MemForm (trigC1 u lo lr lat h f s) :=
  hs.guarded fun hs => hs.consume.trigger

theorem MemForm.cmpA {u : FUnit} {lo lr : Latch} {lat : Nat} {h : Hdr} {d : Fin 8} {o t : ASrc} {f : BitVec 64 → BitVec 64 → Bool}
    (hs : MemForm s) :
    MemForm (cmpA u lo lr lat h d o t f s) :=
  hs.guarded fun hs => hs.readA fun hs => hs.readA fun hs => hs.consume.trigger.bump

theorem MemForm.cmpC {u : FUnit} {lo lr : Latch} {lat : Nat} {h : Hdr} {c : CSrc} {f : BitVec 64 → BitVec 64 → Bool} (hs : MemForm s) :
    MemForm (cmpC u lo lr lat h c f s) :=
  hs.trigC

theorem MemForm.predOp {h : Hdr} {d : Fin 8} {b : Ctx → Bool} (hs : MemForm s) : MemForm (predOp h d b s) := hs.guarded fun hs => hs.consume.trigger

theorem MemForm.faLand {lat : Nat} {quiet : Bool} {r : FR} {p : Bool} (hs : MemForm s) : MemForm (faLand lat quiet r p s) := hs.consume.trigger

theorem MemForm.underFrm {k : Nat → Nat → State → State} (hs : MemForm s) (hk : ∀ {x y t}, MemForm t → MemForm (k x y t)) :
    MemForm (underFrm s k) := by
  unfold Machine.underFrm
  exact hk hs.drawSr

theorem MemForm.faA {lat : Nat} {h : Hdr} {o t : ASrc} {f : Nat → Nat → BitVec 64 → BitVec 64 → FR} (hs : MemForm s) :
    MemForm (faA lat h o t f s) :=
  hs.guarded fun hs => hs.readA fun hs => hs.readA fun hs => hs.underFrm fun hs => hs.faLand

theorem MemForm.faC {lat : Nat} {h : Hdr} {c : CSrc} {f : Nat → Nat → BitVec 64 → BitVec 64 → FR} (hs : MemForm s) :
    MemForm (faC lat h c f s) :=
  hs.guarded fun hs => hs.readC fun hs => hs.underFrm fun hs => hs.faLand

theorem MemForm.faA1 {lat : Nat} {h : Hdr} {o : ASrc} {f : Nat → Nat → BitVec 64 → FR} (hs : MemForm s) :
    MemForm (faA1 lat h o f s) :=
  hs.guarded fun hs => hs.readA fun hs => hs.underFrm fun hs => hs.faLand

theorem MemForm.faC1 {lat : Nat} {h : Hdr} {f : Nat → Nat → BitVec 64 → FR} (hs : MemForm s) :
    MemForm (faC1 lat h f s) :=
  hs.guarded fun hs => hs.underFrm fun hs => hs.faLand

theorem MemForm.fmaOp {quiet : Bool} {a b : Reg} (hs : MemForm s) : MemForm (fmaOp quiet a b s) := hs.underFrm fun hs => hs.consume.trigger

theorem MemForm.cvtOp {quiet : Bool} {f : Nat → BitVec 64 → BitVec 64 → FR} {a b : Reg} (hs : MemForm s) : MemForm (cvtOp quiet f a b s) := by
  unfold Machine.cvtOp
  exact .faLand (hs.bump.ite_snd (hs.drawSr.ite_snd hs))

theorem MemForm.sclOp {quiet : Bool} {a b : Reg} (hs : MemForm s) : MemForm (sclOp quiet a b s) := hs.faLand.ite hs.fault

theorem MemForm.mulaccOp {a b : Reg} (hs : MemForm s) : MemForm (mulaccOp a b s) := hs.consume.trigger

theorem MemForm.moveLatch {h : Hdr} {c : CSrc} {l : Latch} (hs : MemForm s) :
    MemForm (moveLatch h c l s) :=
  hs.guarded fun hs => hs.readC fun hs => hs.write

/-! ### `Machine/Issue` -/

theorem MemForm.holdAs {y : State} (hs : MemForm s) : MemForm (s.holdAs y) := by
  unfold State.holdAs
  refine .update (.updMe ?_)
  split <;> exact hs.pushOnce

theorem MemForm.afterPops {es : List Popped} (hs : MemForm s) : MemForm (s.afterPops es) := hs.foldl fun hs => hs.popGiven

theorem MemForm.afterLoss {e : Instr} (hs : MemForm s) : MemForm (s.afterLoss e) := by
  unfold State.afterLoss
  split
  · exact hs.push
  · exact hs

theorem MemForm.tick (hs : MemForm s) : MemForm s.tick := by
  unfold State.tick
  exact hs.update

/-! ### Every instruction -/

/-- One line for each meaning: the instructions that share it, and the way to its form along the functions it is made of. -/
theorem exec_keepsForm {i : Instr} : KeepsForm s (exec i s) :=
  match i with
  | .vpfx .. => .next fun hs => hs.updMe
  | .vset .. | .movVt .. => .next fun hs => hs.guarded fun hs => hs.readC fun hs => hs.writeVt
  | .vxAdd .. | .vxSub .. | .vxMul .. | .vxMulh .. | .vxFma .. | .vxFms .. | .vxNfma .. | .vxMin .. | .vxMax .. | .vxAnd .. | .vxOr .. | .vxXor ..
  | .vxShl .. | .vxShr .. | .vxSar .. | .vxCmpeq .. | .vxCmpne .. | .vxCmplt .. | .vxCmple .. | .vxSel .. | .vxWadd .. | .vxWmul .. | .vxPerm ..
  | .vxSacc .. => .next fun hs => hs.vecOp .two
  | .vxAbs .. | .vxNeg .. | .vxCvt .. | .vxSum .. | .vxMaxr .. | .vxMinr .. | .vxExp2 .. | .vxLog2 .. | .vxRcp .. | .vxRsq .. | .vxTanh .. =>
    .next fun hs => hs.vecOp .one
  | .vxNarrow .. => .next fun hs => hs.vecOp .group1
  | .vxShuf .. | .vxBcast .. | .vxSlide .. => .next fun hs => hs.vecOp .vecScal
  | .vxSexp .. => .next fun hs => hs.vecOp .regScal
  | .vxDecq .. | .vxEncq .. => .next fun hs => hs.vecOp .reg1
  | .vxPopcm .. | .vxMmov .. => .next fun hs => hs.vecOp .msk1
  | .vxIota .. => .next fun hs => hs.vecOp .scals
  | .vxXchg .. => execVxXchg_keepsForm
  | .vld .. => execVld_keepsForm
  | .vst .. | .kst .. => .next fun hs => hs.guarded fun hs => hs.readC fun hs => hs.access fun hs => hs.storeOp
  | .vlds .. | .vgth .. => .next fun hs => hs.loadElems
  | .vsts .. | .vsct .. => .next fun hs => hs.storeElems
  | .kld .. => .next fun hs => hs.guarded fun hs => hs.readC fun hs => hs.access fun hs => hs.loadOp
  | .mxLease .. => execMxLease_keepsForm
  | .mxFree .. => .next fun hs => hs.guarded fun hs => hs.needLease fun hs => hs.consumeMx.defer.close
  | .mxDrain .. => execMxDrain_keepsForm
  | .mxDrainv .. => execMxDrainv_keepsForm
  | .mxZero .. | .mxChk .. => .next fun hs => hs.mxSlot
  | .mxInject .. => execMxInject_keepsForm
  | .movMxA .. | .movMxB .. | .movAtO .. | .movSqD .. | .movSqH .. | .movSyA .. | .movSyB .. | .movSyL .. | .movCeS .. | .movCeD .. | .movCeN ..
  | .movCeB .. | .movCeM .. | .movLsD .. | .writeRng .. | .mov .. | .ceCPop .. => .next fun hs => hs.guarded fun hs => hs.readC fun hs => hs.write
  | .mxLdaBf16 .. | .mxLdaE4m3 .. | .mxLdaE5m2 .. | .mxLdaI8 .. | .mxLdaF32 .. | .mxLdbBf16 .. | .mxLdbE4m3 .. | .mxLdbE5m2 .. | .mxLdbI8 ..
  | .mxLdbF32 .. | .mxLdbQn4 .. => .next fun hs => hs.mxLoad
  | .mxMmaM64n64k32Bf16 .. | .mxMmaM32n64k32Bf16 .. | .mxMmaM16n64k32Bf16 .. | .mxMmaM64n64k64E4m3 .. | .mxMmaM64n64k64E5m2 ..
  | .mxMmaM64n64k64Mix8 .. | .mxMmaM64n64k64I8 .. | .mxMmaM64n64k64Qn4 .. | .mxMmaM16n64k64Qn4 .. | .mxMmaM64n64k8F32 .. | .mxChainBf16 ..
  | .mxChainE4m3 .. => .next fun hs => hs.mxProduct
  | .leaseGrant .. => execLeaseGrant_keepsForm
  | .leaseIdleLimit .. => execLeaseIdleLimit_keepsForm
  | .mxCommandAccept .. => execMxCommandAccept_keepsForm
  | .mxCommandExecute .. => execMxCommandExecute_keepsForm
  | .atAdd32 .. | .atAdd64 .. | .atFadd32 .. | .atFadd16b .. | .atMin32 .. | .atMax32 .. | .atMinu32 .. | .atMaxu32 .. | .atAnd64 .. | .atOr64 ..
  | .atXor64 .. | .atSwp64 .. | .atCas64 .. | .atFinc .. | .atRedAdd32 .. | .atRedAdd64 .. | .atRedFadd32 .. | .atRedFadd16b .. =>
    .next fun hs => hs.atTrigger
  | .atAset .. => execAtAset_keepsForm
  | .atTok .. => execAtTok_keepsForm
  | .sqPush .. => execSqPush_keepsForm
  | .sqPop .. | .sqPeek .. => .next fun hs => hs.popTrigger
  | .sqPopw .. | .sqPushw .. => .next fun hs => hs.queueWait
  | .sqRqpush .. => execSqRqpush_keepsForm
  | .sqRqpop .. => execSqRqpop_keepsForm
  | .sqRqprio .. => execSqRqprio_keepsForm
  | .sqSpawn .. => execSqSpawn_keepsForm
  | .sqDec .. => execSqDec_keepsForm
  | .syBinit .. => execSyBinit_keepsForm
  | .syArrive .. | .syArrivb .. => .next fun hs => hs.arriveTrigger
  | .syWait .. => execSyWait_keepsForm
  | .syTest .. => execSyTest_keepsForm
  | .syInval .. => execSyInval_keepsForm
  | .syMon .. => execSyMon_keepsForm
  | .syUnmon .. => .next fun hs => hs.guarded fun hs => hs.effectGate fun hs => hs.updMe.syLocal
  | .syMwait .. => execSyMwait_keepsForm
  | .syGbar .. => execSyGbar_keepsForm
  | .ctBr .. | .ctBrAbs .. => .next fun hs => hs.branchTrigger
  | .ctCall .. | .ctCallAbs .. => .next fun hs => hs.callTrigger
  | .ctRet .. => .next fun hs => hs.guarded fun hs => hs.faultPoison.ite (hs.faultAddr.ite hs.branchTo)
  | .ctJmp .. => .next fun hs => hs.guarded fun hs => hs.readC fun hs => hs.faultPoison.ite hs.branchTo
  | .ctNop .. => .next fun hs => hs.guarded fun hs => hs
  | .ctIpf .. => execCtIpf_keepsForm
  | .ctChunk .. => .next fun hs => hs.guarded fun hs => hs.close
  | .ctYield .. => .next fun hs => hs.guarded fun hs => hs.close.ite hs.defer.close
  | .ctHalt .. => .next fun hs => hs.guarded fun hs => hs.fault.ite hs.defer.close
  | .ctTrap .. => execCtTrap_keepsForm
  | .ctEfence .. => .next fun hs => hs.guarded fun hs => hs.fenceGate fun hs => hs.close
  | .ctSstop .. => execCtSstop_keepsForm
  | .ctSgo .. => execCtSgo_keepsForm
  | .ctSsave .. => execCtSsave_keepsForm
  | .ctSload .. => execCtSload_keepsForm
  | .ctResume .. => execCtResume_keepsForm
  | .weirCommitRequest .. => .next fun hs => hs.weirDecide
  | .weirPrepare .. => execWeirPrepare_keepsForm
  | .chunkLengthReached .. => .next fun hs => hs.setStrand.tryEndChunk.ite hs
  | .fixedResultVisible .. => .next fun hs => hs.updStrand
  | .ceCopy .. | .ceCopy2d .. | .ceMcast .. | .ceRedb .. | .ceRedf .. | .ceCopyq .. | .ceCopyb .. => .next fun hs => hs.cePush
  | .lsLd8s .. | .lsLd8u .. | .lsLd16s .. | .lsLd16u .. | .lsLd32s .. | .lsLd32u .. | .lsLd64 .. | .lsLdp .. => .next fun hs => hs.loadScalar
  | .lsSt8 .. | .lsSt16 .. | .lsSt32 .. | .lsSt64 .. | .lsStp .. => .next fun hs => hs.storeScalar
  | .lsPf .. => .next fun hs => hs.guarded fun hs => hs.readC fun hs => hs.translate.ite hs
  | .qsBind .. => execQsBind_keepsForm
  | .qsUnbind .. => .next fun hs => hs.guarded fun hs => hs.updCtx.updMe
  | .qsWrite .. => execQsWrite_keepsForm
  | .srWrite .. => execSrWrite_keepsForm
  | .writeAlarm .. => execWriteAlarm_keepsForm
  | .writeRedpin .. => execWriteRedpin_keepsForm
  | .srTlbinv .. => execSrTlbinv_keepsForm
  | .srPfence .. => .next fun hs => hs.guarded fun hs => hs.needKernel fun hs => hs.launchVar.push.close
  | .srAckfloor .. => execSrAckfloor_keepsForm
  | .sqDone .. => execSqDone_keepsForm
  | .variableResultLand .. => .next fun hs => hs.landResult
  | .translationWalk .. => execTranslationWalk_keepsForm
  | .cePushAccept .. | .fenceCheck .. => .next fun hs => hs.wakeIf
  | .effectIssue .. => .next fun hs => hs.pushOnce.ite hs.wakeIf.wakeIf
  | .streamElementArrival .. => execStreamElementArrival_keepsForm
  | .waitExpired .. => .next fun hs => hs.ite (hs.pushOnce.ite hs.expire)
  | .queueRetry .. => execQueueRetry_keepsForm
  | .alarmFire .. => .next fun hs => hs.ite (hs.pushOnce.ite hs.setStrand.pokeMonitor)
  | .strandControlAct .. => execStrandControlAct_keepsForm
  | .debugResume .. => .next fun hs => hs.debugCommand
  | .debugStep .. => execDebugStep_keepsForm
  | .systemWindowStore .. => .next fun hs => hs.commitSys
  | .writeFaultRingBase .. => .next fun hs => hs.setRing.ite hs.freeze
  | .errorFclr .. => .next fun hs => hs.clearFilter
  | .errorCclr .. => .next fun hs => hs.clearCounts
  | .faultRingDeliver .. => .next fun hs => hs.deliverPackets
  | .droopStretch .. => .next fun hs => hs.updRegion.pushOnce
  | .supplyRecovery .. => .next fun hs => hs.updRegion
  | .timeReferencePulse .. => .next fun hs => hs.pushOnce.ite hs.updRegion.pushOnce.pushOnce
  | .timeReferenceLost .. => execTimeReferenceLost_keepsForm
  | .selfTest .. => .next fun hs => hs.foldl fun hs => hs.updRegion.measureAgeing
  | .boundaryFlitCrossing .. => .next fun hs => hs.bump.moveLink.ite hs.bump.moveLink.pushOnce
  | .linkFlitCrcError .. => .next fun hs => hs
  | .setAcquireRequest .. => .next fun hs => hs.pushOnce.ite hs.decideSet
  | .setRelease .. => .next fun hs => hs.releaseSet
  | .setGrant .. => execSetGrant_keepsForm
  | .woundRollback .. => execWoundRollback_keepsForm
  | .debugKill .. => execDebugKill_keepsForm
  | .launchExpansion .. => execLaunchExpansion_keepsForm
  | .launchStalled .. => execLaunchStalled_keepsForm
  | .sluiceGovernorTick .. => execSluiceGovernorTick_keepsForm
  | .ceCommandStart .. => execCeCommandStart_keepsForm
  | .cePoisonNotice .. => .next fun hs => hs.poisonBarrier
  | .copyqMessagePush .. => execCopyqMessagePush_keepsForm
  | .reductionTake .. => execReductionTake_keepsForm
  | .reductionDownwardReceive .. => .next fun hs => hs.redReceive
  | .reductionRoundEnd .. => execReductionRoundEnd_keepsForm
  | .ceCommandComplete .. => execCeCommandComplete_keepsForm
  | .cascadeNumbering .. => .next fun hs => hs.numberStore
  | .remoteEffectMessage .. => .next fun hs => hs.receive
  | .ceLineDelivery .. | .ceReduceLine .. => .next fun hs => hs.lineArrives
  | .replyResult .. => execReplyResult_keepsForm
  | .replyRefuse .. => execReplyRefuse_keepsForm
  | .replyBusy .. => execReplyBusy_keepsForm
  | .busyRetryTimer .. => execBusyRetryTimer_keepsForm
  | .ownerBusyLimit .. => execOwnerBusyLimit_keepsForm
  | .replyMoved .. => execReplyMoved_keepsForm
  | .retransmitTimeout .. => execRetransmitTimeout_keepsForm
  | .floorNotice .. => .next fun hs => hs.updOwner
  | .stashRefillRequest .. => .next fun hs => hs.serveStash.ite hs.updRegion.serveTokens
  | .stashRefillAnswer .. => .next fun hs => hs.updCore.askToken.serveStash
  | .tlbInvalidationArrival .. => execTlbInvalidationArrival_keepsForm
  | .cascadeApply .. => execCascadeApply_keepsForm
  | .remoteModuleAccess .. => execRemoteModuleAccess_keepsForm
  | .watchdogFire .. => execWatchdogFire_keepsForm
  | .scrubTick .. => .next fun hs => hs.ite (hs.pushOnce.ite hs.updUnit.scrubUnit.pushOnce)
  | .rimScrub .. => .next fun hs => hs.pushOnce.ite hs.scrubLine.updChannel.pushOnce
  | .slip .. => .next fun hs => hs.ite hs.enterWait.updStrand.askFill.pushOnce
  | .fetchFillArrival .. => .next fun hs => .foldl (hs.senseCode.ite hs.senseCode.updGroup) fun hs => hs.filled
  | .fetchRetryTimeout .. => execFetchRetryTimeout_keepsForm
  | .illegalWord => .next fun hs => hs.faultWord
  | .moduleStart .. => .next fun hs => hs.ite (hs.mail.ite hs.update.startClocks)
  | .partitionCreate .. => execPartitionCreate_keepsForm
  | .domainAgreement .. => .next fun hs => hs.ite (hs.updPart.ite hs.mail)
  | .partitionDestroy .. => .next fun hs => hs.wipePart.update
  | .rimChannelWorldSet .. => .next fun hs => hs.ite (.updChannel (hs.zeroChannel.ite hs))
  | .attestationRequest .. => .next fun hs => hs.ite hs.update.mail
  | .boundaryStart .. => .next fun hs => hs.ite (hs.pushOnce.ite hs.setGroup.stopForBoundary.pushOnce.pushOnce)
  | .boundaryRecord .. => execBoundaryRecord_keepsForm
  | .boundaryApply .. => execBoundaryApply_keepsForm
  | .boundaryDurable .. => execBoundaryDurable_keepsForm
  | .boundaryAbandon .. => execBoundaryAbandon_keepsForm
  | .boundaryRetry .. => .next fun hs => hs.pushOnce.ite hs.pushOnce
  | .logRecord .. => .next fun hs => .retryCore (hs.updCore.askBoundary.ite hs.updCore)
  | .routerEntryPending .. => execRouterEntryPending_keepsForm
  | .routerEntryCommit .. => execRouterEntryCommit_keepsForm
  | .routerAckTimeout .. => execRouterAckTimeout_keepsForm
  | .routerEntryDoubleError .. => .next fun hs => hs.updGroup.ite hs
  | .forwardWindowExpiry .. => .next fun hs => hs.ite (hs.pushOnce.ite hs.setGroup)
  | .strandSwap .. => .next fun hs => hs.ite (.pushOnce (.bump (hs.updCore.ite hs)))
  | .recoveryStart .. | .groupUnreachable .. => .next fun hs => hs.recover
  | .recoveryReplay .. => execRecoveryReplay_keepsForm
  | .basinDrain .. => .basinRun fun hs => hs.updCore.basinFinish
  | .basinStop .. => execBasinStop_keepsForm
  | .basinMigrate .. => execBasinMigrate_keepsForm
  | .basinRemapPrepare .. => .basinRun fun hs => hs.basinGivesUp.ite hs.startRebind
  | .basinRemapCommit .. => .basinRun fun hs => hs.startCommit.ite hs.basinGivesUp
  | .basinReturn .. => execBasinReturn_keepsForm
  | .basinBoundaryNow .. => .basinRun fun hs => hs.askBoundary.basinFinish
  | .basinFail .. => .basinRun fun hs => hs.basinFinish.recover
  | .preemptRequest .. => .next fun hs => hs.ite hs.setPart.pushOnce.pushOnce
  | .preemptSave .. => execPreemptSave_keepsForm
  | .preemptGraceExpiry .. => execPreemptGraceExpiry_keepsForm
  | .partitionRestore .. => execPartitionRestore_keepsForm
  | .hostDoorbell .. => .next fun hs => hs.updHostq.nextHostCmd
  | .hostQueueResume .. => .next fun hs => hs.ite hs.setHostq.nextHostCmd
  | .hostCmdLaunch .. => execHostCmdLaunch_keepsForm
  | .hostCmdCopy .. => .next fun hs => hs.withHostCmd fun hs => hs.hostFinish.ite hs.copyNext.pushOnce
  | .hostCmdSignal .. => execHostCmdSignal_keepsForm
  | .hostCmdWait .. => .next fun hs => hs.withHostCmd fun hs => hs.pushOnce.pushOnce
  | .hostWaitPoll .. => execHostWaitPoll_keepsForm
  | .hostWaitLimit .. => .next fun hs => hs.withHostCmd fun hs => hs.pushOnce.ite hs.hostHalt
  | .movPw .. => .next fun hs => hs.guarded fun hs => hs.readC fun hs => hs.launch.bump
  | .ldi .. | .ldih .. => .next fun hs => hs.guarded fun hs => hs.write
  | .movIaO .. | .movIbO .. | .movFaO .. => .next fun hs => hs.moveLatch
  | .iaAdd .. | .iaSub .. | .iaAnd .. | .iaOr .. | .iaXor .. | .iaAndn .. | .iaShl .. | .iaShr .. | .iaSar .. | .iaRotl .. | .iaMin .. | .iaMax ..
  | .iaMinu .. | .iaMaxu .. | .iaLea1 .. | .iaLea2 .. | .iaLea4 .. | .iaLea8 .. | .iaSel .. | .iaSettag .. | .iaTile .. | .iaGown .. | .ibMul ..
  | .ibMulh .. | .ibMulhu .. | .ibDiv .. | .ibDivu .. | .ibRem .. | .ibRemu .. | .ibCrc32c .. | .faFmin .. | .faFmax .. => .next fun hs => hs.trigA
  | .iaAddC .. | .iaSubC .. | .iaAndC .. | .iaOrC .. | .iaXorC .. | .iaAndnC .. | .iaShlC .. | .iaShrC .. | .iaSarC .. | .iaRotlC .. | .iaMinC ..
  | .iaMaxC .. | .iaMinuC .. | .iaMaxuC .. | .iaLea1C .. | .iaLea2C .. | .iaLea4C .. | .iaLea8C .. | .iaSelC .. | .iaSettagC .. | .iaTileC ..
  | .iaGownC .. | .ibMulC .. | .ibMulhC .. | .ibMulhuC .. | .ibDivC .. | .ibDivuC .. | .ibRemC .. | .ibRemuC .. | .ibCrc32cC .. | .faFminC ..
  | .faFmaxC .. => .next fun hs => hs.trigC
  | .iaSext8 .. | .iaSext16 .. | .iaSext32 .. | .iaZext8 .. | .iaZext16 .. | .iaZext32 .. | .iaClz .. | .iaCtz .. | .iaPopc .. | .iaBswap ..
  | .iaGettag .. | .faFabs .. | .faFneg .. | .faFrombf16 .. | .faFromqn4 .. => .next fun hs => hs.trigA1
  | .iaSext8C .. | .iaSext16C .. | .iaSext32C .. | .iaZext8C .. | .iaZext16C .. | .iaZext32C .. | .iaClzC .. | .iaCtzC .. | .iaPopcC ..
  | .iaBswapC .. | .iaGettagC .. | .faFabsC .. | .faFnegC .. | .faFrombf16C .. | .faFromqn4C .. => .next fun hs => hs.trigC1
  | .iaCmpeq .. | .iaCmpne .. | .iaCmplt .. | .iaCmpltu .. | .iaCmple .. | .iaCmpleu .. | .faFcmpeq .. | .faFcmplt .. | .faFcmple ..
  | .faFcmpun .. => .next fun hs => hs.cmpA
  | .iaCmpeqC .. | .iaCmpneC .. | .iaCmpltC .. | .iaCmpltuC .. | .iaCmpleC .. | .iaCmpleuC .. | .faFcmpeqC .. | .faFcmpltC .. | .faFcmpleC ..
  | .faFcmpunC .. => .next fun hs => hs.cmpC
  | .iaPand .. | .iaPor .. | .iaPxor .. | .iaPnot .. | .iaPset .. | .iaPclr .. => .next fun hs => hs.predOp
  | .ibMulacc .. => .next fun hs => hs.guarded fun hs => hs.readA fun hs => hs.readA fun hs => hs.mulaccOp
  | .ibMulaccC .. => .next fun hs => hs.guarded fun hs => hs.readC fun hs => hs.mulaccOp
  | .faFadd .. | .faFsub .. | .faFmul .. | .faFdiv .. => .next fun hs => hs.faA
  | .faFaddC .. | .faFsubC .. | .faFmulC .. | .faFdivC .. => .next fun hs => hs.faC
  | .faFsqrt .. | .faFrcp .. | .faFrsq .. | .faTobf16 .. | .faToe4m3 .. => .next fun hs => hs.faA1
  | .faFsqrtC .. | .faFrcpC .. | .faFrsqC .. | .faTobf16C .. | .faToe4m3C .. => .next fun hs => hs.faC1
  | .faFma .. => .next fun hs => hs.guarded fun hs => hs.readA fun hs => hs.readA fun hs => hs.fmaOp
  | .faFmaC .. => .next fun hs => hs.guarded fun hs => hs.readC fun hs => hs.fmaOp
  | .faCvtif .. | .faCvtfi .. => .next fun hs => hs.guarded fun hs => hs.readA fun hs => hs.readA fun hs => hs.cvtOp
  | .faCvtifC .. | .faCvtfiC .. => .next fun hs => hs.guarded fun hs => hs.readC fun hs => hs.cvtOp
  | .faScl .. => .next fun hs => hs.guarded fun hs => hs.readA fun hs => hs.readA fun hs => hs.sclOp
  | .faSclC .. => .next fun hs => hs.guarded fun hs => hs.readC fun hs => hs.sclOp

/-! ### A bundle, what happens, a step -/

theorem runWord_keepsForm {w : Word32} {second : Bool} {i : Instr} : KeepsForm s (runWord s w second i) :=
  exec_keepsForm.of fun hs => hs

theorem illegalAt_keepsForm {w : Word32} {second : Bool} : KeepsForm s (illegalAt s w second) := runWord_keepsForm

theorem runSecond_keepsForm {u base sa : State} {wa : Word32} {a : Instr} (hu : MemForm s → MemForm u) (hbase : MemForm s → MemForm base)
    (hsa : MemForm s → MemForm sa) : KeepsForm s (runSecond u base sa wa a) :=
  .ite (.next hsa) <| (runWord_keepsForm.of hbase).thenState fun hr => .next fun hs => (hr hs).ite ((hu hs).holdAs.ite (hsa hs))

theorem runPair_keepsForm {wc wa : Word32} {c a : Instr} : KeepsForm s (runPair s wc wa c a) := by
  refine runWord_keepsForm.thenState fun {sc} hsc => .ite (.next hsc) ?_
  have hbase (f : Strand → Strand) (hs : MemForm s) : MemForm ((s.afterPops sc.me.popped).updMe f) := hs.afterPops.updMe
  refine .ite ?_ ?_
  · exact (runWord_keepsForm.of hsc).thenState fun hsa => runSecond_keepsForm id (hbase _) hsa
  · refine (runWord_keepsForm.of (hbase _)).thenState fun hsr => .ite (.next hsr) ?_
    exact (runWord_keepsForm.of fun hs => (hsc hs).updMe).thenState fun hsa => runSecond_keepsForm id (hbase _) hsa

theorem runBundle_keepsForm {b : Bundle} : KeepsForm s (runBundle s b) := by
  unfold runBundle
  split
  · exact illegalAt_keepsForm
  · split
    · exact runWord_keepsForm
    · exact illegalAt_keepsForm
  · split
    · exact illegalAt_keepsForm
    · exact illegalAt_keepsForm
    · exact illegalAt_keepsForm.ite runPair_keepsForm

theorem issue_keepsForm {sid : Nat} : KeepsForm s (s.issue sid) := by
  have hs0 {f : Core → Core} (hs : MemForm s) : MemForm { s.updCore (ckOf sid) f with cur := sid, held := false } :=
    hs.updCore (ck := ckOf sid) (f := f)
  unfold State.issue
  dsimp only
  refine .ite (.next fun hs => (hs0 hs).tryEndChunk) (.ite (.next fun hs => (hs0 hs).updStrand.ite (hs0 hs).tryEndChunk)
    (.ite (.next fun hs => (hs0 hs).enterWait.pushOnce) ?_))
  split
  · exact exec_keepsForm.of hs0
  · exact (runBundle_keepsForm.of fun hs => (hs0 hs).senseStrand).thenState fun ht => .next fun hs => (ht hs).finishBundle (hs0 hs)

theorem happen_keepsForm {c : Cand} : KeepsForm s (s.happen c) := by
  unfold State.happen
  split
  · split
    · exact (issue_keepsForm.of fun hs => hs.senseTables).thenState fun ht => .next fun hs => (ht hs).renewed
    · exact .next id
  · split
    · have hs1 (l : List Instr) (hs : MemForm s) : MemForm ({ s with agenda := l } : State).disturb.senseTables :=
        (show MemForm { s with agenda := l } from hs).disturb.senseTables
      exact .ite (.next fun hs => (hs1 _ hs).afterLoss) ((exec_keepsForm.of (hs1 _)).thenState fun ht => .next fun hs => (ht hs).renewed)
    · exact .next id

theorem step_keepsForm {s : State} : KeepsForm s (step s) := by
  unfold step
  split
  · exact happen_keepsForm.of fun hs => hs.tick
  · exact .next fun hs => hs.tick

end

/-- Settles O58: the outcome of a step is a next state whose memory and marks keep their form. -/
theorem stepKeepsMemoryForm : Obligations.StepKeepsMemoryForm := by
  unfold Obligations.StepKeepsMemoryForm
  intro s t hs hst
  obtain ⟨u, hu, hform⟩ := step_keepsForm (s := s)
  cases hst.symm.trans hu
  exact hform hs

/-- Settles O55: every arm of `exec`, and so every step, is a next state. -/
theorem everyStepAnswers : Obligations.EveryStepAnswers := by
  unfold Obligations.EveryStepAnswers
  exact ⟨fun _ _ => exec_keepsForm.imp fun _ h => h.1, fun _ => step_keepsForm.imp fun _ h => h.1⟩

end Sys2Proof.Safety
end

section
/-! PROOFS. What the mailbox's events of the module and its partitions do (O46): the start of the module, creation, agreement of a domain,
destruction, the world of a channel and the report. Each event has an equation for each of its cases; the obligation joins them. -/

namespace Sys2Proof.Partitions

open Sys2Proof.Machine

section
variable {s : State}

/-! ### Start (R344) -/

theorem exec_moduleStart (images : List FirmwareImage) (s : State) : exec (.moduleStart images) s = execModuleStart images s := rfl

theorem moduleStart_of_unsigned {images : List FirmwareImage} (hs : s.igfel.started = false) (hb : bootOk images = false) :
    exec (.moduleStart images) s = .next (s.mail 0xFF) := by
  simp [exec_moduleStart, execModuleStart, hs, hb]

theorem moduleStart_of_signed {images : List FirmwareImage} (hs : s.igfel.started = false) (hb : bootOk images = true) :
    exec (.moduleStart images) s = .next ({ s with igfel :=
      { s.igfel with started := true, log := images.map fun i => (i.kind, shake256 i.bytes) } } : State).startClocks := by
  simp [exec_moduleStart, execModuleStart, hs, hb]

/-! ### Creation (R325) -/

section
variable {desc sig : List (BitVec 8)}

theorem exec_partitionCreate (desc sig : List (BitVec 8)) (s : State) :
    exec (.partitionCreate desc sig) s = execPartitionCreate desc sig s := rfl

theorem partitionCreate_of_code {c : Nat} (hs : s.igfel.started = true) (hc : s.createCode desc sig = some c) :
    exec (.partitionCreate desc sig) s = .next (s.mail (BitVec.ofNat 8 c)) := by
  simp [exec_partitionCreate, execPartitionCreate, hs, hc]

theorem partitionCreate_of_noNumber (hs : s.igfel.started = true) (hc : s.createCode desc sig = none) (hf : s.freePids = []) :
    exec (.partitionCreate desc sig) s = .next (s.mail 2) := by
  simp [exec_partitionCreate, execPartitionCreate, hs, hc, hf]

theorem getD_mod_mem {α : Type} (x d : α) (l : List α) (n : Nat) : (x :: l).getD (n % (l.length + 1)) d ∈ x :: l := by
  have hn : n % (l.length + 1) < (x :: l).length := Nat.mod_lt _ (Nat.succ_pos _)
  rw [List.getD_eq_getElem?_getD, List.getElem?_eq_getElem hn, Option.getD_some]
  exact List.getElem_mem hn

/-- The draw among the free numbers (log 74) lands on one of them. -/
theorem partitionCreate_of_free (hs : s.igfel.started = true) (hc : s.createCode desc sig = none) (hf : s.freePids ≠ []) :
    ∃ pid ∈ s.freePids, exec (.partitionCreate desc sig) s = .next (s.createPart pid desc).bump := by
  obtain ⟨f, r, hfr⟩ := List.exists_cons_of_ne_nil hf
  refine ⟨(f :: r).getD ((Config.freeWord s.fresh).toNat % (r.length + 1)) f, ?_, ?_⟩
  · rw [hfr]
    exact getD_mod_mem ..
  · simp [exec_partitionCreate, execPartitionCreate, hs, hc, hfr]

end

/-! ### Agreement of a domain (R320, R343) -/

theorem exec_domainAgreement (d : DomainJoin) (s : State) : exec (.domainAgreement d) s = execDomainAgreement d s := rfl

theorem joins_iff {p : Part} {peers : List DomainPeer} :
    p.joins peers = true ↔ ∀ q ∈ peers, q.dmask = p.dmask ∧ q.dpeer = p.dpeer ∧ q.secure = p.secure := by
  simp [Part.joins, and_assoc]

theorem mem_domainOthers {p : Part} {m : Nat} : m ∈ p.domainOthers ↔ m < 8 ∧ p.dmask.getLsbD m = true ∧ m ≠ p.dmod := by
  simp [Part.domainOthers]

/-- With a peer from every other module of the domain, none is waited for. -/
theorem no_module_awaited {p : Part} {peers : List DomainPeer}
    (hp : ∀ m < 8, p.dmask.getLsbD m = true → m ≠ p.dmod → ∃ q ∈ peers, q.dmod = m) :
    p.domainOthers.any (fun m => !peers.any fun q => q.dmod == m) = false := by
  rw [List.any_eq_false]
  intro m hm
  obtain ⟨hm8, hbit, hne⟩ := mem_domainOthers.mp hm
  simpa using hp m hm8 hbit hne

theorem domainAgreement_of_peers {pid : Nat} {peers : List DomainPeer} (hl : (s.part pid).live = true) (hd : (s.part pid).dmask ≠ 0)
    (hp : ∀ m < 8, (s.part pid).dmask.getLsbD m = true → m ≠ (s.part pid).dmod → ∃ q ∈ peers, q.dmod = m) :
    exec (.domainAgreement { pid := pid, peers := peers }) s = .next
      (if (s.part pid).joins peers then s.updPart pid fun p => { p with agreed := true } else s.mail 3) := by
  rw [exec_domainAgreement, execDomainAgreement]
  exact congrArg Host.Outcome.next (if_neg (by simp only [hl, hd, no_module_awaited hp]; decide))

/-! ### Destruction (R343) -/

theorem partitionDestroy_eq (pid : Nat) (s : State) :
    let s1 := ((((s.dropEvents pid).clearStores pid).clearRecords pid).clearChannels pid).releaseRegions pid
    exec (.partitionDestroy pid) s = .next { s1 with parts := s1.parts.del pid, saved := s.saved.filter fun q => q.2.pid != pid } := rfl

/-! ### The world of a channel (R319) -/

section
variable {c : Fin 24} {secure : Bool}

theorem exec_rimChannelWorldSet (c : Fin 24) (secure : Bool) (s : State) :
    exec (.rimChannelWorldSet c secure) s = execRimChannelWorldSet c secure s := rfl

theorem rimChannelWorldSet_of_leaves (hm : s.channelMapped c.val = false) (hl : (s.channel c.val).secure = true ∧ secure = false) :
    exec (.rimChannelWorldSet c secure) s = .next ((s.zeroChannel c.val).updChannel c.val fun x => { x with secure := false }) := by
  obtain ⟨hsec, rfl⟩ := hl
  simp [exec_rimChannelWorldSet, execRimChannelWorldSet, hm, hsec]

theorem rimChannelWorldSet_of_not_leaves (hm : s.channelMapped c.val = false)
    (hl : ¬ ((s.channel c.val).secure = true ∧ secure = false)) :
    exec (.rimChannelWorldSet c secure) s = .next (s.updChannel c.val fun x => { x with secure := secure }) := by
  have hkeep : ((s.channel c.val).secure && !secure) = false := by simpa using hl
  simp [exec_rimChannelWorldSet, execRimChannelWorldSet, hm, hkeep]

end

/-! ### The report (R346) -/

theorem exec_attestationRequest (nonce : List (BitVec 8)) (pid : Option Nat) (s : State) :
    exec (.attestationRequest nonce pid) s = execAttestationRequest nonce pid s := rfl

theorem attestationRequest_of_started {nonce : List (BitVec 8)} {pid : Option Nat} (hs : s.igfel.started = true) :
    let b := s.reportHead nonce pid
    let sig := ed448Sign Config.identitySecret (leBytes 64 (shake256 (b.take (239 + 80 * s.igfel.log.length))).toNat)
    exec (.attestationRequest nonce pid) s =
      .next (({ s with igfel := { s.igfel with report := b ++ sig, reportRaised := s.igfel.reportRaised + 1 } } : State).mail 1) := by
  simp [exec_attestationRequest, execAttestationRequest, hs]

end

/-- Settles O46: the equations of the six events, case by case. -/
theorem partitionsComplete : Obligations.PartitionsComplete := by
  unfold Obligations.PartitionsComplete
  intro s mailed
  refine ⟨?start, ?create, ?agreement, fun pid => partitionDestroy_eq pid s, ?world, fun _ _ => attestationRequest_of_started⟩
  case start => exact fun _ hs => ⟨moduleStart_of_unsigned hs, moduleStart_of_signed hs⟩
  case create =>
    exact fun _ _ hs => ⟨fun _ => partitionCreate_of_code hs, partitionCreate_of_noNumber hs, partitionCreate_of_free hs⟩
  case agreement =>
    intro pid peers p hl hd hp agrees
    rw [domainAgreement_of_peers hl hd hp]
    exact ⟨fun ha => by rw [if_pos (joins_iff.mpr ha)], fun ha => by rw [if_neg fun hj => ha (joins_iff.mp hj)]; rfl⟩
  case world => exact fun _ _ hm => ⟨rimChannelWorldSet_of_leaves hm, rimChannelWorldSet_of_not_leaves hm⟩

end Sys2Proof.Partitions
end

section
/-! PROOFS. What the registers hold after reset (O60). The reset state lists no record, so each accessor answers the record that its kind
has at reset; the obligation reads the fields of those records. -/

namespace Sys2Proof.AfterReset

open Sys2Proof.Machine

/-! ### The records of the reset state -/

@[simp] theorem getD_nil {β : Type} (k : Nat) (d : β) : Store.getD [] k d = d := rfl

theorem reset_strand (sid : Nat) : State.reset.strand sid = Strand.reset := getD_nil sid _

theorem reset_core (ck : Nat) : State.reset.core ck = Core.reset := getD_nil ck _

theorem reset_group (gk : Nat) : State.reset.group gk = Machine.Group.reset := getD_nil gk _

theorem reset_region (rk : Nat) : State.reset.region rk = Region.reset := getD_nil rk _

theorem reset_channel (c : Nat) : State.reset.channel c = Channel.reset := getD_nil c _

theorem reset_unit (u : Nat) : State.reset.unit u = SramUnit.reset := getD_nil u _

theorem reset_part (pid : Nat) : State.reset.part pid = Part.reset := getD_nil pid _

/-! ### Memory and its marks -/

theorem reset_memForm : Safety.MemForm State.reset := ⟨Laws.memory_wf_nil, rfl⟩

/-- Settles O60: each kind of record holds its reset values wherever it is read, and memory, which lists nothing, is in its form. -/
theorem resetState : Obligations.ResetState := by
  unfold Obligations.ResetState
  refine ⟨?strands, ?cores, ?regions, ?routers, ?channels, ?units, ?parts, rfl, rfl, rfl, reset_memForm⟩
  case strands => intro sid; simp [reset_strand, Strand.reset, Ctx.reset, vtReset, wclReset, chlReset]
  case cores => intro ck; simp [reset_core, Core.reset]
  case regions => intro rk; simp [reset_region, Region.reset]
  case routers => intro gk; simp [reset_group, Machine.Group.reset, RouterEntry.reset]
  case channels => intro c; simp [reset_channel, Channel.reset]
  case units => intro u; simp [reset_unit, SramUnit.reset, ErrWords.reset]
  case parts => intro pid; simp [reset_part, Part.reset]

end Sys2Proof.AfterReset
end

section
/-! PROOFS. What the scalar units compute (O1 to O6). A trigger has one lemma for each of its shapes: where the guard holds and the sources
deliver, it is its result put in flight. A family of words then has both forms of a claim once its two arms of `exec` are triggers of
that shape, and what is left of each operation is its value: the value lemmas state it in arithmetic where the model has it otherwise. -/

namespace Sys2Proof.Scalar

open Sys2Proof.Machine Sys2Proof.Claims Sys2Proof.Laws

section
variable {u : FUnit} {lo lr : Latch} {lat : Nat} {h : Hdr} {d : Fin 8} {o t : ASrc} {c : CSrc} {s s1 s2 : State} {a b : Reg}

/-! ### Triggers whose guard holds and whose sources deliver -/

theorem guarded_readA {k : Reg → State → State} (hg : guardTrue s.ctx h.guard = true) (ho : ReadsA s o a s1) :
    (guarded h s fun s => readA s o k) = k a s1 := by
  rw [guarded_of_true _ hg, ho]

theorem guarded_readA_readA {k : Reg → Reg → State → State} (hg : guardTrue s.ctx h.guard = true) (ho : ReadsA s o a s1)
    (ht : ReadsA s1 t b s2) : (guarded h s fun s => readA s o fun a s => readA s t (k a)) = k a b s2 := by
  rw [guarded_readA hg ho, ht]

theorem guarded_readC {k : Reg → State → State} (hg : guardTrue s.ctx h.guard = true) (hc : ReadsC s c b s2) :
    (guarded h s fun s => readC s c k) = k b s2 := by
  rw [guarded_of_true _ hg, hc]

/-! ### Both forms of a claim, from the two arms of `exec` -/

theorem twoForms {A : Hdr → ASrc → ASrc → Instr} {C : Hdr → CSrc → Instr} {f g : Reg → Reg → Reg} (hfg : ∀ a b, f a b = g a b)
    (hA : ∀ h o t s, exec (A h o t) s = .next (trigA u lo lr lat h o t f s) := by intros; rfl)
    (hC : ∀ h c s, exec (C h c) s = .next (trigC u lo lr lat h c f s) := by intros; rfl) : TwoForms u lo lr lat A C g := by
  obtain rfl : f = g := funext fun a => funext (hfg a)
  intro h o t c s s1 s2 a b hg
  refine ⟨fun ho ht => ?_, fun hc ha => ?_⟩
  · rw [hA, trigA, guarded_readA_readA hg ho ht]
  · rw [hC, trigC, guarded_readC hg hc, ha]

theorem oneForms {A : Hdr → ASrc → Instr} {C : Hdr → Instr} {f g : Reg → Reg} (hfg : ∀ a, f a = g a)
    (hA : ∀ h o s, exec (A h o) s = .next (trigA1 u lo lr lat h o f s) := by intros; rfl)
    (hC : ∀ h s, exec (C h) s = .next (trigC1 u lo lr lat h f s) := by intros; rfl) : OneForms u lo lr lat A C g := by
  obtain rfl : f = g := funext hfg
  intro h o s s1 a hg
  refine ⟨fun ho => ?_, fun ha => ?_⟩
  · rw [hA, trigA1, guarded_readA hg ho]
  · rw [hC, trigC1, guarded_of_true _ hg, ha]

theorem compareWrites_eq (x p : Bool) : compareWrites s lr d x p = .latch lr (mk0 (if x then 1 else 0) p) ::
    if d = 0 then [] else .pbit d x :: if p then [.pe s.ctx.pc (Config.freeLatch s.fresh)] else [] := by
  rw [compareWrites, bit64]
  congr 1
  exact ite_congr (propext (Fin.ext_iff (b := 0)).symm) (fun _ => rfl) (fun _ => rfl)

theorem compareForms {A : Hdr → Fin 8 → ASrc → ASrc → Instr} {C : Hdr → CSrc → Instr} {f g : BitVec 64 → BitVec 64 → Bool}
    (hfg : ∀ a b, f a b = g a b)
    (hA : ∀ h d o t s, exec (A h d o t) s = .next (cmpA u lo lr lat h d o t f s) := by intros; rfl)
    (hC : ∀ h c s, exec (C h c) s = .next (cmpC u lo lr lat h c f s) := by intros; rfl) : CompareForms u lo lr lat A C g := by
  obtain rfl : f = g := funext fun a => funext (hfg a)
  intro h d o t c s s1 s2 a b hg
  refine ⟨fun ho ht => ⟨Config.freeLatch (s2.consume lo).fresh, ?_⟩, fun hc ha => ?_⟩
  · rw [hA, cmpA, guarded_readA_readA hg ho ht, ← compareWrites_eq]
  · rw [hC, cmpC, trigC, guarded_readC hg hc, ha, bit64]

theorem roundTwo {A : Hdr → ASrc → ASrc → Instr} {C : Hdr → CSrc → Instr} {f : Nat → Nat → BitVec 64 → BitVec 64 → FR}
    (hA : ∀ h o t s, exec (A h o t) s = .next (faA lat h o t f s) := by intros; rfl)
    (hC : ∀ h c s, exec (C h c) s = .next (faC lat h c f s) := by intros; rfl) : RoundTwo lat A C f := by
  intro h o t c s s1 s2 a b hg
  refine ⟨fun ho ht => ?_, fun hc ha => ?_⟩
  · rw [hA, faA, guarded_readA_readA hg ho ht]
    rfl
  · rw [hC, faC, guarded_readC hg hc, ha]
    rfl

theorem roundOne {A : Hdr → ASrc → Instr} {C : Hdr → Instr} {f : Nat → Nat → BitVec 64 → FR}
    (hA : ∀ h o s, exec (A h o) s = .next (faA1 lat h o f s) := by intros; rfl)
    (hC : ∀ h s, exec (C h) s = .next (faC1 lat h f s) := by intros; rfl) : RoundOne lat A C f := by
  intro h o s s1 a hg
  refine ⟨fun ho => ?_, fun ha => ?_⟩
  · rw [hA, faA1, guarded_readA hg ho]
    rfl
  · rw [hC, faC1, guarded_of_true _ hg, ha]
    rfl

end

/-! ### Values of `ia` -/

theorem vShl_eq (a b : BitVec 64) : vShl a b = if b.toNat < 64 then BitVec.ofNat 64 (a.toNat * 2 ^ b.toNat) else 0 := by
  rw [vShl, ← Nat.shiftLeft_eq]
  rfl

theorem vShr_eq (a b : BitVec 64) : vShr a b = if b.toNat < 64 then BitVec.ofNat 64 (a.toNat / 2 ^ b.toNat) else 0 := by
  rw [vShr, ← Nat.shiftRight_eq_div_pow, ← BitVec.toNat_ushiftRight, BitVec.ofNat_toNat, BitVec.setWidth_eq]

theorem vSar_eq (a b : BitVec 64) : vSar a b = BitVec.ofInt 64 (a.toInt / 2 ^ min b.toNat 63) := by
  rw [vSar, ← BitVec.ofInt_toInt (x := a.sshiftRight _), BitVec.toInt_sshiftRight, Int.shiftRight_eq_div_pow]
  norm_cast

theorem vPopc_eq (a : BitVec 64) : vPopc a = BitVec.ofNat 64 ((List.range 64).countP fun i => a.getLsbD i) := by
  rw [vPopc, List.countP_eq_length_filter]

theorem tileOut_eq (a b : Reg) : tileOut a b =
    let off := (b.val.toNat % 2 ^ 15) * 2 ^ 20 + a.val.toNat % 2 ^ 20
    let bad := decide (2 ^ 20 ≤ a.val.toNat) || decide (b.val.toNat / 2 ^ 24 ≠ 0) || b.val.getLsbD 15
    { v := make (BitVec.ofNat 16 (0x0100 + (b.val.toNat / 2 ^ 16) % 256)) (BitVec.ofNat 64 (if bad then off + 2 ^ 63 else off)),
      p := a.p || b.p } := by
  simp only [tileOut, ge_iff_le, Bool.or_eq_true, decide_eq_true_eq, or_assoc]

/-- Settles O1: each word is a trigger of one of three shapes, whose value is that of the tables. -/
theorem iaArithmeticResults : Obligations.IaArithmeticResults := by
  unfold Obligations.IaArithmeticResults
  refine ⟨⟨?add, ?sub, ?and, ?or, ?xor, ?andn, ?shl, ?shr, ?sar, ?rotl, ?min, ?max, ?minu, ?maxu, ?lea1, ?lea2, ?lea4, ?lea8, ?tile, ?gown⟩,
    ?sext8, ?sext16, ?sext32, ?zext8, ?zext16, ?zext32, ?bswap, ?clz, ?ctz, ?popc⟩
  case shl => exact twoForms (f := keepTag vShl) fun a b => by rw [keepTag, vShl_eq]
  case shr => exact twoForms (f := keepTag vShr) fun a b => by rw [keepTag, vShr_eq]
  case sar => exact twoForms (f := keepTag vSar) fun a b => by rw [keepTag, vSar_eq]
  case lea1 => exact twoForms (f := keepTag (vLea 1)) fun a b => by rw [keepTag, vLea, Nat.mul_one]
  case add | sub | and | or | xor | andn | rotl | min | max | minu | maxu | lea2 | lea4 | lea8 =>
    exact twoForms fun _ _ => rfl
  case tile => exact twoForms tileOut_eq
  case gown => exact twoForms fun _ _ => rfl
  case popc => exact oneForms (f := plain1 vPopc) fun a => by rw [plain1, vPopc_eq]
  case sext8 | sext16 | sext32 | zext8 | zext16 | zext32 | bswap | clz | ctz => exact oneForms fun _ => rfl

/-! ### Tags -/

/-- No partition admits a class that Table 7-1 does not name. -/
theorem classOk_of_unnamed {p : Part} {cls q : Nat} (h : cls = 5 ∨ (6 < cls ∧ cls ≠ 0x7F)) : classOk p cls q = false := by
  unfold classOk
  split <;> first | omega | rfl

theorem checkAccess_of_class {s : State} {ck : Nat} {mode : Mode} {a : Reg80} {n align : Nat}
    (h : classOk (s.partOf ck) (classOf a) (qualOf a) = false) : s.checkAccess ck mode a n align = .bad causeWindow := by
  simp [State.checkAccess, h]

/-- Settles O2: the three words are triggers; an unnamed class fails the first check of an access. -/
theorem selSettagGettag : Obligations.SelSettagGettag := by
  unfold Obligations.SelSettagGettag
  refine ⟨?sel, twoForms fun _ _ => rfl, oneForms fun _ => rfl, ?window⟩
  case sel =>
    intro h o t c s s1 s2 a b hg
    refine ⟨fun ho ht => ?_, fun hc ha => ?_⟩
    · exact congrArg Host.Outcome.next (guarded_readA_readA hg ho ht)
    · exact congrArg Host.Outcome.next ((guarded_readC hg hc).trans (by rw [ha]; rfl))
  case window =>
    intro s a n align store scalar k hclass hp
    rw [access, accessWith, if_neg (by simp [hp]), checkAccess_of_class (classOk_of_unnamed hclass)]

/-! ### Predicate operations -/

theorem predOp_of_true {h : Hdr} {d : Fin 8} {f : Ctx → Bool} {s : State} (hg : guardTrue s.ctx h.guard = true) :
    predOp h d f s = (s.consume .iaO).trigger .ia 1 [.latch .iaR (mk0 (if f s.ctx then 1 else 0) false), .pbit d (f s.ctx)] :=
  guarded_of_true _ hg

/-- Settles O3: the compares are triggers of one shape; a predicate operation runs under its guard, and D = 0 fails the check of the word. -/
theorem iaCompareAndPredicateResults : Obligations.IaCompareAndPredicateResults := by
  unfold Obligations.IaCompareAndPredicateResults
  refine ⟨⟨?eq, ?ne, ?lt, ?ltu, ?le, ?leu⟩, fun h d o t s => ⟨fun hg _ => ?written, ?unwell⟩⟩
  case eq => exact compareForms fun _ _ => rfl
  case ne => exact compareForms (f := condNe) fun _ _ => decide_not.symm
  case lt | ltu | le | leu => exact compareForms fun _ _ => rfl
  case written =>
    refine ⟨?pand, ?por, ?pxor, ?pnot, ?pset, ?pclr⟩
    all_goals exact congrArg Host.Outcome.next (predOp_of_true hg)
  case unwell =>
    have hd : (h.ok && decide ((0 : Fin 8) ≠ 0)) = false := Bool.and_false _
    exact ⟨hd, hd, hd, hd, hd, hd⟩

/-! ### `ib` -/

/-- Settles O4: each word is a trigger of one shape, and mulacc puts its product in flight once its sources deliver. -/
theorem ibResults : Obligations.IbResults := by
  unfold Obligations.IbResults
  refine ⟨?mul, ?mulh, ?mulhu, ?div, ?divu, ?rem, ?remu, ?crc32c, fun h o t c s s1 s2 a b hg => ⟨fun ho ht => ?onA, fun hc ha => ?onC⟩⟩
  case mul | mulh | mulhu | div | divu | rem | remu | crc32c => exact twoForms fun _ _ => rfl
  case onA => exact congrArg Host.Outcome.next (guarded_readA_readA hg ho ht)
  case onC => exact congrArg Host.Outcome.next ((guarded_readC hg hc).trans (by rw [ha]; rfl))

/-! ### `fa` -/

section
variable {h : Hdr} {o t : ASrc} {c : CSrc} {s s1 s2 : State} {a b : Reg} {A : Hdr → ASrc → ASrc → Instr} {C : Hdr → CSrc → Instr}
  {op : Bool → Reg → Reg → State → State}

/-- An operation of `fa` of its own, in the A-word form, which finds O defined. -/
theorem faOp_readA (hg : guardTrue s.ctx h.guard = true) (ho : ReadsA s o a s1) (ht : ReadsA s1 t b s2)
    (hA : exec (A h o t) s = .next (guarded h s fun s => readA s o fun a s => readA s t fun b s => op false a b s) := by rfl) :
    exec (A h o t) s = .next (op false a b s2) := by
  rw [hA, guarded_readA_readA hg ho ht]

/-- Its C-word form, which takes O from fa.o and is quiet where fa.o holds no operand (R87). -/
theorem faOp_readC (hg : guardTrue s.ctx h.guard = true) (hc : ReadsC s c b s2) (ha : s2.ctx.latch .faO = a)
    (hC : exec (C h c) s = .next (guarded h s fun s => readC s c fun b s => op s.faStale (s.ctx.latch .faO) b s) := by rfl) :
    exec (C h c) s = .next (op (FaUndefined s2) a b s2) := by
  rw [hC, guarded_readC hg hc, ha]
  rfl

end

theorem sclOp_eq (quiet : Bool) (a b : Reg) (s : State) : sclOp quiet a b s =
    if quiet = true ∨ goodSuper (a.val.toNat % 2 ^ 32) = true then
      FaDue 4 quiet (blockScale (a.val.toNat % 2 ^ 32) (b.val.toNat % 256)) (a.p || b.p) s
    else s.fault causeSuperscale 0 [] :=
  ite_congr (Bool.or_eq_true _ _) (fun _ => rfl) (fun _ => rfl)

/-- Settles O5: the operations that round under FRM have one shape with two operands and one with one, those that do not are plain
triggers, and fma, the conversions and scl run their own operation once the sources deliver. -/
theorem faResults : Obligations.FaResults := by
  unfold Obligations.FaResults
  refine ⟨⟨?fadd, ?fsub, ?fmul, ?fdiv, ?fsqrt, ?frcp, ?frsq, ?tobf16, ?toe4m3, ?fma⟩,
    ?fmin, ?fmax, ?fabs, ?fneg, ?frombf16, ?fromqn4, ?converts⟩
  case fadd | fsub | fmul | fdiv => exact roundTwo
  case fsqrt | frcp | frsq | tobf16 | toe4m3 => exact roundOne
  case fmin | fmax => exact twoForms fun _ _ => rfl
  case fabs | fneg | frombf16 | fromqn4 => exact oneForms fun _ => rfl
  case fma =>
    intro h o t c s s1 s2 a b hg
    exact ⟨fun ho ht => faOp_readA (op := fmaOp) hg ho ht, fun hc ha => faOp_readC (op := fmaOp) hg hc ha⟩
  case converts =>
    intro h o t c s s1 s2 a b hg
    refine ⟨fun ho ht => ⟨?cvtif, ?cvtfi, ?scl⟩, fun hc ha => ⟨?cvtifC, ?cvtfiC, ?sclC⟩⟩
    case cvtif => exact faOp_readA (op := (cvtOp · cvtIf)) hg ho ht
    case cvtfi => exact faOp_readA (op := (cvtOp · cvtFi)) hg ho ht
    case scl => exact (faOp_readA hg ho ht).trans (congrArg Host.Outcome.next (sclOp_eq ..))
    case cvtifC => exact faOp_readC (op := (cvtOp · cvtIf)) hg hc ha
    case cvtfiC => exact faOp_readC (op := (cvtOp · cvtFi)) hg hc ha
    case sclC => exact (faOp_readC hg hc ha).trans (congrArg Host.Outcome.next (sclOp_eq ..))

/-! ### Exact values compared -/

section
variable {x y : Dy} {e : Int}

theorem num_eq (x : Dy) (e : Int) : x.num e = (if x.neg then -1 else 1) * (x.m : Int) * (2 ^ (x.e - e).toNat : Nat) := by
  rw [Dy.num, pow2, Int.natCast_mul]
  cases x.neg with
  | false => rw [if_neg Bool.false_ne_true, if_neg Bool.false_ne_true, Int.one_mul]
  | true => rw [if_pos rfl, if_pos rfl, Int.neg_one_mul, Int.neg_mul]

/-- Over a lower power of two the numerator is larger by the power between the two. -/
theorem num_of_le {f : Int} (hef : e ≤ f) (hf : f ≤ x.e) : x.num e = x.num f * (2 ^ (f - e).toNat : Nat) := by
  have hsplit : (x.e - e).toNat = (x.e - f).toNat + (f - e).toNat := by omega
  rw [num_eq, num_eq, hsplit, Nat.pow_add, Int.natCast_mul, ← Int.mul_assoc]

theorem two_pow_pos (n : Nat) : (0 : Int) < (2 ^ n : Nat) := Int.natCast_pos.mpr (Nat.two_pow_pos n)

theorem eqv_iff (hx : e ≤ x.e) (hy : e ≤ y.e) : x.eqv y = decide (x.num e = y.num e) := by
  have hmin : e ≤ min x.e y.e := Int.le_min.mpr ⟨hx, hy⟩
  rw [Dy.eqv, num_of_le hmin (Int.min_le_left ..), num_of_le hmin (Int.min_le_right ..)]
  exact decide_eq_decide.mpr (Int.mul_eq_mul_right_iff (Int.ne_of_gt (two_pow_pos _))).symm

theorem lt_iff (hx : e ≤ x.e) (hy : e ≤ y.e) : x.lt y = decide (x.num e < y.num e) := by
  have hmin : e ≤ min x.e y.e := Int.le_min.mpr ⟨hx, hy⟩
  rw [Dy.lt, num_of_le hmin (Int.min_le_left ..), num_of_le hmin (Int.min_le_right ..)]
  exact decide_eq_decide.mpr (Int.mul_lt_mul_right (two_pow_pos _)).symm

end

/-- Settles O6: the compares are triggers of one shape, and two finite values compare by their numerators over any one power of two not
above either. -/
theorem faCompares : Obligations.FaCompares := by
  unfold Obligations.FaCompares
  refine ⟨?eq, ?lt, ?le, ?un, ?nan, by decide, by decide, fun _ _ => ⟨rfl, rfl⟩, fun _ _ => ⟨rfl, rfl, rfl, rfl⟩, ?finite⟩
  case eq | lt | le | un => exact compareForms fun _ _ => rfl
  case nan =>
    intro a
    cases a <;> exact ⟨rfl, rfl, rfl, rfl⟩
  case finite =>
    intro x y e hx hy n
    refine ⟨(eqv_iff hx hy).trans ?_, (lt_iff hx hy).trans ?_⟩ <;> rw [num_eq, num_eq]

end Sys2Proof.Scalar
end

section
/-! PROOFS. What the vector unit does: which words fault (O9), what a word captures and what a captured request lands (O8), and where vector
memory is accessed (O12). Every word of Table 5-3 runs through `vecOp`, which has one lemma for each of its ends; a word is then its arm of
`exec`. A landing is first read off the registers as the list of elements it packs; what is left of each operation is its value. -/

namespace Sys2Proof.VectorUnit

open Sys2Proof.Machine Sys2Proof.Claims Sys2Proof.Laws

/-! ### The ends of a vector operation -/

section
variable {op : VOp} {h : Hdr} {d src : Fin 8} {ops : State → (VArg → VArg → State → State) → State} {quart : Nat} {check : VArg → Bool}
  {s s1 s2 : State} {a b : VArg} {r : Reg} {o t : ASrc} {ds : List (Fin 8)} {k : State → State}

theorem vecOp_of_prefix (hp : prefixOk op (activePrefix s) = false) : vecOp op h d src ops quart check s = s.faultWord causeIllegal := by
  rw [activePrefix] at hp
  rw [vecOp, hp]
  rfl

theorem vecOp_of_types (hp : prefixOk op (activePrefix s) = true) (hg : guardTrue s.ctx h.guard = true)
    (ht : vecTypeOk op s.ctx.vt (activePrefix s) d src = false) :
    vecOp op h d src ops quart check s = s.faultVecType (s.word.toNat / 2 ^ 14 % 64) := by
  rw [activePrefix] at hp ht
  rw [vecOp, hp, guarded_of_true _ hg, ht]
  rfl

/-- An admitted operation goes on with the operands that its sources deliver. -/
theorem vecOp_of_admits (ha : Admits op h s d src) (hops : ∀ k, ops s k = k a b s2) :
    vecOp op h d src ops quart check s = if check b = true then
      poolGate s2 (vecDests op s2.ctx.vt d) (vecTrigger op d a b (activePrefix s) quart) else s2.fault causeSuperscale 0 [] := by
  obtain ⟨hp, hg, ht⟩ := ha
  rw [activePrefix] at hp ht
  rw [vecOp, hp, guarded_of_true _ hg, ht, hops]
  cases check b <;> rfl

theorem poolGate_of_free (hp : PoolFree s ds) : poolGate s ds k = k (saved s ds) := by
  obtain ⟨hserial, hroom⟩ := hp
  rw [poolGate, hserial]
  exact if_pos (Or.inl hroom)

/-- With room in the pool, the operands are captured. -/
theorem vecOp_captures (hready : Admits op h s d src ∧ PoolFree s2 (vecDests op s2.ctx.vt d)) (hops : ∀ k, ops s k = k a b s2)
    (hb : check b = true) : vecOp op h d src ops quart check s = captured op op.lat d a b quart (activePrefix s) s2 := by
  rw [vecOp_of_admits hready.1 hops, if_pos hb, poolGate_of_free hready.2]
  rfl

/-! ### Sources that deliver -/

theorem two_delivers (ho : ReadsV s o a s1) (ht : ReadsV s1 t b s2) (k : VArg → VArg → State → State) : two o t s k = k a b s2 := by
  rw [two, ho, ht]

theorem one_delivers (ho : ReadsV s o a s2) (k : VArg → VArg → State → State) : one o s k = k a noArg s2 := by
  rw [one, ho]

theorem vecScal_delivers (ho : ReadsV s o a s1) (ht : ReadsA s1 t r s2) (k : VArg → VArg → State → State) :
    vecScal o t s k = k a (.scal r) s2 := by
  rw [vecScal, ho, ht]

theorem scals_deliver {r' : Reg} (ho : ReadsA s o r s1) (ht : ReadsA s1 t r' s2) (k : VArg → VArg → State → State) :
    scals o t s k = k (.scal r) (.scal r') s2 := by
  rw [scals, ho, ht]

theorem regScal_delivers {o : Fin 8} (ht : ReadsA s t r s2) (k : VArg → VArg → State → State) :
    regScal o t s k = k (.vec s2.ctx.v[o]) (.scal r) s2 := by
  rw [regScal, ht]

end

/-! ### Faults before the operands -/

theorem vector_faults {op : VOp} {h : Hdr} {d src : Fin 8} {ops : State → (VArg → VArg → State → State) → State} {quart : Nat}
    {check : VArg → Bool} {i : Instr} {s : State} (hi : exec i s = .next (vecOp op h d src ops quart check s)) :
    (prefixOk op (activePrefix s) = false → exec i s = .next (s.faultWord causeIllegal)) ∧
    (prefixOk op (activePrefix s) = true → guardTrue s.ctx h.guard = true → vecTypeOk op s.ctx.vt (activePrefix s) d src = false →
      exec i s = .next (s.faultVecType (s.word.toNat / 2 ^ 14 % 64))) := by
  rw [hi]
  exact ⟨fun hp => congrArg _ (vecOp_of_prefix hp), fun hp hg ht => congrArg _ (vecOp_of_types hp hg ht)⟩

/-- Settles O9: each word runs through `vecOp`, whose first two checks are the two faults. -/
theorem vectorPrefixAndTypeFaults : Obligations.VectorPrefixAndTypeFaults := by
  unfold Obligations.VectorPrefixAndTypeFaults
  refine ⟨?add, ?sub, ?mul, ?mulh, ?fma, ?fms, ?nfma, ?min, ?max, ?and, ?or, ?xor, ?shl, ?shr, ?sar, ?sel, ?wadd, ?wmul, ?perm, ?sacc,
    ?cmpeq, ?cmpne, ?cmplt, ?cmple, ?abs, ?neg, ?cvt, ?exp2, ?log2, ?rcp, ?rsq, ?tanh, ?sum, ?maxr, ?minr, ?shuf, ?bcast, ?slide, ?sexp,
    ?iota, ?narrow, ?decq, ?encq, ?popcm, ?mmov⟩
  case sum | maxr | minr | popcm => exact fun _ _ _ => vector_faults rfl
  case abs | neg | cvt | exp2 | log2 | rcp | rsq | tanh | narrow | mmov => exact fun _ _ _ _ => vector_faults rfl
  case add | sub | mul | mulh | fma | fms | nfma | min | max | and | or | xor | shl | shr | sar | sel | wadd | wmul | perm | sacc | cmpeq
    | cmpne | cmplt | cmple | shuf | bcast | slide | sexp | iota | decq | encq => exact fun _ _ _ _ _ => vector_faults rfl

/-! ### Vector and mask memory -/

section
variable {s s1 s2 : State} {h : Hdr} {la : BitVec 4} {n : Fin 8} {c : CSrc} {a : Reg} {idx : Bool} {ps : List (Nat × Nat)} {k : State → State}

theorem typed_of_bytes (hw : 8 ≤ (etOf s.ctx.vt).w) : typed s k = k s := if_neg (Nat.not_lt.mpr hw)

/-- A task that holds no set logs nothing. -/
theorem undoGate_of_unheld {tag : BitVec 16} {offs : List Nat} (hs : s.heldSets s.cur = 0) : undoGate s tag ps offs k = k s := by
  rw [undoGate]
  split
  · rfl
  · exact if_pos hs

theorem storeOp_mem {u : FUnit} {v : Reg80} {m : Nat} {offs : List Nat} {data : List Byte} {mark : Bool} {extra : List Reg} {ls : List Latch}
    (hm : MayStore s ps) : storeOp s u la v m offs data mark a extra ls (.mem ps) = s.writePieces ps data mark := by
  obtain ⟨hheld, hroom⟩ := hm
  rw [storeOp, undoGate_of_unheld hheld]
  exact if_pos hroom

theorem loadOp_vec {u : FUnit} {m : Nat} : loadOp s u la a.v m (.vec n) (.mem ps) =
    loaded u la false (.vec n) a ps (fun v p => [.v n { d := BitVec.ofNat 4096 v, p := p }]) s := rfl

theorem loadElems_of_reaches (hg : guardTrue s.ctx h.guard = true) (hc : ReadsC s c a s1) (hw : 8 ≤ (etOf s1.ctx.vt).w)
    (hr : ReachesAll s1 a (steers s1 idx) (elemAddrs s1 idx a) ((etOf s1.ctx.vt).w / 8) false ps s2) (hp : PoolFree s2 [n]) :
    loadElems h la n c idx s =
      loaded .vm la false (.vec n) a ps (fun v p => [.v n { d := BitVec.ofNat 4096 v, p := p }]) (saved s2 [n]) := by
  rw [loadElems, Scalar.guarded_readC hg hc, typed_of_bytes hw, hr, poolGate_of_free hp, loadOp_vec]

theorem storeElems_of_reaches (hg : guardTrue s.ctx h.guard = true) (hc : ReadsC s c a s1) (hw : 8 ≤ (etOf s1.ctx.vt).w)
    (hr : ReachesAll s1 a (steers s1 idx) (elemAddrs s1 idx a) ((etOf s1.ctx.vt).w / 8) true ps s2) (hm : MayStore s2 ps) :
    storeElems h la n c idx s = s2.writePieces ps s2.ctx.v[n].bytes s2.ctx.v[n].p := by
  rw [storeElems, Scalar.guarded_readC hg hc, typed_of_bytes hw, hr, storeOp_mem hm]

end

/-- Settles O12: once the accesses reach flat bytes, a load is its read put in flight and a store its bytes entered; the strided and the
indexed forms differ in the addresses and in the register that steers them. -/
theorem vectorMemoryResults : Obligations.VectorMemoryResults := by
  unfold Obligations.VectorMemoryResults
  refine ⟨?vld, ?vst, ?vlds, ?vgth, ?vsts, ?vsct, ?kld, ?kst⟩
  case vld =>
    intro h la n c s s1 s2 a ps hg hc hr hp
    exact congrArg Host.Outcome.next (by rw [Scalar.guarded_readC hg hc, hr, poolGate_of_free hp, loadOp_vec])
  case vlds | vgth =>
    intro h la n c s s1 s2 a ps hg hc hw hr hp
    exact congrArg Host.Outcome.next (loadElems_of_reaches hg hc hw hr hp)
  case vsts | vsct =>
    intro h la n c s s1 s2 a ps hg hc hw hr hm
    exact congrArg Host.Outcome.next (storeElems_of_reaches hg hc hw hr hm)
  case kld =>
    intro h la n c s s1 s2 a ps hg hc hr
    exact congrArg Host.Outcome.next (by rw [Scalar.guarded_readC hg hc, hr]; rfl)
  case vst | kst =>
    intro h la n c s s1 s2 a ps hg hc hr hm
    exact congrArg Host.Outcome.next (by rw [Scalar.guarded_readC hg hc, hr, storeOp_mem hm]; rfl)

/-! ### Elements of registers -/

section
variable {w i n : Nat} {l : List Nat} {z : Int}

theorem elemAt_lt {d : BitVec 4096} : elemAt d w i < 2 ^ w := Nat.mod_lt _ (Nat.two_pow_pos w)

theorem packElems_lt (w : Nat) (l : List Nat) : packElems w l < 2 ^ (w * l.length) := by
  induction l with
  | nil => exact Nat.one_pos
  | cons x xs ih =>
    have hx : x % 2 ^ w < 2 ^ w := Nat.mod_lt _ (Nat.two_pow_pos w)
    calc packElems w (x :: xs) = x % 2 ^ w + packElems w xs * 2 ^ w := rfl
      _ < (packElems w xs + 1) * 2 ^ w := by rw [Nat.succ_mul]; omega
      _ ≤ 2 ^ (w * xs.length) * 2 ^ w := Nat.mul_le_mul_right _ ih
      _ = 2 ^ (w * (x :: xs).length) := by rw [← Nat.pow_add, List.length_cons, Nat.mul_succ]

theorem toNat_packElems {m : Nat} (hl : w * l.length ≤ m) : (BitVec.ofNat m (packElems w l)).toNat = packElems w l :=
  Nat.mod_eq_of_lt (Nat.lt_of_lt_of_le (packElems_lt w l) (Nat.pow_le_pow_right Nat.two_pos hl))

theorem packElems_elem (w i : Nat) (l : List Nat) : packElems w l >>> (w * i) % 2 ^ w = l.getD i 0 % 2 ^ w := by
  induction l generalizing i with
  | nil => simp [packElems]
  | cons x xs ih =>
    have hcons : packElems w (x :: xs) = x % 2 ^ w + packElems w xs * 2 ^ w := rfl
    rw [hcons]
    cases i with
    | zero => simp
    | succ i =>
      have hx : x % 2 ^ w < 2 ^ w := Nat.mod_lt _ (Nat.two_pow_pos w)
      have hshift : (x % 2 ^ w + packElems w xs * 2 ^ w) >>> (w * (i + 1)) = packElems w xs >>> (w * i) := by
        rw [Nat.mul_succ, Nat.add_comm (w * i), Nat.shiftRight_add, Nat.shiftRight_eq_div_pow _ w,
          Nat.add_mul_div_right _ _ (Nat.two_pow_pos w), Nat.div_eq_of_lt hx, Nat.zero_add]
      rw [hshift, ih, List.getD_cons_succ]

/-- Elements that fit in a register are read back as they were packed. -/
theorem elemAt_packElems (hl : w * l.length ≤ 4096) : elemAt (BitVec.ofNat 4096 (packElems w l)) w i = l.getD i 0 % 2 ^ w := by
  rw [elemAt, toNat_packElems hl, packElems_elem]

theorem getD_map_range {α : Type} (f : Nat → α) (y : α) (hi : i < n) : ((List.range n).map f).getD i y = f i := by
  simp [hi]

theorem et_w (vt : BitVec 64) : (etOf vt).w = 4 ∨ (etOf vt).w = 8 ∨ (etOf vt).w = 16 ∨ (etOf vt).w = 32 ∨ (etOf vt).w = 64 := by
  unfold etOf vty
  split <;> decide

theorem w_pos (vt : BitVec 64) : 0 < (etOf vt).w := by
  have := et_w vt
  omega

theorem w_mul_n (vt : BitVec 64) : (etOf vt).w * (etOf vt).n ≤ 4096 := Nat.mul_div_le _ _

theorem n_le (vt : BitVec 64) : (etOf vt).n ≤ 1024 := by
  rcases et_w vt with h | h | h | h | h <;> simp [VTy.n, h]

/-- Every count of elements is a multiple of 64. -/
theorem dvd_n (vt : BitVec 64) : 64 ∣ (etOf vt).n := by
  rcases et_w vt with h | h | h | h | h <;> simp [VTy.n, h]

theorem elem_lt (a : VArg) (hw : 0 < w) : a.elem w i < 2 ^ w := by
  cases a with
  | vec r => exact elemAt_lt
  | group rs => exact elemAt_lt
  | msk k =>
    have : 2 ^ 1 ≤ 2 ^ w := Nat.pow_le_pow_right Nat.two_pos hw
    rw [VArg.elem]
    split <;> omega
  | scal r => exact Nat.mod_lt _ (Nat.two_pow_pos w)

/-! ### Integers of a width -/

theorem intPat_cast (w : Nat) (z : Int) : (intPat w z : Int) = z % (2 ^ w : Nat) :=
  Int.toNat_of_nonneg (Int.emod_nonneg z (Int.ne_of_gt (Scalar.two_pow_pos w)))

theorem intPat_mod (w : Nat) (z : Int) : intPat w z % 2 ^ w = intPat w z := by
  apply Nat.mod_eq_of_lt
  have := Int.emod_lt_of_pos z (Scalar.two_pow_pos w)
  rw [← intPat_cast] at this
  exact Int.ofNat_lt.mp this

theorem intPat_div (w : Nat) (z : Int) : intPat (2 * w) z / 2 ^ w = intPat w (z / (2 ^ w : Nat)) := by
  apply Int.ofNat_inj.mp
  have hpos := Scalar.two_pow_pos w
  rw [Int.natCast_ediv, intPat_cast, intPat_cast, Nat.two_mul, Nat.pow_add, Int.natCast_mul, Int.emod_def, Int.emod_def,
    Int.ediv_ediv_of_nonneg (Int.le_of_lt hpos), Int.sub_eq_add_neg, Int.mul_assoc, ← Int.mul_neg,
    Int.add_mul_ediv_left _ _ (Int.ne_of_gt hpos), Int.sub_eq_add_neg]

theorem intMin_le_intMax (w : Nat) (signed : Bool) : intMin w signed ≤ intMax w signed := by
  have h (k : Nat) : (0 : Int) < 2 ^ k := Int.pow_pos (by decide)
  cases signed with
  | false => exact Int.le_sub_one_of_lt (h w)
  | true =>
    have := h (w - 1)
    simp only [intMin, intMax, if_true]
    omega

theorem saturate_eq (w : Nat) (signed : Bool) (z : Int) : saturate w signed z =
    if z < intMin w signed then intMin w signed else if intMax w signed < z then intMax w signed else z := by
  have := intMin_le_intMax w signed
  rw [saturate]
  split
  · omega
  · split <;> omega

theorem ofNat_intPat (z : Int) : BitVec.ofNat 64 (intPat 64 z) = BitVec.ofInt 64 z := by
  apply BitVec.eq_of_toNat_eq
  rw [BitVec.toNat_ofNat, BitVec.toNat_ofInt, intPat_mod]
  rfl

end

/-! ### Elements of a result -/

/-- A fold that pushes one value for each element, whatever else it carries. -/
theorem foldl_pushes {α β σ : Type} {holds : σ → Prop} {push : List β × σ → α → List β × σ} {f : α → β}
    (hpush : ∀ acc a, holds acc.2 → (push acc a).1 = f a :: acc.1 ∧ holds (push acc a).2) (l : List α) (acc : List β × σ)
    (hacc : holds acc.2) : (l.foldl push acc).1 = (l.map f).reverse ++ acc.1 := by
  induction l generalizing acc with
  | nil => rfl
  | cons a l ih =>
    obtain ⟨hfst, hsnd⟩ := hpush acc a hacc
    rw [List.foldl_cons, ih _ hsnd, hfst, List.map_cons, List.reverse_cons, List.append_assoc]
    rfl

section
variable {q : VReq} {x : Strand} {n w : Nat} {before : Nat → Nat} {f : Nat → Nat → FR}

/-- Element `i` of a result whose draws do not matter: its value where the mask makes it active, and otherwise zero or the element before
(R116, R121). -/
def elementOf (q : VReq) (before : Nat → Nat) (f : Nat → Nat → FR) (i : Nat) : Nat :=
  if q.active i = true then (f i (rngBits q.rng)).bits else if q.mz = true then 0 else before i

/-- Outside mode SR each element of a result stands by itself. -/
theorem mapActive_of_mode (hm : q.mode ≠ 5) : (mapActive q n before f).1 = (List.range n).map (elementOf q before f) := by
  rw [mapActive, decide_eq_false hm]
  dsimp only
  rw [foldl_pushes (holds := fun c => c.2 = q.rng) (f := elementOf q before f) ?_ _ _ rfl, List.append_nil, List.reverse_reverse]
  intro acc i hacc
  by_cases ha : q.active i = true
  · simp only [elementOf, if_pos ha, hacc, Bool.false_eq_true, if_false, and_self]
  · simp only [elementOf, if_neg ha, hacc, and_self]

/-! ### Landing in one register -/

/-- A strand in which a vector operation has written its registers, its mask or `vx.s` and raised its flags. -/
def landOut (x : Strand) (o : VOut) : Strand :=
  let c := { x.ctx with v := o.v.foldl (fun v p => v.set p.1 p.2) x.ctx.v, fx := x.ctx.fx ||| BitVec.ofNat 64 o.fl }
  let m := match o.k with
    | some p => { c with k := c.k.set p.1 p.2 }
    | none => c
  { x with ctx := match o.s with
    | some r => m.setLatch .vxS r
    | none => m }

theorem apply_vop (x : Strand) (q : VReq) : x.apply (.vop q) = landOut x (evalVec q x.ctx.v x.ctx.k) := rfl

/-- What a result in one register leaves. -/
theorem apply_of_vecOut {uses : Bool} {r : List Nat × Nat} (he : evalVec q x.ctx.v x.ctx.k = vecOut q x.ctx.v[q.d] w uses r) :
    let y := x.apply (.vop q)
    y.ctx.v = x.ctx.v.set q.d { d := BitVec.ofNat 4096 (packElems w r.1), p := q.poisoned || (uses && x.ctx.v[q.d].p) } ∧
    y.ctx.k = x.ctx.k ∧ y.ctx.g = x.ctx.g ∧ y.ctx.lat = x.ctx.lat := by
  rw [apply_vop, he]
  exact ⟨rfl, rfl, rfl, rfl⟩

/-- `y` differs from `x` in no register but `d`, nor in a mask, a general register or a latch. -/
def SameBut (x y : Strand) (d : Fin 8) : Prop :=
  (∀ n, n ≠ d → y.ctx.v[n] = x.ctx.v[n]) ∧ y.ctx.k = x.ctx.k ∧ y.ctx.g = x.ctx.g ∧ y.ctx.lat = x.ctx.lat

/-- A result in one register is read back element by element. -/
theorem landed_elements {uses : Bool} {r : List Nat × Nat} {g : Nat → Nat} (he : evalVec q x.ctx.v x.ctx.k = vecOut q x.ctx.v[q.d] w uses r)
    (hr : r.1 = (List.range n).map g) (hn : w * n ≤ 4096) :
    let y := x.apply (.vop q)
    (∀ i, i < n → elemAt y.ctx.v[q.d].d w i = g i % 2 ^ w) ∧ y.ctx.v[q.d].p = (q.poisoned || (uses && x.ctx.v[q.d].p)) ∧
      SameBut x y q.d := by
  obtain ⟨hv, hframe⟩ := apply_of_vecOut he
  refine ⟨fun i hi => ?_, ?_, fun m hm => ?_, hframe⟩
  · rw [hv, Fin.getElem_fin, Vector.getElem_set_self, elemAt_packElems (by simpa [hr] using hn), hr, getD_map_range g 0 hi]
  · rw [hv, Fin.getElem_fin, Vector.getElem_set_self]
  · rw [hv, Fin.getElem_fin, Vector.getElem_set_ne _ _ fun h => hm (Fin.ext h.symm)]
    rfl

/-- An elementwise operation lands its values where the mask is set, and zero or the old element elsewhere. -/
theorem elementwise_lands {uses : Bool} {val : Nat → Nat} (hm : q.mode ≠ 5)
    (he : evalVec q x.ctx.v x.ctx.k = vecOut q x.ctx.v[q.d] (etOf q.vt).w uses
      (mapActive q (etOf q.vt).n (elemAt x.ctx.v[q.d].d (etOf q.vt).w) f))
    (hf : ∀ i, (f i (rngBits q.rng)).bits % 2 ^ (etOf q.vt).w = val i % 2 ^ (etOf q.vt).w) :
    let y := x.apply (.vop q)
    (∀ i, i < (etOf q.vt).n → elemAt y.ctx.v[q.d].d (etOf q.vt).w i =
      if q.active i = true then val i % 2 ^ (etOf q.vt).w else if q.mz = true then 0 else elemAt x.ctx.v[q.d].d (etOf q.vt).w i) ∧
    y.ctx.v[q.d].p = (q.poisoned || (uses && x.ctx.v[q.d].p)) ∧ SameBut x y q.d := by
  obtain ⟨hel, hrest⟩ := landed_elements he (mapActive_of_mode hm) (w_mul_n _)
  refine ⟨fun i hi => (hel i hi).trans ?_, hrest⟩
  rw [elementOf]
  split
  · exact hf i
  · split
    · exact Nat.zero_mod _
    · exact Nat.mod_eq_of_lt elemAt_lt

end

/-- What holds of every request once it is given an operation holds of the requests of that operation. -/
theorem of_op {op : VOp} {claim : VReq → Prop} (h : ∀ q : VReq, claim ({ q with op := op } : VReq)) (q : VReq) (hop : q.op = op) : claim q := by
  subst hop
  exact h q

/-! ### Values of integer elements -/

section
variable {t : VTy} {op : VOp} {sat : Bool} {mode r a b c w : Nat}

theorem intRes_bits (z : Int) : (intRes t sat z).bits = intPat t.w (if sat = true then
    if z < intMin t.w t.signed then intMin t.w t.signed else if intMax t.w t.signed < z then intMax t.w t.signed else z else z) := by
  rw [intRes, saturate_eq]

theorem arith_int (hi : t.kind = .i) :
    let x := intOf t.w t.signed a
    let y := intOf t.w t.signed b
    let z := match op with | .add => x + y | .sub => x - y | _ => x * y
    (arith t op sat mode r a b).bits = intPat t.w (if sat = true then
      if z < intMin t.w t.signed then intMin t.w t.signed else if intMax t.w t.signed < z then intMax t.w t.signed else z else z) :=
  (congrArg FR.bits (if_pos hi)).trans (intRes_bits _)

theorem arith_float (hf : t.kind ≠ .i) : arith t op sat mode r a b =
    match op with
    | .add => fAdd t.fmt mode r (t.fmt.decode a) (t.fmt.decode b)
    | .sub => fAdd t.fmt mode r (t.fmt.decode a) (t.fmt.decode b).negate
    | _ => fMul t.fmt mode r (t.fmt.decode a) (t.fmt.decode b) := if_neg hf

theorem pick_int {largest : Bool} (hi : t.kind = .i) : pick t largest a b = patRes (
    if largest = true then if intOf t.w t.signed b ≤ intOf t.w t.signed a then a else b
    else if intOf t.w t.signed a ≤ intOf t.w t.signed b then a else b) := if_pos hi

theorem widen_int {u : VTy} {mul : Bool} (hi : t.kind = .i) : (widen t u mul mode r a b).bits =
    intPat u.w (if mul = true then intOf t.w t.signed a * intOf t.w t.signed b else intOf t.w t.signed a + intOf t.w t.signed b) :=
  congrArg FR.bits (if_pos hi)

theorem cmpOp_int (hi : t.kind = .i) : cmpOp t op a b =
    match op with
    | .cmpeq => decide (intOf t.w t.signed a = intOf t.w t.signed b)
    | .cmpne => decide (intOf t.w t.signed a ≠ intOf t.w t.signed b)
    | .cmplt => decide (intOf t.w t.signed a < intOf t.w t.signed b)
    | _ => decide (intOf t.w t.signed a ≤ intOf t.w t.signed b) := if_pos hi

theorem shiftOp_shl_mod : shiftOp w .shl a c % 2 ^ w = a * 2 ^ c % 2 ^ w := by
  have hshl : shiftOp w .shl a c = if c ≥ w then 0 else a * 2 ^ c % 2 ^ w := rfl
  rw [hshl]
  split
  next hc => rw [Nat.zero_mod, Nat.mod_eq_zero_of_dvd (Nat.dvd_mul_left_of_dvd (Nat.pow_dvd_pow 2 hc) a)]
  next => exact Nat.mod_mod _ _

theorem shiftOp_shr (ha : a < 2 ^ w) : shiftOp w .shr a c = a / 2 ^ c := by
  have hshr : shiftOp w .shr a c = if c ≥ w then 0 else a / 2 ^ c := rfl
  rw [hshr]
  split
  next hc => exact (Nat.div_eq_of_lt (Nat.lt_of_lt_of_le ha (Nat.pow_le_pow_right Nat.two_pos hc))).symm
  next => rfl

theorem intOf_signed_bounds (w a : Nat) : -(2 ^ w : Nat) ≤ intOf w true a ∧ intOf w true a < (2 ^ w : Nat) := by
  have := Nat.mod_lt a (Nat.two_pow_pos w)
  simp only [intOf]
  split <;> omega

/-- A shift by more than the width shifts in the sign, as one by the width does. -/
theorem shiftOp_sar : shiftOp w .sar a c = intPat w (intOf w true a / (2 ^ c : Nat)) := by
  obtain ⟨hlo, hhi⟩ := intOf_signed_bounds w a
  have hsar : shiftOp w .sar a c = intPat w (intOf w true a / (2 ^ min c w : Nat)) := rfl
  rw [hsar]
  rcases Nat.le_total c w with hc | hc
  · rw [Nat.min_eq_left hc]
  · have hpow : (2 ^ w : Nat) ≤ 2 ^ c := Nat.pow_le_pow_right Nat.two_pos hc
    have hpos := Nat.two_pow_pos w
    rw [Nat.min_eq_right hc]
    rcases Int.lt_or_le (intOf w true a) 0 with hneg | hneg
    · have hdiv {m : Nat} (hm : 2 ^ w ≤ m) : intOf w true a / (m : Int) = -1 := Int.ediv_eq_neg_one_of_neg_of_le hneg (by omega)
      rw [hdiv (Nat.le_refl _), hdiv hpow]
    · rw [Int.ediv_eq_zero_of_lt hneg hhi, Int.ediv_eq_zero_of_lt hneg (by omega)]

end

/-! ### Landing in a group, a mask and `vx.s` -/

section
variable {q : VReq} {x : Strand} {m w i : Nat} {f : Nat → Nat → FR}

theorem regPlus_injective {d : Fin 8} {j k : Nat} (hj : j < 8) (hk : k < 8) (h : regPlus d j = regPlus d k) : j = k := by
  have := congrArg Fin.val h
  simp only [regPlus, Fin.ofNat] at this
  omega

/-- Of the registers that a group writes, each holds its own. -/
theorem group_getElem {α : Type} (d : Fin 8) (g : Nat → α) (v : Vector α 8) {m j : Nat} (hm : m ≤ 8) (hj : j < m) :
    (((List.range m).map fun k => (regPlus d k, g k)).foldl (fun (v : Vector α 8) p => v.set p.1 p.2) v)[regPlus d j] = g j := by
  induction m with
  | zero => exact absurd hj (Nat.not_lt_zero j)
  | succ m ih =>
    rw [List.range_succ, List.map_append, List.foldl_append, List.map_singleton, List.foldl_cons, List.foldl_nil, Fin.getElem_fin]
    rcases Nat.lt_succ_iff_lt_or_eq.mp hj with hlt | rfl
    · have hne : regPlus d m ≠ regPlus d j := fun h => Nat.ne_of_gt hlt (regPlus_injective (by omega) (by omega) h)
      rw [Vector.getElem_set_ne _ _ fun h => hne (Fin.ext h)]
      exact ih (by omega) hlt
    · rw [Vector.getElem_set_self]

theorem apply_of_groupOut {olds : List VReg} {r : List Nat × Nat} {j : Nat} (he : evalVec q x.ctx.v x.ctx.k = groupOut q olds w m r)
    (hm : m ≤ 8) (hj : j < m) : (x.apply (.vop q)).ctx.v[regPlus q.d j].d =
      BitVec.ofNat 4096 (packElems w ((List.range (r.1.length / m)).map fun t => r.1.getD (t * m + j) 0)) := by
  rw [apply_vop, he]
  exact congrArg VReg.d (group_getElem q.d _ _ hm hj)

/-- A result in a group of m registers is read back with element i in register i mod m (R128). -/
theorem group_elements {olds : List VReg} {r : List Nat × Nat} {g : Nat → Nat} {n : Nat}
    (he : evalVec q x.ctx.v x.ctx.k = groupOut q olds w m r) (hr : r.1 = (List.range n).map g) (hm0 : 0 < m) (hm : m ≤ 8) (hdvd : m ∣ n)
    (hfit : w * (n / m) ≤ 4096) (hi : i < n) : elemAt (x.apply (.vop q)).ctx.v[regPlus q.d (i % m)].d w (i / m) = g i % 2 ^ w := by
  have hlen : r.1.length = n := by rw [hr, List.length_map, List.length_range]
  rw [apply_of_groupOut he hm (Nat.mod_lt i hm0), hlen, elemAt_packElems (by simpa using hfit),
    getD_map_range _ _ (Nat.div_lt_div_of_lt_of_dvd hdvd hi), Nat.div_add_mod', hr, getD_map_range g 0 hi]

theorem group_elem (d : Fin 8) (v : Vector VReg 8) (w i : Nat) (hm : 0 < m) :
    (VArg.group ((List.range m).map fun j => v[regPlus d j])).elem w i = elemAt v[regPlus d (i % m)].d w (i / m) := by
  rw [VArg.elem, List.length_map, List.length_range, getD_map_range _ _ (Nat.mod_lt i hm)]

/-- An elementwise operation on a group lands its values where the mask is set, and zero or the old element elsewhere. -/
theorem elementwise_group_lands {val : Nat} (hmode : q.mode ≠ 5) (hm0 : 0 < m) (hm : m ≤ 8) (hdvd : m ∣ (etOf q.vt).n)
    (hw : (wtOf q.vt).w = m * (etOf q.vt).w) (hi : i < (etOf q.vt).n)
    (he : evalVec q x.ctx.v x.ctx.k =
      let m := (wtOf q.vt).w / (etOf q.vt).w
      let olds := (List.range m).map fun j => x.ctx.v[regPlus q.d j]
      groupOut q olds (wtOf q.vt).w m (mapActive q (etOf q.vt).n (fun i => (VArg.group olds).elem (wtOf q.vt).w i) f))
    (hf : (f i (rngBits q.rng)).bits % 2 ^ (wtOf q.vt).w = val) :
    let r := regPlus q.d (i % m)
    elemAt (x.apply (.vop q)).ctx.v[r].d (wtOf q.vt).w (i / m) =
      if q.active i = true then val else if q.mz = true then 0 else elemAt x.ctx.v[r].d (wtOf q.vt).w (i / m) := by
  have hgroup : (wtOf q.vt).w / (etOf q.vt).w = m := by rw [hw, Nat.mul_div_cancel _ (w_pos _)]
  have hfit : (wtOf q.vt).w * ((etOf q.vt).n / m) ≤ 4096 := by
    rw [hw, Nat.mul_right_comm, Nat.mul_div_cancel' hdvd, Nat.mul_comm]
    exact w_mul_n _
  rw [hgroup] at he
  refine (group_elements he (mapActive_of_mode hmode) hm0 hm hdvd hfit hi).trans ?_
  rw [elementOf]
  split
  · exact hf
  · split
    · exact Nat.zero_mod _
    · rw [group_elem q.d x.ctx.v _ _ hm0]
      exact Nat.mod_eq_of_lt elemAt_lt

/-- Bits put together from a list, the first lowest. -/
theorem testBit_foldr_bits {α : Type} (p : α → Bool) (l : List α) (i : Nat) :
    (l.foldr (fun a acc => (if p a = true then 1 else 0) + 2 * acc) 0).testBit i = (l.map p).getD i false := by
  induction l generalizing i with
  | nil => simp
  | cons a l ih =>
    rw [List.foldr_cons, List.map_cons]
    cases i with
    | zero => cases p a <;> simp [Nat.testBit_zero]
    | succ i =>
      have hdiv (y : Nat) : ((if p a = true then 1 else 0) + 2 * y) / 2 = y := by split <;> omega
      rw [Nat.testBit_succ, hdiv, ih, List.getD_cons_succ]

/-- A compare lands its bits where the mask is set and zero or the old bit elsewhere, and clears the bits past its elements (R126). -/
theorem compare_lands {p : Nat → Bool} {n : Nat} (hn : n ≤ 1024)
    (he : evalVec q x.ctx.v x.ctx.k = maskOut q x.ctx.k[Fin.ofNat 4 q.d.val] n p) :
    let y := x.apply (.vop q)
    let d := Fin.ofNat 4 q.d.val
    (∀ i, i < n → y.ctx.k[d].d.getLsbD i = if q.active i = true then p i else if q.mz = true then false else x.ctx.k[d].d.getLsbD i) ∧
    (∀ i, n ≤ i → y.ctx.k[d].d.getLsbD i = false) ∧
    y.ctx.k[d].p = (q.poisoned || (q.merges && x.ctx.k[d].p)) ∧ y.ctx.v = x.ctx.v := by
  simp only [apply_vop, he, landOut, maskOut, Fin.getElem_fin, Vector.getElem_set_self, BitVec.getLsbD_ofNat, testBit_foldr_bits]
  refine ⟨fun i hi => ?_, fun i hi => ?_, trivial, rfl⟩
  · rw [getD_map_range _ _ hi, decide_eq_true (by omega), Bool.true_and]
  · rw [List.getD_eq_getElem?_getD, List.getElem?_eq_none (by simpa using hi), Option.getD_none, Bool.and_false]

theorem foldl_add_map {α : Type} (f : Nat → Int) (g : α → Nat) (l : List α) :
    (l.map g).foldl (fun acc y => acc + f y) 0 = (l.map fun a => f (g a)).sum := by
  rw [List.foldl_map, List.sum_eq_foldl, List.foldl_map]

theorem sum_lands (hop : q.op = .sum) (hi : (etOf q.vt).kind = .i) : (x.apply (.vop q)).ctx.latch .vxS =
    { v := make 0 (BitVec.ofInt 64 (((List.range (etOf q.vt).n).filter q.active).map fun i =>
        intOf (etOf q.vt).w (etOf q.vt).signed (q.o.elem (etOf q.vt).w i)).sum), p := q.poisoned } := by
  have he : evalVec q x.ctx.v x.ctx.k = scalOut q (intPat 64 ((q.actives q.o (etOf q.vt)).foldl
      (fun acc y => acc + intOf (etOf q.vt).w (etOf q.vt).signed y) 0)) 0 := by
    simp only [evalVec, hop, reduce, if_pos hi]
  rw [VReq.actives, foldl_add_map] at he
  rw [apply_vop, he, ← ofNat_intPat]
  exact latch_setLatch ..

end

/-- Settles O8: with room in the pool each word captures what its sources deliver, and a captured request lands the elements that its
operation packs. -/
theorem vectorOperationsCapture : Obligations.VectorOperationsCapture := by
  unfold Obligations.VectorOperationsCapture
  refine ⟨⟨?add, ?sub, ?mul, ?mulh, ?fma, ?fms, ?nfma, ?min, ?max, ?and, ?or, ?xor, ?shl, ?shr, ?sar, ?sel, ?wadd, ?wmul, ?perm, ?sacc,
    ?cmpeq, ?cmpne, ?cmplt, ?cmple, ?abs, ?neg, ?cvt, ?exp2, ?log2, ?rcp, ?rsq, ?tanh, ?sum, ?maxr, ?minr, ?shuf, ?bcast, ?slide⟩,
    ⟨?narrow, ?sexp, ?decq, ?encq, ?popcm, ?mmov, ?iota, fun _ _ => rfl⟩,
    ?landsAdd, ?landsSub, ?landsMul, ?landsFadd, ?landsFsub, ?landsFmul, ?landsMulh, ?landsFma, ?landsFms, ?landsNfma, ?landsMin,
    ?landsMax, ?landsAnd, ?landsOr, ?landsXor, ?landsShl, ?landsShr, ?landsSar, ?landsPerm, ?landsShuf, ?landsBcast, ?landsSlide,
    ?landsIota, ?landsMmov, ?landsSel, ?landsWadd2, ?landsWadd4, ?landsWmul2, ?landsWmul4, ?landsEq, ?landsNe, ?landsLt, ?landsLe,
    fun x q => sum_lands⟩
  case add | sub | mul | mulh | fma | fms | nfma | min | max | and | or | xor | shl | shr | sar | sel | wadd | wmul | perm | sacc | cmpeq
    | cmpne | cmplt | cmple =>
    exact fun _ _ _ _ _ _ _ _ _ hready ho ht => congrArg Host.Outcome.next (vecOp_captures hready (two_delivers ho ht) rfl)
  case abs | neg | cvt | exp2 | log2 | rcp | rsq | tanh =>
    exact fun _ _ _ _ _ _ hready ho => congrArg Host.Outcome.next (vecOp_captures hready (one_delivers ho) rfl)
  case sum | maxr | minr =>
    exact fun _ _ _ _ _ hready ho => congrArg Host.Outcome.next (vecOp_captures hready (one_delivers ho) rfl)
  case shuf | bcast | slide =>
    exact fun _ _ _ _ _ _ _ _ _ hready ho ht => congrArg Host.Outcome.next (vecOp_captures hready (vecScal_delivers ho ht) rfl)
  case narrow | mmov => exact fun _ _ _ _ hready => congrArg Host.Outcome.next (vecOp_captures hready (fun _ => rfl) rfl)
  case decq | encq => exact fun _ _ _ _ _ hready => congrArg Host.Outcome.next (vecOp_captures hready (fun _ => rfl) rfl)
  case popcm => exact fun _ _ _ hready => congrArg Host.Outcome.next (vecOp_captures hready (fun _ => rfl) rfl)
  case iota =>
    exact fun _ _ _ _ _ _ _ _ _ hready ho ht => congrArg Host.Outcome.next (vecOp_captures hready (scals_deliver ho ht) rfl)
  case sexp =>
    intro h d o t s s2 b ht
    refine ⟨fun hready hb => congrArg Host.Outcome.next (vecOp_captures hready (regScal_delivers ht) hb), fun ha hb => ?_⟩
    exact congrArg Host.Outcome.next ((vecOp_of_admits ha (regScal_delivers ht)).trans (if_neg (ne_true_of_eq_false hb)))
  case landsAdd | landsSub | landsMul =>
    exact fun x => of_op fun q hm hi => elementwise_lands hm rfl fun _ => congrArg (· % _) (arith_int hi)
  case landsFadd | landsFsub | landsFmul =>
    exact fun x => of_op fun q hm hf => elementwise_lands hm rfl fun _ => congrArg (·.bits % _) (arith_float hf)
  case landsMulh => exact fun x => of_op fun q hm _ => elementwise_lands hm rfl fun _ => congrArg (· % _) (intPat_div _ _)
  case landsMin | landsMax => exact fun x => of_op fun q hm hi => elementwise_lands hm rfl fun _ => congrArg (·.bits % _) (pick_int hi)
  case landsShl => exact fun x => of_op fun q hm _ => elementwise_lands hm rfl fun _ => shiftOp_shl_mod
  case landsShr => exact fun x => of_op fun q hm _ => elementwise_lands hm rfl fun _ => congrArg (· % _) (shiftOp_shr (elem_lt _ (w_pos _)))
  case landsSar => exact fun x => of_op fun q hm _ => elementwise_lands hm rfl fun _ => congrArg (· % _) shiftOp_sar
  case landsFma | landsFms | landsNfma | landsAnd | landsOr | landsXor | landsPerm | landsShuf | landsBcast | landsMmov =>
    exact fun x => of_op fun q hm _ => elementwise_lands hm rfl fun _ => rfl
  case landsIota => exact fun x => of_op fun q hm _ => elementwise_lands hm rfl fun _ => Nat.mod_mod _ _
  case landsSlide =>
    refine fun x => of_op fun q hm _ => elementwise_lands hm rfl fun _ => congrArg (· % _) ((apply_ite FR.bits _ _ _).trans ?_)
    cases q.add <;> rfl
  case landsSel =>
    refine fun x => of_op fun q => ?_
    obtain ⟨hel, hp, hrest⟩ := landed_elements (q := { q with op := .sel }) (x := x) rfl rfl (w_mul_n _)
    exact ⟨hel, hp.trans (Bool.or_false _), hrest⟩
  case landsWadd2 | landsWadd4 | landsWmul2 | landsWmul4 =>
    exact fun x => of_op fun q hm hi hw i hlt => elementwise_group_lands hm (by decide) (by decide) (Nat.dvd_trans (by decide) (dvd_n _)) hw hlt rfl
      ((congrArg (· % _) (widen_int hi)).trans (intPat_mod _ _))
  case landsEq | landsNe | landsLt | landsLe =>
    exact fun x => of_op fun q hi => compare_lands (n_le _) (congrArg (maskOut _ _ _) (funext fun i => cmpOp_int hi))

end Sys2Proof.VectorUnit
end

section
/-! PROOFS. What the matrix words issue (O17 to O20) and what the lease and the array's queue do (O40). Every counted command runs behind
the lease (R149): a word is first taken through its guard, its source and the lease, and what is left of it is the check of its operands,
which one lemma for each family of words decides. -/

namespace Sys2Proof.MatrixUnit

open Sys2Proof.Machine Sys2Proof.Claims Sys2Proof.Laws

section
variable {h : Hdr} {la : BitVec 4} {c : CSrc} {s s1 : State} {r : Reg} {k : State → State} {i : Instr}

/-! ### Words behind the lease -/

theorem needLease_of_leased (hl : Leased s) : needLease s k = k s := if_pos hl

theorem needLease_of_unleased (hl : ¬ Leased s) : needLease s k = s.fault causeNoLease 0 [] := if_neg hl

section
variable {k : Reg → State → State}

/-- A word of the lease's holder goes on with what its source delivers. -/
theorem word_of_leased (hg : guardTrue s.ctx h.guard = true) (hc : ReadsC s c r s1) (hl : Leased s1) :
    (guarded h s fun s => readC s c fun r s => needLease s (k r)) = k r s1 := by
  rw [Scalar.guarded_readC hg hc, needLease_of_leased hl]

/-- A word of any other strand faults (R149). -/
theorem word_of_unleased (hg : guardTrue s.ctx h.guard = true) (hc : ReadsC s c r s1) (hl : ¬ Leased s1) :
    (guarded h s fun s => readC s c fun r s => needLease s (k r)) = s1.fault causeNoLease 0 [] := by
  rw [Scalar.guarded_readC hg hc, needLease_of_unleased hl]

end

/-- A counted command under way: it has consumed both latches, opened its window and counted LEFT down, it acts when its chunk
commits, and it ends the chunk (R150, R152, R164). -/
def counted (la : BitVec 4) (port : Bool) (cmd : MxCmd) (s : State) : State :=
  ((((s.consumeAll [.mxA, .mxB]).launchVar .mx la .command 0 0 port false []).defer (.mx s.me.seq cmd)).countDown).close

/-! ### The lease and the commands on one slot -/

/-- What a strand that asks for the lease must meet (R147, R152). -/
def MayLease (s : State) (n : Nat) : Prop :=
  1 ≤ n ∧ n ≤ 64 ∧ s.holdsLease = false ∧ (∀ q ∈ (s.group (gkOf s.myCk)).data.requests, q.1 ≠ s.cur) ∧
    ∀ f ∈ s.me.ctx.flights, ∀ m, f.pend ≠ .lease m

theorem lease_of_may (hg : guardTrue s.ctx h.guard = true) (hc : ReadsC s c r s1) (hm : MayLease s1 r.val.toNat) (hw : WindowFree s1 1) :
    exec (.mxLease h la c) s = .next (((((s1.consumeAll [.mxA, .mxB]).launchVar .mx la (.lease r.val.toNat) s1.me.ceiling 1 true false []).defer
      (.lease s1.me.seq r.val.toNat)).write (.mxSt leaseMask 0)).close) := by
  obtain ⟨hpos, hmax, hheld, hreq, hwait⟩ := hm
  refine congrArg Host.Outcome.next ((Scalar.guarded_readC hg hc).trans ((if_neg ?_).trans (windowGate_free _ _ _ hw)))
  rintro (h0 | h64 | hl | hany | hany)
  · omega
  · omega
  · exact Bool.false_ne_true (hheld.symm.trans hl)
  · obtain ⟨q, hq, hcur⟩ := List.any_eq_true.mp hany
    exact hreq q hq (of_decide_eq_true hcur)
  · obtain ⟨f, hf, hp⟩ := List.any_eq_true.mp hany
    split at hp
    next m hm => exact hwait f hf m hm
    next => exact Bool.false_ne_true hp

theorem lease_of_not_may (hg : guardTrue s.ctx h.guard = true) (hc : ReadsC s c r s1) (hm : ¬ MayLease s1 r.val.toNat) :
    exec (.mxLease h la c) s = .next s1.faultMatrix := by
  refine congrArg Host.Outcome.next ((Scalar.guarded_readC hg hc).trans (if_pos (Classical.byContradiction fun hn => hm ?_)))
  simp only [not_or] at hn
  obtain ⟨h0, h64, hl, hreq, hwait⟩ := hn
  refine ⟨Nat.pos_of_ne_zero h0, Nat.le_of_not_gt h64, eq_false_of_ne_true hl, fun q hq hcur => hreq ?_, fun f hf m hp => hwait ?_⟩
  · exact List.any_eq_true.mpr ⟨q, hq, decide_eq_true hcur⟩
  · exact List.any_eq_true.mpr ⟨f, hf, by rw [hp]⟩

/-- A command on one slot: refused without the lease or for a slot past 15, and otherwise counted. -/
theorem slotCommand_cases {cmd : Fin 16 → MxCmd} {port : Bool} (hi : exec i s = .next (mxSlot h la c cmd port s))
    (hg : guardTrue s.ctx h.guard = true) (hc : ReadsC s c r s1) :
    (¬ Leased s1 → exec i s = .next (s1.fault causeNoLease 0 [])) ∧
    (Leased s1 → 16 ≤ r.val.toNat → exec i s = .next s1.faultMatrix) ∧
    (Leased s1 → r.val.toNat < 16 → (port = true → WindowFree s1 1) →
      exec i s = .next (counted la port (cmd (Fin.ofNat 16 r.val.toNat)) s1)) := by
  rw [hi]
  refine ⟨fun hl => congrArg _ (word_of_unleased hg hc hl), fun hl hr => congrArg _ ((word_of_leased hg hc hl).trans (if_pos hr)),
    fun hl hr hw => congrArg _ ((word_of_leased hg hc hl).trans ((if_neg (Nat.not_le.mpr hr)).trans ?_))⟩
  cases port with
  | false => rfl
  | true => exact (if_pos rfl).trans (windowGate_free _ _ _ (hw rfl))

/-- A cell and bit that `mx.inject` may invert (R163). -/
def Cell (a : Nat) : Prop := a < 2 ^ 21 ∧ (a / 2 ^ 15) % 2 = 0 ∧ (a / 2 ^ 7) % 2 = 0 ∧ (a / 2 ^ 8) % 128 ≤ 64 ∧ a % 128 ≤ 64

theorem needKernel_of_mode (hm : s.mode s.cur ≠ .user) : needKernel s k = k s := if_neg hm

/-- Outside user mode an injection into a cell is a command on one slot, whose guard has been tried already. -/
theorem inject_of_cell (hg : guardTrue s.ctx h.guard = true) (hm : s.mode s.cur ≠ .user) (hcell : Cell (s.ctx.latch .mxA).val.toNat) :
    let a := (s.ctx.latch .mxA).val.toNat
    exec (.mxInject h la c) s =
      .next (mxSlot { h with guard := 0 } la c (fun t => .inject t ((a / 2 ^ 8) % 128) (a % 128) (a / 2 ^ 16)) false s) := by
  obtain ⟨hmax, h15, h7, hrow, hcol⟩ := hcell
  refine congrArg Host.Outcome.next ((guarded_of_true _ hg).trans ((needKernel_of_mode hm).trans (if_neg ?_)))
  omega

theorem inject_of_not_cell (hg : guardTrue s.ctx h.guard = true) (hm : s.mode s.cur ≠ .user)
    (hcell : ¬ Cell (s.ctx.latch .mxA).val.toNat) (hl : Leased s) : exec (.mxInject h la c) s = .next s.faultMatrix := by
  refine congrArg Host.Outcome.next ((guarded_of_true _ hg).trans ((needKernel_of_mode hm).trans ((if_pos ?_).trans (needLease_of_leased hl))))
  unfold Cell at hcell
  omega

end

/-- Settles O17: mx.lease decides what `MayLease` says, and the other words are behind the lease; mx.inject is a command on one slot
once its privilege and its cell are checked. -/
theorem matrixLeaseResults : Obligations.MatrixLeaseResults := by
  unfold Obligations.MatrixLeaseResults
  refine ⟨fun h la c s s1 r hg hc => ⟨lease_of_may hg hc, lease_of_not_may hg hc⟩,
    fun h s hg => ⟨fun hl => ?unleased, fun hl => ?freed⟩,
    fun h la c s s1 r hg hc => ⟨slotCommand_cases rfl hg hc, slotCommand_cases rfl hg hc⟩,
    fun h la c s s1 r hg hc => ⟨fun hm => ?user, fun hm hcell => ?inject, inject_of_not_cell hg⟩⟩
  case unleased => exact congrArg Host.Outcome.next ((guarded_of_true _ hg).trans (needLease_of_unleased hl))
  case freed => exact congrArg Host.Outcome.next ((guarded_of_true _ hg).trans (needLease_of_leased hl))
  case user => exact congrArg Host.Outcome.next ((guarded_of_true _ hg).trans (if_pos hm))
  case inject =>
    have hslot := slotCommand_cases (inject_of_cell (la := la) (c := c) hg hm hcell) (guardTrue_zero _) hc
    exact hslot

/-! ### Operand loads -/

section
variable {h : Hdr} {la : BitVec 4} {c : CSrc} {s s1 s2 : State} {a : Reg} {ps : List (Nat × Nat)} {b : Bool} {f : Fin 6}

/-- The distance between the rows of a load or of a drain (R154, R160). -/
def pitchOf (s : State) : Nat := (s.ctx.latch .mxB).val.toNat

/-- The addresses of the 64 rows of a load from `a` (R154). -/
def rowAddrs (s : State) (a : Reg) : List Int := (List.range 64).map fun (r : Nat) => ((a.val.toNat + r * pitchOf s : Nat) : Int)

/-- Where an operand load may start, and the pitches it may have (R154). -/
def LoadPlaced (s : State) (a : Reg) : Prop :=
  a.val.toNat % 128 = 0 ∧ pitchOf s % 128 = 0 ∧ 128 ≤ pitchOf s ∧ pitchOf s < 2 ^ 32

/-- A load whose rows are flat bytes and whose operands pass its checks reads them (R154). -/
theorem mxLoad_of_reaches (hg : guardTrue s.ctx h.guard = true) (hc : ReadsC s c a s1) (hl : Leased s1) (hp : a.p = false)
    (hclass : classOf a.v ≠ 0x7F) (hplace : LoadPlaced s1 a)
    (hr : ReachesAll s1 a (s1.ctx.latch .mxB).p (rowAddrs s1 a) 128 false ps s2) :
    mxLoad h la b f c s = mxLoadAcc la b f a.v (.mem ps) s2 := by
  obtain ⟨haddr, hpitch, hmin, hmax⟩ := hplace
  unfold pitchOf at hpitch hmin hmax
  refine (word_of_leased hg hc hl).trans ((if_neg (ne_true_of_eq_false hp)).trans ((if_neg fun hsys => hclass hsys.1).trans
    ((if_neg ?_).trans (hr _))))
  rintro ⟨-, -, hbad⟩
  omega

end

/-- Settles O18: the eleven words are `mxLoad` with their buffer and format. -/
theorem matrixLoadsIssued : Obligations.MatrixLoadsIssued := by
  unfold Obligations.MatrixLoadsIssued
  refine ⟨?ldaBf16, ?ldaE4m3, ?ldaE5m2, ?ldaI8, ?ldaF32, ?ldbBf16, ?ldbE4m3, ?ldbE5m2, ?ldbI8, ?ldbF32, ?ldbQn4⟩
  case ldaBf16 | ldaE4m3 | ldaE5m2 | ldaI8 | ldaF32 | ldbBf16 | ldbE4m3 | ldbE5m2 | ldbI8 | ldbF32 | ldbQn4 =>
    intro h la c s s1 s2 a ps hg hc
    exact ⟨fun hl => congrArg Host.Outcome.next (word_of_unleased hg hc hl), fun hl hp _ hclass haddr hpitch hmin hmax hr =>
      congrArg Host.Outcome.next (mxLoad_of_reaches hg hc hl hp hclass ⟨haddr, hpitch, hmin, hmax⟩ hr)⟩

/-! ### Products -/

section
variable {h : Hdr} {la : BitVec 4} {c : CSrc} {s s1 : State} {r : Reg} {i : Fin 12}

/-- The slot that a product writes (R153). -/
def target (r : Reg) : Fin 16 := Fin.ofNat 16 r.val.toNat

/-- The slot from which `mx.chain` takes A, where it is below 16 (R158). -/
def chainSource (s : State) : Nat := (s.ctx.latch .mxA).val.toNat

/-- The left operand of a product: the A buffer in the shape's format, or for `mx.chain` another slot that is not integer (R155, R158). -/
def LeftTaken (s : State) (r : Reg) : Option (Fin 6) → Prop
  | some f => s.bufFmt false = f
  | none => chainSource s < 16 ∧ Fin.ofNat 16 (chainSource s) ≠ target r ∧ s.slotKind (Fin.ofNat 16 (chainSource s)) ≠ .i

/-- The product words, buffers and slots that a shape takes (R153, R155, R158). -/
def ProductTaken (s : State) (p : Shape) (r : Reg) : Prop :=
  r.val.toNat < 2 ^ 9 ∧ (r.val.toNat / 32) % 4 < p.aw ∧ (r.val.toNat / 128) % 4 < p.bw ∧ s.bufFmt true = p.b ∧ LeftTaken s r p.a ∧
    (r.val.toNat.testBit 4 = true ∨ s.slotKind (target r) = .n ∨ s.slotKind (target r) = p.kind)

/-- The left operand as the model decides it. -/
def leftOk (s : State) (r : Reg) : Option (Fin 6) → Bool
  | some f => s.bufFmt false == f
  | none => decide (chainSource s < 16 ∧ Fin.ofNat 16 (chainSource s) ≠ target r ∧ s.slotKind (Fin.ofNat 16 (chainSource s)) ≠ .i)

/-- The refusal of a product as the model decides it. -/
def productRefused (s : State) (p : Shape) (r : Reg) : Bool :=
  !productOk p r.val.toNat || !leftOk s r p.a || s.bufFmt true != p.b ||
    (!r.val.getLsbD 4 && s.slotKind (target r) != .n && s.slotKind (target r) != p.kind)

theorem leftOk_iff (o : Option (Fin 6)) : leftOk s r o = true ↔ LeftTaken s r o := by
  cases o with
  | some f => exact beq_iff_eq
  | none => exact decide_eq_true_iff

theorem productRefused_eq_false_iff (p : Shape) : productRefused s p r = false ↔ ProductTaken s p r := by
  simp only [productRefused, ProductTaken, productOk, Bool.or_eq_false_iff, Bool.and_eq_false_iff, Bool.not_eq_false', leftOk_iff,
    decide_eq_true_iff, bne_eq_false_iff_eq, and_assoc, or_assoc, BitVec.getLsbD]
  exact and_congr_right fun _ => and_congr_right fun _ => and_congr_right fun _ => and_left_comm

theorem mxProduct_eq_of_leased (hg : guardTrue s.ctx h.guard = true) (hc : ReadsC s c r s1) (hl : Leased s1) : mxProduct h la i c s =
    if productRefused s1 (shapeOf i) r = true then s1.faultMatrix
    else counted la false (.product i (target r) (r.val.toNat.testBit 4) (Fin.ofNat 4 (r.val.toNat / 32)) (Fin.ofNat 4 (r.val.toNat / 128))
      (if (shapeOf i).a.isSome then none else some (Fin.ofNat 16 (chainSource s1)))) s1 := by
  rw [mxProduct, word_of_leased hg hc hl]
  rfl

/-- A product of the lease's holder is counted where its shape takes the word, and refused otherwise (R149, R152). -/
theorem mxProduct_cases (hg : guardTrue s.ctx h.guard = true) (hc : ReadsC s c r s1) :
    (¬ Leased s1 → mxProduct h la i c s = s1.fault causeNoLease 0 []) ∧
    (Leased s1 → ¬ ProductTaken s1 (shapeOf i) r → mxProduct h la i c s = s1.faultMatrix) ∧
    (Leased s1 → ProductTaken s1 (shapeOf i) r → mxProduct h la i c s = counted la false (.product i (target r) (r.val.toNat.testBit 4)
      (Fin.ofNat 4 (r.val.toNat / 32)) (Fin.ofNat 4 (r.val.toNat / 128))
      (if (shapeOf i).a.isSome then none else some (Fin.ofNat 16 (chainSource s1)))) s1) := by
  refine ⟨word_of_unleased hg hc, fun hl hok => ?_, fun hl hok => ?_⟩
  · rw [mxProduct_eq_of_leased hg hc hl, if_pos (eq_true_of_ne_false fun hr => hok ((productRefused_eq_false_iff _).mp hr))]
  · rw [mxProduct_eq_of_leased hg hc hl, if_neg (ne_true_of_eq_false ((productRefused_eq_false_iff _).mpr hok))]

end

/-- Settles O19: the twelve words are `mxProduct` with their shape. -/
theorem matrixProductsIssued : Obligations.MatrixProductsIssued := by
  unfold Obligations.MatrixProductsIssued
  refine ⟨?m64Bf16, ?m32Bf16, ?m16Bf16, ?e4m3, ?e5m2, ?mix8, ?i8, ?m64Qn4, ?m16Qn4, ?f32, ?chainBf16, ?chainE4m3⟩
  case m64Bf16 | m32Bf16 | m16Bf16 | e4m3 | e5m2 | mix8 | i8 | m64Qn4 | m16Qn4 | f32 | chainBf16 | chainE4m3 =>
    intro h la c s s1 r hg hc
    obtain ⟨hnone, hbad, hok⟩ := mxProduct_cases (la := la) hg hc
    exact ⟨fun hl => congrArg Host.Outcome.next (hnone hl), fun hl hw => congrArg Host.Outcome.next (hbad hl hw),
      fun hl hw => congrArg Host.Outcome.next (hok hl hw)⟩

/-! ### Drains -/

section
variable {h : Hdr} {la : BitVec 4} {c : CSrc} {s s1 s2 : State} {r : Reg}

/-- The destination of a drain and its pitch: unpoisoned, untagged and in whole lines (R160). -/
def DrainPlaced (s : State) : Prop :=
  (s.ctx.latch .mxA).tag = 0 ∧ (s.ctx.latch .mxA).p = false ∧ (s.ctx.latch .mxB).p = false ∧ (s.ctx.latch .mxA).val.toNat % 128 = 0 ∧
    pitchOf s % 128 = 0 ∧ 256 ≤ pitchOf s

/-- The 64 rows of a drain are inside the strand's own store. -/
def RowsLocal (s : State) : Prop :=
  ∀ i < 64, s.checkLocal s.myCk (decide (s.mode s.cur = .user)) ((s.ctx.latch .mxA).val.toNat + i * pitchOf s) 256 =
    .ok (.tile s.myCk ((s.ctx.latch .mxA).val.toNat + i * pitchOf s))

/-- A drain to `a` that has its range of the scoreboard (R160, R192). -/
def drainFrom (la : BitVec 4) (r : Reg) (a pitch : Nat) (s : State) : State :=
  let s3 := s.updCore s.myCk fun c => { c with ranges := c.ranges ++
    [{ lo := a / 128, hi := (a + 63 * pitch + 255) / 128, owner := 2 ^ 40 + s.me.seq * 16 + strandNo s.cur }] }
  ((((s3.asEffect.consumeAll [.mxA, .mxB]).launchVar .mx la .command 0 0 true false []).defer
    (.mx s.me.seq (.drain (Fin.ofNat 16 r.val.toNat) (r.val.getLsbD 4) (localFlat s.myCk a) pitch))).countDown).close

theorem drain_issued (hg : guardTrue s.ctx h.guard = true) (hc : ReadsC s c r s1) (hl : Leased s1) (hr : r.val.toNat < 32)
    (hplace : DrainPlaced s1) (hrows : RowsLocal s1) (hs : Starts s1 s2) (hw : WindowFree s2 1) (hroom : (s2.core s2.myCk).ranges.length < 32) :
    exec (.mxDrain h la c) s = .next (drainFrom la r (s1.ctx.latch .mxA).val.toNat (pitchOf s1) s2) := by
  obtain ⟨htag, hpa, hpb, ha, hpitch, hmin⟩ := hplace
  unfold pitchOf at hpitch hmin
  refine congrArg Host.Outcome.next ((word_of_leased hg hc hl).trans ((if_neg ?word).trans ((if_neg ?poison).trans
    ((if_neg ?aligned).trans ?_))))
  case word =>
    rintro (hbig | hbad)
    · omega
    · exact hbad htag
  case poison =>
    rintro (hbad | hbad)
    · exact ne_true_of_eq_false hpa hbad
    · exact ne_true_of_eq_false hpb hbad
  case aligned => omega
  dsimp only
  split
  next e hfind =>
    obtain ⟨i, hi, hcheck⟩ := List.exists_of_findSome?_eq_some hfind
    rw [← pitchOf, hrows i (List.mem_range.mp hi)] at hcheck
    cases hcheck
  next =>
    rw [hs, windowGate_free _ _ _ hw, if_neg (Nat.not_le.mpr hroom)]
    rfl

/-- A drain to a vector register that has joined the arrivals of the array (R150, R162). -/
def drainvFrom (la : BitVec 4) (r : Reg) (n : Nat) (s : State) : State :=
  let s2 := ((s.consumeAll [.mxA, .mxB]).launchVar .mx la .command 0 0 false true []).countDown
  let cmd := MxCmd.drainv (Fin.ofNat 16 r.val.toNat) (Fin.ofNat 32 (r.val.toNat / 16)) (Fin.ofNat 8 n)
  let s3 := s2.updGroup (gkOf s.myCk) fun g =>
    { g with arriving := g.arriving ++ [{ sid := s.cur, seq := s.me.seq, cmd := cmd }],
             data := { g.data with leaseLeft := g.data.leaseLeft - 1 } }
  (s3.updMe fun x => { x with chunk := { x.chunk with drainvs := x.chunk.drainvs + 1 } }).pushOnce (.mxCommandAccept (gkOf s.myCk))

theorem drainv_issued (hg : guardTrue s.ctx h.guard = true) (hc : ReadsC s c r s1) (hl : Leased s1) (hr : r.val.toNat < 512)
    (hn : (s1.ctx.latch .mxA).val.toNat < 8) (hp : PoolFree s1 [Fin.ofNat 8 (s1.ctx.latch .mxA).val.toNat]) :
    exec (.mxDrainv h la c) s =
      .next (drainvFrom la r (s1.ctx.latch .mxA).val.toNat (saved s1 [Fin.ofNat 8 (s1.ctx.latch .mxA).val.toNat])) := by
  refine congrArg Host.Outcome.next ((word_of_leased hg hc hl).trans ((if_neg ?_).trans (VectorUnit.poolGate_of_free hp)))
  omega

end

/-- Settles O20: once the checks of its operands pass, a drain takes its range as an effect, and a drainv joins the arrivals. -/
theorem matrixDrainsIssued : Obligations.MatrixDrainsIssued := by
  unfold Obligations.MatrixDrainsIssued
  refine ⟨?drain, ?drainv⟩
  case drain =>
    intro h la c s s1 s2 r hg hc hl d pitch a hr htag hpa hpb ha hpitch hmin hrows hs hw hroom
    exact drain_issued hg hc hl hr ⟨htag, hpa, hpb, ha, hpitch, hmin⟩ hrows hs hw hroom
  case drainv =>
    intro h la c s s1 r hg hc hl n hr hn hp
    exact drainv_issued hg hc hl hr hn hp

/-! ### The lease and the array's queue -/

section
variable {gk : Nat} {s : State} {sid seq n i : Nat} {j : MxJob} {js : List MxJob}

/-- The group's record of a lease that a strand has been given (R147, R148). -/
def granted (s : State) (sid seq n : Nat) (g : GroupData) : GroupData :=
  { g with holder := some sid, leaseLeft := n, leaseSeq := seq, idleSince := s.cyc (ckOf sid),
           requests := g.requests.filter fun q => decide (q.1 ≠ sid) }

theorem leaseGrant_of_none (hnone : (s.group gk).data.holder ≠ none ∨ s.nextRequest gk = none) : exec (.leaseGrant gk) s = .next s := by
  refine congrArg Host.Outcome.next ?_
  split
  next hfree hnext => simp [hfree, hnext] at hnone
  next => rfl

theorem leaseGrant_of_next (hfree : (s.group gk).data.holder = none) (hnext : s.nextRequest gk = some (sid, seq, n)) :
    exec (.leaseGrant gk) s = .next ((((s.updData gk (granted s sid seq n)).updStrand sid fun x =>
      x.setMxSt (leaseMask ||| idlexBit) (heldWith n)).arrive sid seq []).pushOnce (.leaseIdleLimit gk)) := by
  show execLeaseGrant gk s = _
  rw [execLeaseGrant, hfree, hnext]
  rfl

theorem leaseIdleLimit_of_none (hnone : (s.group gk).data.holder = none ∨ (s.group gk).data.requests = []) :
    exec (.leaseIdleLimit gk) s = .next s := by
  refine congrArg Host.Outcome.next ?_
  dsimp only
  split
  next hheld => exact if_pos (hnone.resolve_left (by rw [hheld]; exact Option.some_ne_none _))
  next => rfl

theorem leaseIdleLimit_of_held (hheld : (s.group gk).data.holder = some sid) (hreq : (s.group gk).data.requests ≠ []) :
    exec (.leaseIdleLimit gk) s = .next (if (s.group gk).data.idleSince + 4096 ≤ s.cyc (ckOf sid) then
      (s.endLease gk).updStrand sid fun x => x.setMxSt leaseMask idlexBit else s.pushOnce (.leaseIdleLimit gk)) := by
  show execLeaseIdleLimit gk s = _
  rw [execLeaseIdleLimit]
  dsimp only
  rw [hheld]
  exact congrArg Host.Outcome.next (if_neg hreq)

/-- Outside a replay the array takes the oldest command that may come next. -/
theorem chooseJob_of_unlogged (hlog : s.loggedJob gk = none) : s.chooseJob gk js = s.nextJob none js 0 := by
  rw [State.chooseJob, hlog]

theorem counts_iff (g : GroupData) : g.counts j = true ↔ j.cmd.isDrainv = false ∧ g.holder = some j.sid ∧ g.leaseSeq < j.seq := by
  rw [GroupData.counts, Bool.and_eq_true, Bool.not_eq_true', decide_eq_true_iff]

/-- The queue and the lease after a command is accepted (R150). -/
def acceptedInto (i : Nat) (j : MxJob) (g : Group) : Group :=
  { g with arriving := g.arriving.eraseIdx i, queue := g.queue ++ [j],
           data := if j.cmd.isDrainv = false ∧ g.data.holder = some j.sid ∧ g.data.leaseSeq < j.seq then
             { g.data with leaseLeft := g.data.leaseLeft - 1 } else g.data }

/-- Acceptance comes again while commands arrive. -/
def acceptAgain (gk : Nat) (s : State) : State := if (s.group gk).arriving = [] then s else s.pushOnce (.mxCommandAccept gk)

/-- What acceptance does with the command that it has chosen. -/
def accepted (gk i : Nat) (j : MxJob) (s : State) : State :=
  let s2 := ((s.updGroup gk (acceptedInto i j)).leaseCheck gk).logRec (gk * 4) (.arrayOrder (seatOf (ckOf j.sid)) j.seq)
  acceptAgain gk ((if j.cmd.endsAtAccept then s2.arrive j.sid j.seq [] else s2).pushOnce (.mxCommandExecute gk))

theorem accept_of_chosen (hlog : s.loggedJob gk = none) (hnext : s.nextJob none (s.group gk).arriving 0 = some i)
    (hj : (s.group gk).arriving[i]? = some j) :
    exec (.mxCommandAccept gk) s = .next (if 8 ≤ (s.group gk).queue.length then s else accepted gk i j s) := by
  show execMxCommandAccept gk s = _
  rw [execMxCommandAccept]
  dsimp only
  rw [chooseJob_of_unlogged hlog, hnext]
  dsimp only
  rw [hj, hlog]
  simp only [counts_iff]
  rfl

theorem execute_of_head {l : List MxJob} (hq : (s.group gk).queue = j :: l) (hlive : (s.group gk).arrayLive = true) :
    exec (.mxCommandExecute gk) s = .next (
      let s1 := ((s.senseArray gk).updGroup gk fun g => { g with queue := l }).runJob gk j
      acceptAgain gk (if l = [] then s1 else s1.pushOnce (.mxCommandExecute gk))) := by
  show execMxCommandExecute gk s = _
  rw [execMxCommandExecute, hq]
  dsimp only
  rw [hlive]
  rfl

theorem execute_of_empty (hq : (s.group gk).queue = []) : exec (.mxCommandExecute gk) s = .next s := by
  show execMxCommandExecute gk s = _
  rw [execMxCommandExecute, hq]

end

/-- Settles O40: each event has an equation for each of its cases. -/
theorem arrayEventsComplete : Obligations.ArrayEventsComplete := by
  unfold Obligations.ArrayEventsComplete
  intro gk s
  refine ⟨⟨leaseGrant_of_none, fun sid seq n => leaseGrant_of_next, leaseIdleLimit_of_none,
      fun sid hheld hreq => ⟨fun hlim => ?ended, fun hlim => ?again⟩⟩,
    fun i j hlog hnext hj => ⟨fun hfull => ?full, fun hroom => ?accepted⟩, execute_of_empty, fun j l => execute_of_head⟩
  case ended => rw [leaseIdleLimit_of_held hheld hreq, if_pos hlim]
  case again => rw [leaseIdleLimit_of_held hheld hreq, if_neg (Nat.not_le.mpr hlim)]
  case full => rw [accept_of_chosen hlog hnext hj, if_pos hfull]
  case accepted =>
    rw [accept_of_chosen hlog hnext hj, if_neg (Nat.not_le.mpr hroom)]
    rfl

end Sys2Proof.MatrixUnit
end

section
/-! PROOFS. Accesses to memory: the checks of an access of class 0 (O13), and what the `ls` words and the stream words do once their access
is made (O10, O11, O15). A check either refuses an access or places it; a load or store of any size is then one lemma about the bytes that
its access reaches. -/

namespace Sys2Proof.MemoryWindows

open Sys2Proof.Machine Sys2Proof.Claims Sys2Proof.Laws

/-! ### The checks of class 0 -/

section
variable {s : State} {ck n align off : Nat} {mode : Mode} {v : Reg80} {a : Reg} {store scalar : Bool} {k : Acc → State → State}

/-- The checks of class 0 after those of class and qualifier: privilege, alignment, limit (R169). -/
theorem checkAccess_local (hclass : classOf v = 0) (hqual : qualOf v = 0) (hn : 0 < n) : s.checkAccess ck mode v n align =
    if mode = .user ∧ offOf v < 64 * (s.partOf ck).t then .bad causePrivilege
    else if offOf v % align ≠ 0 then .bad causeMisaligned
    else s.checkLocal ck false (offOf v) n := by
  simp [State.checkAccess, Part.inTable, hclass, hqual, hn, classOk]

theorem classOk_of_qualified {p : Part} {q : Nat} (hq : q ≠ 0) : classOk p 0 q = false := decide_eq_false hq

theorem inRepArea_iff {pid : Nat} : s.inRepArea pid off n = true ↔
    s.privEnd pid < 2 ^ 20 - (s.part pid).shareBytes ∧ off < 2 ^ 20 - (s.part pid).shareBytes ∧ s.privEnd pid < off + n := by
  simp [State.inRepArea, and_assoc]

theorem checkLocal_beyond (h : 2 ^ 20 < off + n ∨ s.inRepArea (pidOf ck) off n = true) :
    s.checkLocal ck false off n = .bad causeWindow := by
  rw [State.checkLocal, Bool.false_and, if_neg Bool.false_ne_true]
  obtain hend | hrep := h
  · rw [if_pos hend]
  · rw [if_pos hrep, ite_self]

theorem checkLocal_within (hend : off + n ≤ 2 ^ 20) (hrep : ¬ s.inRepArea (pidOf ck) off n = true) :
    s.checkLocal ck false off n = .ok (.tile ck off) := by
  rw [State.checkLocal, Bool.false_and, if_neg Bool.false_ne_true, if_neg (Nat.not_lt.mpr hend), if_neg hrep]

/-! ### What a check makes of an access -/

theorem access_of_poison (hp : a.p = true) : access s a n align store scalar k = s.faultPoison a.v := if_pos hp

theorem access_of_bad {c : Nat} (hp : a.p = false) (hc : s.checkAccess s.myCk (s.mode s.cur) a.v n align = .bad c) :
    access s a n align store scalar k = s.faultAddr c a.v := by
  rw [access, accessWith, if_neg (by simp [hp]), hc]

/-- A task that has declared no set acquires none. -/
theorem setGate_of_undeclared {acc : Acc} {k : State → State} (hsets : s.me.sets.toList.all Option.isNone = true) :
    setGate s acc k = k s := by
  unfold setGate
  split
  · exact if_pos hsets
  · rfl

/-- An access placed in the core's own store is made at once where no held range and no declared set stands in its way. -/
theorem reaches_own (hp : a.p = false) (hc : s.checkAccess s.myCk (s.mode s.cur) a.v n align = .ok (.tile s.myCk off))
    (hfree : (s.core s.myCk).rangeHeld (off / 128) ((off + n - 1) / 128) = false) (hsets : s.me.sets.toList.all Option.isNone = true) :
    Reaches s a n align store scalar ((splitLines off n).map fun q => (localFlat s.myCk q.1, q.2)) s := by
  intro k
  have hwait : ¬ ([Place.tile s.myCk off].any fun p => s.rangeWait s.myCk n (classOf a.v) p) = true := by
    simp [State.rangeWait, hfree]
  rw [access, accessWith, if_neg (by simp [hp]), hc]
  show accessPlaces s [.tile s.myCk off] (classOf a.v) n store true k = _
  rw [accessPlaces, if_neg hwait]
  exact setGate_of_undeclared hsets

end

/-- Settles O13: the access is the first check of R169 that refuses it, and otherwise is placed in the core's own store. -/
theorem localAccessChecks : Obligations.LocalAccessChecks := by
  unfold Obligations.LocalAccessChecks
  intro s a n align store scalar k hclass hn _
  refine ⟨access_of_poison, fun hp hqual => ?qualifier, fun hp hqual => ⟨fun hmode hoff => ?table, fun hopen =>
    ⟨fun hmis => ?misaligned, fun hal hbad => ?beyond, fun hal hend hrep hfree hsets => ?placed⟩⟩⟩
  case qualifier =>
    exact access_of_bad hp (Scalar.checkAccess_of_class (hclass ▸ classOk_of_qualified hqual))
  case table =>
    exact access_of_bad hp ((checkAccess_local hclass hqual hn).trans (if_pos ⟨hmode, hoff⟩))
  case misaligned =>
    exact access_of_bad hp (by rw [checkAccess_local hclass hqual hn, if_neg hopen, if_pos hmis])
  case beyond =>
    refine access_of_bad hp ?_
    rw [checkAccess_local hclass hqual hn, if_neg hopen, if_neg fun h => h hal]
    exact checkLocal_beyond (hbad.imp_right inRepArea_iff.mpr)
  case placed =>
    refine reaches_own hp ?_ hfree hsets
    rw [checkAccess_local hclass hqual hn, if_neg hopen, if_neg fun h => h hal]
    exact checkLocal_within hend (mt inRepArea_iff.mp hrep)

/-! ### Scalar loads and stores -/

section
variable {h : Hdr} {la : BitVec 4} {l : Fin 4} {c : CSrc} {s s1 s2 : State} {a : Reg} {ps : List (Nat × Nat)} {j : Fin 8}

/-- A load of any size whose access reaches memory is in flight with the value of its bytes. -/
theorem loadScalar_of_reaches {op : Fin 8} {f : Nat → Reg80} (hf : ∀ d, laneValue op d = f (ofLE d)) (hg : guardTrue s.ctx h.guard = true)
    (hc : ReadsC s c a s1) (hw : WindowFree s1 1) (hr : Reaches s1 a (laneBytes op) (laneBytes op) false (decide (op.val ≠ 7)) ps s2) :
    loadScalar h la op l c s = loaded .ls la true (.lane op l) a ps (fun v p => [.latch (laneLatch l) { v := f v, p := p }]) s2 := by
  rw [loadScalar, Scalar.guarded_readC hg hc, windowGate_free _ _ _ hw, hr]
  simp only [loaded, ← hf]
  rfl

/-- A store of any size whose access reaches memory enters its bytes and consumes `ls.d`. -/
theorem storeScalar_of_reaches {n : Nat} (hg : guardTrue s.ctx h.guard = true) (hc : ReadsC s c a s1)
    (hr : Reaches s1 a n n true (decide (n ≠ 16)) ps s2) (hm : MayStore s2 ps) : storeScalar h la n c s =
      (s2.writePieces ps (storeBytes n (s1.ctx.latch .lsD)) (s1.ctx.latch .lsD).p).consume .lsD := by
  rw [storeScalar, Scalar.guarded_readC hg hc, storeValue, hr]
  exact congrArg (State.consume · .lsD) (VectorUnit.storeOp_mem hm)

/-! ### Streams -/

/-- A descriptor that decodes is loaded into a free engine. -/
theorem bindStream_of_free {v : Reg80} {d : List Byte} {mark : Bool} {b : Binding} :
    s.enginesUsed j < 8 → bindingOf d = some b → bindStream s j v d mark =
      let t := if mark then s.setPe v else s
      ((t.updCtx fun c => { c with binds := c.binds.set j (some b) }).updMe fun x =>
        { x with buffered := x.buffered.set j 0 }).pushOnce (.streamElementArrival t.cur j) := by
  intro hfree hb
  rw [bindStream, if_neg (Nat.not_le.mpr hfree), hb]
  cases mark <;> rfl

/-- A stream that is bound in its direction and not exhausted takes its next position where the access reaches memory. -/
theorem takePosition_of_reaches {out : Bool} {n : Nat} {b : Binding} {v : Reg80} (hb : s.ctx.binds[j] = some b) (hout : b.out = out)
    (hpos : b.pos < b.total) (hv : b.pointer = some v) (hr : Reaches s { v := v, p := false } n (min n 128) out false ps s2)
    (k : Acc → Reg80 → State → State) : takePosition s j out n k =
      k (.mem ps) v (s2.updCtx fun c => { c with binds := c.binds.set j (some { b with pos := b.pos + 1 }) }) := by
  rw [takePosition, hb]
  dsimp only
  rw [if_neg (by simp [hout]), if_neg (Nat.not_le.mpr hpos), hv]
  exact hr _

end

/-- Settles O10: the eight words are `loadScalar` with their operation, whose value is a function of the number that the bytes spell. -/
theorem scalarLoadsInFlight : Obligations.ScalarLoadsInFlight := by
  unfold Obligations.ScalarLoadsInFlight
  refine ⟨?ld8s, ?ld8u, ?ld16s, ?ld16u, ?ld32s, ?ld32u, ?ld64, ?ldp⟩
  all_goals
    intro h la l c s s1 s2 a ps hg hc hw hr
    exact congrArg Host.Outcome.next (loadScalar_of_reaches (fun _ => rfl) hg hc hw hr)

/-- Settles O11: the five words are `storeScalar` with their size. -/
theorem scalarStoresBuffered : Obligations.ScalarStoresBuffered := by
  unfold Obligations.ScalarStoresBuffered
  refine ⟨?st8, ?st16, ?st32, ?st64, ?stp⟩
  all_goals
    intro h la c s s1 s2 a ps hg hc hr hm
    exact congrArg Host.Outcome.next (storeScalar_of_reaches hg hc hr hm)

/-- Settles O15: a hint translates in two windows only, a bind loads its engine with the descriptor that its access reads, and a write takes
the position that its access stores to. -/
theorem prefetchAndStreamResults : Obligations.PrefetchAndStreamResults := by
  unfold Obligations.PrefetchAndStreamResults
  refine ⟨fun h c s s1 a hg hc => ⟨fun h3 h4 => ?nothing, fun hclass hqual hoff => ?lookup⟩, ?bind, fun h j s hg => ?unbind, ?write⟩
  case nothing =>
    exact congrArg Host.Outcome.next ((Scalar.guarded_readC hg hc).trans (if_neg fun h => h.1.elim h3 h4))
  case lookup =>
    exact congrArg Host.Outcome.next ((Scalar.guarded_readC hg hc).trans (if_pos ⟨hclass, hqual, hoff⟩))
  case bind =>
    intro h j c s s1 s2 a ps b hg hc hr _ _ hfree hb
    refine congrArg Host.Outcome.next ((Scalar.guarded_readC hg hc).trans ?_)
    rw [hr]
    exact bindStream_of_free hfree hb
  case unbind => exact congrArg Host.Outcome.next (guarded_of_true _ hg)
  case write =>
    intro h j c s s1 s2 r b a ps hg hc hb hout hpos hv hr _ hm
    refine congrArg Host.Outcome.next ((Scalar.guarded_readC hg hc).trans ?_)
    rw [takePosition_of_reaches hb hout hpos hv hr]
    exact VectorUnit.storeOp_mem hm

end Sys2Proof.MemoryWindows
end

section
/-! PROOFS. Chunks and their ends: what a strand reads of its own open chunk (O14), when an effect starts (O16), how a word ends the chunk
or waits for it (O30), and how a chunk that awaits commit is decided (O36). -/

namespace Sys2Proof.Chunks

open Sys2Proof.Machine Sys2Proof.Claims Sys2Proof.Laws

/-! ### A store in the open chunk -/

section
variable {s : State} {sid a : Nat} {w : SbWrite}

/-- All of a state that a strand's reads depend on: its uncommitted stores, the logs that a replay reads, and memory (R197, R377). -/
def readView (sid : Nat) (s : State) : List SbWrite × Store Core × List Host.Cell := ((s.strand sid).stores, s.cores, s.mem)

/-- A byte as it reads where no uncommitted store covers it. -/
def byteBelow (s : State) (sid a : Nat) : Byte :=
  match loggedLine (s.core (ckOf sid)).replay (lineOf a) with
  | some d => byteAt d (a % 128)
  | none => memRead s.mem a

theorem readByte_eq : s.readByte sid a = (storesByte (s.strand sid).stores a).getD (byteBelow s sid a) := by
  rw [State.readByte, byteBelow]
  cases storesByte (s.strand sid).stores a with
  | some b => rfl
  | none => cases loggedLine (s.core (ckOf sid)).replay (lineOf a) <;> rfl

theorem readBytes_one : s.readBytes sid a 1 = [s.readByte sid a] := rfl

/-- The newest store that covers a byte is the one that reads see. -/
theorem storesByte_append (ws : List SbWrite) : storesByte (ws ++ [w]) a =
    if w.addr ≤ a ∧ a < w.addr + w.data.length then some (byteAt w.data (a - w.addr)) else storesByte ws a := by
  rw [storesByte, List.foldl_append]
  rfl

theorem foldl_fixes {α β σ : Type} {f : σ → β} {g : σ → α → σ} (h : ∀ x y, f (g x y) = f x) (l : List α) (x : σ) :
    f (l.foldl g x) = f x := by
  induction l generalizing x with
  | nil => rfl
  | cons y l ih => rw [List.foldl_cons, ih, h]

theorem readView_updStrand {f : Strand → Strand} (hf : ∀ x, (f x).stores = x.stores := by intro; rfl) :
    readView sid (s.updStrand sid f) = readView sid s := by
  rw [readView, updStrand_strand, hf]
  rfl

/-- Entering a store changes nothing that the strand reads but its stores: signatures, slices and lines are beside them. -/
theorem readView_noteWrite :
    readView sid (s.noteWrite sid w) = ((s.strand sid).stores ++ [w], s.cores, s.mem) := by
  refine (foldl_fixes (fun t line => ?_) _ _).trans ?entered
  case entered =>
    rw [readView, updStrand_strand, Strand.stores, Strand.stores, List.append_assoc]
    rfl
  dsimp only
  split <;> exact Eq.trans readView_updStrand readView_updStrand

theorem noteWrite_cur : (s.noteWrite sid w).cur = s.cur := by
  refine (foldl_fixes (f := State.cur) (fun t line => ?_) _ _).trans rfl
  dsimp only
  split <;> rfl

theorem stores_noteWrite : ((s.noteWrite sid w).strand sid).stores = (s.strand sid).stores ++ [w] := congrArg Prod.fst readView_noteWrite

theorem cores_noteWrite : (s.noteWrite sid w).cores = s.cores := congrArg (·.2.1) (readView_noteWrite (sid := sid))

theorem mem_noteWrite : (s.noteWrite sid w).mem = s.mem := congrArg (·.2.2) (readView_noteWrite (sid := sid))

theorem byteBelow_noteWrite : byteBelow (s.noteWrite sid w) sid a = byteBelow s sid a := by
  rw [byteBelow, byteBelow, State.core, State.core, cores_noteWrite, mem_noteWrite]

theorem readByte_noteWrite : (s.noteWrite sid w).readByte sid a =
    if w.addr ≤ a ∧ a < w.addr + w.data.length then byteAt w.data (a - w.addr) else s.readByte sid a := by
  rw [readByte_eq, readByte_eq, stores_noteWrite, storesByte_append, byteBelow_noteWrite]
  split <;> rfl

end

/-- Settles O14: reads ask the strand's stores from the newest, so the one just entered answers for its bytes and no other. -/
theorem storeSeenByItsStrand : Obligations.StoreSeenByItsStrand := by
  unfold Obligations.StoreSeenByItsStrand
  intro s w a t
  have hread : t.readBytes t.cur a 1 =
      [if w.addr ≤ a ∧ a < w.addr + w.data.length then byteAt w.data (a - w.addr) else s.readByte s.cur a] := by
    rw [readBytes_one, noteWrite_cur, readByte_noteWrite]
  refine ⟨fun hlo hhi => ?covered, fun hout => ?outside, congrArg (memRead · a) mem_noteWrite⟩
  case covered =>
    rw [hread, if_pos ⟨hlo, hhi⟩]
    rfl
  case outside =>
    rw [hread, if_neg (by omega), readBytes_one]

/-! ### Effects -/

/-- Settles O16: the cases of the effect gate, each under its own conditions. -/
theorem effectsStartAlone : Obligations.EffectsStartAlone := by
  unfold Obligations.EffectsStartAlone
  refine fun s => ⟨fun hiss k => if_pos hiss, fun hiss => ⟨fun hlen k => ?ends, fun hlen => ⟨fun hwait k => ?waits,
    fun haw heff hctl hlog k => ?starts⟩⟩⟩
  case ends => exact (if_neg (ne_true_of_eq_false hiss)).trans (if_pos hlen)
  case waits =>
    have hgate : effectGate s k = (s.hold .stalledLA .effect 0).pushOnce (.effectIssue s.cur) :=
      (if_neg (ne_true_of_eq_false hiss)).trans ((if_neg (not_not_intro hlen)).trans (if_pos hwait))
    rw [hgate, pushOnce_held, hold_held]
  case starts => exact effectGate_runs s k hiss hlen haw heff hctl hlog

/-! ### Words that end the chunk -/

section
variable {h : Hdr} {s s1 : State} {c : CSrc} {r : Reg} {why : Why} {k : State → State} {i : Instr} {t : State}

theorem exec_of_guarded (hi : exec i s = .next (guarded h s k)) (hg : guardTrue s.ctx h.guard = true) (ht : k s = t) :
    exec i s = .next t := by
  rw [hi, guarded_of_true _ hg, ht]

/-- Nothing before a fence is outstanding (R214). -/
def FenceQuiet (x : Strand) : Prop :=
  x.await = none ∧ x.effect = none ∧ x.reqs = [] ∧
    ∀ f ∈ x.ctx.flights, f.arrived = true ∨ f.pend = .pfence ∨ f.pend = .command ∨ ∃ n, f.pend = .lease n

theorem quiet_iff {x : Strand} : x.quiet = true ↔ FenceQuiet x := by
  simp only [Strand.quiet, FenceQuiet, Bool.and_eq_true, List.all_eq_true, Option.isNone_iff_eq_none, List.isEmpty_iff, and_assoc,
    Bool.or_eq_true]
  refine and_congr_right fun _ => and_congr_right fun _ => and_congr_right fun _ => forall₂_congr fun f _ => or_congr_right ?_
  cases f.pend <;> simp

theorem fenceGate_of_open (hlen : s.me.chunk.len ≠ 0) : fenceGate s why k = s.endFirst := if_pos hlen

theorem fenceGate_of_busy (hlen : s.me.chunk.len = 0) (hq : ¬ FenceQuiet s.me) : fenceGate s why k = s.hold .stalledLA why s.me.ceiling := by
  rw [fenceGate, if_neg (not_not_intro hlen), eq_false_of_ne_true (mt quiet_iff.mp hq)]
  rfl

theorem fenceGate_of_quiet (hlen : s.me.chunk.len = 0) (hq : FenceQuiet s.me) : fenceGate s why k =
    if s.ctx.pe.set = true then s.fault causePoison 0 (addrBytes s.ctx.pe.addr ++ leBytes 8 s.ctx.pe.pc.toNat) else k s := by
  rw [fenceGate, if_neg (not_not_intro hlen), quiet_iff.mpr hq]
  rfl

theorem trap_of_reads (hg : guardTrue s.ctx h.guard = true) (hc : ReadsC s c r s1) : exec (.ctTrap h c) s = .next (
    if s1.me.chunk.len ≠ 0 then s1.endFirst
    else if s1.me.await.isSome ∨ s1.me.effect.isSome ∨ s1.me.ctl ≠ [] then s1.hold .stalledLA .chunkAwait 0
    else s1.fault causeTrap 0 (leBytes 8 r.val.toNat)) :=
  congrArg Host.Outcome.next (Scalar.guarded_readC hg hc)

end

/-- Settles O30: the words under their guard; the trap and the fence first end the open chunk, then wait, then fault or end it. -/
theorem chunkEndResults : Obligations.ChunkEndResults := by
  unfold Obligations.ChunkEndResults
  intro close stop h s hg
  refine ⟨exec_of_guarded rfl hg rfl, fun hstay => exec_of_guarded rfl hg (if_pos hstay),
    fun hno hmode => exec_of_guarded rfl hg (if_neg (not_or.mpr ⟨hno, hmode⟩)), fun hno => exec_of_guarded rfl hg (if_pos hno),
    fun hno => exec_of_guarded rfl hg (if_neg hno), fun c s1 r hc => ?trap, ?fence⟩
  case trap =>
    rw [trap_of_reads hg hc]
    refine ⟨fun hlen => ?_, fun hlen hwait => ?_, fun hlen haw heff hctl => ?_⟩
    · rw [if_pos hlen]
    · rw [if_neg (not_not_intro hlen), if_pos hwait]
    · rw [if_neg (not_not_intro hlen), if_neg (by simp [haw, heff, hctl])]
  case fence =>
    refine ⟨fun hlen => exec_of_guarded rfl hg (fenceGate_of_open hlen), fun hlen hq => exec_of_guarded rfl hg (fenceGate_of_busy hlen hq),
      fun hlen hq hpe => exec_of_guarded rfl hg ((fenceGate_of_quiet hlen hq).trans (if_pos hpe)),
      fun hlen hq hpe => exec_of_guarded rfl hg ((fenceGate_of_quiet hlen hq).trans (if_neg (ne_true_of_eq_false hpe)))⟩

/-! ### The decision about a chunk -/

section
variable {s : State} {sid : Nat} {c : Ctx} {k : Chunk}

/-- What the Weir decides, outside a replay, about a chunk that may commit and touches at most one slice (R201). -/
def decided (s : State) (sid : Nat) (c : Ctx) (k : Chunk) : State :=
  if s.commitHeld sid k (k.slices.map Prod.fst) then s.pushOnce (.weirCommitRequest sid)
  else if s.chunkMeets sid k then s.squashAwait sid
  else match k.farSlices sid with
    | r :: _ => s.askSlice sid c k r
    | [] => s.commitAwait sid

theorem commitRequest_of_mayCommit (haw : (s.strand sid).await = some (c, k)) (hmay : (s.strand sid).mayCommit k = true)
    (hrep : s.replaying (ckOf sid) = false) : exec (.weirCommitRequest sid) s =
      .next (if 2 ≤ k.slices.length then s.pushOnce (.weirPrepare sid) else decided s sid c k) := by
  show Host.Outcome.next (s.weirDecide sid) = _
  rw [State.weirDecide, haw]
  dsimp only
  rw [hmay, hrep]
  rfl

/-- What the Weir does with the next slice of a chunk that prepares (R202). -/
def prepared (s : State) (sid : Nat) (c : Ctx) (k : Chunk) (r : Nat) : State :=
  if s.commitHeld sid k [r] then s.pushOnce (.weirPrepare sid)
  else if s.meetsAt sid r k then s.squashAwait sid
  else if r ≠ gkOf (ckOf sid) then s.askSlice sid c k r
  else (s.acceptPrepare sid r k).pushOnce (.weirPrepare sid)

theorem prepare_of_mayCommit (haw : (s.strand sid).await = some (c, k)) (hmay : (s.strand sid).mayCommit k = true) :
    exec (.weirPrepare sid) s = .next (match s.nextSlice k with
      | none => if s.chunkMeets sid k then s.squashAwait sid else s.commitAwait sid
      | some r => prepared s sid c k r) := by
  show execWeirPrepare sid s = _
  rw [execWeirPrepare]
  dsimp only
  rw [haw]
  dsimp only
  rw [hmay]
  rfl

end

/-- Settles O36: a chunk that may commit is decided at its one slice or prepares at the next; each event is then a chain of tests. -/
theorem commitEventsComplete : Obligations.CommitEventsComplete := by
  unfold Obligations.CommitEventsComplete
  intro sid s
  refine ⟨fun c k haw hmay => ⟨fun hrep => ?request, fun hnext => ?last, fun r hnext => ?slice⟩, fun hfull => ?full, fun hfull => ?short⟩
  case request =>
    rw [commitRequest_of_mayCommit haw hmay hrep]
    refine ⟨fun htwo => by rw [if_pos htwo], fun hone => ?_⟩
    rw [if_neg (Nat.not_le.mpr hone), decided]
    refine ⟨fun hheld => by rw [if_pos hheld], fun hheld hmeets => ?_, fun hheld hmeets => ?_⟩ <;> rw [if_neg (ne_true_of_eq_false hheld)]
    · rw [if_pos hmeets]
    · rw [if_neg (ne_true_of_eq_false hmeets)]
      exact ⟨fun hfar => by rw [hfar], fun r l hfar => by rw [hfar]⟩
  case last =>
    rw [prepare_of_mayCommit haw hmay, hnext]
    exact ⟨fun hmeets => congrArg Host.Outcome.next (if_pos hmeets),
      fun hmeets => congrArg Host.Outcome.next (if_neg (ne_true_of_eq_false hmeets))⟩
  case slice =>
    rw [prepare_of_mayCommit haw hmay, hnext]
    dsimp only
    rw [prepared]
    refine ⟨fun hheld => by rw [if_pos hheld], fun hheld hmeets => ?_, fun hheld hmeets => ?_⟩ <;> rw [if_neg (ne_true_of_eq_false hheld)]
    · rw [if_pos hmeets]
    · rw [if_neg (ne_true_of_eq_false hmeets)]
      exact ⟨fun hfar => by rw [if_pos hfar], fun hown => by rw [if_neg (not_not_intro hown)]; rfl⟩
  case full => exact congrArg Host.Outcome.next (if_pos hfull)
  case short => exact congrArg Host.Outcome.next (if_neg hfull)

end Sys2Proof.Chunks
end

section
/-! PROOFS. The events of a strand that waits (O35): its held bundle is tried again, its stream, its bound, its try of a remote queue and
its alarm. Each event has an equation for each of its cases; the obligation joins them. -/

namespace Sys2Proof.Waits

open Sys2Proof.Machine

section
variable {s : State} {sid : Nat} {f : Flight}

/-! ### Held bundles and streams -/

theorem effectIssue_eq : exec (.effectIssue sid) s =
    .next (if (((s.strand sid).farBusy.any fun p => decide (s.now < p.2 + 2000)) && decide ((s.strand sid).why = .effect)) = true then
      s.pushOnce (.effectIssue sid) else (s.wakeIf sid .effect).wakeIf sid .done) := rfl

theorem streamElementArrival_of_bound {j : Fin 8} {b : Binding} (hb : (s.strand sid).ctx.binds[j] = some b) :
    exec (.streamElementArrival sid j) s = .next ((s.setStrand sid
      { s.strand sid with buffered := (s.strand sid).buffered.set j (min 512 ((s.strand sid).buffered[j] + 1)) }).wakeIf sid (.stream j)) := by
  show execStreamElementArrival sid j s = _
  rw [execStreamElementArrival]
  dsimp only
  rw [hb]
  rfl

/-! ### The bound of a wait (R257) -/

theorem waitExpired_of_unbounded (hw : (s.strand sid).st.waits = false ∨ (s.strand sid).bounded = false) :
    exec (.waitExpired sid) s = .next s :=
  congrArg Host.Outcome.next (if_pos (hw.imp (Bool.not_eq_true' _).mpr (Bool.not_eq_true' _).mpr))

theorem waitExpired_of_bounded (hw : (s.strand sid).st.waits = true) (hb : (s.strand sid).bounded = true) :
    exec (.waitExpired sid) s = .next (
      if s.cyc (ckOf sid) < (s.strand sid).since + (s.strand sid).bound ∨ s.tryTaken sid = true ∨ s.wakeDue sid = true then
        s.pushOnce (.waitExpired sid)
      else s.expire sid) :=
  congrArg Host.Outcome.next (if_neg (by simp [hw, hb]))

/-- What a strand takes back as its wait for a result expires: its request for a lease, or its try of a queue (logs 50 and 53). -/
def withdrawn (s : State) (sid : Nat) (f : Flight) : State :=
  match f.pend with
  | .lease _ => s.dropLeaseRequest sid f.seq
  | .queue _ _ _ _ _ _ => s.dropTry sid f.seq
  | _ => s

theorem expireFlight_of_result (hm : f.pend ≠ .monitor) : s.expireFlight sid f =
    (withdrawn s sid f).freezeLate sid f.seq causeWait (s.flightExpiry sid f).1 f.pc f.second 0 (s.flightExpiry sid f).2 := by
  refine (if_neg fun hmon => ?_).trans rfl
  split at hmon
  next hp => exact hm hp
  next => exact Bool.false_ne_true hmon

theorem expire_of_flight (hf : (s.strand sid).waitedFlight = some f) : s.expire sid = s.expireFlight sid f := by
  rw [State.expire, hf]

theorem expire_of_held (hf : (s.strand sid).waitedFlight = none) (hctx : (s.strand sid).why ≠ .context)
    (hset : ∀ n, (s.strand sid).why ≠ .set n) : s.expire sid = s.freeze sid causeWait (s.heldExpiry sid).1 (s.strand sid).ctx.pc
      (s.strand sid).ctx.second 0 (s.heldExpiry sid).2 := by
  rw [State.expire, hf]
  refine (if_neg hctx).trans ?_
  split
  next n hn => exact absurd hn (hset n)
  next => rfl

/-! ### Tries of a remote queue (R288) -/

/-- A queue operation that has not been answered. -/
def waitsQueue (f : Flight) : Bool :=
  !f.arrived && match f.pend with
    | .queue _ _ _ _ _ _ => true
    | _ => false

/-- The try of a queue is made again, under a serial of its own, where its handle still names a queue. -/
def triedAgain (s : State) (sid : Nat) (f : Flight) (push : Bool) (h : Reg80) (v : BitVec 64) (mark user : Bool) (claim : Option Nat) : State :=
  match s.queueHandle (pidOf (ckOf sid)) h with
  | some (ck, q, i) =>
    s.sendRemote sid (s.queueOwner ck q i) (tryOp ck q i push v mark user (claim.map fun j => (ckOf sid, j))) f.seq f.pc f.second
  | none => s

theorem queueRetry_of_waiting {push mark user : Bool} {h : Reg80} {v : BitVec 64} {claim : Option Nat}
    (hfind : (s.strand sid).ctx.flights.find? waitsQueue = some f) (hpend : f.pend = .queue push h v mark user claim)
    (hasks : (s.strand sid).asks f.seq = false) : exec (.queueRetry sid) s = .next (
      if s.now < (s.strand sid).retryAt ∨ (s.strand sid).tok = 0 ∨ (s.strand sid).distance ≥ 2 ^ 31 - 2 ^ 16 then
        s.pushOnce (.queueRetry sid)
      else triedAgain s sid f push h v mark user claim) := by
  refine congrArg Host.Outcome.next ?_
  dsimp only
  split
  next hnone => cases hfind.symm.trans hnone
  next f' hsome =>
    obtain rfl : f = f' := Option.some.inj (hfind.symm.trans hsome)
    rw [if_neg (ne_true_of_eq_false hasks), hpend]
    rfl

/-! ### The alarm (R309) -/

/-- DEADLINE of the alarm. -/
def deadline (x : Strand) : Nat := bitsAt x.alarm 62 0

theorem alarmFire_of_idle (hi : (s.strand sid).alarm.getLsbD 63 = true ∨ deadline (s.strand sid) = 0) :
    exec (.alarmFire sid) s = .next s :=
  congrArg Host.Outcome.next (if_pos hi)

theorem alarmFire_of_set (hfired : (s.strand sid).alarm.getLsbD 63 = false) (hd : deadline (s.strand sid) ≠ 0) :
    exec (.alarmFire sid) s = .next (if s.regionTime (s.rkOf (ckOf sid)) < deadline (s.strand sid) then s.pushOnce (.alarmFire sid)
      else (s.setStrand sid { s.strand sid with alarm := (s.strand sid).alarm ||| BitVec.ofNat 64 (2 ^ 63) }).pokeMonitor sid) :=
  congrArg Host.Outcome.next (if_neg (not_or.mpr ⟨ne_true_of_eq_false hfired, hd⟩))

end

/-- Settles O35: the equations of the seven events, case by case. -/
theorem waitEventsComplete : Obligations.WaitEventsComplete := by
  unfold Obligations.WaitEventsComplete
  intro wakes sid s
  refine ⟨rfl, ⟨fun hagain hwhy => ?again, fun hno => ?issue⟩, rfl, fun j b hb => streamElementArrival_of_bound hb,
    ⟨waitExpired_of_unbounded, fun hw hb => ⟨fun hearly => ?early, fun hover htry hwake =>
      ⟨fun f hf hm => ?result, fun hf hctx hset => ?held⟩⟩⟩,
    fun f push h v m u c ck q i hfind hpend hasks => ⟨fun hearly => ?notYet, fun hlate htok hdist hq => ?tries⟩,
    alarmFire_of_idle, fun hfired hd => ⟨fun hearly => ?tooSoon, fun hlate => ?fires⟩⟩
  case again => rw [effectIssue_eq, if_pos ((Bool.and_eq_true _ _).mpr ⟨hagain, decide_eq_true hwhy⟩)]
  case issue =>
    rw [effectIssue_eq, if_neg fun hboth => ?_]
    · rfl
    · obtain ⟨hagain, hwhy⟩ := (Bool.and_eq_true _ _).mp hboth
      exact hno.elim (fun h => Bool.false_ne_true (h.symm.trans hagain)) fun h => h (of_decide_eq_true hwhy)
  case early => rw [waitExpired_of_bounded hw hb, if_pos hearly]
  case result =>
    rw [waitExpired_of_bounded hw hb, if_neg (by simp [hover, htry, hwake]), expire_of_flight hf, expireFlight_of_result hm]
    rfl
  case held => rw [waitExpired_of_bounded hw hb, if_neg (by simp [hover, htry, hwake]), expire_of_held hf hctx hset]
  case notYet => rw [queueRetry_of_waiting hfind hpend hasks, if_pos (.inl hearly)]
  case tries =>
    rw [queueRetry_of_waiting hfind hpend hasks,
      if_neg (not_or.mpr ⟨Nat.not_lt.mpr hlate, not_or.mpr ⟨htok, Nat.not_le.mpr hdist⟩⟩), triedAgain, hq]
    rfl
  case tooSoon => rw [alarmFire_of_set hfired hd]; exact congrArg _ (if_pos hearly)
  case fires => rw [alarmFire_of_set hfired hd]; exact congrArg _ (if_neg (Nat.not_lt.mpr hlate))

end Sys2Proof.Waits
end

section
/-! PROOFS. The events of the copy engine and of the reduction server (O41). Each event has an equation for each of its cases; the
obligation joins them. -/

namespace Sys2Proof.EngineEvents

open Sys2Proof.Machine

section
variable {s : State} {ck : Nat}

/-! ### Commands and their lines (R210, R239) -/

/-- The command of a core's engine that has something left to send. -/
def sending (c : Core) : Option CeCmd := c.running.find? fun x => !x.sentAll

theorem commandStart_of_sending {x : CeCmd} (hx : sending (s.core ck) = some x) :
    exec (.ceCommandStart ck) s = .next (((s.ceSendNext ck x).ceCheck ck x.id).pushOnce (.ceCommandStart ck)) := by
  show execCeCommandStart ck s = _
  rw [execCeCommandStart]
  dsimp only
  rw [← sending, hx]

theorem commandStart_of_idle (hx : sending (s.core ck) = none) (hfifo : (s.core ck).fifo = []) :
    exec (.ceCommandStart ck) s = .next s := by
  show execCeCommandStart ck s = _
  rw [execCeCommandStart]
  dsimp only
  rw [← sending, hx, hfifo]

theorem commandStart_of_fifo {x : CeCmd} {rest : List CeCmd} (hx : sending (s.core ck) = none) (hfifo : (s.core ck).fifo = x :: rest) :
    exec (.ceCommandStart ck) s = .next ((((s.setCore ck { s.core ck with
      fifo := rest, running := (s.core ck).running ++ [{ x with started := true, total := x.sends }] }).ceCheck ck x.id).retry
        ck).pushOnce (.ceCommandStart ck)) := by
  show execCeCommandStart ck s = _
  rw [execCeCommandStart]
  dsimp only
  rw [← sending, hx, hfifo]

theorem lineArrives_of_answered {cmd line : Nat} {again : Instr} (hq : s.lineRequest ck cmd line = none) :
    s.lineArrives ck cmd line again = s := by
  rw [State.lineArrives, hq]

theorem lineArrives_of_outstanding {cmd line : Nat} {again : Instr} {q : Req} (hq : s.lineRequest ck cmd line = some q) :
    s.lineArrives ck cmd line again = s.receive q.msg again := by
  rw [State.lineArrives, hq]

/-! ### The end of a command (R243-R246) -/

section
variable {id : Nat} {c : CeCmd}

/-- The engine may send a message to a queue at core `home`: one that leaves its core waits for the core's log (R220, R373). -/
def mayPush (s : State) (ck home : Nat) : Bool := (s.core ck).eMaySend && (decide (home = ck) || !s.logWaiting ck)

theorem not_mayPush_iff {home : Nat} :
    ¬ mayPush s ck home = true ↔ (!(s.core ck).eMaySend) = true ∨ some home ≠ some ck ∧ s.logWaiting ck = true := by
  simp only [mayPush, Bool.and_eq_true, Bool.or_eq_true, decide_eq_true_iff, Bool.not_eq_true', Classical.not_and_iff_not_or_not,
    not_or, Bool.not_eq_true, Bool.not_eq_false, ne_eq, Option.some_inj]

/-- The message of a command leaves under the serial set aside for it, and is not sent again (R243, R248). -/
def messageSent (s : State) (ck id : Nat) (c : CeCmd) (t q i : Nat) : State :=
  State.ceSent ck id ((s.updCmd ck id fun c => { c with messaged := true }).engineSendUnder ck c.pushSn (.group (gkOf (s.queueHome t q i)))
    (decide (s.queueHome t q i = ck)) (.push t q i (valOf c.m) c.mMark) 0 false)

theorem messagePush_of_finished {t q i : Nat} (hc : s.cmdOf ck id = some c) (hsent : c.sentAll = true) (hout : c.outstanding = [])
    (hmsg : c.messaged = false) (hcause : c.cause = 0) (hq : s.queueHandle (pidOf ck) c.b = some (t, q, i)) :
    exec (.copyqMessagePush ck id) s = .next (
      if mayPush s ck (s.queueHome t q i) = true then messageSent s ck id c t q i
      else s.pushOnce (.copyqMessagePush ck id)) := by
  have hhome : s.pushHome ck c = some (s.queueHome t q i) := by rw [State.pushHome, hq]; rfl
  show execCopyqMessagePush ck id s = _
  rw [execCopyqMessagePush, hc]
  dsimp only
  rw [if_neg (by simp [hmsg, hcause, hsent, hout]), hhome, hq]
  exact congrArg Host.Outcome.next ((ite_congr (propext not_mayPush_iff.symm) (fun _ => rfl) fun _ => rfl).trans (ite_not ..))

theorem commandComplete_of_finished (hc : s.cmdOf ck id = some c) (hsent : c.sentAll = true) (hout : c.outstanding = []) :
    exec (.ceCommandComplete ck id) s = .next (
      let s1 := (s.updCore ck fun k => { k with running := k.running.filter fun x => x.id != id }).sendNotices ck c
      ((if c.server = true then s1.serverDone ck c else s1.updStrand c.sid fun x => x.postCmd c).releaseRange ck id).pushOnce
        (.ceCommandStart ck)) := by
  show execCeCommandComplete ck id s = _
  rw [execCeCommandComplete, hc]
  exact congrArg Host.Outcome.next (if_neg (by simp [hsent, hout]))

end

/-! ### The reduction server (R252) -/

/-- A server runs at the core, and strand 15 is not frozen. -/
def Serving (s : State) (ck : Nat) : Prop := (s.core ck).serves = true ∧ (s.strand (sidOf ck 15)).st ≠ .frozen

theorem reductionTake_of_serving (hs : Serving s ck) : exec (.reductionTake ck) s = .next (
    match (s.core ck).red.phase with
    | .up => if (s.core ck).red.upFailed then s.redUp ck else s
    | .down =>
      let s1 := if (s.core ck).red.upFailed then s.redUp ck else s
      if (s.core ck).red.downFailed then s1.redDown ck (s.core ck).red.off (s.core ck).red.len else s1
    | _ => match (s.core ck).redIn with
      | [] => s
      | q :: r => s.redTake ck q r) := by
  obtain ⟨hserves, hfrozen⟩ := hs
  exact congrArg Host.Outcome.next (if_neg (by simp [hserves, hfrozen]))

theorem downwardReceive_eq {data : List (BitVec 32)} {marks : List Bool} {bar off : Nat} :
    exec (.reductionDownwardReceive ck data marks bar off) s = .next (
      let s1 := (s.placeMarked (some ck) (localFlat ck off) (bytesOf32 data) marks).countBarrier ck bar 0 (4 * data.length)
      if (s.core ck).serves = true ∧ (s.core ck).red.phase = .up then s1.redDown ck off (4 * data.length) else s1) := by
  refine congrArg Host.Outcome.next (ite_congr (propext ?_) (fun _ => rfl) fun _ => rfl)
  rw [Bool.and_eq_true]
  refine and_congr_right fun _ => ?_
  cases (s.core ck).red.phase <;> simp

theorem roundEnd_of_settled (hphase : (s.core ck).red.phase = .down) (hset : (s.core ck).red.settled = true) :
    exec (.reductionRoundEnd ck) s = .next ((s.updCore ck fun c => { c with red := RedState.reset }).pushOnce (.reductionTake ck)) := by
  show execReductionRoundEnd ck s = _
  rw [execReductionRoundEnd, hphase]
  exact congrArg Host.Outcome.next (if_pos hset)

theorem roundEnd_of_unsettled (hr : (s.core ck).red.phase ≠ .down ∨ (s.core ck).red.settled = false) :
    exec (.reductionRoundEnd ck) s = .next s := by
  refine congrArg Host.Outcome.next ?_
  split
  next hphase => exact if_neg (ne_true_of_eq_false (hr.resolve_left (not_not_intro hphase)))
  next => rfl

end

/-- Settles O41: the equations of the engine's and of the server's events, case by case. -/
theorem engineEventsComplete : Obligations.EngineEventsComplete := by
  unfold Obligations.EngineEventsComplete
  intro ck s
  refine ⟨⟨fun x => commandStart_of_sending, commandStart_of_idle, fun x rest => commandStart_of_fifo⟩,
    fun cmd line => ⟨fun hq => ?answered, fun q hq => ?outstanding⟩, fun bar => rfl,
    fun id c hc hsent hout => ⟨fun hmsg hcause t q i hq => ?message, fun hstrand => ?posted, fun hserver => ?done⟩,
    fun q r hserves hfrozen hphase hin => ?take, fun data marks bar off => downwardReceive_eq,
    fun hserves hfrozen hphase => ?up, fun hserves hfrozen hphase => ?down, roundEnd_of_settled, roundEnd_of_unsettled⟩
  case answered => exact ⟨congrArg _ (lineArrives_of_answered hq), congrArg _ (lineArrives_of_answered hq)⟩
  case outstanding => exact ⟨congrArg _ (lineArrives_of_outstanding hq), congrArg _ (lineArrives_of_outstanding hq)⟩
  case message =>
    rw [messagePush_of_finished hc hsent hout hmsg hcause hq]
    exact ⟨fun hmay => congrArg _ (if_pos hmay), fun hmay => congrArg _ (if_neg (ne_true_of_eq_false hmay))⟩
  case posted => rw [commandComplete_of_finished hc hsent hout, hstrand]; rfl
  case done => rw [commandComplete_of_finished hc hsent hout, hserver]; rfl
  case take =>
    rw [reductionTake_of_serving ⟨hserves, hfrozen⟩, hin]
    rcases hphase with hphase | hphase <;> rw [hphase]
  case up => rw [reductionTake_of_serving ⟨hserves, hfrozen⟩, hphase]
  case down => rw [reductionTake_of_serving ⟨hserves, hfrozen⟩, hphase]

end Sys2Proof.EngineEvents
end

section
/-! PROOFS. Effects that the executing word performs at its own core: the atomics on the core's own store (O21) and the pushes to the copy
engine (O23). One lemma runs either trigger once its gates are open; each word is then an instance of it. -/

namespace Sys2Proof.LocalEffects

open Sys2Proof.Machine Sys2Proof.Claims Sys2Proof.Laws

section
variable {s s1 s2 s3 : State} {h : Hdr} {k : State → State}

/-- A task that holds no set defers nothing. -/
theorem deferGate_of_unheld {src : Reg} {extra : List Reg} {ls : List Latch} (hs : s.heldSets s.cur = 0) :
    deferGate s src extra ls k = k s := by
  rw [deferGate]
  split
  · rfl
  · exact if_pos hs

/-! ### Atomics on the core's own store -/

section
variable {la : BitVec 4} {c : CSrc} {op : AtOp} {red : Bool} {a o x : Reg} {flat n : Nat} {rest : List (Nat × Nat)}

/-- The latches that an atomic consumes (Table 9-4). -/
def atLatches (op : AtOp) : List Latch := if op = .cas64 then [.atO, .lsD] else [.atO]

/-- An atomic with the new content `new` and the old content `v` for its result has its place at `flat` in the state `t`, and its result
is in flight (R225, R227). -/
def atomicTaken (la : BitVec 4) (red : Bool) (a : Reg80) (flat n : Nat) (new : Option Nat) (v : BitVec 64) (mark : Bool) (t : State) : State :=
  let s1 := match new with
    | some m => t.placeNum (some t.cur) flat n m mark
    | none => t
  (s1.asEffect.launchVar .at la .none 0 0 (!red) false (if red then [] else .latch .atR (mk0 v (t.marked flat)) ::
    if t.marked flat then [.pe t.ctx.pc a] else [])).push (.variableResultLand t.cur t.me.seq)

/-- The place that an atomic takes on the core's own store. -/
def ownTaken (la : BitVec 4) (op : AtOp) (red : Bool) (a o x : Reg) (flat : Nat) (s : State) : State :=
  let t := s.sense (some s.myCk) (flat / 128)
  let m := t.load flat (atSize op)
  atomicTaken la red a.v flat (atSize op) (atNew op m o.val x.val) (atResult op m) (atMark op (operandMark op o x) (t.marked flat)) t

theorem atIssue_own (hlocal : isLocalFlat flat = true) (hown : ckOfFlat flat = s.myCk) :
    atIssue s la op red a o x false (.mem ((flat, n) :: rest)) = ownTaken la op red a o x flat s := by
  unfold atIssue
  refine (if_pos (by simp [hlocal, hown])).trans ?_
  dsimp only [List.headD_cons]
  split <;> rfl

/-- An atomic of a task that holds no set is neither deferred nor logged. -/
theorem atSets_of_unheld {ps : List (Nat × Nat)} (hheld : s.heldSets s.cur = 0) :
    atSets s la op red a o x (.mem ps) = (atIssue s la op red a o x false (.mem ps)).consumeAll (atLatches op) := by
  unfold atSets
  cases s.me.task with
  | none => exact deferGate_of_unheld hheld
  | some i => exact if_pos hheld

theorem atTrigger_own (hg : guardTrue s.ctx h.guard = true) (hc : ReadsC s c a s1) (hs : Starts s1 s2) (hp : a.p = false)
    (h4 : classOf a.v ≠ 4) (h5 : classOf a.v ≠ 5) (h7F : classOf a.v ≠ 0x7F)
    (hr : Reaches s2 a (atSize op) (atSize op) true false ((flat, n) :: rest) s3) (hw : red = false → WindowFree s3 1)
    (hheld : s3.heldSets s3.cur = 0) (hlocal : isLocalFlat flat = true) (hown : ckOfFlat flat = s3.myCk) :
    atTrigger h la op red c s =
      (ownTaken la op red a (s1.ctx.latch .atO) (s1.ctx.latch .lsD) flat s3).consumeAll (atLatches op) := by
  rw [atTrigger, Scalar.guarded_readC hg hc, atRun, hs, if_neg (ne_true_of_eq_false hp), if_neg (by simp [h4, h5, h7F]), hr,
    ← atIssue_own hlocal hown, ← atSets_of_unheld hheld]
  cases hred : red with
  | false => exact (if_neg Bool.false_ne_true).trans (windowGate_free _ _ _ (hw hred))
  | true => exact if_pos rfl

end

/-! ### Pushes to the copy engine -/

section
variable {op : Nat} {q : Fin 4} {a : CeArgs} {runs : List CeRun} {ts : List Nat}

/-- The FIFO and the strand's count have room for one more command (R236, R238). -/
abbrev FifoRoom (s : State) : Prop := (s.core s.myCk).fifo.length < 16 ∧ s.me.ceOut.length + s.me.ceDone.length < 16

/-- The ranges of a command find places among the 32 of the scoreboard (R192). -/
abbrev RangeRoom (s : State) (op : Nat) (runs : List CeRun) (ts : List Nat) : Prop :=
  (s.core s.myCk).ranges.length + (s.ceRanges op (s.core s.myCk).nextCmd runs ts).length ≤ 32

theorem pushFull_iff : s.pushFull = true ↔ ¬ FifoRoom s := by
  simp only [State.pushFull, FifoRoom, Bool.or_eq_true, decide_eq_true_iff]
  omega

/-- A push is accepted where the FIFO, the strand's count and the scoreboard have room. -/
theorem accepts_iff : ¬ (s.pushFull = true ∨ 32 < (s.core s.myCk).ranges.length + (s.ceRanges op (s.core s.myCk).nextCmd runs ts).length) ↔
    FifoRoom s ∧ RangeRoom s op runs ts := by
  rw [not_or, pushFull_iff, Classical.not_not, Nat.not_lt, RangeRoom]

/-- The command that a push of the executing strand enters under the core's next number. -/
def pushedCmd (s : State) (a : CeArgs) (runs : List CeRun) (ts : List Nat) : CeCmd :=
  { id := (s.core s.myCk).nextCmd, sid := s.cur, num := s.me.ceCount + 1, op := a.op, prio := a.prio, s := a.s.v, d := a.d.v, n := a.n.v,
    b := a.b.v, m := a.m.v, mMark := a.m.p, runs := runs, targets := ts, started := false, total := 0, next := 0, acked := [],
    outstanding := [], cause := 0, poisoned := false, messaged := false, server := false, buf := [], pushSn := none }

/-- A command stands last in the FIFO of the core and is counted as one of the strand's, and its ranges are held (R192, R236). -/
def pushed (s : State) (c : CeCmd) (rs : List Range) : State :=
  let s1 := s.updCore s.myCk fun k => { k with fifo := k.fifo ++ [c], nextCmd := k.nextCmd + 1, ranges := k.ranges ++ rs }
  (s1.updMe fun x => { x with ceCount := x.ceCount + 1, ceOut := x.ceOut ++ [c.id] }.stepped 1 (x.ceCount + 1)).pushOnce (.ceCommandStart s.myCk)

theorem acceptPush_of_room (hroom : FifoRoom s ∧ RangeRoom s a.op runs ts) :
    s.acceptPush a runs ts = some (pushed s (pushedCmd s a runs ts) (s.ceRanges a.op (s.core s.myCk).nextCmd runs ts)) :=
  if_neg (accepts_iff.mpr hroom)

theorem acceptPush_of_noRoom (hroom : ¬ (FifoRoom s ∧ RangeRoom s a.op runs ts)) : s.acceptPush a runs ts = none :=
  if_pos (Classical.not_not.mp (mt accepts_iff.mp hroom))

theorem pushWait_of_fifo (hfifo : ¬ FifoRoom s) : s.pushWait a runs ts = .engine :=
  if_neg (by simp [pushFull_iff.mpr hfifo])

theorem pushWait_of_ranges (hfifo : FifoRoom s) (hranges : ¬ RangeRoom s a.op runs ts) : s.pushWait a runs ts = .scoreboard := by
  have hfull : ¬ s.pushFull = true := mt pushFull_iff.mp (not_not_intro hfifo)
  exact if_pos (by simpa [hfull, RangeRoom] using hranges)

/-- The operands of a push in class `q`, as its latches hold them. -/
def ceArgs (s : State) (op : Nat) (q : Fin 4) : CeArgs :=
  { op := op, prio := q.val, s := s.ctx.latch .ceS, d := s.ctx.latch .ceD, n := s.ctx.latch .ceN, b := s.ctx.latch .ceB, m := s.ctx.latch .ceM }

theorem cePush_of_bad {cause : Nat} {p : Reg80} (hg : guardTrue s.ctx h.guard = true) (hs : Starts s s1)
    (hplan : s1.cePlan (ceArgs s op q) = .bad cause p) :
    cePush h op q s = if cause = causePoison then s1.faultPoison p else s1.faultAddr cause p := by
  rw [cePush, guarded_of_true _ hg]
  dsimp only
  rw [hs, ← ceArgs, hplan]

section
variable (hg : guardTrue s.ctx h.guard = true) (hs : Starts s s1) (hplan : s1.cePlan (ceArgs s op q) = .ok runs ts)
  (hset : s1.ceSetBad op runs ts = false) (hheld : s1.heldSets s1.cur = 0)
include hg hs hplan hset hheld

/-- A push that passes its checks is accepted, or its bundle waits. -/
theorem cePush_of_ok : cePush h op q s =
    (s1.acceptPush (ceArgs s op q) runs ts).elim (s1.hold .stalledLA (s1.pushWait (ceArgs s op q) runs ts) s1.me.ceiling)
      (State.consumeAll · ceLatches) := by
  rw [cePush, guarded_of_true _ hg]
  dsimp only
  rw [hs, ← ceArgs, hplan]
  dsimp only
  rw [hset, if_neg Bool.false_ne_true, deferGate_of_unheld hheld]
  cases s1.acceptPush (ceArgs s op q) runs ts <;> rfl

theorem cePush_of_room (hroom : FifoRoom s1 ∧ RangeRoom s1 op runs ts) : cePush h op q s =
    (pushed s1 (pushedCmd s1 (ceArgs s op q) runs ts) (s1.ceRanges op (s1.core s1.myCk).nextCmd runs ts)).consumeAll ceLatches := by
  rw [cePush_of_ok hg hs hplan hset hheld, acceptPush_of_room (a := ceArgs s op q) hroom]
  rfl

theorem cePush_of_noRoom (hroom : ¬ (FifoRoom s1 ∧ RangeRoom s1 op runs ts)) : cePush h op q s =
    s1.hold .stalledLA (s1.pushWait (ceArgs s op q) runs ts) s1.me.ceiling := by
  rw [cePush_of_ok hg hs hplan hset hheld, acceptPush_of_noRoom (a := ceArgs s op q) hroom]
  rfl

end

end

end

/-- Settles O21: with its gates open each word is `atTrigger` with its operation, and takes its place at its location. -/
theorem localAtomicResults : Obligations.LocalAtomicResults := by
  unfold Obligations.LocalAtomicResults
  intro atomic both sext zext lo signed add32 add64 fadd32 fadd16
  have own {C n red new result mark ls} (op : AtOp) (hC : ∀ h la c s, exec (C h la c) s = .next (atTrigger h la op red c s) := by intros; rfl)
      (hsize : atSize op = n := by rfl) (hnew : ∀ m o x, atNew op m o x = new m o x := by intros; rfl)
      (hresult : ∀ m, atResult op m = result m := by intros; rfl)
      (hmark : ∀ o x p, atMark op (operandMark op o x) p = mark o x p := by intros; rfl) (hls : atLatches op = ls := by rfl) :
      atomic C n red new result mark ls := by
    subst hsize hls
    intro h la c s s1 s2 s3 a flat rest hg hc hs hp h4 h5 h7F hr hw hheld hlocal hown o x t m s4
    rw [hC, atTrigger_own hg hc hs hp h4 h5 h7F hr hw hheld hlocal hown]
    simp only [s4, ← hnew, ← hresult, ← hmark]
    rfl
  -- `atomic` is made opaque, so that each word below is matched argument by argument.
  clear_value atomic
  exact ⟨own .add32, own .add64, own .fadd32, own .fadd16b, own .min32, own .max32, own .minu32, own .maxu32, own .and64, own .or64,
    own .xor64, own .swp64, own .cas64, own .finc, own .add32, own .add64, own .fadd32, own .fadd16b⟩

/-- Settles O23: the seven words are `cePush` with their index; a push that passes its checks enters where there is room. -/
theorem enginePushesAccepted : Obligations.EnginePushesAccepted := by
  unfold Obligations.EnginePushesAccepted
  intro push
  have accepted {C} (op : Nat) (hC : ∀ h q s, exec (C h q) s = .next (cePush h op q s) := by intros; rfl) : push C op := by
    intro h q s s1 hg hs a
    refine ⟨fun cause p hplan => ?bad, fun runs ts hplan hset hheld => ⟨fun hroom => ?enters, fun hroom => ?waits⟩⟩
    case bad => rw [hC, cePush_of_bad hg hs hplan]
    case enters =>
      rw [hC, cePush_of_room hg hs hplan hset hheld (and_assoc.mpr hroom)]
      rfl
    case waits =>
      have hnone := mt and_assoc.mp hroom
      rw [hC, cePush_of_noRoom hg hs hplan hset hheld hnone]
      dsimp only
      by_cases hfifo : FifoRoom s1
      · rw [pushWait_of_ranges (a := ceArgs s op q) hfifo fun hranges => hnone ⟨hfifo, hranges⟩, if_neg (not_not_intro hfifo)]
      · rw [pushWait_of_fifo hfifo, if_pos hfifo]
  exact ⟨accepted 0, accepted 1, accepted 2, accepted 3, accepted 4, accepted 5, accepted 6⟩

end Sys2Proof.LocalEffects
end

section
/-! PROOFS. Remote effect messages: what an owner does with a message and with an access of another module (O42), and what a requester does
with what comes back or stays away (O43). The lemmas follow the tests of the model in their order; each obligation joins them. -/

namespace Sys2Proof.RemoteEffects

open Sys2Proof.Machine

section
variable {s : State} {m : Msg} {again : Instr}

/-! ### A message on its way to its owner (R378, R379, R404) -/

theorem receive_of_module {n : Nat} (hw : m.owner = .module n) :
    s.receive m again = { s with outbox := s.outbox ++ [(Config.valsenPort n, m)] } := by
  rw [State.receive, hw]

theorem receive_of_inside (hw : ∀ n, m.owner ≠ .module n) : s.receive m again =
    if s.ownerState m.owner = 3 ∨ s.ownerGone m.owner = true then s
    else if m.tok ≠ 0 ∧ s.routerFetches m.origin m.owner = true then s.pushOnce again
    else if m.tok ≠ 0 ∧ s.reach m.origin m.owner = .moved then s.sendReply m 0 (.replyMoved m.origin m.seq)
    else if m.tok ≠ 0 ∧ s.reach m.origin m.owner = .lost then s
    else s.receiveHere m again := by
  unfold State.receive
  split
  next n hn => exact absurd hn (hw n)
  next => rfl

theorem receive_of_noPlace (hw : ∀ n, m.owner ≠ .module n) (hgone : s.ownerState m.owner = 3 ∨ s.ownerGone m.owner = true) :
    s.receive m again = s := by
  rw [receive_of_inside hw, if_pos hgone]

section
variable (hw : ∀ n, m.owner ≠ .module n) (hstate : s.ownerState m.owner ≠ 3) (hgone : s.ownerGone m.owner = false)
include hw hstate hgone

theorem receive_of_place : s.receive m again =
    if m.tok ≠ 0 ∧ s.routerFetches m.origin m.owner = true then s.pushOnce again
    else if m.tok ≠ 0 ∧ s.reach m.origin m.owner = .moved then s.sendReply m 0 (.replyMoved m.origin m.seq)
    else if m.tok ≠ 0 ∧ s.reach m.origin m.owner = .lost then s
    else s.receiveHere m again := by
  rw [receive_of_inside hw, if_neg (by simp [hstate, hgone])]

theorem receive_of_fetching (ht : m.tok ≠ 0) (hf : s.routerFetches m.origin m.owner = true) : s.receive m again = s.pushOnce again := by
  rw [receive_of_place hw hstate hgone, if_pos ⟨ht, hf⟩]

theorem receive_of_moved (ht : m.tok ≠ 0) (hf : s.routerFetches m.origin m.owner = false) (hr : s.reach m.origin m.owner = .moved) :
    s.receive m again = s.sendReply m 0 (.replyMoved m.origin m.seq) := by
  rw [receive_of_place hw hstate hgone, if_neg (by simp [hf]), if_pos ⟨ht, hr⟩]

theorem receive_of_lost (ht : m.tok ≠ 0) (hf : s.routerFetches m.origin m.owner = false) (hr : s.reach m.origin m.owner = .lost) :
    s.receive m again = s := by
  rw [receive_of_place hw hstate hgone, if_neg (by simp [hf]), if_neg (by simp [hr]), if_pos ⟨ht, hr⟩]

theorem receive_of_here (hhere : m.tok = 0 ∨ s.routerFetches m.origin m.owner = false ∧ s.reach m.origin m.owner = .here) :
    s.receive m again = s.receiveHere m again := by
  rw [receive_of_place hw hstate hgone]
  obtain ht | ⟨hf, hr⟩ := hhere
  · simp only [ht, ne_eq, not_true_eq_false, false_and, if_false]
  · simp [hf, hr]

end

/-! ### A message at its owner (R228) -/

/-- A message is held at its owner: by its group, by a move of its core, or by a partition that is asked to yield. -/
def heldHere (s : State) (m : Msg) : Bool := s.localHeld m || s.opMoving m.op || s.opYields m.op

theorem heldHere_iff : heldHere s m = true ↔ s.localHeld m = true ∨ s.opMoving m.op = true ∨ s.opYields m.op = true := by
  simp only [heldHere, Bool.or_eq_true, or_assoc]

/-- The owner has retired the entries below the floor of a message. -/
def retired (s : State) (m : Msg) : State := (s.senseOwner m.owner 6).updOwner m.owner fun o => o.retire (s.msgPid m) m.tok m.floor

/-- The entry that answers a message. -/
def entryFor (s : State) (m : Msg) : Option CacheEnt := ((retired s m).owner m.owner).entryOf (s.msgPid m) m.tok m.sn

theorem receiveHere_of_held (hheld : heldHere s m = true) : s.receiveHere m again = s.waitAt m again :=
  if_pos (heldHere_iff.mp hheld)

theorem receiveHere_of_local (hfree : heldHere s m = false) (ht : m.tok = 0) : s.receiveHere m again = s.runLocal m :=
  (if_neg (mt heldHere_iff.mpr (ne_true_of_eq_false hfree))).trans (if_pos ht)

section
variable (hfree : heldHere s m = false) (ht : m.tok ≠ 0)
include hfree ht

theorem receiveHere_of_token : s.receiveHere m again =
    (entryFor s m).elim
      (if snBefore m.sn m.floor = true then retired s m
        else if asksCommit m.op = true then (retired s m).decideCommit ((originStrand m.origin).getD 0) m again
        else if ((retired s m).owner m.owner).full (s.msgPid m) m.tok = true ∨ (retired s m).opLogFull m.op = true then
          (retired s m).sendReply m 0 (.replyBusy m.origin m.seq)
        else (retired s m).runMessage (s.msgPid m) m)
      fun e => (retired s m).sendReply m (replyBytes e.reply) (answerOf m e.kind e.reply) := by
  rw [State.receiveHere]
  refine (if_neg (mt heldHere_iff.mpr (ne_true_of_eq_false hfree))).trans ((if_neg ht).trans ?_)
  dsimp only
  rw [← retired, ← entryFor]
  cases entryFor s m <;> rfl

theorem receiveHere_of_entry {e : CacheEnt} (he : entryFor s m = some e) :
    s.receiveHere m again = (retired s m).sendReply m (replyBytes e.reply) (answerOf m e.kind e.reply) := by
  rw [receiveHere_of_token hfree ht, he]
  rfl

section
variable (he : entryFor s m = none)
include he

theorem receiveHere_of_below (hb : snBefore m.sn m.floor = true) : s.receiveHere m again = retired s m := by
  rw [receiveHere_of_token hfree ht, he]
  exact if_pos hb

variable (hb : snBefore m.sn m.floor = false)
include hb

theorem receiveHere_of_commit (hc : asksCommit m.op = true) :
    s.receiveHere m again = (retired s m).decideCommit ((originStrand m.origin).getD 0) m again := by
  rw [receiveHere_of_token hfree ht, he]
  exact (if_neg (ne_true_of_eq_false hb)).trans (if_pos hc)

variable (hc : asksCommit m.op = false)
include hc

theorem receiveHere_of_new : s.receiveHere m again =
    if (((retired s m).owner m.owner).full (s.msgPid m) m.tok || (retired s m).opLogFull m.op) = true then
      (retired s m).sendReply m 0 (.replyBusy m.origin m.seq)
    else (retired s m).runMessage (s.msgPid m) m := by
  rw [receiveHere_of_token hfree ht, he]
  refine (if_neg (ne_true_of_eq_false hb)).trans ((if_neg (ne_true_of_eq_false hc)).trans ?_)
  simp only [Bool.or_eq_true]

end

end

/-! ### Execution (R228) -/

section
variable {pid : Nat} {s2 : State}

theorem runMessage_of_busy (hx : s.execOp m = (.busy, s2)) : s.runMessage pid m = s2.sendReply m 0 (.replyBusy m.origin m.seq) := by
  rw [State.runMessage, hx]

theorem runMessage_of_done {r : Reply} (hx : s.execOp m = (.done r, s2)) : s.runMessage pid m =
    ((s2.updOwner m.owner fun o => o.keep pid m.tok m.sn .result r).logIncoming m r).sendReply m (replyBytes r)
      (.replyResult m.origin m.seq r) := by
  rw [State.runMessage, hx]

theorem runMessage_of_refuse {c : Nat} (hx : s.execOp m = (.refuse c, s2)) : s.runMessage pid m =
    ((s2.updOwner m.owner fun o => o.keep pid m.tok m.sn (.refuse c) ackReply).logIncoming m ackReply).sendReply m 0
      (.replyRefuse m.origin m.seq c) := by
  rw [State.runMessage, hx]

end

end

/-! ### Accesses of another module (R178, R228, R373) -/

section
variable {s : State} {acc : ModAccess} {w : Owner} {ck : Option Nat} {k : State → State}

/-- The owner has retired the entries below the floor of an access. -/
def accessRetired (s : State) (acc : ModAccess) (w : Owner) : State :=
  s.updOwner w fun o => o.retire (modulePid acc.fromModule) (BitVec.ofNat 40 acc.tok) (BitVec.ofNat 32 acc.floor)

theorem accessAt_of_below (hb : snBefore (BitVec.ofNat 32 acc.sn) (BitVec.ofNat 32 acc.floor) = true) :
    s.accessAt acc w ck k = accessRetired s acc w := if_pos hb

section
variable (hb : snBefore (BitVec.ofNat 32 acc.sn) (BitVec.ofNat 32 acc.floor) = false)
include hb

theorem accessAt_of_entry {e : CacheEnt} (he : (accessRetired s acc w).modEntry acc = some e) :
    s.accessAt acc w ck k = (accessRetired s acc w).answerModule acc e.kind.answer e.reply := by
  rw [State.accessAt]
  refine (if_neg (ne_true_of_eq_false hb)).trans ?_
  rw [← accessRetired, he]

theorem accessAt_of_new (he : (accessRetired s acc w).modEntry acc = none) : s.accessAt acc w ck k =
    if (((accessRetired s acc w).owner w).full (modulePid acc.fromModule) (BitVec.ofNat 40 acc.tok) ||
        ck.any fun c => ((accessRetired s acc w).core c).logFull) = true then
      (accessRetired s acc w).answerModule acc .busy ackReply
    else k (accessRetired s acc w) := by
  rw [State.accessAt]
  refine (if_neg (ne_true_of_eq_false hb)).trans ?_
  rw [← accessRetired, he]
  simp only [Bool.or_eq_true]

end

theorem access_of_error {c : Nat} (hps : s.modAll acc.peer acc acc.offs = .error c) : exec (.remoteModuleAccess acc) s = .next (
    if (!(s.part acc.peer).live) = true then s.answerModule acc (.refuse c) ackReply
    else s.accessAt acc (.group (acc.peer * 2 ^ 22)) none fun s =>
      (s.updOwner (.group (acc.peer * 2 ^ 22)) fun o =>
        o.keep (modulePid acc.fromModule) (BitVec.ofNat 40 acc.tok) (BitVec.ofNat 32 acc.sn) (.refuse c) ackReply).answerModule acc
          (.refuse c) ackReply) := by
  show execRemoteModuleAccess acc s = _
  rw [execRemoteModuleAccess, hps]

theorem access_of_ok {ps : List (Nat × Nat)} (hps : s.modAll acc.peer acc acc.offs = .ok ps) : exec (.remoteModuleAccess acc) s = .next (
    let a := (ps.headD (0, 0)).1
    if s.accessWaits a = true then s.pushOnce (.remoteModuleAccess acc)
    else s.accessAt acc (ownerOfFlat a) (if isLocalFlat a = true then some (ckOfFlat a) else none) fun s =>
      let r := s.execAccess acc (ownerOfFlat a) ps
      if isLocalFlat a = true then
        (r.2.logRec (ckOfFlat a) (.incoming (accessMsg acc (ownerOfFlat a)) r.1)).pushOnce (.remoteModuleAccess acc)
      else r.2.answerModule acc .result r.1) := by
  show execRemoteModuleAccess acc s = _
  rw [execRemoteModuleAccess, hps]

end

/-! ### The Cascade (R181) -/

section
variable {s : State} {pid rk : Nat}

theorem cascadeApply_of_none (hst : (s.part pid).cascLog[(s.region rk).cascN]? = none) : exec (.cascadeApply pid rk) s = .next s := by
  show execCascadeApply pid rk s = _
  rw [execCascadeApply]
  dsimp only
  rw [hst]

theorem cascadeApply_of_some {st : ReplStore} (hst : (s.part pid).cascLog[(s.region rk).cascN]? = some st) :
    exec (.cascadeApply pid rk) s = .next (
      let s1 := (s.applyRepl pid rk st).updRegion rk fun r => { r with cascN := (s.region rk).cascN + 1 }
      (if s.rkOf (ckOf st.sid) = rk then s1.arrive st.sid st.seq [] else s1).pushOnce (.cascadeApply pid rk)) := by
  show execCascadeApply pid rk s = _
  rw [execCascadeApply]
  dsimp only
  rw [hst]

end

/-- Settles O42: each test of the way of a message, and of an access of another module, in its order. -/
theorem remoteExecutionComplete : Obligations.RemoteExecutionComplete := by
  unfold Obligations.RemoteExecutionComplete
  refine ⟨?message, ?access, fun w tok floor s => rfl, fun pid rk st s => ⟨rfl, cascadeApply_of_none, cascadeApply_of_some⟩⟩
  case message =>
    intro m s again out
    refine ⟨fun n hn => congrArg _ (receive_of_module hn), fun hw => ⟨fun hgone => congrArg _ (receive_of_noPlace hw hgone),
      fun hstate hgone => ⟨fun ht hf => congrArg _ (receive_of_fetching hw hstate hgone ht hf), fun ht hf =>
        ⟨fun hr => congrArg _ (receive_of_moved hw hstate hgone ht hf hr), fun hr => congrArg _ (receive_of_lost hw hstate hgone ht hf hr)⟩,
        fun hhere => ?_⟩⟩⟩
    have hout : out = .next (s.receiveHere m again) := congrArg _ (receive_of_here hw hstate hgone hhere)
    refine ⟨fun hheld => hout.trans (congrArg _ (receiveHere_of_held hheld)), fun hfree ht =>
      hout.trans (congrArg _ (receiveHere_of_local hfree ht)), fun hfree ht => ⟨fun e he => ?entry, fun he =>
        ⟨fun hb => hout.trans (congrArg _ (receiveHere_of_below hfree ht he hb)), fun hb hc =>
          hout.trans (congrArg _ (receiveHere_of_commit hfree ht he hb hc)), fun hb hc => ?new⟩⟩⟩
    case entry =>
      have hanswer := hout.trans (congrArg _ (receiveHere_of_entry hfree ht he))
      refine ⟨fun hk => hanswer.trans ?_, fun c hk => hanswer.trans ?_⟩ <;> rw [hk] <;> rfl
    case new =>
      have hnew := hout.trans (congrArg _ (receiveHere_of_new hfree ht he hb hc))
      refine ⟨fun hfull => hnew.trans (congrArg _ (if_pos hfull)), fun hfull s2 => ?_⟩
      have hrun := hnew.trans (congrArg _ (if_neg (ne_true_of_eq_false hfull)))
      exact ⟨fun hx => hrun.trans (congrArg _ (runMessage_of_busy hx)), fun r hx => hrun.trans (congrArg _ (runMessage_of_done hx)),
        fun c hx => hrun.trans (congrArg _ (runMessage_of_refuse hx))⟩
  case access =>
    intro acc s key tok sn floor out answered
    have found {w ck run} (k : State → State) (hout : out = .next (s.accessAt acc w ck k)) (hrun : ∀ t, run t = .next (k t)) :
        answered w ck run := by
      refine ⟨fun hb => hout.trans (congrArg _ (accessAt_of_below hb)), fun hb e he => hout.trans (congrArg _ (accessAt_of_entry hb he)),
        fun hb he => ?_⟩
      have hnew := hout.trans (congrArg _ (accessAt_of_new hb he))
      exact ⟨fun hfull => hnew.trans (congrArg _ (if_pos hfull)), fun hfull =>
        hnew.trans ((congrArg _ (if_neg (ne_true_of_eq_false hfull))).trans (hrun _).symm)⟩
    refine ⟨fun c hps => ?refused, fun ps hps => ?placed⟩
    case refused =>
      have hout : out = _ := access_of_error hps
      refine ⟨fun hlive => hout.trans (congrArg _ (if_pos (by simp [hlive]))), fun hlive => ?_⟩
      exact found _ (hout.trans (congrArg _ (if_neg (by simp [hlive])))) fun _ => rfl
    case placed =>
      have hout : out = _ := access_of_ok hps
      dsimp only at hout
      refine ⟨fun hwaits => hout.trans (congrArg _ (if_pos hwaits)), fun hgoes hl => ?_, fun hgoes hl => ?_⟩
      · rw [if_neg (ne_true_of_eq_false hgoes), if_neg (ne_true_of_eq_false hl)] at hout
        exact found _ hout fun _ => congrArg _ (if_neg (ne_true_of_eq_false hl)).symm
      · rw [if_neg (ne_true_of_eq_false hgoes), if_pos hl] at hout
        exact found _ hout fun _ => congrArg _ (if_pos hl).symm

/-! ### The request that an event is for (R229, R232, R233) -/

section
variable {s : State} {o : Origin} {seq : Nat}

/-- A result reaches its strand, engine or host queue. -/
def resultReaches (s : State) (o : Origin) (seq : Nat) (q : Req) (r : Reply) : State :=
  match o with
  | .strand sid => s.strandReplied sid q r
  | .engine ck => s.engineReplied ck seq none r
  | .host h => s.hostReplied h seq false

/-- The requester of a request that is refused learns its cause. -/
def refusalReaches (s : State) (o : Origin) (seq : Nat) (q : Req) (c : Nat) : State :=
  match o with
  | .strand sid => s.strandRefused sid q c
  | .engine ck => s.engineReplied ck seq (some (engineCause (match q.msg.owner with | .module _ => true | _ => false) c)) ackReply
  | .host h => s.hostReplied h seq true

theorem replyResult_eq {r : Reply} : exec (.replyResult o seq r) s = .next ((s.request o seq).elim s fun q =>
    if s.replyWaits q = true then s.pushOnce (.replyResult o seq r) else resultReaches s o seq q r) := by
  show execReplyResult o seq r s = _
  rw [execReplyResult]
  split
  next hq => rw [hq, Option.elim_none]
  next q hq =>
    rw [hq, Option.elim_some]
    cases o <;> rfl

theorem replyRefuse_eq {c : Nat} : exec (.replyRefuse o seq c) s = .next ((s.request o seq).elim s fun q =>
    if s.replyWaits q = true then s.pushOnce (.replyRefuse o seq c) else s.refused o seq c) := by
  show execReplyRefuse o seq c s = _
  rw [execReplyRefuse]
  split
  next hq => rw [hq, Option.elim_none]
  next q hq => rw [hq, Option.elim_some]

theorem replyBusy_eq : exec (.replyBusy o seq) s = .next ((s.request o seq).elim s fun _ =>
    (((s.updReq o seq fun q => { q with last := s.now, busySince := some (q.busySince.getD s.now) }).pushOnce
      (.busyRetryTimer o seq)).pushOnce (.ownerBusyLimit o seq)).askEarly o) := by
  show execReplyBusy o seq s = _
  rw [execReplyBusy]
  split
  next hq => rw [hq, Option.elim_none]
  next q hq => rw [hq, Option.elim_some]

theorem replyMoved_eq : exec (.replyMoved o seq) s = .next ((s.request o seq).elim s fun q => s.resend o q) := by
  show execReplyMoved o seq s = _
  rw [execReplyMoved]
  split
  next hq => rw [hq, Option.elim_none]
  next q hq => rw [hq, Option.elim_some]

theorem busyRetryTimer_eq : exec (.busyRetryTimer o seq) s = .next ((s.request o seq).elim s fun q =>
    if s.now < q.last + 2000 then s.pushOnce (.busyRetryTimer o seq) else s.resend o q) := by
  show execBusyRetryTimer o seq s = _
  rw [execBusyRetryTimer]
  split
  next hq => rw [hq, Option.elim_none]
  next q hq => rw [hq, Option.elim_some]

theorem ownerBusyLimit_eq : exec (.ownerBusyLimit o seq) s = .next ((s.request o seq).elim s fun q => q.busySince.elim s fun t =>
    if t + 512000 ≤ s.now ∧ Instr.busyRetryTimer o seq ∈ s.agenda then
      ({ s with agenda := s.agenda.erase (.busyRetryTimer o seq) } : State).refused o seq causeOwnerBusy
    else s.pushOnce (.ownerBusyLimit o seq)) := by
  show execOwnerBusyLimit o seq s = _
  rw [execOwnerBusyLimit]
  split
  next hq => rw [hq, Option.elim_none]
  next q hq =>
    rw [hq, Option.elim_some]
    split
    next hb => rw [hb, Option.elim_none]
    next t hb => rw [hb, Option.elim_some]

theorem retransmitTimeout_eq : exec (.retransmitTimeout o seq) s = .next ((s.request o seq).elim s fun q =>
    if s.now < q.last + 64000 then s.pushOnce (.retransmitTimeout o seq)
    else if s.ownerState q.msg.owner = 1 ∨ s.ownerState q.msg.owner = 2 then s.resend o q
    else if 8 ≤ q.sends then s.refused o seq causeNoReply
    else (s.updReq o seq fun q => { q with sends := q.sends + 1 }).resend o q) := by
  show execRetransmitTimeout o seq s = _
  rw [execRetransmitTimeout]
  split
  next hq => rw [hq, Option.elim_none]
  next q hq => rw [hq, Option.elim_some]

theorem refused_of_request {q : Req} {c : Nat} (hq : s.request o seq = some q) : s.refused o seq c = refusalReaches s o seq q c := by
  rw [State.refused, hq]
  cases o <;> rfl

end

/-! ### The stash of tokens (R221) -/

section
variable {s : State} {ck : Nat}

theorem stashRefillRequest_of_idle (hr : (s.core ck).refilling = false) : exec (.stashRefillRequest ck) s = .next (s.serveStash ck) := by
  show execStashRefillRequest ck s = _
  rw [execStashRefillRequest]
  dsimp only
  rw [hr, if_pos (.inl Bool.not_false)]

theorem stashRefillRequest_of_refilling (hr : (s.core ck).refilling = true) (ha : (s.region (s.rkOf ck)).asking.contains ck = false)
    (hu : ∀ t, Instr.stashRefillAnswer ck t ∉ s.agenda) : exec (.stashRefillRequest ck) s =
      .next ((s.updRegion (s.rkOf ck) fun r => { r with asking := r.asking ++ [ck] }).serveTokens (s.rkOf ck)) := by
  show execStashRefillRequest ck s = _
  rw [execStashRefillRequest]
  dsimp only
  rw [hr, ha, if_neg]
  rintro (hidle | hasked | hunder)
  · exact Bool.false_ne_true hidle
  · exact Bool.false_ne_true hasked
  · obtain ⟨e, he, hck⟩ := List.any_eq_true.mp hunder
    split at hck
    next c t => exact hu t (beq_iff_eq.mp hck ▸ he)
    next => exact Bool.false_ne_true hck

end

/-! ### Invalidations (R334) -/

theorem tlbInvalidationArrival_eq {rk pid sid seq : Nat} {off : Option Nat} {s : State} :
    exec (.tlbInvalidationArrival rk pid off (sid, seq)) s = .next (
      let keep := fun (l : List TlbEntry) => l.filter fun e => !dropsEntry pid off e
      let here := (s.partCores pid).filter fun ck => s.rkOf ck = rk
      let s1 := here.foldl (fun s ck => s.updCore ck fun c => { c with tlb := keep c.tlb }) s
      let s2 := (s1.partGroups pid).foldl (fun s gk => if s.rkOfG gk = rk then s.updGroup gk fun g => { g with tlb := keep g.tlb } else s) s1
      let s3 := s2.updRegion rk fun r => { r with tlb := keep r.tlb }
      let s4 := ((here.flatMap coreStrands).foldl State.restartWalks s3).updStrand sid fun x =>
        { x with tlbinvOut := x.tlbinvOut.filter fun p => p != (seq, rk) }
      ((s4.strand sid).ctx.flights.filter fun f => !f.arrived && decide (f.pend = .pfence)).foldl
        (fun s f => s.pushOnce (.variableResultLand sid f.seq)) s4) := by
  refine congrArg Host.Outcome.next (congrArg (fun p => (List.filter p _).foldl _ _) (funext fun f => congrArg (!f.arrived && ·) ?_))
  cases f.pend <;> simp

/-- Settles O43: each event asks for its request first, and its cases are the tests of its equation. -/
theorem requesterEventsComplete : Obligations.RequesterEventsComplete := by
  unfold Obligations.RequesterEventsComplete
  refine ⟨fun o seq s hq r c i hi => ?none, ?some, fun ck t s => ⟨rfl, stashRefillRequest_of_idle, stashRefillRequest_of_refilling⟩,
    fun rk pid off sid seq s => tlbInvalidationArrival_eq⟩
  case none =>
    simp only [List.mem_cons, List.not_mem_nil, or_false] at hi
    rcases hi with rfl | rfl | rfl | rfl | rfl | rfl | rfl
    all_goals
      simp only [replyResult_eq, replyRefuse_eq, replyBusy_eq, replyMoved_eq, busyRetryTimer_eq, ownerBusyLimit_eq, retransmitTimeout_eq,
        hq, Option.elim_none]
  case some =>
    intro o seq q s hq refusedBy
    simp only [replyResult_eq, replyRefuse_eq, replyBusy_eq, replyMoved_eq, busyRetryTimer_eq, ownerBusyLimit_eq, retransmitTimeout_eq,
      hq, Option.elim_some]
    have hrefused (c : Nat) : s.refused o seq c = refusedBy s c := refused_of_request hq
    refine ⟨fun r c hw => ⟨congrArg _ (if_pos hw), congrArg _ (if_pos hw)⟩, fun r c hw => ?answered, trivial, trivial, trivial,
      fun hb => by rw [hb, Option.elim_none], fun t ht => ?limit, fun hlast => congrArg _ (if_pos hlast), fun hlast => ?timeout⟩
    case answered =>
      have hw := ne_true_of_eq_false hw
      exact ⟨congrArg _ (if_neg hw), congrArg _ ((if_neg hw).trans (hrefused c))⟩
    case limit =>
      rw [ht, Option.elim_some]
      exact ⟨fun hover => congrArg _ (if_pos hover), fun hnot => congrArg _ (if_neg hnot)⟩
    case timeout =>
      rw [if_neg (Nat.not_lt.mpr hlast)]
      refine ⟨fun hheld => congrArg _ (if_pos hheld), fun h1 h2 hs => ?again, fun h1 h2 hs => ?last⟩
      case again => rw [if_neg (by simp [h1, h2]), if_neg (Nat.not_le.mpr hs)]
      case last => rw [if_neg (by simp [h1, h2]), if_pos hs, hrefused]

end Sys2Proof.RemoteEffects
end

section
/-! PROOFS. The `sq` words of tasks: the ready queue (O26), and launches, decrements and the end of a task (O27). -/

namespace Sys2Proof.TaskWords

open Sys2Proof.Machine Sys2Proof.Claims Sys2Proof.Laws

section
variable {h : Hdr} {la : BitVec 4} {c : CSrc} {s s1 s2 : State} {a : Reg} {i : Instr} {t : State} {k : State → State} {kr : Reg → State → State}

/-! ### Gates -/

theorem needKernel_of_user (hm : s.mode s.cur = .user) : needKernel s k = s.faultWord causePrivilege := if_pos hm

/-- A word whose guard holds, whose source delivers and whose effect may start is what follows its gates. -/
theorem exec_of_effect (hi : exec i s = .next (guarded h s fun s => readC s c fun a s => effectGate s (kr a)))
    (hg : guardTrue s.ctx h.guard = true) (hc : ReadsC s c a s1) (hs : Starts s1 s2) (ht : kr a s2 = t) : exec i s = .next t := by
  rw [hi, Scalar.guarded_readC hg hc, hs, ht]

/-- The same for a word of kernel and supervisor strands. -/
theorem exec_of_kernelEffect
    (hi : exec i s = .next (guarded h s fun s => needKernel s fun s => readC s c fun a s => effectGate s (kr a)))
    (hg : guardTrue s.ctx h.guard = true) (hm : s.mode s.cur ≠ .user) (hc : ReadsC s c a s1) (hs : Starts s1 s2) (ht : kr a s2 = t) :
    exec i s = .next t := by
  rw [hi, guarded_of_true _ hg, MatrixUnit.needKernel_of_mode hm, hc, hs, ht]

/-! ### The ready queue (R265) -/

theorem rqNext_of_empty {q : Core} (hq : ∀ p < 4, q.rq.toList.getD p [] = []) : q.rqNext = none := by
  rw [Core.rqNext, List.findSome?_eq_none_iff]
  intro p hp
  have hp4 : p < 4 := by
    simp only [List.mem_cons, List.not_mem_nil, or_false] at hp
    omega
  rw [hq p hp4]

/-- The next record is the head of the highest priority that is not empty. -/
theorem rqNext_of_highest {q : Core} {p i : Nat} {rest : List Nat} (hp : p < 4) (hhead : q.rq.toList.getD p [] = i :: rest)
    (hhigh : ∀ p', p < p' → p' < 4 → q.rq.toList.getD p' [] = []) : q.rqNext = some (p, i) := by
  have hsplit : [3, 2, 1, 0] = ([3, 2, 1, 0].filter fun p' => p < p') ++ p :: [3, 2, 1, 0].filter fun p' => p' < p := by
    interval_cases p <;> rfl
  rw [Core.rqNext, hsplit, List.findSome?_append, List.findSome?_eq_none_iff.mpr fun p' hp' => ?_]
  · simp only [List.findSome?_cons, hhead, Option.none_or]
  · simp only [List.mem_filter, List.mem_cons, List.not_mem_nil, or_false, decide_eq_true_eq] at hp'
    rw [hhigh p' hp'.2 (by omega)]

/-- What `sq.rqpop` finds: nothing at a drained core (R386). -/
def popped (q : Core) : Option (Nat × Nat) := if q.drained then none else q.rqNext

theorem popped_of_empty {q : Core} (hq : q.drained = true ∨ ∀ p < 4, q.rq.toList.getD p [] = []) : popped q = none := by
  obtain hd | hq := hq
  · exact if_pos hd
  · rw [popped, rqNext_of_empty hq, ite_self]

theorem popped_of_highest {q : Core} {p i : Nat} {rest : List Nat} (hd : q.drained = false) (hp : p < 4)
    (hhead : q.rq.toList.getD p [] = i :: rest) (hhigh : ∀ p', p < p' → p' < 4 → q.rq.toList.getD p' [] = []) :
    popped q = some (p, i) :=
  (if_neg (ne_true_of_eq_false hd)).trans (rqNext_of_highest hp hhead hhigh)

/-- A record may be queued unless one of the checks of `sq.rqpush` refuses it. -/
theorem mayQueue_iff {t j st : Nat} {queued : Bool} : (t ≤ j ∨ ¬ (st = recSaved ∨ st = recReady) ∨ queued = true) ↔
    ¬ (j < t ∧ (st = recSaved ∨ st = recReady) ∧ queued = false) := by
  simp only [not_and_or, Nat.not_lt, Bool.not_eq_false]

/-- The record that `sq.rqpop` finds has left the queue, whose cell may be free. -/
def afterPop (s : State) : State :=
  (popped (s.core s.myCk)).elim s fun x => (s.updCore s.myCk fun c => c.rqDrop x.1).pokePool (gkOf s.myCk)

theorem rqpop_of_window (hg : guardTrue s.ctx h.guard = true) (hm : s.mode s.cur ≠ .user) (hs : Starts s s1) (hw : WindowFree s1 1) :
    exec (.sqRqpop h la) s = .next ((afterPop s1).sqLocal la true [.latch .sqR (mk0 (rqWord (popped (s1.core s1.myCk))) false)]) := by
  refine congrArg Host.Outcome.next ((guarded_of_true _ hg).trans ((MatrixUnit.needKernel_of_mode hm).trans ((hs _).trans ?_)))
  refine (windowGate_free _ _ _ hw).trans ?_
  dsimp only
  rw [afterPop, ← popped]
  cases popped (s1.core s1.myCk) <;> rfl

end

/-- Settles O26: the words are their checks in order, and a pop looks at the four priorities from the highest. -/
theorem readyQueueResults : Obligations.ReadyQueueResults := by
  unfold Obligations.ReadyQueueResults
  refine ⟨fun h la n c s hg hm => ?user, fun h la n c s s1 s2 a hg hm hc hs => ?push, fun h la s s1 hg hm hs hw => ⟨fun hempty => ?none, ?head⟩,
    fun h la c s s1 s2 a hg hm hc hs => ?prio⟩
  case user =>
    have refused {k} : Host.Outcome.next (guarded h s fun s => needKernel s k) = (.next (s.faultWord causePrivilege) : Res) := by
      rw [guarded_of_true _ hg, needKernel_of_user hm]
    exact ⟨refused, refused, refused⟩
  case push =>
    have run {t} := exec_of_kernelEffect (i := .sqRqpush h la n c) (t := t) rfl hg hm hc hs
    refine ⟨fun hp => run (if_pos hp), fun hp hmay => run ?_, fun hp hmay => run ?_⟩ <;> refine (if_neg (ne_true_of_eq_false hp)).trans ?_
    · exact if_pos (mayQueue_iff.mpr hmay)
    · exact if_neg (mt mayQueue_iff.mp (not_not_intro hmay))
  case none =>
    rw [rqpop_of_window hg hm hs hw, afterPop, popped_of_empty hempty]
    rfl
  case head =>
    intro p i rest hdrained hp hhead hhigh
    rw [rqpop_of_window hg hm hs hw, afterPop, popped_of_highest hdrained hp hhead hhigh]
    rfl
  case prio =>
    have run {t} := exec_of_kernelEffect (i := .sqRqprio h la c) (t := t) rfl hg hm hc hs
    refine ⟨fun hp => run (if_pos hp), fun hp ht => run ?_, fun hp ht h4 => run ?_, fun hp ht h4 => run ?_⟩ <;>
      refine (if_neg (ne_true_of_eq_false hp)).trans ?_
    · exact if_pos ht
    · exact (if_neg (Nat.not_le.mpr ht)).trans (if_pos h4)
    · exact (if_neg (Nat.not_le.mpr ht)).trans (if_neg (Nat.not_le.mpr h4))

/-! ### Effects of a task that holds a set (R300) -/

section
variable {a : Reg} {s t : State} {i : Nat} {k : State → State}

theorem length_leBytes (n v : Nat) : (leBytes n v).length = n := by
  induction n generalizing v with
  | zero => rfl
  | succ n ih => rw [leBytes, List.length_cons, ih]

theorem length_addrBytes (v : Reg80) : (addrBytes v).length = 10 := by
  rw [addrBytes, List.length_append, length_leBytes, length_leBytes]

/-- Where the next deferred entry of a task's undo log lies (Table 11-7). -/
def nextEntry (t : State) (i : Nat) : Nat :=
  let u := t.undoAt t.myCk i
  u + 64 + 144 * t.load (u + 4) 4 + 96 * t.load (localFlat t.myCk (64 * i + 30)) 2

/-- The bytes of the deferred entry of an `sq` trigger: its word, its source and the two latches (Table 11-7). -/
def sqEntry (t : State) (a : Reg) : List Byte :=
  leBytes 4 t.word.toNat ++ List.replicate 12 0 ++ addrBytes a.v ++ addrBytes (t.ctx.latch .sqD).v ++ addrBytes (t.ctx.latch .sqH).v ++
    List.replicate 50 0

/-- An `sq` trigger stands as the next deferred entry of the undo log of task `i`. -/
def sqDeferred (t : State) (a : Reg) (i : Nat) : State :=
  let e := nextEntry t i
  let t1 := t.place none { addr := e, data := sqEntry t a, mark := false }
  let r := localFlat t.myCk (64 * i + 30)
  (({ t1 with deferMarks := noteMarks t1.deferMarks (e + 16) [a.p, (t.ctx.latch .sqD).p, (t.ctx.latch .sqH).p] }).placeNum none r 2
    (t.load r 2 + 1) false).consumeAll sqLatches

theorem take_operands {l : List Byte} (hl : l.length = 30) : (l ++ List.replicate 80 (0 : Byte)).take 80 = l ++ List.replicate 50 0 := by
  rw [List.take_append, List.take_of_length_le (by omega), hl, List.take_replicate]
  rfl

/-- The three operands fill 30 of the 80 bytes that an entry has for them. -/
theorem sqEntry_eq : leBytes 4 t.word.toNat ++ List.replicate 12 (0 : Byte) ++
    ((addrBytes a.v ++ ([] : List Reg).flatMap (fun r => addrBytes r.v) ++ sqLatches.flatMap fun l => addrBytes (t.ctx.latch l).v) ++
      List.replicate 80 (0 : Byte)).take 80 = sqEntry t a := by
  rw [take_operands]
  · simp only [sqEntry, sqLatches, List.flatMap_nil, List.flatMap_cons, List.append_nil, List.append_assoc]
  · simp only [sqLatches, List.flatMap_nil, List.flatMap_cons, List.length_append, length_addrBytes, List.length_nil]

/-- A task that holds a set defers its `sq` triggers while its undo log has room for the entry. -/
theorem deferGate_of_held (ht : s.me.task = some i) (hheld : s.heldSets s.cur ≠ 0) (hs : Starts s t) :
    deferGate s a [] sqLatches k =
      if t.load (t.undoAt t.myCk i + 8) 4 ≤ t.load (localFlat t.myCk (64 * i + 30)) 2 then t.faultAddr causeUndo a.v
      else sqDeferred t a i := by
  rw [deferGate, ht]
  refine (if_neg hheld).trans ((hs _).trans ?_)
  dsimp only
  rw [sqEntry_eq]
  rfl

end

/-! ### Launches, decrements and the end of a task -/

section
variable {h : Hdr} {la : BitVec 4} {c : CSrc} {s s1 s2 s3 : State} {a : Reg} {ps : List (Nat × Nat)} {i : Nat}
  {kh : List Byte → State → State}

/-- A strand that may send does so at once. -/
theorem remoteOp_of_maySend {u : FUnit} {pend : Pend} {port : Bool} {w : Owner} {op : RemoteOp} (hm : MaySend s) :
    s.remoteOp u la pend port w (fun _ => op) = sent u la pend port w op s := by
  obtain ⟨htok, hdist, hout⟩ := hm
  exact (if_neg htok).trans (if_neg (by omega))

/-- A header that may be read, is not poisoned and is legal is what the launch goes on with (R260). -/
theorem spawnHeader_of_legal (hp : a.p = false)
    (hcls : classOf a.v = 0 ∨ (classOf a.v = 1 ∧ qualOf a.v = 0) ∨ classOf a.v = 2 ∨ classOf a.v = 3) (hr : ReachesHeader s a ps s1)
    (hmark : (s1.readPieces ps).2.1 = false)
    (hok : s1.hdrOk (pidOf s1.myCk) (s1.readPieces ps).1 (s1.gxOf s1.myCk) (s1.gyOf s1.myCk) (seatOf s1.myCk) = true) :
    spawnHeader s a kh = kh (s1.readPieces ps).1 (s1.readPieces ps).2.2 := by
  rw [spawnHeader, if_neg (by simp [hp, hcls]), hr]
  exact (if_neg (ne_true_of_eq_false hmark)).trans (if_pos hok)

theorem spawn_of_legal (hg : guardTrue s.ctx h.guard = true) (hc : ReadsC s c a s1) (hs : Starts s1 s2) (hp : a.p = false)
    (hcls : classOf a.v = 0 ∨ (classOf a.v = 1 ∧ qualOf a.v = 0) ∨ classOf a.v = 2 ∨ classOf a.v = 3) (hr : ReachesHeader s2 a ps s3)
    (hmark : (s3.readPieces ps).2.1 = false)
    (hok : s3.hdrOk (pidOf s3.myCk) (s3.readPieces ps).1 (s3.gxOf s3.myCk) (s3.gyOf s3.myCk) (seatOf s3.myCk) = true) :
    exec (.sqSpawn h la c) s = .next (deferGate (s3.readPieces ps).2.2 a [] sqLatches fun s =>
      windowGate s 1 fun s => spawnIssue s la (s3.readPieces ps).1) :=
  exec_of_effect rfl hg hc hs (spawnHeader_of_legal hp hcls hr hmark hok)

theorem dec_of_handle {ck : Nat} (hg : guardTrue s.ctx h.guard = true) (hc : ReadsC s c a s1) (hs : Starts s1 s2) (hp : a.p = false)
    (hh : s2.taskHandle (pidOf s2.myCk) a.v = some (ck, i)) :
    exec (.sqDec h la c) s = .next (deferGate s2 a [] sqLatches fun s => decIssue s la ck i) := by
  refine exec_of_effect rfl hg hc hs ((if_neg (ne_true_of_eq_false hp)).trans ?_)
  rw [hh]

/-- The record of the strand's task is ENDING, and none of its deferred effects is released yet (R269). -/
def ending (s : State) (i : Nat) : State := (s.setRecState s.myCk i recEnding).updMe fun x => { x with donePhase := 0 }

theorem endTask_of_over (heff : s.me.effect = none) (hreqs : s.me.reqs = []) (hdef : s.recField s.myCk i 30 2 = 0) (hout : s.me.ceOut = []) :
    s.endTask i = { s.finishTask s.cur i with held := true } := by
  rw [State.endTask]
  dsimp only
  rw [if_neg (by simp [heff, hreqs]), if_neg (by simp [hdef]), if_neg (not_not_intro hout)]

theorem find_ceFailed_of_none {l : List (BitVec 64 × Bool)} (hl : ∀ e ∈ l, bitsAt e.1 23 16 = 0) : l.find? ceFailed = none :=
  List.find?_eq_none.mpr fun e he => by simp [ceFailed, hl e he]

/-- `sq.done` of a task that is not ending ends it once the strand is quiet and its engine commands are over. -/
theorem done_of_quiet (hg : guardTrue s.ctx h.guard = true) (ht : s.me.task = some i) (hst : s.recState s.myCk i ≠ recEnding)
    (hlen : s.me.chunk.len = 0) (hq : s.me.quiet = true) (hpe : s.ctx.pe.set = false) (hout : s.me.ceOut = [])
    (hdone : ∀ e ∈ s.me.ceDone, bitsAt e.1 23 16 = 0) : exec (.sqDone h) s = .next ((ending s i).endTask i) := by
  refine Chunks.exec_of_guarded rfl hg ?_
  rw [ht]
  dsimp only
  rw [if_neg hst, Chunks.fenceGate_of_quiet hlen (Chunks.quiet_iff.mp hq), if_neg (ne_true_of_eq_false hpe), if_neg (not_not_intro hout),
    find_ceFailed_of_none hdone]
  rfl

end

/-- Settles O27: a task that holds no set issues its trigger, one that holds a set enters it in its undo log, and `sq.done` is `endTask` once
nothing is left to wait for. -/
theorem spawnDecDoneResults : Obligations.SpawnDecDoneResults := by
  unfold Obligations.SpawnDecDoneResults
  refine ⟨?spawn, ?dec, ⟨?spawnHeld, ?decHeld⟩, fun h s hg => ⟨fun ht => ?noTask, ?done⟩⟩
  case spawn =>
    intro h la c s s1 s2 s3 a ps hg hc hs hp hcls hr r hmark hok s4 hheld hw hsend
    rw [spawn_of_legal hg hc hs hp hcls hr hmark hok, LocalEffects.deferGate_of_unheld hheld, windowGate_free _ _ _ hw, spawnIssue,
      remoteOp_of_maySend hsend]
    rfl
  case dec =>
    intro h la c s s1 s2 a ck i hg hc hs hp hh hheld
    rw [dec_of_handle hg hc hs hp hh, LocalEffects.deferGate_of_unheld hheld, decIssue]
    refine ⟨fun hown => ?_, fun hfar hsend => ?_⟩
    · rw [if_pos hown]
      rfl
    · rw [if_neg hfar, remoteOp_of_maySend hsend]
      rfl
  case spawnHeld =>
    intro h la c s s1 s2 s3 s5 a ps hg hc hs hp hcls hr r hmark hok hheld _ hs5 i ht
    rw [spawn_of_legal hg hc hs hp hcls hr hmark hok, deferGate_of_held ht hheld hs5]
    exact ⟨fun hfull => congrArg _ (if_pos hfull), fun hroom => congrArg _ (if_neg (Nat.not_le.mpr hroom))⟩
  case decHeld =>
    intro h la c s s1 s2 s3 a ck i hg hc hs hp hh hheld _ hs3 j ht
    rw [dec_of_handle hg hc hs hp hh, deferGate_of_held ht hheld hs3]
    exact ⟨fun hfull => congrArg _ (if_pos hfull), fun hroom => congrArg _ (if_neg (Nat.not_le.mpr hroom))⟩
  case noTask =>
    refine Chunks.exec_of_guarded rfl hg ?_
    rw [ht]
  case done =>
    intro i ht hst hlen hq hpe hout hdone s1 heff hreqs hdef hout1
    rw [done_of_quiet hg ht hst hlen hq hpe hout hdone]
    exact congrArg _ (endTask_of_over heff hreqs hdef hout1)

end Sys2Proof.TaskWords
end

section
/-! PROOFS. The `sy` words and `vx.xchg` (O28): barriers, monitors, and the joins of a group. Each word is its gates, opened one by one, and
then what it does. -/

namespace Sys2Proof.SyncWords

open Sys2Proof.Machine Sys2Proof.Claims Sys2Proof.Laws

section
variable {h : Hdr} {la : BitVec 4} {c : CSrc} {s s1 s2 : State} {a : Reg} {ck i : Nat} {k : State → State}

/-- A word that no set may accompany goes on where the task holds none (R300). -/
theorem conflictGate_of_unheld {v : Reg80} (hheld : s.heldSets s.cur = 0) : conflictGate s v k = k s := if_pos hheld

/-! ### Named barriers (R271-R273) -/

/-- A source holds an unpoisoned handle of barrier `i` of core `ck`. -/
def Names (s : State) (a : Reg) (ck i : Nat) : Prop := a.p = false ∧ s.barrierHandle (pidOf s.myCk) a.v = some (ck, i)

section
variable {own : Bool} {kb : Nat → Nat → State → State}

theorem barrierGate_of_named (hn : Names s a ck i) :
    barrierGate s a own kb = if own = true ∧ ck ≠ s.myCk then s.faultAddr causeBarrier a.v else kb ck i s := by
  rw [barrierGate, if_neg (ne_true_of_eq_false hn.1), hn.2]

theorem barrierGate_of_may (hn : Names s a ck i) (hmay : own = false ∨ ck = s.myCk) : barrierGate s a own kb = kb ck i s := by
  rw [barrierGate_of_named hn, if_neg]
  rintro ⟨rfl, hfar⟩
  exact hmay.elim Bool.noConfusion hfar

theorem barrierGate_of_far (hn : Names s a ck i) (hfar : ck ≠ s.myCk) : barrierGate s a true kb = s.faultAddr causeBarrier a.v := by
  rw [barrierGate_of_named hn, if_pos ⟨rfl, hfar⟩]

end

theorem mayArm_iff {b : Barrier} {w : BitVec 64} : b.mayArm w = true ↔
    ¬ (b.st = .armed ∧ (b.arrA ≠ 0 ∨ b.arrB ≠ 0)) ∧ bitsAt w 47 0 ≠ 0 ∧ bitsAt w 63 49 = 0 := by
  simp only [Barrier.mayArm, Bool.and_eq_true, Bool.not_eq_true', ← Bool.not_eq_true, decide_eq_true_eq]

section
variable (hg : guardTrue s.ctx h.guard = true) (hc : ReadsC s c a s1) (hs : Starts s1 s2) (hn : Names s2 a ck i)
include hg hc hs hn

section
variable (hown : ck = s2.myCk)
include hown

/-- `sy.binit` of the own core arms the barrier or faults. -/
theorem binit_of_own : exec (.syBinit h la c) s = .next (
    if (s2.barrier ck i).mayArm (s2.ctx.latch .syA).val = true then
      (s2.putBarrier ck i ((s2.barrier ck i).arm (s2.ctx.latch .syA).val)).syLocal la false []
    else s2.faultAddr causeBarrier a.v) :=
  TaskWords.exec_of_effect rfl hg hc hs (barrierGate_of_may hn (.inr hown))

theorem inval_of_own : exec (.syInval h la c) s = .next ((s2.putBarrier ck i (s2.barrier ck i).inval).syLocal la false []) :=
  TaskWords.exec_of_effect rfl hg hc hs (barrierGate_of_may hn (.inr hown))

theorem test_of_badPhase (hph : 2 ≤ (s2.ctx.latch .syB).val.toNat) : exec (.syTest h la c) s = .next (s2.faultAddr causeBarrier a.v) :=
  TaskWords.exec_of_effect rfl hg hc hs ((barrierGate_of_may hn (.inr hown)).trans (if_pos hph))

section
variable (hph : (s2.ctx.latch .syB).val.toNat < 2) (hw : WindowFree s2 1)
include hph hw

theorem test_of_phase : exec (.syTest h la c) s =
    .next (s2.syLocal la true ((s2.barrier ck i).waitWrites ((s2.ctx.latch .syB).val.getLsbD 0))) :=
  TaskWords.exec_of_effect rfl hg hc hs ((barrierGate_of_may hn (.inr hown)).trans ((if_neg (Nat.not_le.mpr hph)).trans
    (windowGate_free _ _ _ hw)))

theorem wait_of_phase (hheld : s2.heldSets s2.cur = 0) : exec (.syWait h la c) s =
    .next (((s2.asWaiting.launchVar .sy la (.barrier a.v i ((s2.ctx.latch .syB).val.getLsbD 0)) s2.syBound 9 true false []).consumeAll
      syLatches).push (.variableResultLand s2.cur s2.me.seq)) :=
  TaskWords.exec_of_effect rfl hg hc hs ((conflictGate_of_unheld hheld).trans ((barrierGate_of_may hn (.inr hown)).trans
    ((if_neg (Nat.not_le.mpr hph)).trans (windowGate_free _ _ _ hw))))

end

end

theorem binit_of_far (hfar : ck ≠ s2.myCk) : exec (.syBinit h la c) s = .next (s2.faultAddr causeBarrier a.v) :=
  TaskWords.exec_of_effect rfl hg hc hs (barrierGate_of_far hn hfar)

/-- The bytes that an arrival counts: those of `sy.b` with `sy.arrivb`, none with `sy.arrive` (R272). -/
def arrivalBytes (s : State) (bytes : Bool) : Option Nat := if bytes then some (s.ctx.latch .syB).val.toNat else none

/-- An arrival of a strand whose task holds no set counts at the own core, and sends a message to another. -/
theorem arrive_of_window {bytes : Bool} {w : Instr} (hword : exec w s = .next (arriveTrigger h la bytes c s))
    (hb : bytes = true → (s2.ctx.latch .syB).val.toNat < 2 ^ 32) (hw : WindowFree s2 1) (hheld : ck ≠ s2.myCk → s2.heldSets s2.cur = 0) :
    exec w s = .next (arriveIssue s2 la ck i (arrivalBytes s2 bytes)) := by
  refine TaskWords.exec_of_effect hword hg hc hs ((barrierGate_of_may hn (.inl rfl)).trans ?_)
  refine (if_neg fun hbad => Nat.not_le.mpr (hb hbad.1) hbad.2).trans ?_
  by_cases hown : ck = s2.myCk
  · exact (if_pos hown).trans (windowGate_free _ _ _ hw)
  · exact (if_neg hown).trans ((LocalEffects.deferGate_of_unheld (hheld hown)).trans (windowGate_free _ _ _ hw))

end

theorem arriveIssue_own {n : Option Nat} (hown : ck = s.myCk) : arriveIssue s la ck i n =
    (s.countBarrier ck i 1 (n.getD 0)).syLocal la true
      [.latch .syR (mk0 ((s.countBarrier ck i 1 (n.getD 0)).barrier ck i).status false)] := if_pos hown

theorem arriveIssue_far {n : Option Nat} (hfar : ck ≠ s.myCk) (hsend : MaySend s) : arriveIssue s la ck i n =
    (sent .sy la .remote true (.group (gkOf ck)) (.arrive ck i n) s).consumeAll syLatches := by
  rw [arriveIssue, if_neg hfar, TaskWords.remoteOp_of_maySend hsend]

/-! ### Monitors (R274, R275) -/

theorem mon_of_memory {n : Fin 4} {p : Place} {f m : Nat} {rest : List (Nat × Nat)} {s3 : State} (hg : guardTrue s.ctx h.guard = true)
    (hc : ReadsC s c a s1) (hs : Starts s1 s2) (hp : a.p = false) (hclass : classOf a.v ≤ 3) (hqual : qualOf a.v = 0)
    (hcheck : s2.checkAccess s2.myCk (s2.mode s2.cur) a.v 1 1 = .ok p) (hres : s2.resolve s2.myCk 1 false p = (.mem ((f, m) :: rest), s3)) :
    exec (.syMon h la n c) s = .next ((s3.updMe fun x =>
      { x with mons := x.mons.set n { line := lineOf f, ptr := a.v, armed := true, fired := false } }).syLocal la false []) := by
  refine TaskWords.exec_of_effect rfl hg hc hs ((if_neg (ne_true_of_eq_false hp)).trans ?_)
  rw [if_neg (not_not_intro ⟨by omega, hqual⟩), hcheck]
  dsimp only
  rw [hres]

/-! ### Joins of a group (R135, R276) -/

/-- The strands of one number that have joined, with the one that executes. -/
def joinedAt (s : State) (st : Store (List Nat)) : List Nat := insertNat ((st.find (strandNo s.cur)).getD []) s.cur

theorem gbar_of_unheld (hg : guardTrue s.ctx h.guard = true) (hs : Starts s s1) (hheld : s1.heldSets s1.cur = 0) :
    exec (.syGbar h la) s = .next (
      let gk := gkOf s1.myCk
      let joined := joinedAt s1 (s1.group gk).data.gbar
      let s2 := (s1.asWaiting.launchVar .sy la .gbar s1.me.ceiling 11 false false []).consumeAll syLatches
      if joined.length = 4 then (s2.gbarFlights joined).foldl (fun s p => s.arrive p.1 p.2 [])
        (s2.updData gk fun g => { g with gbar := Store.del g.gbar (strandNo s1.cur) })
      else s2.updData gk fun g => { g with gbar := Store.put g.gbar (strandNo s1.cur) joined }) :=
  Chunks.exec_of_guarded rfl hg ((hs _).trans (conflictGate_of_unheld hheld))

section
variable {d o : Fin 8}

theorem xchg_of_prefix (hp : prefixSets (activePrefix s) = true) : exec (.vxXchg h d o) s = .next (s.faultWord causeIllegal) :=
  congrArg Host.Outcome.next (if_pos hp)

theorem xchg_of_pool (hp : prefixSets (activePrefix s) = false) (hg : guardTrue s.ctx h.guard = true) (hs : Starts s s1)
    (hheld : s1.heldSets s1.cur = 0) (hpool : PoolFree s1 [d]) : exec (.vxXchg h d o) s = .next (
      let s2 := saved s1 [d]
      let gk := gkOf s2.myCk
      let joined := joinedAt s2 (s2.group gk).data.xchg
      let s3 := (s2.asWaiting.launch .vx 1 false (.xchg d s2.ctx.v[o]) s2.me.ceiling 2 []).updMe fun x => { x with closes := true }
      if joined.length = 4 then s3.completeExchange gk (strandNo s2.cur) joined
      else s3.updData gk fun g => { g with xchg := Store.put g.xchg (strandNo s2.cur) joined }) :=
  congrArg Host.Outcome.next ((if_neg (ne_true_of_eq_false hp)).trans ((guarded_of_true _ hg).trans ((hs _).trans
    ((conflictGate_of_unheld hheld).trans (VectorUnit.poolGate_of_free hpool)))))

end

end

/-- Settles O28: a barrier word asks whose barrier its handle names, a monitor takes the line that its access reaches, and a join completes
with the fourth strand. -/
theorem barrierMonitorAndJoinResults : Obligations.BarrierMonitorAndJoinResults := by
  unfold Obligations.BarrierMonitorAndJoinResults
  refine ⟨⟨?barrier, ?monitor, ?waits⟩, fun h la s s1 hg hs hheld => ?gbar, fun h d o s s1 => ⟨xchg_of_prefix, ?xchg⟩⟩
  case barrier =>
    intro h la c s s1 s2 a ck i hg hc hs hn w b may p n armed counted
    refine ⟨fun hown => ⟨fun hmay => ?arms, fun hmay => ?refuses, inval_of_own hg hc hs hn hown, fun hw => ⟨?arrive, fun hb => ?arrivb⟩,
      test_of_badPhase hg hc hs hn hown, fun hph hw => ⟨test_of_phase hg hc hs hn hown hph hw, wait_of_phase hg hc hs hn hown hph hw⟩⟩,
      fun hfar => ⟨binit_of_far hg hc hs hn hfar, fun hheld hw hsend => ⟨?arriveFar, fun hb => ?arrivbFar⟩⟩⟩
    case arms =>
      rw [binit_of_own hg hc hs hn hown, if_pos (mayArm_iff.mpr hmay)]
      rfl
    case refuses => rw [binit_of_own hg hc hs hn hown, if_neg (mt mayArm_iff.mp hmay)]
    case arrive =>
      exact (arrive_of_window (bytes := false) hg hc hs hn rfl Bool.noConfusion hw (absurd hown)).trans (congrArg _ (arriveIssue_own hown))
    case arrivb =>
      exact (arrive_of_window (bytes := true) hg hc hs hn rfl (fun _ => hb) hw (absurd hown)).trans (congrArg _ (arriveIssue_own hown))
    case arriveFar =>
      exact (arrive_of_window (bytes := false) hg hc hs hn rfl Bool.noConfusion hw fun _ => hheld).trans (congrArg _ (arriveIssue_far hfar hsend))
    case arrivbFar =>
      exact (arrive_of_window (bytes := true) hg hc hs hn rfl (fun _ => hb) hw fun _ => hheld).trans (congrArg _ (arriveIssue_far hfar hsend))
  case monitor =>
    intro h la n c s s1 s2 a p f m rest s3 hg hc hs hp hclass hqual hcheck hres
    exact mon_of_memory hg hc hs hp hclass hqual hcheck hres
  case waits =>
    intro h la mk s s1 hg hs
    exact ⟨Chunks.exec_of_guarded rfl hg (hs _), fun hheld hw => Chunks.exec_of_guarded rfl hg
      ((hs _).trans ((conflictGate_of_unheld hheld).trans (windowGate_free _ _ _ hw)))⟩
  case gbar =>
    intro gk n joined s2
    rw [gbar_of_unheld hg hs hheld]
    exact ⟨fun hfew => congrArg _ (if_neg hfew), fun hfour => congrArg _ (if_pos hfour)⟩
  case xchg =>
    intro hp hg hs hheld hpool s2 gk n joined s3
    rw [xchg_of_pool hp hg hs hheld hpool]
    exact ⟨fun hfew => congrArg _ (if_neg hfew), fun hfour => congrArg _ (if_pos hfour)⟩

end Sys2Proof.SyncWords
end

section
/-! PROOFS. Control of one strand by another: the words that name a target (O31), and what a committed word does to it (O37). -/

namespace Sys2Proof.StrandControl

open Sys2Proof.Machine Sys2Proof.Claims Sys2Proof.Laws

section
variable {h : Hdr} {c : CSrc} {s s1 t : State} {r : Reg} {i : Instr} {k : State → State} {kr : Reg → State → State}

/-! ### Gates -/

theorem exec_of_kernel (hi : exec i s = .next (guarded h s fun s => needKernel s fun s => readC s c kr)) (hg : guardTrue s.ctx h.guard = true)
    (hm : s.mode s.cur ≠ .user) (hc : ReadsC s c r s1) (ht : kr r s1 = t) : exec i s = .next t := by
  rw [hi, guarded_of_true _ hg, MatrixUnit.needKernel_of_mode hm, hc, ht]

theorem exec_of_user (hi : exec i s = .next (guarded h s fun s => needKernel s k)) (hg : guardTrue s.ctx h.guard = true)
    (hm : s.mode s.cur = .user) : exec i s = .next (s.faultWord causePrivilege) := by
  rw [hi, guarded_of_true _ hg, TaskWords.needKernel_of_user hm]

/-! ### What the words may name (R250, R266, R267) -/

theorem stop_refused_iff {v n : Nat} : (16 ≤ v ∨ v = 0 ∨ v = n) ↔ ¬ (1 ≤ v ∧ v < 16 ∧ v ≠ n) := by omega

theorem go_refused_iff {v t : Nat} :
    (2 ^ 26 ≤ v ∨ v / 32 % 2 ^ 11 ≠ 0 ∨ v % 16 = 0 ∨ ((!v.testBit 4) = true ∧ v / 2 ^ 16 ≠ 0) ∨ t ≤ v / 2 ^ 16) ↔
      ¬ (v < 2 ^ 26 ∧ v / 32 % 2 ^ 11 = 0 ∧ v % 16 ≠ 0 ∧ (v.testBit 4 = false → v / 2 ^ 16 = 0) ∧ v / 2 ^ 16 < t) := by
  simp only [Bool.not_eq_true', not_and_or, Classical.not_imp, Nat.not_lt, ne_eq, not_not]

theorem image_refused_iff {tag : BitVec 16} {v o t : Nat} : (tag ≠ 0 ∨ v % 16 ≠ 0 ∨ o < t) ↔ ¬ (tag = 0 ∧ v % 16 = 0 ∧ t ≤ o) := by
  rw [not_and_or, not_and_or, Nat.not_le]

/-- An operand of `ct.ssave` and `ct.sload` names a place for an image (R267). -/
def NamesImage (s : State) (r : Reg) : Prop := r.tag = 0 ∧ r.val.toNat % 16 = 0 ∧ 64 * (s.partOf s.myCk).t ≤ r.val.toNat / 256 * 256

/-- The 8 KiB of the image lie in the part of the store that is the core's own (R267). -/
def ImageRoom (s : State) (r : Reg) : Prop := s.privRange (pidOf s.myCk) (r.val.toNat / 256 * 256) 8192 = true

section
variable (hp : r.p = false)
include hp

theorem imageGate_of_unnamed (hi : ¬ NamesImage s r) : imageGate s r k = s.faultAddr causeStrand r.v :=
  (if_neg (ne_true_of_eq_false hp)).trans (if_pos (image_refused_iff.mpr hi))

theorem imageGate_of_outside (hi : NamesImage s r) (hr : ¬ ImageRoom s r) : imageGate s r k = s.faultAddr causeWindow r.v :=
  (if_neg (ne_true_of_eq_false hp)).trans ((if_neg (mt image_refused_iff.mp (not_not_intro hi))).trans
    (if_pos ((Bool.not_eq_true' _).mpr (eq_false_of_ne_true hr))))

theorem imageGate_of_room (hi : NamesImage s r) (hr : ImageRoom s r) : imageGate s r k = k s :=
  (if_neg (ne_true_of_eq_false hp)).trans ((if_neg (mt image_refused_iff.mp (not_not_intro hi))).trans (if_neg (by simp [show _ = true from hr])))

end

/-- Strand 15 of a core whose reduction server runs is no target (R250). -/
theorem serverGate_of_serving {st : Nat} (hst : st = 15) (hserves : (s.core s.myCk).redpin.getLsbD 63 = true) :
    serverGate s st r k = s.faultAddr causePrivilege r.v := if_pos ⟨hst, hserves⟩

theorem serverGate_of_other {st : Nat} (hst : ¬ (st = 15 ∧ (s.core s.myCk).redpin.getLsbD 63 = true)) : serverGate s st r k = k s :=
  if_neg hst

/-! ### ct.resume -/

theorem resume_of_supervisor (hg : guardTrue s.ctx h.guard = true) (hm : s.mode s.cur = .supervisor) (hc : ReadsC s c r s1) (hp : r.p = false) :
    exec (.ctResume h c) s = .next ((s1.imagePtr (pidOf s1.myCk) r.v).elim (s1.faultStrand r) fun _ => s1.deferStrand 0x0F r) := by
  refine congrArg Host.Outcome.next ((guarded_of_true _ hg).trans ((if_pos hm).trans ((hc _).trans ((if_neg (ne_true_of_eq_false hp)).trans ?_))))
  cases s1.imagePtr (pidOf s1.myCk) r.v <;> rfl

end

/-- Settles O31: each word's operand passes its checks in their order, and the word then acts as its chunk commits. -/
theorem strandControlResults : Obligations.StrandControlResults := by
  unfold Obligations.StrandControlResults
  intro acts serves h c s hg
  refine ⟨fun hm => ?user, fun hm => ?notSupervisor, fun hm s1 r hc hp => ?named⟩
  case user =>
    simp only [List.forall_mem_cons, List.not_mem_nil, false_imp_iff, implies_true, and_true]
    exact ⟨exec_of_user rfl hg hm, exec_of_user rfl hg hm, exec_of_user rfl hg hm, exec_of_user rfl hg hm⟩
  case notSupervisor => exact congrArg Host.Outcome.next ((guarded_of_true _ hg).trans (if_neg hm))
  case named =>
    intro v stop go image room
    have hp' := ne_true_of_eq_false hp
    have sstop {t} := exec_of_kernel (i := .ctSstop h c) (t := t) rfl hg hm hc
    have sgo {t} := exec_of_kernel (i := .ctSgo h c) (t := t) rfl hg hm hc
    have ssave {t} := exec_of_kernel (i := .ctSsave h c) (t := t) rfl hg hm hc
    have sload {t} := exec_of_kernel (i := .ctSload h c) (t := t) rfl hg hm hc
    refine ⟨fun hstop => ?_, fun hstop h15 hserves => ?_, fun hstop hother => ?_, fun hgo => ?_, fun hgo h15 hserves => ?_, fun hgo hother => ?_,
      ?_, fun hi hr => ?_, fun hi hr h15 hserves => ?_, fun hi hr hother => ?_, fun hsup hnone => ?_, fun hsup sid hsome => ?_⟩
    · exact sstop ((if_neg hp').trans (if_pos (stop_refused_iff.mpr hstop)))
    · exact sstop ((if_neg hp').trans ((if_neg (mt stop_refused_iff.mp (not_not_intro hstop))).trans (serverGate_of_serving h15 hserves)))
    · exact sstop ((if_neg hp').trans ((if_neg (mt stop_refused_iff.mp (not_not_intro hstop))).trans (serverGate_of_other hother)))
    · exact sgo ((if_neg hp').trans (if_pos (go_refused_iff.mpr hgo)))
    · exact sgo ((if_neg hp').trans ((if_neg (mt go_refused_iff.mp (not_not_intro hgo))).trans (serverGate_of_serving h15 hserves)))
    · exact sgo ((if_neg hp').trans ((if_neg (mt go_refused_iff.mp (not_not_intro hgo))).trans (serverGate_of_other hother)))
    · simp only [List.forall_mem_cons, List.not_mem_nil, false_imp_iff, implies_true, and_true]
      exact ⟨⟨fun hi => ssave (imageGate_of_unnamed hp hi), fun hi hr => ssave (imageGate_of_outside hp hi hr)⟩,
        fun hi => sload (imageGate_of_unnamed hp hi), fun hi hr => sload (imageGate_of_outside hp hi hr)⟩
    · exact ssave (imageGate_of_room hp hi hr)
    · exact sload ((imageGate_of_room hp hi hr).trans (serverGate_of_serving h15 hserves))
    · exact sload ((imageGate_of_room hp hi hr).trans (serverGate_of_other hother))
    · rw [resume_of_supervisor hg hsup hc hp, hnone]
      rfl
    · rw [resume_of_supervisor hg hsup hc hp, hsome]
      rfl

/-! ### The oldest committed word acts (R266, R267, R270) -/

section
variable {s : State} {sid : Nat} {w : CtlWord}

theorem act_of_none (hctl : (s.strand sid).ctl = []) :
    exec (.strandControlAct sid) s = .next (if (s.strand sid).why = .context then s.wake sid else s) := by
  show execStrandControlAct sid s = _
  rw [execStrandControlAct, hctl]
  rfl

/-- After a word has acted, the event is due again while words are left. -/
theorem act_of_word {r : List CtlWord} {t : State} (hctl : (s.strand sid).ctl = w :: r) (ht : s.actControl sid w = t) :
    exec (.strandControlAct sid) s = .next (if (t.strand sid).ctl = [] then t else t.pushOnce (.strandControlAct sid)) := by
  show execStrandControlAct sid s = _
  rw [execStrandControlAct, hctl, ← ht]

theorem actControl_stop (hdp : w.dp = 0x0B) : s.actControl sid w = (s.controlDone sid).stop (sidOf (ckOf sid) ((valOf w.w).toNat % 16)) := by
  rw [State.actControl, hdp]
  rfl

theorem actControl_go (hdp : w.dp = 0x0C) : s.actControl sid w = s.actSgo sid w := by
  rw [State.actControl, hdp]
  rfl

theorem actControl_save (hdp : w.dp = 0x0D) : s.actControl sid w = s.actSave sid w := by
  rw [State.actControl, hdp]
  rfl

theorem actControl_load (hdp : w.dp = 0x0E) : s.actControl sid w = s.actLoad sid w := by
  rw [State.actControl, hdp]
  rfl

theorem actControl_resume {t : Nat} (hdp : w.dp = 0x0F) (hi : s.imagePtr (pidOf (ckOf sid)) w.w = some t)
    (hk : (s.strand t).killing = false) : s.actControl sid w = (s.controlDone sid).resume t := by
  rw [State.actControl, hdp]
  dsimp only
  rw [hi]
  exact if_neg (ne_true_of_eq_false hk)

/-! ### ct.sgo -/

/-- The strand that `ct.sgo` names. -/
def goTarget (sid : Nat) (w : CtlWord) : Nat := sidOf (ckOf sid) ((valOf w.w).toNat % 16)

/-- What `ct.sgo` with NEW requires: an idle target, and a READY record that was never saved (R266). -/
def MayStart (s : State) (sid : Nat) (w : CtlWord) : Prop :=
  (s.strand (goTarget sid w)).st = .idle ∧ s.recState (ckOf sid) ((valOf w.w).toNat / 2 ^ 16) = recReady ∧
    s.recField (ckOf sid) ((valOf w.w).toNat / 2 ^ 16) 52 4 = 0

theorem actSgo_of_start (hnew : (valOf w.w).toNat.testBit 4 = true) (hmay : MayStart s sid w) :
    s.actSgo sid w = (s.controlDone sid).startTask (goTarget sid w) ((valOf w.w).toNat / 2 ^ 16) :=
  (if_pos hnew).trans (if_pos hmay)

theorem actSgo_of_late (hnew : (valOf w.w).toNat.testBit 4 = true) (hmay : ¬ MayStart s sid w) : s.actSgo sid w = s.controlFault sid w :=
  (if_pos hnew).trans (if_neg hmay)

theorem actSgo_of_stopped (hnew : (valOf w.w).toNat.testBit 4 = false) (hst : (s.strand (goTarget sid w)).st = .stopped)
    (hw : (s.strand (goTarget sid w)).wounded = false) (hk : (s.strand (goTarget sid w)).killing = false) :
    s.actSgo sid w = (s.controlDone sid).reenter (goTarget sid w) (s.strand (goTarget sid w)).recorded :=
  (if_neg (ne_true_of_eq_false hnew)).trans (if_pos ⟨hst, (Bool.not_eq_true' _).mpr hw, (Bool.not_eq_true' _).mpr hk⟩)

theorem actSgo_of_monitor (hnew : (valOf w.w).toNat.testBit 4 = false) (hst : (s.strand (goTarget sid w)).st = .waitMonitor) :
    s.actSgo sid w = ((s.controlDone sid).updStrand (goTarget sid w) fun y => { y with sgoWake := true }).pokeMonitor (goTarget sid w) :=
  (if_neg (ne_true_of_eq_false hnew)).trans ((if_neg fun hstop => SState.noConfusion (hst.symm.trans hstop.1)).trans (if_pos hst))

/-! ### ct.ssave -/

/-- The place of the image that a word names. -/
def imageAt (w : CtlWord) : Nat := (imageWord w.w).1

/-- The strand whose image a word names. -/
def imageTarget (sid : Nat) (w : CtlWord) : Nat := sidOf (ckOf sid) (imageWord w.w).2

/-- Nothing of a strand is outstanding, so that its image can be written (R267). -/
def Drained (s : State) (t : Nat) : Prop :=
  (s.strand t).ceOut = [] ∧ (s.strand t).reqs = [] ∧ (s.strand t).await = none ∧ (s.strand t).effect = none ∧ s.hasJobs t = false

section
variable (hsav : (s.strand sid).saving = none)
include hsav

theorem actSave_of_running (hst : (s.strand (imageTarget sid w)).st ≠ .stopped) (hing : (s.strand (imageTarget sid w)).stopping = false) :
    s.actSave sid w = s.controlFault sid w := by
  have hno : (!(decide ((s.strand (imageTarget sid w)).st = .stopped) || (s.strand (imageTarget sid w)).stopping)) = true := by simp [hst, hing]
  exact (if_pos (Option.isNone_iff_eq_none.mpr hsav)).trans (if_pos hno)

/-- A save of a strand that stops first holds the lines of the image. -/
theorem actSave_of_stopping (hst : (s.strand (imageTarget sid w)).st = .stopped ∨ (s.strand (imageTarget sid w)).stopping = true)
    (hroom : (s.core (ckOf sid)).ranges.length < 32) : s.actSave sid w =
      ((s.holdImage sid (imageAt w)).updStrand sid fun x => { x with saving := some (false, imageTarget sid w, imageAt w) }).pushOnce
        (.strandControlAct sid) := by
  have hyes : ¬ (!(decide ((s.strand (imageTarget sid w)).st = .stopped) || (s.strand (imageTarget sid w)).stopping)) = true := by
    simpa [or_iff_not_imp_left] using hst
  exact (if_pos (Option.isNone_iff_eq_none.mpr hsav)).trans ((if_neg hyes).trans (if_neg (Nat.not_le.mpr hroom)))

end

section
variable (hsav : (s.strand sid).saving ≠ none)
include hsav

theorem actSave_of_frozen (hst : (s.strand (imageTarget sid w)).st = .frozen) : s.actSave sid w = s.controlFault sid w :=
  (if_neg (mt Option.isNone_iff_eq_none.mp hsav)).trans (if_pos hst)

theorem actSave_of_drained (hst : (s.strand (imageTarget sid w)).st = .stopped) (hd : Drained s (imageTarget sid w)) :
    s.actSave sid w = s.finishSave sid (imageTarget sid w) (imageAt w) := by
  obtain ⟨hce, hreqs, haw, heff, hjobs⟩ := hd
  have hno : ¬ ((s.strand (imageTarget sid w)).st ≠ .stopped ∨ (s.strand (imageTarget sid w)).ceOut ≠ [] ∨
      (s.strand (imageTarget sid w)).reqs ≠ [] ∨ (s.strand (imageTarget sid w)).await.isSome = true ∨
      (s.strand (imageTarget sid w)).effect.isSome = true ∨ s.hasJobs (imageTarget sid w) = true) := by
    simp [hst, hce, hreqs, haw, heff, hjobs]
  exact (if_neg (mt Option.isNone_iff_eq_none.mp hsav)).trans ((if_neg fun hf => SState.noConfusion (hst.symm.trans hf)).trans (if_neg hno))

end

/-! ### ct.sload -/

/-- The state in which a load reads its image, whose lines are sensed first (R357). -/
def imageSensed (s : State) (sid : Nat) (w : CtlWord) : State := s.senseAll (some (ckOf sid)) (localFlat (ckOf sid) (imageAt w)) 8192

/-- The bytes of the image that a load reads. -/
def loadedImage (s : State) (sid : Nat) (w : CtlWord) : List Byte :=
  memReadList (imageSensed s sid w).mem (localFlat (ckOf sid) (imageAt w)) 8192

/-- What `ct.sload` requires: an idle target, and a valid image of a SAVED task (R267). -/
def Fits (s : State) (sid : Nat) (w : CtlWord) : Prop :=
  let s1 := imageSensed s sid w
  let b := loadedImage s sid w
  (s1.strand (imageTarget sid w)).st = .idle ∧ fieldAt b 7936 2 < (s1.partOf (ckOf sid)).t ∧
    s1.recState (ckOf sid) (fieldAt b 7936 2) = recSaved ∧ (fieldAt b 7939 1).testBit 1 = true ∧ imageOk b = true

theorem fits_iff {st : SState} {i t r : Nat} {v ok : Bool} : (st ≠ .idle ∨ t ≤ i ∨ r ≠ recSaved ∨ (!v) = true ∨ (!ok) = true) ↔
    ¬ (st = .idle ∧ i < t ∧ r = recSaved ∧ v = true ∧ ok = true) := by
  simp only [not_and_or, Nat.not_lt, Bool.not_eq_true', Bool.not_eq_true, ne_eq]

section
variable (hfree : (s.core (ckOf sid)).rangeHeld (imageAt w / 128) ((imageAt w + 8191) / 128) = false)
include hfree

theorem actLoad_of_unfit (hfits : ¬ Fits s sid w) : s.actLoad sid w = (imageSensed s sid w).controlFault sid w :=
  (if_neg (ne_true_of_eq_false hfree)).trans (if_pos (fits_iff.mpr hfits))

theorem actLoad_of_fits (hfits : Fits s sid w) :
    s.actLoad sid w = (imageSensed s sid w).finishLoad sid (imageTarget sid w) (loadedImage s sid w) :=
  (if_neg (ne_true_of_eq_false hfree)).trans (if_neg (mt fits_iff.mp (not_not_intro hfits)))

end

end

/-- Settles O37: the event is its oldest word's act, and each word has one act for each of its conditions. -/
theorem strandControlActs : Obligations.StrandControlActs := by
  unfold Obligations.StrandControlActs
  intro sid s x ck
  refine ⟨act_of_none, fun w r hctl => ?word⟩
  intro v acts late
  have act {t} (ht : s.actControl sid w = t) : acts t := act_of_word hctl ht
  refine ⟨⟨fun hdp => act (actControl_stop hdp), fun hdp hnew => ⟨fun hmay => ?_, fun hmay => ?_⟩,
      fun hdp hnew => ⟨fun hst hw hk => ?_, fun hst => ?_⟩⟩,
    ⟨fun hdp hsav => ⟨fun hst hing => ?_, fun hst hroom => ?_⟩, fun hdp hsav hst => ?_, fun hdp hsav hst hce hreqs haw heff hjobs => ?_,
      fun hdp hfree => ⟨fun hfits => ?_, fun hfits => ?_⟩⟩, fun t hdp hi hk => act (actControl_resume hdp hi hk)⟩
  · exact act ((actControl_go hdp).trans (actSgo_of_start hnew hmay))
  · exact act ((actControl_go hdp).trans (actSgo_of_late hnew hmay))
  · exact act ((actControl_go hdp).trans (actSgo_of_stopped hnew hst hw hk))
  · exact act ((actControl_go hdp).trans (actSgo_of_monitor hnew hst))
  · exact act ((actControl_save hdp).trans (actSave_of_running hsav hst hing))
  · exact act ((actControl_save hdp).trans (actSave_of_stopping hsav hst hroom))
  · exact act ((actControl_save hdp).trans (actSave_of_frozen hsav hst))
  · exact act ((actControl_save hdp).trans (actSave_of_drained hsav hst ⟨hce, hreqs, haw, heff, hjobs⟩))
  · exact act ((actControl_load hdp).trans (actLoad_of_unfit hfree hfits))
  · exact act ((actControl_load hdp).trans (actLoad_of_fits hfree hfits))

end Sys2Proof.StrandControl
end

section
/-! PROOFS. What a supervisor commands in the system window (O38): the debug window, stores to the window's registers, and the fault rings. -/

namespace Sys2Proof.SupervisorCommands

open Sys2Proof.Machine Sys2Proof.Laws

section
variable {s : State} {sid : Nat}

/-! ### The debug window (R278, R330) -/

theorem resume_of_frozen (hst : (s.strand sid).st = .frozen) : s.resume sid = s.reenter sid (s.strand sid).frozenFrom := if_pos hst

theorem debugCommand_resume {w : BitVec 64} (hw : bitsAt w 2 0 = 1) : s.debugCommand sid w =
    if (s.strand sid).killing = true then s else (s.updStrand sid fun x => { x with endChunk := w.getLsbD 7 || x.endChunk }).resume sid := by
  rw [State.debugCommand, hw]
  rfl

theorem debugResume_of_frozen {e : Bool} (hk : (s.strand sid).killing = false) (hst : (s.strand sid).st = .frozen) :
    exec (.debugResume sid e) s =
      .next ((s.updStrand sid fun x => { x with endChunk := e || x.endChunk }).reenter sid (s.strand sid).frozenFrom) := by
  refine congrArg Host.Outcome.next ((debugCommand_resume (by cases e <;> rfl)).trans ((if_neg (ne_true_of_eq_false hk)).trans ?_))
  rw [show (if e = true then (0x81 : BitVec 64) else 1).getLsbD 7 = e by cases e <;> rfl, resume_of_frozen, updStrand_strand]
  rw [updStrand_strand]
  exact hst

section
variable (hk : (s.strand sid).killing = false) (hst : (s.strand sid).st = .frozen)
include hk hst

theorem debugStep_of_asked (hstep : (s.strand sid).stepping = false) (hasked : (s.strand sid).stepAsked = true) :
    exec (.debugStep sid) s =
      .next ((s.setStrand sid { s.strand sid with stepAsked := false, stepKind := 0, stepVal := 0 }).beginStep sid) :=
  congrArg Host.Outcome.next ((if_neg (ne_true_of_eq_false hk)).trans ((if_pos ((Bool.not_eq_true' _).mpr hstep)).trans
    (if_pos ⟨hasked, hst⟩)))

/-- A strand whose stepped bundle awaits nothing ends its step once the bundle's chunk has committed (log 72). -/
theorem debugStep_of_stepped (hstep : (s.strand sid).stepping = true) (haw : (s.strand sid).await = none)
    (heff : (s.strand sid).effect = none) : exec (.debugStep sid) s = .next (
      if (s.strand sid).committed < (s.strand sid).stepAt then s.beginStep sid
      else s.setStrand sid { s.strand sid with stepping := false }) :=
  congrArg Host.Outcome.next ((if_neg (ne_true_of_eq_false hk)).trans ((if_neg (by simp [hstep])).trans
    (if_neg (by simp [hst, haw, heff]))))

end

/-! ### The system window (R326, R327) -/

theorem systemWindowStore_of_ref {st : SysStore} {r : SysRef} (hr : s.sysRef (pidOf (ckOf sid)) st.qq (st.off / 8 * 8) = some r) :
    exec (.systemWindowStore sid st) s = .next (
      let s1 := s.senseSys r
      let w := mergeWord (s1.sysRead r) (st.off % 8) st.data
      (s1.sysBad r w).elim (s1.sysApply (pidOf (ckOf sid)) r w) fun c =>
        s1.freeze sid c 0 (BitVec.ofNat 64 st.fpc) st.second 0 (if c = causeReserved then leBytes 8 st.off
          else addrBytes (make (BitVec.ofNat 16 (0x7F00 + st.qq)) (BitVec.ofNat 64 st.off)))) := by
  refine congrArg Host.Outcome.next ?_
  rw [State.commitSys, hr]
  dsimp only
  cases (s.senseSys r).sysBad r (mergeWord ((s.senseSys r).sysRead r) (st.off % 8) st.data) <;> rfl

theorem setRing_of_used {rk pid : Nat} {w : BitVec 64} (hpid : (s.region rk).pid = some pid) :
    s.setRing rk w = (s.updRegion rk fun r => { r with ringBase := w }).pushOnce (.faultRingDeliver pid rk) := by
  rw [State.setRing, hpid]

/-! ### Fault packets (R327) -/

/-- The oldest waiting packet is written with its TAIL where the ring has room and the core takes it; the rest is due then. -/
theorem faultRingDeliver_of_waiting {pid rk h f : Nat} {b : List Byte} {l : List (List Byte)} (hw : (s.region rk).waiting = b :: l)
    (hring : s.ringOf pid rk = some (h, f)) : exec (.faultRingDeliver pid rk) s = .next (
      let tail := s.load h 4
      let sup := s.supCore pid rk
      if f ≤ (tail + 2 ^ 32 - s.load (h + 8) 4) % 2 ^ 32 ∨ s.coreHeld sup = true then s.pushOnce (.faultRingDeliver pid rk)
      else (((s.updRegion rk fun x => { x with waiting := l }).ringWrite sup (h + 64 + 64 * (tail % f)) b).ringWrite sup h
        (leBytes 4 (tail + 1))).deliverPackets pid rk l.length) := by
  refine congrArg Host.Outcome.next ?_
  rw [hw, List.length_cons, State.deliverPackets, hw, hring]

end

/-- Settles O38: each command is its one equation; a store to the window lands as its word's check says. -/
theorem supervisorCommandsAct : Obligations.SupervisorCommandsAct := by
  unfold Obligations.SupervisorCommandsAct
  intro sid s
  refine ⟨fun e => debugResume_of_frozen,
    fun hk hst => ⟨debugStep_of_asked hk hst, fun hstep haw heff hdone => ?ends, fun hstep haw heff hback => ?again⟩,
    fun st r hr => ?window, fun rk w => ⟨fun pid hpid hok => ?ring, fun hbad => congrArg _ (if_neg (ne_true_of_eq_false hbad))⟩,
    fun u => ⟨rfl, rfl⟩, fun pid rk b l h f hw hring => ?deliver⟩
  case ends =>
    rw [debugStep_of_stepped hk hst hstep haw heff, if_neg (Nat.not_lt.mpr hdone)]
  case again =>
    rw [debugStep_of_stepped hk hst hstep haw heff, if_pos hback]
  case window =>
    rw [systemWindowStore_of_ref hr]
    dsimp only
    refine ⟨fun hgood => ?_, fun hres => ?_, fun c hbad hc => ?_⟩
    · rw [hgood]
      rfl
    · rw [hres, Option.elim_some, if_pos rfl]
    · rw [hbad, Option.elim_some, if_neg hc]
  case ring => exact congrArg _ ((if_pos hok).trans (setRing_of_used hpid))
  case deliver =>
    rw [faultRingDeliver_of_waiting hw hring]
    exact ⟨fun hwait => congrArg _ (if_pos hwait), fun hroom hfree => congrArg _ (if_neg (not_or.mpr ⟨hroom, ne_true_of_eq_false hfree⟩))⟩

end Sys2Proof.SupervisorCommands
end

section
/-! PROOFS. Atomic sets and the rollback of tasks (O44): what a lock table decides, and how a wounded or killed task gives back what it
holds. -/

namespace Sys2Proof.SetsAndWounds

open Sys2Proof.Machine

section
variable {s : State}

/-! ### Lock tables (R297) -/

section
variable {w : Owner} {q : SetReq}

/-- The lock table that decides a request, its entries sensed (R351). -/
def table (s : State) (w : Owner) : OwnerData := (s.senseOwner w 7).owner w

/-- The other requests that wait at a lock table. -/
def othersWaiting (s : State) (w : Owner) (q : SetReq) : List SetReq := (table s w).waiters.filter fun p => !sameSet p q

/-- The first free entry of a lock table. -/
def freeEntry (o : OwnerData) : Option Nat := (List.range 512).find? fun e => (o.locks.find e).isNone

theorem decideSet_of_held (hheld : ((table s w).heldReqs.any fun h => sameSet h q) = true) : s.decideSet w q =
    (.granted, ((s.senseOwner w 7).updOwner w fun o => { o with waiters := othersWaiting s w q }).grantSet w q) := if_pos hheld

section
variable (hheld : ((table s w).heldReqs.any fun h => sameSet h q) = false)
include hheld

section
variable (hnone : (table s w).holders q = [])
include hnone

theorem decideSet_of_noHolder : s.decideSet w q =
    (freeEntry (table s w)).elim (.busy, s.senseOwner w 7) fun e => (.granted, ((s.senseOwner w 7).updOwner w fun o =>
      { o with locks := o.locks.put e q, waiters := othersWaiting s w q }).grantSet w q) := by
  refine (if_neg (ne_true_of_eq_false hheld)).trans ?_
  rw [← table, hnone, lockTable]
  dsimp only
  rw [← freeEntry]
  cases freeEntry (table s w) <;> rfl

theorem decideSet_of_full (hfull : freeEntry (table s w) = none) : s.decideSet w q = (.busy, s.senseOwner w 7) := by
  rw [decideSet_of_noHolder hheld hnone, hfull, Option.elim_none]

theorem decideSet_of_free {e : Nat} (he : freeEntry (table s w) = some e) : s.decideSet w q =
    (.granted, ((s.senseOwner w 7).updOwner w fun o =>
      { o with locks := o.locks.put e q, waiters := othersWaiting s w q }).grantSet w q) := by
  rw [decideSet_of_noHolder hheld hnone, he, Option.elim_some]

end

theorem decideSet_of_holders (hsome : (table s w).holders q ≠ []) : s.decideSet w q = (.waits,
    let s2 := (s.senseOwner w 7).updOwner w fun o => { o with waiters := othersWaiting s w q ++ [q] }
    if (((table s w).holders q).all fun h => reqOlder q h) = true then ((table s w).holders q).foldl (fun s h => s.woundHolder w h) s2
    else s2) := by
  refine (if_neg (ne_true_of_eq_false hheld)).trans ?_
  rw [← table]
  split
  next hnil => exact absurd hnil hsome
  next => exact (apply_ite (Prod.mk _) _ _ _).symm

end

theorem acquire_of_verdict {v : SetVerdict} {t : State} (hd : s.decideSet q.home q = (v, t)) :
    exec (.setAcquireRequest q) s = .next (if v = .busy then s.pushOnce (.setAcquireRequest q) else t) := by
  show Host.Outcome.next (if (s.decideSet q.home q).1 = .busy then _ else (s.decideSet q.home q).2) = _
  rw [hd]

end

/-! ### Grants and releases (R296, R297) -/

section
variable {sid : Nat} {n : Fin 8}

theorem setGrant_of_held (hheld : s.coreHeld (ckOf sid) = true) : exec (.setGrant sid n) s = .next (s.pushOnce (.setGrant sid n)) :=
  congrArg Host.Outcome.next (if_pos hheld)

section
variable (hfree : s.coreHeld (ckOf sid) = false)
include hfree

theorem setGrant_of_asking {q : SetReq} (hq : ((s.strand sid).asking.find? fun q => q.set == n) = some q) : exec (.setGrant sid n) s =
    .next (((s.setRec q.core q.record 27 1 (s.recSets q.core q.record ||| 2 ^ n.val)).updStrand sid fun y =>
      { y with asking := y.asking.filter fun p => p.set != n }).wakeIf sid (.set n)) := by
  refine congrArg Host.Outcome.next ((if_neg (ne_true_of_eq_false hfree)).trans ?_)
  rw [hq]

theorem setGrant_of_unasked {i : Nat} (hq : ((s.strand sid).asking.find? fun q => q.set == n) = none) (ht : (s.strand sid).task = some i)
    (hbit : (s.recSets (ckOf sid) i).testBit n.val = false) : exec (.setGrant sid n) s =
      .next (s.push (.setRelease (s.setHome sid n) (ckOf sid) (i, s.stampOf (ckOf sid) i) n)) := by
  refine congrArg Host.Outcome.next ((if_neg (ne_true_of_eq_false hfree)).trans ?_)
  rw [hq, ht]
  exact if_neg (ne_true_of_eq_false hbit)

end

section
variable {w : Owner} {ck i : Nat} {st : Nat × Nat}

theorem setRelease_of_coreless (hc : s.lockCore w ck i st n = none) :
    exec (.setRelease w ck (i, st) n) s = .next (s.releaseAt w ck i st n) := by
  refine congrArg Host.Outcome.next ?_
  rw [State.releaseSet, hc]

theorem setRelease_of_core {c : Nat} (hc : s.lockCore w ck i st n = some c) : exec (.setRelease w ck (i, st) n) s = .next (
    if s.coreHeld c = true then s.pushOnce (.setRelease w ck (i, st) n)
    else (s.releaseAt w ck i st n).logHardware c (.release w ck i st n)) := by
  refine congrArg Host.Outcome.next ?_
  rw [State.releaseSet, hc]

end

end

/-! ### Wounds (R298) -/

section
variable {ck i : Nat} {st : Nat × Nat}

theorem wound_of_held (hheld : s.coreHeld ck = true) : exec (.woundRollback ck (i, st)) s = .next (s.pushOnce (.woundRollback ck (i, st))) :=
  congrArg Host.Outcome.next (if_pos hheld)

section
variable (hfree : s.coreHeld ck = false)
include hfree

/-- A wound that outlives its task meets no task of its stamp. -/
theorem wound_of_outlived (hstamp : s.stampOf ck i ≠ st) : exec (.woundRollback ck (i, st)) s = .next s :=
  congrArg Host.Outcome.next ((if_neg (ne_true_of_eq_false hfree)).trans (if_pos hstamp))

/-- A wound reaches the task it was sent for while its record is in use (R298). -/
theorem wound_of_task (hstamp : s.stampOf ck i = st) (hend : s.recState ck i ≠ recEnding) (hrec : s.recState ck i ≠ recFree)
    (hpend : s.recState ck i ≠ recPending) (hsets : s.recSets ck i ≠ 0 ∨ s.runner ck i ≠ none) : exec (.woundRollback ck (i, st)) s =
      .next ((s.runner ck i).elim (s.woundStep ck i st) fun sid =>
        if (s.strand sid).killing = true then s
        else if (!(s.strand sid).settled) = true then
          ((s.setStrand sid { s.strand sid with wounded := true }).stop sid).pushOnce (.woundRollback ck (i, st))
        else s.woundStep ck i st) := by
  have hlive : ¬ (s.recState ck i = recEnding ∨ s.recState ck i = recFree ∨ s.recState ck i = recPending ∨
      s.recSets ck i = 0 ∧ (s.runner ck i).isNone = true) := by
    rw [not_or, not_or, not_or, not_and_or, Option.isNone_iff_eq_none]
    exact ⟨hend, hrec, hpend, hsets⟩
  show execWoundRollback ck (i, st) s = _
  rw [execWoundRollback]
  dsimp only
  rw [if_neg (ne_true_of_eq_false hfree), if_neg (not_not_intro hstamp), if_neg hlive]
  cases s.runner ck i with
  | none => rw [Option.elim_none]
  | some sid => rw [Option.elim_some]

end

theorem woundEnds_of_runner {sid : Nat} (hrun : s.runner ck i = some sid) : s.woundEnds ck i =
    ((s.setRec ck i 27 1 0).keepIdentity ck i (s.strand sid).sn.toNat (s.strand sid).floor.toNat).restartTask sid i := by
  rw [State.woundEnds, hrun]

theorem woundEnds_of_queued (hrun : s.runner ck i = none) : s.woundEnds ck i =
    let s0 := s.setRec ck i 27 1 0
    let ctx := s.recField ck i 52 4
    let im := localFlat ck ctx
    let s2 := if ctx = 0 then s0 else s0.keepIdentity ck i (s.load (im + 5200) 4) (s.load (im + 5204) 4)
    let s3 := (s2.setRec ck i 52 4 0).setRecState ck i recReady
    if (s3.core ck).rqHas i then s3 else s3.rqAppend ck i := by
  rw [State.woundEnds, hrun]

end

/-! ### Kills (R330) -/

theorem st_of_settled {x : Strand} (hset : x.settled = true) : x.st = .stopped ∨ x.st = .frozen := by
  simp only [Strand.settled, Bool.and_eq_true, Bool.or_eq_true, decide_eq_true_eq] at hset
  exact hset.1.1.1

section
variable {sid : Nat} (hk : (s.strand sid).killing = true)
include hk

theorem kill_of_held (hheld : s.coreHeld (ckOf sid) = true) : exec (.debugKill sid) s = .next (s.pushOnce (.debugKill sid)) :=
  congrArg Host.Outcome.next ((if_neg (by simp [hk])).trans (if_pos hheld))

section
variable (hfree : s.coreHeld (ckOf sid) = false)
include hfree

theorem kill_of_running (hidle : (s.strand sid).st ≠ .idle) (hstop : (s.strand sid).st ≠ .stopped) (hfrz : (s.strand sid).st ≠ .frozen) :
    exec (.debugKill sid) s = .next ((s.stop sid).pushOnce (.debugKill sid)) :=
  congrArg Host.Outcome.next ((if_neg (by simp [hk])).trans ((if_neg (ne_true_of_eq_false hfree)).trans ((if_neg hidle).trans
    (if_pos ⟨hstop, hfrz⟩))))

theorem kill_of_settled (hset : (s.strand sid).settled = true) (hce : (s.strand sid).ceOut = []) (hjobs : s.hasJobs sid = false) :
    exec (.debugKill sid) s = .next ((s.killEnds sid).logHardware (ckOf sid) (.kill sid)) := by
  have hst := st_of_settled hset
  have hidle : (s.strand sid).st ≠ .idle := by rintro h; simp [h] at hst
  exact congrArg Host.Outcome.next ((if_neg (by simp [hk])).trans ((if_neg (ne_true_of_eq_false hfree)).trans ((if_neg hidle).trans
    ((if_neg fun h => hst.elim h.1 h.2).trans (if_neg (by simp [hset, hce, hjobs]))))))

end

end

end

/-- Settles O44: a lock table's verdict, the grant and release of a set, and the steps of a rollback, each under its own conditions. -/
theorem setsAndWoundsComplete : Obligations.SetsAndWoundsComplete := by
  unfold Obligations.SetsAndWoundsComplete
  refine ⟨fun q s => ?acquire, fun sid n s => ⟨setGrant_of_held, fun hfree => ⟨fun q hq => ?asking, fun i hq ht hbit => ?unasked⟩⟩,
    fun w ck i st n s => ⟨setRelease_of_coreless, fun c hc => ?release⟩, fun ck i st s => ⟨wound_of_held, wound_of_outlived, ?wound⟩,
    fun ck i s => ⟨fun sid => woundEnds_of_runner, woundEnds_of_queued⟩,
    fun sid s => ⟨kill_of_held, kill_of_running, fun hk hfree hset hce hjobs => ?kill⟩⟩
  case acquire =>
    refine ⟨fun hheld => acquire_of_verdict (decideSet_of_held hheld), fun hheld hnone => ⟨fun hfull => ?_, fun e hfree => ?_⟩,
      fun hheld hsome => ⟨fun hold => ?_, fun hold => ?_⟩⟩
    · exact acquire_of_verdict (decideSet_of_full hheld hnone hfull)
    · exact acquire_of_verdict (decideSet_of_free hheld hnone hfree)
    · exact acquire_of_verdict ((decideSet_of_holders hheld hsome).trans (congrArg _ (if_pos hold)))
    · exact acquire_of_verdict ((decideSet_of_holders hheld hsome).trans (congrArg _ (if_neg (ne_true_of_eq_false hold))))
  case asking => exact setGrant_of_asking hfree hq
  case unasked => exact setGrant_of_unasked hfree hq ht hbit
  case release =>
    rw [setRelease_of_core hc]
    exact ⟨fun hheld => congrArg _ (if_pos hheld), fun hfree => congrArg _ (if_neg (ne_true_of_eq_false hfree))⟩
  case wound =>
    intro hfree hstamp hend hrec hpend s1 ends
    refine ⟨fun hrun hsets => ?_, fun sid hrun hk => ⟨fun hset => ?_, fun hset => ?_⟩⟩
    · refine (wound_of_task hfree hstamp hend hrec hpend (.inl hsets)).trans ?_
      rw [hrun, Option.elim_none, State.woundStep]
    · refine (wound_of_task hfree hstamp hend hrec hpend (.inr (by simp [hrun]))).trans ?_
      rw [hrun, Option.elim_some, if_neg (ne_true_of_eq_false hk), if_neg (by simp [hset]), State.woundStep]
    · refine (wound_of_task hfree hstamp hend hrec hpend (.inr (by simp [hrun]))).trans ?_
      rw [hrun, Option.elim_some, if_neg (ne_true_of_eq_false hk), if_pos (by simp [hset])]
  case kill =>
    rw [kill_of_settled hk hfree hset hce hjobs, State.killEnds]
    exact ⟨fun i ht => by rw [ht], fun ht => by rw [ht]⟩

end Sys2Proof.SetsAndWounds
end

section
/-! PROOFS. The hardware of a region (O45): the expansion of launches, the report of a task held too long, and the stage governor. -/

namespace Sys2Proof.LaunchAndGovernor

open Sys2Proof.Machine

section
variable {s s1 : State} {pid rk : Nat}

/-! ### Held tasks (R261) -/

/-- A held task can be expanded to the state `s1`, or cannot. -/
def placed (s : State) (h : HeldTask) : Option State := s.placeTask h.hdr h.wid h.core h.record h.age

theorem expandHeld_of_none {l : List HeldTask} (before : List HeldTask) (hl : ∀ g ∈ l, placed s g = none) : s.expandHeld rk before l = none := by
  induction l generalizing before with
  | nil => rfl
  | cons g l ih =>
    obtain ⟨hg, hl⟩ := List.forall_mem_cons.mp hl
    rw [State.expandHeld, ← placed, hg]
    exact ih _ hl

/-- The first held task that can be placed is placed, and the others stay held. -/
theorem expandHeld_of_first {h : HeldTask} {pre post : List HeldTask} (before : List HeldTask) (hpre : ∀ g ∈ pre, placed s g = none)
    (hh : placed s h = some s1) : s.expandHeld rk before (pre ++ h :: post) =
      some (s1.updRegion rk fun x => { x with held := before ++ pre ++ post }) := by
  induction pre generalizing before with
  | nil => rw [List.nil_append, State.expandHeld, ← placed, hh, List.append_nil]
  | cons g pre ih =>
    obtain ⟨hg, hpre⟩ := List.forall_mem_cons.mp hpre
    rw [List.cons_append, State.expandHeld, ← placed, hg]
    refine (ih _ hpre).trans ?_
    rw [List.append_assoc, List.append_assoc, List.append_assoc, List.singleton_append, List.cons_append]

/-! ### The next task of a launch (R261) -/

section
variable {l : Launch} {rest : List Launch}

/-- The home of the next work item of a launch. -/
def nextHome (s : State) (pid : Nat) (l : Launch) : Option Nat := s.hdrHome pid l.hdr l.ox l.oy l.oseat (hdrWork l.hdr l.next)

/-- A region's launches, the oldest as far as it has come; one without items left is gone. -/
def keptLaunch (rest : List Launch) (l : Launch) (x : Region) : Region :=
  { x with launches := if hdrTasks l.hdr ≤ l.next then rest else l :: rest }

theorem expandNext_of_elsewhere (hhome : nextHome s pid l = none ∨ ∃ ck, nextHome s pid l = some ck ∧ s.rkOf ck ≠ rk) :
    s.expandNext pid rk l rest = s.updRegion rk (keptLaunch rest { l with next := l.next + 1 }) := by
  rw [State.expandNext]
  dsimp only
  rw [← nextHome]
  obtain hnone | ⟨ck, hsome, hrk⟩ := hhome
  · rw [hnone]
    rfl
  · rw [hsome]
    exact if_pos hrk

section
variable {ck : Nat}

/-- The task that a launch places next at a home. -/
def nextTask (s : State) (l : Launch) (ck : Nat) : HeldTask :=
  { hdr := l.hdr, wid := BitVec.ofNat 64 (hdrWork l.hdr l.next), core := ck, record := hdrRbase l.hdr + l.counts.getD ck 0, age := l.age,
    since := s.now, told := false }

theorem placed_nextTask : placed s (nextTask s l ck) =
    s.placeTask l.hdr (BitVec.ofNat 64 (hdrWork l.hdr l.next)) ck (hdrRbase l.hdr + l.counts.getD ck 0) l.age := rfl

/-- A launch whose next item went to a home. -/
def counted (l : Launch) (ck : Nat) : Launch := { l with next := l.next + 1, counts := l.counts.put ck (l.counts.getD ck 0 + 1) }

theorem expandNext_of_here (hhome : nextHome s pid l = some ck) (hrk : s.rkOf ck = rk) : s.expandNext pid rk l rest =
    (placed s (nextTask s l ck)).elim
      (((s.updRegion rk (keptLaunch rest (counted l ck))).updRegion rk fun x => { x with held := x.held ++ [nextTask s l ck] }).pushOnce
        (.launchStalled pid rk))
      fun s1 => s1.updRegion rk (keptLaunch rest (counted l ck)) := by
  rw [State.expandNext]
  dsimp only
  rw [← nextHome, hhome]
  dsimp only
  rw [if_neg (not_not_intro hrk), ← placed_nextTask]
  cases placed s (nextTask s l ck) <;> rfl

end

end

section
variable (hpid : (s.region rk).pid = some pid) (hopen : (s.part pid).preempt = none)
include hpid hopen

theorem expansion_of_held {h : HeldTask} {pre post : List HeldTask} (hheld : (s.region rk).held = pre ++ h :: post)
    (hpre : ∀ g ∈ pre, placed s g = none) (hh : placed s h = some s1) : exec (.launchExpansion pid rk) s =
      .next ((s1.updRegion rk fun x => { x with held := pre ++ post }).pushOnce (.launchExpansion pid rk)) := by
  refine congrArg Host.Outcome.next ((if_neg (by simp [hpid, hopen])).trans ?_)
  rw [hheld, expandHeld_of_first [] hpre hh]
  rfl

theorem expansion_of_launch {l : Launch} {rest : List Launch} (hheld : ∀ g ∈ (s.region rk).held, placed s g = none)
    (hl : (s.region rk).launches = l :: rest) :
    exec (.launchExpansion pid rk) s = .next ((s.expandNext pid rk l rest).pushOnce (.launchExpansion pid rk)) := by
  refine congrArg Host.Outcome.next ((if_neg (by simp [hpid, hopen])).trans ?_)
  rw [expandHeld_of_none [] hheld, hl]

end

/-! ### Tasks held too long (R261) -/

/-- Whether a held task is to be reported: it is held for 1 ms and was not reported. -/
def reportDue (s : State) (h : HeldTask) : Bool := !h.told && decide (h.since + 1000000 ≤ s.now)

/-- The held tasks once those due are reported. -/
def toldTasks (s : State) (rk : Nat) : List HeldTask := (s.region rk).held.map fun h => { h with told := h.told || reportDue s h }

/-- The state once the held tasks that are due are reported. -/
def reported (s : State) (pid rk : Nat) : State :=
  (((s.region rk).held.filter (reportDue s)).foldl (fun t h =>
    t.report 0x40 0 (t.supCore pid rk) (leBytes 3 (lcoreOf h.core) ++ leBytes 2 h.record)) s).updRegion rk fun x =>
      { x with held := toldTasks s rk }

theorem stalled_eq (hpid : (s.region rk).pid = some pid) : exec (.launchStalled pid rk) s = .next (
    if ((toldTasks s rk).any fun h => !h.told) = true then (reported s pid rk).pushOnce (.launchStalled pid rk) else reported s pid rk) :=
  congrArg Host.Outcome.next (if_neg (not_not_intro hpid))

/-! ### The stage governor (R293, R294) -/

section
variable (hpid : (s.region rk).pid = some pid)
include hpid

theorem governor_of_early (hearly : s.now < (s.region rk).govAt) :
    exec (.sluiceGovernorTick rk) s = .next (s.pushOnce (.sluiceGovernorTick rk)) :=
  congrArg Host.Outcome.next ((if_neg (by simp [hpid])).trans (if_pos hearly))

/-- The governor is due again 1 us after its time. -/
def nextTick (s : State) (rk : Nat) : State :=
  (s.updRegion rk fun r => { r with govAt := r.govAt + 1000 }).pushOnce (.sluiceGovernorTick rk)

theorem governor_of_due (hdue : (s.region rk).govAt ≤ s.now) : exec (.sluiceGovernorTick rk) s =
    .next ((s.region rk).reassign.elim (nextTick s rk) fun p => (nextTick s rk).moveCore rk p.1 p.2) := by
  refine congrArg Host.Outcome.next ((if_neg (by simp [hpid])).trans ((if_neg (Nat.not_lt.mpr hdue)).trans ?_))
  cases (s.region rk).reassign <;> rfl

end

/-- A core has left one stage for another. -/
def restaged (s : State) (rk rcv don c : Nat) : State :=
  s.updRegion rk fun r => { r with
    stages := (r.stages.alter don fun st => { st with cores := st.cores.filter fun d => d != c }).alter rcv fun st =>
      { st with cores := insertNat st.cores c } }

theorem moveCore_of_highest {rcv don c : Nat}
    (hc : ((s.region rk).stages.getD don Stage.reset).cores.foldl (fun m c => max m (c + 1)) 0 = c + 1) : s.moveCore rk rcv don =
      if s.coreHeld c = true then s
      else ((restaged s rk rcv don c).qPush c 1 15 { val := BitVec.ofNat 64 rcv, mark := false, task := none }).2.logHardware c
        (.push c 1 15 (BitVec.ofNat 64 rcv) false) := by
  rw [State.moveCore, hc]
  rfl

end

/-- Settles O45: a region expands its first held task or the next item of its oldest launch, reports those that are due, and the governor moves
the highest core of the giving stage. -/
theorem launchAndGovernorComplete : Obligations.LaunchAndGovernorComplete := by
  unfold Obligations.LaunchAndGovernorComplete
  refine ⟨fun pid rk s hpid hopen => ⟨fun pre h post s1 hheld hpre hh => ?held, fun hheld l rest hl => ⟨fun hhome => ?elsewhere, ?here⟩⟩,
    fun pid rk s hpid => ⟨fun hleft => ?again, fun hall => ?done⟩, fun rk pid s hpid => ⟨governor_of_early hpid, ?due⟩⟩
  case held => exact expansion_of_held hpid hopen hheld hpre hh
  case elsewhere =>
    rw [expansion_of_launch hpid hopen hheld hl, expandNext_of_elsewhere hhome]
    rfl
  case here =>
    intro ck hhome hrk j i l1
    rw [expansion_of_launch hpid hopen hheld hl, expandNext_of_here hhome hrk]
    exact ⟨fun s1 hs1 => by rw [show placed s (nextTask s l ck) = some s1 from hs1]; rfl,
      fun hnone => by rw [show placed s (nextTask s l ck) = none from hnone]; rfl⟩
  case again =>
    obtain ⟨h, hmem, hleft⟩ := hleft
    exact (stalled_eq hpid).trans (congrArg _ (if_pos (List.any_eq_true.mpr ⟨h, hmem, (Bool.not_eq_true' _).mpr hleft⟩)))
  case done =>
    refine (stalled_eq hpid).trans (congrArg _ (if_neg fun hany => ?_))
    obtain ⟨h, hmem, hleft⟩ := List.any_eq_true.mp hany
    exact Bool.false_ne_true (((Bool.not_eq_true' _).mp hleft).symm.trans (hall h hmem))
  case due =>
    intro hdue s1
    rw [governor_of_due hpid hdue]
    refine ⟨fun hno => by rw [hno]; rfl, fun rcv don c hsome hc => ?_⟩
    rw [hsome, Option.elim_some, moveCore_of_highest (s := nextTick s rk) hc]
    exact ⟨fun hheld => congrArg _ (if_pos hheld), fun hfree => congrArg _ (if_neg (ne_true_of_eq_false hfree))⟩

end Sys2Proof.LaunchAndGovernor
end

section
/-! PROOFS. The spreading of coded rows and cells (O59): a bank's row map is a bijection, and cells near each other lie in different column
groups. -/

namespace Sys2Proof.Spreading

open Sys2Proof.Machine

/-! ### Row maps of a bank (R349, R350) -/

/-- Each array has whole row blocks of 32 rows. -/
theorem rows_eq_blocks (a : Nat) : (arrayShape a).2 = 32 * blocksOf a := by
  unfold blocksOf arrayShape
  split <;> rfl

section
variable {b r p : Nat}

theorem blocks_pos (hr : r < 32 * b) : 0 < b := by omega

theorem physRow_mod (hr : r < 32 * b) : physRow b r % b = r / 32 := by
  rw [physRow, Nat.mul_comm, Nat.mul_add_mod, Nat.mod_eq_of_lt (Nat.div_lt_of_lt_mul hr)]

theorem physRow_div (hr : r < 32 * b) : physRow b r / b = r % 32 := by
  rw [physRow, Nat.mul_comm, Nat.mul_add_div (blocks_pos hr), Nat.div_eq_of_lt (Nat.div_lt_of_lt_mul hr), Nat.add_zero]

theorem logicalRow_physRow (hr : r < 32 * b) : logicalRow b (physRow b r) = r := by
  rw [logicalRow, physRow_mod hr, physRow_div hr, Nat.div_add_mod]

theorem physRow_lt (hr : r < 32 * b) : physRow b r < 32 * b := by
  rw [← Nat.div_lt_iff_lt_mul (blocks_pos hr), physRow_div hr]
  exact Nat.mod_lt r (by decide)

theorem logicalRow_div (hp : p < 32 * b) : logicalRow b p / 32 = p % b := by
  rw [logicalRow, Nat.mul_add_div (by decide), Nat.div_eq_of_lt ((Nat.div_lt_iff_lt_mul (blocks_pos hp)).mpr hp), Nat.add_zero]

theorem logicalRow_mod (hp : p < 32 * b) : logicalRow b p % 32 = p / b := by
  rw [logicalRow, Nat.mul_add_mod, Nat.mod_eq_of_lt ((Nat.div_lt_iff_lt_mul (blocks_pos hp)).mpr hp)]

theorem physRow_logicalRow (hp : p < 32 * b) : physRow b (logicalRow b p) = p := by
  rw [physRow, logicalRow_mod hp, logicalRow_div hp, Nat.mul_comm, Nat.div_add_mod]

theorem logicalRow_lt (hp : p < 32 * b) : logicalRow b p < 32 * b := by
  have hblock := logicalRow_div hp ▸ Nat.mod_lt p (blocks_pos hp)
  omega

end

/-! ### Disturbed cells -/

/-- Numbers of one residue that lie less than the modulus apart are equal. -/
theorem eq_of_mod_eq_of_near {m x y : Nat} (hmod : x % m = y % m) (hx : x < y + m) (hy : y < x + m) : x = y :=
  Nat.ModEq.eq_of_abs_lt hmod (by rw [abs_lt]; omega)

theorem row_lt_of_fits {d : Disturbance} (hd : disturbanceFits d = true) (hpar : d.par = false) : d.row < 32 * blocksOf d.array := by
  simp only [disturbanceFits, hpar, Bool.and_eq_true] at hd
  rw [← rows_eq_blocks]
  exact of_decide_eq_true hd.2

theorem cellAt_row_div {d : Disturbance} (hd : disturbanceFits d = true) (hpar : d.par = false) :
    (cellAt d).row / 32 = d.row % blocksOf d.array := by
  rw [cellAt, hpar]
  exact logicalRow_div (row_lt_of_fits hd hpar)

/-- Settles O59: a physical row's place in its bank names its row block, and a cell's place in its row its column. -/
theorem disturbedCellsSpread : Obligations.DisturbedCellsSpread := by
  unfold Obligations.DisturbedCellsSpread
  refine ⟨fun a r _ hr => ?_, fun d e hd he _ harray hbank hdpar hepar hrow hrow' hnear hblock hcol => ?_⟩
  · rw [rows_eq_blocks] at hr ⊢
    exact ⟨physRow_lt hr, logicalRow_physRow hr, logicalRow_lt hr, physRow_logicalRow hr⟩
  · rw [cellAt_row_div hd hdpar, cellAt_row_div he hepar, ← harray] at hblock
    have hrows : d.row = e.row := eq_of_mod_eq_of_near hblock (harray ▸ hrow) hrow'
    obtain ⟨hcell, hcell'⟩ := hnear hrows
    have hcells : d.cell = e.cell := eq_of_mod_eq_of_near hcol hcell hcell'
    refine ⟨?_, hrows, hcells⟩
    rw [cellAt, cellAt, harray, hbank, hdpar, hepar, hrows, hcells]

end Sys2Proof.Spreading
end

section
/-! PROOFS. The declaration of sets and the taking of a token (O22), and the words of queues: pushes and pops (O24), and waits (O25). A queue
word opens its gates one by one; what is left is its operation at the strand's own core, or its message. -/

namespace Sys2Proof.QueueWords

open Sys2Proof.Machine Sys2Proof.Claims Sys2Proof.Laws

section
variable {h : Hdr} {la : BitVec 4} {c : CSrc} {s s1 s2 : State} {a : Reg} {n : Fin 8}

/-! ### Declarations of sets (R295) -/

/-- A set may be declared with a length: it is in its bounds, and the set is not held. -/
abbrev LengthFits (s : State) (n : Fin 8) (len : Nat) : Prop :=
  1 ≤ len ∧ len ≤ 2 ^ 20 ∧ (s.heldSets s.cur).testBit n.val = false

/-- A set may be declared at a base: its class is 0 to 3 and its qualifier 0. -/
abbrev ClassFits (v : Reg80) : Prop := classOf v ≤ 3 ∧ qualOf v = 0

theorem not_lengthFits_iff {len : Nat} :
    ¬ LengthFits s n len ↔ len = 0 ∨ 2 ^ 20 < len ∨ (s.heldSets s.cur).testBit n.val = true := by
  rw [not_and_or, not_and_or, Nat.not_le, Nat.not_le, Nat.lt_one_iff, Bool.not_eq_false]

theorem not_classFits_iff {v : Reg80} :
    ¬ ClassFits v ↔ (!decide ((classOf v = 0 ∨ classOf v = 1 ∨ classOf v = 2 ∨ classOf v = 3) ∧ qualOf v = 0)) = true := by
  rw [Bool.not_eq_true', decide_eq_false_iff_not, show classOf v = 0 ∨ classOf v = 1 ∨ classOf v = 2 ∨ classOf v = 3 ↔ classOf v ≤ 3 by omega]

theorem pastLimit_of_local {v : Reg80} {len : Nat} (hv : classOf v = 0) : s.pastLimit v len = decide (2 ^ 20 < offOf v + len) := by
  rw [State.pastLimit, State.ownOff, if_pos hv]

/-- A set of the executing strand is declared, and `at.o` consumed. -/
def declared (s : State) (n : Fin 8) (v : Reg80) (len : Nat) : State :=
  (s.updMe fun x => { x with sets := x.sets.set n (some { base := v, len := len }) }).consume .atO

/-- The checks of a declaration in their order. -/
theorem aset_of_reads (hg : guardTrue s.ctx h.guard = true) (hc : ReadsC s c a s1) : exec (.atAset h n c) s = .next (
    let len := (s1.ctx.latch .atO).val.toNat
    if a.p = true then s1.faultPoison a.v
    else if ¬ LengthFits s1 n len then s1.faultAddr causeSetOp a.v
    else if ¬ ClassFits a.v then s1.faultAddr causeWindow a.v
    else if s1.pastLimit a.v len = true then s1.faultAddr causeWindow a.v
    else if s1.me.task.isNone = true then s1.faultAddr causeNoTask a.v
    else declared s1 n a.v len) := by
  refine congrArg Host.Outcome.next ((Scalar.guarded_readC hg hc).trans ?_)
  simp only [not_lengthFits_iff, not_classFits_iff]
  rfl

theorem tok_of_window (hg : guardTrue s.ctx h.guard = true) (hm : s.mode s.cur ≠ .user) (hheld : s.heldSets s.cur = 0) (hs : Starts s s1)
    (hw : WindowFree s1 1) : exec (.atTok h la) s = .next (((s1.asWaiting.consume .atO).launchVar .at la .token s1.me.ceiling 6 true false []).push
      (.variableResultLand s1.cur s1.me.seq)) :=
  Chunks.exec_of_guarded rfl hg ((MatrixUnit.needKernel_of_mode hm).trans ((SyncWords.conflictGate_of_unheld hheld).trans ((hs _).trans
    (windowGate_free _ _ _ hw))))

end

/-- Settles O22: a declaration is its five checks in order, and `at.tok` is its gates. -/
theorem setDeclarationAndTokenResults : Obligations.SetDeclarationAndTokenResults := by
  unfold Obligations.SetDeclarationAndTokenResults
  refine ⟨fun h n c s s1 a hg hc => ?aset, fun h la s s1 hg => ⟨fun hm => ?user, tok_of_window hg⟩⟩
  case aset =>
    rw [aset_of_reads hg hc]
    refine ⟨fun hp => congrArg _ (if_pos hp), fun hp hlen => ?_, fun hp hlen hcls => ?_, pastLimit_of_local, fun hp hlen hcls hpast => ?_,
      fun hp hlen hcls hpast => ⟨fun htask => ?_, fun htask => ?_⟩⟩
    all_goals dsimp only; rw [if_neg (ne_true_of_eq_false hp)]
    · rw [if_pos hlen]
    · rw [if_neg (not_not_intro hlen), if_pos hcls]
    · rw [if_neg (not_not_intro hlen), if_neg (not_not_intro hcls), if_pos hpast]
    · rw [if_neg (not_not_intro hlen), if_neg (not_not_intro hcls), if_neg (ne_true_of_eq_false hpast),
        if_pos (Option.isNone_iff_eq_none.mpr htask)]
    · rw [if_neg (not_not_intro hlen), if_neg (not_not_intro hcls), if_neg (ne_true_of_eq_false hpast),
        if_neg (mt Option.isNone_iff_eq_none.mp htask), declared]
  case user => exact Chunks.exec_of_guarded rfl hg (TaskWords.needKernel_of_user hm)

/-! ### The gates of a queue word -/

section
variable {s : State} {a : Reg} {ck q i : Nat} {push : Bool} {k : State → State} {kc : Option Nat → State → State}
  {kq : Nat → Nat → Nat → State → State}

/-- A source holds an unpoisoned handle of a queue of the partition. -/
abbrev Handles (s : State) (a : Reg) (ck q i : Nat) : Prop := a.p = false ∧ s.queueHandle (pidOf s.myCk) a.v = some (ck, q, i)

/-- An operation may name a queue: inbox 15 takes pushes of supervisor strands only, and an inbox is popped at its own core (R285). -/
abbrev MayName (s : State) (push : Bool) (ck q i : Nat) : Prop :=
  if push then ¬ (q = 1 ∧ i = 15 ∧ s.mode s.cur ≠ .supervisor) else (q = 1 → ck = s.myCk)

theorem queueGate_of_may (ha : Handles s a ck q i) (hmay : MayName s push ck q i) : queueGate s a push kq = kq ck q i s := by
  rw [queueGate, if_neg (ne_true_of_eq_false ha.1), ha.2]
  cases push with
  | true => exact (if_pos rfl).trans (if_neg hmay)
  | false => exact (if_neg Bool.false_ne_true).trans (if_neg fun hfar => hfar.2 (hmay hfar.1))

theorem nearGate_of_may (hsend : s.queueLocal ck q i = false → MaySend s) : nearGate s ck q i k = k s := by
  rw [nearGate]
  cases hl : s.queueLocal ck q i with
  | true => rfl
  | false =>
    obtain ⟨htok, hdist, hout⟩ := hsend hl
    exact (if_neg Bool.false_ne_true).trans ((if_neg htok).trans (if_neg (by omega)))

/-! ### Claims of a pop (R292) -/

/-- A record of the executing strand's core is claimed. -/
def claimed (s : State) (j : Nat) : State := s.updCore s.myCk fun c => { c with claims := c.claims ++ [j] }

theorem mode_claimed {j sid : Nat} : (claimed s j).mode sid = s.mode sid := by
  have hsup : ((claimed s j).core (ckOf sid)).sup = (s.core (ckOf sid)).sup := by
    by_cases hck : ckOf sid = s.myCk
    · rw [claimed, State.updCore, hck, setCore_core]
    · rw [claimed, State.updCore, setCore_core_other _ _ _ _ hck]
  rw [State.mode, State.mode, hsup]

theorem claimGate_of_unclaimed (hq : q = 1 ∨ s.mode s.cur = .user) : claimGate s q kc = kc none s := if_pos hq

section
variable (hq : q ≠ 1) (hm : s.mode s.cur ≠ .user)
include hq hm

theorem claimGate_of_own (hown : s.me.ownClaim s.myCk (s.ctx.latch .sqD).val.toNat = true) :
    claimGate s q kc = kc (some (s.ctx.latch .sqD).val.toNat) s := (if_neg (not_or.mpr ⟨hq, hm⟩)).trans (if_pos hown)

section
variable (hown : s.me.ownClaim s.myCk (s.ctx.latch .sqD).val.toNat = false)
include hown

theorem claimGate_of_open (ht : (s.ctx.latch .sqD).val.toNat < (s.partOf s.myCk).t)
    (hopen : s.recOpen s.myCk (s.ctx.latch .sqD).val.toNat = true) :
    claimGate s q kc = kc (some (s.ctx.latch .sqD).val.toNat) (claimed s (s.ctx.latch .sqD).val.toNat) :=
  (if_neg (not_or.mpr ⟨hq, hm⟩)).trans ((if_neg (ne_true_of_eq_false hown)).trans (if_neg (by simp [ht, hopen])))

theorem claimGate_of_taken (htaken : (s.partOf s.myCk).t ≤ (s.ctx.latch .sqD).val.toNat ∨
    s.recOpen s.myCk (s.ctx.latch .sqD).val.toNat = false) :
    claimGate s q kc = s.faultAddr causeTask (s.ctx.latch .sqD).v :=
  (if_neg (not_or.mpr ⟨hq, hm⟩)).trans ((if_neg (ne_true_of_eq_false hown)).trans (if_pos (by simpa using htaken)))

end

end

end

/-! ### Pushes and pops (R287) -/

section
variable {h : Hdr} {la : BitVec 4} {c : CSrc} {s s1 s2 : State} {a : Reg} {ck q i : Nat} {take user : Bool} {j : Option Nat}

theorem lapseFor_eq {r : Reply} : s.lapseFor ck j r = if r.code < 8 then s.lapse ck j else s := by
  simp only [State.lapseFor, ← Nat.not_lt, ite_not]

theorem pushIssue_of_far {d : Reg} (hfar : s.queueLocal ck q i = false) (hsend : MaySend s) : pushIssue s la ck q i d =
    (sent .sq la .remote true (s.queueOwner ck q i) (.push ck q i d.val d.p) s).consumeAll sqLatches := by
  rw [pushIssue, if_neg (ne_true_of_eq_false hfar), TaskWords.remoteOp_of_maySend hsend]

/-- What a pop or peek does once its record is claimed: its queue answers it, or a message asks the queue's owner. -/
def popIssue (s : State) (la : BitVec 4) (take user : Bool) (ck q i : Nat) (claim : Option (Nat × Nat)) : State :=
  if s.queueLocal ck q i then
    let r := s.popAt ck q i take user claim
    let s1 := if r.1.code < 8 then r.2.lapse s.myCk (claim.map Prod.snd) else r.2
    s1.sqLocal la true (queueWrites r.1 false)
  else (sent .sq la .remote true (s.queueOwner ck q i) (.pop ck q i take user claim) s).consumeAll sqLatches

/-- A pop or peek past its claim, with the record it claims. -/
def popEnd (la : BitVec 4) (take : Bool) (ck q i : Nat) (j : Option Nat) (s : State) : State :=
  let user := decide (s.mode s.cur = .user)
  let claim := j.map fun j => (s.myCk, j)
  if s.queueLocal ck q i then
    let r := s.popAt ck q i take user claim
    (r.2.lapseFor s.myCk j r.1).sqLocal la true (queueWrites r.1 false)
  else (s.remoteOp .sq la .remote true (s.queueOwner ck q i) fun _ => .pop ck q i take user claim).consumeAll sqLatches

section
variable (hg : guardTrue s.ctx h.guard = true) (hc : ReadsC s c a s1) (hs : Starts s1 s2) (ha : Handles s2 a ck q i)
  (hheld : s2.heldSets s2.cur = 0) (hw : WindowFree s2 2)
include hg hc hs ha hheld hw

theorem push_of_window (hmay : ¬ (q = 1 ∧ i = 15 ∧ s2.mode s2.cur ≠ .supervisor)) :
    exec (.sqPush h la c) s = .next (pushIssue s2 la ck q i (s2.ctx.latch .sqD)) :=
  TaskWords.exec_of_effect rfl hg hc hs ((queueGate_of_may ha ((if_pos rfl).mpr hmay)).trans ((LocalEffects.deferGate_of_unheld hheld).trans
    (windowGate_free _ _ _ hw)))

/-- A pop opens its gates up to its claim. -/
theorem pop_of_window (hmay : q = 1 → ck = s2.myCk) (hsend : s2.queueLocal ck q i = false → MaySend s2) :
    popTrigger h la take c s = claimGate s2 q (popEnd la take ck q i) := by
  refine (Scalar.guarded_readC hg hc).trans ((hs _).trans ((SyncWords.conflictGate_of_unheld hheld).trans ?_))
  exact (queueGate_of_may (push := false) ha hmay).trans ((windowGate_free _ _ _ hw).trans (nearGate_of_may hsend))

end

theorem popEnd_eq (hsend : s.queueLocal ck q i = false → MaySend s) :
    popEnd la take ck q i j s = popIssue s la take (decide (s.mode s.cur = .user)) ck q i (j.map fun j => (s.myCk, j)) := by
  rw [popEnd, popIssue]
  split
  next hown => simp only [lapseFor_eq, Option.map_map, Function.comp_def, Option.map_id']
  next hfar => rw [TaskWords.remoteOp_of_maySend (hsend ((Bool.not_eq_true _).mp hfar))]

end

/-- Settles O24: past its gates a push is `pushIssue`, and a pop is `popIssue` with the record that its claim gate found. -/
theorem queuePushAndPopResults : Obligations.QueuePushAndPopResults := by
  unfold Obligations.QueuePushAndPopResults
  intro at_
  refine ⟨fun h la c s s1 s2 a ck q i hg hc hs ha hmay hheld hw => ⟨fun hown => ?pushes, fun hfar hsend => ?sends⟩,
    fun take h la c s s1 s2 a ck q i hg hc hs ha hmay hheld hw hsend => ?pop⟩
  case pushes =>
    rw [push_of_window hg hc hs ha hheld hw hmay, pushIssue, if_pos hown]
    rfl
  case sends =>
    rw [push_of_window hg hc hs ha hheld hw hmay, pushIssue_of_far hfar hsend]
    rfl
  case pop =>
    intro I user done
    have hword : exec I s = .next (popTrigger h la take c s) := by cases take <;> rfl
    rw [hword, pop_of_window hg hc hs ha hheld hw hmay hsend]
    refine ⟨fun hq => ?none, fun hq hm => ⟨fun hown => ?own, fun hown => ⟨fun ht hopen => ?opens, fun htaken => ?taken⟩⟩⟩
    case none => exact congrArg _ ((claimGate_of_unclaimed (hq.imp_right of_decide_eq_true)).trans (popEnd_eq (j := none) hsend))
    case own => exact congrArg _ ((claimGate_of_own hq (of_decide_eq_false hm) hown).trans (popEnd_eq (j := some _) hsend))
    case opens =>
      rw [claimGate_of_open hq (of_decide_eq_false hm) hown ht hopen, popEnd_eq (s := claimed s2 _) hsend, mode_claimed]
      rfl
    case taken => exact congrArg _ (claimGate_of_taken hq (of_decide_eq_false hm) hown htaken)

/-! ### Waits (R288) -/

/-- The latches and the bound of a wait, as its word finds them. -/
structure WaitArgs where
  la : BitVec 4
  push : Bool
  bound : BitVec 10
  hd : Reg
  ck : Nat
  q : Nat
  i : Nat

section
variable {w : WaitArgs} {user : Bool} {j : Option Nat} {s : State}

/-- The try that a wait sends to a queue elsewhere. -/
def waitOp (w : WaitArgs) (user : Bool) (j : Option Nat) (s : State) : RemoteOp :=
  let d := s.ctx.latch .sqD
  tryOp w.ck w.q w.i w.push d.val d.p user (j.map fun j => (s.myCk, j))

/-- The strand waits with its bound, and both latches are consumed. -/
def waiting (w : WaitArgs) (user : Bool) (j : Option Nat) (s : State) : State :=
  let d := s.ctx.latch .sqD
  let lim := if w.bound = 0 then s.me.ceiling else min (w.bound.toNat * 256) s.me.ceiling
  (s.asWaiting.launchVar .sq w.la (.queue w.push w.hd.v d.val d.p user j) lim 12 true false []).consumeAll sqLatches

/-- The waiting strand sends its try. -/
def tried (w : WaitArgs) (user : Bool) (j : Option Nat) (s t : State) : State :=
  t.sendRemote s.cur (s.queueOwner w.ck w.q w.i) (waitOp w user j s) s.me.seq s.ctx.pc s.second

/-- A wait past its claim: at a queue of the own core the strand joins the waiters; elsewhere its try has been answered, is outstanding, or
is sent. -/
def waitEnd (w : WaitArgs) (user : Bool) (j : Option Nat) (s : State) : State :=
  if s.queueLocal w.ck w.q w.i then ((waiting w user j s).joinWaiters w.ck w.q w.i s.cur).push (.variableResultLand s.cur s.me.seq)
  else match s.me.tryReply, s.me.orphan (waitOp w user j s) with
    | some (o, r), _ =>
      if o = waitOp w user j s then
        ((waiting w user j s).updMe fun x => { x with tryReply := none }).arrive s.cur s.me.seq (queueWrites r w.push)
      else tried w user j s (waiting w user j s)
    | none, some old => (waiting w user j s).updMe fun x => x.adoptReq old.seq
    | none, none => tried w user j s ((waiting w user j s).updMe fun x => { x with queueSeen := (0, 0) })

theorem waitEnd_of_own (hown : s.queueLocal w.ck w.q w.i = true) : waitEnd w user j s =
    ((waiting w user j s).joinWaiters w.ck w.q w.i s.cur).push (.variableResultLand s.cur s.me.seq) := if_pos hown

section
variable (hfar : s.queueLocal w.ck w.q w.i = false)
include hfar

theorem waitEnd_of_new (hreply : s.me.tryReply = none) (horphan : s.me.orphan (waitOp w user j s) = none) : waitEnd w user j s =
    tried w user j s ((waiting w user j s).updMe fun x => { x with queueSeen := (0, 0) }) := by
  rw [waitEnd, if_neg (ne_true_of_eq_false hfar), hreply, horphan]

theorem waitEnd_of_orphan {old : Req} (hreply : s.me.tryReply = none) (horphan : s.me.orphan (waitOp w user j s) = some old) :
    waitEnd w user j s = (waiting w user j s).updMe fun x => x.adoptReq old.seq := by
  rw [waitEnd, if_neg (ne_true_of_eq_false hfar), hreply, horphan]

theorem waitEnd_of_answered {r : Reply} (hreply : s.me.tryReply = some (waitOp w user j s, r)) : waitEnd w user j s =
    ((waiting w user j s).updMe fun x => { x with tryReply := none }).arrive s.cur s.me.seq (queueWrites r w.push) := by
  rw [waitEnd, if_neg (ne_true_of_eq_false hfar), hreply]
  exact if_pos rfl

theorem waitEnd_of_otherAnswered {o : RemoteOp} {r : Reply} (hreply : s.me.tryReply = some (o, r)) (hother : o ≠ waitOp w user j s) :
    waitEnd w user j s = tried w user j s (waiting w user j s) := by
  rw [waitEnd, if_neg (ne_true_of_eq_false hfar), hreply]
  exact if_neg hother

end

/-- Only a pop claims a record. -/
def claimStep (w : WaitArgs) (kc : Option Nat → State → State) (s : State) : State :=
  if w.push then kc none s else claimGate s w.q kc

theorem claimStep_of_pop {kc : Option Nat → State → State} (hpop : w.push = false) : claimStep w kc s = claimGate s w.q kc :=
  if_neg (ne_true_of_eq_false hpop)

theorem claimStep_of_unclaimed {kc : Option Nat → State → State} (hq : w.push = true ∨ w.q = 1 ∨ s.mode s.cur = .user) :
    claimStep w kc s = kc none s := by
  rw [claimStep]
  split
  next => rfl
  next hpop => exact claimGate_of_unclaimed (hq.resolve_left hpop)

/-- A wait opens its gates up to its claim. -/
theorem wait_of_window {h : Hdr} {s s1 : State} (hg : guardTrue s.ctx h.guard = true) (hs : Starts s s1) (hw : w.hd = s1.ctx.latch .sqH)
    (ha : Handles s1 w.hd w.ck w.q w.i) (hmay : MayName s1 w.push w.ck w.q w.i) (hheld : s1.heldSets s1.cur = 0)
    (hfree : WindowFree s1 (if w.push then 1 else 2)) (hsend : s1.queueLocal w.ck w.q w.i = false → MaySend s1) :
    queueWait h w.la w.push w.bound s =
      claimStep w (fun j s => waitEnd w (decide (s.mode s.cur = .user)) j s) s1 := by
  refine (guarded_of_true _ hg).trans ((hs _).trans ?_)
  dsimp only
  rw [← hw]
  refine (SyncWords.conflictGate_of_unheld hheld).trans ((queueGate_of_may ha hmay).trans ?_)
  refine (windowGate_free _ _ _ hfree).trans ((nearGate_of_may hsend).trans ?_)
  rw [claimStep]
  split <;> rfl

end

/-- Settles O25: past its gates a wait is `waitEnd` with the record that its claim gate found. -/
theorem queueWaitResults : Obligations.QueueWaitResults := by
  unfold Obligations.QueueWaitResults
  intro push h la n s s1 ck q i hg hs hd d user hp hh hmay hheld hw hsend lim I waits
  let w : WaitArgs := { la := la, push := push, bound := n, hd := hd, ck := ck, q := q, i := i }
  have hI : exec I s = .next (queueWait h la push n s) := by cases push <;> rfl
  have hword := hI.trans (congrArg _ (wait_of_window (w := w) hg hs rfl ⟨hp, hh⟩ hmay hheld hw hsend))
  -- A claim of the own core changes nothing that the end of a wait asks of its state.
  have ends {j : Option Nat} {s0 : State} (hs0 : s0 = s1 ∨ ∃ i, s0 = claimed s1 i) (hrun : exec I s = .next (waitEnd w user j s0)) :
      waits j s0 := by
    obtain rfl | ⟨_, rfl⟩ := hs0
    all_goals
      refine ⟨fun hown => hrun.trans (congrArg _ (waitEnd_of_own hown)), fun hfar => ⟨fun hreply horphan => ?_, fun old hreply horphan => ?_,
        fun r hreply => ?_, fun o r hreply hother => ?_⟩⟩
      · exact hrun.trans (congrArg _ (waitEnd_of_new hfar hreply horphan))
      · exact hrun.trans (congrArg _ (waitEnd_of_orphan hfar hreply horphan))
      · exact hrun.trans (congrArg _ (waitEnd_of_answered hfar hreply))
      · exact hrun.trans (congrArg _ (waitEnd_of_otherAnswered hfar hreply hother))
  refine ⟨fun hq => ends (.inl rfl) (hword.trans (congrArg _ (claimStep_of_unclaimed (hq.imp_right (Or.imp_right of_decide_eq_true))))),
    fun hpop hq hm => ?pop⟩
  have hword := hword.trans (congrArg _ (claimStep_of_pop hpop))
  have hm := of_decide_eq_false hm
  refine ⟨fun hown => ends (.inl rfl) (hword.trans (congrArg _ (claimGate_of_own hq hm hown))),
    fun hown ht hopen => ends (.inr ⟨_, rfl⟩) (hword.trans (congrArg _ ((claimGate_of_open hq hm hown ht hopen).trans ?_))),
    fun hown htaken => hword.trans (congrArg _ (claimGate_of_taken hq hm hown htaken))⟩
  rw [mode_claimed]
  rfl

end Sys2Proof.QueueWords
end

section
/-! PROOFS. The `sr` words: writes of system registers (O32), and translation control with `sr.ackfloor` (O33). -/

namespace Sys2Proof.SystemWords

open Sys2Proof.Machine Sys2Proof.Claims Sys2Proof.Laws

section
variable {h : Hdr} {la : BitVec 4} {c : CSrc} {s s1 t : State} {a : Reg} {r : Fin 21} {i : Instr} {kr : Reg → State → State}

/-! ### Writes of registers (R322, Table 13-1) -/

/-- A register that the strand may write takes what its source delivers. -/
theorem exec_of_writable (hi : exec i s = .next (guarded h s fun s => srGate s r fun s => readC s c kr))
    (hg : guardTrue s.ctx h.guard = true) (hmay : ∀ k, srGate s r k = k s) (hc : ReadsC s c a s1) (ht : kr a s1 = t) : exec i s = .next t := by
  rw [hi, guarded_of_true _ hg, hmay, hc, ht]

/-- A register that the strand may not write. -/
theorem exec_of_unwritable (hi : exec i s = .next (guarded h s fun s => srGate s r fun s => readC s c kr))
    (hg : guardTrue s.ctx h.guard = true) (hnot : ∀ k, srGate s r k = s.faultWord causePrivilege) :
    exec i s = .next (s.faultWord causePrivilege) := by
  rw [hi, guarded_of_true _ hg, hnot]

theorem trpOk_eq {w : BitVec 64} :
    trpOk w = decide (bitsAt w 62 41 = 0 ∧ bitsAt w 31 24 = 0 ∧ (w.getLsbD 63 = true → bitsAt w 23 0 = 0)) := by
  rw [trpOk, Bool.eq_iff_iff]
  simp only [Bool.and_eq_true, Bool.or_eq_true, Bool.not_eq_true', decide_eq_true_eq, imp_iff_not_or, Bool.not_eq_true, and_assoc]

/-- The server of a core may be configured while no reduction is in progress and, to enable it, strand 15 is idle (R250). -/
theorem redBusy_iff {w : BitVec 64} {k : Core} {idle : Prop} [Decidable idle] :
    (k.red.phase ≠ .idle ∨ (w.getLsbD 63 = true ∧ (!k.serves) = true ∧ (!decide idle) = true)) ↔
      k.red.phase ≠ .idle ∨ (w.getLsbD 63 = true ∧ k.redpin.getLsbD 63 = false ∧ ¬ idle) := by
  simp only [Core.serves, Bool.not_eq_true', decide_eq_false_iff_not]

end

/-- Settles O32: past its privilege a register takes a value that breaks no limit of it. -/
theorem systemRegisterWrites : Obligations.SystemRegisterWrites := by
  unfold Obligations.SystemRegisterWrites
  intro h c s s1 a hg hc w bad lands now
  refine ⟨?wcl, ?chl, ?fx, fun hm => ?kernel, fun hm r hr => ?user, fun r hr => ?readOnly, ?alarm, ?rng,
    fun hm => Chunks.exec_of_guarded rfl hg (TaskWords.needKernel_of_user hm), fun hm => ?redpin⟩
  case wcl | chl | fx => exact exec_of_writable rfl hg (fun _ => rfl) hc rfl
  case kernel =>
    rw [← trpOk_eq]
    refine ⟨?_, ?_, ?_, ?_, ?_, ?_, ?_, ?disc⟩
    case disc =>
      refine exec_of_writable rfl hg (fun _ => MatrixUnit.needKernel_of_mode hm) hc ?_
      rw [← BitVec.ofNat_toNat]
      rfl
    all_goals exact exec_of_writable rfl hg (fun _ => MatrixUnit.needKernel_of_mode hm) hc rfl
  case user =>
    simp only [List.mem_cons, List.not_mem_nil, or_false] at hr
    refine exec_of_unwritable rfl hg fun k => ?_
    rcases hr with rfl | rfl | rfl | rfl | rfl | rfl | rfl | rfl
    all_goals exact TaskWords.needKernel_of_user hm
  case readOnly =>
    simp only [List.mem_cons, List.not_mem_nil, or_false] at hr
    refine exec_of_unwritable rfl hg fun k => ?_
    rcases hr with rfl | rfl | rfl | rfl | rfl | rfl | rfl | rfl | rfl | rfl
    all_goals rfl
  case alarm =>
    refine congrArg _ ((Scalar.guarded_readC hg hc).trans ?_)
    dsimp only [limited]
    cases w.getLsbD 63 <;> rfl
  case rng => exact congrArg _ (Scalar.guarded_readC hg hc)
  case redpin =>
    intro core busy
    have run {t} (ht) : exec (.writeRedpin h c) s = .next t :=
      Chunks.exec_of_guarded rfl hg ((MatrixUnit.needKernel_of_mode hm).trans ((hc _).trans ht))
    refine ⟨fun hbad => run (if_neg (ne_true_of_eq_false hbad)), fun hok hbusy => run ((if_pos hok).trans (if_pos (redBusy_iff.mpr hbusy))),
      fun hok hfree => run ((if_pos hok).trans (if_neg (mt redBusy_iff.mp hfree)))⟩

section
variable {h : Hdr} {la : BitVec 4} {c : CSrc} {s s1 t : State} {a : Reg} {off : Nat}

/-! ### Translation control (R334, R335) -/

/-- Whether a source is an immediate: for `sr.tlbinv`, all entries. -/
def isImm : CSrc → Bool
  | .imm _ => true
  | _ => false

theorem isImm_iff : isImm c = true ↔ ∃ i, c = .imm i := by
  cases c <;> simp [isImm]

/-- What `sr.tlbinv` of a source invalidates: all entries, or a page. -/
def invalidated (c : CSrc) (v : Reg80) : Option Nat :=
  if isImm c then none else some (offOf v + if classOf v = 4 then 2 ^ 64 else 0)

/-- The pointers whose page `sr.tlbinv` may name. -/
abbrev PageOk (v : Reg80) : Prop := (classOf v = 3 ∨ classOf v = 4) ∧ qualOf v = 0

section
variable (hg : guardTrue s.ctx h.guard = true) (hm : s.mode s.cur ≠ .user) (hc : ReadsC s c a s1)
include hg hm hc

/-- The checks of `sr.tlbinv` in their order. -/
theorem tlbinv_of_reads : exec (.srTlbinv h la c) s = .next (
    if (!isImm c && a.p) = true then s1.faultPoison a.v
    else if (!isImm c && decide (¬ PageOk a.v)) = true then s1.faultAddr causeWindow a.v
    else if s1.me.chunk.len ≠ 0 then s1.endFirst
    else if s1.me.await.isSome = true then s1.hold .stalledLA .chunkAwait 0
    else (s1.invalidate (invalidated c a.v)).srLocal la) :=
  Chunks.exec_of_guarded rfl hg ((MatrixUnit.needKernel_of_mode hm).trans ((hc _).trans (by cases c <;> rfl)))

/-- A `sr.tlbinv` that passes its checks. -/
theorem tlbinv_of_ok (hok : isImm c = true ∨ (a.p = false ∧ PageOk a.v)) : exec (.srTlbinv h la c) s = .next (
    if s1.me.chunk.len ≠ 0 then s1.endFirst
    else if s1.me.await.isSome = true then s1.hold .stalledLA .chunkAwait 0
    else (s1.invalidate (invalidated c a.v)).srLocal la) := by
  rw [tlbinv_of_reads hg hm hc]
  rcases hok with hall | ⟨hp, hpage⟩
  · rw [hall]
    rfl
  · rw [if_neg (by simp [hp]), if_neg (by simp [hpage])]

/-! ### The floor of an image (R231) -/

theorem ackfloor_of_private (hp : a.p = false) (hcheck : s1.checkAccess s1.myCk (s1.mode s1.cur) a.v 8192 64 = .ok (.tile s1.myCk off))
    (hpriv : s1.privRange (pidOf s1.myCk) off 8192 = true) : exec (.srAckfloor h la c) s = .next (
      if s1.unchanged s1.myCk off 8192 = true then
        let f := localFlat s1.myCk off
        ((s1.placeNum (some s1.cur) (f + 5204) 4 (s1.load (f + 5200) 4) false).floorToAll (pidOf s1.myCk) (s1.load (f + 5192) 8)
          (s1.load (f + 5200) 4)).srLocal la
      else s1.srLocal la) := by
  refine Chunks.exec_of_guarded rfl hg ((MatrixUnit.needKernel_of_mode hm).trans ((hc _).trans ((if_neg (ne_true_of_eq_false hp)).trans ?_)))
  rw [hcheck]
  exact if_neg (by simp [hpriv])

end

end

/-- Settles O33: past its checks `sr.tlbinv` sends what it invalidates, and `sr.ackfloor` asks only whether the image has changed. -/
theorem translationControlResults : Obligations.TranslationControlResults := by
  unfold Obligations.TranslationControlResults
  intro note h la c s hg
  refine ⟨fun hm => ?user, fun hm => ⟨Chunks.exec_of_guarded rfl hg (MatrixUnit.needKernel_of_mode hm), fun s1 a hc => ?kernel⟩⟩
  case user =>
    have refused {i k} (hi : exec i s = .next (guarded h s fun s => needKernel s k)) : exec i s = .next (s.faultWord causePrivilege) :=
      Chunks.exec_of_guarded hi hg (TaskWords.needKernel_of_user hm)
    exact ⟨refused rfl, refused rfl, refused rfl⟩
  case kernel =>
    intro all page what flush
    have himm : isImm c = true ↔ all := isImm_iff
    refine ⟨fun hall hp => ?poison, fun hall hp hpage => ?window, fun hok => ⟨fun hlen => ?ends, fun hlen haw => ?waits, fun hlen haw => ?sends⟩,
      fun hp => ?marked, fun off hp hcheck hpriv => ⟨fun hchanged => ?changed, fun hsame => ?same⟩⟩
    case poison => rw [tlbinv_of_reads hg hm hc, if_pos (by simp [mt himm.mp hall, hp])]
    case window =>
      rw [tlbinv_of_reads hg hm hc, if_neg (by simp [hp]), if_pos]
      simp [mt himm.mp hall, show ¬ PageOk a.v from hpage]
    case ends => rw [tlbinv_of_ok hg hm hc (hok.imp_left himm.mpr), if_pos hlen]
    case waits => rw [tlbinv_of_ok hg hm hc (hok.imp_left himm.mpr), if_neg (not_not_intro hlen), if_pos haw]
    case sends =>
      rw [tlbinv_of_ok hg hm hc (hok.imp_left himm.mpr), if_neg (not_not_intro hlen), if_neg (by simp [haw]), invalidated]
      refine ⟨fun hall => ?_, fun hall => ?_⟩
      · rw [if_pos (himm.mpr hall)]
        rfl
      · have hwhat : (offOf a.v + if classOf a.v = 4 then 2 ^ 64 else 0) = what := apply_ite (offOf a.v + ·) _ _ _
        rw [if_neg (mt himm.mp hall), hwhat]
        rfl
    case marked =>
      exact Chunks.exec_of_guarded rfl hg ((MatrixUnit.needKernel_of_mode hm).trans ((hc _).trans (if_pos hp)))
    case changed =>
      rw [ackfloor_of_private hg hm hc hp hcheck hpriv, if_neg (ne_true_of_eq_false hchanged)]
      rfl
    case same =>
      rw [ackfloor_of_private hg hm hc hp hcheck hpriv, if_pos hsame]
      rfl

end Sys2Proof.SystemWords
end

section
/-! PROOFS. Fetch and clock events (O39): fills of the pair cache, the shared time of a region, and the flits of a link. -/

namespace Sys2Proof.FetchAndClock

open Sys2Proof.Machine

section
variable {s : State} {sid : Nat}

/-! ### Fetch (R313, R314) -/

theorem slip_of_cached (hpair : (s.group (gkOf (ckOf sid))).pairAt (s.strand sid).ctx.pc ≠ none) : exec (.slip sid) s = .next s :=
  congrArg _ (if_pos (.inr (Option.isSome_iff_ne_none.mpr hpair)))

theorem slip_of_unready (hst : (s.strand sid).st ≠ .ready) : exec (.slip sid) s = .next s := congrArg _ (if_pos (.inl hst))

/-- A strand has slipped: it waits for its line, and has counted `n` slips more. -/
def slipped (s : State) (sid : Nat) (n : BitVec 32) : State :=
  (((s.enterWait sid .slip .fetch 0).updStrand sid fun y => { y with slips := y.slips + n, fetchSends := 1, retryAt := s.now + 64000 }).askFill
    (ckOf sid) ((s.strand sid).ctx.pc.toNat / 16)).pushOnce (.fetchRetryTimeout sid)

section
variable (hst : (s.strand sid).st = .ready) (hpair : (s.group (gkOf (ckOf sid))).pairAt (s.strand sid).ctx.pc = none)
include hst hpair

theorem not_slip_idle : ¬ ((s.strand sid).st ≠ .ready ∨ ((s.group (gkOf (ckOf sid))).pairAt (s.strand sid).ctx.pc).isSome = true) := by
  simp [hst, hpair]

theorem slip_of_resumed {n : Nat} (hcarry : (s.strand sid).carry = some (.slip, n)) : exec (.slip sid) s = .next (slipped s sid 0) := by
  refine congrArg Host.Outcome.next ((if_neg (not_slip_idle hst hpair)).trans ?_)
  rw [hcarry]
  rw [slipped]
  simp only [if_true, BitVec.ofNat_eq_ofNat, BitVec.add_zero]

theorem slip_of_new (hcarry : ∀ n, (s.strand sid).carry ≠ some (.slip, n)) : exec (.slip sid) s = .next (slipped s sid 1) := by
  refine congrArg Host.Outcome.next ((if_neg (not_slip_idle hst hpair)).trans ?_)
  dsimp only
  split
  next n hn => exact absurd hn (hcarry n)
  next => rfl

end

theorem fetchRetry_of_other (hst : (s.strand sid).st ≠ .slip) : exec (.fetchRetryTimeout sid) s = .next s := congrArg _ (if_pos hst)

section
variable (hst : (s.strand sid).st = .slip)
include hst

theorem fetchRetry_of_early (hnow : s.now < (s.strand sid).retryAt) :
    exec (.fetchRetryTimeout sid) s = .next (s.pushOnce (.fetchRetryTimeout sid)) :=
  congrArg _ ((if_neg (not_not_intro hst)).trans (if_pos hnow))

theorem fetchRetry_of_due (hnow : (s.strand sid).retryAt ≤ s.now) : exec (.fetchRetryTimeout sid) s = .next (
    if 8 ≤ (s.strand sid).fetchSends then s.freezeFetch sid 2
    else ((s.setStrand sid { s.strand sid with fetchSends := (s.strand sid).fetchSends + 1, retryAt := s.now + 64000 }).askFill (ckOf sid)
      ((s.strand sid).ctx.pc.toNat / 16)).pushOnce (.fetchRetryTimeout sid)) :=
  congrArg _ ((if_neg (not_not_intro hst)).trans (if_neg (Nat.not_lt.mpr hnow)))

end

/-! ### The time of a region (R308) -/

section
variable {rk : Nat}

theorem timeReferencePulse_eq {t : Nat} : exec (.timeReferencePulse rk t) s = .next (
    if s.now < t then s.pushOnce (.timeReferencePulse rk t)
    else ((s.updRegion rk fun r => { r with pulse := s.now, lost := false }).pushOnce (.timeReferencePulse rk (t + 1000))).pushOnce
      (.timeReferenceLost rk)) := rfl

theorem timeReferenceLost_of_told (hlost : (s.region rk).lost = true) : exec (.timeReferenceLost rk) s = .next s := congrArg _ (if_pos hlost)

section
variable (hlost : (s.region rk).lost = false)
include hlost

theorem timeReferenceLost_of_early (hnow : s.now < (s.region rk).pulse + 64000) :
    exec (.timeReferenceLost rk) s = .next (s.pushOnce (.timeReferenceLost rk)) :=
  congrArg _ ((if_neg (ne_true_of_eq_false hlost)).trans (if_pos hnow))

theorem timeReferenceLost_of_due {pid : Nat} (hnow : (s.region rk).pulse + 64000 ≤ s.now) (hpid : (s.region rk).pid = some pid) :
    exec (.timeReferenceLost rk) s =
      .next ((s.updRegion rk fun r => { r with lost := true }).report 0x41 0 (s.supCore pid rk) [BitVec.ofNat 8 rk]) := by
  refine congrArg Host.Outcome.next ((if_neg (ne_true_of_eq_false hlost)).trans ((if_neg (Nat.not_lt.mpr hnow)).trans ?_))
  rw [hpid]

end

end

/-! ### Links (R310) -/

/-- A move of a link sends a flit, lets one arrive, or takes the oldest where it is ripe. -/
theorem moveLink_cases (s : State) (n c : Nat) :
    (∃ l, s.moveLink n c = { s with links := s.links.put n l } ∧ (l = (s.link n).send (s.linkCycle n) ∨ l = (s.link n).arrive)) ∨
    (∃ f, (s.link n).ripe (s.linkCycle n) = some f ∧ s.moveLink n c = s.takeFlit n f) ∨
    ((s.link n).ripe (s.linkCycle n) = none ∧ s.moveLink n c = s) := by
  rw [State.moveLink]
  split
  next => exact .inl ⟨_, rfl, .inl rfl⟩
  next =>
    split
    next => exact .inl ⟨_, rfl, .inr rfl⟩
    next =>
      cases hripe : (s.link n).ripe (s.linkCycle n) with
      | some f => exact .inr (.inl ⟨f, rfl, rfl⟩)
      | none => exact .inr (.inr ⟨rfl, rfl⟩)

/-- A link with a flit left is to move again. -/
theorem boundaryFlitCrossing_moves (s : State) (n : Nat) :
    ∃ t, exec (.boundaryFlitCrossing n) s = .next t ∧
      (t = s.bump.moveLink n (Config.choice s.fresh) ∨ t = (s.bump.moveLink n (Config.choice s.fresh)).pushOnce (.boundaryFlitCrossing n)) := by
  refine ⟨_, rfl, ?_⟩
  dsimp only
  split
  next => exact .inl rfl
  next => exact .inr rfl

end

/-- Settles O39: each event is its conditions in order; what a line asks for, and how a link moves, are said once. -/
theorem fetchAndClockEventsComplete : Obligations.FetchAndClockEventsComplete := by
  unfold Obligations.FetchAndClockEventsComplete
  intro sid s
  refine ⟨⟨slip_of_cached, slip_of_unready, fun hst hpair => ⟨slip_of_new hst hpair, fun n => slip_of_resumed hst hpair⟩, fetchRetry_of_other,
      fun hst => ⟨fetchRetry_of_early hst, fun hnow hsends => ?frozen, fun hnow hsends => ?again⟩⟩,
    fun ck line => ⟨fun hasked => if_pos hasked, fun hnew => if_neg (ne_true_of_eq_false hnew)⟩, fun ck line => rfl, rfl,
    fun rk => ⟨rfl, rfl, fun t => ⟨fun hnow => ?early, fun hnow => ?pulse⟩, timeReferenceLost_of_told, timeReferenceLost_of_early,
      fun pid hlost hnow hpid => timeReferenceLost_of_due hlost hnow hpid, rfl, fun t ts => rfl⟩,
    fun n => ⟨rfl, ?flit⟩⟩
  case frozen => exact (fetchRetry_of_due hst hnow).trans (congrArg _ (if_pos hsends))
  case again => exact (fetchRetry_of_due hst hnow).trans (congrArg _ (if_neg (Nat.not_le.mpr hsends)))
  case early => exact timeReferencePulse_eq.trans (congrArg _ (if_pos hnow))
  case pulse => exact timeReferencePulse_eq.trans (congrArg _ (if_neg (Nat.not_lt.mpr hnow)))
  case flit =>
    obtain ⟨t, hexec, ht⟩ := boundaryFlitCrossing_moves s n
    exact ⟨t, _, hexec, ht, moveLink_cases s.bump n _⟩

end Sys2Proof.FetchAndClock
end

section
/-! PROOFS. Pre-emption and restore (O47). Each event is its conditions in order; a restore is followed by what it finds. -/

namespace Sys2Proof.Preemption

open Sys2Proof.Machine

section
variable {s : State} {pid : Nat} {q : Preempt}

/-! ### Pre-emption (R337) -/

theorem preemptRequest_of_free {area : Nat} (hlive : (s.part pid).live = true) (hnone : (s.part pid).preempt = none)
    (harea : s.ofWorld (s.part pid).secure area (s.saveBytes pid) = true) : exec (.preemptRequest pid area) s =
      .next (((s.setPart pid { s.part pid with preempt := some { area := area, since := s.now, stopping := false, stopped := [] } }).pushOnce
        (.preemptSave pid)).pushOnce (.preemptGraceExpiry pid)) :=
  congrArg _ (if_neg (by simp [hlive, hnone, harea]))

section
variable (hq : (s.part pid).preempt = some q)
include hq

theorem preemptSave_of_open : exec (.preemptSave pid) s = .next (
    if q.stopping = true then
      if (s.allStopped pid && (s.partGroups pid).all s.groupDrained) = true then s.savePart pid q else s.pushOnce (.preemptSave pid)
    else if s.now < q.since + 200000 ∧ (s.firstUnblocked pid).isNone = true then (s.stopAll pid q).pushOnce (.preemptSave pid)
    else s.pushOnce (.preemptSave pid)) := by
  refine congrArg Host.Outcome.next ?_
  rw [hq]

theorem preemptGraceExpiry_of_open : exec (.preemptGraceExpiry pid) s = .next (
    if q.stopping = true then s
    else if s.now < q.since + 200000 then s.pushOnce (.preemptGraceExpiry pid)
    else (s.partRegions pid).foldl (fun s rk => s.pushOnce (.launchExpansion pid rk))
      ((s.updPart pid fun p => { p with preempt := none }).refuseRegion (s.firstUnblocked pid))) := by
  refine congrArg Host.Outcome.next ?_
  rw [hq]

end

/-! ### Restore (R339, R384) -/

section
variable {area rx ry : Nat} {v : Saved}

/-- The partition that an area holds lives uninterrupted, or does not fit at a place of the wafer. -/
abbrev NoRoom (s : State) (v : Saved) (rx ry : Nat) : Prop :=
  12 < rx + v.part.wr ∨ 12 < ry + v.part.hr ∨ ((s.part v.pid).live && !s.interrupted v.pid) = true

/-- An interrupted partition gives its regions up before its restore (R384). -/
def givenUp (s : State) (v : Saved) : State := if (s.part v.pid).live then s.wipePart v.pid else s

/-- The regions of a restore, with their places in what was saved. -/
def restored (v : Saved) (rx ry : Nat) : List (Nat × Nat) := (rectRegions rx ry v.part.wr v.part.hr).mapIdx fun j rk => (j, rk)

/-- The base latency of a restored partition by its regions' plans. -/
def restoredBase (s : State) (v : Saved) (rx ry : Nat) (plans : List (List (Nat × Vector Nat 4) × List Nat)) : Nat :=
  let w := s.grade.width
  s.latencyBase v.part.h (((rectRegions rx ry v.part.wr v.part.hr).zip plans).flatMap fun q =>
    q.2.1.mapIdx fun i g => (q.1 * 36 + g.1, (q.1 % 12) * w + i % w, (q.1 / 12) * 4 + i / w))

variable (hsaved : s.saved.find area = some v)
include hsaved

theorem restore_of_noRoom (hno : NoRoom s v rx ry) : exec (.partitionRestore area rx ry) s = .next (s.refuseRegion (some (ry * 12 + rx))) := by
  refine congrArg Host.Outcome.next ?_
  rw [hsaved]
  exact if_pos hno

section
variable (hroom : ¬ NoRoom s v rx ry)
include hroom

theorem restore_of_error {rk : Nat} (hplan : (givenUp s v).restorePlans v (restored v rx ry) = .error rk) :
    exec (.partitionRestore area rx ry) s = .next (s.refuseRegion (some rk)) := by
  refine congrArg Host.Outcome.next ?_
  rw [hsaved]
  refine (if_neg hroom).trans ?_
  rw [← restored, ← givenUp]
  dsimp only
  rw [hplan]

theorem restore_of_plans {plans : List (List (Nat × Vector Nat 4) × List Nat)}
    (hplan : (givenUp s v).restorePlans v (restored v rx ry) = .ok plans) : exec (.partitionRestore area rx ry) s = .next (
      if 255 < restoredBase (givenUp s v) v rx ry plans then s.refuseRegion (some (ry * 12 + rx))
      else (givenUp s v).restorePart v rx ry plans (restoredBase (givenUp s v) v rx ry plans)) := by
  refine congrArg Host.Outcome.next ?_
  rw [hsaved]
  refine (if_neg hroom).trans ?_
  rw [← restored, ← givenUp]
  dsimp only
  rw [hplan]
  rfl

end

end

end

/-- Settles O47: each step of a pre-emption asks whether it stops already and whether its grace is over; a restore asks for room, for its
plans and for its latency. -/
theorem preemptionAndRestoreComplete : Obligations.PreemptionAndRestoreComplete := by
  unfold Obligations.PreemptionAndRestoreComplete
  intro s refused
  refine ⟨fun pid => ⟨fun area => preemptRequest_of_free, fun q hq => ⟨fun hrun hnow hblocked => ?stops, fun hrun hnot => ?waits,
    fun hstop hall hdrained => ?saves, fun hrun hnow => ?grace, fun hrun hnow => ?withdrawn⟩⟩, fun area rx ry v hsaved => ?restore⟩
  case stops =>
    rw [preemptSave_of_open hq, if_neg (ne_true_of_eq_false hrun), if_pos ⟨hnow, Option.isNone_iff_eq_none.mpr hblocked⟩]
  case waits =>
    rw [preemptSave_of_open hq, if_neg (ne_true_of_eq_false hrun), if_neg (by simpa using hnot)]
  case saves =>
    rw [preemptSave_of_open hq, if_pos hstop, if_pos (by simpa [hall] using hdrained)]
  case grace =>
    rw [preemptGraceExpiry_of_open hq, if_neg (ne_true_of_eq_false hrun), if_pos hnow]
  case withdrawn =>
    rw [preemptGraceExpiry_of_open hq, if_neg (ne_true_of_eq_false hrun), if_neg (Nat.not_lt.mpr hnow)]
    rfl
  case restore =>
    intro rks beside
    refine ⟨restore_of_noRoom hsaved, fun hx hy hlive => ?_⟩
    have hroom : ¬ NoRoom s v rx ry :=
      not_or.mpr ⟨Nat.not_lt.mpr hx, not_or.mpr ⟨Nat.not_lt.mpr hy, ne_true_of_eq_false hlive⟩⟩
    refine ⟨fun rk hplan => restore_of_error hsaved hroom hplan, fun plans hplan => ⟨fun hb => ?_, fun hb => ?_⟩⟩
    · exact (restore_of_plans hsaved hroom hplan).trans (congrArg _ (if_pos hb))
    · exact (restore_of_plans hsaved hroom hplan).trans (congrArg _ (if_neg (Nat.not_lt.mpr hb)))

end Sys2Proof.Preemption
end

section
/-! PROOFS. Host queues (O48). A command that its queue runs, legal and of its world, is what `withHostCmd` goes on with. -/

namespace Sys2Proof.HostQueues

open Sys2Proof.Machine

section
variable {s : State} {q op : Nat} {r : HostRun} {k : HostRun → State → State}

/-- A queue runs a command of operation `op`. -/
abbrev RunsOp (s : State) (q : Nat) (r : HostRun) (op : Nat) : Prop := (s.hostq q).run = some r ∧ hcOp r.cmd = op

/-- A command is legal and of its queue's world. -/
abbrev CmdMay (s : State) (q : Nat) (r : HostRun) : Prop := hcOk r.cmd = true ∧ s.hcWorld (s.hostq q) r.cmd = true

theorem withHostCmd_of_runs (hr : RunsOp s q r op) : s.withHostCmd q op k =
    if (!hcOk r.cmd) = true then s.hostHalt q 1
    else if (!s.hcWorld (s.hostq q) r.cmd) = true then (if r.outstanding = [] then s.hostHalt q 2 else s)
    else k r s := by
  obtain ⟨hrun, hop⟩ := hr
  rw [State.withHostCmd, hrun]
  exact if_neg fun hother => hother.1 hop

theorem withHostCmd_of_may (hr : RunsOp s q r op) (hmay : CmdMay s q r) : s.withHostCmd q op k = k r s := by
  obtain ⟨hok, hworld⟩ := hmay
  rw [withHostCmd_of_runs hr, if_neg (by simp [hok]), if_neg (by simp [hworld])]

theorem withHostCmd_of_illegal (hr : RunsOp s q r op) (hbad : hcOk r.cmd = false) : s.withHostCmd q op k = s.hostHalt q 1 := by
  rw [withHostCmd_of_runs hr, if_pos (by simp [hbad])]

end

/-! ### Commands (R341) -/

section
variable {q : Fin 8} {s : State} {r : HostRun} {ps : List (Nat × Nat)}

theorem hostQueueResume_eq : exec (.hostQueueResume q) s = .next (
    if (s.hostq q.val).status = 0 then s
    else (s.setHostq q.val { s.hostq q.val with status := 0, ring := ((s.hostq q.val).ring + 1) % (s.hostq q.val).size }).nextHostCmd q.val) :=
  rfl

/-- A launch whose header could be read is started unless its header is poisoned or breaks a rule. -/
theorem hostCmdLaunch_of_header (hr : RunsOp s q.val r 1) (hmay : CmdMay s q.val r) (hpre : (s.part (hcPart r.cmd)).preempt = none)
    (hps : s.hostPieces (hcPart r.cmd) (hcA r.cmd) 64 false = some ps) : exec (.hostCmdLaunch q) s = .next (
      let pid := hcPart r.cmd
      let b := s.hostRead pid ps
      if (b.2.1.any id || !s.hdrOk pid b.1 (s.gx0 pid) (s.gy0 pid) 0) = true then b.2.2.hostHalt q.val 3
      else (b.2.2.acceptLaunch pid b.1 (s.gx0 pid) (s.gy0 pid) 0).hostDone q.val) := by
  refine congrArg Host.Outcome.next ((withHostCmd_of_may hr hmay).trans ((if_neg (by simp [hpre])).trans ?_))
  rw [hps]
  simp only [Bool.or_eq_true]

theorem hostCmdCopy_of_may (hr : RunsOp s q.val r 2) (hmay : CmdMay s q.val r) : exec (.hostCmdCopy q) s = .next (
    if r.code ≠ 0 ∨ hcC r.cmd ≤ r.sent then s.hostFinish q.val r else (s.copyNext q.val r).pushOnce (.hostCmdCopy q)) :=
  congrArg _ (withHostCmd_of_may hr hmay)

section
variable (hr : RunsOp s q.val r 3) (hmay : CmdMay s q.val r)
include hr hmay

theorem hostCmdSignal_of_host (hhost : hcHost r.cmd = true) : exec (.hostCmdSignal q) s =
    .next ((s.pokeList (hostFlat (valOf (hcA r.cmd)).toNat) (leBytes 8 (hcC r.cmd))).hostDone q.val) :=
  congrArg _ ((withHostCmd_of_may hr hmay).trans (if_pos hhost))

section
variable (hhost : hcHost r.cmd = false)
include hhost

theorem hostCmdSignal_of_sent (hsent : r.sent ≠ 0) : exec (.hostCmdSignal q) s = .next (s.hostFinish q.val r) :=
  congrArg _ ((withHostCmd_of_may hr hmay).trans ((if_neg (ne_true_of_eq_false hhost)).trans (if_pos hsent)))

theorem hostCmdSignal_of_unsent {a n : Nat} {rest : List (Nat × Nat)} (hsent : r.sent = 0)
    (hps : s.hostPieces (hcPart r.cmd) (hcA r.cmd) 8 true = some ((a, n) :: rest)) :
    exec (.hostCmdSignal q) s = .next (s.hostSend q.val r a (leBytes 8 (hcC r.cmd)) [false] 8) := by
  refine congrArg Host.Outcome.next ((withHostCmd_of_may hr hmay).trans ((if_neg (ne_true_of_eq_false hhost)).trans
    ((if_neg (not_not_intro hsent)).trans ?_)))
  rw [hps]

end

end

section
variable (hr : RunsOp s q.val r 4) (hmay : CmdMay s q.val r)
include hr hmay

theorem hostWaitPoll_of_early (hnow : s.now < r.pollAt) : exec (.hostWaitPoll q) s = .next (s.pushOnce (.hostWaitPoll q)) :=
  congrArg _ ((withHostCmd_of_may hr hmay).trans (if_pos hnow))

/-- A poll of a live partition reads the word that the command names. -/
theorem hostWaitPoll_of_due (hnow : r.pollAt ≤ s.now) (hlive : (s.part (hcPart r.cmd)).live = true)
    (hps : s.hostPieces (hcPart r.cmd) (hcA r.cmd) 8 false = some ps) : exec (.hostWaitPoll q) s = .next (
      let b := s.hostRead (hcPart r.cmd) ps
      if hcHolds r.cmd (ofLE b.1) = true then b.2.2.hostDone q.val
      else (b.2.2.updHostq q.val fun h => { h with run := some { r with pollAt := r.pollAt + 1000 } }).pushOnce (.hostWaitPoll q)) := by
  refine congrArg Host.Outcome.next ((withHostCmd_of_may hr hmay).trans ((if_neg (Nat.not_lt.mpr hnow)).trans
    ((if_neg (by simp [hlive])).trans ?_)))
  rw [hps]

theorem hostWaitLimit_of_may : exec (.hostWaitLimit q) s = .next (
    if s.now < r.since + hcTmo r.cmd then s.pushOnce (.hostWaitLimit q) else s.hostHalt q.val 5) :=
  congrArg _ (withHostCmd_of_may hr hmay)

end

end

/-- Settles O48: each command is one equation past the checks of `withHostCmd`. -/
theorem hostEventsComplete : Obligations.HostEventsComplete := by
  unfold Obligations.HostEventsComplete
  intro q s
  refine ⟨fun base size world head => rfl, ⟨fun h0 => hostQueueResume_eq.trans (congrArg _ (if_pos h0)),
    fun h0 => hostQueueResume_eq.trans (congrArg _ (if_neg h0))⟩, fun r hrun => ?_⟩
  refine ⟨fun hop hbad => congrArg _ (withHostCmd_of_illegal ⟨hrun, hop⟩ hbad), fun hop hmay hpre ps hps => ⟨fun hbad => ?halts, fun hok => ?starts⟩,
    fun hop hmay => ⟨fun hend => ?finishes, fun hcode hsent => ?sends⟩,
    fun hop hmay => ⟨hostCmdSignal_of_host ⟨hrun, hop⟩ hmay, hostCmdSignal_of_sent ⟨hrun, hop⟩ hmay,
      fun a n rest hhost => hostCmdSignal_of_unsent ⟨hrun, hop⟩ hmay hhost⟩,
    fun hop hmay => ⟨congrArg _ (withHostCmd_of_may ⟨hrun, hop⟩ hmay), hostWaitPoll_of_early ⟨hrun, hop⟩ hmay,
      fun hnow hlive ps hps => ⟨fun hholds => ?holds, fun hnot => ?polls⟩, fun hnow => ?waits, fun hnow => ?limit⟩⟩
  case halts => exact (hostCmdLaunch_of_header ⟨hrun, hop⟩ hmay hpre hps).trans (congrArg _ (if_pos hbad))
  case starts => exact (hostCmdLaunch_of_header ⟨hrun, hop⟩ hmay hpre hps).trans (congrArg _ (if_neg (ne_true_of_eq_false hok)))
  case finishes => exact (hostCmdCopy_of_may ⟨hrun, hop⟩ hmay).trans (congrArg _ (if_pos hend))
  case sends => exact (hostCmdCopy_of_may ⟨hrun, hop⟩ hmay).trans (congrArg _ (if_neg (by omega)))
  case holds => exact (hostWaitPoll_of_due ⟨hrun, hop⟩ hmay hnow hlive hps).trans (congrArg _ (if_pos hholds))
  case polls => exact (hostWaitPoll_of_due ⟨hrun, hop⟩ hmay hnow hlive hps).trans (congrArg _ (if_neg (ne_true_of_eq_false hnot)))
  case waits => exact (hostWaitLimit_of_may ⟨hrun, hop⟩ hmay).trans (congrArg _ (if_pos hnow))
  case limit => exact (hostWaitLimit_of_may ⟨hrun, hop⟩ hmay).trans (congrArg _ (if_neg (Nat.not_lt.mpr hnow)))

end Sys2Proof.HostQueues
end

section
/-! PROOFS. Scrubs, the watchdog, boundaries and logs (O49). Each event is its conditions in order. -/

namespace Sys2Proof.Boundaries

open Sys2Proof.Machine

/-! ### Scrubs and the watchdog (R354, R359, R362) -/

section
variable {s : State}

theorem scrubTick_of_running {u : ErrUnit} (hrun : (s.unit (unitKey u)).err.scrub ≠ 0) : exec (.scrubTick u) s = .next (
    if (s.region (unitSite u).1).cyc < (s.unit (unitKey u)).scrubAt + 2 ^ (s.unit (unitKey u)).err.scrub then s.pushOnce (.scrubTick u)
    else ((s.updUnit (unitKey u) fun y => { y with scrubs := y.scrubs + 1, scrubAt := y.scrubAt + 2 ^ y.err.scrub }).scrubUnit u
      (s.unit (unitKey u)).scrubs).pushOnce (.scrubTick u)) :=
  congrArg _ (if_neg hrun)

/-- A core whose strands and issue slots the watchdog has looked at. -/
def watched (s : State) (ck : Nat) : State :=
  ((coreStrands ck).foldl State.watchStrand s).updCore ck fun c =>
    { c with watchFrom := sinceWhen ((coreStrands ck).any s.canIssue) c.watchFrom (s.cyc ck) }

/-- A core that offered no slot, or one of its strands or results, is late by `n` cycles at `now`. -/
abbrev Late (s : State) (ck n now : Nat) : Prop :=
  heldFor (s.core ck).watchFrom n now = true ∨
    ∃ sid ∈ coreStrands ck, heldFor (s.strand sid).readyFrom n now = true ∨ heldFor (s.strand sid).dueFrom n now = true

theorem late_iff {ck n now : Nat} : (heldFor (s.core ck).watchFrom n now ||
    (coreStrands ck).any fun sid => heldFor (s.strand sid).readyFrom n now || heldFor (s.strand sid).dueFrom n now) = true ↔ Late s ck n now := by
  simp only [Late, Bool.or_eq_true, List.any_eq_true]

section
variable {ck : Nat} (hlive : (s.core ck).fatal = false)
include hlive

theorem watchdogFire_of_late (hlate : Late (watched s ck) ck (2 ^ (s.unit (unitKey (.core (s.core ck).physPlace))).wd) (s.cyc ck)) :
    exec (.watchdogFire ck) s = .next ((watched s ck).coreFatal (s.core ck).physPlace 3 9 0) :=
  congrArg _ ((if_neg (ne_true_of_eq_false hlive)).trans (if_pos (late_iff.mpr hlate)))

theorem watchdogFire_of_timely (hlate : ¬ Late (watched s ck) ck (2 ^ (s.unit (unitKey (.core (s.core ck).physPlace))).wd) (s.cyc ck)) :
    exec (.watchdogFire ck) s = .next ((watched s ck).pushOnce (.watchdogFire ck)) :=
  congrArg _ ((if_neg (ne_true_of_eq_false hlive)).trans (if_neg (mt late_iff.mp hlate)))

end

end

/-! ### Boundaries (R366-R371) -/

section
variable {s t : State} {gk : Nat} {b : Boundary} {i : Instr} {k : Boundary → State}

/-- A boundary may start for a group of a live partition whose entry is not in STATE 3. -/
theorem not_idle_of_live (hlive : (s.part (pidOfG gk)).live = true) (hst : (s.group gk).entry.state ≠ 3) :
    ¬ ((!(s.part (pidOfG gk)).live) = true ∨ (s.group gk).entry.state = 3) :=
  not_or.mpr ⟨by simp [hlive], hst⟩

theorem boundaryStart_of_idle (hidle : ¬ ((s.part (pidOfG gk)).live = true ∧ (s.group gk).entry.state ≠ 3)) :
    exec (.boundaryStart gk) s = .next s :=
  congrArg _ (if_pos (by simpa [imp_iff_not_or] using hidle))

theorem boundaryDurable_of_waiting (hb : (s.group gk).boundary = some b) (hwait : b.acks.length < 4 ∨ s.failing gk = true) :
    exec (.boundaryDurable gk) s = .next s := by
  refine congrArg Host.Outcome.next ?_
  rw [hb]
  dsimp only
  cases b.snap with
  | none => rfl
  | some snap => exact if_pos hwait

end

/-- Settles O49: a scrub and a watchdog ask for their time, and a step of a boundary for its stage and what it waits for. -/
theorem errorAndBoundaryEventsComplete : Obligations.ErrorAndBoundaryEventsComplete := by
  unfold Obligations.ErrorAndBoundaryEventsComplete
  refine ⟨fun u s => ⟨fun hstop => congrArg _ (if_pos hstop), fun hrun hcyc => ?scrubEarly, fun hrun hcyc => ?scrubDue⟩,
    fun c s => ⟨fun hnow => congrArg _ (if_pos hnow), fun hnow => congrArg _ (if_neg (Nat.not_lt.mpr hnow))⟩,
    fun ck s hlive => ⟨watchdogFire_of_late hlive, watchdogFire_of_timely hlive⟩,
    fun gk s => ⟨boundaryStart_of_idle, fun hlive hst => ⟨fun hwait => ?startWaits, fun hfree hdue => ?starts⟩, fun hb seat => ?none,
      fun b hb => ?some, rfl⟩, fun ck r s => rfl⟩
  case scrubEarly => exact (scrubTick_of_running hrun).trans (congrArg _ (if_pos hcyc))
  case scrubDue => exact (scrubTick_of_running hrun).trans (congrArg _ (if_neg (Nat.not_lt.mpr hcyc)))
  case startWaits =>
    exact congrArg _ ((if_neg (not_idle_of_live hlive hst)).trans (if_pos (hwait.imp_right (Bool.not_eq_true' _).mpr)))
  case starts =>
    refine congrArg _ ((if_neg (not_idle_of_live hlive hst)).trans (if_neg ?_))
    simp [hfree, hdue]
  case none =>
    refine ⟨?_, ?_, ?_, ?_⟩ <;> (refine congrArg Host.Outcome.next ?_; rw [hb])
  case some =>
    refine ⟨fun hst hquiet => ?stops, fun hst hquiet => ?records, fun seat hst hack => ?applies, boundaryDurable_of_waiting hb,
      fun hst => ⟨?transfersR, ?transfersA⟩, fun snap hsnap hacks hfail => ?durable, fun hst hnow => ?early, fun hst hnow => ?abandons⟩
    all_goals
      refine congrArg Host.Outcome.next ?_
      rw [hb]
    case stops => exact (if_neg (not_not_intro hst)).trans (if_pos ((Bool.not_eq_true' _).mpr hquiet))
    case records => exact (if_neg (not_not_intro hst)).trans (if_neg fun hnot => by simp [hquiet] at hnot)
    case applies =>
      refine (if_neg (not_or.mpr ⟨not_not_intro hst, ne_true_of_eq_false hack⟩)).trans ?_
      simp only [List.length_cons, Nat.reduceEqDiff]
    case transfersR | transfersA => exact if_pos (by simp [hst])
    case durable =>
      dsimp only
      rw [hsnap]
      exact if_neg (not_or.mpr ⟨Nat.not_lt.mpr hacks, ne_true_of_eq_false hfail⟩)
    case early => exact (if_neg (not_not_intro hst)).trans (if_pos hnow)
    case abandons => exact (if_neg (not_not_intro hst)).trans (if_neg (Nat.not_lt.mpr hnow))

end Sys2Proof.Boundaries
end

section
/-! PROOFS. Recoveries and routers (O50): the restart of a group at its new place, and the two phases in which routers change an entry. -/

namespace Sys2Proof.Recoveries

open Sys2Proof.Machine

section
variable {s : State} {gk : Nat} {w : FailReason}

/-! ### Recoveries (R374-R377, R384) -/

/-- A core of the group has lost its copy. -/
abbrev CopyLost (s : State) (gk : Nat) : Prop := ∃ ck ∈ groupCores gk, (s.core ck).copyLost ≠ 0

theorem copyLost_iff : ((groupCores gk).any fun ck => (s.core ck).copyLost != 0) = true ↔ CopyLost s gk := by
  simp only [List.any_eq_true, bne_iff_ne]

/-- What failed is fenced, and the group's Basin retirement and boundary are over. -/
def fenced (s : State) (gk : Nat) (w : FailReason) : State := ((s.fence gk w).replaceBasin gk).discardBoundary gk (failCode w)

/-- The recovery of a group is open. -/
def reopened (s : State) (gk : Nat) (w : FailReason) : State :=
  if (s.group gk).recovery.isSome then fenced s gk w else (fenced s gk w).openRecovery gk w

section
variable (hlive : (s.part (pidOfG gk)).live = true) (hst : (s.group gk).entry.state ≠ 3)
include hlive hst

/-- A failure of a group of a live partition that is not interrupted. -/
theorem recover_of_live : s.recover gk w =
    match (s.group gk).durable, (groupCores gk).any fun ck => (s.core ck).copyLost != 0 with
    | none, _ => (fenced s gk w).interrupt gk 1
    | _, true => (fenced s gk w).interrupt gk 1
    | some d, false => match (reopened s gk w).choosePlace gk with
      | .error n => ((reopened s gk w).report 0x4E 0 (gk * 4) [BitVec.ofNat 8 (s.rkOfG gk)]).interrupt gk n
      | .ok p => (reopened s gk w).recoverAt gk w d p :=
  if_neg (not_or.mpr ⟨by simp [hlive], hst⟩)

theorem recover_of_lost (hlost : (s.group gk).durable = none ∨ CopyLost s gk) : s.recover gk w = (fenced s gk w).interrupt gk 1 := by
  rw [recover_of_live hlive hst]
  rcases hlost with hnone | hlost
  · rw [hnone]
  · rw [copyLost_iff.mpr hlost]
    cases (s.group gk).durable <;> rfl

section
variable {d : GroupSnap} (hd : (s.group gk).durable = some d) (hkept : ¬ CopyLost s gk)
include hd hkept

theorem recover_of_durable : s.recover gk w =
    match (reopened s gk w).choosePlace gk with
    | .error n => ((reopened s gk w).report 0x4E 0 (gk * 4) [BitVec.ofNat 8 (s.rkOfG gk)]).interrupt gk n
    | .ok p => (reopened s gk w).recoverAt gk w d p := by
  rw [recover_of_live hlive hst, hd, (Bool.not_eq_true _).mp (mt copyLost_iff.mp hkept)]

theorem recover_of_noPlace {n : Nat} (hplace : (reopened s gk w).choosePlace gk = .error n) :
    s.recover gk w = ((reopened s gk w).report 0x4E 0 (gk * 4) [BitVec.ofNat 8 (s.rkOfG gk)]).interrupt gk n := by
  rw [recover_of_durable hlive hst hd hkept, hplace]

theorem recover_of_place {p : NewPlace} (hplace : (reopened s gk w).choosePlace gk = .ok p) :
    s.recover gk w = (reopened s gk w).recoverAt gk w d p := by
  rw [recover_of_durable hlive hst hd hkept, hplace]

end

end

/-- Basin recovers a group whose start is due, and one that no path reaches. -/
theorem exec_of_recover {t : State} (ht : s.recover gk w = t) :
    exec (.recoveryStart gk w) s = .next t ∧ (w = .unreachable → exec (.groupUnreachable gk) s = .next t) := by
  subst ht
  exact ⟨rfl, by rintro rfl; rfl⟩

theorem recoveryReplay_of_open {v : Recovery} (hv : (s.group gk).recovery = some v) (hst : (s.group gk).entry.state = 2) :
    exec (.recoveryReplay gk) s = .next (
      let s1 := (groupCores gk).foldl (fun s ck => s.replayCore ck (s.core ck).replay.length) s
      if s1.replayDone gk = true then s1.finishRecovery gk v else s1.pushOnce (.recoveryReplay gk)) := by
  refine congrArg Host.Outcome.next ?_
  dsimp only
  rw [hv]
  exact if_neg (not_not_intro hst)

/-! ### Changes of a router entry (R380, R383) -/

section
variable {pid router : Nat} {b : Rebind} (hb : (s.group gk).rebind = some b)
include hb

theorem routerEntryPending_of_phase1 (hin : (s.routers pid).contains router = true) (hphase : b.phase2 = false)
    (hnew : b.pending.contains router = false) : exec (.routerEntryPending pid router gk) s = .next (
      if 16 ≤ s.pendingAt pid router then s.push (.routerEntryPending pid router gk)
      else (s.updGroup gk fun g => { g with rebind := some { b with pending := b.pending ++ [router] } }).phaseEnds gk) := by
  refine congrArg Host.Outcome.next ?_
  rw [hb]
  exact if_neg (not_or.mpr ⟨ne_true_of_eq_false hphase, not_or.mpr ⟨ne_true_of_eq_false hnew, by simp only [hin]; decide⟩⟩)

theorem routerEntryCommit_of_phase2 (hin : (s.routers pid).contains router = true) (hphase : b.phase2 = true)
    (hnew : b.committed.contains router = false) : exec (.routerEntryCommit pid router gk) s = .next (
      let b1 := { b with committed := b.committed ++ [router] }
      let s1 := s.updGroup gk fun g => { g with rebind := some b1, stale := g.stale.filter fun p => p.1 != router }
      (if router = b.entry.router then s1.ownCommit gk b1 else s1).phaseEnds gk) := by
  refine congrArg Host.Outcome.next ?_
  rw [hb]
  exact if_neg (not_or.mpr ⟨by simp only [hphase]; decide, not_or.mpr ⟨ne_true_of_eq_false hnew, by simp only [hin]; decide⟩⟩)

/-- A router that has not answered in its phase is given up, and the phase may end. -/
def givenUp (s : State) (gk router : Nat) (b : Rebind) : State :=
  (s.updGroup gk fun g => { g with rebind := some { b with lost := b.lost ++ [router] } }).phaseEnds gk

section
variable (hnew : (if b.phase2 then b.committed else b.pending).contains router = false) (hkept : b.lost.contains router = false)
include hnew hkept

theorem routerAckTimeout_of_early (hnow : s.now < b.since + 50000) :
    exec (.routerAckTimeout pid router gk) s = .next (s.pushOnce (.routerAckTimeout pid router gk)) := by
  refine congrArg Host.Outcome.next ?_
  rw [hb]
  exact (if_neg (not_or.mpr ⟨ne_true_of_eq_false hnew, ne_true_of_eq_false hkept⟩)).trans (if_pos hnow)

theorem routerAckTimeout_of_due (hnow : b.since + 50000 ≤ s.now) : exec (.routerAckTimeout pid router gk) s = .next (
    if b.basin.isNone = true ∧ router = b.entry.router then (givenUp s gk router b).push (.groupUnreachable gk)
    else match (givenUp s gk router b).groupOfKey pid router with
      | some k => (givenUp s gk router b).push (.groupUnreachable k)
      | none => (givenUp s gk router b).updRegion (router / 36) fun r =>
        { r with unreach := if r.unreach.contains (router % 36) then r.unreach else r.unreach ++ [router % 36],
                 spares := r.spares.filter fun g => g != router % 36 }) := by
  refine congrArg Host.Outcome.next ?_
  rw [hb]
  exact (if_neg (not_or.mpr ⟨ne_true_of_eq_false hnew, ne_true_of_eq_false hkept⟩)).trans (if_neg (Nat.not_lt.mpr hnow))

end

end

/-! ### The forward window (R378) -/

theorem forwardWindowExpiry_of_open (hopen : (s.group gk).forwarding = true) : exec (.forwardWindowExpiry gk) s = .next (
    if s.now < (s.group gk).forwardUntil then s.pushOnce (.forwardWindowExpiry gk)
    else s.setGroup gk { s.group gk with forwarding := false, moved := true }) :=
  congrArg _ (if_neg (by simp [hopen]))

end

/-- Settles O50: a recovery asks for its snapshot and then for a place, and a router for the phase and its answer. -/
theorem recoveryAndRoutersComplete : Obligations.RecoveryAndRoutersComplete := by
  unfold Obligations.RecoveryAndRoutersComplete
  intro gk s g
  refine ⟨fun hlive hst w => ?recover, fun v hv hst => ⟨fun hdone => ?finishes, fun hleft => ?again⟩, fun pid router b hb hin =>
    ⟨fun hphase hnew => routerEntryPending_of_phase1 hb hin hphase hnew, fun hphase hnew => routerEntryCommit_of_phase2 hb hin hphase hnew,
      fun hnew hkept => ⟨routerAckTimeout_of_early hb hnew hkept, ?lost⟩⟩,
    fun pid router hlive => congrArg _ (if_pos hlive), fun hopen => ⟨fun hnow => ?forwards, fun hnow => ?moved⟩⟩
  case recover =>
    intro answers lost s1
    refine ⟨fun hlost => exec_of_recover (recover_of_lost hlive hst hlost), fun d hd hkept => ⟨fun n hplace => ?_, fun p hplace => ?_⟩⟩
    · exact exec_of_recover (recover_of_noPlace hlive hst hd hkept hplace)
    · exact exec_of_recover (recover_of_place hlive hst hd hkept hplace)
  case finishes => exact (recoveryReplay_of_open hv hst).trans (congrArg _ (if_pos hdone))
  case again => exact (recoveryReplay_of_open hv hst).trans (congrArg _ (if_neg (ne_true_of_eq_false hleft)))
  case lost =>
    intro hnow s1 home
    rw [routerAckTimeout_of_due hb hnew hkept hnow, ← show s1 = givenUp s gk router b from rfl]
    have hhome : (b.basin.isNone = true ∧ router = b.entry.router) ↔ home := and_congr_left' Option.isNone_iff_eq_none
    refine ⟨fun h => congrArg _ (if_pos (hhome.mpr h)), fun k h hk => congrArg _ ((if_neg (mt hhome.mp h)).trans ?_),
      fun h hk => congrArg _ ((if_neg (mt hhome.mp h)).trans ?_)⟩ <;> rw [hk]
  case forwards => exact (forwardWindowExpiry_of_open hopen).trans (congrArg _ (if_pos hnow))
  case moved => exact (forwardWindowExpiry_of_open hopen).trans (congrArg _ (if_neg (Nat.not_lt.mpr hnow)))

end Sys2Proof.Recoveries
end

section
/-! PROOFS. Swaps and Basin's commands (O51): the next swap of a double-seated core, and each command past its check. -/

namespace Sys2Proof.BasinCommands

open Sys2Proof.Machine

/-! ### Swaps (R382) -/

/-- An entry of a list that is chosen by a number, or another value where the list is empty. -/
theorem getD_choice_mem {α : Type} (l : List α) (n : Nat) (d : α) :
    (l[n % l.length]?).getD d ∈ l ∨ l = [] ∧ (l[n % l.length]?).getD d = d := by
  by_cases hl : l = []
  · subst hl
    exact .inr ⟨rfl, rfl⟩
  · rw [List.getElem?_eq_getElem (Nat.mod_lt n (List.length_pos_iff.mpr hl)), Option.getD_some]
    exact .inl (List.getElem_mem _)

section
variable {s : State} {c : BasinCmd} {cmd : Nat}

theorem strandSwap_of_double {ck inn out : Nat} (hdbl : (s.core ck).dbl = true) : exec (.strandSwap ck inn out) s = .next (
    let s1 := if (s.swaps ck).contains (inn, out) then
        s.updCore ck fun c =>
          { c with parked := out :: c.parked.filter fun n => n != inn,
                   swapBase := (inn, (s.strand (sidOf ck inn)).committed) :: c.swapBase.filter fun p => p.1 != out && p.1 != inn }
      else s
    let p := ((s1.swaps ck)[Config.choice s1.fresh % (s1.swaps ck).length]?).getD (inn, out)
    s1.bump.pushOnce (.strandSwap ck p.1 p.2)) :=
  congrArg _ (if_neg (by simp [hdbl]))

/-! ### Basin's commands (R385, R386, R408) -/

theorem basinRun_of_error {e : Nat} {act : State → State} (he : s.basinError c cmd = some e) :
    s.basinRun c cmd act = .next (s.basinFinish c cmd e 0) := by
  rw [State.basinRun, he]

theorem basinRun_of_ok {act : State → State} (hok : s.basinError c cmd = none) : s.basinRun c cmd act = .next (act s) := by
  rw [State.basinRun, hok]

/-- The strands of a core that Basin stops. -/
def stoppable (s : State) (ck : Nat) : List Nat := (coreStrands ck).filter fun sid => !(s.strand sid).st.still && !(s.strand sid).stopping

/-- Basin stops the strands of a core. -/
def basinStopping (s : State) (ck : Nat) : State :=
  ((stoppable s ck).foldl State.stop s).updCore ck fun k =>
    { k with basinStopped := k.basinStopped ++ (stoppable s ck).filter fun sid => !k.basinStopped.contains sid }

theorem basinStop_of_ok (hok : s.basinError c 2 = none) : exec (.basinStop c) s = .next (
    if (basinStopping s c.core).coreStill c.core = true then ((basinStopping s c.core).stopFence c.core).basinFinish c 2 0 0
    else (basinStopping s c.core).pushOnce (.basinStop c)) := by
  show execBasinStop c s = _
  exact basinRun_of_ok hok

section
variable (hok : s.basinError c 3 = none)
include hok

theorem basinMigrate_of_noSpare (hspare : s.spareTarget c = false) : exec (.basinMigrate c) s =
    .next (((s.updCore c.core fun k => { k with moving := false }).basinFinish c 3 2 0).releaseHeld (gkOf c.core)) := by
  show execBasinMigrate c s = _
  exact (basinRun_of_ok hok).trans (congrArg _ (if_pos ((Bool.not_eq_true' _).mpr hspare)))

theorem basinMigrate_of_spare (hspare : s.spareTarget c = true) : exec (.basinMigrate c) s = .next (
    if (s.group (gkOf c.core)).boundary.isSome = true then s.pushOnce (.basinMigrate c)
    else
      let s1 := ((s.leaveUnit c.core).updCore c.core fun k => { k with moving := true }).updRegion c.region fun r =>
        { r with basin := { r.basin with target := (c.group, c.pos) } }
      s1.basinFinish c 3 0 (s1.core c.core).liveSpan) := by
  show execBasinMigrate c s = _
  exact (basinRun_of_ok hok).trans (congrArg _ (if_neg (by simp [hspare])))

end

theorem basinRemapPrepare_of_target (hok : s.basinError c 4 = none) (hspare : s.spareTarget c = true)
    (htarget : (s.region c.region).basin.target = (c.group, c.pos)) : exec (.basinRemapPrepare c) s =
      .next (s.startRebind (gkOf c.core) ((s.group (gkOf c.core)).entry.moveSeat (seatOf c.core) c.pos) (some c.core)) := by
  show execBasinRemapPrepare c s = _
  exact (basinRun_of_ok hok).trans (congrArg _ (if_neg (not_or.mpr ⟨by simp [hspare], not_not_intro htarget⟩)))

theorem basinRemapCommit_of_open (hok : s.basinError c 5 = none) (hopen : (s.group (gkOf c.core)).rebind ≠ none) :
    exec (.basinRemapCommit c) s = .next (s.startCommit (gkOf c.core)) := by
  show execBasinRemapCommit c s = _
  exact (basinRun_of_ok hok).trans (congrArg _ (if_pos (Option.isSome_iff_ne_none.mpr hopen)))

/-! ### Returns (R385) -/

/-- The owner's policy lets the position that a command names return. -/
abbrev allowed (c : BasinCmd) : Bool := Config.returnAllowed c.region c.group c.pos

/-- A retired position that the self-test has passed. -/
abbrev tested (s : State) (c : BasinCmd) : Bool :=
  (s.region c.region).retired.contains (c.group, c.pos) && ((s.region c.region).groupLive c.group).testBit c.pos

theorem basinReturn_of_service {gk : Nat} (hgk : s.groupOfKey (pidOf c.core) (c.region * 36 + c.group) = some gk) :
    exec (.basinReturn c) s = .next (
      if (allowed c && s.posReturns c gk) = true then
        let r := s.region c.region
        (s.setRegion c.region { r with
          sparePos := r.sparePos ++ [(c.group, c.pos)], retired := r.retired.filter fun x => x != (c.group, c.pos) }).basinFinish c 6 0 0
      else s.basinFinish c 6 2 0) := by
  refine congrArg Host.Outcome.next ?_
  dsimp only
  rw [hgk]

theorem basinReturn_of_outside (hgk : s.groupOfKey (pidOf c.core) (c.region * 36 + c.group) = none) : exec (.basinReturn c) s = .next (
    if (allowed c && tested s c) = true then
      (s.setRegion c.region { s.region c.region with
        retired := (s.region c.region).retired.filter fun x => x != (c.group, c.pos) }).basinFinish c 6 0 0
    else if (allowed c && (s.region c.region).groupReturns c.group) = true then
      let r := s.region c.region
      (s.setRegion c.region { r with
        spares := r.spares ++ [c.group], outGroups := r.outGroups.filter fun g => g != c.group }).basinFinish c 6 0 0
    else s.basinFinish c 6 2 0) := by
  refine congrArg Host.Outcome.next ?_
  dsimp only
  rw [hgk]
  simp only [tested, Bool.and_assoc]

end

/-- Settles O51: a swap chooses among those that are left, and a command is turned away, or is its own equation. -/
theorem swapsAndBasinCommandsComplete : Obligations.SwapsAndBasinCommandsComplete := by
  unfold Obligations.SwapsAndBasinCommandsComplete
  refine ⟨fun ck inn out s hdbl => ?swap, fun c s => ⟨?errors, fun hok => ?drains, fun hok => ⟨fun hstill => ?still, fun hstill => ?waits⟩,
    fun hok => ⟨basinMigrate_of_noSpare hok, fun hspare hb => ?boundary, fun hspare hb => ?migrates⟩, basinRemapPrepare_of_target,
    basinRemapCommit_of_open, ⟨fun gk hgk => ⟨fun hok hret => ?position, fun hno => ?noPosition⟩,
      fun hgk => ⟨fun hok ht => ?retired, fun hok ht hret => ?spare, fun hno => ?noSpare⟩⟩,
    fun hok => ?asks, fun hok => ?fails⟩⟩
  case swap =>
    intro s1
    exact ⟨_, getD_choice_mem (s1.swaps ck) (Config.choice s1.fresh) (inn, out), strandSwap_of_double hdbl⟩
  case errors =>
    intro p hp e he
    simp only [List.mem_cons, List.not_mem_nil, or_false] at hp
    rcases hp with rfl | rfl | rfl | rfl | rfl | rfl | rfl
    · exact (basinRun_of_error he : execBasinDrain c s = _)
    · exact (basinRun_of_error he : execBasinStop c s = _)
    · exact (basinRun_of_error he : execBasinMigrate c s = _)
    · exact (basinRun_of_error he : execBasinRemapPrepare c s = _)
    · exact (basinRun_of_error he : execBasinRemapCommit c s = _)
    · exact (basinRun_of_error he : execBasinBoundaryNow c s = _)
    · exact (basinRun_of_error he : execBasinFail c s = _)
  case drains => exact (basinRun_of_ok hok : execBasinDrain c s = _)
  case asks => exact (basinRun_of_ok hok : execBasinBoundaryNow c s = _)
  case fails => exact (basinRun_of_ok hok : execBasinFail c s = _)
  case still => exact (basinStop_of_ok hok).trans (congrArg _ (if_pos hstill))
  case waits => exact (basinStop_of_ok hok).trans (congrArg _ (if_neg (ne_true_of_eq_false hstill)))
  case boundary => exact (basinMigrate_of_spare hok hspare).trans (congrArg _ (if_pos (Option.isSome_iff_ne_none.mpr hb)))
  case migrates => exact (basinMigrate_of_spare hok hspare).trans (congrArg _ (if_neg (by simp [hb])))
  case position => exact (basinReturn_of_service hgk).trans (congrArg _ (if_pos (Bool.and_eq_true_iff.mpr ⟨hok, hret⟩)))
  case noPosition =>
    refine (basinReturn_of_service hgk).trans (congrArg _ (if_neg (ne_true_of_eq_false ?_)))
    rwa [Bool.and_eq_false_iff]
  case retired => exact (basinReturn_of_outside hgk).trans (congrArg _ (if_pos (Bool.and_eq_true_iff.mpr ⟨hok, ht⟩)))
  case spare =>
    refine (basinReturn_of_outside hgk).trans (congrArg _ ((if_neg (ne_true_of_eq_false ?_)).trans (if_pos (Bool.and_eq_true_iff.mpr ⟨hok, hret⟩))))
    exact Bool.and_eq_false_iff.mpr (.inr ht)
  case noSpare =>
    refine (basinReturn_of_outside hgk).trans (congrArg _ ((if_neg (ne_true_of_eq_false ?_)).trans (if_neg (ne_true_of_eq_false ?_))))
    · exact Bool.and_eq_false_iff.mpr (hno.imp_right And.left)
    · exact Bool.and_eq_false_iff.mpr (hno.imp_right And.right)

end Sys2Proof.BasinCommands
end

section
/-! PROOFS. The words that the spec writes out (O52). -/

namespace Sys2Proof.SpecWords

/-- Settles O52: both sides of each equation compute to one instruction. The words stand in the order of the families: moves, `ia`, `vpfx` to
`vx`, `mx`, `ls` and `qs`, `at`, `ce` and `sq`, `sy` and `ct`, and `sr`. -/
theorem decodesSpecWords : Obligations.DecodesSpecWords := by
  unfold Obligations.DecodesSpecWords
  exact ⟨rfl, rfl, rfl, rfl,
    rfl, rfl, rfl,
    rfl, rfl, rfl,
    rfl, rfl,
    rfl, rfl, rfl,
    rfl, rfl, rfl,
    rfl, rfl, rfl,
    rfl, rfl, rfl⟩

end Sys2Proof.SpecWords
end

section
/-! PROOFS. The round trip of every word (O53). -/

namespace Sys2Proof.Laws.RoundTrip

/-- Every instruction's word decodes to it: one law of `Laws/PerInstr.lean` for each constructor, in the order of `Instr`. -/
theorem statement_all : ∀ i : Instr, Statement i :=
  @Instr.rec Statement illegalWord fixedResultVisible variableResultLand leaseGrant leaseIdleLimit mxCommandAccept mxCommandExecute
    cePushAccept ceCommandStart ceLineDelivery ceReduceLine cePoisonNotice copyqMessagePush ceCommandComplete strandControlAct
    streamElementArrival chunkLengthReached weirCommitRequest weirPrepare effectIssue fenceCheck translationWalk tlbInvalidationArrival
    cascadeNumbering cascadeApply remoteModuleAccess remoteEffectMessage replyResult replyBusy replyMoved replyRefuse retransmitTimeout
    busyRetryTimer ownerBusyLimit floorNotice stashRefillRequest stashRefillAnswer reductionTake reductionDownwardReceive reductionRoundEnd
    launchExpansion launchStalled waitExpired queueRetry sluiceGovernorTick setAcquireRequest setGrant woundRollback setRelease droopStretch
    supplyRecovery timeReferencePulse timeReferenceLost alarmFire boundaryFlitCrossing linkFlitCrcError slip fetchFillArrival
    fetchRetryTimeout moduleStart selfTest partitionCreate domainAgreement faultRingDeliver writeFaultRingBase systemWindowStore debugResume
    debugStep debugKill preemptRequest preemptSave preemptGraceExpiry partitionRestore hostDoorbell hostCmdLaunch hostCmdCopy hostCmdSignal
    hostCmdWait hostWaitPoll hostWaitLimit hostQueueResume attestationRequest scrubTick errorFclr errorCclr watchdogFire rimScrub
    boundaryStart boundaryRecord boundaryApply boundaryDurable boundaryAbandon boundaryRetry logRecord recoveryStart recoveryReplay
    routerEntryPending routerEntryCommit routerAckTimeout routerEntryDoubleError forwardWindowExpiry strandSwap groupUnreachable basinDrain
    basinStop basinMigrate basinRemapPrepare basinRemapCommit basinReturn basinBoundaryNow basinFail partitionDestroy rimChannelWorldSet mov
    movPw movVt ceCPop ldi ldih movIaO movIbO movFaO iaAdd iaAddC iaSub iaSubC iaAnd iaAndC iaOr iaOrC iaXor iaXorC iaAndn iaAndnC iaShl
    iaShlC iaShr iaShrC iaSar iaSarC iaRotl iaRotlC iaMin iaMinC iaMax iaMaxC iaMinu iaMinuC iaMaxu iaMaxuC iaLea1 iaLea1C iaLea2 iaLea2C
    iaLea4 iaLea4C iaLea8 iaLea8C iaSext8 iaSext8C iaSext16 iaSext16C iaSext32 iaSext32C iaZext8 iaZext8C iaZext16 iaZext16C iaZext32
    iaZext32C iaClz iaClzC iaCtz iaCtzC iaPopc iaPopcC iaBswap iaBswapC iaCmpeq iaCmpeqC iaCmpne iaCmpneC iaCmplt iaCmpltC iaCmpltu
    iaCmpltuC iaCmple iaCmpleC iaCmpleu iaCmpleuC iaSel iaSelC iaSettag iaSettagC iaGettag iaGettagC iaTile iaTileC iaGown iaGownC iaPand
    iaPor iaPxor iaPnot iaPset iaPclr ibMul ibMulC ibMulh ibMulhC ibMulhu ibMulhuC ibDiv ibDivC ibDivu ibDivuC ibRem ibRemC ibRemu ibRemuC
    ibMulacc ibMulaccC ibCrc32c ibCrc32cC faFadd faFaddC faFsub faFsubC faFmul faFmulC faFma faFmaC faFmin faFminC faFmax faFmaxC faFabs
    faFabsC faFneg faFnegC faFcmpeq faFcmpeqC faFcmplt faFcmpltC faFcmple faFcmpleC faFcmpun faFcmpunC faFdiv faFdivC faFsqrt faFsqrtC
    faFrcp faFrcpC faFrsq faFrsqC faCvtif faCvtifC faCvtfi faCvtfiC faTobf16 faTobf16C faFrombf16 faFrombf16C faToe4m3 faToe4m3C faFromqn4
    faFromqn4C faScl faSclC vpfx vxAdd vxSub vxMul vxMulh vxFma vxFms vxNfma vxMin vxMax vxAbs vxNeg vxAnd vxOr vxXor vxShl vxShr vxSar
    vxCmpeq vxCmpne vxCmplt vxCmple vxSel vxCvt vxWadd vxWmul vxNarrow vxSum vxMaxr vxMinr vxPerm vxShuf vxBcast vxSlide vxXchg vxSexp
    vxSacc vxDecq vxEncq vxExp2 vxLog2 vxRcp vxRsq vxTanh vxPopcm vxIota vxMmov vld vst vlds vsts vgth vsct vset kld kst mxLease mxFree
    mxLdaBf16 mxLdaE4m3 mxLdaE5m2 mxLdaI8 mxLdaF32 mxLdbBf16 mxLdbE4m3 mxLdbE5m2 mxLdbI8 mxLdbF32 mxLdbQn4 mxMmaM64n64k32Bf16
    mxMmaM32n64k32Bf16 mxMmaM16n64k32Bf16 mxMmaM64n64k64E4m3 mxMmaM64n64k64E5m2 mxMmaM64n64k64Mix8 mxMmaM64n64k64I8 mxMmaM64n64k64Qn4
    mxMmaM16n64k64Qn4 mxMmaM64n64k8F32 mxChainBf16 mxChainE4m3 mxDrain mxDrainv mxZero mxChk mxInject movMxA movMxB lsLd8s lsLd8u lsLd16s
    lsLd16u lsLd32s lsLd32u lsLd64 lsLdp lsSt8 lsSt16 lsSt32 lsSt64 lsStp lsPf movLsD atAdd32 atAdd64 atFadd32 atFadd16b atMin32 atMax32
    atMinu32 atMaxu32 atAnd64 atOr64 atXor64 atSwp64 atCas64 atFinc atRedAdd32 atRedAdd64 atRedFadd32 atRedFadd16b atAset atTok movAtO
    ceCopy ceCopy2d ceMcast ceRedb ceRedf ceCopyq ceCopyb movCeS movCeD movCeN movCeB movCeM sqPush sqPop sqPeek sqPopw sqPushw sqRqpush
    sqRqpop sqRqprio sqSpawn sqDec sqDone movSqD movSqH syBinit syArrive syArrivb syWait syTest syInval syMon syUnmon syMwait syGbar movSyA
    movSyB movSyL ctBr ctBrAbs ctCall ctCallAbs ctRet ctJmp ctChunk ctYield ctHalt ctTrap ctNop ctIpf ctEfence ctSstop ctSgo ctSsave ctSload
    ctResume qsBind qsUnbind qsWrite srWrite writeAlarm writeRedpin writeRng srTlbinv srPfence srAckfloor

/-- Settles O53: every word decodes to its instruction, so two well-formed instructions of one word are one. -/
theorem allWordsRoundTrip : Obligations.AllWordsRoundTrip := by
  unfold Obligations.AllWordsRoundTrip
  refine ⟨fun i w hw he => statement_all i hw w he, fun i j w hi hj hei hej => ?_⟩
  have hdec : some i = some j := (statement_all i hi w hei).symm.trans (statement_all j hj w hej)
  exact Option.some.inj hdec

end Sys2Proof.Laws.RoundTrip
end

section
/-! PROOFS. Moves and long immediates (O7): where the guard holds and the source delivers, a move is one write of what was delivered. -/

namespace Sys2Proof.Moves

open Sys2Proof.Machine Sys2Proof.Claims Sys2Proof.Laws Sys2Proof.Scalar

variable {h : Hdr} {c : CSrc} {s s1 : State} {r : Reg}

theorem moveLatch_of_reads {l : Latch} (hg : guardTrue s.ctx h.guard = true) (hc : ReadsC s c r s1) : moveLatch h c l s = s1.write (.latch l r) :=
  guarded_readC hg hc

theorem movPw_of_reads (hg : guardTrue s.ctx h.guard = true) (hc : ReadsC s c r s1) :
    exec (.movPw h c) s = .next (s1.launch .mv 1 true .none 0 0
      (.pw (r.val.setWidth 32) :: if r.p then [.pe s1.ctx.pc (Config.freeLatch s1.fresh)] else [])).bump :=
  congrArg Host.Outcome.next (guarded_readC hg hc)

/-- The shift of `ldih` is a multiplication by 65,536, and its sum is taken modulo 2^80 (R45). -/
theorem ldih_value (v : Reg80) (imm : BitVec 16) : (v <<< 16) + imm.setWidth 80 = BitVec.ofNat 80 (v.toNat * 65536 + imm.toNat) := by
  apply BitVec.eq_of_toNat_eq
  simp [BitVec.toNat_add, Nat.shiftLeft_eq]

/-- Settles O7: each word is one write under its guard. -/
theorem moveResults : Obligations.MoveResults := by
  unfold Obligations.MoveResults
  refine ⟨⟨fun h d c s s1 r hg => ⟨fun hc => ?mov, fun hc => ?pop, fun hc hp => ?pw, fun hc hp => ⟨Config.freeLatch s1.fresh, ?poisoned⟩,
    fun hc => ⟨?vt, ?vset⟩⟩, fun h n imm s hg => ⟨?ldi, ?ldih⟩⟩, ?latches⟩
  case mov | pop | vt | vset => exact congrArg Host.Outcome.next (guarded_readC hg hc)
  case pw => rw [movPw_of_reads hg hc, hp]; rfl
  case poisoned => rw [movPw_of_reads hg hc, hp]; rfl
  case ldi => exact congrArg Host.Outcome.next (guarded_of_true _ hg)
  case ldih => exact congrArg Host.Outcome.next ((guarded_of_true _ hg).trans (by rw [← ldih_value]))
  case latches =>
    refine ⟨?_, ?_, ?_, ?_, ?_, ?_, ?_, ?_, ?_, ?_, ?_, ?_, ?_, ?_, ?_, ?_, ?_⟩
    all_goals exact fun h c s s1 r hg hc => congrArg Host.Outcome.next (moveLatch_of_reads hg hc)

end Sys2Proof.Moves
end

section
/-! PROOFS. Control transfer (O29). Every target is read and checked in one way; a hint changes nothing that its strand reads. -/

namespace Sys2Proof.ControlTransfer

open Sys2Proof.Machine Sys2Proof.Claims Sys2Proof.Laws Sys2Proof.Scalar

variable {h : Hdr} {c : CSrc} {s s1 : State} {r : Reg}

/-! ### Targets -/

theorem withTarget_of_poisoned {k : BitVec 64 → State → State} (hc : ReadsC s c r s1) (hp : r.p = true) : withTarget s c k = s1.faultPoison r.v := by
  rw [withTarget, hc, if_pos hp]

theorem withTarget_of_clean {k : BitVec 64 → State → State} (hc : ReadsC s c r s1) (hp : r.p = false) :
    withTarget s c k = k (targetOf s1 c r) s1 := by
  rw [withTarget, hc, if_neg (ne_true_of_eq_false hp)]

theorem jmp_of_reads (hg : guardTrue s.ctx h.guard = true) (hc : ReadsC s c r s1) :
    exec (.ctJmp h c) s = .next (if r.p then s1.faultPoison r.v else s1.branchTo (s1.ctx.pc + r.val)) :=
  congrArg Host.Outcome.next (guarded_readC hg hc)

theorem ret_of_guard (hg : guardTrue s.ctx h.guard = true) :
    exec (.ctRet h) s = .next (if (s.ctx.greg 22).p then s.faultPoison (s.ctx.greg 22).v
      else if (s.ctx.greg 22).tag ≠ 0 then s.faultAddr causeMisaligned (s.ctx.greg 22).v else s.branchTo (s.ctx.greg 22).val) :=
  congrArg Host.Outcome.next (guarded_of_true _ hg)

/-! ### Hints (R314) -/

/-- The lines of a hint, asked for where the group's cache does not hold them. -/
def askLines (gk : Nat) (ls : List Nat) (s : State) : State :=
  ls.foldl (fun u l => if (u.group gk).icache.any fun e => e.1 == l then u else u.askFill u.myCk l) s

theorem askFill_me (s : State) (ck line : Nat) : (s.askFill ck line).me = s.me := by
  unfold State.askFill
  split <;> rfl

theorem askLines_me (gk : Nat) (ls : List Nat) (s : State) : (askLines gk ls s).me = s.me := by
  induction ls generalizing s with
  | nil => rfl
  | cons l ls ih =>
    refine (ih _).trans ?_
    dsimp only
    split
    · rfl
    · exact askFill_me s _ l

theorem readHint_of_reads {k : Reg → State → State} (hceC : c ≠ .ceC) (hsqR : c ≠ .sqR) (hc : ReadsC s c r s1)
    (hst : (k r s1).me.st ≠ .frozen) : readHint s c k = k r s1 := by
  unfold readHint
  split
  · exact absurd rfl hceC
  · exact absurd rfl hsqR
  · rw [hc]
    exact if_neg hst

theorem ipf_of_guard (la : BitVec 4) (hg : guardTrue s.ctx h.guard = true) :
    exec (.ctIpf h la c) s = .next (readHint s c fun r s => askLines (gkOf s.myCk) (pairLines (targetOf s c r) (la.toNat + 1)) s) :=
  congrArg Host.Outcome.next (guarded_of_true _ hg)

/-- Settles O29: a transfer under its guard is its target read, checked and taken after the bundle. -/
theorem controlTransferResults : Obligations.ControlTransferResults := by
  unfold Obligations.ControlTransferResults
  refine ⟨fun h d s hg => ⟨fun la => ⟨ipf_of_guard la hg, ipf_of_guard la hg⟩, ?br, ?call, ?nop, fun hp => ?poison, fun hp ht => ?tagged,
    fun hp ht => ?ret⟩, fun h c s s1 r hg hc => ⟨fun hp => ⟨?brPoison, ?callPoison, ?jmpPoison⟩, fun hp => ⟨?brAbs, ?callAbs, ?jmp⟩,
    fun hceC hsqR hst la => ?ipf⟩⟩
  case br | call | nop => exact congrArg Host.Outcome.next (guarded_of_true _ hg)
  case poison => rw [ret_of_guard hg, if_pos hp]
  case tagged => rw [ret_of_guard hg, if_neg (ne_true_of_eq_false hp), if_pos ht]
  case ret =>
    rw [ret_of_guard hg, if_neg (ne_true_of_eq_false hp), if_neg (not_not_intro ht)]
    rfl
  case brPoison | callPoison => exact congrArg Host.Outcome.next ((guarded_of_true _ hg).trans (withTarget_of_poisoned hc hp))
  case brAbs | callAbs => exact congrArg Host.Outcome.next ((guarded_of_true _ hg).trans (withTarget_of_clean hc hp))
  case jmpPoison => rw [jmp_of_reads hg hc, if_pos hp]
  case jmp =>
    rw [jmp_of_reads hg hc, if_neg (ne_true_of_eq_false hp)]
    rfl
  case ipf =>
    rw [ipf_of_guard la hg, readHint_of_reads hceC hsqR hc (by rwa [askLines_me])]
    rfl

end Sys2Proof.ControlTransfer
end

section
/-! PROOFS. Results in flight (O34). A result that its event finds lands by what it waits for; a walk delivers once it had a place. -/

namespace Sys2Proof.Results

open Sys2Proof.Machine Sys2Proof.Claims Sys2Proof.Laws

section
variable {s : State} {sid seq : Nat} {f : Flight}

/-! ### VARIABLE_RESULT_LAND -/

theorem landResult_of_arrived (hf : (s.strand sid).flight seq = some f) (ha : f.arrived = true) : s.landResult sid seq = s := by
  simp only [State.landResult, hf, ha, if_true]

section
variable (hf : (s.strand sid).flight seq = some f) (ha : f.arrived = false)
include hf ha

theorem landResult_of_asked (hp : f.pend = .none ∨ ∃ k a, f.pend = .bytes k a) (hq : (s.strand sid).asks seq = true) :
    s.landResult sid seq = s := by
  obtain hp | ⟨k, a, hp⟩ := hp <;> simp only [State.landResult, hf, ha, hp, hq, Bool.false_eq_true, if_false, if_true]

theorem landResult_of_plain (hp : f.pend = .none) (hq : (s.strand sid).asks seq = false) : s.landResult sid seq = s.arrive sid seq [] := by
  simp only [State.landResult, hf, ha, hp, hq, Bool.false_eq_true, if_false]

theorem landResult_of_bytes {k : LoadKind} {a : Reg80} (hp : f.pend = .bytes k a) (hq : (s.strand sid).asks seq = false) :
    s.landResult sid seq = if s.readHeld (ckOf sid) a then s.pushOnce (.variableResultLand sid seq) else s.arrive sid seq [] := by
  simp only [State.landResult, hf, ha, hp, hq, Bool.false_eq_true, if_false]

theorem landResult_of_token (hp : f.pend = .token) : s.landResult sid seq = s.tryToken sid seq := by
  simp only [State.landResult, hf, ha, hp, Bool.false_eq_true, if_false]

theorem landResult_of_barrier {a : Reg80} {i : Nat} {p : Bool} (hp : f.pend = .barrier a i p) :
    s.landResult sid seq = if (s.barrier (ckOf sid) i).released p then s.arrive sid f.seq ((s.barrier (ckOf sid) i).waitWrites p) else s := by
  simp only [State.landResult, State.tryBarrier, hf, ha, hp, Bool.false_eq_true, if_false]

theorem landResult_of_pfence (hp : f.pend = .pfence) :
    s.landResult sid seq = if (s.strand sid).tlbinvOut.all fun p => decide (seq < p.1) then s.arrive sid seq [] else s := by
  simp only [State.landResult, hf, ha, hp, Bool.false_eq_true, if_false]

end

theorem released_iff (b : Barrier) (p : Bool) : b.released p = true ↔ b.phase ≠ p ∨ b.st = .poison := by
  simp [Barrier.released]

/-! ### TRANSLATION_WALK -/

theorem endWalk_of_bytes {k : LoadKind} {a : Reg80} (hf : (s.strand sid).flight seq = some f) (hp : f.pend = .bytes k a) :
    s.endWalk sid seq = s.landResult sid seq := by
  simp only [State.endWalk, hf, hp]

theorem endWalk_of_failed {c : Nat} {a : Reg80} (hf : (s.strand sid).flight seq = some f) (ha : f.arrived = false)
    (hp : f.pend = .walk (some c) a) : s.endWalk sid seq = s.freezeLate sid seq c 0 f.pc f.second 0 (addrBytes a) := by
  simp only [State.endWalk, hf, ha, hp, Bool.false_eq_true, if_false]

/-- Whether a walker place of a region is the one of the result `seq` of a strand. -/
def isPlace (sid seq : Nat) (w : Nat × Nat × Nat) : Bool := w.1 == sid && w.2.1 == seq

section
variable {p : Nat} (hf : (s.strand sid).flight seq = some f) (hw : walkPage (pidOf (ckOf sid)) f = some p)
include hf hw

theorem walk_of_unplaced (hno : (s.region (s.rkOf (ckOf sid))).walks.any (isPlace sid seq) = false) :
    let pages := ((s.region (s.rkOf (ckOf sid))).walks.map fun w => w.2.2).eraseDups
    exec (.translationWalk sid seq) s = .next
      ((if pages.contains p ∨ pages.length < 64 then
          s.updRegion (s.rkOf (ckOf sid)) fun r => { r with walks := r.walks ++ [(sid, seq, p)] }
        else s).pushOnce (.translationWalk sid seq)) := by
  have hpage : ((s.strand sid).flight seq).bind (walkPage (pidOf (ckOf sid))) = some p := by rw [hf]; exact hw
  show execTranslationWalk sid seq s = _
  unfold execTranslationWalk
  simp only [hpage]
  exact congrArg Host.Outcome.next (if_neg (ne_true_of_eq_false hno))

theorem walk_of_placed {t : State} (hplace : (s.region (s.rkOf (ckOf sid))).walks.any (isPlace sid seq) = true)
    (ht : ((s.updRegion (s.rkOf (ckOf sid)) fun r => { r with walks := r.walks.filter fun w => !isPlace sid seq w }).senseWalk (ckOf sid)
      (p % 2 ^ 40 / 2 * 65536)).endWalk sid seq = t) : exec (.translationWalk sid seq) s = .next t := by
  have hpage : ((s.strand sid).flight seq).bind (walkPage (pidOf (ckOf sid))) = some p := by rw [hf]; exact hw
  rw [← ht]
  show execTranslationWalk sid seq s = _
  unfold execTranslationWalk
  simp only [hpage]
  exact congrArg Host.Outcome.next (if_pos hplace)

end

end

/-- Settles O34: each event of a result, by what the result waits for and whether its walk has a place. -/
theorem resultEventsComplete : Obligations.ResultEventsComplete := by
  unfold Obligations.ResultEventsComplete
  intro sid seq s
  have land {t : State} (ht : s.landResult sid seq = t) : exec (.variableResultLand sid seq) s = .next t := congrArg Host.Outcome.next ht
  refine ⟨rfl, fun f hf => ⟨fun ha => land (landResult_of_arrived hf ha), fun ha => ⟨fun hp hq => land (landResult_of_asked hf ha hp hq),
    fun hp hq => land (landResult_of_plain hf ha hp hq), fun k a hp hq => land (landResult_of_bytes hf ha hp hq),
    fun hp => ⟨fun ht => ?noToken, fun t s1 ht => ?token⟩, fun a i p hp => ⟨fun hph hst => ?waits, fun hrel => ?released⟩,
    fun hp => ⟨fun hall => ?fence, fun p hmem hle => ?fenced⟩⟩⟩, fun f p hf hw => ?walk⟩
  case noToken => exact land ((landResult_of_token hf ha hp).trans (by simp only [State.tryToken, ht]))
  case token => exact land ((landResult_of_token hf ha hp).trans (by simp only [State.tryToken, ht]))
  case waits =>
    refine land ((landResult_of_barrier hf ha hp).trans (if_neg ?_))
    rw [released_iff]
    exact not_or_intro (not_not_intro hph) hst
  case released => exact land ((landResult_of_barrier hf ha hp).trans (if_pos ((released_iff _ _).mpr hrel)))
  case fence => exact land ((landResult_of_pfence hf ha hp).trans (if_pos (by simpa using hall)))
  case fenced =>
    refine land ((landResult_of_pfence hf ha hp).trans (if_neg fun hall => ?_))
    exact absurd (of_decide_eq_true (List.all_eq_true.mp hall p hmem)) (Nat.not_lt.mpr hle)
  case walk =>
    intro rk ws mine pages
    refine ⟨fun hno => walk_of_unplaced hf hw hno, fun hmine => ?_⟩
    intro s1 f1 hf1 ha1
    refine ⟨fun k a hp hq => walk_of_placed hf hw hmine ?_, fun c a hp => walk_of_placed hf hw hmine (endWalk_of_failed hf1 ha1 hp)⟩
    exact (endWalk_of_bytes hf1 hp).trans (landResult_of_bytes hf1 ha1 hp hq)

end Sys2Proof.Results
end

section
/-! PROOFS. What a step does (O54): the chosen event or the bundle of the chosen strand. The bundle is said in the order of its checks; of a
pair, what its first word leaves, and then what its second word leaves on that. -/

namespace Sys2Proof.Steps

open Sys2Proof.Machine

/-! ### Disturbed cells -/

/-- A fold none of whose steps changes the state. -/
theorem foldl_of_still {α β : Type} {f : α → β → α} {a : α} (hf : ∀ b, f a b = a) (l : List β) : l.foldl f a = a := by
  induction l with
  | nil => rfl
  | cons b l ih => rw [List.foldl_cons, hf, ih]

section
variable {s : State} (hs : ∀ u, (s.unit u).flips = [])
include hs

theorem flippedWords_of_undisturbed (u : ErrUnit) : s.flippedWords u = [] := by
  rw [State.flippedWords, hs]
  rfl

theorem senseUnit_of_undisturbed (u : ErrUnit) (p : Held → Bool) : s.senseUnit u p = s := by
  rw [State.senseUnit, flippedWords_of_undisturbed hs]
  rfl

theorem senseTables_of_undisturbed : s.senseTables = s := by
  refine foldl_of_still (fun p => ?_) _
  rw [senseUnit_of_undisturbed hs, ite_self]

theorem renewed_of_undisturbed (s0 : State) : s0.renewed s = s := by
  refine foldl_of_still (fun p => ?_) _
  rw [flippedWords_of_undisturbed hs, List.foldl_nil, ite_self]

end

/-! ### Events -/

section
variable {s : State}

theorem step_of_none (hc : s.tick.chosen = none) : step s = .next s.tick := by
  rw [step, hc]

theorem step_of_chosen {c : Cand} (hc : s.tick.chosen = some c) : step s = s.tick.happen c := by
  rw [step, hc]

theorem happen_event {n : Nat} {e : Instr} (he : s.agenda[n]? = some e) : s.happen (.event n) =
    let s1 := ({ s with agenda := s.agenda.eraseIdx n } : State).disturb.senseTables
    if s.losable e && Config.lost s.steps then .next (s1.afterLoss e) else thenState (exec e s1) fun t => .next (s1.renewed t) := by
  simp only [State.happen, he]

theorem happen_core {ck sid : Nat} (hn : s.nextStrand ck = some sid) :
    s.happen (.core ck) = thenState (s.senseTables.issue sid) fun t => .next (s.senseTables.renewed t) := by
  simp only [State.happen, hn]

end

/-! ### Bundles -/

theorem thenState_thenState (r : Res) (f g : State → Res) : thenState (thenState r f) g = thenState r fun t => thenState (f t) g := by
  cases r <;> rfl

/-- The state in which a strand is offered the slot. -/
def offered (s : State) (sid : Nat) : State := { s.updCore (ckOf sid) fun c => { c with watchFrom := none } with cur := sid, held := false }

section
variable {s : State} {sid : Nat}

theorem serial_free {x : Strand} (hser : x.serialLeft = 0 ∨ (x.await = none ∧ x.effect = none ∧ x.ctl = [])) :
    ¬ (0 < x.serialLeft ∧ (x.await.isSome ∨ x.effect.isSome ∨ x.ctl ≠ [])) := by
  rintro ⟨hpos, hwait⟩
  obtain hz | ⟨ha, he, hc⟩ := hser
  · omega
  · simp [ha, he, hc] at hwait

variable (hcl : ((offered s sid).strand sid).closes = false) (hend : ((offered s sid).strand sid).endChunk = false)
  (hser : ((offered s sid).strand sid).serialLeft = 0 ∨
    (((offered s sid).strand sid).await = none ∧ ((offered s sid).strand sid).effect = none ∧ ((offered s sid).strand sid).ctl = []))
include hcl hend hser

theorem issue_of_noPair (hp : ((offered s sid).group (gkOf (ckOf sid))).pairAt ((offered s sid).strand sid).ctx.pc = none) :
    s.issue sid = exec (.slip sid) (offered s sid) := by
  unfold State.issue
  rw [← offered]
  simp only [hcl, hend, if_neg (serial_free hser), hp, Bool.false_eq_true, if_false]

theorem issue_of_pair {p : BitVec 64} (hp : ((offered s sid).group (gkOf (ckOf sid))).pairAt ((offered s sid).strand sid).ctx.pc = some p) :
    s.issue sid = thenState (runBundle ((offered s sid).senseStrand sid) (bundleOf p ((offered s sid).strand sid).ctx.second)) fun t =>
      .next (t.finishBundle (offered s sid) ((bundleOf p ((offered s sid).strand sid).ctx.second).next ((offered s sid).strand sid).ctx.pc)) := by
  unfold State.issue
  rw [← offered]
  simp only [hcl, hend, if_neg (serial_free hser), hp, Bool.false_eq_true, if_false]

end

/-! ### The words of a bundle (R38, R52) -/

section
variable {s sc sa sr r : State} {w wc wa : Word32} {second : Bool} {i c a : Instr}

theorem runBundle_one (hi : decodeWord w = some i) : runBundle s (.one w second) = exec i { s with word := w, second := second } := by
  simp only [runBundle, hi, runWord]

theorem runBundle_one_illegal (hi : decodeWord w = none) : runBundle s (.one w second) = illegalAt s w second := by
  simp only [runBundle, hi]

theorem runBundle_two_firstIllegal (hc : decodeWord wc = none) : runBundle s (.two wc wa) = illegalAt s wc false := by
  simp only [runBundle, hc]

theorem runBundle_two_secondIllegal (hc : decodeWord wc = some c) (ha : decodeWord wa = none ∨ sameUnit wc wa = true) :
    runBundle s (.two wc wa) = illegalAt s wa true := by
  cases hd : decodeWord wa with
  | none => simp only [runBundle, hc, hd]
  | some a =>
    have hsame : sameUnit wc wa = true := ha.resolve_left (by simp [hd])
    simp only [runBundle, hc, hd, hsame, if_true]

theorem runBundle_two (hc : decodeWord wc = some c) (ha : decodeWord wa = some a) (hu : sameUnit wc wa = false) :
    runBundle s (.two wc wa) = runPair s wc wa c a := by
  simp only [runBundle, hc, ha, hu, Bool.false_eq_true, if_false]

/-- The bundle's state without the writes of its first word, which leaves `sc`. -/
def withoutFirst (s sc : State) : State := (s.afterPops sc.me.popped).updMe fun x => { x with prefixed := sc.me.prefixed, popped := [] }

theorem runSecond_of_free {base : State} (h : sa.held = false) : runSecond s base sa wa a = .next sa := by
  simp only [runSecond, h, Bool.not_false, if_true]

theorem runSecond_of_held {base : State} (h : sa.held = true) (hr : exec a { base with word := wa, second := true } = .next r) :
    runSecond s base sa wa a = .next (if r.held then r else if sa.me.st.waits then s.holdAs sa else sa) := by
  simp only [runSecond, h, Bool.not_true, Bool.false_eq_true, if_false, runWord, hr, thenState]

variable (hsc : exec c { s with word := wc, second := false } = .next sc)
include hsc

theorem runPair_of_held (hh : sc.held = true) : runPair s wc wa c a = .next sc := by
  rw [runPair, runWord, hsc]
  exact if_pos hh

theorem runPair_of_plain (hh : sc.held = false) (hn : namesStream wa = false) (hsa : exec a { sc with word := wa, second := true } = .next sa) :
    runPair s wc wa c a = runSecond s (withoutFirst s sc) sa wa a := by
  rw [runPair, runWord, hsc]
  refine (if_neg (ne_true_of_eq_false hh)).trans ((if_pos (by rw [hn]; rfl)).trans ?_)
  rw [runWord, hsa]
  rfl

theorem runPair_of_stream (hh : sc.held = false) (hn : namesStream wa = true)
    (hsr : exec a { withoutFirst s sc with word := wa, second := true } = .next sr) : runPair s wc wa c a =
      if sr.held then .next sr
      else thenState (runWord (sc.updMe fun x => { x with given := sr.me.popped.map fun e => { e with kept := decide (rebinds s.ctx c = some e.j) } })
        wa true a) fun sa => runSecond s (withoutFirst s sc) sa wa a := by
  rw [runPair, runWord, hsc]
  refine (if_neg (ne_true_of_eq_false hh)).trans ((if_neg (by rw [hn]; exact Bool.false_ne_true)).trans ?_)
  exact congrArg (fun r => thenState r _) (show runWord (withoutFirst s sc) wa true a = .next sr from hsr)

end

/-- Settles O54: what is chosen happens; a bundle is its words in the order of their checks. -/
theorem stepRunsDecodedBundle : Obligations.StepRunsDecodedBundle := by
  unfold Obligations.StepRunsDecodedBundle
  intro s
  refine ⟨step_of_none, fun hs => ⟨senseTables_of_undisturbed hs, fun t ht => renewed_of_undisturbed ht s⟩, fun n e hc he => ?event,
    fun ck sid hc hn => ?core⟩
  case event =>
    intro s0 lost
    have hstep : step s = if lost then .next (s0.afterLoss e) else thenState (exec e s0) fun t => .next (s0.renewed t) :=
      (step_of_chosen hc).trans (happen_event he)
    exact ⟨fun hl => hstep.trans (if_neg (ne_true_of_eq_false hl)), fun hl => hstep.trans (if_pos hl)⟩
  case core =>
    intro sb s0 x hcl hend hser
    have hstep : step s = thenState (sb.issue sid) fun t => .next (sb.renewed t) := (step_of_chosen hc).trans (happen_core hn)
    refine ⟨fun hp => by rw [hstep, issue_of_noPair hcl hend hser hp]; rfl, fun pair hp => ?_⟩
    intro b s1 ends illegal
    have run {r : Res} (hr : runBundle s1 b = r) : step s = ends r := by
      rw [hstep, issue_of_pair hcl hend hser hp, thenState_thenState, ← hr]
      rfl
    refine ⟨fun w second i hb hi => ?one, fun w second hb hi => ?oneIllegal, fun w second hb => ?bad, fun wc wa hb hwc => ?firstIllegal,
      fun wc wa c hb hwc hwa => ?secondIllegal, fun wc wa c a sc hb hwc hwa hu hsc => ?two⟩
    case one => exact run ((congrArg _ hb).trans (runBundle_one hi))
    case oneIllegal => exact run ((congrArg _ hb).trans (runBundle_one_illegal hi))
    case bad => exact run ((congrArg _ hb).trans rfl)
    case firstIllegal => exact run ((congrArg _ hb).trans (runBundle_two_firstIllegal hwc))
    case secondIllegal => exact run ((congrArg _ hb).trans (runBundle_two_secondIllegal hwc hwa))
    case two =>
      have pair {r : Res} (hr : runPair s1 wc wa c a = r) : step s = ends r := run ((congrArg _ hb).trans ((runBundle_two hwc hwa hu).trans hr))
      refine ⟨fun hh => pair (runPair_of_held hsc hh), fun hh => ?_⟩
      intro base alone finish
      have second {sa : State} (hsa : runPair s1 wc wa c a = runSecond s1 base sa wa a) : finish sa := by
        refine ⟨fun hfree => pair (hsa.trans (runSecond_of_free hfree)), fun hheld r hr => ?_⟩
        have hsnd := hsa.trans (runSecond_of_held hheld hr)
        exact ⟨fun hr => pair (hsnd.trans (by rw [if_pos hr])), fun hr => pair (hsnd.trans (by rw [if_neg (ne_true_of_eq_false hr)]))⟩
      refine ⟨fun hns sa hsa => second (runPair_of_plain hsc hh hns hsa), fun hns sr hsr => ?_⟩
      have hread := runPair_of_stream hsc hh hns hsr
      refine ⟨fun hr => pair (hread.trans (if_pos hr)), fun hr => ?_⟩
      intro es sa hsa
      refine second (hread.trans ((if_neg (ne_true_of_eq_false hr)).trans ?_))
      rw [runWord, hsa]
      rfl

end Sys2Proof.Steps
end

section
/-! PROOFS. Words whose guard is false (O56). Bits [29:26] of a word are the guard of its instruction; every word but `vpfx` is run behind that
guard, a vector word behind the check of its prefix first. -/

namespace Sys2Proof.FalseGuards

open Sys2Proof.Machine Sys2Proof.Claims Sys2Proof.Laws

/-- The word of `i`, if it has one, does nothing where its guard is false, but for a vector word whose prefix is refused. -/
def Skips (s : State) (i : Instr) : Prop :=
  ∀ w, encode i = some w → guardTrue s.ctx (w.extractLsb' 26 4) = false →
    exec i s = .next (if prefixRefused i (activePrefix s) then s.faultWord causeIllegal else s)

section
variable {s : State} {i : Instr} {h : Hdr} {k : State → State}

theorem packC_guard (c : CWord) : (packC c).extractLsb' 26 4 = c.guard := congrArg CWord.guard (unpackC_packC c)

theorem packA_guard (a : AWord) : (packA a).extractLsb' 26 4 = a.guard := congrArg AWord.guard (unpackA_packA a)

theorem skips_of_noWord (he : encode i = none) : Skips s i := fun w hw => by simp [he] at hw

theorem skips_of_word {w : Word32} (he : encode i = some w) (hw : w.extractLsb' 26 4 = h.guard)
    (hi : guardTrue s.ctx h.guard = false → exec i s = .next (if prefixRefused i (activePrefix s) then s.faultWord causeIllegal else s)) :
    Skips s i := by
  intro w' hw' hg
  obtain rfl : w = w' := Option.some.inj (he.symm.trans hw')
  exact hi (hw ▸ hg)

theorem exec_of_falseGuard (hi : exec i s = .next (guarded h s k)) (hp : ∀ p, prefixRefused i p = false) (hg : guardTrue s.ctx h.guard = false) :
    exec i s = .next (if prefixRefused i (activePrefix s) then s.faultWord causeIllegal else s) := by
  rw [hi, guarded_of_false k hg, hp, if_neg Bool.false_ne_true]

theorem skips_of_guardedC {c : CWord} (he : encode i = some (packC c)) (hc : c.guard = h.guard) (hi : exec i s = .next (guarded h s k))
    (hp : ∀ p, prefixRefused i p = false) : Skips s i :=
  skips_of_word he ((packC_guard c).trans hc) (exec_of_falseGuard hi hp)

theorem skips_of_cmpC {c : CWord} {u : FUnit} {lo lr : Latch} {lat : Nat} {src : CSrc} {f : BitVec 64 → BitVec 64 → Bool}
    (he : encode i = some (packC c)) (hc : c.guard = h.guard) (hi : exec i s = .next (cmpC u lo lr lat h src f s))
    (hp : ∀ p, prefixRefused i p = false) : Skips s i := by
  unfold cmpC trigC at hi
  exact skips_of_guardedC he hc hi hp

theorem skips_of_guardedA {a : AWord} (he : encode i = some (packA a)) (ha : a.guard = h.guard) (hi : exec i s = .next (guarded h s k))
    (hp : ∀ p, prefixRefused i p = false) : Skips s i :=
  skips_of_word he ((packA_guard a).trans ha) (exec_of_falseGuard hi hp)

theorem vecOp_of_falseGuard {op : VOp} {d src : Fin 8} {ops : State → (VArg → VArg → State → State) → State} {quart : Nat}
    {check : VArg → Bool} (hg : guardTrue s.ctx h.guard = false) :
    vecOp op h d src ops quart check s = if !prefixOk op (activePrefix s) then s.faultWord causeIllegal else s :=
  ite_congr rfl (fun _ => rfl) fun _ => guarded_of_false _ hg

theorem skips_of_vecOp {a : AWord} {op : VOp} {d src : Fin 8} {ops : State → (VArg → VArg → State → State) → State} {quart : Nat}
    {check : VArg → Bool} (he : encode i = some (packA a)) (ha : a.guard = h.guard)
    (hi : exec i s = .next (vecOp op h d src ops quart check s)) (hp : prefixRefused i (activePrefix s) = !prefixOk op (activePrefix s)) : Skips s i :=
  skips_of_word he ((packA_guard a).trans ha) fun hg => by rw [hi, vecOp_of_falseGuard hg, hp]

theorem skips_of_xchg {d o : Fin 8} : Skips s (.vxXchg h d o) :=
  skips_of_word rfl (packA_guard _) fun hg =>
    congrArg Host.Outcome.next (ite_congr rfl (fun _ => rfl) fun _ => guarded_of_false _ hg)

end

/-- One line for each shape of a word: C-words and scalar A-words behind their guard, vector operations, `vx.xchg`; an event has no word. -/
theorem skips {s : State} {i : Instr} (hv : ∀ p, i ≠ .vpfx p) : Skips s i :=
  match i with
  | .vpfx p => absurd rfl (hv p)
  | .mov .. | .movPw .. | .movVt .. | .ceCPop .. | .ldi .. | .ldih .. | .movIaO .. | .movIbO .. | .movFaO .. | .iaAddC .. | .iaSubC ..
  | .iaAndC .. | .iaOrC .. | .iaXorC .. | .iaAndnC .. | .iaShlC .. | .iaShrC .. | .iaSarC .. | .iaRotlC .. | .iaMinC .. | .iaMaxC ..
  | .iaMinuC .. | .iaMaxuC .. | .iaLea1C .. | .iaLea2C .. | .iaLea4C .. | .iaLea8C .. | .iaSext8C .. | .iaSext16C .. | .iaSext32C ..
  | .iaZext8C .. | .iaZext16C .. | .iaZext32C .. | .iaClzC .. | .iaCtzC .. | .iaPopcC .. | .iaBswapC .. | .iaSelC .. | .iaSettagC ..
  | .iaGettagC .. | .iaTileC .. | .iaGownC .. | .ibMulC .. | .ibMulhC .. | .ibMulhuC .. | .ibDivC .. | .ibDivuC .. | .ibRemC .. | .ibRemuC ..
  | .ibMulaccC .. | .ibCrc32cC .. | .faFaddC .. | .faFsubC .. | .faFmulC .. | .faFmaC .. | .faFminC .. | .faFmaxC .. | .faFabsC .. | .faFnegC ..
  | .faFdivC .. | .faFsqrtC .. | .faFrcpC .. | .faFrsqC .. | .faCvtifC .. | .faCvtfiC .. | .faTobf16C .. | .faFrombf16C .. | .faToe4m3C ..
  | .faFromqn4C .. | .faSclC .. | .vld .. | .vst .. | .vlds .. | .vsts .. | .vgth .. | .vsct .. | .vset .. | .kld .. | .kst .. | .mxLease ..
  | .mxFree .. | .mxLdaBf16 .. | .mxLdaE4m3 .. | .mxLdaE5m2 .. | .mxLdaI8 .. | .mxLdaF32 .. | .mxLdbBf16 .. | .mxLdbE4m3 .. | .mxLdbE5m2 ..
  | .mxLdbI8 .. | .mxLdbF32 .. | .mxLdbQn4 .. | .mxMmaM64n64k32Bf16 .. | .mxMmaM32n64k32Bf16 .. | .mxMmaM16n64k32Bf16 .. | .mxMmaM64n64k64E4m3 ..
  | .mxMmaM64n64k64E5m2 .. | .mxMmaM64n64k64Mix8 .. | .mxMmaM64n64k64I8 .. | .mxMmaM64n64k64Qn4 .. | .mxMmaM16n64k64Qn4 .. | .mxMmaM64n64k8F32 ..
  | .mxChainBf16 .. | .mxChainE4m3 .. | .mxDrain .. | .mxDrainv .. | .mxZero .. | .mxChk .. | .mxInject .. | .movMxA .. | .movMxB .. | .lsLd8s ..
  | .lsLd8u .. | .lsLd16s .. | .lsLd16u .. | .lsLd32s .. | .lsLd32u .. | .lsLd64 .. | .lsLdp .. | .lsSt8 .. | .lsSt16 .. | .lsSt32 ..
  | .lsSt64 .. | .lsStp .. | .lsPf .. | .movLsD .. | .atAdd32 .. | .atAdd64 .. | .atFadd32 .. | .atFadd16b .. | .atMin32 .. | .atMax32 ..
  | .atMinu32 .. | .atMaxu32 .. | .atAnd64 .. | .atOr64 .. | .atXor64 .. | .atSwp64 .. | .atCas64 .. | .atFinc .. | .atRedAdd32 ..
  | .atRedAdd64 .. | .atRedFadd32 .. | .atRedFadd16b .. | .atAset .. | .atTok .. | .movAtO .. | .ceCopy .. | .ceCopy2d .. | .ceMcast ..
  | .ceRedb .. | .ceRedf .. | .ceCopyq .. | .ceCopyb .. | .movCeS .. | .movCeD .. | .movCeN .. | .movCeB .. | .movCeM .. | .sqPush .. | .sqPop ..
  | .sqPeek .. | .sqPopw .. | .sqPushw .. | .sqRqpush .. | .sqRqpop .. | .sqRqprio .. | .sqSpawn .. | .sqDec .. | .sqDone .. | .movSqD ..
  | .movSqH .. | .syBinit .. | .syArrive .. | .syArrivb .. | .syWait .. | .syTest .. | .syInval .. | .syMon .. | .syUnmon .. | .syMwait ..
  | .syGbar .. | .movSyA .. | .movSyB .. | .movSyL .. | .ctBr .. | .ctBrAbs .. | .ctCall .. | .ctCallAbs .. | .ctRet .. | .ctJmp .. | .ctChunk ..
  | .ctYield .. | .ctHalt .. | .ctTrap .. | .ctNop .. | .ctIpf .. | .ctEfence .. | .ctSstop .. | .ctSgo .. | .ctSsave .. | .ctSload ..
  | .ctResume .. | .qsBind .. | .qsUnbind .. | .qsWrite .. | .srWrite .. | .writeAlarm .. | .writeRedpin .. | .writeRng .. | .srTlbinv ..
  | .srPfence .. | .srAckfloor .. => skips_of_guardedC rfl rfl rfl fun _ => rfl
  | .iaCmpeqC .. | .iaCmpneC .. | .iaCmpltC .. | .iaCmpltuC .. | .iaCmpleC .. | .iaCmpleuC .. | .faFcmpeqC .. | .faFcmpltC .. | .faFcmpleC ..
  | .faFcmpunC .. => skips_of_cmpC rfl rfl rfl fun _ => rfl
  | .iaAdd .. | .iaSub .. | .iaAnd .. | .iaOr .. | .iaXor .. | .iaAndn .. | .iaShl .. | .iaShr .. | .iaSar .. | .iaRotl .. | .iaMin ..
  | .iaMax .. | .iaMinu .. | .iaMaxu .. | .iaLea1 .. | .iaLea2 .. | .iaLea4 .. | .iaLea8 .. | .iaSext8 .. | .iaSext16 .. | .iaSext32 ..
  | .iaZext8 .. | .iaZext16 .. | .iaZext32 .. | .iaClz .. | .iaCtz .. | .iaPopc .. | .iaBswap .. | .iaCmpeq .. | .iaCmpne .. | .iaCmplt ..
  | .iaCmpltu .. | .iaCmple .. | .iaCmpleu .. | .iaSel .. | .iaSettag .. | .iaGettag .. | .iaTile .. | .iaGown .. | .iaPand .. | .iaPor ..
  | .iaPxor .. | .iaPnot .. | .iaPset .. | .iaPclr .. | .ibMul .. | .ibMulh .. | .ibMulhu .. | .ibDiv .. | .ibDivu .. | .ibRem .. | .ibRemu ..
  | .ibMulacc .. | .ibCrc32c .. | .faFadd .. | .faFsub .. | .faFmul .. | .faFma .. | .faFmin .. | .faFmax .. | .faFabs .. | .faFneg ..
  | .faFcmpeq .. | .faFcmplt .. | .faFcmple .. | .faFcmpun .. | .faFdiv .. | .faFsqrt .. | .faFrcp .. | .faFrsq .. | .faCvtif .. | .faCvtfi ..
  | .faTobf16 .. | .faFrombf16 .. | .faToe4m3 .. | .faFromqn4 .. | .faScl .. => skips_of_guardedA rfl rfl rfl fun _ => rfl
  | .vxAdd .. | .vxSub .. | .vxMul .. | .vxMulh .. | .vxFma .. | .vxFms .. | .vxNfma .. | .vxMin .. | .vxMax .. | .vxAbs .. | .vxNeg ..
  | .vxAnd .. | .vxOr .. | .vxXor .. | .vxShl .. | .vxShr .. | .vxSar .. | .vxCmpeq .. | .vxCmpne .. | .vxCmplt .. | .vxCmple .. | .vxSel ..
  | .vxCvt .. | .vxWadd .. | .vxWmul .. | .vxNarrow .. | .vxSum .. | .vxMaxr .. | .vxMinr .. | .vxPerm .. | .vxShuf .. | .vxBcast ..
  | .vxSlide .. | .vxSexp .. | .vxSacc .. | .vxDecq .. | .vxEncq .. | .vxExp2 .. | .vxLog2 .. | .vxRcp .. | .vxRsq .. | .vxTanh .. | .vxPopcm ..
  | .vxIota .. | .vxMmov .. => skips_of_vecOp rfl rfl rfl rfl
  | .vxXchg .. => skips_of_xchg
  | .illegalWord .. | .fixedResultVisible .. | .variableResultLand .. | .leaseGrant .. | .leaseIdleLimit .. | .mxCommandAccept ..
  | .mxCommandExecute .. | .cePushAccept .. | .ceCommandStart .. | .ceLineDelivery .. | .ceReduceLine .. | .cePoisonNotice ..
  | .copyqMessagePush .. | .ceCommandComplete .. | .strandControlAct .. | .streamElementArrival .. | .chunkLengthReached ..
  | .weirCommitRequest .. | .weirPrepare .. | .effectIssue .. | .fenceCheck .. | .translationWalk .. | .tlbInvalidationArrival ..
  | .cascadeNumbering .. | .cascadeApply .. | .remoteModuleAccess .. | .remoteEffectMessage .. | .replyResult .. | .replyBusy .. | .replyMoved ..
  | .replyRefuse .. | .retransmitTimeout .. | .busyRetryTimer .. | .ownerBusyLimit .. | .floorNotice .. | .stashRefillRequest ..
  | .stashRefillAnswer .. | .reductionTake .. | .reductionDownwardReceive .. | .reductionRoundEnd .. | .launchExpansion .. | .launchStalled ..
  | .waitExpired .. | .queueRetry .. | .sluiceGovernorTick .. | .setAcquireRequest .. | .setGrant .. | .woundRollback .. | .setRelease ..
  | .droopStretch .. | .supplyRecovery .. | .timeReferencePulse .. | .timeReferenceLost .. | .alarmFire .. | .boundaryFlitCrossing ..
  | .linkFlitCrcError .. | .slip .. | .fetchFillArrival .. | .fetchRetryTimeout .. | .moduleStart .. | .selfTest .. | .partitionCreate ..
  | .domainAgreement .. | .faultRingDeliver .. | .writeFaultRingBase .. | .systemWindowStore .. | .debugResume .. | .debugStep .. | .debugKill ..
  | .preemptRequest .. | .preemptSave .. | .preemptGraceExpiry .. | .partitionRestore .. | .hostDoorbell .. | .hostCmdLaunch .. | .hostCmdCopy ..
  | .hostCmdSignal .. | .hostCmdWait .. | .hostWaitPoll .. | .hostWaitLimit .. | .hostQueueResume .. | .attestationRequest .. | .scrubTick ..
  | .errorFclr .. | .errorCclr .. | .watchdogFire .. | .rimScrub .. | .boundaryStart .. | .boundaryRecord .. | .boundaryApply ..
  | .boundaryDurable .. | .boundaryAbandon .. | .boundaryRetry .. | .logRecord .. | .recoveryStart .. | .recoveryReplay ..
  | .routerEntryPending .. | .routerEntryCommit .. | .routerAckTimeout .. | .routerEntryDoubleError .. | .forwardWindowExpiry .. | .strandSwap ..
  | .groupUnreachable .. | .basinDrain .. | .basinStop .. | .basinMigrate .. | .basinRemapPrepare .. | .basinRemapCommit .. | .basinReturn ..
  | .basinBoundaryNow .. | .basinFail .. | .partitionDestroy .. | .rimChannelWorldSet .. => skips_of_noWord rfl

/-- Settles O56: every word but `vpfx` stands behind its guard. -/
theorem falseGuardDoesNothing : Obligations.FalseGuardDoesNothing := by
  unfold Obligations.FalseGuardDoesNothing
  exact fun i w s hw hv hg => skips hv w hw hg

end Sys2Proof.FalseGuards
end

section
/-! PROOFS. What a word leaves alone (O57). -/

namespace Sys2Proof.WordFrames

open Sys2Proof.Machine Sys2Proof.Claims Sys2Proof.Laws

/-! ### What a word may change -/

/-- The registers of a context that no word changes as it issues. -/
def regsOf (c : Ctx) := (c.g, c.pw, c.pc, c.second, c.vt, c.v, c.k, c.mxSt, c.sqSt, c.fx)

/-- The parts of a state that decide what a word may have made of it. -/
def partsOf (s : State) := (s.cur, s.mem, s.strands, s.units, s.channels)

/-- The parts of a strand's record that decide what a word may have made of the state. -/
def recordOf (x : Strand) := (x.ctx, x.task, x.effIssue)

/-- The parts of the executing strand's record that no word changes as it issues, but for the latches it consumes. -/
def keptOf (x : Strand) := (regsOf x.ctx, x.ctx.lat, x.task, x.effIssue)

/-- Of one context another keeps the registers, and every latch but `ls`. -/
structure Own (ls : List Latch) (c d : Ctx) : Prop where
  regs : regsOf d = regsOf c
  latch : ∀ l, l ∉ ls → d.latch l = c.latch l

/-- What a word is permitted: the latches it may consume, the memories it may leave, and what holds of the state it starts from: that no
cell is disturbed (`calm`), and that it must leave the other strands' contexts alone (`alone`). -/
structure Permit where
  latches : List Latch
  memory : List Host.Cell → Prop
  calm : Prop
  alone : Prop

/-- The state `t` is what a word may have made of `s`. -/
structure Frame (p : Permit) (s t : State) : Prop where
  cur : t.cur = s.cur
  task : t.me.task = s.me.task
  issuing : s.me.effIssue = true → t.me.effIssue = true
  memory : p.memory t.mem
  calm : p.calm → Undisturbed t
  others : p.alone → ∀ sid, sid ≠ s.cur → (t.strand sid).ctx = (s.strand sid).ctx
  own : Own p.latches s.ctx t.ctx

/-- The bundle is held back, or the state is what a word may have made of `s`. -/
def Keeps (p : Permit) (s t : State) : Prop := t.held = true ∨ Frame p s t

theorem Own.of_eq {ls : List Latch} {c d : Ctx} (hr : regsOf d = regsOf c) (hl : d.lat = c.lat) : Own ls c d :=
  ⟨hr, fun l _ => congrArg (fun v : Vector Reg 28 => v[l.idx]) hl⟩

theorem Own.refl {ls : List Latch} {c : Ctx} : Own ls c c := .of_eq rfl rfl

theorem Own.trans {ls : List Latch} {c d e : Ctx} (h : Own ls c d) (k : Own ls d e) : Own ls c e :=
  ⟨k.regs.trans h.regs, fun l hl => (k.latch l hl).trans (h.latch l hl)⟩

section
variable {p q : Permit} {s0 s t : State} {α β : Type}

theorem Frame.refl (hm : p.memory s.mem) (hc : p.calm → Undisturbed s) : Frame p s s :=
  ⟨rfl, rfl, id, hm, hc, fun _ _ _ => rfl, .refl⟩

/-- Nothing but these parts of a state decides the frame. -/
theorem Frame.update (f : Frame p s0 s) (h : partsOf t = partsOf s) : Frame p s0 t := by
  simp only [partsOf, Prod.mk.injEq] at h
  obtain ⟨hcur, hmem, hst, hu, hch⟩ := h
  have hstrand sid : t.strand sid = s.strand sid := congrArg (fun m => Store.getD m sid Strand.reset) hst
  have hme : t.me = s.me := (hstrand _).trans (congrArg s.strand hcur)
  refine ⟨hcur.trans f.cur, hme ▸ f.task, hme ▸ f.issuing, hmem ▸ f.memory, fun hc => ?_, fun ha sid hs => ?_, ?_⟩
  · obtain ⟨hf, hup⟩ := f.calm hc
    exact ⟨fun u => (congrArg (fun m => (Store.getD m u SramUnit.reset).flips) hu).trans (hf u),
      fun c => (congrArg (fun m => (Store.getD m c Channel.reset).upsets) hch).trans (hup c)⟩
  · exact (congrArg Strand.ctx (hstrand sid)).trans (f.others ha sid hs)
  · show Own p.latches s0.ctx t.me.ctx
    rw [hme]
    exact f.own

theorem me_setStrand (s : State) (sid : Nat) (x : Strand) : (s.setStrand sid x).me = if sid = s.cur then x else s.me := by
  split
  · subst sid
    exact setStrand_strand s s.cur x
  · exact setStrand_strand_other s sid s.cur x (Ne.symm ‹_›)

theorem Frame.setStrand {x : Strand} {sid : Nat} (f : Frame p s0 s) (hx : sid = s.cur → Own p.latches s.ctx x.ctx)
    (ho : sid ≠ s.cur → p.alone → x.ctx = (s.strand sid).ctx) (ht : sid = s.cur → x.task = s.me.task)
    (hi : sid = s.cur → s.me.effIssue = true → x.effIssue = true) : Frame p s0 (s.setStrand sid x) := by
  refine ⟨f.cur, ?_, ?_, f.memory, f.calm, fun ha j hj => ?_, ?_⟩
  · rw [me_setStrand]
    split
    · exact (ht ‹_›).trans f.task
    · exact f.task
  · rw [me_setStrand]
    split
    · exact fun h => hi ‹_› (f.issuing h)
    · exact f.issuing
  · by_cases hjs : j = sid
    · subst hjs
      rw [setStrand_strand]
      exact (ho (f.cur ▸ hj) ha).trans (f.others ha j hj)
    · rw [setStrand_strand_other _ _ _ _ hjs]
      exact f.others ha j hj
  · show Own p.latches s0.ctx (s.setStrand sid x).me.ctx
    rw [me_setStrand]
    split
    · exact f.own.trans (hx ‹_›)
    · exact f.own

/-- Another record of a strand, in which the context, the task and the mark of its effect are as before. -/
theorem Frame.record {sid : Nat} {x : Strand} (f : Frame p s0 s) (h : recordOf x = recordOf (s.strand sid)) : Frame p s0 (s.setStrand sid x) := by
  simp only [recordOf, Prod.mk.injEq] at h
  obtain ⟨hc, ht, hi⟩ := h
  exact f.setStrand (fun e => by subst e; exact .of_eq (congrArg regsOf hc) (congrArg Ctx.lat hc)) (fun _ _ => hc)
    (fun e => by subst e; exact ht) fun e h => by subst e; exact hi.trans h

theorem Frame.updStrand {sid : Nat} {g : Strand → Strand} (f : Frame p s0 s) (hg : ∀ x, recordOf (g x) = recordOf x) :
    Frame p s0 (s.updStrand sid g) :=
  f.record (hg _)

/-- Another strand's record, where a word need not leave it alone. -/
theorem Frame.updOther {sid : Nat} {g : Strand → Strand} (f : Frame p s0 s) (ha : ¬p.alone) (hs : sid ≠ s0.cur) : Frame p s0 (s.updStrand sid g) :=
  have hn : sid ≠ s.cur := fun e => hs (e.trans f.cur)
  f.setStrand (fun e => absurd e hn) (fun _ h => absurd h ha) (fun e => absurd e hn) fun e => absurd e hn

/-- The executing strand's record, with the context's registers and latches as they are. -/
theorem Frame.updMe {g : Strand → Strand} (f : Frame p s0 s) (h : keptOf (g s.me) = keptOf s.me) : Frame p s0 (s.updMe g) := by
  simp only [keptOf, Prod.mk.injEq] at h
  obtain ⟨hr, hl, ht, hi⟩ := h
  exact f.setStrand (fun _ => .of_eq hr hl) (fun h => absurd rfl h) (fun _ => ht) fun _ => hi.trans

theorem Frame.updCtx {g : Ctx → Ctx} (f : Frame p s0 s)
    (h : (regsOf (g s.me.ctx), (g s.me.ctx).lat) = (regsOf s.me.ctx, s.me.ctx.lat)) : Frame p s0 (s.updCtx g) := by
  obtain ⟨hr, hl⟩ := Prod.mk.inj h
  exact f.setStrand (fun _ => .of_eq hr hl) (fun h => absurd rfl h) (fun _ => rfl) fun _ => id

theorem Frame.updCore {ck : Nat} {g : Core → Core} (f : Frame p s0 s) : Frame p s0 (s.updCore ck g) := f.update rfl

theorem Frame.updGroup {gk : Nat} {g : Machine.Group → Machine.Group} (f : Frame p s0 s) : Frame p s0 (s.updGroup gk g) := f.update rfl

theorem Frame.updRegion {rk : Nat} {g : Region → Region} (f : Frame p s0 s) : Frame p s0 (s.updRegion rk g) := f.update rfl

theorem Frame.push {e : Instr} (f : Frame p s0 s) : Frame p s0 (s.push e) := f.update rfl

theorem Frame.ite {c : Prop} {_ : Decidable c} (hs : Frame p s0 s) (ht : Frame p s0 t) : Frame p s0 (if c then s else t) := by
  split
  · exact hs
  · exact ht

theorem Frame.pushOnce {e : Instr} (f : Frame p s0 s) : Frame p s0 (s.pushOnce e) := f.ite f.push

theorem Frame.bump (f : Frame p s0 s) : Frame p s0 s.bump := f.update rfl

theorem Frame.keeps (f : Frame p s0 s) : Keeps p s0 s := .inr f

theorem Frame.foldl {l : List α} {g : State → α → State} (f : Frame p s0 s) (hg : ∀ {t x}, Frame p s0 t → Frame p s0 (g t x)) :
    Frame p s0 (l.foldl g s) :=
  List.foldlRecOn l g f fun _ ht _ _ => hg ht

theorem Frame.of_snd {a : α × State} {x : α} (ha : Frame p s0 a.2) (e : a = (x, t)) : Frame p s0 t := by
  subst e; exact ha

/-! ### Shapes of a body -/

theorem Keeps.of_held (h : t.held = true) : Keeps p s t := .inl h

theorem Keeps.ite {c : Prop} {_ : Decidable c} (hs : Keeps p s0 s) (ht : Keeps p s0 t) : Keeps p s0 (if c then s else t) := by
  split
  · exact hs
  · exact ht

theorem Keeps.foldl {l : List α} {f : State → α → State} (hs : Keeps p s0 s) (hf : ∀ {t x}, Keeps p s0 t → Keeps p s0 (f t x)) :
    Keeps p s0 (l.foldl f s) :=
  List.foldlRecOn l f hs fun _ ht _ _ => hf ht

/-! ### Records -/

theorem Keeps.update (h : Keeps p s0 s) (e : (partsOf t, t.held) = (partsOf s, s.held)) : Keeps p s0 t := by
  obtain ⟨hp, hh⟩ := Prod.mk.inj e
  exact h.imp hh.trans (Frame.update · hp)

theorem Keeps.setStrand {x : Strand} {sid : Nat} (h : Keeps p s0 s) (hx : sid = s.cur → Own p.latches s.ctx x.ctx)
    (ho : sid ≠ s.cur → p.alone → x.ctx = (s.strand sid).ctx) (ht : sid = s.cur → x.task = s.me.task)
    (hi : sid = s.cur → s.me.effIssue = true → x.effIssue = true) : Keeps p s0 (s.setStrand sid x) :=
  h.imp id fun f => f.setStrand hx ho ht hi

theorem Keeps.updStrand {sid : Nat} {f : Strand → Strand} (hs : Keeps p s0 s) (hf : ∀ x, recordOf (f x) = recordOf x) :
    Keeps p s0 (s.updStrand sid f) :=
  hs.imp id (Frame.updStrand · hf)

theorem Keeps.updMe {f : Strand → Strand} (hs : Keeps p s0 s) (h : keptOf (f s.me) = keptOf s.me) : Keeps p s0 (s.updMe f) :=
  hs.imp id (Frame.updMe · h)

theorem Keeps.updCtx {f : Ctx → Ctx} (hs : Keeps p s0 s)
    (h : (regsOf (f s.me.ctx), (f s.me.ctx).lat) = (regsOf s.me.ctx, s.me.ctx.lat)) : Keeps p s0 (s.updCtx f) :=
  hs.imp id (Frame.updCtx · h)

theorem Keeps.updCore {ck : Nat} {f : Core → Core} (hs : Keeps p s0 s) : Keeps p s0 (s.updCore ck f) := hs.update rfl

theorem Keeps.updGroup {gk : Nat} {f : Machine.Group → Machine.Group} (hs : Keeps p s0 s) : Keeps p s0 (s.updGroup gk f) := hs.update rfl

theorem Keeps.updData {gk : Nat} {f : GroupData → GroupData} (hs : Keeps p s0 s) : Keeps p s0 (s.updData gk f) := hs.updGroup

theorem Keeps.push {e : Instr} (hs : Keeps p s0 s) : Keeps p s0 (s.push e) := hs.update rfl

theorem Keeps.pushOnce {e : Instr} (hs : Keeps p s0 s) : Keeps p s0 (s.pushOnce e) := hs.ite hs.push

theorem Keeps.bump (hs : Keeps p s0 s) : Keeps p s0 s.bump := hs.update rfl

theorem Keeps.enter {way : List Nat} {n : Nat} {e : Instr} (hs : Keeps p s0 s) : Keeps p s0 (s.enter way n e) := by
  unfold State.enter
  split
  · exact hs.push
  · exact .pushOnce (hs.update rfl)

theorem Keeps.sendMsg {m : Msg} {e : Instr} (hs : Keeps p s0 s) : Keeps p s0 (s.sendMsg m e) := hs.enter

theorem Keeps.askBoundary {ck : Nat} (hs : Keeps p s0 s) : Keeps p s0 (s.askBoundary ck) := hs.updCore.pushOnce

/-! ### Results put in flight, and latches consumed -/

theorem Keeps.launch {u : FUnit} {left : Nat} {arrived : Bool} {pend : Pend} {lim detail : Nat} {acts : List Wr} (hs : Keeps p s0 s) :
    Keeps p s0 (s.launch u left arrived pend lim detail acts) :=
  hs.updMe rfl

theorem Keeps.launchVar {u : FUnit} {la : BitVec 4} {pend : Pend} {lim detail : Nat} {port read : Bool} {acts : List Wr} (hs : Keeps p s0 s) :
    Keeps p s0 (s.launchVar u la pend lim detail port read acts) :=
  hs.updMe rfl

theorem Keeps.write {w : Wr} (hs : Keeps p s0 s) : Keeps p s0 (s.write w) := hs.launch

theorem Keeps.trigger {u : FUnit} {lat : Nat} {acts : List Wr} (hs : Keeps p s0 s) : Keeps p s0 (s.trigger u lat acts) := hs.launch

theorem Keeps.asEffect (hs : Keeps p s0 s) : Keeps p s0 s.asEffect := hs.updMe rfl

theorem Keeps.asWaiting (hs : Keeps p s0 s) : Keeps p s0 s.asWaiting := hs.updMe rfl

theorem Own.setLatch {ls : List Latch} {c : Ctx} {l : Latch} {r : Reg} (hl : l ∈ ls) : Own ls c (c.setLatch l r) :=
  ⟨rfl, fun m hm => latch_setLatch_other c l m r fun e => hm (e ▸ hl)⟩

theorem Keeps.consume {l : Latch} (hs : Keeps p s0 s) (hl : l ∈ p.latches) : Keeps p s0 (s.consume l) :=
  hs.ite (.bump (hs.setStrand (fun _ => (Own.setLatch hl).trans (.of_eq rfl rfl)) (fun h => absurd rfl h) (fun _ => rfl) fun _ h => h))

theorem Keeps.consumeAll {ls : List Latch} (hs : Keeps p s0 s) (hl : ∀ l ∈ ls, l ∈ p.latches) : Keeps p s0 (s.consumeAll ls) :=
  List.foldlRecOn ls State.consume hs fun _ ht l hm => Keeps.consume ht (hl l hm)


/-! ### Reads of memory, where no cell is disturbed -/

section
variable (hs : Undisturbed s)
include hs

theorem rebuildRim_of_undisturbed (line : Nat) (reader : Option Nat) (detail : Nat) : s.rebuildRim line reader detail = s := by
  have hes : (s.channel (line / 2 ^ 29)).upsets.getD line [] = [] := by rw [hs.2]; rfl
  simp only [State.rebuildRim, hes, if_true]

theorem sense_of_undisturbed (reader : Option Nat) (line : Nat) : s.sense reader line = s := by
  unfold State.sense
  split
  · exact Steps.senseUnit_of_undisturbed hs.1 _ _
  · exact rebuildRim_of_undisturbed hs _ _ _
  · rfl

theorem senseGroup_of_undisturbed (gk array : Nat) : s.senseGroup gk array = s := by
  simp only [State.senseGroup, Steps.flippedWords_of_undisturbed hs.1, List.all_nil, if_true]

theorem senseArray_of_undisturbed (gk : Nat) : s.senseArray gk = s := Steps.senseUnit_of_undisturbed hs.1 _ _

theorem senseRepl_of_undisturbed (ck : Nat) (ps : List (Nat × Nat)) : s.senseRepl ck ps = s :=
  Steps.foldl_of_still (fun _ => sense_of_undisturbed hs _ _) _

end

theorem noteRegisters_self (x : Strand) : x.noteRegisters x = x := by
  simp [Strand.noteRegisters]

theorem Frame.senseStrand {sid : Nat} (f : Frame p s0 s) (hc : p.calm) : Frame p s0 (s.senseStrand sid) := by
  simp only [State.senseStrand, Steps.senseUnit_of_undisturbed (f.calm hc).1, State.updStrand, noteRegisters_self]
  exact f.setStrand (fun e => by subst e; exact .refl) (fun _ _ => rfl) (fun e => by subst e; rfl) fun e h => by subst e; exact h

theorem Frame.senseSys {r : SysRef} (f : Frame p s0 s) (hc : p.calm) : Frame p s0 (s.senseSys r) := by
  have hs := f.calm hc
  unfold State.senseSys
  split
  · exact f.senseStrand hc
  · rwa [senseArray_of_undisturbed hs]
  · rwa [senseArray_of_undisturbed hs]
  · rwa [senseArray_of_undisturbed hs]
  · rwa [senseGroup_of_undisturbed hs]
  · exact f

theorem Frame.senseRepl {ck : Nat} {ps : List (Nat × Nat)} (f : Frame p s0 s) (hc : p.calm) : Frame p s0 (s.senseRepl ck ps) :=
  (senseRepl_of_undisturbed (f.calm hc) ck ps).symm ▸ f

theorem Frame.noteRead {sid line : Nat} (f : Frame p s0 s) (hc : p.calm) : Frame p s0 (s.noteRead sid line) := by
  unfold State.noteRead
  simp only [sense_of_undisturbed (f.calm hc)]
  exact .ite (f.updStrand fun _ => rfl) (f.updStrand fun _ => rfl)

theorem Frame.noteReads {sid : State → Nat} {ps : List (Nat × Nat)} (f : Frame p s0 s) (hc : p.calm) :
    Frame p s0 (ps.foldl (fun s q => (linesOf q.1 q.2).foldl (fun s l => s.noteRead (sid s) l) s) s) :=
  f.foldl fun f => f.foldl fun f => f.noteRead hc

theorem Frame.readPieces {ps : List (Nat × Nat)} (f : Frame p s0 s) (hc : p.calm) : Frame p s0 (s.readPieces ps).2.2 := f.noteReads hc


/-! ### Gates: a gate holds the bundle back, or runs what it guards once -/

theorem pushOnce_of_held {e : Instr} (h : s.held = true) : (s.pushOnce e).held = true := (pushOnce_held s e).trans h

theorem faultAddr_held (s : State) (cause : Nat) (a : Reg80) : (s.faultAddr cause a).held = true := by
  unfold State.faultAddr
  split <;> rfl

/-- A gate holds the bundle back whatever it guards, or runs it at one place (a choice of its arguments) of which `Q` holds. -/
def Passes {κ : Type} (G : κ → State) (Q : (κ → State) → Prop) : Prop := (∃ e, Q e ∧ ∀ k, G k = e k) ∨ ∀ k, (G k).held = true

/-- What is guarded runs on a state of which `Q` holds. -/
def At (Q : State → Prop) (e : (State → State) → State) : Prop := ∃ t, Q t ∧ e = fun k => k t

/-- What is guarded runs on a value and a state of which `Q` holds. -/
def At₁ (Q : α → State → Prop) (e : (α → State → State) → State) : Prop := ∃ x t, Q x t ∧ e = fun k => k x t

/-- What is guarded runs on two values and a state of which `Q` holds. -/
def At₂ (Q : α → β → State → Prop) (e : (α → β → State → State) → State) : Prop := ∃ x y t, Q x y t ∧ e = fun k => k x y t

section
variable {κ μ : Type} {G : κ → State} {Q : (κ → State) → Prop}

theorem Passes.holds (h : ∀ k, (G k).held = true) : Passes G Q := .inr h

theorem Passes.at {G : (State → State) → State} {Q : State → Prop} (h : ∀ k, G k = k t) (hq : Q t) : Passes G (At Q) :=
  .inl ⟨_, ⟨t, hq, rfl⟩, h⟩

theorem Passes.at₁ {G : (α → State → State) → State} {Q : α → State → Prop} {x : α} (h : ∀ k, G k = k x t) (hq : Q x t) : Passes G (At₁ Q) :=
  .inl ⟨_, ⟨x, t, hq, rfl⟩, h⟩

theorem Passes.at₂ {G : (α → β → State → State) → State} {Q : α → β → State → Prop} {x : α} {y : β} (h : ∀ k, G k = k x y t) (hq : Q x y t) :
    Passes G (At₂ Q) :=
  .inl ⟨_, ⟨x, y, t, hq, rfl⟩, h⟩

theorem Passes.then {H : μ → κ} {R : (μ → State) → Prop} (hg : Passes G Q) (hh : ∀ e, Q e → Passes (fun k => e (H k)) R) :
    Passes (fun k => G (H k)) R := by
  obtain ⟨e, hq, he⟩ | hheld := hg
  · obtain ⟨d, hr, hd⟩ | hheld := hh e hq
    · exact .inl ⟨d, hr, fun k => (he _).trans (hd k)⟩
    · exact .holds fun k => (congrArg State.held (he _)).trans (hheld k)
  · exact .holds fun k => hheld _

theorem Passes.bind {G : (State → State) → State} {Q : State → Prop} {H : μ → State → State} {R : (μ → State) → Prop} (hg : Passes G (At Q))
    (hh : ∀ t, Q t → Passes (fun k => H k t) R) : Passes (fun k => G (H k)) R := by
  refine hg.then ?_
  rintro _ ⟨t, hq, rfl⟩
  exact hh t hq

theorem Passes.bind₁ {G : (α → State → State) → State} {Q : α → State → Prop} {H : μ → α → State → State} {R : (μ → State) → Prop}
    (hg : Passes G (At₁ Q)) (hh : ∀ x t, Q x t → Passes (fun k => H k x t) R) : Passes (fun k => G (H k)) R := by
  refine hg.then ?_
  rintro _ ⟨x, t, hq, rfl⟩
  exact hh x t hq

theorem Passes.bind₂ {G : (α → β → State → State) → State} {Q : α → β → State → Prop} {H : μ → α → β → State → State} {R : (μ → State) → Prop}
    (hg : Passes G (At₂ Q)) (hh : ∀ x y t, Q x y t → Passes (fun k => H k x y t) R) : Passes (fun k => G (H k)) R := by
  refine hg.then ?_
  rintro _ ⟨x, y, t, hq, rfl⟩
  exact hh x y t hq

theorem Passes.ite {c : Prop} {_ : Decidable c} {G' : κ → State} (hg : Passes G Q) (hg' : Passes G' Q) :
    Passes (fun k => if c then G k else G' k) Q := by
  by_cases h : c
  · simpa only [if_pos h] using hg
  · simpa only [if_neg h] using hg'

theorem Passes.keeps {G : (State → State) → State} {Q : State → Prop} {k : State → State} (hg : Passes G (At Q))
    (hk : ∀ t, Q t → Keeps p s0 (k t)) : Keeps p s0 (G k) := by
  obtain ⟨_, ⟨t, hq, rfl⟩, he⟩ | hheld := hg
  · exact (he k).symm ▸ hk t hq
  · exact .inl (hheld k)

theorem Passes.keeps₁ {G : (α → State → State) → State} {Q : α → State → Prop} {k : α → State → State} (hg : Passes G (At₁ Q))
    (hk : ∀ x t, Q x t → Keeps p s0 (k x t)) : Keeps p s0 (G k) := by
  obtain ⟨_, ⟨x, t, hq, rfl⟩, he⟩ | hheld := hg
  · exact (he k).symm ▸ hk x t hq
  · exact .inl (hheld k)

theorem Passes.keeps₂ {G : (α → β → State → State) → State} {Q : α → β → State → Prop} {k : α → β → State → State} (hg : Passes G (At₂ Q))
    (hk : ∀ x y t, Q x y t → Keeps p s0 (k x y t)) : Keeps p s0 (G k) := by
  obtain ⟨_, ⟨x, y, t, hq, rfl⟩, he⟩ | hheld := hg
  · exact (he k).symm ▸ hk x y t hq
  · exact .inl (hheld k)

end

theorem passes_effectGate (s : State) : Passes (effectGate s) (At fun t => t = asIssuing s) := by
  unfold effectGate asIssuing
  by_cases h : s.me.effIssue = true
  · simp only [if_pos h]
    exact .at (fun _ => rfl) rfl
  · simp only [if_neg h]
    exact .ite (.holds fun _ => rfl) (.ite (.holds fun _ => pushOnce_of_held rfl) (.at (fun _ => rfl) rfl))

theorem passes_windowGate (s : State) (n : Nat) : Passes (windowGate s n) (At fun t => t = s) := by
  unfold windowGate
  refine .ite (.at (fun _ => rfl) rfl) ?_
  cases s.me.ctx.flights.find? fun f => decide (0 < f.results) with
  | none => exact .at (fun _ => rfl) rfl
  | some f => exact .holds fun _ => rfl

theorem passes_conflictGate (s : State) (a : Reg80) : Passes (conflictGate s a) (At fun t => t = s ∧ s.heldSets s.cur = 0) := by
  unfold conflictGate
  by_cases h : s.heldSets s.cur = 0
  · simp only [if_pos h]
    exact .at (fun _ => rfl) ⟨rfl, h⟩
  · simp only [if_neg h]
    exact .holds fun _ => faultAddr_held _ _ _

theorem passes_remoteGate (s : State) : Passes (remoteGate s) (At fun t => t = s) :=
  .ite (.holds fun _ => rfl) (.ite (.holds fun _ => rfl) (.at (fun _ => rfl) rfl))

theorem passes_needKernel (s : State) : Passes (needKernel s) (At fun t => t = s) :=
  .ite (.holds fun _ => rfl) (.at (fun _ => rfl) rfl)

theorem passes_needSupervisor (s : State) : Passes (needSupervisor s) (At fun t => t = s) :=
  .ite (.at (fun _ => rfl) rfl) (.holds fun _ => rfl)

theorem passes_setGate (s : State) (acc : Machine.Acc) : Passes (setGate s acc) (At fun t => t = s) := by
  unfold setGate
  split
  · refine .ite (.at (fun _ => rfl) rfl) ?_
    dsimp only
    split
    · exact .at (fun _ => rfl) rfl
    · refine .ite (.holds fun _ => rfl) (.ite (.holds fun _ => pushOnce_of_held rfl) (.ite (.holds fun _ => rfl) (.ite (.holds fun _ => rfl) ?_)))
      exact .ite (.holds fun _ => rfl) (.ite (.holds fun _ => rfl) (.holds fun _ => rfl))
  · exact .at (fun _ => rfl) rfl

/-! ### Addresses and places -/

theorem Frame.translate {ck off : Nat} {rep store : Bool} (f : Frame p s0 s) : Frame p s0 (s.translate ck off rep store).2 := by
  unfold State.translate
  dsimp only
  split
  · split
    · split
      · exact f
      · exact f.update rfl
    · exact f
  · split
    · split
      · exact f.bump
      · exact f.bump.update rfl
    · split
      · split
        · exact f.bump
        · exact Frame.bump (f.update rfl)
      · exact f.bump

theorem Frame.translateAll {ck : Nat} {rep store : Bool} {ps : List (Nat × Nat)} (f : Frame p s0 s) :
    Frame p s0 (s.translateAll ck rep store ps).2 := by
  induction ps generalizing s with
  | nil => exact f
  | cons a r ih =>
    unfold State.translateAll
    split
    · exact f.translate.of_snd ‹_›
    · have ht := ih (f.translate.of_snd ‹_›)
      split
      · exact ht.of_snd ‹_›
      · exact ht.of_snd ‹_›

theorem Frame.resolve {ck n : Nat} {store : Bool} {a : Place} (f : Frame p s0 s) : Frame p s0 (s.resolve ck n store a).2 := by
  unfold State.resolve
  split
  · exact f
  · exact f
  · split
    · exact f.translateAll.of_snd ‹_›
    · exact f.translateAll.of_snd ‹_›
  · split
    · exact f.translateAll.of_snd ‹_›
    · exact f.translateAll.of_snd ‹_›
  · exact f
  · exact f

theorem Frame.resolveAll {ck n : Nat} {store : Bool} {ps : List Place} (f : Frame p s0 s) : Frame p s0 (s.resolveAll ck n store ps).2 := by
  induction ps generalizing s with
  | nil => exact f
  | cons a r ih =>
    cases r with
    | nil => exact f.resolve
    | cons b r => exact ih f.resolve

theorem Frame.asIssuing (f : Frame p s0 s) : Frame p s0 (asIssuing s) := 
  f.ite (f.setStrand (fun _ => .of_eq rfl rfl) (fun h => absurd rfl h) (fun _ => rfl) fun _ _ => rfl)

/-- What an access hands on: its places, resolved on the state, or on it as it issues an effect. -/
def Resolved (s : State) (n : Nat) (store : Bool) (ps : List Place) (acc : Machine.Acc) (t : State) : Prop :=
  (acc, t) = s.resolveAll s.myCk n store ps ∨ (acc, t) = (asIssuing s).resolveAll (asIssuing s).myCk n store ps

theorem Frame.resolved {acc : Machine.Acc} {n : Nat} {store : Bool} {ps : List Place} (f : Frame p s0 s) (h : Resolved s n store ps acc t) :
    Frame p s0 t := by
  obtain h | h := h
  · exact f.resolveAll.of_snd h.symm
  · exact f.asIssuing.resolveAll.of_snd h.symm

theorem passes_accessPlaces (s : State) (ps : List Place) (cls n : Nat) (store sets : Bool) :
    Passes (accessPlaces s ps cls n store sets) (At₁ (Resolved s n store ps)) := by
  unfold accessPlaces
  refine .ite (.holds fun _ => rfl) (.ite ((passes_effectGate s).bind fun t ht => .at₁ (fun _ => rfl) (.inr (by rw [ht]))) ?_)
  exact .ite ((passes_setGate _ _).bind fun t ht => .at₁ (fun _ => rfl) (.inl (by rw [ht]))) (.at₁ (fun _ => rfl) (.inl rfl))

end

end Sys2Proof.WordFrames
end

section
/-! PROOFS. What the operands and the gates of a word leave alone (O57). -/

namespace Sys2Proof.WordFrames

open Sys2Proof.Machine Sys2Proof.Claims Sys2Proof.Laws

section
variable {p q : Permit} {s0 s t : State} {α β : Type}

/-! ### Faults and waits hold the bundle back -/

theorem Keeps.fault {cause detail : Nat} {data : List Byte} : Keeps p s0 (s.fault cause detail data) := .of_held rfl

theorem Keeps.faultWord {cause : Nat} : Keeps p s0 (s.faultWord cause) := .fault

theorem Keeps.faultAddr {cause : Nat} {a : Reg80} : Keeps p s0 (s.faultAddr cause a) := .of_held (faultAddr_held _ _ _)

theorem Keeps.faultPoison {a : Reg80} : Keeps p s0 (s.faultPoison a) := .fault

theorem Keeps.hold {st : SState} {why : Why} {lim : Nat} : Keeps p s0 (s.hold st why lim) := .of_held rfl

theorem Keeps.endFirst : Keeps p s0 s.endFirst := .of_held rfl

/-! ### Accesses -/

theorem passes_accessWith (s : State) (a : Reg) (n align : Nat) (store scalar sets : Bool) :
    Passes (accessWith s a n align store scalar sets)
      (At₁ fun acc t => ∃ pl, s.checkAccess s.myCk (s.mode s.cur) a.v n align = .ok pl ∧ Resolved s n store [pl] acc t) := by
  unfold accessWith
  refine .ite (.holds fun _ => rfl) ?_
  cases h : s.checkAccess s.myCk (s.mode s.cur) a.v n align with
  | bad c => exact .holds fun _ => faultAddr_held _ _ _
  | ok pl =>
    refine .ite (.holds fun _ => faultAddr_held _ _ _) ?_
    exact (passes_accessPlaces s [pl] (classOf a.v) n store sets).bind₁ fun _ _ ht => .at₁ (fun _ => rfl) ⟨pl, rfl, ht⟩

/-- What a gate hands on, beside a state in which a word may have got so far. -/
abbrev Reaches (p : Permit) (s0 : State) : α → State → Prop := fun _ t => Frame p s0 t

abbrev Reaches₂ (p : Permit) (s0 : State) : α → β → State → Prop := fun _ _ t => Frame p s0 t

theorem Frame.accessWith {a : Reg} {n align : Nat} {store scalar sets : Bool} (f : Frame p s0 s) :
    Passes (accessWith s a n align store scalar sets) (At₁ (Reaches p s0)) :=
  (passes_accessWith s a n align store scalar sets).bind₁ fun _ _ ⟨_, _, ht⟩ => .at₁ (fun _ => rfl) (f.resolved ht)

theorem Frame.access {a : Reg} {n align : Nat} {store scalar : Bool} (f : Frame p s0 s) :
    Passes (access s a n align store scalar) (At₁ (Reaches p s0)) :=
  f.accessWith

theorem Frame.accessElems {base : Reg} {steer : Bool} {xs : List Int} {n : Nat} {store : Bool} (f : Frame p s0 s) :
    Passes (accessElems s base steer xs n store) (At₁ (Reaches p s0)) := by
  unfold Machine.accessElems
  refine .ite (.holds fun _ => rfl) ?_
  split
  · exact .holds fun _ => faultAddr_held _ _ _
  · exact (passes_accessPlaces ..).bind₁ fun _ _ ht => .at₁ (fun _ => rfl) (f.resolved ht)

/-! ### Streams -/

theorem Frame.setPe {a : Reg80} (f : Frame p s0 s) : Frame p s0 (s.setPe a) := by
  unfold State.setPe
  refine f.setStrand (fun _ => ?_) (fun h => absurd rfl h) (fun _ => rfl) fun _ => id
  show Own _ s.ctx (if s.ctx.pe.set = true then s.ctx else _)
  split
  · exact .refl
  · exact .of_eq rfl rfl

theorem Frame.notePop {j : Fin 8} {b : Option Binding} {a : Reg80} {d : List Byte} {m : Bool} {ps : List (Nat × Nat)} (f : Frame p s0 s) :
    Frame p s0 (s.notePop j b a d m ps) := by
  unfold State.notePop
  split
  · exact f.updMe rfl
  · exact f

theorem Frame.popGiven {e : Popped} (f : Frame p s0 s) (hc : p.calm) : Frame p s0 (s.popGiven e) := by
  have hr : Frame p s0 (e.pieces.foldl (fun s q => (linesOf q.1 q.2).foldl (fun s l => s.noteRead s.cur l) s)
      (if e.kept then s else
        (s.updCtx fun c => { c with binds := c.binds.set e.j (some { e.bind with pos := e.bind.pos + 1 }) }).updMe fun x =>
          { x with buffered := if e.pieces = [] then x.buffered else x.buffered.set e.j (x.arrivedElems e.j - 1),
                   elem := if e.pieces = [] then none else x.elem })) :=
    (f.ite ((Frame.updCtx f (by rfl)).updMe (by rfl))).noteReads hc
  exact Frame.ite (hr.setPe.ite hr) (hr.setPe.ite hr).pushOnce

theorem Frame.takePosition {j : Fin 8} {out : Bool} {n : Nat} (f : Frame p s0 s) :
    Passes (takePosition s j out n) (At₂ (Reaches₂ p s0)) := by
  unfold Machine.takePosition
  split
  · exact .holds fun _ => rfl
  · refine .ite (.holds fun _ => rfl) (.ite (.holds fun _ => rfl) ?_)
    split
    · exact .holds fun _ => faultAddr_held _ _ _
    · exact f.access.bind₁ fun _ _ ft => .at₂ (fun _ => rfl) (Frame.updCtx ft rfl)

theorem askElem_held (s : State) (j : Fin 8) (m : Nat) (tile : Bool) (offs : List Nat) (n : Nat) : (s.askElem j m tile offs n).held = true := by
  unfold State.askElem remoteGate
  split
  · rfl
  · split <;> rfl

theorem Frame.deliverElem {a : Reg80} {ps : List (Nat × Nat)} (f : Frame p s0 s) (hc : p.calm) :
    Passes (s.deliverElem a ps) (At₂ (Reaches₂ p s0)) :=
  .ite (.at₂ (fun _ => rfl) (f.readPieces hc).setPe) (.at₂ (fun _ => rfl) (f.readPieces hc))

theorem Frame.popStream {j : Fin 8} {n : Nat} (f : Frame p s0 s) (hc : p.calm) : Passes (popStream s j n) (At₂ (Reaches₂ p s0)) := by
  unfold Machine.popStream
  split
  · exact .at₂ (fun _ => rfl) ((Frame.updMe f (by rfl)).popGiven hc)
  · refine f.takePosition.bind₂ fun acc a t ft => ?_
    split
    · split
      · refine .ite (.at₂ (fun _ => rfl) ?_) (.holds fun _ => askElem_held _ _ _ _ _ _)
        exact (Frame.updMe ft (by rfl)).notePop.setPe.ite (Frame.updMe ft (by rfl)).notePop
      · exact .holds fun _ => askElem_held _ _ _ _ _ _
    · exact .holds fun _ => faultAddr_held _ _ _
    · exact .holds fun _ => faultAddr_held _ _ _
    · exact .at₂ (fun _ => rfl) (Frame.ite (Frame.notePop ft).setPe (Frame.notePop ft))
    · refine .ite (.holds fun _ => pushOnce_of_held rfl) ?_
      exact ((Frame.updMe ft (by rfl)).pushOnce.deliverElem hc).bind₂ fun _ _ _ ft => .at₂ (fun _ => rfl) (Frame.notePop ft)

theorem Frame.popScalar {j : Fin 8} (f : Frame p s0 s) (hc : p.calm) : Passes (popScalar s j) (At₁ (Reaches p s0)) :=
  Passes.bind₂ (f.popStream hc) fun _ _ _ ft => .at₁ (fun _ => rfl) ft

theorem Frame.popCompletion (f : Frame p s0 s) : Passes (popCompletion s) (At₁ (Reaches p s0)) := by
  unfold Machine.popCompletion
  refine (passes_effectGate s).bind fun _ h => (passes_conflictGate _ _).bind fun t ht => ?_
  obtain ⟨rfl, -⟩ := ht
  subst h
  split
  · exact .at₁ (fun _ => rfl) (f.asIssuing.updMe rfl)
  · exact .ite (.holds fun _ => rfl) (.holds fun _ => rfl)

/-! ### System registers and sources -/

theorem Frame.logged {v : BitVec 64} (f : Frame p s0 s) : Frame p s0 (s.logged v).2 := by
  unfold State.logged
  split
  · dsimp only
    exact f.updCore
  · dsimp only
    exact f.updMe rfl

theorem Frame.readSr {r : Fin 21} (f : Frame p s0 s) : Passes (readSr s r) (At₁ (Reaches p s0)) := by
  unfold Machine.readSr
  dsimp only
  split
  · exact .at₁ (fun _ => rfl) (Frame.updMe f.bump.logged rfl)
  · exact .at₁ (fun _ => rfl) f.logged
  all_goals exact .at₁ (fun _ => rfl) f

/-- A C-word's source: where it pops a stream, no cell is disturbed. -/
theorem Frame.readC {c : CSrc} (f : Frame p s0 s) (hc : p.calm ∨ ∀ j, c ≠ .q j) : Passes (readC s c) (At₁ (Reaches p s0)) := by
  cases c with
  | q j => exact f.popScalar (hc.resolve_right fun h => h j rfl)
  | ceC => exact f.popCompletion
  | sqR =>
    show Passes (fun (k : Reg → State → State) => effectGate s fun s => k (s.ctx.latch .sqR) s) _
    exact (passes_effectGate s).bind fun _ h => .at₁ (fun _ => rfl) (h ▸ f.asIssuing)
  | sr r => exact f.readSr
  | _ => exact .at₁ (fun _ => rfl) f

theorem Frame.readA {c : ASrc} (f : Frame p s0 s) (hc : p.calm ∨ ∀ j, c ≠ .q j) : Passes (readA s c) (At₁ (Reaches p s0)) := by
  cases c with
  | q j => exact f.popScalar (hc.resolve_right fun h => h j rfl)
  | v n => exact .holds fun _ => rfl
  | _ => exact .at₁ (fun _ => rfl) f

theorem Frame.readV {c : ASrc} (f : Frame p s0 s) (hc : p.calm) : Passes (readV s c) (At₁ (Reaches p s0)) := by
  unfold Machine.readV
  split
  · exact .at₁ (fun _ => rfl) f
  · exact (f.popStream hc).bind₂ fun _ _ _ ft => .at₁ (fun _ => rfl) ft
  · exact (f.readA (.inl hc)).bind₁ fun _ _ ft => .at₁ (fun _ => rfl) ft

end

end Sys2Proof.WordFrames
end

section
/-! PROOFS. What the shared operations of the words leave alone (O57). -/

namespace Sys2Proof.WordFrames

open Sys2Proof.Machine Sys2Proof.Claims Sys2Proof.Laws

section
variable {p q : Permit} {s0 s t : State} {α β : Type}

/-! ### Gates -/

theorem Passes.frame {G : (State → State) → State} (f : Frame p s0 s) (h : Passes G (At fun t => t = s)) : Passes G (At (Frame p s0)) :=
  h.bind fun _ e => .at (fun _ => rfl) (e ▸ f)

theorem Keeps.guarded {h : Hdr} {k : State → State} (hs : Keeps p s0 s) (hk : Keeps p s0 (k s)) : Keeps p s0 (guarded h s k) := hk.ite hs

theorem Frame.effectGate (f : Frame p s0 s) : Passes (effectGate s) (At (Frame p s0)) :=
  (passes_effectGate s).bind fun _ e => .at (fun _ => rfl) (e ▸ f.asIssuing)

theorem Frame.windowGate {n : Nat} (f : Frame p s0 s) : Passes (windowGate s n) (At (Frame p s0)) := .frame f (passes_windowGate s n)

theorem Frame.conflictGate {a : Reg80} (f : Frame p s0 s) : Passes (conflictGate s a) (At (Frame p s0)) :=
  .frame f ((passes_conflictGate s a).bind fun _ h => .at (fun _ => rfl) h.1)

theorem Frame.remoteGate (f : Frame p s0 s) : Passes (remoteGate s) (At (Frame p s0)) := .frame f (passes_remoteGate s)

theorem Frame.needKernel (f : Frame p s0 s) : Passes (needKernel s) (At (Frame p s0)) := .frame f (passes_needKernel s)

theorem Frame.needSupervisor (f : Frame p s0 s) : Passes (needSupervisor s) (At (Frame p s0)) := .frame f (passes_needSupervisor s)

theorem Frame.needLease (f : Frame p s0 s) : Passes (needLease s) (At (Frame p s0)) :=
  .ite (.at (fun _ => rfl) f) (.holds fun _ => rfl)

theorem Frame.poolGate {ds : List (Fin 8)} (f : Frame p s0 s) : Passes (poolGate s ds) (At (Frame p s0)) := by
  unfold Machine.poolGate
  exact .ite (.holds fun _ => rfl) (.ite (.at (fun _ => rfl) (f.updMe rfl)) (.ite (.holds fun _ => rfl) (.holds fun _ => rfl)))

theorem Frame.storeGate {lines : List Nat} (f : Frame p s0 s) : Passes (storeGate s lines) (At (Frame p s0)) :=
  .ite (.at (fun _ => rfl) f) (.ite (.holds fun _ => rfl) (.ite (.holds fun _ => rfl) (.ite (.holds fun _ => rfl) (.at (fun _ => rfl) f))))

theorem Frame.undoGate {tag : BitVec 16} {ps : List (Nat × Nat)} {offs : List Nat} (f : Frame p s0 s) :
    Passes (undoGate s tag ps offs) (At (Frame p s0)) := by
  unfold Machine.undoGate
  split
  · exact .at (fun _ => rfl) f
  · exact .ite (.at (fun _ => rfl) f) (.ite (.at (fun _ => rfl) f) (.ite (.holds fun _ => faultAddr_held _ _ _) (.at (fun _ => rfl) (f.updMe rfl))))

theorem Frame.typed (f : Frame p s0 s) : Passes (typed s) (At (Frame p s0)) := .ite (.holds fun _ => rfl) (.at (fun _ => rfl) f)

theorem Frame.barrierGate {a : Reg} {own : Bool} (f : Frame p s0 s) : Passes (barrierGate s a own) (At₂ (Reaches₂ p s0)) := by
  unfold Machine.barrierGate
  refine .ite (.holds fun _ => rfl) ?_
  split
  · exact .holds fun _ => faultAddr_held _ _ _
  · exact .ite (.holds fun _ => faultAddr_held _ _ _) (.at₂ (fun _ => rfl) f)

theorem Frame.phaseGate {a : Reg} (f : Frame p s0 s) : Passes (phaseGate s a) (At₁ (Reaches p s0)) :=
  .ite (.holds fun _ => faultAddr_held _ _ _) (.at₁ (fun _ => rfl) f)

theorem Frame.spawnHeader {a : Reg} (f : Frame p s0 s) (hc : p.calm) : Passes (spawnHeader s a) (At₁ (Reaches p s0)) := by
  unfold Machine.spawnHeader
  refine .ite (.holds fun _ => faultAddr_held _ _ _) (f.accessWith.bind₁ fun acc t ft => ?_)
  cases acc with
  | mem ps => exact .ite (.holds fun _ => rfl) (.ite (.at₁ (fun _ => rfl) (Frame.readPieces ft hc)) (.holds fun _ => faultAddr_held _ _ _))
  | _ => exact .holds fun _ => faultAddr_held _ _ _

theorem Frame.serverGate {st : Nat} {r : Reg} (f : Frame p s0 s) : Passes (serverGate s st r) (At (Frame p s0)) :=
  .ite (.holds fun _ => faultAddr_held _ _ _) (.at (fun _ => rfl) f)

theorem Frame.imageGate {r : Reg} (f : Frame p s0 s) : Passes (imageGate s r) (At (Frame p s0)) :=
  .ite (.holds fun _ => rfl) (.ite (.holds fun _ => faultAddr_held _ _ _) (.ite (.holds fun _ => faultAddr_held _ _ _) (.at (fun _ => rfl) f)))

theorem Frame.fenceGate {why : Why} (f : Frame p s0 s) : Passes (fenceGate s why) (At (Frame p s0)) :=
  .ite (.holds fun _ => rfl) (.ite (.holds fun _ => rfl) (.ite (.holds fun _ => rfl) (.at (fun _ => rfl) f)))

theorem Frame.srGate {r : Fin 21} (f : Frame p s0 s) : Passes (srGate s r) (At (Frame p s0)) := by
  unfold Machine.srGate
  split
  · exact .at (fun _ => rfl) f
  · exact .at (fun _ => rfl) f
  · exact .at (fun _ => rfl) f
  · exact f.needKernel
  · exact f.needKernel
  · exact f.needKernel
  · exact f.needKernel
  · exact f.needKernel
  · exact f.needKernel
  · exact f.needKernel
  · exact f.needKernel
  · exact .holds fun _ => rfl

theorem Frame.drawSr {mode : Nat} (f : Frame p s0 s) : Frame p s0 (s.drawSr mode).2 := by
  unfold State.drawSr
  split
  · dsimp only
    exact f.updCtx rfl
  · exact f

theorem Keeps.limited {r : Nat} {ok : Bool} {k : State → State} (hk : Keeps p s0 (k s)) : Keeps p s0 (limited s r ok k) := hk.ite .fault

/-! ### Requests and results -/

theorem Keeps.sendOut {ck n : Nat} {m : Msg} {e : Instr} (hs : Keeps p s0 s) : Keeps p s0 (s.sendOut ck n m e) := by
  unfold State.sendOut
  split
  · dsimp only
    split
    · exact hs.push.push
    · exact hs.push
  · exact hs.sendMsg.push

theorem Keeps.record {sid : Nat} {x : Strand} (hs : Keeps p s0 s) (h : recordOf x = recordOf (s.strand sid)) : Keeps p s0 (s.setStrand sid x) :=
  hs.imp id (Frame.record · h)

theorem Keeps.sendUnder {sid : Nat} {sn : BitVec 32} {w : Owner} {op : RemoteOp} {seq : Nat} {fpc : BitVec 64} {second : Bool}
    (hs : Keeps p s0 s) : Keeps p s0 (s.sendUnder sid sn w op seq fpc second) := by
  unfold State.sendUnder
  exact (hs.record (by rfl)).sendOut

theorem Keeps.useSerial {sid : Nat} (hs : Keeps p s0 s) : Keeps p s0 (s.useSerial sid) := by
  unfold State.useSerial
  exact (hs.record (by rfl)).askBoundary.ite (hs.record rfl)

theorem Keeps.sendRemote {sid : Nat} {w : Owner} {op : RemoteOp} {seq : Nat} {fpc : BitVec 64} {second : Bool} (hs : Keeps p s0 s) :
    Keeps p s0 (s.sendRemote sid w op seq fpc second) :=
  hs.sendUnder.useSerial

theorem Keeps.sendLocal {sid : Nat} {op : RemoteOp} {seq : Nat} {fpc : BitVec 64} {second : Bool} (hs : Keeps p s0 s) :
    Keeps p s0 (s.sendLocal sid op seq fpc second) := by
  unfold State.sendLocal
  exact .push (hs.updStrand fun _ => rfl)

theorem Keeps.remoteOp {u : FUnit} {la : BitVec 4} {pend : Pend} {port : Bool} {w : Owner} {op : State → RemoteOp} (hs : Keeps p s0 s) :
    Keeps p s0 (s.remoteOp u la pend port w op) := by
  unfold State.remoteOp
  exact Keeps.fault.ite (Keeps.hold.ite hs.asEffect.launchVar.sendRemote)

theorem Keeps.lateFault {u : FUnit} {la : BitVec 4} {a : Reg80} {cause : Nat} (hs : Keeps p s0 s) : Keeps p s0 (s.lateFault u la a cause) := by
  unfold State.lateFault
  exact .push (.launchVar (hs.asWaiting.ite hs))

theorem Keeps.branchTo {a : BitVec 64} (hs : Keeps p s0 s) : Keeps p s0 (s.branchTo a) := hs.updMe rfl

theorem Keeps.writeVt {r : Reg} (hs : Keeps p s0 s) : Keeps p s0 (writeVt r s) := hs.write.ite .fault

theorem Keeps.askFill {ck line : Nat} (hs : Keeps p s0 s) : Keeps p s0 (s.askFill ck line) := hs.ite hs.push

/-! ### Stores of the open chunk -/

theorem Keeps.noteWrite {sid : Nat} {w : SbWrite} (hs : Keeps p s0 s) : Keeps p s0 (s.noteWrite sid w) := by
  unfold State.noteWrite
  refine .foldl (hs.updStrand fun _ => rfl) fun hs => .ite ?_ ?_
  · dsimp only
    exact .updStrand (.updStrand hs fun _ => rfl) fun _ => rfl
  · exact .updStrand (.updStrand hs fun _ => rfl) fun _ => rfl

theorem Keeps.writePieces {ps : List (Nat × Nat)} {data : List Byte} {mark : Bool} (hs : Keeps p s0 s) :
    Keeps p s0 (s.writePieces ps data mark) := by
  induction ps generalizing s data with
  | nil => exact hs
  | cons a r ih => exact ih hs.noteWrite

theorem Keeps.farStore {u : FUnit} {la : BitVec 4} {n : Nat} {data : List Byte} {mark : Bool} {acc : Machine.Acc} (hs : Keeps p s0 s) :
    Keeps p s0 (farStore s u la n data mark acc) := by
  unfold Machine.farStore
  split
  · exact hs.remoteOp
  · exact hs.remoteOp
  · exact hs

theorem Frame.loadOp {u : FUnit} {la : BitVec 4} {a : Reg80} {n : Nat} {kind : LoadKind} {acc : Machine.Acc} (f : Frame p s0 s) (hc : p.calm) :
    Keeps p s0 (loadOp s u la a n kind acc) := by
  unfold Machine.loadOp
  dsimp only
  split
  · exact (f.readPieces hc).keeps.launchVar.push
  · exact f.keeps.lateFault
  · exact (f.senseRepl hc).keeps.asEffect.launchVar.push
  · exact f.keeps.remoteOp
  · exact .faultAddr

/-! ### The array -/

theorem Keeps.close (hs : Keeps p s0 s) : Keeps p s0 s.close := hs.updMe rfl

theorem Keeps.defer {d : Deferred} (hs : Keeps p s0 s) : Keeps p s0 (s.defer d) := hs.updMe rfl

theorem Keeps.countDown (hs : Keeps p s0 s) : Keeps p s0 s.countDown := by
  unfold State.countDown
  exact hs.ite hs.write.updData

theorem Keeps.deferStrand {dp : Nat} {r : Reg} (hs : Keeps p s0 s) : Keeps p s0 (s.deferStrand dp r) := by
  unfold State.deferStrand
  exact (Keeps.updMe hs.defer (by rfl)).close

/-! ### Queues and barriers -/

theorem Frame.putQueue {ck qual idx : Nat} {x : Queue} (f : Frame p s0 s) : Frame p s0 (s.putQueue ck qual idx x) := f.updCore.ite f.updRegion

theorem Frame.pokeWaiters {x : Queue} (f : Frame p s0 s) : Frame p s0 (s.pokeWaiters x) := by
  unfold State.pokeWaiters
  refine f.foldl fun f => ?_
  split
  · exact f.pushOnce
  · exact f

theorem Frame.pokePool {gk : Nat} (f : Frame p s0 s) : Frame p s0 (s.pokePool gk) := f.foldl fun f => f.pokeWaiters

theorem Frame.qPush {ck qual idx : Nat} {e : QElem} (f : Frame p s0 s) : Frame p s0 (s.qPush ck qual idx e).2 := by
  unfold State.qPush
  split
  · exact f
  · split
    · exact f.putQueue.pokeWaiters
    · split
      · exact f
      · exact f.putQueue.pokeWaiters

theorem Frame.pushAt {ck qual idx : Nat} {v : BitVec 64} {mark : Bool} (f : Frame p s0 s) : Frame p s0 (s.pushAt ck qual idx v mark).2 := f.qPush

theorem Frame.qPop {ck qual idx : Nat} {take user : Bool} (f : Frame p s0 s) : Frame p s0 (s.qPop ck qual idx take user).2.2 := by
  unfold State.qPop
  split
  · exact f
  · split
    · exact f
    · split
      · exact f
      · split
        · exact f.putQueue.pokeWaiters.pokePool
        · exact f

theorem Frame.recordFreed {ck : Nat} (f : Frame p s0 s) : Frame p s0 (s.recordFreed ck) := f.pushOnce.ite f

theorem Frame.lapse {ck : Nat} {claimed : Option Nat} (f : Frame p s0 s) : Frame p s0 (s.lapse ck claimed) := by
  unfold State.lapse
  split
  · exact f
  · exact f.updCore.recordFreed

theorem Frame.lapseFor {ck : Nat} {claim : Option Nat} {r : Reply} (f : Frame p s0 s) : Frame p s0 (s.lapseFor ck claim r) := f.ite f.lapse

theorem Frame.pokeMonitor {sid : Nat} (f : Frame p s0 s) : Frame p s0 (s.pokeMonitor sid) := by
  unfold State.pokeMonitor
  split
  · exact f.pushOnce
  · exact f

theorem Frame.rqPush {ck i prio : Nat} (f : Frame p s0 s) : Frame p s0 (s.rqPush ck i prio) := f.updCore.pokeMonitor

theorem Frame.pokeBarrier {ck i : Nat} (f : Frame p s0 s) : Frame p s0 (s.pokeBarrier ck i) := by
  unfold State.pokeBarrier
  refine f.foldl fun f => ?_
  split
  · exact f.pushOnce
  · exact f

theorem Frame.putBarrier {ck i : Nat} {b : Barrier} (f : Frame p s0 s) : Frame p s0 (s.putBarrier ck i b) := f.updCore.pokeBarrier

theorem Frame.countBarrier {ck i a n : Nat} (f : Frame p s0 s) : Frame p s0 (s.countBarrier ck i a n) := by
  unfold State.countBarrier
  exact f.updCore.ite f.putBarrier

theorem Keeps.sqLocal {la : BitVec 4} {port : Bool} {ws : List Wr} (hs : Keeps p s0 s) (hl : ∀ l ∈ sqLatches, l ∈ p.latches) :
    Keeps p s0 (s.sqLocal la port ws) :=
  (hs.asEffect.launchVar.consumeAll hl).push

theorem Keeps.syLocal {la : BitVec 4} {port : Bool} {ws : List Wr} (hs : Keeps p s0 s) (hl : ∀ l ∈ syLatches, l ∈ p.latches) :
    Keeps p s0 (s.syLocal la port ws) :=
  (hs.asEffect.launchVar.consumeAll hl).push

theorem Keeps.srLocal {la : BitVec 4} (hs : Keeps p s0 s) : Keeps p s0 (s.srLocal la) := hs.launchVar.push

theorem Keeps.floorToAll {pid tok floor : Nat} (hs : Keeps p s0 s) : Keeps p s0 (s.floorToAll pid tok floor) := by
  unfold State.floorToAll
  exact hs.foldl fun hs => hs.push

theorem Keeps.invalidate {off : Option Nat} (hs : Keeps p s0 s) : Keeps p s0 (s.invalidate off) := by
  unfold State.invalidate
  exact .foldl (hs.updMe rfl) fun hs => hs.push

theorem Keeps.setRedpin {ck : Nat} {w : BitVec 64} (hs : Keeps p s0 s) : Keeps p s0 (s.setRedpin ck w) := by
  unfold State.setRedpin
  exact .ite (.pushOnce (hs.updCore.ite (Keeps.updStrand hs.updCore fun _ => rfl))) (.ite (Keeps.updStrand hs.updCore fun _ => rfl) hs.updCore)

theorem keptOf_stepped (x : Strand) (kind : BitVec 4) (v : BitVec 32) : keptOf (x.stepped kind v) = keptOf x := by
  unfold Strand.stepped
  split <;> rfl

theorem Keeps.acceptPush {a : CeArgs} {runs : List CeRun} {ts : List Nat} (hs : Keeps p s0 s) (e : s.acceptPush a runs ts = some t) :
    Keeps p s0 t := by
  unfold State.acceptPush at e
  extract_lets c x rs at e
  split at e
  · cases e
  · cases e
    exact .pushOnce (Keeps.updMe hs.updCore (keptOf_stepped ..))

end

end Sys2Proof.WordFrames
end

section
/-! PROOFS. What a write that takes its place at issue leaves alone (O57). -/

namespace Sys2Proof.WordFrames

open Sys2Proof.Machine Sys2Proof.Claims Sys2Proof.Laws

section
variable {p q : Permit} {s0 s t u : State} {α β : Type}

/-- Of two words' frames one after the other. -/
theorem Frame.trans (f : Frame p s0 s) (g : Frame q s t) (hm : p.memory t.mem) (hl : ∀ l ∈ q.latches, l ∈ p.latches) (hc : p.calm → q.calm)
    (ha : p.alone → q.alone) : Frame p s0 t :=
  ⟨g.cur.trans f.cur, g.task.trans f.task, fun h => g.issuing (f.issuing h), hm, fun h => g.calm (hc h),
    fun h sid hs => (g.others (ha h) sid (f.cur ▸ hs)).trans (f.others h sid hs),
    ⟨g.own.regs.trans f.own.regs, fun l h => (g.own.latch l fun k => h (hl l k)).trans (f.own.latch l h)⟩⟩

/-- Of every strand the context, the task and the mark of its effect decide the frame. -/
theorem Frame.strands (f : Frame p s0 s) (hs : ∀ sid, recordOf (t.strand sid) = recordOf (s.strand sid))
    (h : (t.cur, t.mem, t.units, t.channels) = (s.cur, s.mem, s.units, s.channels)) : Frame p s0 t := by
  simp only [recordOf, Prod.mk.injEq, forall_and] at hs h
  obtain ⟨hc, ht, hi⟩ := hs
  obtain ⟨hcur, hmem, hu, hch⟩ := h
  have hmt : t.me.task = s.me.task := (ht _).trans (congrArg (fun n => (s.strand n).task) hcur)
  have hmi : t.me.effIssue = s.me.effIssue := (hi _).trans (congrArg (fun n => (s.strand n).effIssue) hcur)
  have hmc : t.ctx = s.ctx := (hc _).trans (congrArg (fun n => (s.strand n).ctx) hcur)
  refine ⟨hcur.trans f.cur, hmt.trans f.task, fun h => hmi.trans (f.issuing h), hmem ▸ f.memory, fun h => ?_, fun h sid hs => ?_, hmc ▸ f.own⟩
  · obtain ⟨hf, hup⟩ := f.calm h
    exact ⟨fun u => (congrArg (fun m => (Store.getD m u SramUnit.reset).flips) hu).trans (hf u),
      fun c => (congrArg (fun m => (Store.getD m c Channel.reset).upsets) hch).trans (hup c)⟩
  · exact (hc sid).trans (f.others h sid hs)

/-! ### The writers of the marks beside memory -/

theorem setChannel_channel (s : State) (c d : Nat) (x : Channel) : (s.setChannel c x).channel d = if d = c then x else s.channel d := by
  split
  · subst d
    exact congrArg (Option.getD · _) (find_put_self _ _ _)
  · exact congrArg (Option.getD · _) (find_put_other _ _ _ _ ‹_›)

/-- A rim channel's record in which no upset is entered. -/
theorem Frame.updChannel {c : Nat} {g : Channel → Channel} (f : Frame p s0 s) (hg : ∀ x, x.upsets = [] → (g x).upsets = []) :
    Frame p s0 (s.updChannel c g) := by
  refine ⟨f.cur, f.task, f.issuing, f.memory, fun h => ?_, f.others, f.own⟩
  obtain ⟨hf, hup⟩ := f.calm h
  refine ⟨hf, fun d => ?_⟩
  rw [State.updChannel, setChannel_channel]
  split
  · exact hg _ (hup _)
  · exact hup _

theorem Frame.updData {gk : Nat} {g : GroupData → GroupData} (f : Frame p s0 s) : Frame p s0 (s.updData gk g) := f.updGroup

theorem Frame.updOwner {w : Owner} {g : OwnerData → OwnerData} (f : Frame p s0 s) : Frame p s0 (s.updOwner w g) := by
  unfold State.updOwner
  split
  · exact f.updData
  · exact f.updChannel fun _ h => h
  · exact f

theorem Frame.askBoundary {ck : Nat} (f : Frame p s0 s) : Frame p s0 (s.askBoundary ck) := f.updCore.pushOnce

theorem Frame.noteChanged {line : Nat} (f : Frame p s0 s) : Frame p s0 (s.noteChanged line) := .ite (f.updCore.askBoundary.ite f.updCore) f

theorem find_mapAll (m : Store α) (g : Nat → α → α) (k : Nat) : (m.mapAll g).find k = (m.find k).map (g k) := by
  induction m with
  | nil => rfl
  | cons c r ih =>
    simp only [Store.mapAll, List.map_cons, Store.find] at ih ⊢
    split
    · subst k
      rfl
    · split
      · rfl
      · exact ih

/-- Firing its monitors changes nothing of a strand that the frame speaks of. -/
theorem fireMonitors_strand {w : Option Nat} {line : Nat} {φ : Strand → α} (hf : ∀ x, φ (x.fireMon line) = φ x) (sid : Nat) :
    φ ((s.fireMonitors w line).strand sid) = φ (s.strand sid) := by
  have hx (x : Strand) : φ (if w = some sid then x else if x.watches line then x.fireMon line else x) = φ x := by
    split
    · rfl
    · split
      · exact hf x
      · rfl
  unfold State.strand Store.getD State.fireMonitors
  rw [find_mapAll]
  cases s.strands.find sid with
  | none => rfl
  | some x => exact hx x

theorem Frame.fireMonitors {w : Option Nat} {line : Nat} (f : Frame p s0 s) : Frame p s0 (s.fireMonitors w line) :=
  f.strands (fireMonitors_strand fun _ => rfl) rfl

theorem Frame.wakeMonitors (f : Frame p s0 s) : Frame p s0 s.wakeMonitors := f.foldl fun f => f.pokeMonitor.ite f

theorem Frame.recordLines {by_ : Option Nat} {ls : List Nat} (f : Frame p s0 s) : Frame p s0 (s.recordLines by_ ls) := f.foldl fun f => f.updOwner

/-! ### Squashes of other strands -/

theorem wake_eq (x : Strand) : ∃ st recorded frozenFrom, x.wake = { x with st := st, recorded := recorded, frozenFrom := frozenFrom } := by
  unfold Strand.wake
  split
  · split
    · exact ⟨_, _, _, rfl⟩
    · exact ⟨_, _, _, rfl⟩
  · split
    · exact ⟨_, _, _, rfl⟩
    · split
      · exact ⟨_, _, _, rfl⟩
      · exact ⟨_, _, _, rfl⟩
  · split
    · exact ⟨_, _, _, rfl⟩
    · exact ⟨_, _, _, rfl⟩

theorem recordOf_wake (x : Strand) : recordOf x.wake = recordOf x := by
  obtain ⟨_, _, _, h⟩ := wake_eq x
  rw [h]
  rfl

theorem Frame.wake {sid : Nat} (f : Frame p s0 s) : Frame p s0 (s.wake sid) := f.updStrand recordOf_wake

theorem Frame.retryStrand {sid : Nat} (f : Frame p s0 s) : Frame p s0 (s.retryStrand sid) := by
  unfold State.retryStrand
  split
  · exact f.pushOnce
  · exact f.pushOnce
  · exact f.pushOnce
  · exact f.wake.ite f

theorem Frame.retry {ck : Nat} (f : Frame p s0 s) : Frame p s0 (s.retry ck) := by
  unfold State.retry
  exact .ite (f.foldl fun f => f.retryStrand) (.pushOnce (f.foldl fun f => f.retryStrand))

theorem Frame.giveBack {sid n : Nat} (f : Frame p s0 s) : Frame p s0 (s.giveBack sid n) := f.ite f.updData

theorem Frame.unprepare {sid : Nat} {k : Chunk} (f : Frame p s0 s) : Frame p s0 (s.unprepare sid k) := by
  unfold State.unprepare
  exact f.foldl fun f => f.updOwner

section
variable {sid : Nat} (ha : ¬p.alone) (hs : sid ≠ s0.cur)
include ha hs

theorem Frame.squashConflict (f : Frame p s0 s) : Frame p s0 (s.squashConflict sid) := by
  unfold State.squashConflict
  exact (f.giveBack.updOther ha hs).wake.retry

theorem Frame.undoAwait {k : Chunk} (f : Frame p s0 s) : Frame p s0 (s.undoAwait sid k) := f.giveBack.giveBack.unprepare.updOther ha hs

theorem Frame.squashAwait (f : Frame p s0 s) : Frame p s0 (s.squashAwait sid) := by
  unfold State.squashAwait
  split
  · exact f
  · rename_i c k _
    have g {h} : Frame p s0 ((s.undoAwait sid k).updStrand sid h) := (f.undoAwait ha hs).updOther ha hs
    exact .retry (.wake (g.pushOnce.ite g))

end

/-- The check of one core's strands leaves the executing strand alone where that strand writes, or is about to take an effect's place. -/
theorem Frame.privCheck {writer : Option Nat} {line : Nat} (f : Frame p s0 s) (ha : ¬p.alone)
    (hw : writer = some s0.cur ∨ s0.me.effIssue = true) : Frame p s0 (s.privCheck writer line) := by
  refine f.ite (f.foldl fun {t sid} f => ?_)
  split
  · exact f
  · rename_i hn
    have hs : sid ≠ s0.cur := by
      rintro rfl
      obtain ⟨hn1, hn2⟩ := not_or.mp hn
      refine hw.elim hn1 fun h => hn2 ?_
      have := f.issuing h
      rwa [State.me, f.cur] at this
    exact .ite (f.squashAwait ha hs) (.ite (f.squashConflict ha hs) f)

theorem Frame.afterLines {writer : Option Nat} {ls : List Nat} (f : Frame p s0 s) (ha : ¬p.alone)
    (hw : writer = some s0.cur ∨ s0.me.effIssue = true) : Frame p s0 (s.afterLines writer ls) :=
  .wakeMonitors (f.foldl fun f => (f.noteChanged.privCheck ha hw).fireMonitors)

/-! ### The write itself -/

theorem Frame.overwrite {writer : Option Nat} {a n : Nat} (f : Frame p s0 s) (hc : p.calm) : Frame p s0 (s.overwrite writer a n) := by
  have hs := f.calm hc
  unfold State.overwrite
  split
  · rw [State.overwriteUnit, Steps.senseUnit_of_undisturbed hs.1, Steps.flippedWords_of_undisturbed hs.1]
    exact f
  · rw [rebuildRim_of_undisturbed hs]
    exact .ite (f.updChannel fun x h => by simp only [h, Store.del]) f
  · exact f

theorem Frame.overwriteAll {writer : Option Nat} {a n : Nat} (f : Frame p s0 s) (hc : p.calm) : Frame p s0 (s.overwriteAll writer a n) :=
  f.foldl fun f => f.overwrite hc

/-- What a write that takes its place leaves: its bytes in memory, and other strands perhaps squashed. -/
def written (m : List Host.Cell) (w : SbWrite) : Permit := ⟨[], (· = memWriteList m w.addr w.data), True, False⟩

theorem frame_place (hs : Undisturbed s) {writer : Option Nat} {w : SbWrite} (hw : writer = some s.cur ∨ s.me.effIssue = true) :
    Frame (written s.mem w) s (s.place writer w) := by
  have h1 : Frame ⟨[], (· = s.mem), True, False⟩ s (s.overwriteAll (writer.map ckOf) w.addr w.data.length) :=
    (Frame.refl rfl fun _ => hs).overwriteAll trivial
  have h2 : Frame (written s.mem w) s ((s.overwriteAll (writer.map ckOf) w.addr w.data.length).putBytes w) :=
    ⟨h1.cur, h1.task, h1.issuing, congrArg (memWriteList · w.addr w.data) h1.memory, h1.calm, h1.others, h1.own⟩
  unfold State.place
  exact h2.recordLines.afterLines id hw

end

end Sys2Proof.WordFrames
end

section
/-! PROOFS. What the words that write memory at issue may write: the deferred entries of a task that holds a set (O57). -/

namespace Sys2Proof.WordFrames

open Sys2Proof.Machine Sys2Proof.Claims Sys2Proof.Laws

/-- The permit of a word that writes no memory at issue. -/
def quiet (ls : List Latch) (calm : Prop) (s : State) : Permit := ⟨ls, (· = s.mem), calm, True⟩

/-- The permit of a word that writes memory at issue at the addresses `P` alone. -/
def loud (ls : List Latch) (P : Nat → Prop) (alone : Prop) (s : State) : Permit :=
  ⟨ls, fun m => Memory.wf m = true ∧ ∀ a, ¬P a → memRead m a = memRead s.mem a, True, alone⟩

/-- A word under the permit `q` goes on under `p` where it defers. -/
structure Defers (q p : Permit) (s0 : State) : Prop where
  calm : q.calm
  le : ∀ {s}, Frame q s0 s → Frame p s0 s
  gate : ∀ {s src extra ls k}, Frame q s0 s → (∀ l ∈ ls, l ∈ p.latches) → (∀ {t}, Frame q s0 t → Keeps p s0 (k t)) →
    Keeps p s0 (deferGate s src extra ls k)

section
variable {s0 s t : State} {ls : List Latch} {calm alone : Prop} {P : Nat → Prop}

theorem quiet_frame (hc : calm → Undisturbed s) : Frame (quiet ls calm s) s s := .refl rfl hc

theorem Frame.loud (f : Frame (quiet ls True s0) s0 s) (hm : Memory.wf s0.mem = true) : Frame (loud ls P alone s0) s0 s :=
  ⟨f.cur, f.task, f.issuing, ⟨f.memory.symm ▸ hm, fun _ _ => f.memory ▸ rfl⟩, f.calm, fun _ => f.others trivial, f.own⟩

theorem loud_frame (hs : Undisturbed s) (hm : Memory.wf s.mem = true) : Frame (WordFrames.loud ls P alone s) s s :=
  .refl ⟨hm, fun _ _ => rfl⟩ fun _ => hs

/-- What a word has written since a state in which it had written nothing. -/
theorem Frame.after (hm : Memory.wf s0.mem = true) (f : Frame (quiet ls True s0) s0 s) (g : Frame (WordFrames.loud ls P alone s) s t) :
    Frame (WordFrames.loud ls P alone s0) s0 t := by
  have he : s.mem = s0.mem := f.memory
  exact (f.loud hm).trans g ⟨g.memory.1, fun a h => he ▸ g.memory.2 a h⟩ (fun _ h => h) (fun _ => trivial) id

theorem Keeps.after (hm : Memory.wf s0.mem = true) (f : Frame (quiet ls True s0) s0 s) (g : Keeps (WordFrames.loud ls P alone s) s t) :
    Keeps (WordFrames.loud ls P alone s0) s0 t :=
  g.imp id (f.after hm)

/-- A write at permitted addresses takes its place: one by the strand itself, or by a word that takes an effect's place. -/
theorem Frame.place (f : Frame (WordFrames.loud ls P alone s0) s0 s) {writer : Option Nat} {w : SbWrite} (ha : ¬alone)
    (hw : writer = some s.cur ∨ s0.me.effIssue = true) (hP : ∀ a, w.addr ≤ a ∧ a < w.addr + w.data.length → P a) :
    Frame (WordFrames.loud ls P alone s0) s0 (s.place writer w) := by
  have g := frame_place (f.calm trivial) (w := w) (hw.imp id f.issuing)
  obtain ⟨hwf, hrd⟩ := f.memory
  refine f.trans g ⟨g.memory ▸ memWriteList_wf _ _ _ hwf, fun a hn => ?_⟩ (fun l h => absurd h List.not_mem_nil) (fun _ => trivial) ha
  rw [g.memory, memRead_memWriteList_other _ _ _ _ hwf]
  · exact hrd a hn
  · have := mt (hP a) hn
    omega

theorem Frame.placeNum (f : Frame (WordFrames.loud ls P alone s0) s0 s) {writer : Option Nat} {a n v : Nat} {mark : Bool} (ha : ¬alone)
    (hw : writer = some s.cur ∨ s0.me.effIssue = true) (hP : ∀ x, a ≤ x ∧ x < a + n → P x) :
    Frame (WordFrames.loud ls P alone s0) s0 (s.placeNum writer a n v mark) :=
  f.place ha hw fun x hx => hP x (by rwa [TaskWords.length_leBytes] at hx)

/-! ### What is read of memory and of the strand's own record -/

theorem load_congr (h : t.mem = s.mem) (a n : Nat) : t.load a n = s.load a n := by
  unfold State.load
  rw [h]

theorem undoAt_congr (h : t.mem = s.mem) (ck i : Nat) : t.undoAt ck i = s.undoAt ck i := by
  unfold State.undoAt
  rw [load_congr h]

theorem heldSets_congr (hm : t.mem = s.mem) (hc : t.cur = s.cur) (ht : t.me.task = s.me.task) : t.heldSets t.cur = s.heldSets s.cur := by
  have ht : (t.strand t.cur).task = (s.strand s.cur).task := ht
  unfold State.heldSets
  rw [ht, hc]
  split
  · exact load_congr hm _ _
  · rfl

theorem asIssuing_effIssue (s : State) : (Claims.asIssuing s).me.effIssue = true := by
  unfold Claims.asIssuing
  split
  · assumption
  · exact congrArg Strand.effIssue (setStrand_strand s s.cur _)

/-! ### The deferred entry -/

/-- The bytes of a deferred entry: the word, and ten bytes for each of what it needs. -/
def deferredEntry (s : State) (src : Reg) (extra : List Reg) (ls : List Latch) : List Byte :=
  leBytes 4 s.word.toNat ++ List.replicate 12 (0 : Byte) ++
    (addrBytes src.v ++ (extra.flatMap fun r => addrBytes r.v) ++ (ls.flatMap fun l => addrBytes (s.ctx.latch l).v) ++
      List.replicate 80 (0 : Byte)).take 80

theorem deferredEntry_length (s : State) (src : Reg) (extra : List Reg) (ls : List Latch) : (deferredEntry s src extra ls).length = 96 := by
  simp only [deferredEntry, List.length_append, TaskWords.length_leBytes, List.length_replicate, List.length_take]
  omega

/-- The count of deferred entries in the record of task `i` of the executing core (R299). -/
def deferCount (s : State) (i : Nat) : Nat := localFlat s.myCk (64 * i + 30)

/-- The place of the next deferred entry of task `i` (R299). -/
def deferPlace (s : State) (i : Nat) : Nat :=
  s.undoAt s.myCk i + 64 + 144 * s.load (s.undoAt s.myCk i + 4) 4 + 96 * s.load (deferCount s i) 2

theorem deferStores_iff {i : Nat} (ht : s.me.task = some i) (hh : s.heldSets s.cur ≠ 0) (a : Nat) :
    DeferStores s a ↔ (deferCount s i ≤ a ∧ a < deferCount s i + 2) ∨ (deferPlace s i ≤ a ∧ a < deferPlace s i + 96) := by
  simp only [DeferStores, ht, Option.some.injEq, exists_eq_left', ne_eq, hh, not_false_eq_true, true_and]
  rfl

theorem deferCount_congr (hc : t.cur = s.cur) (i : Nat) : deferCount t i = deferCount s i := by
  unfold deferCount State.myCk
  rw [hc]

theorem deferPlace_congr (hm : t.mem = s.mem) (hc : t.cur = s.cur) (i : Nat) : deferPlace t i = deferPlace s i := by
  unfold deferPlace
  rw [deferCount_congr hc, load_congr hm, load_congr hm, State.myCk, hc, undoAt_congr hm]
  rfl

/-- The entry and then the count are written. -/
theorem deferred_frame {i n : Nat} {d : List Byte} {m : List Nat} (hs : Undisturbed s) (hm : Memory.wf s.mem = true)
    (hi : s.me.effIssue = true) (hP : ∀ a, (deferCount s i ≤ a ∧ a < deferCount s i + 2) ∨ (deferPlace s i ≤ a ∧ a < deferPlace s i + 96) → P a)
    (ha : ¬alone) (hd : d.length = 96) :
    Frame (WordFrames.loud ls P alone s) s
      ({ s.place none { addr := deferPlace s i, data := d, mark := false } with deferMarks := m }.placeNum none (deferCount s i) 2 n false) := by
  have g : Frame (WordFrames.loud ls P alone s) s (s.place none { addr := deferPlace s i, data := d, mark := false }) :=
    (loud_frame hs hm).place ha (.inr hi) fun a h => hP a (.inr (hd ▸ h))
  have g : Frame (WordFrames.loud ls P alone s) s { s.place none { addr := deferPlace s i, data := d, mark := false } with deferMarks := m } :=
    g.update rfl
  exact g.placeNum ha (.inr hi) fun a h => hP a (.inl h)

/-- A task that holds a set defers: only the next entry and the count of entries are written. -/
theorem Frame.deferGate {src : Reg} {extra : List Reg} {ms : List Latch} {k : State → State} (f : Frame (quiet ls True s0) s0 s)
    (hm : Memory.wf s0.mem = true) (hP : ∀ a, DeferStores s0 a → P a) (ha : alone → s0.heldSets s0.cur = 0) (hl : ∀ l ∈ ms, l ∈ ls)
    (hk : ∀ {t}, Frame (quiet ls True s0) s0 t → Keeps (WordFrames.loud ls P alone s0) s0 (k t)) :
    Keeps (WordFrames.loud ls P alone s0) s0 (deferGate s src extra ms k) := by
  unfold Machine.deferGate
  split
  · exact hk f
  · rename_i i hi
    by_cases hh : s.heldSets s.cur = 0
    · rw [if_pos hh]
      exact hk f
    rw [if_neg hh]
    have hh : s0.heldSets s0.cur ≠ 0 := heldSets_congr f.memory f.cur f.task ▸ hh
    refine (passes_effectGate s).keeps fun t ht => ?_
    subst ht
    refine Keeps.faultAddr.ite (Keeps.consumeAll (.inr ?_) hl)
    have g := f.asIssuing
    refine g.after hm (deferred_frame (g.calm trivial) (g.memory ▸ hm) (asIssuing_effIssue s) (fun a h => hP a ?_) (fun h => hh (ha h))
      (deferredEntry_length _ src extra ms))
    rwa [deferStores_iff (f.task ▸ hi) hh, ← deferCount_congr g.cur, ← deferPlace_congr g.memory g.cur]

theorem defers (hm : Memory.wf s0.mem = true) (hP : ∀ a, DeferStores s0 a → P a) (ha : alone → s0.heldSets s0.cur = 0) :
    Defers (quiet ls True s0) (loud ls P alone s0) s0 :=
  ⟨trivial, fun f => f.loud hm, fun f hl hk => f.deferGate hm hP ha hl hk⟩

end

end Sys2Proof.WordFrames
end

section
/-! PROOFS. What the scalar, the vector and the matrix words leave alone (O57). -/

namespace Sys2Proof.WordFrames

open Sys2Proof.Machine Sys2Proof.Claims Sys2Proof.Laws

section
variable {p q : Permit} {s0 s t : State} {h : Hdr} {la : BitVec 4} {u : FUnit} {lo lr l : Latch} {lat : Nat} {o r : ASrc} {c : CSrc}

/-! ### The scalar units -/

section
variable (f : Frame p s0 s)
include f

theorem Frame.moveC {w : Reg → Wr} (hc : p.calm ∨ ∀ j, c ≠ .q j) : Keeps p s0 (guarded h s fun s => Machine.readC s c fun r s => s.write (w r)) :=
  f.keeps.guarded ((f.readC hc).keeps₁ fun _ _ f => (Frame.keeps f).write)

theorem Frame.movePw (hc : p.calm ∨ ∀ j, c ≠ .q j) : Keeps p s0 (guarded h s fun s => Machine.readC s c fun r s =>
    (s.launch .mv 1 true .none 0 0 (.pw (r.val.setWidth 32) :: if r.p then [.pe s.ctx.pc (Config.freeLatch s.fresh)] else [])).bump) :=
  f.keeps.guarded ((f.readC hc).keeps₁ fun _ _ f => (Frame.keeps f).launch.bump)

theorem Frame.moveVt (hc : p.calm ∨ ∀ j, c ≠ .q j) : Keeps p s0 (guarded h s fun s => Machine.readC s c writeVt) :=
  f.keeps.guarded ((f.readC hc).keeps₁ fun _ _ f => (Frame.keeps f).writeVt)

theorem Frame.trigA {g : Reg → Reg → Reg} (hl : lo ∈ p.latches) (ho : p.calm ∨ ∀ j, o ≠ .q j) (hr : p.calm ∨ ∀ j, r ≠ .q j) :
    Keeps p s0 (trigA u lo lr lat h o r g s) :=
  f.keeps.guarded ((f.readA ho).keeps₁ fun _ _ f => (Frame.readA f hr).keeps₁ fun _ _ f => (Keeps.consume (Frame.keeps f) hl).trigger)

theorem Frame.trigC {g : Reg → Reg → Reg} (hl : lo ∈ p.latches) (hc : p.calm ∨ ∀ j, c ≠ .q j) : Keeps p s0 (trigC u lo lr lat h c g s) :=
  f.keeps.guarded ((f.readC hc).keeps₁ fun _ _ f => (Keeps.consume (Frame.keeps f) hl).trigger)

theorem Frame.trigA1 {g : Reg → Reg} (hl : lo ∈ p.latches) (ho : p.calm ∨ ∀ j, o ≠ .q j) : Keeps p s0 (trigA1 u lo lr lat h o g s) :=
  f.keeps.guarded ((f.readA ho).keeps₁ fun _ _ f => (Keeps.consume (Frame.keeps f) hl).trigger)

theorem Frame.trigC1 {g : Reg → Reg} (hl : lo ∈ p.latches) : Keeps p s0 (trigC1 u lo lr lat h g s) :=
  f.keeps.guarded (f.keeps.consume hl).trigger

theorem Frame.cmpA {d : Fin 8} {g : BitVec 64 → BitVec 64 → Bool} (hl : lo ∈ p.latches) (ho : p.calm ∨ ∀ j, o ≠ .q j)
    (hr : p.calm ∨ ∀ j, r ≠ .q j) : Keeps p s0 (cmpA u lo lr lat h d o r g s) :=
  f.keeps.guarded ((f.readA ho).keeps₁ fun _ _ f => (Frame.readA f hr).keeps₁ fun _ _ f => (Keeps.consume (Frame.keeps f) hl).trigger.bump)

theorem Frame.predOp {d : Fin 8} {b : Ctx → Bool} (hl : .iaO ∈ p.latches) : Keeps p s0 (predOp h d b s) :=
  f.keeps.guarded (f.keeps.consume hl).trigger

theorem Frame.mulaccOp {a b : Reg} (hl : .ibO ∈ p.latches) : Keeps p s0 (mulaccOp a b s) := (f.keeps.consume hl).trigger

theorem Frame.faLand {quiet : Bool} {x : FR} {m : Bool} (hl : .faO ∈ p.latches) : Keeps p s0 (faLand lat quiet x m s) :=
  (f.keeps.consume hl).trigger

theorem Frame.fmaOp {quiet : Bool} {a b : Reg} (hl : .faO ∈ p.latches) : Keeps p s0 (fmaOp quiet a b s) :=
  (f.drawSr.keeps.consume hl).trigger

theorem Frame.cvtOp {quiet : Bool} {g : Nat → BitVec 64 → BitVec 64 → FR} {a b : Reg} (hl : .faO ∈ p.latches) :
    Keeps p s0 (cvtOp quiet g a b s) := by
  unfold Machine.cvtOp
  refine Frame.faLand ?_ hl
  split
  · exact f.bump
  · split
    · exact f.drawSr
    · exact f

theorem Frame.sclOp {quiet : Bool} {a b : Reg} (hl : .faO ∈ p.latches) : Keeps p s0 (sclOp quiet a b s) := (f.faLand hl).ite .fault

theorem Frame.faA {g : Nat → Nat → BitVec 64 → BitVec 64 → FR} (hl : .faO ∈ p.latches) (ho : p.calm ∨ ∀ j, o ≠ .q j)
    (hr : p.calm ∨ ∀ j, r ≠ .q j) : Keeps p s0 (faA lat h o r g s) :=
  f.keeps.guarded ((f.readA ho).keeps₁ fun _ _ f => (Frame.readA f hr).keeps₁ fun _ _ f => (Frame.drawSr f).faLand hl)

theorem Frame.faC {g : Nat → Nat → BitVec 64 → BitVec 64 → FR} (hl : .faO ∈ p.latches) (hc : p.calm ∨ ∀ j, c ≠ .q j) :
    Keeps p s0 (faC lat h c g s) :=
  f.keeps.guarded ((f.readC hc).keeps₁ fun _ _ f => (Frame.drawSr f).faLand hl)

theorem Frame.faA1 {g : Nat → Nat → BitVec 64 → FR} (hl : .faO ∈ p.latches) (ho : p.calm ∨ ∀ j, o ≠ .q j) : Keeps p s0 (faA1 lat h o g s) :=
  f.keeps.guarded ((f.readA ho).keeps₁ fun _ _ f => (Frame.drawSr f).faLand hl)

theorem Frame.faC1 {g : Nat → Nat → BitVec 64 → FR} (hl : .faO ∈ p.latches) : Keeps p s0 (faC1 lat h g s) :=
  f.keeps.guarded (f.drawSr.faLand hl)

/-- An A-word whose operation runs on its two operands. -/
theorem Frame.opA {g : Reg → Reg → State → State} (ho : p.calm ∨ ∀ j, o ≠ .q j) (hr : p.calm ∨ ∀ j, r ≠ .q j)
    (hg : ∀ {a b t}, Frame p s0 t → Keeps p s0 (g a b t)) : Keeps p s0 (guarded h s fun s => Machine.readA s o fun a s => Machine.readA s r fun b s => g a b s) :=
  f.keeps.guarded ((f.readA ho).keeps₁ fun _ _ f => (Frame.readA f hr).keeps₁ fun _ _ f => hg f)

/-- A C-word whose operation runs on its source. -/
theorem Frame.opC {g : Reg → State → State} (hc : p.calm ∨ ∀ j, c ≠ .q j) (hg : ∀ {b t}, Frame p s0 t → Keeps p s0 (g b t)) :
    Keeps p s0 (guarded h s fun s => Machine.readC s c g) :=
  f.keeps.guarded ((f.readC hc).keeps₁ fun _ _ f => hg f)

/-! ### The vector unit -/

theorem Frame.vecTrigger {op : VOp} {d : Fin 8} {a b : VArg} {x : Prefix} {quart : Nat} : Keeps p s0 (vecTrigger op d a b x quart s) := by
  unfold Machine.vecTrigger
  exact .trigger (Frame.keeps (f.updCtx rfl))

theorem Frame.vecOp {op : VOp} {d src : Fin 8} {ops : State → (VArg → VArg → State → State) → State} {quart : Nat} {check : VArg → Bool}
    (hops : Passes (ops s) (At₂ (Reaches₂ p s0))) : Keeps p s0 (vecOp op h d src ops quart check s) := by
  unfold Machine.vecOp
  refine Keeps.faultWord.ite (f.keeps.guarded (Keeps.fault.ite (hops.keeps₂ fun _ _ _ f => ?_)))
  exact Keeps.fault.ite ((Frame.poolGate f).keeps fun _ f => Frame.vecTrigger f)

theorem Frame.two (hc : p.calm) : Passes (two o r s) (At₂ (Reaches₂ p s0)) :=
  (f.readV hc).bind₁ fun _ _ f => (Frame.readV f hc).bind₁ fun _ _ f => .at₂ (fun _ => rfl) f

theorem Frame.one (hc : p.calm) : Passes (one o s) (At₂ (Reaches₂ p s0)) :=
  (f.readV hc).bind₁ fun _ _ f => .at₂ (fun _ => rfl) f

theorem Frame.vecScal (hc : p.calm) : Passes (vecScal o r s) (At₂ (Reaches₂ p s0)) :=
  (f.readV hc).bind₁ fun _ _ f => (Frame.readA f (.inl hc)).bind₁ fun _ _ f => .at₂ (fun _ => rfl) f

theorem Frame.scals (hc : p.calm) : Passes (scals o r s) (At₂ (Reaches₂ p s0)) :=
  (f.readA (.inl hc)).bind₁ fun _ _ f => (Frame.readA f (.inl hc)).bind₁ fun _ _ f => .at₂ (fun _ => rfl) f

theorem Frame.reg1 {v : Fin 8} : Passes (reg1 v s) (At₂ (Reaches₂ p s0)) := .at₂ (fun _ => rfl) f

theorem Frame.msk1 {v : Fin 4} : Passes (msk1 v s) (At₂ (Reaches₂ p s0)) := .at₂ (fun _ => rfl) f

theorem Frame.group1 {v : Fin 8} : Passes (group1 v s) (At₂ (Reaches₂ p s0)) := .at₂ (fun _ => rfl) f

theorem Frame.regScal {v : Fin 8} (hc : p.calm) : Passes (regScal v r s) (At₂ (Reaches₂ p s0)) :=
  (f.readA (.inl hc)).bind₁ fun _ _ f => .at₂ (fun _ => rfl) f

theorem Frame.loadElems {n : Fin 8} {idx : Bool} (hc : p.calm) : Keeps p s0 (loadElems h la n c idx s) :=
  f.keeps.guarded ((f.readC (.inl hc)).keeps₁ fun _ _ f => (Frame.typed f).keeps fun _ f => (Frame.accessElems f).keeps₁ fun _ _ f =>
    (Frame.poolGate f).keeps fun _ f => Frame.loadOp f hc)

theorem Frame.vld {n : Fin 8} (hc : p.calm) : Keeps p s0 (guarded h s fun s => Machine.readC s c fun a s => Machine.access s a 512 128 false false fun acc s =>
    Machine.poolGate s [n] fun s => Machine.loadOp s .vm la a.v 512 (.vec n) acc) :=
  f.keeps.guarded ((f.readC (.inl hc)).keeps₁ fun _ _ f => (Frame.access f).keeps₁ fun _ _ f => (Frame.poolGate f).keeps fun _ f => Frame.loadOp f hc)

theorem Frame.kld {n : Fin 4} (hc : p.calm) : Keeps p s0 (guarded h s fun s => Machine.readC s c fun a s => Machine.access s a 128 128 false false fun acc s =>
    Machine.loadOp s .vm la a.v 128 (.mask n) acc) :=
  f.keeps.guarded ((f.readC (.inl hc)).keeps₁ fun _ _ f => (Frame.access f).keeps₁ fun _ _ f => Frame.loadOp f hc)

/-! ### The matrix unit -/

section
variable (hl : ∀ l ∈ [Latch.mxA, .mxB], l ∈ p.latches) (hc : p.calm)

omit f in
theorem Keeps.consumeMx (hl : ∀ l ∈ [Latch.mxA, .mxB], l ∈ p.latches) (hs : Keeps p s0 s) : Keeps p s0 s.consumeMx := hs.consumeAll hl

omit f in
theorem Keeps.sendMx {x : MxCmd} (hl : ∀ l ∈ [Latch.mxA, .mxB], l ∈ p.latches) (hs : Keeps p s0 s) : Keeps p s0 (s.sendMx la x) := by
  unfold State.sendMx
  exact (hs.consumeMx hl).launchVar.defer.countDown.close

include hl

theorem Frame.mxFree : Keeps p s0 (guarded h s fun s => Machine.needLease s fun s => (s.consumeMx.defer .free).close) :=
  f.keeps.guarded (f.needLease.keeps fun _ f => ((Frame.keeps f).consumeMx hl).defer.close)

include hc

theorem Frame.mxLoadAcc {b : Bool} {x : Fin 6} {a : Reg80} {acc : Machine.Acc} : Keeps p s0 (mxLoadAcc la b x a acc s) := by
  unfold Machine.mxLoadAcc
  dsimp only
  split
  · exact ((f.readPieces hc).keeps.consumeMx hl).launchVar.defer.push.countDown.close
  · exact (f.keeps.consumeMx hl).lateFault.countDown.close
  · exact ((f.senseRepl hc).keeps.asEffect.consumeMx hl).launchVar.defer.push.countDown.close
  · exact (f.keeps.consumeMx hl).remoteOp.countDown.close
  · exact .fault

theorem Frame.mxLoad {b : Bool} {x : Fin 6} : Keeps p s0 (mxLoad h la b x c s) := by
  refine f.keeps.guarded ((f.readC (.inl hc)).keeps₁ fun a _ f => (Frame.needLease f).keeps fun t f => ?_)
  exact Keeps.faultPoison.ite (Keeps.fault.ite (Keeps.faultAddr.ite ((Frame.accessElems f).keeps₁ fun _ _ f => Frame.mxLoadAcc f hl hc)))

theorem Frame.mxProduct {i : Fin 12} : Keeps p s0 (mxProduct h la i c s) :=
  f.keeps.guarded ((f.readC (.inl hc)).keeps₁ fun _ _ f => (Frame.needLease f).keeps fun _ f => Keeps.fault.ite ((Frame.keeps f).sendMx hl))

theorem Frame.mxSlot {g : Fin 16 → MxCmd} {port : Bool} : Keeps p s0 (mxSlot h la c g port s) := by
  refine f.keeps.guarded ((f.readC (.inl hc)).keeps₁ fun r _ f => (Frame.needLease f).keeps fun t f => Keeps.fault.ite ?_)
  exact .ite ((Frame.windowGate f).keeps fun _ f => ((Frame.keeps f).consumeMx hl).launchVar.defer.countDown.close)
    ((Frame.keeps f).consumeMx hl).launchVar.defer.countDown.close

theorem execMxLease_keeps : ∃ t, execMxLease h la c s = .next t ∧ Keeps p s0 t := by
  refine ⟨_, rfl, f.keeps.guarded ((f.readC (.inl hc)).keeps₁ fun r t f => Keeps.fault.ite ((Frame.windowGate f).keeps fun _ f => ?_))⟩
  exact ((Frame.keeps f).consumeMx hl).launchVar.defer.write.close

theorem execMxDrain_keeps : ∃ t, execMxDrain h la c s = .next t ∧ Keeps p s0 t := by
  refine ⟨_, rfl, f.keeps.guarded ((f.readC (.inl hc)).keeps₁ fun r t f => (Frame.needLease f).keeps fun t f => ?_)⟩
  refine Keeps.fault.ite (Keeps.faultPoison.ite (Keeps.faultAddr.ite ?_))
  dsimp only
  split
  · exact .faultAddr
  · refine (Frame.effectGate f).keeps fun _ f => (Frame.windowGate f).keeps fun _ f => Keeps.hold.ite ?_
    exact ((Frame.keeps f).updCore.asEffect.consumeMx hl).launchVar.defer.countDown.close

theorem execMxDrainv_keeps : ∃ t, execMxDrainv h la c s = .next t ∧ Keeps p s0 t := by
  refine ⟨_, rfl, f.keeps.guarded ((f.readC (.inl hc)).keeps₁ fun r t f => (Frame.needLease f).keeps fun t f => ?_)⟩
  refine Keeps.fault.ite ((Frame.poolGate f).keeps fun _ f => ?_)
  exact .pushOnce (.updMe (((Frame.keeps f).consumeMx hl).launchVar.countDown.updGroup) rfl)

theorem execMxInject_keeps : ∃ t, execMxInject h la c s = .next t ∧ Keeps p s0 t :=
  ⟨_, rfl, f.keeps.guarded (f.needKernel.keeps fun _ f => .ite ((Frame.needLease f).keeps fun _ _ => .fault) (Frame.mxSlot f hl hc))⟩

end

end

end

end Sys2Proof.WordFrames
end

section
/-! PROOFS. What the words of the other units leave alone, where they write no memory but a deferred entry (O57). -/

namespace Sys2Proof.WordFrames

open Sys2Proof.Machine Sys2Proof.Claims Sys2Proof.Laws

section
variable {p q : Permit} {s0 s t : State} {h : Hdr} {la : BitVec 4} {c : CSrc}

/-! ### Loads, streams and system registers -/

section
variable (f : Frame p s0 s) (hc : p.calm)
include f hc

theorem Frame.sysLoad {op : Fin 8} {lane : Fin 4} {a : Reg80} {qq off : Nat} : Keeps p s0 (sysLoad s la op lane a qq off) := by
  unfold Machine.sysLoad
  split
  · exact .faultAddr
  · exact ((f.senseSys hc).bump).keeps.launchVar.push

theorem Frame.loadScalar {op : Fin 8} {lane : Fin 4} : Keeps p s0 (loadScalar h la op lane c s) := by
  unfold Machine.loadScalar
  refine f.keeps.guarded ((f.readC (.inl hc)).keeps₁ fun _ _ f => (Frame.windowGate f).keeps fun _ f => (Frame.access f).keeps₁ fun acc t f => ?_)
  split
  · exact Frame.sysLoad f hc
  · exact Frame.loadOp f hc

theorem execLsPf_keeps : ∃ t, execLsPf h c s = .next t ∧ Keeps p s0 t :=
  ⟨_, rfl, f.keeps.guarded ((f.readC (.inl hc)).keeps₁ fun _ _ f => (Frame.translate f).keeps.ite (Frame.keeps f))⟩

omit hc in
theorem Frame.bindStream {j : Fin 8} {a : Reg80} {d : List Byte} {mark : Bool} : Keeps p s0 (bindStream s j a d mark) := by
  unfold Machine.bindStream
  refine Keeps.fault.ite ?_
  split
  · exact .fault
  · exact .pushOnce (.updMe (.updCtx (f.setPe.ite f).keeps rfl) rfl)

theorem execQsBind_keeps {j : Fin 8} : ∃ t, execQsBind h j c s = .next t ∧ Keeps p s0 t := by
  refine ⟨_, rfl, f.keeps.guarded ((f.readC (.inl hc)).keeps₁ fun _ _ f => (Frame.accessWith f).keeps₁ fun acc t f => ?_)⟩
  split
  · exact (Frame.readPieces f hc).bindStream
  · exact .faultAddr
  · exact (Frame.senseRepl f hc).bindStream
  · split
    · exact .ite (Frame.updMe f (by rfl)).bindStream (.of_held (askElem_held ..))
    · exact .of_held (askElem_held ..)
  · exact .faultAddr

omit hc in
theorem execQsUnbind_keeps {j : Fin 8} : ∃ t, execQsUnbind h j s = .next t ∧ Keeps p s0 t :=
  ⟨_, rfl, f.keeps.guarded (Frame.updMe (f.updCtx (by rfl)) (by rfl)).keeps⟩

omit f hc in
theorem Keeps.writeSr {r : Fin 21} {ok : Bool} {w : BitVec 64} (hs : Keeps p s0 s) : Keeps p s0 (s.writeSr r ok w) := .limited hs.write

theorem execSrWrite_keeps {r : Fin 21} : ∃ t, execSrWrite h r c s = .next t ∧ Keeps p s0 t := by
  refine ⟨_, rfl, f.keeps.guarded (f.srGate.keeps fun _ f => (Frame.readC f (.inl hc)).keeps₁ fun a t f => ?_)⟩
  have hs : Keeps p s0 t := Frame.keeps f
  dsimp only
  split
  · exact hs.writeSr
  · exact hs.writeSr
  · exact hs.writeSr
  · exact hs.writeSr
  · exact hs.writeSr
  · exact hs.writeSr
  · exact .limited hs.updCore
  · exact .limited hs.updCore
  · exact hs.writeSr
  · exact hs.writeSr
  · exact .limited hs.updCore
  · exact .fault

theorem execWriteAlarm_keeps : ∃ t, execWriteAlarm h c s = .next t ∧ Keeps p s0 t :=
  ⟨_, rfl, f.keeps.guarded ((f.readC (.inl hc)).keeps₁ fun _ _ f => .limited (Frame.keeps f).write.pushOnce)⟩

theorem execWriteRedpin_keeps : ∃ t, execWriteRedpin h c s = .next t ∧ Keeps p s0 t :=
  ⟨_, rfl, f.keeps.guarded (f.needKernel.keeps fun _ f => (Frame.readC f (.inl hc)).keeps₁ fun _ _ f =>
    .limited (Keeps.fault.ite (Frame.keeps f).setRedpin))⟩

theorem execSrTlbinv_keeps : ∃ t, execSrTlbinv h la c s = .next t ∧ Keeps p s0 t :=
  ⟨_, rfl, f.keeps.guarded (f.needKernel.keeps fun _ f => (Frame.readC f (.inl hc)).keeps₁ fun _ _ f =>
    Keeps.faultPoison.ite (Keeps.faultAddr.ite (Keeps.endFirst.ite (Keeps.hold.ite (Frame.keeps f).invalidate.srLocal))))⟩

omit hc in
theorem execSrPfence_keeps : ∃ t, execSrPfence h la s = .next t ∧ Keeps p s0 t :=
  ⟨_, rfl, f.keeps.guarded (f.needKernel.keeps fun _ f => (Frame.keeps f).launchVar.push.close)⟩

/-! ### Control -/

theorem Frame.withTarget {k : BitVec 64 → State → State} (hk : ∀ {x t}, Frame p s0 t → Keeps p s0 (k x t)) : Keeps p s0 (withTarget s c k) :=
  (f.readC (.inl hc)).keeps₁ fun _ _ f => Keeps.faultPoison.ite (hk f)

theorem Frame.branchTrigger : Keeps p s0 (branchTrigger h c s) :=
  f.keeps.guarded (f.withTarget hc fun f => (Frame.keeps f).branchTo)

theorem Frame.callTrigger : Keeps p s0 (callTrigger h c s) :=
  f.keeps.guarded (f.withTarget hc fun f => (Frame.keeps f).write.branchTo)

omit hc in
theorem execCtRet_keeps : ∃ t, execCtRet h s = .next t ∧ Keeps p s0 t :=
  ⟨_, rfl, f.keeps.guarded (Keeps.faultPoison.ite (Keeps.faultAddr.ite f.keeps.branchTo))⟩

theorem execCtJmp_keeps : ∃ t, execCtJmp h c s = .next t ∧ Keeps p s0 t :=
  ⟨_, rfl, f.keeps.guarded ((f.readC (.inl hc)).keeps₁ fun _ _ f => Keeps.faultPoison.ite (Frame.keeps f).branchTo)⟩

theorem Frame.readHint {k : Reg → State → State} (hk : ∀ {x t}, Frame p s0 t → Keeps p s0 (k x t)) : Keeps p s0 (readHint s c k) := by
  unfold Machine.readHint
  split
  · exact f.keeps
  · exact hk f
  · exact f.keeps.ite ((f.readC (.inl hc)).keeps₁ fun _ _ f => hk f)

theorem execCtIpf_keeps : ∃ t, execCtIpf h la c s = .next t ∧ Keeps p s0 t :=
  ⟨_, rfl, f.keeps.guarded (f.readHint hc fun f => (Frame.keeps f).foldl fun hs => hs.ite hs.askFill)⟩

omit hc in
theorem execCtYield_keeps : ∃ t, execCtYield h s = .next t ∧ Keeps p s0 t :=
  ⟨_, rfl, f.keeps.guarded (f.keeps.close.ite f.keeps.defer.close)⟩

omit hc in
theorem execCtHalt_keeps : ∃ t, execCtHalt h s = .next t ∧ Keeps p s0 t :=
  ⟨_, rfl, f.keeps.guarded (Keeps.fault.ite f.keeps.defer.close)⟩

theorem execCtTrap_keeps : ∃ t, execCtTrap h c s = .next t ∧ Keeps p s0 t :=
  ⟨_, rfl, f.keeps.guarded ((f.readC (.inl hc)).keeps₁ fun _ _ _ => Keeps.endFirst.ite (Keeps.hold.ite .fault))⟩

omit hc in
theorem execCtEfence_keeps : ∃ t, execCtEfence h s = .next t ∧ Keeps p s0 t :=
  ⟨_, rfl, f.keeps.guarded (f.fenceGate.keeps fun _ f => (Frame.keeps f).close)⟩

theorem execCtSstop_keeps : ∃ t, execCtSstop h c s = .next t ∧ Keeps p s0 t :=
  ⟨_, rfl, f.keeps.guarded (f.needKernel.keeps fun _ f => (Frame.readC f (.inl hc)).keeps₁ fun _ _ f => Keeps.faultPoison.ite (Keeps.faultAddr.ite
    ((Frame.serverGate f).keeps fun _ f => (Frame.keeps f).deferStrand)))⟩

theorem execCtSgo_keeps : ∃ t, execCtSgo h c s = .next t ∧ Keeps p s0 t :=
  ⟨_, rfl, f.keeps.guarded (f.needKernel.keeps fun _ f => (Frame.readC f (.inl hc)).keeps₁ fun _ _ f => Keeps.faultPoison.ite (Keeps.faultAddr.ite
    ((Frame.serverGate f).keeps fun _ f => (Frame.keeps f).deferStrand)))⟩

theorem execCtSsave_keeps : ∃ t, execCtSsave h c s = .next t ∧ Keeps p s0 t :=
  ⟨_, rfl, f.keeps.guarded (f.needKernel.keeps fun _ f => (Frame.readC f (.inl hc)).keeps₁ fun _ _ f =>
    (Frame.imageGate f).keeps fun _ f => (Frame.keeps f).deferStrand)⟩

theorem execCtSload_keeps : ∃ t, execCtSload h c s = .next t ∧ Keeps p s0 t :=
  ⟨_, rfl, f.keeps.guarded (f.needKernel.keeps fun _ f => (Frame.readC f (.inl hc)).keeps₁ fun _ _ f =>
    (Frame.imageGate f).keeps fun _ f => (Frame.serverGate f).keeps fun _ f => (Frame.keeps f).deferStrand)⟩

theorem execCtResume_keeps : ∃ t, execCtResume h c s = .next t ∧ Keeps p s0 t := by
  refine ⟨_, rfl, f.keeps.guarded (f.needSupervisor.keeps fun _ f => (Frame.readC f (.inl hc)).keeps₁ fun _ _ f => Keeps.faultPoison.ite ?_)⟩
  split
  · exact .faultAddr
  · exact (Frame.keeps f).deferStrand

end

theorem Keeps.queueGate {a : Reg} {push : Bool} {k : Nat → Nat → Nat → State → State}
    (hk : ∀ {x y z}, s.queueHandle (pidOf s.myCk) a.v = some (x, y, z) → Keeps p s0 (k x y z s)) : Keeps p s0 (queueGate s a push k) := by
  unfold Machine.queueGate
  refine Keeps.faultPoison.ite ?_
  split
  · exact .faultAddr
  · exact .ite (Keeps.faultAddr.ite (hk ‹_›)) (Keeps.faultAddr.ite (hk ‹_›))

/-! ### Stores and the words that may be deferred -/

section
variable (d : Defers q p s0) (f : Frame q s0 s)
include d f

theorem Defers.keeps : Keeps p s0 s := (d.le f).keeps

theorem Defers.storeOp {u : FUnit} {a : Reg80} {n : Nat} {offs : List Nat} {data : List Byte} {mark : Bool} {src : Reg} {extra : List Reg}
    {ls : List Latch} {acc : Machine.Acc} (hl : ∀ l ∈ ls, l ∈ p.latches) : Keeps p s0 (storeOp s u la a n offs data mark src extra ls acc) := by
  unfold Machine.storeOp
  split
  · exact f.undoGate.keeps fun _ f => (Frame.storeGate f).keeps fun _ f => (d.keeps f).writePieces
  · exact (d.keeps f).lateFault
  · exact d.gate f hl fun f => (d.keeps f).farStore
  · exact d.gate f hl fun f => (d.keeps f).farStore
  · exact .faultAddr

theorem Defers.storeElems {n : Fin 8} {idx : Bool} : Keeps p s0 (storeElems h la n c idx s) :=
  (d.keeps f).guarded ((f.readC (.inl d.calm)).keeps₁ fun _ _ f => (Frame.typed f).keeps fun _ f => (Frame.accessElems f).keeps₁ fun _ _ f =>
    d.storeOp f fun _ h => absurd h List.not_mem_nil)

theorem execVst_keeps {n : Fin 8} : ∃ t, execVst h la n c s = .next t ∧ Keeps p s0 t :=
  ⟨_, rfl, (d.keeps f).guarded ((f.readC (.inl d.calm)).keeps₁ fun _ _ f => (Frame.access f).keeps₁ fun _ _ f =>
    d.storeOp f fun _ h => absurd h List.not_mem_nil)⟩

theorem execKst_keeps {n : Fin 4} : ∃ t, execKst h la n c s = .next t ∧ Keeps p s0 t :=
  ⟨_, rfl, (d.keeps f).guarded ((f.readC (.inl d.calm)).keeps₁ fun _ _ f => (Frame.access f).keeps₁ fun _ _ f =>
    d.storeOp f fun _ h => absurd h List.not_mem_nil)⟩

theorem execQsWrite_keeps {j : Fin 8} : ∃ t, execQsWrite h j c s = .next t ∧ Keeps p s0 t :=
  ⟨_, rfl, (d.keeps f).guarded ((f.readC (.inl d.calm)).keeps₁ fun _ _ f => (Frame.takePosition f).keeps₂ fun _ _ _ f =>
    d.storeOp f fun _ h => absurd h List.not_mem_nil)⟩

theorem Defers.sysStore {a : Reg80} {qq off : Nat} {x : List Byte} : Keeps p s0 (sysStore s a qq off x) := by
  unfold Machine.sysStore
  split
  · exact .faultAddr
  · dsimp only
    split
    · exact Keeps.fault.ite .faultAddr
    · exact (d.keeps (f.senseSys d.calm)).updMe rfl

theorem Defers.storeScalar {n : Nat} (hl : Latch.lsD ∈ p.latches) : Keeps p s0 (storeScalar h la n c s) := by
  refine (d.keeps f).guarded ((f.readC (.inl d.calm)).keeps₁ fun a t f => ?_)
  unfold Machine.storeValue
  refine (Frame.access f).keeps₁ fun acc t f => ?_
  split
  · exact (d.sysStore f).consume hl
  · exact (d.storeOp f fun _ h => List.mem_singleton.mp h ▸ hl).consume hl

theorem Defers.cePush {op : Nat} {x : Fin 4} (hl : ∀ l ∈ ceLatches, l ∈ p.latches) : Keeps p s0 (cePush h op x s) := by
  unfold Machine.cePush
  refine (d.keeps f).guarded (f.effectGate.keeps fun t f => ?_)
  split
  · exact Keeps.faultPoison.ite .faultAddr
  · refine Keeps.faultAddr.ite (d.gate f hl fun {t} f => ?_)
    split
    · exact .hold
    · exact ((d.keeps f).acceptPush ‹_›).consumeAll hl

/-! ### Queues -/

section
variable (hl : ∀ l ∈ sqLatches, l ∈ p.latches)
include hl

theorem Defers.pushIssue {ck qual idx : Nat} {x : Reg} : Keeps p s0 (pushIssue s la ck qual idx x) :=
  ((d.le f).pushAt.keeps.sqLocal hl).ite ((d.keeps f).remoteOp.consumeAll hl)

theorem execSqPush_keeps : ∃ t, execSqPush h la c s = .next t ∧ Keeps p s0 t :=
  ⟨_, rfl, (d.keeps f).guarded ((f.readC (.inl d.calm)).keeps₁ fun _ _ f => (Frame.effectGate f).keeps fun _ f => Keeps.queueGate fun _ =>
    (d.gate f hl fun f => (Frame.windowGate f).keeps fun _ f => d.pushIssue f hl))⟩

theorem execSqRqpop_keeps : ∃ t, execSqRqpop h la s = .next t ∧ Keeps p s0 t := by
  refine ⟨_, rfl, (d.keeps f).guarded (f.needKernel.keeps fun _ f => (Frame.effectGate f).keeps fun _ f => (Frame.windowGate f).keeps fun t f =>
    Keeps.sqLocal ?_ hl)⟩
  split
  · exact (Frame.updCore (d.le f)).pokePool.keeps
  · exact d.keeps f

theorem execSqSpawn_keeps : ∃ t, execSqSpawn h la c s = .next t ∧ Keeps p s0 t :=
  ⟨_, rfl, (d.keeps f).guarded ((f.readC (.inl d.calm)).keeps₁ fun _ _ f => (Frame.effectGate f).keeps fun _ f =>
    (Frame.spawnHeader f d.calm).keeps₁ fun _ _ f => d.gate f hl fun f => (Frame.windowGate f).keeps fun _ f => (d.keeps f).remoteOp.consumeAll hl)⟩

theorem execSqDec_keeps : ∃ t, execSqDec h la c s = .next t ∧ Keeps p s0 t := by
  refine ⟨_, rfl, (d.keeps f).guarded ((f.readC (.inl d.calm)).keeps₁ fun _ _ f => (Frame.effectGate f).keeps fun t f => Keeps.faultPoison.ite ?_)⟩
  split
  · exact .faultAddr
  · exact d.gate f hl fun f => ((d.keeps f).asEffect.launchVar.sendLocal.consumeAll hl).ite ((d.keeps f).remoteOp.consumeAll hl)

end

/-! ### Barriers and monitors -/

section
variable (hl : ∀ l ∈ syLatches, l ∈ p.latches)
include hl

theorem execSyBinit_keeps : ∃ t, execSyBinit h la c s = .next t ∧ Keeps p s0 t :=
  ⟨_, rfl, (d.keeps f).guarded ((f.readC (.inl d.calm)).keeps₁ fun _ _ f => (Frame.effectGate f).keeps fun _ f => (Frame.barrierGate f).keeps₂
    fun _ _ _ f => .ite ((d.le f).putBarrier.keeps.syLocal hl) .faultAddr)⟩

theorem Defers.arriveIssue {ck i : Nat} {n : Option Nat} : Keeps p s0 (arriveIssue s la ck i n) :=
  ((d.le f).countBarrier.keeps.syLocal hl).ite ((d.keeps f).remoteOp.consumeAll hl)

theorem Defers.arriveTrigger {bytes : Bool} : Keeps p s0 (arriveTrigger h la bytes c s) :=
  (d.keeps f).guarded ((f.readC (.inl d.calm)).keeps₁ fun _ _ f => (Frame.effectGate f).keeps fun _ f => (Frame.barrierGate f).keeps₂ fun _ _ _ f =>
    Keeps.faultAddr.ite (.ite ((Frame.windowGate f).keeps fun _ f => d.arriveIssue f hl)
      (d.gate f hl fun f => (Frame.windowGate f).keeps fun _ f => d.arriveIssue f hl)))

theorem execSyWait_keeps : ∃ t, execSyWait h la c s = .next t ∧ Keeps p s0 t :=
  ⟨_, rfl, (d.keeps f).guarded ((f.readC (.inl d.calm)).keeps₁ fun _ _ f => (Frame.effectGate f).keeps fun _ f => (Frame.conflictGate f).keeps fun _ f =>
    (Frame.barrierGate f).keeps₂ fun _ _ _ f => (Frame.phaseGate f).keeps₁ fun _ _ f => (Frame.windowGate f).keeps fun _ f =>
      ((d.keeps f).asWaiting.launchVar.consumeAll hl).push)⟩

theorem execSyTest_keeps : ∃ t, execSyTest h la c s = .next t ∧ Keeps p s0 t :=
  ⟨_, rfl, (d.keeps f).guarded ((f.readC (.inl d.calm)).keeps₁ fun _ _ f => (Frame.effectGate f).keeps fun _ f => (Frame.barrierGate f).keeps₂
    fun _ _ _ f => (Frame.phaseGate f).keeps₁ fun _ _ f => (Frame.windowGate f).keeps fun _ f => (d.keeps f).syLocal hl)⟩

theorem execSyInval_keeps : ∃ t, execSyInval h la c s = .next t ∧ Keeps p s0 t :=
  ⟨_, rfl, (d.keeps f).guarded ((f.readC (.inl d.calm)).keeps₁ fun _ _ f => (Frame.effectGate f).keeps fun _ f => (Frame.barrierGate f).keeps₂
    fun _ _ _ f => (d.le f).putBarrier.keeps.syLocal hl)⟩

theorem execSyMon_keeps {n : Fin 4} : ∃ t, execSyMon h la n c s = .next t ∧ Keeps p s0 t := by
  refine ⟨_, rfl, (d.keeps f).guarded ((f.readC (.inl d.calm)).keeps₁ fun _ _ f => (Frame.effectGate f).keeps fun t f =>
    Keeps.faultPoison.ite (Keeps.faultAddr.ite ?_))⟩
  split
  · exact .faultAddr
  · split
    · exact (Frame.updMe ((d.le f).resolve.of_snd ‹_›) (by rfl)).keeps.syLocal hl
    · exact ((d.le f).resolve.of_snd ‹_›).keeps.lateFault.consumeAll hl
    · exact .faultAddr

theorem execSyUnmon_keeps {mk : BitVec 4} : ∃ t, execSyUnmon h la mk s = .next t ∧ Keeps p s0 t :=
  ⟨_, rfl, (d.keeps f).guarded (f.effectGate.keeps fun _ f => (Keeps.updMe (d.keeps f) (by rfl)).syLocal hl)⟩

theorem execSyMwait_keeps : ∃ t, execSyMwait h la s = .next t ∧ Keeps p s0 t :=
  ⟨_, rfl, (d.keeps f).guarded (f.effectGate.keeps fun _ f => (Frame.conflictGate f).keeps fun _ f => (Frame.windowGate f).keeps fun _ f =>
    .push (Keeps.updMe ((d.keeps f).asWaiting.launchVar.consumeAll hl) rfl))⟩

end

/-! ### Declared sets and identities -/

theorem execAtAset_keeps {n : Fin 8} (hl : Latch.atO ∈ p.latches) : ∃ t, execAtAset h n c s = .next t ∧ Keeps p s0 t :=
  ⟨_, rfl, (d.keeps f).guarded ((f.readC (.inl d.calm)).keeps₁ fun _ _ f => Keeps.faultPoison.ite (Keeps.faultAddr.ite (Keeps.faultAddr.ite
    (Keeps.faultAddr.ite (Keeps.faultAddr.ite ((Keeps.updMe (d.keeps f) (by rfl)).consume hl))))))⟩

theorem execAtTok_keeps (hl : Latch.atO ∈ p.latches) : ∃ t, execAtTok h la s = .next t ∧ Keeps p s0 t :=
  ⟨_, rfl, (d.keeps f).guarded (f.needKernel.keeps fun _ f => (Frame.conflictGate f).keeps fun _ f => (Frame.effectGate f).keeps fun _ f =>
    (Frame.windowGate f).keeps fun _ f => ((d.keeps f).asWaiting.consume hl).launchVar.push)⟩

end

end

end Sys2Proof.WordFrames
end

section
/-! PROOFS. The words that write memory at their issue, and what they write there (O57). -/

namespace Sys2Proof.WordFrames

open Sys2Proof.Machine Sys2Proof.Claims Sys2Proof.Laws

section
variable {p q : Permit} {s0 s t : State} {h : Hdr} {la : BitVec 4} {c : CSrc} {ls : List Latch} {alone : Prop} {P : Nat → Prop}

/-- A source as the bytes written at issue speak of it: what it hands on whatever runs on it. -/
theorem Frame.readsC {k : Reg → State → State} (f : Frame q s0 s) (hc : q.calm)
    (hk : ∀ r t, (∀ k : Reg → State → State, Machine.readC s c k = k r t) → Frame q s0 t → Keeps p s0 (k r t)) :
    Keeps p s0 (Machine.readC s c k) := by
  obtain ⟨_, ⟨r, t, ft, rfl⟩, hr⟩ | hheld := f.readC (c := c) (.inl hc)
  · exact hr k ▸ hk r t hr ft
  · exact .of_held (hheld k)

theorem Frame.myCk (f : Frame p s0 s) : s.myCk = s0.myCk := congrArg ckOf f.cur

theorem deferStores_congr (f : Frame (quiet ls True s0) s0 s) {a : Nat} (h : DeferStores s a) : DeferStores s0 a := by
  obtain ⟨i, ht, hh, -⟩ := id h
  rw [deferStores_iff ht hh, deferCount_congr f.cur, deferPlace_congr f.memory f.cur] at h
  exact (deferStores_iff (f.task ▸ ht) (heldSets_congr f.memory f.cur f.task ▸ hh) a).mpr h

theorem asIssuing_of_effIssue (h : s.me.effIssue = true) : asIssuing s = s := if_pos h

theorem length_memReadList (m : List Host.Cell) (a n : Nat) : (memReadList m a n).length = n := by
  induction n generalizing a with
  | zero => rfl
  | succ n ih => exact congrArg (· + 1) (ih (a + 1))

/-- What an atomic logs for a task that holds a set: the bytes of the next line entry, and of the count of them (R299). -/
def UndoStores (m : State) (ck i a : Nat) : Prop :=
  (m.undoAt ck i ≤ a ∧ a < m.undoAt ck i + 4) ∨
    (m.undoAt ck i + 64 + 144 * m.load (m.undoAt ck i) 4 ≤ a ∧ a < m.undoAt ck i + 64 + 144 * m.load (m.undoAt ck i) 4 + 144)

/-! ### Atomics -/

section
variable (f : Frame (WordFrames.loud ls P alone s0) s0 s) (ha : ¬alone)
include f ha

theorem Frame.atomicAt {op : AtOp} {flat : Nat} {o x : BitVec 64} {mark : Bool} (hP : ∀ a, flat ≤ a ∧ a < flat + atSize op → P a) :
    Frame (WordFrames.loud ls P alone s0) s0 (s.atomicAt (some s.cur) op flat o x mark).2.2 := by
  unfold State.atomicAt
  dsimp only
  split
  · exact f.placeNum ha (.inl rfl) hP
  · exact f

theorem Frame.logLine (hi : s0.me.effIssue = true) {ck i : Nat} {ptr : Reg80} {d : List Byte} (hd : d.length = 128)
    (hP : ∀ a, UndoStores s ck i a → P a) : Frame (WordFrames.loud ls P alone s0) s0 (s.logLine ck i ptr d) := by
  have hn : (addrBytes ptr ++ List.replicate 6 (0 : Byte) ++ d).length = 144 := by
    simp only [List.length_append, TaskWords.length_addrBytes, List.length_replicate, hd]
  unfold State.logLine
  exact (f.place ha (.inr hi) fun a h => hP a (.inr (by rwa [hn] at h))).placeNum ha (.inr hi) fun a h => hP a (.inl h)

/-- An atomic at its core's own unit writes its word and, where it is logged, the next line entry; elsewhere it writes nothing. -/
theorem Frame.atIssue (hi : s0.me.effIssue = true) {op : AtOp} {red log : Bool} {a o x : Reg} {acc : Machine.Acc}
    (hw : ∀ ps, acc = .mem ps → isLocalFlat (ps.headD (0, 0)).1 = true → ckOfFlat (ps.headD (0, 0)).1 = s.myCk →
      ∀ b, (ps.headD (0, 0)).1 ≤ b ∧ b < (ps.headD (0, 0)).1 + atSize op → P b)
    (hu : ∀ ps, acc = .mem ps → isLocalFlat (ps.headD (0, 0)).1 = true → ckOfFlat (ps.headD (0, 0)).1 = s.myCk → log = true →
      ∀ i, s.me.task = some i → ∀ b, UndoStores (s.atomicAt (some s.cur) op (ps.headD (0, 0)).1 o.val x.val (operandMark op o x)).2.2 s.myCk i b → P b) :
    Keeps (WordFrames.loud ls P alone s0) s0 (Machine.atIssue s la op red a o x log acc) := by
  unfold Machine.atIssue
  dsimp only
  split
  · rename_i ps
    split
    · rename_i hloc
      simp only [Bool.and_eq_true, decide_eq_true_eq] at hloc
      obtain ⟨hloc, hck⟩ := hloc
      rw [sense_of_undisturbed (f.calm trivial)]
      have g := f.atomicAt ha (hw ps rfl hloc hck) (o := o.val) (x := x.val) (mark := operandMark op o x)
      refine .push (Keeps.launchVar (Keeps.asEffect (Frame.keeps ?_)))
      split
      · rename_i i ht
        split
        · rename_i hlog
          exact g.logLine ha hi (length_memReadList _ _ _) (hu ps rfl hloc hck hlog i ht)
        · exact g
      · exact g
    · exact f.keeps.remoteOp
  · exact f.keeps.lateFault
  · exact f.keeps.remoteOp
  · exact .faultAddr

end

/-- What an atomic that runs with these operands on this access writes (R222, R299). -/
def AccStores (s : State) (op : AtOp) (o x : Reg) (acc : Machine.Acc) (a : Nat) : Prop :=
  ∃ ps, acc = .mem ps ∧ isLocalFlat (ps.headD (0, 0)).1 = true ∧ ckOfFlat (ps.headD (0, 0)).1 = s.myCk ∧
    (((ps.headD (0, 0)).1 ≤ a ∧ a < (ps.headD (0, 0)).1 + atSize op) ∨
      ∃ i, s.me.task = some i ∧ s.heldSets s.cur ≠ 0 ∧
        UndoStores (s.atomicAt (some s.cur) op (ps.headD (0, 0)).1 o.val x.val (operandMark op o x)).2.2 s.myCk i a)

/-- An atomic that is not logged. -/
theorem Frame.atPlain (f : Frame (WordFrames.loud ls P alone s0) s0 t) (ha : ¬alone) (hi : s0.me.effIssue = true) {op : AtOp} {red : Bool}
    {a o x : Reg} {acc : Machine.Acc} (hc : s.cur = s0.cur) (hA : ∀ b, AccStores s op o x acc b → P b) :
    Keeps (WordFrames.loud ls P alone s0) s0 (Machine.atIssue t la op red a o x false acc) :=
  f.atIssue ha hi (fun ps hps hloc hck b hb => hA b ⟨ps, hps, hloc, hck.trans (congrArg ckOf (f.cur.trans hc.symm)), .inl hb⟩)
    fun _ _ _ _ hlog => absurd hlog Bool.false_ne_true

theorem Frame.atSets (f : Frame (quiet ls True s0) s0 s) (hm : Memory.wf s0.mem = true) (ha : ¬alone) (hi : s0.me.effIssue = true)
    (hl : ∀ l ∈ [Latch.atO, .lsD], l ∈ ls) {op : AtOp} {red : Bool} {a o x : Reg} {acc : Machine.Acc}
    (hP : ∀ b, DeferStores s0 b → P b) (hA : ∀ b, AccStores s op o x acc b → P b) :
    Keeps (WordFrames.loud ls P alone s0) s0 (Machine.atSets s la op red a o x acc) := by
  have hls : ∀ l ∈ (if op = .cas64 then [Latch.atO, .lsD] else [.atO]), l ∈ ls := by
    split
    · exact hl
    · exact fun l h => hl l (List.mem_cons.mpr (.inl (List.mem_singleton.mp h)))
  have d := defers (ls := ls) (alone := alone) hm hP fun h => absurd h ha
  have hrun {t} (ft : Frame (quiet ls True s0) s0 t) : Keeps (WordFrames.loud ls P alone s0) s0
      ((Machine.atIssue t la op red a o x false acc).consumeAll (if op = .cas64 then [.atO, .lsD] else [.atO])) :=
    ((ft.loud hm).atPlain ha hi f.cur hA).consumeAll hls
  unfold Machine.atSets
  dsimp only
  split
  · rename_i ps i ht
    by_cases hh : s.heldSets s.cur = 0
    · rw [if_pos hh]
      exact hrun f
    rw [if_neg hh]
    refine .ite (.ite (hrun f) (Keeps.faultAddr.ite (.consumeAll ?_ hls))) (d.gate f hls hrun)
    refine (f.loud hm).atIssue ha hi (fun qs hps hloc hck b hb => hA b ⟨qs, hps, hloc, hck, .inl hb⟩) ?_
    exact fun qs hps hloc hck _ j hj b hb => hA b ⟨qs, hps, hloc, hck, .inr ⟨j, hj, hh, hb⟩⟩
  · exact d.gate f hls hrun

/-- An atomic writes its word, the next line entry of its task, or a deferred entry. -/
theorem atTrigger_keeps {op : AtOp} {red : Bool} (hs : Undisturbed s) (hm : Memory.wf s.mem = true) (ha : ¬alone)
    (hl : ∀ l ∈ [Latch.atO, .lsD], l ∈ ls) (hP : ∀ b, DeferStores s b → P b) (hA : ∀ b, AtomicStores op c s b → P b) :
    Keeps (loud ls P alone s) s (atTrigger h la op red c s) := by
  refine (loud_frame hs hm).keeps.guarded ((quiet_frame (ls := ls) fun _ => hs).readsC trivial fun r s1 hr f1 => ?_)
  unfold atRun
  refine (passes_effectGate s1).keeps fun s2 h2 => ?_
  subst h2
  have f2 := f1.asIssuing
  have hm2 : Memory.wf (asIssuing s1).mem = true := f2.memory ▸ hm
  refine Keeps.after hm f2 (Keeps.faultPoison.ite (Keeps.faultAddr.ite ?_))
  refine (passes_accessWith ..).keeps₁ fun acc s3 h3 => ?_
  obtain ⟨pl, hpl, h3⟩ := h3
  have f3 : Frame (quiet ls True (asIssuing s1)) (asIssuing s1) s3 := (quiet_frame f2.calm).resolved h3
  have hA3 (b : Nat) (h : AccStores s3 op (s1.ctx.latch .atO) (s1.ctx.latch .lsD) acc b) : P b := by
    have hlat (l : Latch) : s3.ctx.latch l = s1.ctx.latch l :=
      ((quiet_frame (ls := []) f1.calm).asIssuing.resolved h3).own.latch l List.not_mem_nil
    have h3 : (acc, s3) = (asIssuing s1).resolve (asIssuing s1).myCk (atSize op) true pl := by
      obtain h3 | h3 := h3
      · exact h3
      · rwa [asIssuing_of_effIssue (asIssuing_effIssue s1)] at h3
    obtain ⟨ps, rfl, hloc, hck, hb⟩ := h
    have hmy : s3.myCk = s.myCk := f3.myCk.trans f2.myCk
    refine hA b ⟨r, s1, pl, ps, s3, hr, hpl, h3.symm, hloc, hck.trans hmy, hb.imp id ?_⟩
    rintro ⟨i, ht, hh, hb⟩
    refine ⟨i, (f3.task.trans f2.task).symm.trans ht, fun e => hh ?_, ?_⟩
    · exact (heldSets_congr f3.memory f3.cur f3.task).trans ((heldSets_congr f2.memory f2.cur f2.task).trans e)
    · rw [← hmy, hlat, hlat]
      exact hb
  have hk {t} (e : t = s3) : Keeps (loud ls P alone (asIssuing s1)) (asIssuing s1) (atSets t la op red r (s1.ctx.latch .atO) (s1.ctx.latch .lsD) acc) :=
    e ▸ f3.atSets hm2 ha (asIssuing_effIssue s1) hl (fun b hb => hP b (deferStores_congr f2 hb)) hA3
  exact .ite (hk rfl) ((passes_windowGate s3 1).keeps fun _ => hk)

/-! ### Pops that adopt a task -/

theorem qPop_head {ck qual idx : Nat} {take user : Bool} {e : QElem} (h : (s.qPop ck qual idx take user).2.1 = some e) :
    ∃ rest, (s.queueAt ck qual idx).map Queue.elems = some (e :: rest) := by
  unfold State.qPop at h
  split at h
  · cases h
  · rename_i x hx
    rw [hx]
    split at h
    · cases h
    · rename_i e' rest he
      have : e' = e := by
        split at h
        · exact Option.some.inj h
        · split at h
          · exact Option.some.inj h
          · exact Option.some.inj h
      exact ⟨rest, congrArg some (this ▸ he)⟩

theorem queueAt_updCore {ck k qual idx : Nat} {g : Core → Core} (h : qual ≠ 1) : (s.updCore k g).queueAt ck qual idx = s.queueAt ck qual idx := by
  unfold State.queueAt
  rw [if_neg h, if_neg h]
  rfl

/-- What the claim of a pop hands on: the record that `sq.d` names, or none, and the state but for the claim. -/
def Claimed (s : State) (qual : Nat) (j : Option Nat) (t : State) : Prop :=
  t = s ∧ (j = none ∨ j = some (s.ctx.latch .sqD).val.toNat) ∨
    qual ≠ 1 ∧ j = some (s.ctx.latch .sqD).val.toNat ∧ ∃ g, t = s.updCore s.myCk g

theorem Claimed.frame {qual : Nat} {j : Option Nat} (hj : Claimed s qual j t) (f : Frame p s0 s) : Frame p s0 t := by
  obtain ⟨rfl, -⟩ | ⟨-, -, g, rfl⟩ := hj
  · exact f
  · exact f.updCore

theorem Claimed.queueAt {ck qual idx : Nat} {j : Option Nat} (hj : Claimed s qual j t) : t.queueAt ck qual idx = s.queueAt ck qual idx := by
  obtain ⟨rfl, -⟩ | ⟨hq, -, g, rfl⟩ := hj
  · rfl
  · exact queueAt_updCore hq

/-- The record that a pop adopts a task into is that of the core which `sq.d` names. -/
theorem Claimed.claim {qual ck i : Nat} {j : Option Nat} (hj : Claimed s qual j t) (hc : (j.map fun j => (t.myCk, j)) = some (ck, i)) :
    ck = s.myCk ∧ i = (s.ctx.latch .sqD).val.toNat := by
  obtain ⟨i, rfl, he⟩ := Option.map_eq_some_iff.mp hc
  obtain ⟨rfl, rfl⟩ := Prod.mk.inj he
  obtain ⟨rfl, h | h⟩ | ⟨-, h, g, rfl⟩ := hj
  · cases h
  · exact ⟨rfl, Option.some.inj h⟩
  · exact ⟨rfl, Option.some.inj h⟩

theorem passes_claimGate (s : State) (qual : Nat) : Passes (claimGate s qual) (At₁ (Claimed s qual)) := by
  unfold claimGate
  by_cases h : qual = 1 ∨ s.mode s.cur = .user
  · simp only [if_pos h]
    exact .at₁ (fun _ => rfl) (.inl ⟨rfl, .inl rfl⟩)
  · simp only [if_neg h]
    refine .ite (.at₁ (fun _ => rfl) (.inl ⟨rfl, .inr rfl⟩)) (.ite (.holds fun _ => faultAddr_held _ _ _) ?_)
    exact .at₁ (fun _ => rfl) (.inr ⟨fun e => h (.inl e), rfl, _, rfl⟩)


section
variable (f : Frame (WordFrames.loud ls P alone s0) s0 s) (ha : ¬alone) (hi : s0.me.effIssue = true)
include f ha hi

theorem Frame.setRec {ck i o n v : Nat} (hP : ∀ a, recFlat ck i + o ≤ a ∧ a < recFlat ck i + o + n → P a) :
    Frame (WordFrames.loud ls P alone s0) s0 (s.setRec ck i o n v) := f.placeNum ha (.inr hi) hP

theorem Frame.setState {ck i v : Nat} (hP : P (recFlat ck i + 26)) : Frame (WordFrames.loud ls P alone s0) s0 (s.setRec ck i 26 1 v) :=
  f.setRec ha hi fun a h => (show a = recFlat ck i + 26 by omega) ▸ hP

/-- The STATE byte at the record's home, and the claimed record, are written. -/
theorem Frame.adopt {home i ck j : Nat} (hP : ∀ a, a = recFlat home i + 26 ∨ (recFlat ck j ≤ a ∧ a < recFlat ck j + 64) → P a) :
    Frame (WordFrames.loud ls P alone s0) s0 (s.adopt home i ck j) := by
  unfold State.adopt
  refine Frame.updCore (Frame.place (Frame.recordFreed (f.setState ha hi (hP _ (.inl rfl)))) ha (.inr hi) fun a h => hP a (.inr ?_))
  have hn : ∀ b : Byte, ((memReadList s.mem (recFlat home i) 64).take 26 ++ [b] ++ (memReadList s.mem (recFlat home i) 64).drop 27).length = 64 := fun b => by
    simp only [List.length_append, List.length_take, List.length_drop, length_memReadList, List.length_singleton]
    rfl
  rwa [hn] at h

/-- A pop or peek at the queue's owner writes only where it adopts the task at the queue's head. -/
theorem Frame.popAt {ck qual idx : Nat} {take user : Bool} {claim : Option (Nat × Nat)}
    (hP : ∀ e rest home n k j, (s.queueAt ck qual idx).map Queue.elems = some (e :: rest) → e.task = some (home, n) → claim = some (k, j) →
      ∀ a, a = recFlat home n + 26 ∨ (recFlat k j ≤ a ∧ a < recFlat k j + 64) → P a) :
    Frame (WordFrames.loud ls P alone s0) s0 (s.popAt ck qual idx take user claim).2 := by
  unfold State.popAt
  rw [senseGroup_of_undisturbed (f.calm trivial)]
  dsimp only
  split
  · rename_i e _ he
    split
    · rename_i ht
      obtain ⟨rest, hq⟩ := qPop_head he
      exact f.qPop.adopt ha hi (hP e rest _ _ _ _ hq ht rfl)
    · exact f.qPop
  · exact f.qPop

end

theorem passes_nearGate (s : State) (ck qual idx : Nat) : Passes (nearGate s ck qual idx) (At fun t => t = s) :=
  .ite (.at (fun _ => rfl) rfl) (passes_remoteGate s)

theorem popTrigger_keeps {take : Bool} (hs : Undisturbed s) (hm : Memory.wf s.mem = true) (ha : ¬alone) (hl : ∀ l ∈ sqLatches, l ∈ ls)
    (hP : ∀ a, AdoptStores c s a → P a) : Keeps (loud ls P alone s) s (popTrigger h la take c s) := by
  refine (loud_frame hs hm).keeps.guarded ((quiet_frame (ls := ls) fun _ => hs).readsC trivial fun r s1 hr f1 => ?_)
  refine (passes_effectGate s1).keeps fun s2 h2 => ?_
  subst h2
  have f2 := f1.asIssuing
  have hi := asIssuing_effIssue s1
  refine Keeps.after hm f2 ((passes_conflictGate _ _).keeps fun _ h => ?_)
  rw [h.1]
  refine Keeps.queueGate fun {ck qual idx} hq => (passes_windowGate _ _).keeps fun _ h => ?_
  rw [h]
  refine (passes_nearGate ..).keeps fun _ h => ?_
  rw [h]
  refine (passes_claimGate ..).keeps₁ fun j t hj => ?_
  have f3 : Frame (loud ls P alone (asIssuing s1)) (asIssuing s1) t := hj.frame (loud_frame (f2.calm trivial) (f2.memory ▸ hm))
  refine .ite (Keeps.sqLocal (Frame.keeps (Frame.lapseFor (f3.popAt ha hi ?_))) hl) (f3.keeps.remoteOp.consumeAll hl)
  intro e rest home n k i hel htask hclaim a hab
  obtain ⟨rfl, rfl⟩ := hj.claim hclaim
  rw [hj.queueAt] at hel
  exact hP a ⟨r, s1, ck, qual, idx, e, rest, home, n, hr, hq, hel, htask, hab.imp id (f2.myCk ▸ id)⟩

/-! ### The words that write one byte of a record, and the floor -/

theorem execSqRqpush_keeps {n : Fin 4} (hs : Undisturbed s) (hm : Memory.wf s.mem = true) (ha : ¬alone) (hl : ∀ l ∈ sqLatches, l ∈ ls)
    (hP : ∀ a, RecordByte c s a → P a) : ∃ t, execSqRqpush h la n c s = .next t ∧ Keeps (loud ls P alone s) s t := by
  refine ⟨_, rfl, (loud_frame hs hm).keeps.guarded ((passes_needKernel s).keeps fun _ h => ?_)⟩
  rw [h]
  refine (quiet_frame (ls := ls) fun _ => hs).readsC trivial fun r s1 hr f1 => (passes_effectGate s1).keeps fun s2 h2 => ?_
  subst h2
  have f2 := f1.asIssuing
  refine Keeps.after hm f2 (Keeps.faultPoison.ite (Keeps.faultAddr.ite (Keeps.sqLocal (Frame.keeps (Frame.rqPush ?_)) hl)))
  exact (loud_frame (f2.calm trivial) (f2.memory ▸ hm)).setState ha (asIssuing_effIssue s1) (hP _ ⟨r, s1, hr, by rw [f2.myCk]⟩)

theorem execSqRqprio_keeps (hs : Undisturbed s) (hm : Memory.wf s.mem = true) (ha : ¬alone) (hl : ∀ l ∈ sqLatches, l ∈ ls)
    (hP : ∀ a, RecordByte c s a → P a) : ∃ t, execSqRqprio h la c s = .next t ∧ Keeps (loud ls P alone s) s t := by
  refine ⟨_, rfl, (loud_frame hs hm).keeps.guarded ((passes_needKernel s).keeps fun _ h => ?_)⟩
  rw [h]
  refine (quiet_frame (ls := ls) fun _ => hs).readsC trivial fun r s1 hr f1 => (passes_effectGate s1).keeps fun s2 h2 => ?_
  subst h2
  have f2 := f1.asIssuing
  have f3 {v : Nat} : Frame (loud ls P alone (asIssuing s1)) (asIssuing s1) ((asIssuing s1).setRec (asIssuing s1).myCk r.val.toNat 26 1 v) :=
    (loud_frame (f2.calm trivial) (f2.memory ▸ hm)).setState ha (asIssuing_effIssue s1) (hP _ ⟨r, s1, hr, by rw [f2.myCk]⟩)
  refine Keeps.after hm f2 (Keeps.faultPoison.ite (Keeps.faultAddr.ite (Keeps.faultAddr.ite (Keeps.sqLocal (Frame.keeps ?_) hl))))
  exact .ite (Frame.updCore f3) f3

theorem execSrAckfloor_keeps (hs : Undisturbed s) (hm : Memory.wf s.mem = true) (ha : ¬alone) (hP : ∀ a, FloorStores c s a → P a) :
    ∃ t, execSrAckfloor h la c s = .next t ∧ Keeps (loud ls P alone s) s t := by
  refine ⟨_, rfl, (loud_frame hs hm).keeps.guarded ((passes_needKernel s).keeps fun _ h => ?_)⟩
  rw [h]
  refine (quiet_frame (ls := ls) fun _ => hs).readsC trivial fun r s1 hr f1 => Keeps.faultPoison.ite ?_
  have f2 : Frame (loud ls P alone s) s s1 := f1.loud hm
  split
  · exact .faultAddr
  · rename_i t off hpl
    by_cases ht : t = s1.myCk
    · subst ht
      refine Keeps.faultAddr.ite (.ite (Keeps.srLocal (Keeps.floorToAll (Frame.keeps (f2.placeNum ha (.inl rfl) fun a hab => ?_)))) f2.keeps.srLocal)
      exact hP a ⟨r, s1, off, hr, hpl, f1.myCk ▸ hab⟩
    · rw [if_pos (.inl ht)]
      exact .faultAddr
  · exact .faultAddr

end

end Sys2Proof.WordFrames
end

section
/-! PROOFS. The words and their units, and what each word leaves alone (O57). -/

namespace Sys2Proof.WordFrames

open Sys2Proof.Machine Sys2Proof.Claims Sys2Proof.Laws

/-! ### The fields of a word that name its unit and its sources -/

/-- The operand latches of the unit DU `n`. -/
def duLatches : Nat → List Latch
  | 1 => [.iaO]
  | 2 => [.ibO]
  | 3 => [.faO]
  | 5 => [.mxA, .mxB]
  | 6 => [.lsD]
  | 7 => [.atO, .lsD]
  | 8 => [.ceS, .ceD, .ceN, .ceB, .ceM]
  | 9 => [.sqD, .sqH]
  | 10 => [.syA, .syB, .syL]
  | _ => []

/-- The operand latch of the unit AU `n`. -/
def auLatches : Nat → List Latch
  | 0 => [.iaO]
  | 1 => [.ibO]
  | 2 => [.faO]
  | _ => []

/-- The latches of the three scalar units. -/
def scalarLatches : List Latch := [.iaO, .ibO, .faO]

theorem duLatches_scalar {n : Nat} (h : 1 ≤ n ∧ n ≤ 3) : ∀ l ∈ duLatches n, l ∈ scalarLatches := by
  obtain ⟨h1, h3⟩ := h
  obtain rfl | rfl | rfl : n = 1 ∨ n = 2 ∨ n = 3 := by omega
  all_goals decide

theorem auLatches_scalar {n : Nat} (h : n ≤ 2) : ∀ l ∈ auLatches n, l ∈ scalarLatches := by
  obtain rfl | rfl | rfl : n = 0 ∨ n = 1 ∨ n = 2 := by omega
  all_goals decide

theorem toNat_extract (w : Word32) (a n : Nat) : (w.extractLsb' a n).toNat = w.toNat / 2 ^ a % 2 ^ n := by
  rw [BitVec.extractLsb'_toNat, Nat.shiftRight_eq_div_pow]

section
variable (c : CWord) (a : AWord)

theorem wordLatches_packC : wordLatches (packC c) = duLatches c.du.toNat := by
  unfold wordLatches isA
  rw [packC_bit31, if_neg Bool.false_ne_true, unpackC_packC]
  rfl

theorem wordLatches_packA : wordLatches (packA a) = auLatches a.au.toNat := by
  unfold wordLatches isA
  rw [packA_bit31, if_pos rfl, unpackA_packA]
  rfl

theorem packC_du : (packC c).toNat / 2 ^ 18 % 16 = c.du.toNat :=
  (toNat_extract _ 18 4).symm.trans (congrArg (fun c => c.du.toNat) (unpackC_packC c))

theorem packC_is : (packC c).toNat % 2 ^ 12 = c.is.toNat := by
  have h := (toNat_extract _ 0 12).symm.trans (congrArg (fun c => c.is.toNat) (unpackC_packC c))
  rwa [Nat.pow_zero, Nat.div_one] at h

theorem packA_au : (packA a).toNat / 2 ^ 23 % 8 = a.au.toNat :=
  (toNat_extract _ 23 3).symm.trans (congrArg (fun a => a.au.toNat) (unpackA_packA a))

theorem packA_os : (packA a).toNat / 2 ^ 7 % 2 ^ 7 = a.os.toNat :=
  (toNat_extract _ 7 7).symm.trans (congrArg (fun a => a.os.toNat) (unpackA_packA a))

theorem packA_ts : (packA a).toNat % 2 ^ 7 = a.ts.toNat := by
  have h := (toNat_extract _ 0 7).symm.trans (congrArg (fun a => a.ts.toNat) (unpackA_packA a))
  rwa [Nat.pow_zero, Nat.div_one] at h

theorem namesStream_packA : namesStream (packA a) = decide (a.ts.toNat / 8 = 4 ∨ a.os.toNat / 8 = 4) := by
  show decide ((packA a).toNat % 2 ^ 7 / 8 = 4 ∨ (packA a).toNat / 2 ^ 7 % 2 ^ 7 / 8 = 4) = _
  rw [packA_ts, packA_os]

end

theorem csrcBits_stream (j : Fin 8) : (csrcBits (.q j)).toNat / 8 = 192 := by
  revert j
  decide

theorem asrcBits_stream (j : Fin 8) : (asrcBits (.q j)).toNat / 8 = 4 := by
  revert j
  decide

/-! ### What one word leaves alone -/

/-- What O57 says of a word of a scalar unit that leads to `t`. -/
def ScalarKeeps (w : Word32) (s t : State) : Prop :=
  (if isA w then (w.toNat / 2 ^ 23) % 8 ≤ 2 else 1 ≤ (w.toNat / 2 ^ 18) % 16 ∧ (w.toNat / 2 ^ 18) % 16 ≤ 3) →
    ((if isA w then namesStream w = false else w.toNat % 2 ^ 12 / 8 ≠ 192) ∨ Undisturbed s) → Keeps (quiet scalarLatches (Undisturbed s) s) s t

/-- The bytes that a word of `i` may write at its issue. -/
def Stores (i : Instr) (s : State) (a : Nat) : Prop := DeferStores s a ∨ WordStores i s a

/-- Where the word of `i` must leave the other strands alone. -/
def Alone (i : Instr) (s : State) : Prop := writesAtIssue i = false ∧ s.heldSets s.cur = 0

/-- What O57 says of a word of any unit that leads to `t`. -/
def WordKeeps (i : Instr) (w : Word32) (s t : State) : Prop :=
  joinsOthers i = false → Undisturbed s → Memory.wf s.mem = true → Keeps (loud (wordLatches w) (Stores i s) (Alone i s) s) s t

/-- What O57 says of the word of `i`, if it has one. -/
def Framed (s : State) (i : Instr) : Prop :=
  ∀ w t, encode i = some w → exec i s = .next t → ScalarKeeps w s t ∧ WordKeeps i w s t

/-- The state that `i` leads to keeps what `p` says. -/
def Leads (p : Permit) (s : State) (i : Instr) : Prop := ∃ t, exec i s = .next t ∧ Keeps p s t

section
variable {s t : State} {i : Instr} {p : Permit} {lo : Bool} {g la du : BitVec 4} {dp op : BitVec 6} {is : BitVec 12} {au d : BitVec 3}
  {os ts : BitVec 7}

theorem Leads.keeps (h : Leads p s i) (hx : exec i s = .next t) : Keeps p s t := by
  obtain ⟨u, hu, hk⟩ := h
  have e : t = u := Host.Outcome.next.inj (hx.symm.trans hu)
  exact e ▸ hk

theorem scalarKeeps_packC {c : CWord} (h : 1 ≤ c.du.toNat ∧ c.du.toNat ≤ 3 → c.is.toNat / 8 ≠ 192 ∨ Undisturbed s →
    Keeps (quiet scalarLatches (Undisturbed s) s) s t) : ScalarKeeps (packC c) s t := by
  unfold ScalarKeeps isA
  rw [packC_bit31, if_neg Bool.false_ne_true, if_neg Bool.false_ne_true, packC_du, packC_is]
  exact h

theorem scalarKeeps_packA {a : AWord} (h : a.au.toNat ≤ 2 → (a.ts.toNat / 8 ≠ 4 ∧ a.os.toNat / 8 ≠ 4) ∨ Undisturbed s →
    Keeps (quiet scalarLatches (Undisturbed s) s) s t) : ScalarKeeps (packA a) s t := by
  unfold ScalarKeeps isA
  rw [packA_bit31, if_pos rfl, if_pos rfl, packA_au, namesStream_packA, decide_eq_false_iff_not, not_or]
  exact h

theorem framed_of_noWord (he : encode i = none) : Framed s i := fun w _ hw _ => by simp [he] at hw

/-- A word that writes no memory at issue. -/
theorem wordKeeps_of_leads {w : Word32} (hx : exec i s = .next t)
    (h : Undisturbed s → Leads (quiet (wordLatches w) True s) s i) : WordKeeps i w s t :=
  fun _ hs hm => ((h hs).keeps hx).imp id (Frame.loud · hm)

/-- A C-word that reads at most its source, of any unit. -/
theorem framed_ofC (he : encode i = some (packC ⟨lo, g, la, du, dp, is⟩))
    (hk : ∀ {p}, Frame p s s → (∀ l ∈ duLatches du.toNat, l ∈ p.latches) → (∀ c, is = csrcBits c → p.calm ∨ ∀ j, c ≠ .q j) → Leads p s i) :
    Framed s i := by
  intro w t hw hx
  obtain rfl := Option.some.inj (he.symm.trans hw)
  refine ⟨scalarKeeps_packC fun hu hst => (hk (quiet_frame id) (duLatches_scalar hu) fun c hc => ?_).keeps hx, wordKeeps_of_leads hx fun hs => ?_⟩
  · refine hst.symm.imp id fun hn j hj => hn ?_
    rw [hc, hj]
    exact csrcBits_stream j
  · exact hk (quiet_frame fun _ => hs) (fun l hl => (wordLatches_packC _).symm ▸ hl) fun _ _ => .inl trivial

/-- An A-word of a scalar unit. -/
theorem framed_ofA (he : encode i = some (packA ⟨lo, g, au, d, op, os, ts⟩))
    (hk : ∀ {p}, Frame p s s → (∀ l ∈ auLatches au.toNat, l ∈ p.latches) → (∀ o, os = asrcBits o → p.calm ∨ ∀ j, o ≠ .q j) →
      (∀ o, ts = asrcBits o → p.calm ∨ ∀ j, o ≠ .q j) → Leads p s i) :
    Framed s i := by
  intro w t hw hx
  obtain rfl := Option.some.inj (he.symm.trans hw)
  refine ⟨scalarKeeps_packA fun hu hst => (hk (quiet_frame id) (auLatches_scalar hu) (fun o ho => ?_) fun o ho => ?_).keeps hx,
    wordKeeps_of_leads hx fun hs => ?_⟩
  · refine hst.symm.imp id fun hn j hj => hn.2 ?_
    rw [ho, hj]
    exact asrcBits_stream j
  · refine hst.symm.imp id fun hn j hj => hn.1 ?_
    rw [ho, hj]
    exact asrcBits_stream j
  · exact hk (quiet_frame fun _ => hs) (fun l hl => (wordLatches_packA _).symm ▸ hl) (fun _ _ => .inl trivial) fun _ _ => .inl trivial

/-! ### The words of the other units: DU 0 and 4 to 15, and AU 3 -/

theorem scalarKeeps_of_outside {c : CWord} (ho : ¬(1 ≤ c.du.toNat ∧ c.du.toNat ≤ 3)) : ScalarKeeps (packC c) s t :=
  scalarKeeps_packC fun hu => absurd hu ho

/-- A word of the vector unit. -/
theorem framed_vector (he : encode i = some (packA ⟨lo, g, 3#3, d, op, os, ts⟩)) (hk : ∀ {p}, Frame p s s → p.calm → Leads p s i) : Framed s i := by
  intro w t hw hx
  obtain rfl := Option.some.inj (he.symm.trans hw)
  exact ⟨scalarKeeps_packA fun hu => absurd hu (show ¬(3#3).toNat ≤ 2 by decide), wordKeeps_of_leads hx fun hs => hk (quiet_frame fun _ => hs) trivial⟩

/-- The exchange of the vector unit, of which O57 says nothing. -/
theorem framed_exchange (he : encode i = some (packA ⟨lo, g, 3#3, d, op, os, ts⟩)) (hj : joinsOthers i = true) : Framed s i := by
  intro w t hw _
  obtain rfl := Option.some.inj (he.symm.trans hw)
  exact ⟨scalarKeeps_packA fun hu => absurd hu (show ¬(3#3).toNat ≤ 2 by decide), fun h => absurd (hj.symm.trans h) (by decide)⟩

section
variable (he : encode i = some (packC ⟨lo, g, la, du, dp, is⟩)) (ho : ¬(1 ≤ du.toNat ∧ du.toNat ≤ 3))
include he ho

/-- A word that writes nothing at issue. -/
theorem framed_quiet (hk : ∀ {p}, Frame p s s → p.calm → (∀ l ∈ duLatches du.toNat, l ∈ p.latches) → Leads p s i) : Framed s i := by
  intro w t hw hx
  obtain rfl := Option.some.inj (he.symm.trans hw)
  exact ⟨scalarKeeps_of_outside ho, wordKeeps_of_leads hx fun hs =>
    hk (quiet_frame fun _ => hs) trivial fun l hl => (wordLatches_packC _).symm ▸ hl⟩

/-- A word that a task holding a set defers. -/
theorem framed_deferred (hk : ∀ {q p}, Defers q p s → Frame q s s → (∀ l ∈ duLatches du.toNat, l ∈ p.latches) → Leads p s i) : Framed s i := by
  intro w t hw hx
  obtain rfl := Option.some.inj (he.symm.trans hw)
  refine ⟨scalarKeeps_of_outside ho, fun _ hs hm => (hk (defers hm (fun _ => .inl) And.right) (quiet_frame fun _ => hs) ?_).keeps hx⟩
  exact fun l hl => (wordLatches_packC _).symm ▸ hl

/-- A word that writes memory at its issue. -/
theorem framed_writes (hw : writesAtIssue i = true)
    (hk : Undisturbed s → Memory.wf s.mem = true → ¬Alone i s → ∀ {ls}, (∀ l ∈ duLatches du.toNat, l ∈ ls) →
      Leads (loud ls (Stores i s) (Alone i s) s) s i) : Framed s i := by
  intro w t he' hx
  obtain rfl := Option.some.inj (he.symm.trans he')
  refine ⟨scalarKeeps_of_outside ho, fun _ hs hm => (hk hs hm (fun h => ?_) fun l hl => (wordLatches_packC _).symm ▸ hl).keeps hx⟩
  exact absurd (hw.symm.trans h.1) (by decide)

/-- A word of which O57 says nothing. -/
theorem framed_joins (hj : joinsOthers i = true) : Framed s i := by
  intro w t hw _
  obtain rfl := Option.some.inj (he.symm.trans hw)
  exact ⟨scalarKeeps_of_outside ho, fun h => absurd (hj.symm.trans h) (by decide)⟩

end

end

end Sys2Proof.WordFrames
end

section
/-! PROOFS. Every word leaves alone what O57 says it does. -/

namespace Sys2Proof.WordFrames

open Sys2Proof.Machine Sys2Proof.Claims Sys2Proof.Laws

/-- One line for each shape of a word; an event has no word. -/
theorem framed {s : State} {i : Instr} : Framed s i :=
  match i with
  | .mov .. | .ceCPop .. | .movIaO .. | .movIbO .. | .movFaO .. | .movMxA .. | .movMxB .. | .movLsD .. | .movAtO .. | .movCeS .. | .movCeD ..
  | .movCeN .. | .movCeB .. | .movCeM .. | .movSqD .. | .movSqH .. | .movSyA .. | .movSyB .. | .movSyL .. | .writeRng .. =>
    framed_ofC rfl fun f _ hc => ⟨_, rfl, f.moveC (hc _ rfl)⟩
  | .movPw .. => framed_ofC rfl fun f _ hc => ⟨_, rfl, f.movePw (hc _ rfl)⟩
  | .movVt .. | .vset .. => framed_ofC rfl fun f _ hc => ⟨_, rfl, f.moveVt (hc _ rfl)⟩
  | .ldi .. | .ldih .. => framed_ofC rfl fun f _ _ => ⟨_, rfl, f.keeps.guarded f.keeps.write⟩
  | .iaAddC .. | .iaSubC .. | .iaAndC .. | .iaOrC .. | .iaXorC .. | .iaAndnC .. | .iaShlC .. | .iaShrC .. | .iaSarC .. | .iaRotlC ..
  | .iaMinC .. | .iaMaxC .. | .iaMinuC .. | .iaMaxuC .. | .iaLea1C .. | .iaLea2C .. | .iaLea4C .. | .iaLea8C .. | .iaCmpeqC .. | .iaCmpneC ..
  | .iaCmpltC .. | .iaCmpltuC .. | .iaCmpleC .. | .iaCmpleuC .. | .iaSelC .. | .iaSettagC .. | .iaTileC .. | .iaGownC .. | .ibMulC ..
  | .ibMulhC .. | .ibMulhuC .. | .ibDivC .. | .ibDivuC .. | .ibRemC .. | .ibRemuC .. | .ibCrc32cC .. | .faFminC .. | .faFmaxC ..
  | .faFcmpeqC .. | .faFcmpltC .. | .faFcmpleC .. | .faFcmpunC .. => framed_ofC rfl fun f hl hc => ⟨_, rfl, f.trigC (hl _ (by decide)) (hc _ rfl)⟩
  | .iaSext8C .. | .iaSext16C .. | .iaSext32C .. | .iaZext8C .. | .iaZext16C .. | .iaZext32C .. | .iaClzC .. | .iaCtzC .. | .iaPopcC ..
  | .iaBswapC .. | .iaGettagC .. | .faFabsC .. | .faFnegC .. | .faFrombf16C .. | .faFromqn4C .. =>
    framed_ofC rfl fun f hl _ => ⟨_, rfl, f.trigC1 (hl _ (by decide))⟩
  | .faFaddC .. | .faFsubC .. | .faFmulC .. | .faFdivC .. => framed_ofC rfl fun f hl hc => ⟨_, rfl, f.faC (hl _ (by decide)) (hc _ rfl)⟩
  | .faFsqrtC .. | .faFrcpC .. | .faFrsqC .. | .faTobf16C .. | .faToe4m3C .. => framed_ofC rfl fun f hl _ => ⟨_, rfl, f.faC1 (hl _ (by decide))⟩
  | .ibMulaccC .. => framed_ofC rfl fun f hl hc => ⟨_, rfl, f.opC (hc _ rfl) fun f => Frame.mulaccOp f (hl _ (by decide))⟩
  | .faFmaC .. => framed_ofC rfl fun f hl hc => ⟨_, rfl, f.opC (hc _ rfl) fun f => Frame.fmaOp f (hl _ (by decide))⟩
  | .faCvtifC .. | .faCvtfiC .. => framed_ofC rfl fun f hl hc => ⟨_, rfl, f.opC (hc _ rfl) fun f => Frame.cvtOp f (hl _ (by decide))⟩
  | .faSclC .. => framed_ofC rfl fun f hl hc => ⟨_, rfl, f.opC (hc _ rfl) fun f => Frame.sclOp f (hl _ (by decide))⟩
  | .iaAdd .. | .iaSub .. | .iaAnd .. | .iaOr .. | .iaXor .. | .iaAndn .. | .iaShl .. | .iaShr .. | .iaSar .. | .iaRotl .. | .iaMin ..
  | .iaMax .. | .iaMinu .. | .iaMaxu .. | .iaLea1 .. | .iaLea2 .. | .iaLea4 .. | .iaLea8 .. | .iaSel .. | .iaSettag .. | .iaTile ..
  | .iaGown .. | .ibMul .. | .ibMulh .. | .ibMulhu .. | .ibDiv .. | .ibDivu .. | .ibRem .. | .ibRemu .. | .ibCrc32c .. | .faFmin ..
  | .faFmax .. => framed_ofA rfl fun f hl ho hr => ⟨_, rfl, f.trigA (hl _ (by decide)) (ho _ rfl) (hr _ rfl)⟩
  | .iaSext8 .. | .iaSext16 .. | .iaSext32 .. | .iaZext8 .. | .iaZext16 .. | .iaZext32 .. | .iaClz .. | .iaCtz .. | .iaPopc .. | .iaBswap ..
  | .iaGettag .. | .faFabs .. | .faFneg .. | .faFrombf16 .. | .faFromqn4 .. =>
    framed_ofA rfl fun f hl ho _ => ⟨_, rfl, f.trigA1 (hl _ (by decide)) (ho _ rfl)⟩
  | .iaCmpeq .. | .iaCmpne .. | .iaCmplt .. | .iaCmpltu .. | .iaCmple .. | .iaCmpleu .. | .faFcmpeq .. | .faFcmplt .. | .faFcmple ..
  | .faFcmpun .. => framed_ofA rfl fun f hl ho hr => ⟨_, rfl, f.cmpA (hl _ (by decide)) (ho _ rfl) (hr _ rfl)⟩
  | .iaPand .. | .iaPor .. | .iaPxor .. | .iaPnot .. | .iaPset .. | .iaPclr .. =>
    framed_ofA rfl fun f hl _ _ => ⟨_, rfl, f.predOp (hl _ (by decide))⟩
  | .faFadd .. | .faFsub .. | .faFmul .. | .faFdiv .. => framed_ofA rfl fun f hl ho hr => ⟨_, rfl, f.faA (hl _ (by decide)) (ho _ rfl) (hr _ rfl)⟩
  | .faFsqrt .. | .faFrcp .. | .faFrsq .. | .faTobf16 .. | .faToe4m3 .. =>
    framed_ofA rfl fun f hl ho _ => ⟨_, rfl, f.faA1 (hl _ (by decide)) (ho _ rfl)⟩
  | .ibMulacc .. => framed_ofA rfl fun f hl ho hr => ⟨_, rfl, f.opA (ho _ rfl) (hr _ rfl) fun f => Frame.mulaccOp f (hl _ (by decide))⟩
  | .faFma .. => framed_ofA rfl fun f hl ho hr => ⟨_, rfl, f.opA (ho _ rfl) (hr _ rfl) fun f => Frame.fmaOp f (hl _ (by decide))⟩
  | .faCvtif .. | .faCvtfi .. => framed_ofA rfl fun f hl ho hr => ⟨_, rfl, f.opA (ho _ rfl) (hr _ rfl) fun f => Frame.cvtOp f (hl _ (by decide))⟩
  | .faScl .. => framed_ofA rfl fun f hl ho hr => ⟨_, rfl, f.opA (ho _ rfl) (hr _ rfl) fun f => Frame.sclOp f (hl _ (by decide))⟩
  | .vxAdd .. | .vxSub .. | .vxMul .. | .vxMulh .. | .vxFma .. | .vxFms .. | .vxNfma .. | .vxMin .. | .vxMax .. | .vxAnd .. | .vxOr ..
  | .vxXor .. | .vxShl .. | .vxShr .. | .vxSar .. | .vxCmpeq .. | .vxCmpne .. | .vxCmplt .. | .vxCmple .. | .vxSel .. | .vxWadd ..
  | .vxWmul .. | .vxPerm .. | .vxSacc .. => framed_vector rfl fun f hc => ⟨_, rfl, f.vecOp (f.two hc)⟩
  | .vxAbs .. | .vxNeg .. | .vxCvt .. | .vxSum .. | .vxMaxr .. | .vxMinr .. | .vxExp2 .. | .vxLog2 .. | .vxRcp .. | .vxRsq .. | .vxTanh ..
  => framed_vector rfl fun f hc => ⟨_, rfl, f.vecOp (f.one hc)⟩
  | .vxShuf .. | .vxBcast .. | .vxSlide .. => framed_vector rfl fun f hc => ⟨_, rfl, f.vecOp (f.vecScal hc)⟩
  | .vxIota .. => framed_vector rfl fun f hc => ⟨_, rfl, f.vecOp (f.scals hc)⟩
  | .vxSexp .. => framed_vector rfl fun f hc => ⟨_, rfl, f.vecOp (f.regScal hc)⟩
  | .vxDecq .. | .vxEncq .. => framed_vector rfl fun f _ => ⟨_, rfl, f.vecOp f.reg1⟩
  | .vxPopcm .. | .vxMmov .. => framed_vector rfl fun f _ => ⟨_, rfl, f.vecOp f.msk1⟩
  | .vxNarrow .. => framed_vector rfl fun f _ => ⟨_, rfl, f.vecOp f.group1⟩
  | .vpfx .. => framed_quiet rfl (by decide) fun f _ _ => ⟨_, rfl, (Frame.updMe f (by rfl)).keeps⟩
  | .vlds .. | .vgth .. => framed_quiet rfl (by decide) fun f hc _ => ⟨_, rfl, f.loadElems hc⟩
  | .vld .. => framed_quiet rfl (by decide) fun f hc _ => ⟨_, rfl, f.vld hc⟩
  | .kld .. => framed_quiet rfl (by decide) fun f hc _ => ⟨_, rfl, f.kld hc⟩
  | .vsts .. | .vsct .. => framed_deferred rfl (by decide) fun d f _ => ⟨_, rfl, d.storeElems f⟩
  | .mxFree .. => framed_quiet rfl (by decide) fun f _ hl => ⟨_, rfl, f.mxFree hl⟩
  | .mxLdaBf16 .. | .mxLdaE4m3 .. | .mxLdaE5m2 .. | .mxLdaI8 .. | .mxLdaF32 .. | .mxLdbBf16 .. | .mxLdbE4m3 .. | .mxLdbE5m2 .. | .mxLdbI8 ..
  | .mxLdbF32 .. | .mxLdbQn4 .. => framed_quiet rfl (by decide) fun f hc hl => ⟨_, rfl, f.mxLoad hl hc⟩
  | .mxMmaM64n64k32Bf16 .. | .mxMmaM32n64k32Bf16 .. | .mxMmaM16n64k32Bf16 .. | .mxMmaM64n64k64E4m3 .. | .mxMmaM64n64k64E5m2 ..
  | .mxMmaM64n64k64Mix8 .. | .mxMmaM64n64k64I8 .. | .mxMmaM64n64k64Qn4 .. | .mxMmaM16n64k64Qn4 .. | .mxMmaM64n64k8F32 .. | .mxChainBf16 ..
  | .mxChainE4m3 .. => framed_quiet rfl (by decide) fun f hc hl => ⟨_, rfl, f.mxProduct hl hc⟩
  | .mxZero .. | .mxChk .. => framed_quiet rfl (by decide) fun f hc hl => ⟨_, rfl, f.mxSlot hl hc⟩
  | .mxLease .. => framed_quiet rfl (by decide) fun f hc hl => execMxLease_keeps f hl hc
  | .mxDrain .. => framed_quiet rfl (by decide) fun f hc hl => execMxDrain_keeps f hl hc
  | .mxDrainv .. => framed_quiet rfl (by decide) fun f hc hl => execMxDrainv_keeps f hl hc
  | .mxInject .. => framed_quiet rfl (by decide) fun f hc hl => execMxInject_keeps f hl hc
  | .lsLd8s .. | .lsLd8u .. | .lsLd16s .. | .lsLd16u .. | .lsLd32s .. | .lsLd32u .. | .lsLd64 .. | .lsLdp .. =>
    framed_quiet rfl (by decide) fun f hc _ => ⟨_, rfl, f.loadScalar hc⟩
  | .lsSt8 .. | .lsSt16 .. | .lsSt32 .. | .lsSt64 .. | .lsStp .. =>
    framed_deferred rfl (by decide) fun d f hl => ⟨_, rfl, d.storeScalar f (hl _ (by decide))⟩
  | .ceCopy .. | .ceCopy2d .. | .ceMcast .. | .ceRedb .. | .ceRedf .. | .ceCopyq .. | .ceCopyb .. =>
    framed_deferred rfl (by decide) fun d f hl => ⟨_, rfl, d.cePush f hl⟩
  | .syArrive .. | .syArrivb .. => framed_deferred rfl (by decide) fun d f hl => ⟨_, rfl, d.arriveTrigger f hl⟩
  | .ctBr .. | .ctBrAbs .. => framed_quiet rfl (by decide) fun f hc _ => ⟨_, rfl, f.branchTrigger hc⟩
  | .ctCall .. | .ctCallAbs .. => framed_quiet rfl (by decide) fun f hc _ => ⟨_, rfl, f.callTrigger hc⟩
  | .ctNop .. => framed_quiet rfl (by decide) fun f _ _ => ⟨_, rfl, f.keeps.guarded f.keeps⟩
  | .ctChunk .. => framed_quiet rfl (by decide) fun f _ _ => ⟨_, rfl, f.keeps.guarded f.keeps.close⟩
  | .atAdd32 .. | .atAdd64 .. | .atFadd32 .. | .atFadd16b .. | .atMin32 .. | .atMax32 .. | .atMinu32 .. | .atMaxu32 .. | .atAnd64 ..
  | .atOr64 .. | .atXor64 .. | .atSwp64 .. | .atCas64 .. | .atFinc .. | .atRedAdd32 .. | .atRedAdd64 .. | .atRedFadd32 .. | .atRedFadd16b ..
  => framed_writes rfl (by decide) rfl fun hs hm ha _ hl => ⟨_, rfl, atTrigger_keeps hs hm ha hl (fun _ => .inl) fun _ => .inr⟩
  | .sqPop .. | .sqPeek .. => framed_writes rfl (by decide) rfl fun hs hm ha _ hl => ⟨_, rfl, popTrigger_keeps hs hm ha hl fun _ => .inr⟩
  | .sqRqpush .. => framed_writes rfl (by decide) rfl fun hs hm ha _ hl => execSqRqpush_keeps hs hm ha hl fun _ => .inr
  | .sqRqprio .. => framed_writes rfl (by decide) rfl fun hs hm ha _ hl => execSqRqprio_keeps hs hm ha hl fun _ => .inr
  | .srAckfloor .. => framed_writes rfl (by decide) rfl fun hs hm ha _ _ => execSrAckfloor_keeps hs hm ha fun _ => .inr
  | .lsPf .. => framed_quiet rfl (by decide) fun f hc _ => execLsPf_keeps f hc
  | .qsBind .. => framed_quiet rfl (by decide) fun f hc _ => execQsBind_keeps f hc
  | .srWrite .. => framed_quiet rfl (by decide) fun f hc _ => execSrWrite_keeps f hc
  | .writeAlarm .. => framed_quiet rfl (by decide) fun f hc _ => execWriteAlarm_keeps f hc
  | .writeRedpin .. => framed_quiet rfl (by decide) fun f hc _ => execWriteRedpin_keeps f hc
  | .srTlbinv .. => framed_quiet rfl (by decide) fun f hc _ => execSrTlbinv_keeps f hc
  | .ctJmp .. => framed_quiet rfl (by decide) fun f hc _ => execCtJmp_keeps f hc
  | .ctIpf .. => framed_quiet rfl (by decide) fun f hc _ => execCtIpf_keeps f hc
  | .ctTrap .. => framed_quiet rfl (by decide) fun f hc _ => execCtTrap_keeps f hc
  | .ctSstop .. => framed_quiet rfl (by decide) fun f hc _ => execCtSstop_keeps f hc
  | .ctSgo .. => framed_quiet rfl (by decide) fun f hc _ => execCtSgo_keeps f hc
  | .ctSsave .. => framed_quiet rfl (by decide) fun f hc _ => execCtSsave_keeps f hc
  | .ctSload .. => framed_quiet rfl (by decide) fun f hc _ => execCtSload_keeps f hc
  | .ctResume .. => framed_quiet rfl (by decide) fun f hc _ => execCtResume_keeps f hc
  | .qsUnbind .. => framed_quiet rfl (by decide) fun f _ _ => execQsUnbind_keeps f
  | .srPfence .. => framed_quiet rfl (by decide) fun f _ _ => execSrPfence_keeps f
  | .ctRet .. => framed_quiet rfl (by decide) fun f _ _ => execCtRet_keeps f
  | .ctYield .. => framed_quiet rfl (by decide) fun f _ _ => execCtYield_keeps f
  | .ctHalt .. => framed_quiet rfl (by decide) fun f _ _ => execCtHalt_keeps f
  | .ctEfence .. => framed_quiet rfl (by decide) fun f _ _ => execCtEfence_keeps f
  | .vst .. => framed_deferred rfl (by decide) fun d f _ => execVst_keeps d f
  | .kst .. => framed_deferred rfl (by decide) fun d f _ => execKst_keeps d f
  | .qsWrite .. => framed_deferred rfl (by decide) fun d f _ => execQsWrite_keeps d f
  | .sqPush .. => framed_deferred rfl (by decide) fun d f hl => execSqPush_keeps d f hl
  | .sqRqpop .. => framed_deferred rfl (by decide) fun d f hl => execSqRqpop_keeps d f hl
  | .sqSpawn .. => framed_deferred rfl (by decide) fun d f hl => execSqSpawn_keeps d f hl
  | .sqDec .. => framed_deferred rfl (by decide) fun d f hl => execSqDec_keeps d f hl
  | .syBinit .. => framed_deferred rfl (by decide) fun d f hl => execSyBinit_keeps d f hl
  | .syWait .. => framed_deferred rfl (by decide) fun d f hl => execSyWait_keeps d f hl
  | .syTest .. => framed_deferred rfl (by decide) fun d f hl => execSyTest_keeps d f hl
  | .syInval .. => framed_deferred rfl (by decide) fun d f hl => execSyInval_keeps d f hl
  | .syMon .. => framed_deferred rfl (by decide) fun d f hl => execSyMon_keeps d f hl
  | .syUnmon .. => framed_deferred rfl (by decide) fun d f hl => execSyUnmon_keeps d f hl
  | .syMwait .. => framed_deferred rfl (by decide) fun d f hl => execSyMwait_keeps d f hl
  | .atAset .. => framed_deferred rfl (by decide) fun d f hl => execAtAset_keeps d f (hl _ (by decide))
  | .atTok .. => framed_deferred rfl (by decide) fun d f hl => execAtTok_keeps d f (hl _ (by decide))
  | .vxXchg .. => framed_exchange rfl rfl
  | .sqPopw .. | .sqPushw .. | .sqDone .. | .syGbar .. => framed_joins rfl (by decide) rfl
  | .illegalWord .. | .fixedResultVisible .. | .variableResultLand .. | .leaseGrant .. | .leaseIdleLimit .. | .mxCommandAccept ..
  | .mxCommandExecute .. | .cePushAccept .. | .ceCommandStart .. | .ceLineDelivery .. | .ceReduceLine .. | .cePoisonNotice ..
  | .copyqMessagePush .. | .ceCommandComplete .. | .strandControlAct .. | .streamElementArrival .. | .chunkLengthReached ..
  | .weirCommitRequest .. | .weirPrepare .. | .effectIssue .. | .fenceCheck .. | .translationWalk .. | .tlbInvalidationArrival ..
  | .cascadeNumbering .. | .cascadeApply .. | .remoteModuleAccess .. | .remoteEffectMessage .. | .replyResult .. | .replyBusy .. | .replyMoved ..
  | .replyRefuse .. | .retransmitTimeout .. | .busyRetryTimer .. | .ownerBusyLimit .. | .floorNotice .. | .stashRefillRequest ..
  | .stashRefillAnswer .. | .reductionTake .. | .reductionDownwardReceive .. | .reductionRoundEnd .. | .launchExpansion .. | .launchStalled ..
  | .waitExpired .. | .queueRetry .. | .sluiceGovernorTick .. | .setAcquireRequest .. | .setGrant .. | .woundRollback .. | .setRelease ..
  | .droopStretch .. | .supplyRecovery .. | .timeReferencePulse .. | .timeReferenceLost .. | .alarmFire .. | .boundaryFlitCrossing ..
  | .linkFlitCrcError .. | .slip .. | .fetchFillArrival .. | .fetchRetryTimeout .. | .moduleStart .. | .selfTest .. | .partitionCreate ..
  | .domainAgreement .. | .faultRingDeliver .. | .writeFaultRingBase .. | .systemWindowStore .. | .debugResume .. | .debugStep .. | .debugKill ..
  | .preemptRequest .. | .preemptSave .. | .preemptGraceExpiry .. | .partitionRestore .. | .hostDoorbell .. | .hostCmdLaunch .. | .hostCmdCopy ..
  | .hostCmdSignal .. | .hostCmdWait .. | .hostWaitPoll .. | .hostWaitLimit .. | .hostQueueResume .. | .attestationRequest .. | .scrubTick ..
  | .errorFclr .. | .errorCclr .. | .watchdogFire .. | .rimScrub .. | .boundaryStart .. | .boundaryRecord .. | .boundaryApply ..
  | .boundaryDurable .. | .boundaryAbandon .. | .boundaryRetry .. | .logRecord .. | .recoveryStart .. | .recoveryReplay ..
  | .routerEntryPending .. | .routerEntryCommit .. | .routerAckTimeout .. | .routerEntryDoubleError .. | .forwardWindowExpiry .. | .strandSwap ..
  | .groupUnreachable .. | .basinDrain .. | .basinStop .. | .basinMigrate .. | .basinRemapPrepare .. | .basinRemapCommit .. | .basinReturn ..
  | .basinBoundaryNow .. | .basinFail .. | .partitionDestroy .. | .rimChannelWorldSet .. => framed_of_noWord rfl

/-! ### The statement -/

section
variable {s t : State} {ls : List Latch}

theorem Own.fields {c d : Ctx} (h : Own ls c d) :
    d.g = c.g ∧ d.pw = c.pw ∧ d.pc = c.pc ∧ d.second = c.second ∧ d.vt = c.vt ∧ d.v = c.v ∧ d.k = c.k ∧ d.mxSt = c.mxSt ∧ d.sqSt = c.sqSt ∧
      d.fx = c.fx ∧ ∀ l, l ∉ ls → d.latch l = c.latch l := by
  have hr := h.regs
  simp only [regsOf, Prod.mk.injEq] at hr
  obtain ⟨hg, hpw, hpc, hsecond, hvt, hv, hk, hmx, hsq, hfx⟩ := hr
  exact ⟨hg, hpw, hpc, hsecond, hvt, hv, hk, hmx, hsq, hfx, h.latch⟩

theorem not_mem_scalarLatches {l : Latch} (ha : l ≠ .iaO) (hb : l ≠ .ibO) (hf : l ≠ .faO) : l ∉ scalarLatches := by
  simp only [scalarLatches, List.mem_cons, List.not_mem_nil, ha, hb, hf, or_self, not_false_eq_true]

end

/-- Settles O57: every word leads to a state in its frame, or its bundle is held back. -/
theorem wordsFrame : Obligations.WordsFrame := by
  unfold Obligations.WordsFrame
  constructor
  · intro i w s t he hu hst hx hheld
    obtain hh | f := (framed w t he hx).1 hu hst
    · exact absurd (hheld.symm.trans hh) (by decide)
    have hm : t.mem = s.mem := f.memory
    obtain ⟨hg, hpw, hpc, hsecond, hvt, hv, hk, hmx, hsq, hfx, hlat⟩ := f.own.fields
    exact ⟨fun a => hm ▸ rfl, f.others trivial, hg, hpw, hpc, hsecond, hvt, hv, hk, hmx, hsq, hfx,
      fun l ha hb hf => hlat l (not_mem_scalarLatches ha hb hf)⟩
  · intro i w s t he hj hs hm hx hheld
    obtain hh | f := (framed w t he hx).2 hj hs hm
    · exact absurd (hheld.symm.trans hh) (by decide)
    exact ⟨fun a hd hw => f.memory.2 a (not_or.mpr ⟨hd, hw⟩), fun hw hh => f.others ⟨hw, hh⟩, f.own.fields⟩

end Sys2Proof.WordFrames
end
